-- ==== Sys2Proof/Word.lean ====
section
/-!
DEFINITION. The word types of the package and the sparse table every store of State is made of. -/

namespace Sys2Proof

abbrev Byte := BitVec 8
abbrev Half := BitVec 16
abbrev Word := BitVec 32
abbrev Dword := BitVec 64

/-- A sparse store: pairs of a key and a value, keys strictly rising, no entry equal to the store's default
value. Two equal stores are equal data. -/
abbrev Table (α : Type) := List (Nat × α)

end Sys2Proof
end

