-- ==== Sys2Proof/Syntax.lean ====
section
/-!
DEFINITION. The commands of the block: one constructor of Instr per row of spec/opcode_table.json, with the operands the
row's rule gives it. Unit numbers, queue-pair indices and addresses are Nat (WellFormed bounds them); fields of an
encoded bed instruction are bit vectors of the width R116 to R121 give. -/

namespace Sys2Proof

/-- Where a bed instruction issues: pan, bed, rake slot (0 to 47) and the group of that rake (R123, R125). -/
structure At where
  pan   : Nat
  bed   : Nat
  slot  : Nat
  group : Nat
  deriving DecidableEq, Repr

/-- The guard fields every bed instruction carries (R114). -/
structure Guard where
  g  : BitVec 3
  gn : BitVec 1
  deriving DecidableEq, Repr

/-- Format V (R116). -/
structure VFmt where
  gd    : Guard
  vd    : BitVec 8
  va    : BitVec 8
  vb    : BitVec 8
  vc    : BitVec 8
  type  : BitVec 4
  bmode : BitVec 2
  pd    : BitVec 3
  pw    : BitVec 1
  rnd   : BitVec 2
  sat   : BitVec 1
  na    : BitVec 1
  nb    : BitVec 1
  nc    : BitVec 1
  sub   : BitVec 4
  deriving DecidableEq, Repr

/-- Format S (R117); rsv is bit [32]. -/
structure SFmt where
  gd    : Guard
  sd    : BitVec 6
  sa    : BitVec 6
  sb    : BitVec 6
  imm   : BitVec 1
  rsv   : BitVec 1
  imm32 : BitVec 32
  deriving DecidableEq, Repr

/-- Format C (R118): the guard and the 52 format-specific bits, whose fields each instruction names for itself. -/
structure CFmt where
  gd   : Guard
  body : BitVec 52
  deriving DecidableEq, Repr

/-- Format M (R119). -/
structure MFmt where
  gd     : Guard
  vd     : BitVec 8
  va     : BitVec 8
  vb     : BitVec 8
  size   : BitVec 4
  space  : BitVec 2
  order  : BitVec 2
  scope  : BitVec 2
  aop    : BitVec 4
  offset : BitVec 14
  deriving DecidableEq, Repr

/-- Format L (R120). -/
structure LFmt where
  gd    : Guard
  pm    : BitVec 7
  sbase : BitVec 3
  vd    : BitVec 8
  va    : BitVec 8
  vb    : BitVec 8
  type  : BitVec 4
  sub   : BitVec 4
  imm10 : BitVec 10
  deriving DecidableEq, Repr

/-- Format R (R120). -/
structure RFmt where
  gd    : Guard
  pm    : BitVec 7
  sbase : BitVec 3
  sd    : BitVec 6
  sub   : BitVec 4
  imm32 : BitVec 32
  deriving DecidableEq, Repr

/-- Format X (R121): the mask and scalar base, and the 42 bits whose fields the matrix instruction names. -/
structure XFmt where
  gd    : Guard
  pm    : BitVec 7
  sbase : BitVec 3
  body  : BitVec 42
  deriving DecidableEq, Repr

/-- Privilege level of a core access (R231). -/
inductive Priv where
  | user | supervisor | hypervisor
  deriving DecidableEq, Repr

/-- The translation context a core access runs in: the root of the core's page table (none: the address is physical), the root of
the second stage of a guest's translation (R334), and its address space, which the instruction set reference keeps, and the
privilege level. -/
structure CoreCtx where
  root : Option Nat
  root2 : Option Nat := none
  asid : Nat
  priv : Priv
  deriving DecidableEq, Repr

/-- One access of a core: its number (R227), the context, the address, the size in bytes, and whether it is a vector
access with elements of elem bytes (R263). -/
structure CoreAcc where
  core : Nat
  ctx  : CoreCtx
  va   : Dword
  size : Nat
  vec  : Bool := false
  elem : Nat := 8
  deriving DecidableEq, Repr

/-- The read-modify-write operations of the core's ATM instructions (R265). -/
inductive AtmOp where
  | add | min | max | umin | umax | and | or | xor | exch
  deriving DecidableEq, Repr

/-- A unit with a clock and rail of its own (R441). -/
inductive ClockUnit where
  | pan (p : Nat)
  | core (d : Nat)
  deriving DecidableEq, Repr

/-- A rail of R438. -/
inductive Rail where
  | vctl | vstk | vio | vdram | vlp1 | vlp05 | vddql | vcore (d : Nat) | vpan (p : Nat) | bus12
  deriving DecidableEq, Repr

/-- What a power sensor of R444 stands on. -/
inductive Sensor where
  | pan (p : Nat)
  | core (d : Nat)
  | input
  | other
  deriving DecidableEq, Repr

/-- One measured and estimated pair of R444, in W. -/
structure Reading where
  measured : Nat
  estimate : Nat
  deriving DecidableEq, Repr

/-- What the power controller reads at one run (R444): the last-millisecond and last-ten-millisecond averages are its
own; the telemetry of one run comes from the rails. -/
structure Telemetry where
  pans     : List Reading
  cores    : List Reading
  other    : Reading
  input    : Reading
  loss     : Nat
  avg10ms  : Nat
  avg1ms   : Nat
  inputMv  : Nat
  deriving DecidableEq, Repr

/-- Transports of PTP messages (R30). -/
inductive PtpTransport where
  | udp4 | udp6 | ethernet | other
  deriving DecidableEq, Repr

/-- A PTP message as the precision-time unit hands it on (R30, R31). rank orders masters under the best master clock
algorithm, the lower the better. offsetNs is the filtered difference between the arrival and the departure of a Sync, or of the Sync
that a Follow_Up completes, and the filtered path delay that a delay response gives. -/
inductive PtpKind where
  | announce | sync | followUp | delayResp | pdelayResp | management | other
  deriving DecidableEq, Repr

structure PtpMsg where
  port     : Nat
  kind     : PtpKind
  domain   : Nat
  arb      : Bool
  authOk   : Bool
  master   : Nat
  rank     : Nat
  offsetNs : Int
  twoStep  : Bool := false
  seq      : Nat := 0
  logSync  : Int := 0
  transport : PtpTransport := .udp4
  deriving DecidableEq, Repr

/-- A control message of R356 as it arrives at a port: header fields, body, and whether its tag verifies. -/
structure ControlMsg where
  port     : Nat
  pcp      : Nat
  magic    : Word
  version  : Half
  type     : Half
  length   : Nat
  keyIndex : Nat
  mailbox  : Nat
  reserved : Bool
  sender   : Dword
  sequence : Nat
  planId   : Dword
  body     : List Byte
  tagOk    : Bool
  deriving DecidableEq, Repr

/-- Where a STOP_ALL comes from: a mailbox the flag scanner latched, or a control engine's stop message (R360, R402). -/
inductive StopSource where
  | mailbox (box : Nat)
  | engine (m : ControlMsg)
  deriving DecidableEq, Repr

/-- The request part of an incoming RoCE v2 message (R370). psn is that of its first packet. -/
structure RoceMsg where
  port   : Nat
  qpn    : Nat
  psn    : Nat
  va     : Nat
  rkey   : Word
  len    : Nat
  data   : List Byte
  imm    : Word
  icrcOk : Bool
  ecnCe  : Bool
  opOk   : Bool
  deriving DecidableEq, Repr

/-- A raw Ethernet frame (R361). -/
structure RawFrame where
  port      : Nat
  pcp       : Nat
  fcsOk     : Bool
  etherType : Nat
  udpPort   : Option Nat
  destQpn   : Option Nat
  bytes     : List Byte
  deriving DecidableEq, Repr

/-- Why a NAK was sent by the peer (R366, R374). -/
inductive NakKind where
  | sequence
  | rnr (timer : Nat)
  | remoteAccess
  | invalidRequest
  | operational
  deriving DecidableEq, Repr

/-- A link module as a link command names it: a die and the number of a module of that die (R21, R22). -/
structure LinkModule where
  /-- die code of R482 -/
  die : Nat
  link : Nat
  deriving DecidableEq, Repr

/-- One direction of a link module: out is false for the direction towards the stockpile die that R22 places at its far end. -/
structure LinkSide where
  link : Nat
  out : Bool
  deriving DecidableEq, Repr

/-- A management frame's request part (R511). -/
structure MgmtFrame where
  tag      : Word
  address  : Nat
  length   : Nat
  reserved : Bool
  data     : List Byte
  deriving DecidableEq, Repr

/-- What an error check of a memory line found (R313, R314). -/
inductive LineCheck where
  | clean | corrected | uncorrectable
  deriving DecidableEq, Repr

/-- A line the scrub of R314 visits. -/
inductive ScrubLine where
  | brine (pan off : Nat)
  | lpd (pa : Nat)
  deriving DecidableEq, Repr

/-- Registers of every block of the manual, by block, unit and register. n is the register's index where the block
has a numbered array of them. A housekeeping register is named with the bytes the I3C transfer carries, 4 being its width (R12,
R507). -/
inductive Reg where
  | bed (p b off : Nat)
  | tide (p off : Nat)
  | grain (p off : Nat)
  | kv (p off : Nat)
  | flood (p off : Nat)
  | brine (p off : Nat)
  | xlat (p off : Nat)
  | core (d c off : Nat)
  | dcache (d off : Nat)
  | lpd (d off : Nat)
  | coh (off : Nat)
  | stk (off : Nat)
  | tally (off : Nat)
  | evt (off : Nat)
  | netPort (i j off : Nat)
  | netQp (i off : Nat)
  | netDb (i q off : Nat)
  | mboxCtl (off : Nat)
  | sysAbtAddr (core : Nat)
  | sysAbtInfo (core : Nat)
  | sysMemctl (core : Nat)
  | sysIdent (core : Nat)
  | sysFeatures (core : Nat)
  | pwr (off : Nat)
  | hk (off bytes : Nat)
  deriving DecidableEq, Repr

/-- What a crust call PROTECT asks for (R457): the mailbox and reserved-granule rules, or anything else. -/
inductive ProtectReq where
  | mailbox
  | granule (g : Nat) (directory : Bool)
  | other
  deriving DecidableEq, Repr

/-- What a liquor access that takes an MPU fault aimed at (R456). -/
inductive MpuTarget where
  | crustSram | keys | protectionTable | counters | measurements
  deriving DecidableEq, Repr

/-- A JTAG instruction loaded into a TAP (R471, R514). -/
inductive TapInstr where
  | bypass | sample | preload | extest
  deriving DecidableEq, Repr

/-- The commands, in the order of spec/opcode_table.json. -/
inductive Instr where
  -- mailbox commands taken by the salter: the operand is the mailbox whose latched request it takes
  | caps (box : Nat)
  | stateQuery (box : Nat)
  | stateEnterMaint (box : Nat)
  | stateLeaveMaint (box : Nat)
  | stateReleasePortHold (box : Nat)
  | planLoad (box : Nat)
  | planLoadFinal (box : Nat)
  | planUnload (box : Nat)
  | tideStart (box : Nat)
  | tideStop (box : Nat)
  | agentAdmit (box : Nat)
  | agentEvict (box : Nat)
  | agentPrefetch (box : Nat)
  | agentAdviseSpill (box : Nat)
  | agentAdviseGrow (box : Nat)
  | agentAdviseRelease (box : Nat)
  | regionRegister (box : Nat)
  | regionRegisterFinal (box : Nat)
  | regionDeregister (box : Nat)
  | regionDeregisterFinal (box : Nat)
  | panOffline (box : Nat)
  | panOfflineComplete (box : Nat)
  | panCutOver (pan : Nat)
  | panOnline (box : Nat)
  | panOnlineComplete (box : Nat) (signature : Dword) (again : Dword)
  | bistRun (box : Nat)
  | bistComplete (box : Nat) (logic mem logicAgain memAgain : Dword)
  | fwStage (box : Nat)
  | fwStageComplete (box : Nat)
  | fwSwitch (box : Nat)
  | attest (box : Nat)
  | windowSet (box : Nat)
  | stopAll (src : StopSource)
  | mboxRequesterWrite (box off : Nat) (val : Dword)
  -- crust
  | verify (pa len type : Nat)
  | extend (m : Nat) (item : List Byte)
  | report (nonce : List Byte)
  | random (n : Nat)
  | repair (entry : List Byte)
  | protect (req : ProtectReq)
  | keyload (die : Nat)
  | drbgReseed (healthy : Bool)
  | mpuFault (target : MpuTarget)
  | heartbeatMiss
  | liquorRestartLimit
  | controlDieSwitchover
  -- tide and time
  | tideTick (n : Nat)
  | watchPoint (n : Nat)
  | skipNotice (m : ControlMsg)
  | planStalled
  | timeSyncMessage (stop : Nat) (driftPs : Int)
  | ptpMessage (m : PtpMsg)
  | ptpLocked
  | syncTimeout
  | holdoverLimit
  | tideInEdge (at_ns : Nat)
  | tideInMissing
  | tideInFallback
  | sourceChange
  -- kernels and blocks
  | kernelStart (pan bed : Nat)
  | blockStart (pan bed index : Nat)
  | blockEnd (pan bed index : Nat)
  | barrierOrphan (pan bed index : Nat)
  -- vector
  | vadd (a : At) (f : VFmt)
  | vsub (a : At) (f : VFmt)
  | vmul (a : At) (f : VFmt)
  | vfma (a : At) (f : VFmt)
  | vmin (a : At) (f : VFmt)
  | vmax (a : At) (f : VFmt)
  | vcmp (a : At) (f : VFmt)
  | vsel (a : At) (f : VFmt)
  | vand (a : At) (f : VFmt)
  | vor (a : At) (f : VFmt)
  | vxor (a : At) (f : VFmt)
  | vshl (a : At) (f : VFmt)
  | vshr (a : At) (f : VFmt)
  | vmov (a : At) (f : VFmt)
  | vcvt (a : At) (f : VFmt)
  | vadd96 (a : At) (f : VFmt)
  | vrcp (a : At) (f : VFmt)
  | vrsq (a : At) (f : VFmt)
  | vexp2 (a : At) (f : VFmt)
  | vlog2 (a : At) (f : VFmt)
  | vsin (a : At) (f : VFmt)
  | vcos (a : At) (f : VFmt)
  | vlane (a : At) (f : VFmt)
  | vbits (a : At) (f : VFmt)
  -- scalar
  | sadd (a : At) (f : SFmt)
  | ssub (a : At) (f : SFmt)
  | smul (a : At) (f : SFmt)
  | sand (a : At) (f : SFmt)
  | sor (a : At) (f : SFmt)
  | sxor (a : At) (f : SFmt)
  | sshl (a : At) (f : SFmt)
  | sshr (a : At) (f : SFmt)
  | smov (a : At) (f : SFmt)
  | smovh (a : At) (f : SFmt)
  | scmp (a : At) (f : SFmt)
  | sread (a : At) (f : SFmt)
  | sfromv (a : At) (f : SFmt)
  -- control
  | bra (a : At) (f : CFmt)
  | brx (a : At) (f : CFmt)
  | call (a : At) (f : CFmt)
  | sbra (a : At) (f : CFmt)
  | exit (a : At) (f : CFmt)
  | syncRake (a : At) (f : CFmt)
  | barBlock (a : At) (f : CFmt)
  | fence (a : At) (f : CFmt)
  | trap (a : At) (f : CFmt)
  | nop (a : At) (f : CFmt)
  -- memory
  | ld (a : At) (f : MFmt)
  | st (a : At) (f : MFmt)
  | atom (a : At) (f : MFmt)
  | atomCas (a : At) (f : MFmt)
  -- collective
  | shfl (a : At) (f : LFmt)
  | vote (a : At) (f : LFmt)
  | bcast (a : At) (f : LFmt)
  | reduce (a : At) (f : LFmt)
  | scan (a : At) (f : LFmt)
  | sample (a : At) (f : LFmt)
  -- matrix
  | mma (a : At) (f : XFmt)
  | mmaDrain (a : At) (f : XFmt)
  | mmaLoad (a : At) (f : XFmt)
  | mmaStat (a : At) (f : XFmt)
  -- grain
  | grainKeyLane (a : At) (f : RFmt)
  | grainKeyDrain (a : At) (f : RFmt)
  | grainDraw (a : At) (f : VFmt)
  | dropmask (a : At) (f : VFmt)
  -- KV, DMA, flood, context
  | kvAppend (a : At) (f : RFmt)
  | kvCommit (a : At) (f : RFmt)
  | kvDiscard (a : At) (f : RFmt)
  | dmaCopy (a : At) (f : RFmt)
  | dmaAgentFetch (a : At) (f : RFmt)
  | dmaAgentSpill (a : At) (f : RFmt)
  | floodQ (a : At) (f : RFmt)
  | ctxSave (a : At) (f : RFmt)
  | ctxLoad (a : At) (f : RFmt)
  | floodFetch (pan bed queue : Nat)
  -- cores
  | coreLoad (a : CoreAcc)
  | coreStore (a : CoreAcc) (data : List Byte)
  | nonTemporalStore (a : CoreAcc) (data : List Byte)
  | wcLineTimeout (core line : Nat)
  | loadAcq (a : CoreAcc)
  | storeRel (a : CoreAcc) (data : List Byte)
  | atm (a : CoreAcc) (op : AtmOp) (order : BitVec 2) (operand : Dword)
  | casP (a : CoreAcc) (order : BitVec 2) (cmp new : BitVec 128)
  | loadRsv (a : CoreAcc)
  | storeCnd (a : CoreAcc) (data : Dword)
  | deferralTimeout (core : Nat)
  | pairedLoad (a : CoreAcc)
  | pairedStore (a : CoreAcc) (lo hi : Dword)
  | deviceLoad (a : CoreAcc)
  | deviceStore (a : CoreAcc) (data : Dword)
  | deviceAck (core page : Nat)
  | deviceAccessTimeout (core page : Nat)
  | deviceErrorResponse (core page : Nat)
  | lineZero (a : CoreAcc)
  | lineClean (a : CoreAcc)
  | lineFlush (a : CoreAcc)
  | lineInval (a : CoreAcc)
  | fenceR (core : Nat)
  | fenceW (core : Nat)
  | fenceRw (core : Nat)
  | fenceIo (core : Nat)
  | fenceFetch (core : Nat)
  | tlbInvalidate (core : Nat) (asid : Option Nat) (va : Option Nat)
  | exceptionEntry (core : Nat)
  | exceptionReturn (core : Nat)
  | prefetchFill (core : Nat)
  -- coherence, links and the drain
  | coherenceTimeout (agent : Nat)
  | linkReplay (die link : Nat)
  | laneSpared (die : Nat) (link : LinkSide)
  | linkOutageTimeout (link : LinkModule)
  | drain (cause agent die : Nat)
  | drainLimitFault (cause agent die : Nat)
  | drainRerun
  | reserveRestore
  | panFailure (pan : Nat)
  | panStopTimeout (pan : Nat)
  | scrubLine (l : ScrubLine) (found : LineCheck)
  | brineSensorRead (pan : Nat) (temps : List Nat)
  | brineBandFall (pan : Nat)
  | tokenRefill
  | migrationTest (pan : Nat)
  | migrationBusy (pan : Nat)
  | migrationComplete (pan : Nat)
  -- network
  | portLinkDown (port : Nat)
  | portLinkUp (port : Nat)
  | serdesSpared (port : Nat)
  | rawFrameReceived (f : RawFrame)
  | sendReceived (m : RoceMsg) (withImm : Bool)
  | rdmaWriteReceived (m : RoceMsg)
  | rdmaWriteImmReceived (m : RoceMsg)
  | rdmaReadReceived (m : RoceMsg)
  | fetchAddReceived (m : RoceMsg) (add : Dword)
  | compareSwapReceived (m : RoceMsg) (cmp swap : Dword)
  | roceAckReceived (port q psn : Nat)
  | roceNakReceived (port q psn : Nat) (kind : NakKind)
  | localAckTimeout (q : Nat)
  | rnrTimerExpiry (q : Nat)
  | cnpReceived (port q : Nat)
  | rateIncreaseTimer (q : Nat)
  | qpCreate (die q : Nat)
  | qpModify (die q : Nat)
  | qpDestroy (die q : Nat)
  | qpQuery (die q : Nat)
  | sqDoorbell (q pi : Nat)
  | rqDoorbell (q pi : Nat)
  | cqConsumerUpdate (q ci : Nat)
  | mboxRequest (m : ControlMsg)
  | mirrorRound (m : ControlMsg)
  | mirrorFetch (m : ControlMsg)
  | mirrorRestore (m : ControlMsg)
  | mirrorSync (m : ControlMsg)
  | mirrorAck (m : ControlMsg)
  -- tally and events
  | pairDownSync
  | tallyRound
  | roundVoid
  | pairDown
  | tallyReplayGo (start : Nat)
  | eventRecordWrite
  | ceCoalesceExpiry (index : Nat)
  | eventAck (f : MgmtFrame)
  | eventResend
  | mgmtLinkUp
  | windowRead (f : MgmtFrame)
  | windowWrite (f : MgmtFrame)
  | regRead (f : MgmtFrame)
  | regWrite (f : MgmtFrame)
  | mboxRead (f : MgmtFrame)
  | mboxWrite (f : MgmtFrame)
  -- power
  | pwrCapWrite (watts : Nat)
  | powerControllerRun (t : Telemetry)
  | sensorFail (s : Sensor)
  | sensorRecover (s : Sensor)
  | frequencyStep (u : ClockUnit)
  | voltageStep (u : ClockUnit)
  | droopTrip (u : ClockUnit)
  | droopClear (u : ClockUnit)
  | sequencerResume (u : ClockUnit)
  | junctionSensorRead (u : ClockUnit) (temp : Nat)
  | thermalFall (u : ClockUnit)
  | thermtrip
  | coolantLoss
  | inputOvervoltage (mv : Nat)
  | supplyWarn (mv : Nat)
  | supplyWarnRelease (mv : Nat)
  | moduleReset (mv : Nat)
  | inputRestored (mv : Nat)
  | converterLost (k : Nat)
  | phaseRetired (r : Rail)
  | powerUp (mv : Nat) (coolant : Bool) (resetN : Bool)
  | railPowerGoodTimeout (r : Rail)
  | powerDown
  | warmReset
  | pkgResetRelease
  -- housekeeping
  | flashRead
  | flashProgram
  | flashErase
  | setdasa (addr : BitVec 7)
  | entdaa (addr : BitVec 7)
  | grainReseed (pan : Nat)
  | bedFaultInfoRead (pan bed : Nat)
  | xlatFaultInfoRead (pan : Nat)
  | registerWrite (r : Reg) (val : Dword)
  | rcRegisterRead (r : Reg)
  | illegalInstruction (a : At) (word : Dword)
  | badCommand (box : Nat)
  | fwSwitchCutOver
  | fwSwitchComplete
  | standbyControlDieLost
  | reseedComplete (pan : Nat)
  | rdmaReadResponseReceived (port q psn : Nat) (data : List Byte)
  | pfcPauseReceived (port prio : Nat) (pause : Bool)
  | mkaFrameReceived (port : Nat) (install : Bool)
  | mgmtLinkDown
  | housekeepingSupplyOn (mv : Nat)
  | housekeepingSupplyOff (mv : Nat)
  | flashOperationEnd (failed : Bool) (bytes : List Byte)
  | supplyRoundDeadline
  | jtagTapInstruction (tap : Nat) (code : TapInstr)
  deriving DecidableEq, Repr

end Sys2Proof
end

