-- ==== Sys2Proof/Decode.lean ====
section
/-!
DEFINITION. The words of the bed instructions (R114 to R121), packed and unpacked, and the decoder over the rows of the table
that give bits: no row does. -/

namespace Sys2Proof

/-- The guard fields of a word (R114). -/
def unpackG (w : Dword) : Guard := { g := w.extractLsb' 53 3, gn := w.extractLsb' 52 1 }

/-- Format V (R116). -/
def unpackV (w : Dword) : VFmt where
  gd := unpackG w
  vd := w.extractLsb' 44 8
  va := w.extractLsb' 36 8
  vb := w.extractLsb' 28 8
  vc := w.extractLsb' 20 8
  type := w.extractLsb' 16 4
  bmode := w.extractLsb' 14 2
  pd := w.extractLsb' 11 3
  pw := w.extractLsb' 10 1
  rnd := w.extractLsb' 8 2
  sat := w.extractLsb' 7 1
  na := w.extractLsb' 6 1
  nb := w.extractLsb' 5 1
  nc := w.extractLsb' 4 1
  sub := w.extractLsb' 0 4

/-- Format S (R117). -/
def unpackS (w : Dword) : SFmt where
  gd := unpackG w
  sd := w.extractLsb' 46 6
  sa := w.extractLsb' 40 6
  sb := w.extractLsb' 34 6
  imm := w.extractLsb' 33 1
  rsv := w.extractLsb' 32 1
  imm32 := w.extractLsb' 0 32

/-- Format C (R118). -/
def unpackC (w : Dword) : CFmt := { gd := unpackG w, body := w.extractLsb' 0 52 }

/-- Format M (R119). -/
def unpackM (w : Dword) : MFmt where
  gd := unpackG w
  vd := w.extractLsb' 44 8
  va := w.extractLsb' 36 8
  vb := w.extractLsb' 28 8
  size := w.extractLsb' 24 4
  space := w.extractLsb' 22 2
  order := w.extractLsb' 20 2
  scope := w.extractLsb' 18 2
  aop := w.extractLsb' 14 4
  offset := w.extractLsb' 0 14

/-- Format L (R120). -/
def unpackL (w : Dword) : LFmt where
  gd := unpackG w
  pm := w.extractLsb' 45 7
  sbase := w.extractLsb' 42 3
  vd := w.extractLsb' 34 8
  va := w.extractLsb' 26 8
  vb := w.extractLsb' 18 8
  type := w.extractLsb' 14 4
  sub := w.extractLsb' 10 4
  imm10 := w.extractLsb' 0 10

/-- Format R (R120). -/
def unpackR (w : Dword) : RFmt where
  gd := unpackG w
  pm := w.extractLsb' 45 7
  sbase := w.extractLsb' 42 3
  sd := w.extractLsb' 36 6
  sub := w.extractLsb' 32 4
  imm32 := w.extractLsb' 0 32

/-- Format X (R121). -/
def unpackX (w : Dword) : XFmt where
  gd := unpackG w
  pm := w.extractLsb' 45 7
  sbase := w.extractLsb' 42 3
  body := w.extractLsb' 0 42

def packV (op : Byte) (f : VFmt) : Dword :=
  op ++ f.gd.g ++ f.gd.gn ++ f.vd ++ f.va ++ f.vb ++ f.vc ++ f.type ++ f.bmode ++ f.pd ++ f.pw ++ f.rnd ++ f.sat
    ++ f.na ++ f.nb ++ f.nc ++ f.sub

def packS (op : Byte) (f : SFmt) : Dword :=
  op ++ f.gd.g ++ f.gd.gn ++ f.sd ++ f.sa ++ f.sb ++ f.imm ++ f.rsv ++ f.imm32

def packC (op : Byte) (f : CFmt) : Dword := op ++ f.gd.g ++ f.gd.gn ++ f.body

def packM (op : Byte) (f : MFmt) : Dword :=
  op ++ f.gd.g ++ f.gd.gn ++ f.vd ++ f.va ++ f.vb ++ f.size ++ f.space ++ f.order ++ f.scope ++ f.aop ++ f.offset

def packL (op : Byte) (f : LFmt) : Dword :=
  op ++ f.gd.g ++ f.gd.gn ++ f.pm ++ f.sbase ++ f.vd ++ f.va ++ f.vb ++ f.type ++ f.sub ++ f.imm10

def packR (op : Byte) (f : RFmt) : Dword :=
  op ++ f.gd.g ++ f.gd.gn ++ f.pm ++ f.sbase ++ f.sd ++ f.sub ++ f.imm32

def packX (op : Byte) (f : XFmt) : Dword := op ++ f.gd.g ++ f.gd.gn ++ f.pm ++ f.sbase ++ f.body

/-- The bed instruction of a word at an issuing group; none where the opcode is not listed (R115, R147) or the sub field of
GRAIN.KEY (R158) or DMA.Q (R203) is none of those listed. -/
def decodeBed (a : At) (w : Dword) : Option Instr :=
  let op : Byte := w.extractLsb' 56 8
  if op = 0x00 then some (.vadd a (unpackV w))
  else if op = 0x01 then some (.vsub a (unpackV w))
  else if op = 0x02 then some (.vmul a (unpackV w))
  else if op = 0x03 then some (.vfma a (unpackV w))
  else if op = 0x04 then some (.vmin a (unpackV w))
  else if op = 0x05 then some (.vmax a (unpackV w))
  else if op = 0x06 then some (.vcmp a (unpackV w))
  else if op = 0x07 then some (.vsel a (unpackV w))
  else if op = 0x08 then some (.vand a (unpackV w))
  else if op = 0x09 then some (.vor a (unpackV w))
  else if op = 0x0a then some (.vxor a (unpackV w))
  else if op = 0x0b then some (.vshl a (unpackV w))
  else if op = 0x0c then some (.vshr a (unpackV w))
  else if op = 0x0d then some (.vmov a (unpackV w))
  else if op = 0x0e then some (.vcvt a (unpackV w))
  else if op = 0x0f then some (.vadd96 a (unpackV w))
  else if op = 0x10 then some (.vrcp a (unpackV w))
  else if op = 0x11 then some (.vrsq a (unpackV w))
  else if op = 0x12 then some (.vexp2 a (unpackV w))
  else if op = 0x13 then some (.vlog2 a (unpackV w))
  else if op = 0x14 then some (.vsin a (unpackV w))
  else if op = 0x15 then some (.vcos a (unpackV w))
  else if op = 0x16 then some (.vlane a (unpackV w))
  else if op = 0x17 then some (.vbits a (unpackV w))
  else if op = 0x40 then some (.sadd a (unpackS w))
  else if op = 0x41 then some (.ssub a (unpackS w))
  else if op = 0x42 then some (.smul a (unpackS w))
  else if op = 0x43 then some (.sand a (unpackS w))
  else if op = 0x44 then some (.sor a (unpackS w))
  else if op = 0x45 then some (.sxor a (unpackS w))
  else if op = 0x46 then some (.sshl a (unpackS w))
  else if op = 0x47 then some (.sshr a (unpackS w))
  else if op = 0x48 then some (.smov a (unpackS w))
  else if op = 0x49 then some (.smovh a (unpackS w))
  else if op = 0x4a then some (.scmp a (unpackS w))
  else if op = 0x4b then some (.sread a (unpackS w))
  else if op = 0x4c then some (.sfromv a (unpackS w))
  else if op = 0x50 then some (.bra a (unpackC w))
  else if op = 0x51 then some (.brx a (unpackC w))
  else if op = 0x52 then some (.call a (unpackC w))
  else if op = 0x53 then some (.exit a (unpackC w))
  else if op = 0x54 then some (.syncRake a (unpackC w))
  else if op = 0x55 then some (.barBlock a (unpackC w))
  else if op = 0x56 then some (.fence a (unpackC w))
  else if op = 0x57 then some (.trap a (unpackC w))
  else if op = 0x58 then some (.nop a (unpackC w))
  else if op = 0x59 then some (.sbra a (unpackC w))
  else if op = 0x60 then some (.ld a (unpackM w))
  else if op = 0x61 then some (.st a (unpackM w))
  else if op = 0x62 then some (.atom a (unpackM w))
  else if op = 0x63 then some (.atomCas a (unpackM w))
  else if op = 0x70 then some (.shfl a (unpackL w))
  else if op = 0x71 then some (.vote a (unpackL w))
  else if op = 0x72 then some (.reduce a (unpackL w))
  else if op = 0x73 then some (.scan a (unpackL w))
  else if op = 0x74 then some (.bcast a (unpackL w))
  else if op = 0x75 then some (.sample a (unpackL w))
  else if op = 0x78 then some (.mma a (unpackX w))
  else if op = 0x79 then some (.mmaDrain a (unpackX w))
  else if op = 0x7a then some (.mmaLoad a (unpackX w))
  else if op = 0x7b then some (.mmaStat a (unpackX w))
  else if op = 0x81 then some (.grainDraw a (unpackV w))
  else if op = 0x82 then some (.dropmask a (unpackV w))
  else if op = 0x88 then some (.kvAppend a (unpackR w))
  else if op = 0x89 then some (.kvCommit a (unpackR w))
  else if op = 0x8a then some (.kvDiscard a (unpackR w))
  else if op = 0x91 then some (.floodQ a (unpackR w))
  else if op = 0x98 then some (.ctxSave a (unpackR w))
  else if op = 0x99 then some (.ctxLoad a (unpackR w))
  else if op = 0x80 ∧ (unpackR w).sub = 0 then some (.grainKeyLane a (unpackR w))
  else if op = 0x80 ∧ (unpackR w).sub = 1 then some (.grainKeyDrain a (unpackR w))
  else if op = 0x90 ∧ (unpackR w).sub = 0 then some (.dmaCopy a (unpackR w))
  else if op = 0x90 ∧ (unpackR w).sub = 1 then some (.dmaAgentFetch a (unpackR w))
  else if op = 0x90 ∧ (unpackR w).sub = 2 then some (.dmaAgentSpill a (unpackR w))
  else none

/-- The word of a bed instruction; none for a command that is no bed instruction. -/
def encodeBed (i : Instr) : Option Dword :=
  match i with
  | .vadd _ f => some (packV 0x00 f)
  | .vsub _ f => some (packV 0x01 f)
  | .vmul _ f => some (packV 0x02 f)
  | .vfma _ f => some (packV 0x03 f)
  | .vmin _ f => some (packV 0x04 f)
  | .vmax _ f => some (packV 0x05 f)
  | .vcmp _ f => some (packV 0x06 f)
  | .vsel _ f => some (packV 0x07 f)
  | .vand _ f => some (packV 0x08 f)
  | .vor _ f => some (packV 0x09 f)
  | .vxor _ f => some (packV 0x0a f)
  | .vshl _ f => some (packV 0x0b f)
  | .vshr _ f => some (packV 0x0c f)
  | .vmov _ f => some (packV 0x0d f)
  | .vcvt _ f => some (packV 0x0e f)
  | .vadd96 _ f => some (packV 0x0f f)
  | .vrcp _ f => some (packV 0x10 f)
  | .vrsq _ f => some (packV 0x11 f)
  | .vexp2 _ f => some (packV 0x12 f)
  | .vlog2 _ f => some (packV 0x13 f)
  | .vsin _ f => some (packV 0x14 f)
  | .vcos _ f => some (packV 0x15 f)
  | .vlane _ f => some (packV 0x16 f)
  | .vbits _ f => some (packV 0x17 f)
  | .sadd _ f => some (packS 0x40 f)
  | .ssub _ f => some (packS 0x41 f)
  | .smul _ f => some (packS 0x42 f)
  | .sand _ f => some (packS 0x43 f)
  | .sor _ f => some (packS 0x44 f)
  | .sxor _ f => some (packS 0x45 f)
  | .sshl _ f => some (packS 0x46 f)
  | .sshr _ f => some (packS 0x47 f)
  | .smov _ f => some (packS 0x48 f)
  | .smovh _ f => some (packS 0x49 f)
  | .scmp _ f => some (packS 0x4a f)
  | .sread _ f => some (packS 0x4b f)
  | .sfromv _ f => some (packS 0x4c f)
  | .bra _ f => some (packC 0x50 f)
  | .brx _ f => some (packC 0x51 f)
  | .call _ f => some (packC 0x52 f)
  | .exit _ f => some (packC 0x53 f)
  | .syncRake _ f => some (packC 0x54 f)
  | .barBlock _ f => some (packC 0x55 f)
  | .fence _ f => some (packC 0x56 f)
  | .trap _ f => some (packC 0x57 f)
  | .nop _ f => some (packC 0x58 f)
  | .sbra _ f => some (packC 0x59 f)
  | .ld _ f => some (packM 0x60 f)
  | .st _ f => some (packM 0x61 f)
  | .atom _ f => some (packM 0x62 f)
  | .atomCas _ f => some (packM 0x63 f)
  | .shfl _ f => some (packL 0x70 f)
  | .vote _ f => some (packL 0x71 f)
  | .reduce _ f => some (packL 0x72 f)
  | .scan _ f => some (packL 0x73 f)
  | .bcast _ f => some (packL 0x74 f)
  | .sample _ f => some (packL 0x75 f)
  | .mma _ f => some (packX 0x78 f)
  | .mmaDrain _ f => some (packX 0x79 f)
  | .mmaLoad _ f => some (packX 0x7a f)
  | .mmaStat _ f => some (packX 0x7b f)
  | .grainDraw _ f => some (packV 0x81 f)
  | .dropmask _ f => some (packV 0x82 f)
  | .kvAppend _ f => some (packR 0x88 f)
  | .kvCommit _ f => some (packR 0x89 f)
  | .kvDiscard _ f => some (packR 0x8a f)
  | .floodQ _ f => some (packR 0x91 f)
  | .ctxSave _ f => some (packR 0x98 f)
  | .ctxLoad _ f => some (packR 0x99 f)
  | .grainKeyLane _ f => some (packR 0x80 f)
  | .grainKeyDrain _ f => some (packR 0x80 f)
  | .dmaCopy _ f => some (packR 0x90 f)
  | .dmaAgentFetch _ f => some (packR 0x90 f)
  | .dmaAgentSpill _ f => some (packR 0x90 f)
  | _ => none

/-- The command a word spells by the table's bits: no row of the table gives bits, so there is none (entry 1). -/
def decodeTableWord (_nbits _w : Nat) : Option Instr := none

end Sys2Proof
end

