-- ==== Sys2Proof/Machine/Table.lean ====
section
/-!
DEFINITION. Reading and writing a sparse table in its canonical form: keys strictly rising, no entry equal to the
default. -/

namespace Sys2Proof.Machine

/-- The value a table holds at key k; d where the key is not listed. -/
def tget {α : Type} (d : α) (t : Table α) (k : Nat) : α :=
  match t with
  | [] => d
  | (a, b) :: r => if a = k then b else tget d r k

/-- The table with the value v, which is not the default, at key k. -/
def tins {α : Type} (t : Table α) (k : Nat) (v : α) : Table α :=
  match t with
  | [] => [(k, v)]
  | (a, b) :: r => if k < a then (k, v) :: (a, b) :: r else if k = a then (k, v) :: r else (a, b) :: tins r k v

/-- The table with nothing listed at key k. -/
def tdel {α : Type} (t : Table α) (k : Nat) : Table α :=
  match t with
  | [] => []
  | (a, b) :: r => if a = k then tdel r k else (a, b) :: tdel r k

/-- The table with value v at key k; writing the default removes the entry. -/
def tput {α : Type} [DecidableEq α] (d : α) (t : Table α) (k : Nat) (v : α) : Table α :=
  if v = d then tdel t k else tins t k v

/-- Keys above lo, strictly rising, and no entry equal to the default. -/
def tableFrom {α : Type} [DecidableEq α] (d : α) (lo : Nat) (t : Table α) : Bool :=
  match t with
  | [] => true
  | (a, b) :: r => decide (lo ≤ a) && !decide (b = d) && tableFrom d (a + 1) r

/-- The canonical form of a table. -/
def tableOk {α : Type} [DecidableEq α] (d : α) (t : Table α) : Bool := tableFrom d 0 t

/-- Writes a list of values at rising keys from k. -/
def tputs {α : Type} [DecidableEq α] (d : α) (t : Table α) (k : Nat) (vs : List α) : Table α :=
  match vs with
  | [] => t
  | v :: r => tputs d (tput d t k v) (k + 1) r

/-- Reads n values from key k on. -/
def tgets {α : Type} (d : α) (t : Table α) (k n : Nat) : List α := (List.range n).map (fun i => tget d t (k + i))

/-- The entries whose key satisfies p. -/
def tfilter {α : Type} (t : Table α) (p : Nat → α → Bool) : Table α := t.filter (fun e => p e.1 e.2)

end Sys2Proof.Machine
end

