-- ==== Sys2Proof/Machine/Bits.lean ====
section
/-!
DEFINITION. Bit fields, little-endian bytes (R7), lane masks, and the CRC-32C of images. -/

namespace Sys2Proof.Machine

/-- The len-bit field of n at bit lo. -/
def fld (n lo len : Nat) : Nat := n / 2 ^ lo % 2 ^ len

/-- Bit i of n. -/
def bitN (n i : Nat) : Bool := n / 2 ^ i % 2 == 1

/-- The low n bits of v read as a signed number. -/
def sext (n v : Nat) : Int :=
  let u := v % 2 ^ n
  if u < 2 ^ (n - 1) then Int.ofNat u else Int.ofNat u - Int.ofNat (2 ^ n)

/-- A signed number modulo 2^n. -/
def wrapN (n : Nat) (i : Int) : Nat := (i % Int.ofNat (2 ^ n)).toNat

def boolN (b : Bool) : Nat := if b then 1 else 0

/-- n bytes of v, the byte at the lowest address holding bits [7:0] (R7). -/
def leBytes (n v : Nat) : List Byte :=
  match n with
  | 0 => []
  | k + 1 => BitVec.ofNat 8 v :: leBytes k (v / 256)

/-- The number little-endian bytes spell (R7). -/
def leNat (bs : List Byte) : Nat :=
  match bs with
  | [] => 0
  | b :: r => b.toNat + 256 * leNat r

/-- The field of len bytes at offset off of a list of bytes, little-endian. -/
def leField (bs : List Byte) (off len : Nat) : Nat := leNat ((bs.drop off).take len)

/-- A list of bytes cut or filled with zeros to n bytes. -/
def padTo (n : Nat) (bs : List Byte) : List Byte :=
  match n with
  | 0 => []
  | k + 1 =>
    match bs with
    | [] => 0 :: padTo k []
    | b :: r => b :: padTo k r

/-- Saturating count in w bits. -/
def satAdd (w a b : Nat) : Nat := if a + b < 2 ^ w then a + b else 2 ^ w - 1

/-- Counting modulo 2^w. -/
def wrapAdd (w a b : Nat) : Nat := (a + b) % 2 ^ w

/-- The 32 lanes of a rake. -/
def laneList : List Nat := List.range 32

/-- Lane t is in the mask. -/
def lane (m : Word) (t : Nat) : Bool := m.getLsbD t

/-- The mask of the lanes that satisfy p. -/
def maskOf (p : Nat → Bool) : Word :=
  laneList.foldl (fun m t => if p t then m ||| (1#32 <<< t) else m) 0

/-- The lanes of a mask, lowest first. -/
def lanesOf (m : Word) : List Nat := laneList.filter (lane m)

/-- One bit step of the CRC-32C (Castagnoli polynomial, reflected). -/
def crcBit (c : Nat) : Nat := if c % 2 = 1 then (c / 2) ^^^ 0x82F63B78 else c / 2

/-- The CRC register after one more byte. -/
def crcByte (c : Nat) (b : Byte) : Nat :=
  crcBit (crcBit (crcBit (crcBit (crcBit (crcBit (crcBit (crcBit (c ^^^ b.toNat))))))))

/-- CRC-32C of a list of bytes. -/
def crc32c (bs : List Byte) : Nat := (bs.foldl crcByte 0xFFFFFFFF) ^^^ 0xFFFFFFFF

/-- The first index of a list whose element satisfies p. -/
def findIdxD {α : Type} (p : α → Bool) (l : List α) (i : Nat) : Option Nat :=
  match l with
  | [] => none
  | a :: r => if p a then some i else findIdxD p r (i + 1)

/-- Applies f k times. -/
def iter {α : Type} (f : α → α) (k : Nat) (a : α) : α :=
  match k with
  | 0 => a
  | n + 1 => iter f n (f a)

/-- Drops the last element beyond n, the latest first. -/
def keepFirst {α : Type} (n : Nat) (l : List α) : List α := l.take n

/-- The last n elements. -/
def keepLast {α : Type} (n : Nat) (l : List α) : List α := l.drop (l.length - n)

/-- Ceiling of a / b. -/
def ceilDiv (a b : Nat) : Nat := (a + b - 1) / b

end Sys2Proof.Machine
end

