-- ==== Sys2Proof/Machine/Float.lean ====
section
/-!
DEFINITION. Floating-point formats of R73 and R116, exact values, and rounding once into a format (R92, R101, R102, R161,
R518). -/

namespace Sys2Proof.Machine

/-- An exact value: a NaN, an infinity, or (-1)^neg × m × 2^e. -/
inductive Fl where
  | nan
  | inf (neg : Bool)
  | fin (neg : Bool) (m : Nat) (e : Int)
  deriving DecidableEq, Repr

/-- What the top exponent codes of a format stand for. -/
inductive Specials where
  | ieee
  | e4m3
  | none
  deriving DecidableEq, Repr

/-- A format: exponent bits, stored significand bits, bias, specials. -/
structure FFmt where
  ex : Nat
  man : Nat
  bias : Nat
  sp : Specials
  deriving DecidableEq, Repr

def fp32 : FFmt := ⟨8, 23, 127, .ieee⟩
def bf16 : FFmt := ⟨8, 7, 127, .ieee⟩
def fp16 : FFmt := ⟨5, 10, 15, .ieee⟩
def e4m3 : FFmt := ⟨4, 3, 7, .e4m3⟩
def e5m2 : FFmt := ⟨5, 2, 15, .ieee⟩
def e3m2 : FFmt := ⟨3, 2, 3, .none⟩
def e2m3 : FFmt := ⟨2, 3, 1, .none⟩
def e2m1 : FFmt := ⟨2, 1, 1, .none⟩

/-- Exponent of the least subnormal (u of R93). -/
def FFmt.emin (f : FFmt) : Int := 1 - Int.ofNat f.bias - Int.ofNat f.man

/-- Magnitude bits of the largest finite value (R101, R104). -/
def FFmt.maxMag (f : FFmt) : Nat :=
  match f.sp with
  | .ieee => (2 ^ f.ex - 1) * 2 ^ f.man - 1
  | .e4m3 => 2 ^ (f.ex + f.man) - 2
  | .none => 2 ^ (f.ex + f.man) - 1

/-- The canonical NaN of the format (R99). -/
def FFmt.nanBits (f : FFmt) : Nat :=
  match f.sp with
  | .ieee => (2 ^ f.ex - 1) * 2 ^ f.man + 2 ^ (f.man - 1)
  | .e4m3 => 2 ^ (f.ex + f.man) - 1
  | .none => 0

/-- The bits of an infinity; the canonical NaN where the format has none (R101). -/
def FFmt.infBits (f : FFmt) (neg : Bool) : Nat :=
  match f.sp with
  | .ieee => boolN neg * 2 ^ (f.ex + f.man) + (2 ^ f.ex - 1) * 2 ^ f.man
  | _ => f.nanBits

/-- The value a code of the format stands for (R73, R98). -/
def FFmt.decode (f : FFmt) (bits : Nat) : Fl :=
  let neg := bitN bits (f.ex + f.man)
  let x := fld bits f.man f.ex
  let m := fld bits 0 f.man
  let fin : Fl := if x = 0 then .fin neg m f.emin else .fin neg (2 ^ f.man + m) (f.emin + Int.ofNat x - 1)
  match f.sp with
  | .ieee => if x = 2 ^ f.ex - 1 then (if m = 0 then .inf neg else .nan) else fin
  | .e4m3 => if x = 2 ^ f.ex - 1 ∧ m = 2 ^ f.man - 1 then .nan else fin
  | .none => fin

/-- How a value is rounded: to nearest with ties to even, toward zero, with 4 grain bits (R102), with 16 grain bits on the
FP32 grid (R161). -/
inductive Rnd where
  | rne
  | rz
  | st4 (r : Nat)
  | st16 (r : Nat)
  deriving DecidableEq, Repr

/-- Whether the part rem cut off below the last kept bit, of d bits, rounds the kept magnitude up. -/
def Rnd.up (rnd : Rnd) (kept rem d : Nat) : Bool :=
  match rnd with
  | .rne => decide (2 ^ d < 2 * rem) || (decide (2 ^ d = 2 * rem) && decide (kept % 2 = 1))
  | .rz => false
  | .st4 r => decide (r < (32 * rem + 2 ^ d) / 2 ^ (d + 1)) && decide (rem ≠ 0)
  | .st16 r => if d ≤ 16 then decide (r % 2 ^ d < rem) else decide (r < rem / 2 ^ (d - 16))

/-- Magnitude bits of m × 2^e rounded once into the format, before the overflow rule. The bits of the value kept × 2^q are
(q − emin) × 2^man + kept, whether it is subnormal or normal. -/
def FFmt.roundMag (f : FFmt) (rnd : Rnd) (m : Nat) (e : Int) : Nat :=
  if m = 0 then 0 else
  let top : Int := Int.ofNat (Nat.log2 m) + e
  let q : Int := max f.emin (top - Int.ofNat f.man)
  if q ≤ e then (q - f.emin).toNat * 2 ^ f.man + m * 2 ^ (e - q).toNat
  else
    let d := (q - e).toNat
    let kept := m / 2 ^ d
    let rem := m % 2 ^ d
    (q - f.emin).toNat * 2 ^ f.man + kept + boolN (rnd.up kept rem d)

/-- A finite value rounded into the format; one that lies beyond the largest finite value after rounding gives that value
with sat and otherwise an infinity (R101, R518). -/
def FFmt.encodeFin (f : FFmt) (rnd : Rnd) (sat neg : Bool) (m : Nat) (e : Int) : Nat :=
  let mag := f.roundMag rnd m e
  if mag ≤ f.maxMag then boolN neg * 2 ^ (f.ex + f.man) + mag
  else if sat then boolN neg * 2 ^ (f.ex + f.man) + f.maxMag
  else f.infBits neg

/-- A value rounded into the format as the drain does (R101): sat saturates infinities too. -/
def FFmt.drainBits (f : FFmt) (rnd : Rnd) (sat : Bool) (x : Fl) : Nat :=
  match x with
  | .nan => f.nanBits
  | .inf neg => if sat then boolN neg * 2 ^ (f.ex + f.man) + f.maxMag else f.infBits neg
  | .fin neg m e => f.encodeFin rnd sat neg m e

/-- A value rounded into the format as VCVT does (R518): an infinity stays one whatever sat holds. -/
def FFmt.cvtBits (f : FFmt) (rnd : Rnd) (sat : Bool) (x : Fl) : Nat :=
  match x with
  | .nan => f.nanBits
  | .inf neg => f.infBits neg
  | .fin neg m e => f.encodeFin rnd sat neg m e

def Fl.neg (x : Fl) : Fl :=
  match x with
  | .nan => .nan
  | .inf n => .inf (!n)
  | .fin n m e => .fin (!n) m e

/-- The signed integer value of a finite value on the grid 2^g, where g is at most its exponent. -/
def gridInt (n : Bool) (m : Nat) (e g : Int) : Int :=
  let k := Int.ofNat (m * 2 ^ (e - g).toNat)
  if n then -k else k

/-- The exact value i × 2^g with the sign z where i is zero. -/
def ofGrid (z : Bool) (i g : Int) : Fl :=
  if i = 0 then .fin z 0 g else .fin (decide (i < 0)) i.natAbs g

/-- The exact sum; opposite infinities give a NaN, an exact zero of unlike signs is +0 (R92, R98). -/
def Fl.add (x y : Fl) : Fl :=
  match x, y with
  | .nan, _ => .nan
  | _, .nan => .nan
  | .inf a, .inf b => if a = b then .inf a else .nan
  | .inf a, .fin _ _ _ => .inf a
  | .fin _ _ _, .inf b => .inf b
  | .fin a m e, .fin b n f =>
    let g := min e f
    ofGrid (a && b) (gridInt a m e g + gridInt b n f g) g

/-- The exact product; an infinity times zero gives a NaN (R98). -/
def Fl.mul (x y : Fl) : Fl :=
  match x, y with
  | .nan, _ => .nan
  | _, .nan => .nan
  | .inf a, .inf b => .inf (a != b)
  | .inf a, .fin b n _ => if n = 0 then .nan else .inf (a != b)
  | .fin a m _, .inf b => if m = 0 then .nan else .inf (a != b)
  | .fin a m e, .fin b n f => .fin (a != b) (m * n) (e + f)

/-- The quotient to 64 bits beyond the operands with the rest folded into a last odd bit, so that one rounding of it is the
rounding of the exact quotient. Division by zero gives an infinity, 0 / 0 a NaN. -/
def Fl.div (x y : Fl) : Fl :=
  match x, y with
  | .nan, _ => .nan
  | _, .nan => .nan
  | .inf _, .inf _ => .nan
  | .inf a, .fin b _ _ => .inf (a != b)
  | .fin a _ _, .inf b => .fin (a != b) 0 0
  | .fin a m e, .fin b n f =>
    if n = 0 then (if m = 0 then .nan else .inf (a != b))
    else
      let num := m * 2 ^ 64
      .fin (a != b) (2 * (num / n) + boolN (num % n != 0)) (e - f - 65)

/-- The sign-aware order of two values that are no NaN: x < y. -/
def Fl.lt (x y : Fl) : Bool :=
  match x, y with
  | .inf a, .inf b => a && !b
  | .inf a, .fin _ _ _ => a
  | .fin _ _ _, .inf b => !b
  | .fin a m e, .fin b n f =>
    let g := min e f
    decide (gridInt a m e g < gridInt b n f g)
  | _, _ => false

/-- Equality of value of two values that are no NaN; the zeros are equal. -/
def Fl.eqv (x y : Fl) : Bool :=
  match x, y with
  | .inf a, .inf b => a == b
  | .fin a m e, .fin b n f =>
    let g := min e f
    decide (gridInt a m e g = gridInt b n f g)
  | _, _ => false

def Fl.isNan (x : Fl) : Bool :=
  match x with
  | .nan => true
  | _ => false

def Fl.isInf (x : Fl) : Bool :=
  match x with
  | .inf _ => true
  | _ => false

def Fl.isZero (x : Fl) : Bool :=
  match x with
  | .fin _ m _ => m == 0
  | _ => false

/-- FP32 value of a word. -/
def f32 (w : Nat) : Fl := fp32.decode w

/-- The FP32 bits of an exact value under RNE, canonical NaN (R92, R99). -/
def toF32 (x : Fl) : Nat := fp32.drainBits .rne false x

/-- IEEE 754 binary32 addition under RNE (R92). -/
def addF32 (a b : Nat) : Nat := toF32 ((f32 a).add (f32 b))

/-- binary32 multiplication under RNE. -/
def mulF32 (a b : Nat) : Nat := toF32 ((f32 a).mul (f32 b))

/-- binary32 division under RNE. -/
def divF32 (a b : Nat) : Nat := toF32 ((f32 a).div (f32 b))

/-- binary32 subtraction under RNE. -/
def subF32 (a b : Nat) : Nat := toF32 ((f32 a).add (f32 b).neg)

/-- An integer as an exact value. -/
def Fl.ofInt (i : Int) : Fl := ofGrid false i 0

/-- A finite value as an integer, rounded as rnd says; the magnitude of the result, and its sign. -/
def roundInt (rnd : Rnd) (neg : Bool) (m : Nat) (e : Int) : Int :=
  let k : Nat :=
    if 0 ≤ e then m * 2 ^ e.toNat
    else
      let d := (-e).toNat
      m / 2 ^ d + boolN (rnd.up (m / 2 ^ d) (m % 2 ^ d) d)
  if neg then - Int.ofNat k else Int.ofNat k

end Sys2Proof.Machine
end

