-- ==== Sys2Proof/Machine/Elementary.lean ====
section
/-!
DEFINITION. The elementary functions of R147 and R163 to more than 180 fractional bits, in fixed point, with one last odd
bit for what is cut off. -/

namespace Sys2Proof.Machine

/-- One in the fixed point of this file. -/
def fx1 : Nat := 2 ^ 200

/-- ln 2 × 2^200. -/
def fxLn2 : Nat := 1113844574712631719546256151097547306333272293549090750737802

/-- log2 e × 2^200. -/
def fxLog2e : Nat := 2318321547468254865173387471183990171487108758923299108729110

/-- π × 2^440. -/
def piBig : Nat :=
  8919653111686155361594895283741457667927754617975811017404146498622904977937858519328448476565678712740932499400936380777796272225360

/-- Σ t^k / k! from term k on. -/
def expSeries (t : Nat) (n k term acc : Nat) : Nat :=
  match n with
  | 0 => acc
  | n + 1 =>
    let term' := term * t / fx1 / k
    expSeries t n (k + 1) term' (acc + term')

/-- Σ z^(2j+1) / (2j+1). -/
def atanhSeries (z2 : Nat) (n k pow acc : Nat) : Nat :=
  match n with
  | 0 => acc
  | n + 1 => atanhSeries z2 n (k + 2) (pow * z2 / fx1) (acc + pow / k)

/-- The alternating series of sine (from term r, k = 2) or cosine (from term 1, k = 1). -/
def trigSeries (x2 : Nat) (n k : Nat) (term acc : Int) : Int :=
  match n with
  | 0 => acc
  | n + 1 =>
    let term' := -(term * Int.ofNat x2 / Int.ofNat fx1 / Int.ofNat (k * (k + 1)))
    trigSeries x2 n (k + 2) term' (acc + term')

/-- The fixed-point magnitude of m × 2^e; exact for e ≥ −200. -/
def fxMag (m : Nat) (e : Int) : Nat := m * fx1 * 2 ^ e.toNat / 2 ^ (-e).toNat

/-- A fixed-point number that stands for a value a little beyond it. -/
def ofFx (v : Int) : Fl := .fin (decide (v < 0)) (2 * v.natAbs + 1) (-201)

/-- 2^x of a finite value. -/
def exp2Fin (neg : Bool) (m : Nat) (e : Int) : Fl :=
  if 12 ≤ Int.ofNat (Nat.log2 m) + e ∧ m ≠ 0 then
    (if neg then .fin false 1 (-4096) else .fin false 1 4096)
  else
    let x : Int := if neg then -Int.ofNat (fxMag m e) else Int.ofNat (fxMag m e)
    let n : Int := x / Int.ofNat fx1
    let f : Nat := (x % Int.ofNat fx1).toNat
    if f = 0 then .fin false 1 n
    else .fin false (2 * expSeries (f * fxLn2 / fx1) 64 1 fx1 fx1 + 1) (n - 201)

/-- ln of m × 2^e, m > 0, in fixed point. -/
def lnFx (m : Nat) (e : Int) : Int :=
  let k := Nat.log2 m
  let u := m * fx1 / 2 ^ k
  let z := (u - fx1) * fx1 / (u + fx1)
  Int.ofNat (2 * atanhSeries (z * z / fx1) 70 1 z 0) + (Int.ofNat k + e) * Int.ofNat fxLn2

/-- ln of a positive finite value; +0 for 1. -/
def lnFin (m : Nat) (e : Int) : Fl :=
  if Fl.eqv (.fin false m e) (.fin false 1 0) then .fin false 0 0 else ofFx (lnFx m e)

/-- log2 of a positive finite value, exact for a power of two. -/
def log2Fin (m : Nat) (e : Int) : Fl :=
  if m = 2 ^ Nat.log2 m then Fl.ofInt (Int.ofNat (Nat.log2 m) + e)
  else ofFx (lnFx m e * Int.ofNat fxLog2e / Int.ofNat fx1)

/-- A magnitude modulo 2π, in fixed point. -/
def modTwoPi (m : Nat) (e : Int) : Nat := fxMag m e * 2 ^ 240 % (2 * piBig) / 2 ^ 240

def sinFin (neg : Bool) (m : Nat) (e : Int) : Fl :=
  if m = 0 then .fin neg 0 0 else
  let r := modTwoPi m e
  let v := trigSeries (r * r / fx1) 64 2 (Int.ofNat r) (Int.ofNat r)
  ofFx (if neg then -v else v)

def cosFin (m : Nat) (e : Int) : Fl :=
  if m = 0 then .fin false 1 0 else
  let r := modTwoPi m e
  ofFx (trigSeries (r * r / fx1) 64 1 (Int.ofNat fx1) (Int.ofNat fx1))

/-- The integer square root, by bits from bit n − 1 down. -/
def isqrt (n v root : Nat) : Nat :=
  match n with
  | 0 => root
  | k + 1 =>
    let t := root + 2 ^ k
    if t * t ≤ v then isqrt k v t else isqrt k v root

/-- 1 / √(m × 2^e), m > 0; exact where the root is. -/
def rsqrtFin (m : Nat) (e : Int) : Fl :=
  let odd := e % 2 ≠ 0
  let m' := if odd then 2 * m else m
  let e' := if odd then e - 1 else e
  let v := 2 ^ 400 / m'
  let r := isqrt 201 v 0
  .fin false (2 * r + boolN (r * r * m' != 2 ^ 400)) (-201 - e' / 2)

/-- One of the FP32 magnitudes within 2 ulp of an exact value (R147), which one chosen by k: around the truncated magnitude t
the values t − 1 to t + 2, and t − 2 to t + 2 where t is exact. -/
def within2 (neg : Bool) (m : Nat) (e : Int) (k : Nat) : Nat :=
  let t := fp32.roundMag .rz m e
  let exact := Fl.eqv (fp32.decode t) (.fin false m e)
  let mag := if exact then t + k % 5 - 2 else t + k % 4 - 1
  boolN neg * 2 ^ 31 + min mag fp32.maxMag

end Sys2Proof.Machine
end

