-- ==== Sys2Proof/Config.lean ====
section
/-!
DEFINITION. What the manual leaves open, as constants without a body: nothing can be proved of their values. -/

namespace Sys2Proof

/-- The i-th free value of the step whose counter (State.free) stands at n (entry 2). -/
opaque Config.free : Nat → Nat → Nat

/-- The quotient-like corner no rule fixes and that depends on operands alone: a value for a list of operand bits. -/
opaque Config.unstated : List Nat → Nat

/-- Whether an ECDSA signature of R461 over a header and payload is good (entry 20). -/
opaque Config.signatureGood : List (BitVec 8) → Bool

/-- The signature bytes the device key makes over a report (R473, entry 20). -/
opaque Config.deviceSign : List (BitVec 8) → List (BitVec 8)

/-- Whether the wrapped fields of a site record's body decrypt (R464, entry 20). -/
opaque Config.unsealed : List (BitVec 8) → Bool

/-- Key material by number: 0 the identity public key, 1 Gwepen's signature over it, n + 2 the alias public key that free draw n
made (R459, R472, entry 20). -/
opaque Config.keyBytes : Nat → List (BitVec 8)

/-- Gwepen's key index of the identity certificate (R473, entry 20). -/
opaque Config.gwepenIndex : Nat

/-- The digest of the crust ROM, which M0 is extended with (R472, entry 20). -/
opaque Config.romDigest : List (BitVec 8)

end Sys2Proof
end

