-- ==== Sys2Proof/Machine/State.lean ====
section
/-!
DEFINITION. The state of the block as plain data, its faults and refusals, and the state after reset. Each field's
comment reads: what it is; its width; the rule of spec/ that names it; its reset value. Where the reset value is not the
spec's, the comment names the entry of notes/assumptions/ that gives it. -/

namespace Sys2Proof.Machine

/-- The closed list of machine faults. No rule of the manual stops the whole part: every fault of the manual is an effect on
State, so the list has the one reason that marks a command the model cannot place. -/
inductive Fault where
  /-- Never raised by a meaning: kept so that the type is inhabited. Safe. -/
  | none
  deriving DecidableEq, Repr

/-- The closed list of refusals. -/
inductive Refusal where
  /-- Raised only by an arm of exec whose command has no meaning yet. Safe. -/
  | notModelled (mnemonic : String)
  deriving DecidableEq, Repr

/-! ### Names -/

/-- The three variants (R1). -/
inductive Variant where
  | a20 | a16 | a12
  deriving DecidableEq, Repr

/-- Package states (R391). -/
inductive PkgState where
  | off | crust | liquor | ready | serving | draining | maint | fault
  deriving DecidableEq, Repr

/-- Unit states (R392). -/
inductive UnitState where
  | online | offline | test | failed
  deriving DecidableEq, Repr

/-- Lock states of the time base (R32). -/
inductive Lock where
  | free | acquiring | locked | holdover
  deriving DecidableEq, Repr

/-- Kinds of an accumulator slot (R71). -/
inductive SlotKind where
  | empty | fast | exact | integer
  deriving DecidableEq, Repr

/-- States of a cached line (R278); I is the absence of an entry. -/
inductive Moesi where
  | m | o | e | s
  deriving DecidableEq, Repr

/-- States of a directory entry (R281); free is the absence of an entry. -/
inductive DirState where
  | s | x | o
  deriving DecidableEq, Repr

/-- Thermal states (R450). -/
inductive Thermal where
  | normal | throttle | emergency | stop
  deriving DecidableEq, Repr

/-- Power sequencer states of HK.STATUS.seq (R508). -/
inductive Seq where
  | off | poweringUp | on | poweringDown | railFault | thermtrip
  deriving DecidableEq, Repr

/-- Queue-pair states (R363). -/
inductive QpState where
  | reset | init | rtr | rts | error
  deriving DecidableEq, Repr

/-- What a thread of a rake is doing (R106, R127, R134). beside: its group stands at a SYNC.RAKE that others of the group wait at and
that its own guard passes over (R125). -/
inductive Thread where
  | absent
  | running
  | atSync (mask : BitVec 32)
  | beside
  | atBarrier
  | exited
  deriving DecidableEq, Repr

/-! ### The configuration record (R462): part record, repair record and site record read together -/

/-- An entry of the stockpile partition table (R316): kind 1 cache, 2 scratchpad, 3 directory as STK.PART_n codes it. -/
structure Partition where
  kind : Nat
  units : Nat
  planPool : Bool := false
  amask : BitVec 2 := 0
  rmask : BitVec 4 := 0
  rate : Nat := 0
  burst : Nat := 0
  borrow : Bool := false
  deriving DecidableEq, Repr

/-- A destination of the control class (R359). -/
structure Destination where
  ident : Dword
  primary : Nat
  secondary : Nat
  deriving DecidableEq, Repr

/-- What the control key list permits for one key (R356, R358); the key itself is the crust's. -/
structure ControlKey where
  types : List Nat
  mailboxes : BitVec 8
  deriving DecidableEq, Repr

/-- A range of the window policy (R407). -/
structure PolicyRange where
  base : Nat
  len : Nat
  write : Bool
  deriving DecidableEq, Repr

structure ConfigRecord where
  /-- Variant of the part record | 2 bits | 00_scope R1, 17_boot R462 | DESIGN CHOICE a20 (entry 3) -/
  variant : Variant := .a20
  /-- Package identity number | 64 | 17_boot R459 | DESIGN CHOICE 1 (entry 3) -/
  identity : Dword := 1
  /-- Silicon stepping | 4 | 08_core_complex R228 | DESIGN CHOICE 0 (entry 3) -/
  stepping : Nat := 0
  /-- Requested cap at reset, W | 16 | 16_power R443 | 3600 -/
  capWatts : Nat := 3600
  /-- Module allowance, W | Nat | 02_tide R49 | 940 (the A20's) -/
  moduleAllowance : Nat := 940
  /-- Idle-pan allowance, W | Nat | 02_tide R49 | 18 (the A20's) -/
  idlePanAllowance : Nat := 18
  /-- Destinations of the control class | list | 13_network R359 | DESIGN CHOICE empty (entry 3) -/
  destinations : List Destination := []
  /-- PTP domain | 7 | 02_tide R30 | DESIGN CHOICE 0 (entry 3) -/
  ptpDomain : Nat := 0
  /-- Candidate PTP ports | list of at most 4 | 02_tide R30 | DESIGN CHOICE [0] (entry 3) -/
  ptpPorts : List Nat := [0]
  /-- Candidate ports that measure peer delay; the others use delay request-response | list | 02_tide R30 | DESIGN CHOICE empty (entry 3) -/
  ptpPeer : List Nat := []
  /-- Holdover limit, ms | 1000 to 60000 | 02_tide R36 | 10000 -/
  holdoverMs : Nat := 10000
  /-- Tick source: true TIDE_IN, false PTP | 1 | 02_tide R38 | DESIGN CHOICE false (entry 3) -/
  tideIn : Bool := false
  /-- Base MAC address | 48 | 13_network R354 | DESIGN CHOICE 0 (entry 3) -/
  macBase : Nat := 0
  /-- VLAN id of sent frames | 12 | 13_network R353 | DESIGN CHOICE 0 (entry 3) -/
  vlanId : Nat := 0
  /-- Priority flow control enabled, by priority | 7 | 13_network R353 | 0 -/
  pfc : BitVec 7 := 0
  /-- Ports that run MACsec | 16 | 13_network R355 | DESIGN CHOICE 0 (entry 3) -/
  macsecPorts : BitVec 16 := 0
  /-- Destination UDP port of the control class | 16 | 13_network "The control class" | 9209 -/
  controlUdpPort : Nat := 9209
  /-- Control key list, at most 16 | list | 13_network R356, R358 | DESIGN CHOICE empty (entry 3) -/
  controlKeys : List ControlKey := []
  /-- Configured partition table | list of at most 16 | 11_memory R316, R317 | the default table of R317 -/
  partitions : List Partition :=
    [{ kind := 3, units := 6 }, { kind := 2, units := 20, planPool := true }, { kind := 2, units := 4 },
     { kind := 1, units := 10, amask := 3, rmask := 15 }]
  /-- Pair timeout, µs | 500 to 10000 | 15_tally R418 | 2000 -/
  pairTimeoutUs : Nat := 2000
  /-- Paired mode asked for | 1 | 15_tally R428 | DESIGN CHOICE false (entry 3) -/
  paired : Bool := false
  /-- Partner's identity number | 64 | 15_tally R428 | DESIGN CHOICE 0 (entry 3) -/
  partner : Dword := 0
  /-- Degrade flag | 1 | 15_tally R419 | DESIGN CHOICE false (entry 3) -/
  degrade : Bool := false
  /-- Window policy | list of at most 16 | 14_salter R407 | DESIGN CHOICE empty (entry 3) -/
  windowPolicy : List PolicyRange := []
  /-- Host boot entry address | 48 | 17_boot R461, R462 | DESIGN CHOICE 0 (entry 3) -/
  hostEntry : Nat := 0
  /-- Pan voltage for each clock, in 5 mV units, key pan * 256 + clock in 25 MHz units | table | 16_power R441 | PRESUMED 176 at every clock (entry 3) -/
  vfPan : Table Nat := []
  /-- Core-die voltage for each clock, the same way | table | 16_power R441 | PRESUMED 200 at every clock (entry 3) -/
  vfCore : Table Nat := []
  /-- Rate decrease: numerator and denominator | Nat | 13_network R377 | 3, 4 -/
  ccNum : Nat := 3
  ccDen : Nat := 4
  /-- First increases | Nat | 13_network R377 | 5 -/
  ccFast : Nat := 5
  /-- Increase step, Mb/s | Nat | 13_network R377 | 5000 -/
  ccStep : Nat := 5000
  /-- Notification interval, ns | Nat | 13_network R377 | 50000 -/
  ccInterval : Nat := 50000
  /-- Rate-increase interval, ns | Nat | 13_network R377 | 55000 -/
  ccRise : Nat := 55000
  /-- Boot BIST asked for | 1 | 17_boot R467 | DESIGN CHOICE false (entry 3) -/
  bootBist : Bool := false
  /-- Expected BIST signatures, key kind * 64 + index * 2 + test | table of 64 | 18_reliability R497 | DESIGN CHOICE 0 (entry 3) -/
  expected : Table Dword := []
  /-- Flash ranges the part record protects, (base, length) | list | 19_module R509 | DESIGN CHOICE empty (entry 3) -/
  protectedFlash : List (Nat × Nat) := []
  /-- Lanes whose polarity is inverted, receive then transmit | 256 | 19_module R503 | DESIGN CHOICE 0 (entry 3) -/
  polarity : BitVec 256 := 0
  deriving DecidableEq, Repr

/-! ### Events (18_reliability) -/

/-- A record of R481. -/
structure Event where
  number : Nat := 0
  time : Nat := 0
  code : Nat
  cls : Nat
  die : Nat := 0xFF
  part : Nat := 0
  partIndex : Nat := 0
  action : Nat := 0
  addrKind : Nat := 0
  addr : Nat := 0
  count : Nat := 1
  detail : Nat := 0
  detail2 : Nat := 0
  deriving DecidableEq, Repr

structure Events where
  /-- Events raised and not yet written, oldest first | list | 18_reliability R483 | empty -/
  queue : List Event := []
  /-- CE and BED_FAULT records held for their second | list | 18_reliability R483 | empty -/
  held : List Event := []
  /-- The event log, oldest first, at most 65,536 records | list | 18_reliability R486 | empty -/
  log : List Event := []
  /-- EVT.LAST.number | 64 | 18_reliability R489 | 0 -/
  last : Nat := 0
  /-- EVT.RING_BASE.enable | 1 | 18_reliability R489 | 0 -/
  enable : Bool := false
  /-- EVT.RING_BASE.size | 5 | 18_reliability R489 | 0 -/
  size : Nat := 0
  /-- EVT.RING_BASE.base, PA[47:12] | 36 | 18_reliability R489 | 0 -/
  base : Nat := 0
  /-- EVT.RING_IDX.producer | 32 | 18_reliability R489 | 0 -/
  producer : Word := 0
  /-- EVT.RING_IDX.consumer | 32 | 18_reliability R489 | 0 -/
  consumer : Word := 0
  /-- EVT.FILTER.ce | 1 | 18_reliability R489 | 1 -/
  filterCe : Bool := true
  /-- EVT.FILTER.note | 1 | 18_reliability R489 | 1 -/
  filterNote : Bool := true
  /-- EVT.STATUS.lost, saturating | 32 | 18_reliability R489 | 0 -/
  lost : Nat := 0
  /-- Highest record number the tray has acknowledged | 64 | 18_reliability R488, 19_module R513 | 0 -/
  acked : Nat := 0
  /-- Highest record number sent to the tray | 64 | 19_module R513 | 0 -/
  sent : Nat := 0
  /-- Management link up | 1 | 18_reliability R488, 19_module R510 | DESIGN CHOICE false (entry 4) -/
  linkUp : Bool := false
  /-- Records whose ring write waits for the end of a drain | list | 18_reliability R487 | empty -/
  waiting : List Event := []
  deriving DecidableEq, Repr

/-! ### Time base and tide (02_tide) -/

/-- A master heard on a candidate port (R30). -/
structure Master where
  id : Nat
  rank : Nat
  port : Nat
  deriving DecidableEq, Repr

structure TimeBase where
  /-- TIDE.STATUS.lock | 3 | 02_tide R32, R68 | FREE -/
  lock : Lock := .free
  /-- TIDE.STATUS.source: true TIDE_IN | 1 | 02_tide R38, R68 | 0 -/
  tideIn : Bool := false
  /-- Masters heard | list | 02_tide R30 | empty -/
  masters : List Master := []
  /-- The selected master | Option | 02_tide R30, R33 | none -/
  master : Option Nat := none
  /-- Consecutive Sync intervals with a filtered offset under 50 ns | 0 to 16 | 02_tide R32 | 0 -/
  goodSyncs : Nat := 0
  /-- TIDE.OFFSET.offset_ns | 32, signed | 02_tide R68 | 0 -/
  offset : Word := 0
  /-- Correction still to be slewed, ns | Int | 02_tide R35 | 0 -/
  slew : Int := 0
  /-- Time slewed since the last nanosecond of correction, ns | 0 to 99999 | 02_tide R35 | 0 -/
  slewAcc : Nat := 0
  /-- Path delay last measured on each candidate port, ns | table of Int | 02_tide R30 | 0 -/
  pathDelay : Table Int := []
  /-- A two-step Sync that waits for its Follow_Up: port, master and sequence number | Option | 02_tide R30 | none -/
  syncOpen : Option (Nat × Nat × Nat) := none
  /-- logSyncInterval of the last valid Sync | −7 to 0 | 02_tide R30 | DESIGN CHOICE 0: no Sync has arrived (entry 5) -/
  syncLog : Int := 0
  /-- Package time of the last valid Sync, ns | Nat | 02_tide R32, R33 | DESIGN CHOICE 0: no Sync has arrived (entry 5) -/
  lastSync : Nat := 0
  /-- Package time at which HOLDOVER was entered, ns | Nat | 02_tide R36 | 0 -/
  holdoverAt : Nat := 0
  /-- Consecutive missing TIDE_IN edges | 0 to 4 | 02_tide R38 | 0 -/
  missing : Nat := 0
  /-- Consecutive good TIDE_IN edges since a fall-back | 0 to 16 | 02_tide R39 | 0 -/
  goodEdges : Nat := 0
  /-- The tick the last TIDE_IN edge matched | Option | 02_tide R38 | none -/
  edgeTick : Option Nat := none
  /-- Drift of each sluice stop's copy of package time, ps | table of Int | 02_tide R37 | 0 -/
  drift : Table Int := []
  deriving DecidableEq, Repr

/-- A member record of TIDE_START (R400). -/
structure Member where
  ident : Dword
  ip : BitVec 128
  keyIndex : Nat
  ipv6 : Bool
  deriving DecidableEq, Repr

/-- A start or switch armed by TIDE_START (R53, R54). -/
structure Start where
  slot : Nat
  n0 : Nat
  sec : Nat
  ns : Nat
  own : Nat
  members : List Member
  deriving DecidableEq, Repr

/-- A skip declared or received for a tide (R61, R62). cause: 1 OVERRUN, 2 INPUT_LATE. -/
structure Skip where
  tide : Nat
  cause : Nat
  position : Nat
  own : Bool
  /-- Declared between a drain and the completion of the step it made late: it does not count toward R66 (R296). -/
  exempt : Bool := false
  deriving DecidableEq, Repr

/-- How the step of the last executed tide stands. -/
structure StepRun where
  /-- The plan slot it runs from. -/
  slot : Nat
  /-- Its step number. -/
  step : Nat
  /-- The tide it began in. -/
  tide : Nat
  /-- Its bed work is complete (R60). -/
  complete : Bool := false
  /-- Some kernel of it has result FAILED (R107). -/
  failed : Bool := false
  /-- Its outputs have been released (R59, R64). -/
  released : Bool := false
  /-- The release of its outputs is forbidden until a re-run completes (R296). -/
  withheld : Bool := false
  /-- A drain made it late and it is to be, or is being, run again (R296). -/
  drained : Bool := false
  /-- It is a late one: its tide's end tick has passed while it was incomplete, or a drain made it so (R64, R296). -/
  late : Bool := false
  deriving DecidableEq, Repr

structure Tide where
  /-- The running plan's slot | Option | 02_tide R53, R68 | none -/
  running : Option Nat := none
  /-- P of the running plan, µs | 32 | 02_tide R68 | 0 -/
  periodUs : Nat := 0
  /-- Seconds of E | 48 | 02_tide R68 | 0 -/
  epochSec : Nat := 0
  /-- Nanoseconds of E | 30 | 02_tide R68 | 0 -/
  epochNs : Nat := 0
  /-- TIDE.NUMBER: the last tick fired | 64 | 02_tide R68 | 0 -/
  number : Nat := 0
  /-- TIDE.STEP: step of the last executed tide | 64 | 02_tide R29, R68 | 0 -/
  step : Nat := 0
  /-- The next executed tide's step | 64 | 02_tide R27 | 0 -/
  nextStep : Nat := 0
  /-- The step in progress or last executed | Option | 02_tide R60, R64 | none -/
  cur : Option StepRun := none
  /-- The present tide is a skipped one | 1 | 02_tide R63 | false -/
  skipping : Bool := false
  /-- TIDE.SKIPS.total | 32 | 02_tide R68 | 0 -/
  skips : Nat := 0
  /-- TIDE.SKIPS.run | 16 | 02_tide R68 | 0 -/
  skipRun : Nat := 0
  /-- Skips that count toward the limit of R66 | Nat | 02_tide R66, 10_coherence R296 | 0 -/
  stallRun : Nat := 0
  /-- TIDE.LAST_SKIP | 64 | 02_tide R68 | 0 -/
  lastSkip : Nat := 0
  /-- Skips declared or received for tides to come | list | 02_tide R61 to R63 | empty -/
  declared : List Skip := []
  /-- The armed start | Option | 02_tide R53 | none -/
  start : Option Start := none
  /-- A TIDE_STOP waits for the end of the tide | 1 | 02_tide R55 | false -/
  stopping : Bool := false
  /-- Members of the running plan's string | list | 02_tide R53 | empty -/
  members : List Member := []
  /-- Own position in the string | 6 | 02_tide R53 | 0 -/
  own : Nat := 0
  /-- Optional inputs absent in the present step | list of slot ids | 02_tide R58 | empty -/
  absent : List Nat := []
  /-- Optional inputs found absent at the last watch point, for the step to come | list of slot ids | 02_tide R58 | empty -/
  absentNext : List Nat := []
  /-- READY_FAULT already logged in this step, slot ids, 0xFFFF for the status block | list | 02_tide R57 | empty -/
  readyFaults : List Nat := []
  /-- TIDE_OUT pulses driven | Nat | 02_tide R40 | 0 -/
  pulses : Nat := 0
  /-- The last tide executed of any plan, and its step, for STOP_ALL | 64, 64 | 14_salter R398 | 0, 0 -/
  lastTide : Nat := 0
  lastStep : Nat := 0
  deriving DecidableEq, Repr

/-! ### Plans (02_tide R41 to R52, 04_rakes R108) -/

/-- A kernel entry (R108). -/
structure Kernel where
  entry : Dword
  args : Dword
  blocks : Nat
  blockRakes : Nat
  vregGroups : Nat
  resident : Nat
  keyed : Bool
  scratchBase : Nat
  scratchPer : Nat
  slots : Nat
  watchdog : Nat
  deriving DecidableEq, Repr

/-- A slot record (R45). -/
structure IoSlot where
  id : Nat
  output : Bool
  optional : Bool
  bytes : Nat
  buffer : Nat
  ready : Nat
  deriving DecidableEq, Repr

/-- A bed record with its kernel list (R44). -/
structure BedPlan where
  worstCycles : Nat
  rakes : Nat
  blockRakes : Nat
  regfile : Nat
  scratch : Nat
  accum : Nat
  kernels : List Kernel
  deriving DecidableEq, Repr

/-- A pan record with its bed records (R43). -/
structure PanPlan where
  brineBytes : Nat
  brineTraffic : Nat
  flumeIn : Nat
  flumeOut : Nat
  energyUj : Nat
  beds : List BedPlan
  deriving DecidableEq, Repr

/-- A loaded plan (R41 to R51, R333). -/
structure Plan where
  planId : Dword
  periodUs : Nat
  reserve : Nat
  statusVa : Nat
  stockpileBytes : Nat
  pans : List PanPlan
  slots : List IoSlot
  /-- Physical pan of each logical pan (R46). -/
  binding : List Nat
  root : Nat
  asid : Nat
  /-- mW (R50). -/
  floorPower : Nat
  /-- Scratchpad range: base in the map, bytes (R319). -/
  stockpileBase : Nat
  stockpileLen : Nat
  /-- Logical pans absent since a failure (R494). -/
  absentPans : List Nat
  deriving DecidableEq, Repr

/-! ### Beds, blocks and rakes (03_matrix, 04_rakes, 05_grains, 06_agent_state) -/

/-- An accumulator slot (R71, R85). Elements are keyed by index m × N + n; an FP32 or INT32 value lies in the low 32
bits. The elements of an exact tile lie in its first slot. bad: the elements in error (R485). -/
structure AccSlot where
  kind : SlotKind := .empty
  shape : Nat := 0
  base : Nat := 0
  anchor : Int := 0
  inexact : Bool := false
  range : Bool := false
  kOver : Bool := false
  kCount : Nat := 0
  products : Nat := 0
  vals : Table (BitVec 96) := []
  tags : Table (BitVec 2) := []
  bad : List Nat := []
  deriving DecidableEq, Repr

/-- The B operand the column feeders hold (R82): element bits keyed by n × 64 + k and scale bytes keyed by n × 2 + block. -/
structure HeldB where
  shape : Nat
  fb : Nat
  k : Nat
  elems : Table Half
  scales : Table Byte
  deriving DecidableEq, Repr

/-- A flood descriptor (R178, R344): the source's virtual address, the bytes left to fetch, and the translations it took:
(virtual page base, page bytes, physical base). heldBy: the cores whose broadcast invalidations wait on it (R348). issued and
queued: how many writes of the DRAM had been noted when its FLOOD.Q issued and when it was queued; after: the agents whose fetches
by the same bed's DMA engine it follows (R220). -/
structure FloodDesc where
  va : Nat
  left : Nat
  pages : List (Nat × Nat × Nat)
  slot : Nat
  heldBy : List Nat := []
  issued : Nat := 0
  queued : Nat := 0
  after : List Nat := []
  deriving DecidableEq, Repr

/-- A byte of a flood buffer: its value, whether it carries an uncorrectable error (R183) or a translation failure of R344, and
the virtual address it was read at. -/
structure FloodByte where
  val : Byte
  bad : Bool := false
  stopped : Bool := false
  va : Nat := 0
  deriving DecidableEq, Repr

/-- What happens before a point of an observer (R216): of each thread of the vector engines, the greatest number among its
stores that do. A thread's key is ((pan × 16 + bed) × 48 + slot) × 32 + lane. -/
abbrev View := Table Nat

/-- A release as the writes it orders before itself carry it (R213, R215): its issuer, its scope, and what happens before it. -/
structure RelMark where
  pan : Nat
  bed : Nat
  slot : Nat
  block : Nat
  scope : Nat
  view : View
  deriving DecidableEq, Repr

/-- A store of a thread to one aligned unit of R210, as long as another observer may read what stood there before (R221): the
bytes it wrote over, its issuer, its number, the releases it carries, and the widest scope at which it has been performed. -/
structure StoreRec where
  old : List (Nat × Byte)
  pan : Nat
  bed : Nat
  slot : Nat
  block : Nat
  lane : Nat
  number : Nat
  rels : List RelMark := []
  performed : Option Nat := none
  deriving DecidableEq, Repr

/-- What an engine of a bed is to do: a matrix instruction, a DMA or flood instruction, or a KV instruction (R124, R206). -/
inductive WorkOp where
  | mma (f : XFmt)
  | mmaDrain (f : XFmt)
  | mmaLoad (f : XFmt)
  | mmaStat (f : XFmt)
  | copy (f : RFmt)
  | agentFetch (f : RFmt)
  | agentSpill (f : RFmt)
  | flood (f : RFmt)
  | kvAppend (f : RFmt)
  | kvCommit (f : RFmt)
  | kvDiscard (f : RFmt)
  deriving DecidableEq, Repr

/-- A key of a rake (R158): the lane key, or the drain key. -/
structure GrainKey where
  seed : Dword := 0
  stream : Half := 0
  block : Nat := 0
  deriving DecidableEq, Repr

/-- An instruction in an engine's queue: where it issued, its block, program counter, active mask and participation mask, the
scalar operands as they stood at issue, the rake's drain key then, what happens before it, and how many writes of the DRAM had
been noted. got: the flood bytes an MMA has taken so far, by which it has started. -/
structure Work where
  op : WorkOp
  at_ : At
  block : Nat
  pc : Dword
  active : Word
  pm : Word
  ops : List Nat
  key : Option GrainKey := none
  view : View := []
  issued : Nat := 0
  got : List FloodByte := []
  deriving DecidableEq, Repr

/-- A flood queue (R178): descriptors in order, and the part of the buffer that is its own, at most 8 KiB. -/
structure FloodQueue where
  descs : List FloodDesc := []
  buf : List FloodByte := []
  deriving DecidableEq, Repr

/-- A block that is resident on a bed (R106, R110). -/
structure Block where
  index : Nat
  position : Nat
  /-- Rake slots of its rakes, rake 0 first. -/
  slots : List Nat
  scratchAddr : Nat
  scratchLen : Nat
  /-- Barrier generation (R134). -/
  generation : Nat := 0
  /-- Package time of the first arrival of the wait in progress (R135). -/
  waitFrom : Option Nat := none
  /-- Restored or started in keyed mode (R156, R168). -/
  keyed : Bool := false
  /-- CTX.SAVE or CTX.LOAD: rake slots that wait at it, with the instruction's fields and whether it loads (R144, R145). -/
  ctxWait : List (Nat × RFmt × Bool) := []
  /-- The barrier of the context instruction has been met: the instruction waits for the block's work (R144). -/
  ctxMet : Bool := false
  /-- The block was aborted and has not ended (R136). -/
  aborted : Bool := false
  deriving DecidableEq, Repr

structure Bed where
  /-- BED.STATUS.run: 0 IDLE, 1 RUNNING, 2 ABORTING | 2 | 04_rakes R143 | 0 -/
  run : Nat := 0
  /-- BED.STATUS.kernel | 16 | 04_rakes R143 | 0 -/
  kernel : Nat := 0
  /-- BED.STATUS.failed | 1 | 04_rakes R143 | 0 -/
  failed : Bool := false
  /-- Kernels of the step already retired | Nat | 04_rakes R107 | 0 -/
  retired : Nat := 0
  /-- The running kernel | Option | 04_rakes R107 | none -/
  cur : Option Kernel := none
  /-- A block of the running kernel was aborted | 1 | 04_rakes R107 | false -/
  curFailed : Bool := false
  /-- Blocks of the running kernel that have ended, by index | list | 04_rakes R110 | empty -/
  ended : List Nat := []
  /-- Resident blocks | list | 04_rakes R106 | empty -/
  blocks : List Block := []
  /-- BED.FAULT_INFO.code | 8 | 04_rakes R143 | 0 -/
  fCode : Nat := 0
  /-- BED.FAULT_INFO.rake | 6 | 04_rakes R143 | 0 -/
  fRake : Nat := 0
  /-- BED.FAULT_INFO.kernel | 16 | 04_rakes R143 | 0 -/
  fKernel : Nat := 0
  /-- BED.FAULT_INFO.block | 16 | 04_rakes R143 | 0 -/
  fBlock : Nat := 0
  /-- BED.FAULT_INFO.valid | 1 | 04_rakes R143 | 0 -/
  fValid : Bool := false
  /-- BED.FAULT_PC | 64 | 04_rakes R143 | 0 -/
  fPc : Dword := 0
  /-- BED.FAULT_MASK.active | 32 | 04_rakes R143 | 0 -/
  fActive : Word := 0
  /-- BED.FAULT_MASK.participation | 32 | 04_rakes R143 | 0 -/
  fPart : Word := 0
  /-- BED.FAULT_ADDR | 64 | 04_rakes R143 | 0 -/
  fAddr : Dword := 0
  /-- BED.FAULT_LOST.count | 32 | 04_rakes R143 | 0 -/
  fLost : Nat := 0
  /-- Accumulator slots 0 to 7 with their tag arrays | 512 KiB + 32 KiB | 03_matrix R71 | empty -/
  slots : Table AccSlot := []
  /-- The preceding MMA's shape, fb and B operand, which hold = 1 reuses | Option | 03_matrix R82 | none -/
  heldB : Option HeldB := none
  /-- Bed scratch, key byte address | 4 MiB | 01_package R16, 06_agent_state R184 | zero -/
  scratch : Table Byte := []
  /-- Bed scratch words in error, by 8-byte word | list | 18_reliability R485 | empty -/
  scratchBad : List Nat := []
  /-- Flood queues 0 to 3 | 4 queues of 8 descriptors, 8 KiB of buffer each | 06_agent_state R178 | empty -/
  flood : Table FloodQueue := []
  /-- The matrix engine's queue, oldest first | at most 64 | 04_rakes R124, 07_engine_ordering R206 | empty -/
  mq : List Work := []
  /-- The DMA queue with the bed's KV queue merged into it in issue order, oldest first | at most 32 and 16 | 04_rakes R124,
  07_engine_ordering R206 | empty -/
  dq : List Work := []
  /-- Stores to bed scratch whose old bytes may still be read, the latest first | list | 07_engine_ordering R221 | empty -/
  kept : List StoreRec := []
  /-- Drain bank of 16 generators | 16 × 128 | 05_grains R157, R165 | keyed states of R157 with seed 0, set by the boot -/
  drainBank : Table (BitVec 128) := []
  deriving DecidableEq, Repr

structure Rake where
  /-- Resident in a block: the block's index and the rake's index within it | Option | 04_rakes R106, R111 | none -/
  home : Option (Nat × Nat) := none
  /-- What each thread is doing, by lane | 32 | 04_rakes R106 | absent -/
  threads : Table Thread := []
  /-- Program counters, by lane | 32 × 64 | 04_rakes R125, R146 | 0 -/
  pcs : Table Dword := []
  /-- Group number of each thread | 32 × Nat | 04_rakes R125, R146 | 0 -/
  groups : Table Nat := []
  /-- Vector registers, key register × 32 + lane | 256 × 32 × 32 | 04_rakes R112 | 0 -/
  v : Table Word := []
  /-- Predicates p0 to p6, one mask of lanes each | 7 × 32 | 04_rakes R112 | 0 -/
  p : Table Word := []
  /-- Scalar registers | 64 × 64 | 04_rakes R112 | 0 -/
  s : Table Dword := []
  /-- Vector registers allocated, in groups of 8 | 0 to 32 | 04_rakes R108, R112 | 0 -/
  vregGroups : Nat := 0
  /-- Lane states of the rake slot | 32 × 128 | 05_grains R154 | keyed states of R157 with seed 0, set by the boot -/
  lanes : Table (BitVec 128) := []
  /-- Lane key last recorded | 64 + 16 + 43 | 05_grains R158, R168 | DESIGN CHOICE 0: no key recorded yet (entry 21) -/
  laneKey : GrainKey := {}
  /-- Drain key | Option | 05_grains R158, R165 | none -/
  drainKey : Option GrainKey := none
  /-- Package time of the first arrival of the SYNC.RAKE wait each lane stands in, by lane | table of Option | 04_rakes R135 | none -/
  syncFrom : Table (Option Nat) := []
  /-- What happens before each lane's next access, by lane | table | 07_engine_ordering R216 | empty -/
  views : Table View := []
  /-- Releases whose writes a lane's relaxed reads have read, which a later acquire fence may synchronise with, by lane | table |
  07_engine_ordering R213, R215 | empty -/
  reads : Table (List RelMark) := []
  /-- Releases that a lane's later stores carry, by lane | table | 07_engine_ordering R213, R215 | empty -/
  rels : Table (List RelMark) := []
  /-- What happens before the work the rake queues next | table | 07_engine_ordering R213 | empty -/
  work : View := []
  deriving DecidableEq, Repr

/-- What the salter keeps in the reserved granules, each in two copies but for the partner's mirror area (R305, R428, R486). -/
inductive ReservedContent where
  | directory | firmware | repairSet | eventLog | tally | planImages | mirror | unused
  deriving DecidableEq, Repr

/-! ### Pans -/

/-- A cached translation of a pan (R347). base is the virtual base of the page, bytes its size, leaf the entry's bits. -/
structure TlbEntry where
  asid : Nat
  base : Nat
  bytes : Nat
  leaf : Dword
  deriving DecidableEq, Repr

structure Pan where
  /-- Unit state | 2 | 14_salter R392 | ONLINE -/
  state : UnitState := .online
  /-- BRINE.STATUS.in_service | 1 | 11_memory R329 | 1 -/
  service : Bool := true
  /-- BRINE.STATUS.band | 2 | 11_memory R329 | 0 -/
  band : Nat := 0
  /-- BRINE.STATUS.scrubbing | 1 | 11_memory R329 | 0 -/
  scrubbing : Bool := false
  /-- BRINE.STATUS.temp | 8 | 11_memory R329 | 0 -/
  dramTemp : Nat := 0
  /-- Package time since which every reading has lain 2 °C below the top of each band below the present one, key band |
  table of Option | 11_memory R311 | none -/
  bandBelow : Table (Option Nat) := []
  /-- CRC failures of a transfer in a row on each of the 32 channels | table of 0 to 4 | 11_memory R313 | 0 -/
  crcFails : Table Nat := []
  /-- Spare connections in service on each channel | table of 0 to 2 | 18_reliability R477 | DESIGN CHOICE 0: per repair record (entry 3) -/
  spareConns : Table Nat := []
  /-- Spare columns in service in each built bed's array, 4 built | table of 0 to 4 | 03_matrix R69, 18_reliability R477 | DESIGN CHOICE 0: per repair record (entry 3) -/
  arrayCols : Table Nat := []
  /-- Built bed of each bed number, of 17 built | table, identity where unlisted | 01_package R13, R17 | DESIGN CHOICE identity: per spare map (entry 3) -/
  bedMap : Table (Option Nat) := []
  /-- BRINE.CE.count | 32 | 11_memory R329 | 0 -/
  ce : Nat := 0
  /-- BRINE.CE.retries | 32 | 11_memory R329 | 0 -/
  retries : Nat := 0
  /-- BRINE.UE.count | 32 | 11_memory R329 | 0 -/
  ue : Nat := 0
  /-- BRINE.UE.poison_reads | 32 | 11_memory R329 | 0 -/
  poisonReads : Nat := 0
  /-- BRINE.LAST.offset | 37 | 11_memory R329 | 0 -/
  lastOff : Nat := 0
  /-- BRINE.LAST.ue | 1 | 11_memory R329 | 0 -/
  lastUe : Bool := false
  /-- BRINE.REPAIR.rows | 16 | 11_memory R329 | DESIGN CHOICE 0: per repair record (entry 3) -/
  rows : Nat := 0
  /-- BRINE.REPAIR.connections | 8 | 11_memory R329 | DESIGN CHOICE 0: per repair record (entry 3) -/
  connections : Nat := 0
  /-- BRINE.REPAIR.columns | 8 | 11_memory R329 | DESIGN CHOICE 0: per repair record (entry 3) -/
  columns : Nat := 0
  /-- Times of the last CEs of each 1 KiB brine row, for the row sparing of R477, key row number | table | 18_reliability R477 | empty -/
  rowCe : Table (List Nat) := []
  /-- Granules re-created on this pan: pan-local offsets of 256 MiB | list | 11_memory R306, R329 | empty -/
  relocated : List Nat := []
  /-- Allocated brine: (offset, bytes), both multiples of 64 KiB | list | 06_agent_state R197, 11_memory R329 | empty -/
  taken : List (Nat × Nat) := []
  /-- Held for a replacement | 1 | 18_reliability R492 | false -/
  held : Bool := false
  /-- GRAIN.FREE_SEED | 64 | 05_grains R169 | 0 -/
  freeSeed : Dword := 0
  /-- GRAIN.STATUS.refused | 1 | 05_grains R169 | 0 -/
  grainRefused : Bool := false
  /-- GRAIN.STATUS.busy | 1 | 05_grains R169 | 0 -/
  grainBusy : Bool := false
  /-- GRAIN.KEYS.count | 32 | 05_grains R169 | 0 -/
  grainKeys : Nat := 0
  /-- The bed whose KV instruction the append engine takes next, if it has one | 0 to 15 | 06_agent_state R186 | 0 -/
  kvTurn : Nat := 0
  /-- KV.OPS.done | 32 | 06_agent_state R204 | 0 -/
  kvDone : Nat := 0
  /-- KV.OPS.refused | 32 | 06_agent_state R204 | 0 -/
  kvRefused : Nat := 0
  /-- KV.ZERO_BYTES | 64 | 06_agent_state R204 | 0 -/
  kvZero : Nat := 0
  /-- Commit log of the current step: agent and C before its first commit or discard | list | 15_tally R421 | empty -/
  commitLog : List (Nat × Nat) := []
  /-- Commit log of the previous step | list | 15_tally R421 | empty -/
  commitLogPrev : List (Nat × Nat) := []
  /-- FLOOD.BYTES | 64 | 06_agent_state R205 | 0 -/
  floodBytes : Nat := 0
  /-- FLOOD.STARVED | 32 | 06_agent_state R205 | 0 -/
  starved : Nat := 0
  /-- TIDE.LATE_BEDS | 16 | 02_tide R68 | 0 -/
  lateBeds : Half := 0
  /-- TIDE.MARGIN.min_ns | 32 | 02_tide R68 | 0xFFFF_FFFF -/
  margin : Nat := 0xFFFFFFFF
  /-- TIDE registers 0x000 to 0x040 as they stood when the pan left ONLINE | Option of nine 64-bit values | 02_tide R68 | none -/
  tideKept : Option (List Dword) := none
  /-- XLAT.ROOT_0: valid, root PA, ASID | 64 | 12_translation R350 | none -/
  root0 : Option (Nat × Nat) := none
  /-- XLAT.ROOT_1 | 64 | 12_translation R350 | none -/
  root1 : Option (Nat × Nat) := none
  /-- XLAT.FAULT_INFO without valid: cause, kind, queue, bed, level, slot | 15 | 12_translation R350 | 0 -/
  xInfo : BitVec 15 := 0
  /-- XLAT.FAULT_INFO.valid | 1 | 12_translation R350 | 0 -/
  xValid : Bool := false
  /-- XLAT.FAULT_VA | 48 | 12_translation R350 | 0 -/
  xVa : Nat := 0
  /-- XLAT.FAULT_LOST | 32 | 12_translation R350 | 0 -/
  xLost : Nat := 0
  /-- XLAT.WALKS.walks | 32 | 12_translation R350 | 0 -/
  walks : Nat := 0
  /-- XLAT.WALKS.parked | 32 | 12_translation R350 | 0 -/
  parked : Nat := 0
  /-- XLAT.INVAL.applied | 32 | 12_translation R350 | 0 -/
  invals : Nat := 0
  /-- XLAT.HELD.max | 13 | 12_translation R350 | 0 -/
  heldMax : Nat := 0
  /-- Translations cached by the pan's unit | micro-TLBs and pan TLB | 12_translation R347 | empty -/
  tlb : List TlbEntry := []
  /-- Package time since which the pan has been in STOP | Option | 16_power R452 | none -/
  stopFrom : Option Nat := none
  deriving DecidableEq, Repr

/-! ### Clocked units (16_power) -/

structure Clocked where
  /-- Present clock, 25 MHz units | 8 | 16_power R455 | 0 -/
  clock : Nat := 0
  /-- Target clock | 8 | 16_power R442 | 0 -/
  target : Nat := 0
  /-- Present rail voltage, 5 mV units | 8 | 16_power R455 | 0 -/
  volts : Nat := 0
  /-- Junction temperature, °C | 8 | 16_power R455 | 0 -/
  temp : Nat := 0
  /-- Thermal state | 2 | 16_power R450, R455 | NORMAL -/
  thermal : Thermal := .normal
  /-- Stretched by a droop | 1 | 16_power R455 | 0 -/
  droop : Bool := false
  /-- Step sequencer paused by a droop | 1 | 16_power R448 | false -/
  paused : Bool := false
  /-- Droop stretches | 32 | 16_power R455 | 0 -/
  droops : Nat := 0
  /-- Package time since which every reading has lain 2 °C below the threshold of the present state | Option | 16_power R450 | none -/
  fallFrom : Option Nat := none
  deriving DecidableEq, Repr

/-! ### Core dies and cores (08_core_complex, 09_core_ordering) -/

structure CoreDie where
  /-- Unit state | 2 | 14_salter R392 | ONLINE -/
  state : UnitState := .online
  /-- DCACHE.OFFER.accepted | 32 | 08_core_complex R249 | 0 -/
  accepted : Nat := 0
  /-- DCACHE.OFFER.declined | 32 | 08_core_complex R249 | 0 -/
  declined : Nat := 0
  /-- DCACHE.CE | 32 | 08_core_complex R249 | 0 -/
  ce : Nat := 0
  /-- DCACHE.WAYS_s.disabled, by slice | 16 × 12 | 08_core_complex R249 | DESIGN CHOICE 0: per repair record (entry 3) -/
  ways : Table (BitVec 12) := []
  /-- DCACHE.WAYS_s.limit, by slice | 16 | 08_core_complex R249 | 0 -/
  limit : Half := 0
  /-- Times of the last corrected errors of each way, key slice × 16 + way | table | 08_core_complex R246 | empty -/
  wayCe : Table (List Nat) := []
  /-- Spare cores not yet used | 0 to 2 | 18_reliability R477 | 2 -/
  spareCores : Nat := 2
  /-- Local core numbers to be spared at the next drain, warm reset or boot | list | 18_reliability R477 | empty -/
  toSpare : List Nat := []
  /-- Local core numbers that have no core | 24 | 08_core_complex R227 | 0 -/
  absent : BitVec 24 := 0
  /-- LPD.STATUS.channels | 8 | 11_memory R331 | 0xFF -/
  channels : Byte := 0xFF
  /-- LPD.STATUS.temp | 8 | 11_memory R331 | 0 -/
  lpdTemp : Nat := 0
  /-- LPD.CE.count | 32 | 11_memory R331 | 0 -/
  lpdCe : Nat := 0
  /-- Link failures of a transfer in a row on each channel | table of 0 to 4 | 11_memory R325 | 0 -/
  lpdFails : Table Nat := []
  /-- LPD.CE.retries | 32 | 11_memory R331 | 0 -/
  lpdRetries : Nat := 0
  /-- LPD.UE | 32 | 11_memory R331 | 0 -/
  lpdUe : Nat := 0
  /-- LPD.LAST.offset | 38 | 11_memory R331 | 0 -/
  lpdOff : Nat := 0
  /-- LPD.LAST.ue | 1 | 11_memory R331 | 0 -/
  lpdLastUe : Bool := false
  deriving DecidableEq, Repr

/-- A store waiting in a core's FIFO (R258): its physical address and bytes; whether it is a device store, is written at the
home without allocation (a non-cacheable page, or a non-temporal store of R259), is a release (R255), or is the first store after a
FENCE.W that had stores to wait for (R256). -/
structure FifoEntry where
  pa : Nat
  data : List Byte
  device : Bool := false
  direct : Bool := false
  release : Bool := false
  fence : Bool := false
  deriving DecidableEq, Repr

/-- A load that reads device memory (R262): the device accesses it still has to send, in order, and the bytes it has. -/
structure DevLoad where
  todo : List (Nat × Nat)
  value : Nat := 0
  bytes : Nat := 0
  deriving DecidableEq, Repr

/-- A line of the write-combining buffer (R259): the bytes stored so far, by offset, each as 256 plus its value. -/
structure WcLine where
  line : Nat
  bytes : Table Half
  deriving DecidableEq, Repr

/-- A reservation (R266). -/
structure Reservation where
  line : Nat
  pa : Nat
  size : Nat
  deriving DecidableEq, Repr

/-- Why a core took a precise exception: a cause of R340, the MEMORY_TYPE abort of R252, the alignment fault of R265, the data
abort of R290, or the external abort of R272 and R273 with its cause of R274. -/
inductive AbortCause where
  | translation (code : Nat)
  | memoryType
  | alignment
  | dataError
  | external (code : Nat)
  deriving DecidableEq, Repr

/-- What a core's last exception report was: the cause and the address. -/
structure Abort where
  cause : AbortCause
  addr : Nat
  deriving DecidableEq, Repr

structure Core where
  /-- Released from reset | 1 | 10_coherence R297, 17_boot R467 | false -/
  released : Bool := false
  /-- Address the core started at | 48 | 10_coherence R297 | 0 -/
  startAt : Nat := 0
  /-- Value returned by the last load or atomic | 256 | 09_core_ordering R253 | DESIGN CHOICE 0 (entry 5) -/
  result : BitVec 256 := 0
  /-- STORE.CND's destination: 0 success, 1 failure | 1 | 09_core_ordering R266 | DESIGN CHOICE 0 (entry 5) -/
  scFail : Bool := false
  /-- Store FIFO, oldest first | 96 entries | 09_core_ordering R258 | empty -/
  fifo : List FifoEntry := []
  /-- Write-combining buffer, oldest first | 16 lines | 09_core_ordering R259 | empty -/
  wc : List WcLine := []
  /-- The reservation | Option | 09_core_ordering R266 | none -/
  rsv : Option Reservation := none
  /-- Line whose external requests are deferred | Option | 09_core_ordering R268 | none -/
  deferral : Option Nat := none
  /-- Device stores sent and not acknowledged | at most 8, one a page | 09_core_ordering R261 | empty -/
  outstanding : List FifoEntry := []
  /-- A device load sent and not answered: address and bytes | Option | 09_core_ordering R261, R271 | none -/
  devSent : Option (Nat × Nat) := none
  /-- The load that the device access sent, or still to send, is part of | Option | 09_core_ordering R262 | none -/
  devLoad : Option DevLoad := none
  /-- A FENCE.W waits to be passed by the next store | 1 | 09_core_ordering R256 | false -/
  fenced : Bool := false
  /-- Privilege level | 2 | 10_coherence R297, 08_core_complex R229 | hypervisor -/
  priv : Priv := .hypervisor
  /-- Nothing but a LOAD.RSV has come since it: a constrained loop | 1 | 09_core_ordering R268 | false -/
  inLoop : Bool := false
  /-- Lines of the L1D, the latest used last | 64 sets of 16 | 08_core_complex R233 | empty -/
  l1d : List Nat := []
  /-- Lines of the L1I: no row of the table fetches an instruction for a core, so it stays empty | 64 sets of 16 |
  08_core_complex R233 | empty -/
  l1i : List Nat := []
  /-- Counters of PMC: 0 cycles, 1 retired instructions, 2 to 7 programmable. Their registers are the instruction set reference's |
  8 × 64 | 08_core_complex R229 | DESIGN CHOICE 0 (entry 5) -/
  pmc : Table Dword := []
  /-- Breakpoints 0 to 7 and watchpoints 8 to 11 of DBG. Their registers are the instruction set reference's | 12 × 64 |
  08_core_complex R229 | DESIGN CHOICE 0 (entry 5) -/
  dbg : Table Dword := []
  /-- Device errors pending, by page | list | 09_core_ordering R273 | empty -/
  pendingErr : List Nat := []
  /-- The instruction at which the core waits: a fence, an access behind a release, or a device load behind its page's stores |
  Option | 09_core_ordering R255, R256, R258, R261; 12_translation R348 | none -/
  stall : Option Instr := none
  /-- Last exception or abort taken | Option | 09_core_ordering R272, R273; 12_translation R342 | none -/
  abort : Option Abort := none
  /-- Instructions fetched and not retired have been discarded this many times | Nat | 08_core_complex R234 | 0 -/
  discards : Nat := 0
  /-- SYS.ABT_ADDR | 48 | 09_core_ordering R274 | 0 -/
  abtAddr : Nat := 0
  /-- SYS.ABT_INFO.cause | 4 | 09_core_ordering R274 | 0 -/
  abtCause : Nat := 0
  /-- SYS.ABT_INFO.store | 1 | 09_core_ordering R274 | 0 -/
  abtStore : Bool := false
  /-- SYS.ABT_INFO.deferred | 1 | 09_core_ordering R274 | 0 -/
  abtDeferred : Bool := false
  /-- SYS.ABT_INFO.discarded | 8 | 09_core_ordering R274 | 0 -/
  abtDiscarded : Nat := 0
  /-- SYS.ABT_INFO.valid | 1 | 09_core_ordering R274 | 0 -/
  abtValid : Bool := false
  /-- CORE.PF.enable | 1 | 08_core_complex R249 | 1 -/
  pfEnable : Bool := true
  /-- CORE.PF.descend | 1 | 08_core_complex R249 | 1 -/
  pfDescend : Bool := true
  /-- CORE.PF.distance | 5 | 08_core_complex R249 | 8 -/
  pfDistance : Nat := 8
  /-- CORE.PF_COUNT.used | 32 | 08_core_complex R249 | 0 -/
  pfUsed : Nat := 0
  /-- CORE.PF_COUNT.unused | 32 | 08_core_complex R249 | 0 -/
  pfUnused : Nat := 0
  /-- Side prefetch buffer, longest waiting first: lines | 32 lines | 08_core_complex R238 | empty -/
  side : List Nat := []
  /-- Prefetches in flight: line, and whether an invalidation hit it | list | 08_core_complex R239 | empty -/
  inflight : List (Nat × Bool) := []
  /-- L1D misses seen, the latest first | lines | 08_core_complex R237 | empty -/
  misses : List Nat := []
  /-- CORE.STREAM.enable | 1 | 08_core_complex R249 | 1 -/
  strEnable : Bool := true
  /-- CORE.STREAM.engaged | 1 | 08_core_complex R249 | 0 -/
  engaged : Bool := false
  /-- Full-line stores each above the one before, and the last full line | Nat, Option | 08_core_complex R242 | 0, none -/
  strCount : Nat := 0
  strLine : Option Nat := none
  /-- The line being filled by partial stores and its written bytes | Option | 08_core_complex R242 | none -/
  strPart : Option (Nat × BitVec 64) := none
  /-- CORE.STREAM_COUNT.lines | 32 | 08_core_complex R249 | 0 -/
  strLines : Nat := 0
  /-- CORE.L2_WAYS.disabled | 16 | 08_core_complex R249 | DESIGN CHOICE 0: per repair record (entry 3) -/
  l2Ways : Half := 0
  /-- CORE.L2_WAYS.limit | 1 | 08_core_complex R249 | 0 -/
  l2Limit : Bool := false
  /-- CORE.L2_CE | 32 | 08_core_complex R249 | 0 -/
  l2Ce : Nat := 0
  /-- Times of the last corrected errors of each way | 16 × 8 | 08_core_complex R246 | empty -/
  wayCe : Table (List Nat) := []
  /-- Translations the core caches | list | 12_translation R348 | empty -/
  tlb : List TlbEntry := []
  /-- What of the vector engines' stores happens before the core's next access | table | 07_engine_ordering R212, R216 | empty -/
  view : View := []
  /-- Releases whose writes the core's loads have read, which a later fence synchronises with | list | 07_engine_ordering R215 | empty -/
  reads : List RelMark := []
  /-- Numbers of the vector engines' stores the core has read, which it cannot miss again | list | 09_core_ordering R253 | empty -/
  seen : List Nat := []
  deriving DecidableEq, Repr

/-! ### Caches, directory and coherence registers (10_coherence) -/

/-- A line held by a caching agent: state, its 64 bytes, a poison mark (R290), order of use, and, for a die cache, the
presence mask of R286 and whether the line's data has passed to the one local L2 the mask names, which holds it in M while the die
cache keeps only the tag it answers by. way is its place in its set (R233). -/
structure CacheLine where
  st : Moesi
  data : List Byte
  poison : Bool := false
  stamp : Nat := 0
  presence : BitVec 24 := 0
  way : Nat := 0
  passed : Bool := false
  deriving DecidableEq, Repr

/-- A line of a cache partition (R321): the partition, its 64 bytes, whether the DRAM is behind it, its poison mark, and order of
use. -/
structure PartLine where
  part : Nat
  data : List Byte
  dirty : Bool
  poison : Bool := false
  stamp : Nat := 0
  deriving DecidableEq, Repr

/-- A write that reached the DRAM: its number, its address, the bytes it wrote over, the bed whose DMA engine made it, and the agent
that a bed's DMA engine had asked for and that it brings in (R220). -/
structure HomeRec where
  number : Nat
  pa : Nat
  old : List Byte
  bed : Option Nat := none
  agent : Option Nat := none
  deriving DecidableEq, Repr

/-- A directory entry (R281). -/
structure DirEntry where
  st : DirState
  bcast : Bool := false
  /-- A transaction on the line is in progress (R284): clear between the steps of the model, each of which is whole. -/
  busy : Bool := false
  owner : Nat := 0xFF
  sharers : List Nat := []
  /-- Replacement order within the set, 0 the least recent | 4 bits -/
  lru : Nat := 0
  deriving DecidableEq, Repr

structure Coh where
  /-- Lines held by caching agents, key agent × 2^42 + line | caches of R233, pan caches | 10_coherence R276, R278 | empty -/
  lines : Table (Option CacheLine) := []
  /-- Directory entries, key line | 16-way sets | 10_coherence R281 | empty -/
  dir : Table (Option DirEntry) := []
  /-- Order of use, the source of stamps | Nat | 10_coherence R281, R283 | 0 -/
  clock : Nat := 0
  /-- Lines of the cache partitions: key line | 16-way sets | 11_memory R321 | empty -/
  part : Table (Option PartLine) := []
  /-- Poisoned lines of DRAM, by line number | table of 1 bit | 10_coherence R290, 11_memory R313 | none -/
  poison : Table Bool := []
  /-- Stores of vector engines to memory whose old bytes may still be read, the latest first | list | 07_engine_ordering R221 | empty -/
  kept : List StoreRec := []
  /-- Stores of vector engines so far, the source of their numbers | Nat | 07_engine_ordering R216 | 0 -/
  stores : Nat := 0
  /-- Writes that reached the DRAM while a FLOOD.Q was queued or a flood source unread, the latest first | list |
  07_engine_ordering R220 | empty -/
  homeLog : List HomeRec := []
  /-- Writes of the DRAM noted so far | Nat | 07_engine_ordering R220 | 0 -/
  homeNo : Nat := 0
  /-- COH.BCAST | 32 | 10_coherence R300 | 0 -/
  bcast : Nat := 0
  /-- COH.BACKINV | 32 | 10_coherence R300 | 0 -/
  backinv : Nat := 0
  /-- COH.STALE | 32 | 10_coherence R300 | 0 -/
  stale : Nat := 0
  /-- COH.STATUS.step | 4 | 10_coherence R300 | 0 -/
  step : Nat := 0
  /-- COH.DRAIN_COUNT.total | 32 | 10_coherence R300 | 0 -/
  drains : Nat := 0
  /-- Package time of the last cause, from which the bound of the drain in progress runs | Nat | 10_coherence R295, R298 | 0 -/
  causeAt : Nat := 0
  /-- Package times at which drains began, latest first | list | 10_coherence R298, R300 | empty -/
  drainTimes : List Nat := []
  /-- COH.LAST_DRAIN.cause | 8 | 10_coherence R300 | 0 -/
  cause : Nat := 0
  /-- COH.LAST_DRAIN.agent | 8 | 10_coherence R300 | 0xFF -/
  agent : Nat := 0xFF
  /-- COH.LAST_DRAIN.die | 8 | 10_coherence R300 | 0xFF -/
  die : Nat := 0xFF
  /-- Causes found whose drain has not begun: cause of R293, agent, die | list | 10_coherence R291 to R293 | empty -/
  declared : List (Nat × Nat × Nat) := []
  /-- COH.DRAIN_TIME | 32 | 10_coherence R300 | 0 -/
  drainUs : Nat := 0
  /-- COH.DRAIN_START | 64 | 10_coherence R300 | 0 -/
  drainStart : Nat := 0
  /-- COH.WARM_ENTRY.entry, PA[47:2] | 46 | 10_coherence R300 | 0 -/
  warmEntry : Nat := 0
  deriving DecidableEq, Repr

/-! ### Stockpile (11_memory) -/

structure Regulator where
  /-- STK.REG_n.rate | 16 | 11_memory R330 | per configuration -/
  rate : Nat := 0
  /-- STK.REG_n.borrow | 1 | 11_memory R330 | per configuration -/
  borrow : Bool := false
  /-- STK.REG_n.burst, KiB | 24 | 11_memory R330 | per configuration -/
  burst : Nat := 0
  /-- Rate, borrow and burst in force since the last refill | 16, 1, 24 | 11_memory R323 | per configuration -/
  rateNow : Nat := 0
  borrowNow : Bool := false
  burstNow : Nat := 0
  /-- STK.WAIT_n.held | 32 | 11_memory R330 | 0 -/
  held : Nat := 0
  /-- STK.WAIT_n.borrowed | 32 | 11_memory R330 | 0 -/
  borrowed : Nat := 0
  deriving DecidableEq, Repr

structure Stockpile where
  /-- Partition table in force | list of at most 16 | 11_memory R316 | the table of R317, set by the boot -/
  parts : List Partition := []
  /-- STK.CONFIG.default | 1 | 11_memory R330 | 0 -/
  dflt : Bool := false
  /-- Stockpile dies in service | mask of 6 | 11_memory R330 | set by the boot -/
  dies : BitVec 6 := 0
  /-- S0 of R318 | 0 to 6 | 11_memory R318 | set by the boot -/
  s0 : Nat := 0
  /-- Unit states of the dies | 6 × 2 | 14_salter R392 | ONLINE -/
  states : Table UnitState := []
  /-- Regulators by partition | 16 | 11_memory R322 | per configuration -/
  regs : Table Regulator := []
  /-- Tokens, key die × 16 + partition | table | 11_memory R322 | full, set by the boot -/
  tokens : Table Nat := []
  /-- Requests waiting for tokens, the same key | table | 11_memory R322 | 0 -/
  waiting : Table Nat := []
  deriving DecidableEq, Repr

/-! ### Mailboxes and the salter (14_salter) -/

structure Mailbox where
  /-- MBOX.HDR.owner | 1 | 14_salter R383 | 0 -/
  owner : Bool := false
  /-- MBOX.HDR.seq | 15 | 14_salter R383 | 0 -/
  seq : BitVec 15 := 0
  /-- MBOX.HDR.command | 16 | 14_salter R383 | 0 -/
  command : Half := 0
  /-- MBOX.HDR.length | 16 | 14_salter R383 | 0 -/
  length : Half := 0
  /-- MBOX.HDR.status | 16 | 14_salter R383 | 0 -/
  status : Half := 0
  /-- MBOX.INFO.held | 1 | 14_salter R383 | 0 -/
  held : Bool := false
  /-- MBOX.INFO.image | 1 | 14_salter R383 | 0 -/
  image : Bool := false
  /-- MBOX.INFO.detail | 32 | 14_salter R383 | 0 -/
  detail : Word := 0
  /-- MBOX.TAG | 64 | 14_salter R383 | 0 -/
  tag : Dword := 0
  /-- MBOX.TIME | 64 | 14_salter R383 | 0 -/
  time : Dword := 0
  /-- Payload | 4,032 bytes | 14_salter R383 | 0 -/
  payload : Table Byte := []
  /-- Remote mailbox: sequence of its last request | Option of 15 | 14_salter R360 (13_network) | none -/
  lastSeq : Option (BitVec 15) := none
  /-- Remote mailbox: its last MBOX_RESPONSE image | Option of bytes | 13_network R360 | none -/
  lastResponse : Option (List Byte) := none
  /-- Remote mailbox: key index, sender and port of its last request | Option | 13_network R360 | none -/
  requester : Option (Nat × Dword × Nat) := none
  deriving DecidableEq, Repr

/-- Where a migration was asked for: a mailbox, DMA.Q of a rake (pan, bed, rake slot, sd), or a rake that has since left its
bed (R201, R203). -/
inductive Origin where
  | mailbox (box : Nat)
  | rake (pan bed slot sd : Nat)
  | gone
  deriving DecidableEq, Repr

/-- A migration in the order of a tide mover (R201). -/
structure Migration where
  agent : Nat
  spill : Bool
  /-- PREFETCH: the target pan. SPILL: the owner. -/
  pan : Nat
  /-- SPILL: the image's address and capacity. -/
  pa : Nat := 0
  capacity : Nat := 0
  /-- PREFETCH: the owner field before it started. -/
  prev : Nat := 0
  tests : Nat := 0
  started : Bool := false
  /-- PREFETCH: the header offset and the taken ranges of the partial copy. -/
  header : Nat := 0
  ranges : List (Nat × Nat) := []
  origin : Origin
  deriving DecidableEq, Repr

/-- A deferred command still running (R387). -/
inductive Deferred where
  | planLoad (slot asid len pa root : Nat)
  | tideStop
  | prefetch (agent : Nat) (target : Nat)
  | spill (agent : Nat)
  | regionRegister (root asid : Nat) (rights : BitVec 5) (start len : Nat)
  | regionDeregister (key : Word)
  | panOffline (pan : Nat) (test : Bool) (repl : Option Nat)
  | panOnline (pan : Nat)
  | bistRun (kind index : Nat) (tests : BitVec 2) (before : UnitState)
  | fwStage (pa len : Nat) (crust : Bool)
  | fwSwitch
  deriving DecidableEq, Repr

/-- A registered region (R367, R368): its key, rights and the translations it keeps (virtual base, bytes, physical base). -/
structure Region where
  key : Word
  rights : BitVec 5
  start : Nat
  len : Nat
  pages : List (Nat × Nat × Nat)
  /-- Virtual bases of the pages whose C bit is clear (R370). -/
  uncached : List Nat := []
  ending : Bool := false
  deriving DecidableEq, Repr

/-- A replacement in progress (R493): pan p, its replacement r, whether the target is TEST, the mailbox whose PAN_OFFLINE
started it (none: the salter itself, R494), and whether it has begun to copy again since a drain (R495). -/
structure Replacement where
  p : Nat
  r : Nat
  test : Bool
  box : Option Nat
  restarts : Nat := 0
  deriving DecidableEq, Repr

structure Salter where
  /-- Requests latched and not yet taken, in order of latching | list of mailbox numbers | 14_salter R386 | empty -/
  latched : List Nat := []
  /-- Deferred commands running | mailbox and command | 14_salter R387 | empty -/
  deferred : List (Nat × Deferred) := []
  /-- MBOX.CTL_STATUS.switching | 1 | 14_salter R410 | 0 -/
  switching : Bool := false
  /-- MBOX.CTL_STATUS.held_ports | 1 | 14_salter R405, R410 | 0 -/
  heldPorts : Bool := false
  /-- MBOX.IGNORED | 32 | 14_salter R410 | 0 -/
  ignored : Nat := 0
  /-- MBOX.STOPS | 32 | 14_salter R410 | 0 -/
  stops : Nat := 0
  /-- MBOX.LAST_STOP | 64 | 14_salter R410 | 0 -/
  lastStop : Nat := 0
  /-- Management window: base, length, mode | 48, 32, 2 | 14_salter R407 | disabled -/
  winBase : Nat := 0
  winLen : Nat := 0
  winMode : Nat := 0
  /-- Active control die | 1 | 14_salter R399, R409 | 0 -/
  active : Nat := 0
  /-- Unit states of the control dies | 2 × 2 | 14_salter R392 | ONLINE -/
  dies : Table UnitState := []
  /-- Migrations in each tide mover's order, key pan | table | 06_agent_state R201 | empty -/
  movers : Table (List Migration) := []
  /-- Replacement in progress | Option | 18_reliability R493 | none -/
  repl : Option Replacement := none
  /-- Regions by index | table | 13_network R367 | empty -/
  regions : Table (Option Region) := []
  /-- Generation of each region index, advanced at each registration | 12 bits each | 13_network R367 | 0 -/
  regionGen : Table Nat := []
  /-- Next mirrored message counter for each control key | table | 13_network R356 | 0 -/
  sendSeq : Table Nat := []
  /-- Accepted sequence state: (sender, key, highest, 64-bit window) | list | 13_network R358 | empty -/
  recvSeq : List (Dword × Nat × Nat × BitVec 64) := []
  /-- Directory address of R172 | 48 | 06_agent_state R172 | DESIGN CHOICE 0x1011_F000_0000 (entry 6) -/
  dirPa : Nat := 0x1011F0000000
  /-- Reserved contents with one copy only, by granule number | list | 11_memory R306, 15_tally R425 | empty -/
  single : List Nat := []
  /-- Physical address of each reserved granule that was re-created, key granule | table | 11_memory R306 | R304's placement -/
  granuleAt : Table (Option Nat) := []
  deriving DecidableEq, Repr

/-! ### Package -/

structure Package where
  /-- Package state | 3 | 14_salter R391 | DESIGN CHOICE OFF: State.reset is the unpowered module (entry 1) -/
  st : PkgState := .off
  /-- State to return to after a drain | 3 | 10_coherence R295 | DESIGN CHOICE ready (entry 1) -/
  back : PkgState := .ready
  /-- STOP_ALL arrived during the drain | 1 | 14_salter R404 | false -/
  stopInDrain : Bool := false
  /-- The late tide's step waits to be run again after a drain | 1 | 10_coherence R296 | false -/
  rerun : Bool := false
  /-- Last step of R467 completed | 4 | 17_boot R467, 19_module R508 | 0 -/
  bootStep : Nat := 0
  /-- The interleave set | list of pans | 11_memory R307 | set by the boot -/
  interleave : List Nat := []
  /-- Dies lost and not back until package reset, by die code | list | 10_coherence R295, 18_reliability R480 | empty -/
  lostDies : List Nat := []
  /-- Physical pan behind each pan number exchanged by a replacement | table, identity by default | 18_reliability R493 | identity -/
  panMap : Table Nat := []
  deriving DecidableEq, Repr

/-! ### Network (13_network) -/

structure Port where
  /-- NET.PORT_STATUS.link | 1 | 13_network R379 | 0 -/
  link : Bool := false
  /-- NET.PORT_STATUS.macsec | 1 | 13_network R379 | 0 -/
  macsec : Bool := false
  /-- NET.PORT_STATUS.spare | 1 | 13_network R379 | DESIGN CHOICE 0: per repair record (entry 3) -/
  spare : Bool := false
  /-- A lane has failed with the spare SerDes in use: the port stays down | 1 | 18_reliability R477 | false -/
  dead : Bool := false
  /-- NET.PORT_STATUS.retrains | 16 | 13_network R379 | 0 -/
  retrains : Nat := 0
  /-- NET.PORT_FRAMES.rx | 32 | 13_network R379 | 0 -/
  rx : Nat := 0
  /-- NET.PORT_FRAMES.tx | 32 | 13_network R379 | 0 -/
  tx : Nat := 0
  /-- NET.PORT_DROP.fcs | 16 | 13_network R379 | 0 -/
  dropFcs : Nat := 0
  /-- NET.PORT_DROP.ctl | 16 | 13_network R379 | 0 -/
  dropCtl : Nat := 0
  /-- NET.PORT_DROP.icrc | 16 | 13_network R379 | 0 -/
  dropIcrc : Nat := 0
  /-- NET.PORT_DROP.qp | 16 | 13_network R379 | 0 -/
  dropQp : Nat := 0
  /-- NET.PORT_NAK.access | 32 | 13_network R379 | 0 -/
  nakAccess : Nat := 0
  /-- NET.PORT_NAK.rnr | 32 | 13_network R379 | 0 -/
  nakRnr : Nat := 0
  /-- NET.PORT_ECN.cnp_rx | 32 | 13_network R379 | 0 -/
  cnpRx : Nat := 0
  /-- NET.PORT_ECN.cnp_tx | 32 | 13_network R379 | 0 -/
  cnpTx : Nat := 0
  /-- NET.PORT_CTL.accepted | 32 | 13_network R379 | 0 -/
  ctlAccepted : Nat := 0
  /-- NET.PORT_CTL.sent | 32 | 13_network R379 | 0 -/
  ctlSent : Nat := 0
  /-- Priorities whose egress a pause holds | 7 | 13_network R353 | 0 -/
  paused : BitVec 7 := 0
  deriving DecidableEq, Repr

/-- A send entry that has been sent and awaits its acknowledgement (R365, R366). opcode is the entry's; index its ring
position; psn its first and last PSN. -/
structure Sent where
  index : Nat
  opcode : Nat
  psn : Nat
  last : Nat
  signaled : Bool
  wrId : Dword
  len : Nat
  lva : Nat
  lkey : Word
  rva : Nat
  rkey : Word
  imm : Word
  /-- The output slot, of a release transfer's data or marker (R373). -/
  rel : Option Nat := none
  /-- The marker's eight bytes; empty for a request whose data lies in a region. -/
  inline : List Byte := []
  deriving DecidableEq, Repr

/-- A release transfer of R373: its plan slot, output slot, step and bytes, whether its marker is out, and whether it has
failed (R376). -/
structure Release where
  planSlot : Nat
  slot : Nat
  step : Nat
  bytes : Nat
  markerOut : Bool := false
  failed : Bool := false
  deriving DecidableEq, Repr

structure Qp where
  /-- Context of R363 as last written | fields | 13_network R363 | absent -/
  raw : Bool := false
  state : QpState := .reset
  port : Nat := 0
  pmtu : Nat := 1
  retryCnt : Nat := 0
  rnrRetry : Nat := 0
  timeout : Nat := 1
  minRnr : Nat := 0
  maxRd : Nat := 1
  priority : Nat := 0
  dscp : Nat := 0
  flags : Nat := 0
  destQpn : Nat := 0
  sqPsn : Nat := 0
  rqPsn : Nat := 0
  filter : Word := 0
  remoteIp : BitVec 128 := 0
  remoteMac : BitVec 48 := 0
  sqLog : Nat := 4
  rqLog : Nat := 4
  sqBase : Nat := 0
  rqBase : Nat := 0
  cqBase : Nat := 0
  /-- Send queue producer and consumer index | 16, 16 | 13_network R365, R379 | 0 -/
  sqPi : Nat := 0
  sqCi : Nat := 0
  /-- Receive queue producer and consumer index | 16, 16 | 13_network R365, R379 | 0 -/
  rqPi : Nat := 0
  rqCi : Nat := 0
  /-- Completion queue producer and consumer index | counts | 13_network R365, R379 | 0 -/
  cqPi : Nat := 0
  cqCi : Nat := 0
  /-- Sent and unacknowledged | list, oldest first | 13_network R366 | empty -/
  sent : List Sent := []
  /-- Retries made of the oldest request | 0 to 7 | 13_network R366 | 0 -/
  retries : Nat := 0
  /-- RNR retries made | 0 to 6 | 13_network R366 | 0 -/
  rnrRetries : Nat := 0
  /-- Waiting for the RNR timer, with its code | Option | 13_network R366 | none -/
  rnrWait : Option Nat := none
  /-- Atomic results kept for repeated requests: PSN and value | at most max_rd | 13_network R370 | empty -/
  saved : List (Nat × Dword) := []
  /-- A message was interrupted by a drain | 1 | 13_network R375 | false -/
  drained : Bool := false
  /-- Pacing rate Rc, Mb/s | Nat | 13_network R377 | 1,600,000 -/
  rc : Nat := 1600000
  /-- Target rate Rt, Mb/s | Nat | 13_network R377 | 1,600,000 -/
  rt : Nat := 1600000
  /-- Increases since the last notification | Nat | 13_network R377 | 0 -/
  rises : Nat := 0
  /-- Package times of the last rate decrease and the last notification sent | Option, Option | 13_network R377 | none -/
  lastCut : Option Nat := none
  lastCnp : Option Nat := none
  /-- Release transfers in progress or failed | list | 13_network R373, R376 | empty -/
  rels : List Release := []
  deriving DecidableEq, Repr

structure IoDie where
  /-- Unit state | 2 | 14_salter R392 | ONLINE -/
  state : UnitState := .online
  /-- NET.QP_CTX.addr | 48 | 13_network R379 | 0 -/
  qpCtx : Nat := 0
  /-- NET.QP_STATUS.busy | 1 | 13_network R379 | 0 -/
  busy : Bool := false
  /-- NET.QP_STATUS.status | 16 | 13_network R379 | 0 -/
  status : Half := 0
  /-- NET.QP_STATUS.ignored | 32 | 13_network R379 | 0 -/
  ignored : Nat := 0
  /-- NET.RELTAB_0: enable and address | 1, 48 | 13_network R379 | 0 -/
  rel0 : Bool × Nat := (false, 0)
  /-- NET.RELTAB_1 | 1, 48 | 13_network R379 | 0 -/
  rel1 : Bool × Nat := (false, 0)
  deriving DecidableEq, Repr

/-! ### Tally (15_tally) -/

/-- An open entry (R415): the agent's request with its payload. -/
structure Entry where
  agent : Nat
  seq : Nat
  units : Nat
  bytes : Nat
  tag : Dword
  number : Nat
  time : Nat
  stateLost : Bool := false
  payload : List Byte
  deriving DecidableEq, Repr

/-- A row of the sequence table (R411, R420). -/
structure SeqRow where
  a : Nat := 0
  d : Nat := 0
  deriving DecidableEq, Repr

structure Ring where
  /-- TALLY.RING_BASE_r.enable | 1 | 15_tally R433 | 0 -/
  enable : Bool := false
  /-- TALLY.RING_BASE_r.size | 5 | 15_tally R433 | 0 -/
  size : Nat := 0
  /-- TALLY.RING_BASE_r.base, PA[47:12] | 36 | 15_tally R433 | 0 -/
  base : Nat := 0
  /-- TALLY.RING_IDX_r.producer | 32 | 15_tally R433 | 0 -/
  producer : Word := 0
  /-- TALLY.RING_IDX_r.consumer | 32 | 15_tally R433 | 0 -/
  consumer : Word := 0
  deriving DecidableEq, Repr

/-- One answer of a round, before it is written (R416, R417). -/
structure Answer where
  ring : Nat
  pa : List Nat
  units : Nat
  status : Nat
  dup : Bool := false
  done : Bool := false
  number : Nat := 0
  time : Nat := 0
  kind : Nat := 0
  agent : Nat := 0
  seq : Nat := 0
  entry : Option Entry := none
  held : Bool := false
  deriving DecidableEq, Repr

/-- A round that is not yet durable (R417). -/
structure Round where
  number : Nat
  started : Nat
  answers : List Answer
  deriving DecidableEq, Repr

/-- A step record (R422). result: 0 OK, 1 FAILED, 2 SKIPPED, 3 STOPPED, 4 REWOUND, 5 RELEASE_FAILED, 6 RELEASE_REISSUED. -/
structure StepRecord where
  result : Nat
  step : Nat
  tide : Nat
  position : Nat := 0
  cause : Nat := 0
  slot : Nat := 0
  deriving DecidableEq, Repr

structure Tally where
  /-- Submission rings | 16 | 15_tally R414 | disabled -/
  rings : Table Ring := []
  /-- A and D of each agent id | 262,144 × 2 × 32 | 15_tally R411 | 0 -/
  seqs : Table SeqRow := []
  /-- Open entries | list | 15_tally R420 | empty -/
  entries : List Entry := []
  /-- Tally numbers given out | 64 | 15_tally R420 | 0 -/
  nextNumber : Nat := 0
  /-- TALLY.ROUND | 64 | 15_tally R433 | 0 -/
  round : Nat := 0
  /-- TALLY.STATUS.mode: paired | 1 | 15_tally R433 | per configuration -/
  paired : Bool := false
  /-- TALLY.STATUS.replay | 1 | 15_tally R433 | 0 -/
  replay : Bool := false
  /-- Cause of the replay | 1 to 5 | 15_tally R426 | 0 -/
  cause : Nat := 0
  /-- TALLY.STATUS.restoring | 1 | 15_tally R433 | 0 -/
  restoring : Bool := false
  /-- TALLY.STATUS.supply | 1 | 15_tally R433 | 0 -/
  supply : Bool := false
  /-- TALLY.STATUS.pair_down | 1 | 15_tally R433 | 0 -/
  pairDown : Bool := false
  /-- TALLY.STATUS.epoch | 32 | 15_tally R433 | 0 at first manufacture -/
  epoch : Nat := 0
  /-- TALLY.COUNT.accepted | 32 | 15_tally R433 | 0 -/
  accepted : Nat := 0
  /-- TALLY.COUNT.dup | 32 | 15_tally R433 | 0 -/
  dups : Nat := 0
  /-- TALLY.REFUSED.bad | 32 | 15_tally R433 | 0 -/
  bad : Nat := 0
  /-- TALLY.REFUSED.busy | 16 | 15_tally R433 | 0 -/
  busyCount : Nat := 0
  /-- TALLY.REFUSED.nofit | 16 | 15_tally R433 | 0 -/
  nofit : Nat := 0
  /-- TALLY.STEP.settled | 32 | 15_tally R433 | 0 -/
  settled : Nat := 0
  /-- TALLY.STEP.rewound | 32 | 15_tally R433 | 0 -/
  rewound : Nat := 0
  /-- TALLY.REPLAY_BASE.addr | 48 | 15_tally R433 | 0 -/
  replayBase : Nat := 0
  /-- TALLY.REPLAY_LEN.bytes | 32 | 15_tally R433 | 0 -/
  replayLen : Nat := 0
  /-- TALLY.REPLAY_STATUS.written | 32 | 15_tally R433 | 0 -/
  written : Nat := 0
  /-- Snapshot of the present epoch | Option | 15_tally R426 | none -/
  snapshot : Option (List Entry) := none
  /-- Round waiting for the partner | Option | 15_tally R417, R418 | none -/
  open_ : Option Round := none
  /-- Consecutive void rounds | Nat | 15_tally R419 | 0 -/
  voids : Nat := 0
  /-- Step records, oldest first | list | 15_tally R422 | empty -/
  steps : List StepRecord := []
  /-- The partner's open entries in the mirror area | list | 15_tally R428 | empty -/
  mirror : List Entry := []
  /-- The partner's sequence table | table | 15_tally R428 | 0 -/
  mirrorSeqs : Table SeqRow := []
  /-- Mirror stream being received: op, number, total bytes, bytes held from offset 0 | Option | 15_tally R429 | none -/
  stream : Option (Nat × Nat × Nat × List Byte) := none
  /-- Stream numbers used | Nat | 15_tally R429 | 0 -/
  streamNo : Nat := 0
  /-- Stream number of the SYNC that awaits its acknowledgement | Option | 15_tally R419 | none -/
  syncNo : Option Nat := none
  deriving DecidableEq, Repr

/-! ### Power (16_power) -/

structure Power where
  /-- PWR.CAP.watts | 16 | 16_power R455 | per configuration: 3600 -/
  cap : Nat := 3600
  /-- PWR.STATUS.over | 1 | 16_power R455 | 0 -/
  overCap : Bool := false
  /-- PWR.STATUS.envelope | 1 | 16_power R455 | 0 -/
  envelope : Bool := false
  /-- PWR.STATUS.refused | 1 | 16_power R455 | 0 -/
  refused : Bool := false
  /-- Package time of the last supply warning | Nat | 15_tally R427, 16_power R435 | 0 -/
  warnAt : Nat := 0
  /-- CAP_RAISED already logged for the present excess | 1 | 02_tide R52 | false -/
  raised : Bool := false
  /-- PWR.STATUS.converters | 3 | 16_power R455 | 4 -/
  converters : Nat := 4
  /-- PWR.INPUT.mv | 16 | 16_power R455 | 0 -/
  mv : Nat := 0
  /-- PWR.INPUT.watts | 16 | 16_power R455 | 0 -/
  watts : Nat := 0
  /-- PWR.INPUT.min_mv | 16 | 16_power R455 | 0xFFFF -/
  minMv : Nat := 0xFFFF
  /-- PWR.GOVERN: governing, measured, estimate | 3 × 16 | 16_power R455 | 0 -/
  governing : Nat := 0
  measured : Nat := 0
  estimate : Nat := 0
  /-- PWR.SENSOR_FAIL.pans | 20 | 16_power R455 | 0 -/
  failPans : BitVec 20 := 0
  /-- PWR.SENSOR_FAIL.cores | 8 | 16_power R455 | 0 -/
  failCores : Byte := 0
  /-- PWR.SENSOR_FAIL.input | 1 | 16_power R455 | 0 -/
  failInput : Bool := false
  /-- PWR.SENSOR_FAIL.other | 1 | 16_power R455 | 0 -/
  failOther : Bool := false
  /-- PWR.DROOP_THRESH.mv | 8 | 16_power R455 | 0x1E -/
  droopMv : Nat := 0x1E
  /-- Pan clocks, voltages and thermal states | 20 | 16_power R455 | 0 -/
  pans : Table Clocked := []
  /-- Core-die clocks, voltages and thermal states | 8 | 16_power R455 | 0 -/
  cores : Table Clocked := []
  /-- Phases retired of each rail, key rail number of HK.RAIL_FAIL | table | 16_power R438 | DESIGN CHOICE 0: per repair record (entry 3) -/
  phases : Table Nat := []
  /-- Rails switched off for want of phases | list of rail numbers | 18_reliability R477 | empty -/
  railsOff : List Nat := []
  deriving DecidableEq, Repr

/-! ### Module, housekeeping and discrete signals (19_module) -/

structure Module where
  /-- Housekeeping supply on | 1 | 19_module R505 | DESIGN CHOICE false (entry 1) -/
  hkOn : Bool := false
  /-- HK.STATUS.seq | 3 | 19_module R508 | OFF -/
  seq : Seq := .off
  /-- PWR_EN as sampled | 1 | 19_module R508 | 0 -/
  pwrEn : Bool := false
  /-- COOLANT_OK as sampled | 1 | 19_module R508 | 0 -/
  coolantOk : Bool := false
  /-- PKG_RESET_N high | 1 | 19_module R505 (10 kΩ pull-up), R508 reset 0 | true -/
  resetN : Bool := true
  /-- SUPPLY_WARN_N driven low | 1 | 19_module R508 | 0 -/
  warn : Bool := false
  /-- THERMTRIP_N driven low | 1 | 19_module R505 | false -/
  trip : Bool := false
  /-- HK.STATUS.boot_fail | 1 | 19_module R508 | 0 -/
  bootFail : Bool := false
  /-- HK.RAIL_FAIL.rail | 6 | 19_module R508 | 0 -/
  rail : Nat := 0
  /-- HK.RAIL_FAIL.cause | 2 | 19_module R508 | 0 -/
  railCause : Nat := 0
  /-- HK.BOOT.die0, die1: failed step 2 | 2 | 19_module R508 | 0 -/
  die0 : Bool := false
  die1 : Bool := false
  /-- HK.INPUT.mv | 16 | 19_module R508 | 0 -/
  mv : Nat := 0
  /-- HK.TEMP: inlet, outlet, board | 3 × 8 | 19_module R508 | 0 -/
  inlet : Nat := 0
  outlet : Nat := 0
  board : Nat := 0
  /-- HK.FLASH_ADDR | 32 | 19_module R508 | 0 -/
  flashAddr : Nat := 0
  /-- Flash operation running: op and address | Option | 19_module R509 | none -/
  flashOp : Option (Nat × Nat) := none
  /-- HK.FLASH_STATUS.refused | 1 | 19_module R508 | 0 -/
  flashRefused : Bool := false
  /-- HK.FLASH_STATUS.error | 1 | 19_module R508 | 0 -/
  flashError : Bool := false
  /-- HK.FLASH_DATA | 256 bytes | 19_module R508 | 0 -/
  flashData : Table Byte := []
  /-- Bytes of the boot flash; an unlisted byte reads 0xFF | 512 MiB or more | 17_boot R465 | DESIGN CHOICE erased (entry 7) -/
  flash : Table Byte := []
  /-- A power-up waits for the flash operation: its arguments | Option | 19_module R509 | none -/
  powerWait : Option (Nat × Bool × Bool) := none
  /-- Dynamic I3C address | Option of 7 | 19_module R507 | none -/
  dynAddr : Option (BitVec 7) := none
  /-- Package rails up | 1 | 16_power R439 | false -/
  rails : Bool := false
  /-- EXTEST loaded during the present low of PKG_RESET_N | 1 | 19_module R514 | false -/
  extest : Bool := false
  /-- The instruction each TAP holds | table | 19_module R514 | BYPASS -/
  taps : Table TapInstr := []
  /-- Package time at which PWR_EN last fell | Nat | 16_power R440 | 0 -/
  fellAt : Nat := 0
  deriving DecidableEq, Repr

/-! ### Trust and firmware (17_boot) -/

/-- A signed image or record as a flash slot holds it (R461): its header's fields, its first 256 bytes, its body, and whether it
passes every check of R461 except the version check. -/
structure Image where
  secVersion : Nat := 0
  version : Nat := 0
  sequence : Nat := 0
  entry : Nat := 0
  header : List Byte := []
  body : List Byte := []
  good : Bool := true
  deriving DecidableEq, Repr

structure Trust where
  /-- Measurement registers M0 to M7 | 8 × 384 | 17_boot R472 | 0 -/
  m : Table (BitVec 384) := []
  /-- CTR_CRUST | 32 | 17_boot R465 | DESIGN CHOICE 0 (entry 8) -/
  ctrCrust : Nat := 0
  /-- CTR_LIQUOR | 32 | 17_boot R465 | DESIGN CHOICE 0 (entry 8) -/
  ctrLiquor : Nat := 0
  /-- CTR_SITE | 32 | 17_boot R465 | DESIGN CHOICE 0 (entry 8) -/
  ctrSite : Nat := 0
  /-- Cold boots since manufacture | 32 | 17_boot R473 | DESIGN CHOICE 0 (entry 8) -/
  boots : Nat := 0
  /-- Flash slots, key type × 2 + slot | Option of an image | 17_boot R462, R465 | DESIGN CHOICE one good image of each type in slot 0 (entry 8) -/
  flash : Table (Option Image) :=
    [(2, some {}), (4, some {}), (6, some {}), (32, some {}), (36, some {}), (38, some {})]
  /-- Images in force, key type | Option of an image | 17_boot R467 | none before boot -/
  running : Table (Option Image) := []
  /-- A staged liquor: the flash slot it lies in | Option | 17_boot R474 | none -/
  staged : Option Nat := none
  /-- Phase of FW_SWITCH: 0 none, 1 before cut-over, 2 after | 2 | 17_boot R475 | 0 -/
  switchPhase : Nat := 0
  /-- RANDOM requests since the last seeding | 21 | 17_boot R460 | 0 -/
  drbgCount : Nat := 0
  /-- Generator stopped by a health-test failure | 1 | 17_boot R460 | false -/
  drbgFailed : Bool := false
  /-- Seedings so far | Nat | 17_boot R460 | 0 -/
  drbgSeeds : Nat := 0
  /-- Liquor restarts, package times, latest first | list | 17_boot R470 | empty -/
  restarts : List Nat := []
  /-- Repair record: appended entries, oldest first, with their sequence | list | 17_boot R463 | empty -/
  repair : List (Nat × List Byte) := []
  /-- Protection changes granted on request | list of granules | 17_boot R457 | empty -/
  protectDone : List Nat := []
  /-- I/O dies whose engines hold keys | 4 | 17_boot R457 | 0 -/
  keysLoaded : BitVec 4 := 0
  /-- The boot BIST ran and passed | 1 | 17_boot R473 | 0 -/
  bistPassed : Bool := false
  /-- Status of the last crust call | 16 | 17_boot R457 | DESIGN CHOICE 0 (entry 5) -/
  callStatus : Half := 0
  /-- Bytes the last crust call returned | bytes | 17_boot R457 | DESIGN CHOICE empty (entry 5) -/
  callData : List Byte := []
  /-- Alias key pair in force, by the free draw that made it | index | 17_boot R472 | DESIGN CHOICE 0: none before a boot (entry 20) -/
  aliasKey : Nat := 0
  /-- Signature of the alias certificate | 96 bytes | 17_boot R472 | DESIGN CHOICE empty: none before a boot (entry 20) -/
  aliasCert : List Byte := []
  /-- Flash slot in use of each image type | 1 bit each | 17_boot R466, R475 | DESIGN CHOICE 0 (entry 8) -/
  slotOf : Table Nat := []
  /-- PUF of each control die works | 2 × 1 | 17_boot R458 | DESIGN CHOICE true (entry 8) -/
  puf0 : Bool := true
  puf1 : Bool := true
  deriving DecidableEq, Repr

/-! ### Outputs -/

/-- What the block has sent out of itself. -/
inductive Output where
  | skipNotice (ident : Dword) (key seq : Nat) (planId : Dword) (tide position cause : Nat)
  | mboxResponse (box : Nat) (ident : Dword) (key seq : Nat) (image : List Byte)
  | mirror (ident : Dword) (op number : Nat) (data : List Byte)
  | mirrorAck (ident : Dword) (number held status : Nat)
  | roceRequest (port q opcode psn len : Nat) (data : List Byte)
  | roceAck (port q psn : Nat)
  | roceNak (port q psn : Nat) (kind : NakKind)
  | roceRead (port q psn : Nat) (data : List Byte)
  | roceAtomic (port q psn : Nat) (old : Dword)
  | cnp (port q : Nat)
  | frame (port prio : Nat) (bytes : List Byte)
  | ptpDelayRequest (port : Nat) (peer : Bool)
  | mgmt (op status : Nat) (tag : Word) (data : List Byte)
  | events (first count : Nat)
  | tidePulse (n : Nat)
  deriving DecidableEq, Repr

/-! ### The state -/

structure State where
  /-- Commands waiting, first in, first out | list | the block's form | empty -/
  pending : List Instr
  /-- The model's own counter of free values drawn | Nat | no rule | DESIGN CHOICE 0 (entry 2) -/
  free : Nat
  /-- Package time, ns since the PTP epoch | Nat | 02_tide R27, R37 | DESIGN CHOICE 0 (entry 4) -/
  now : Nat
  /-- Value the last register read returned | 64 | 00_scope R9, R12 | DESIGN CHOICE 0 (entry 5) -/
  bus : Dword
  /-- What the block has sent, latest first | list | 13_network, 14_salter, 19_module | empty -/
  out : List Output
  /-- The configuration record -/
  cfg : ConfigRecord
  /-- Package state -/
  pkg : Package
  /-- Boot flash, measurements, counters, firmware -/
  trust : Trust
  /-- Housekeeping controller and discrete signals -/
  board : Module
  /-- Power controller and its registers -/
  power : Power
  /-- Event log, ring and delivery -/
  events : Events
  /-- Time base -/
  time : TimeBase
  /-- Tide logic -/
  tide : Tide
  /-- Plan slots 0 and 1 | Option | 02_tide R41 | free -/
  plan0 : Option Plan
  plan1 : Option Plan
  /-- Physical memory, key canonical physical address | 48-bit map | 11_memory R327 | zero (17_boot R467 step 7) -/
  mem : Table Byte
  /-- Caches, directory and COH registers -/
  coh : Coh
  /-- Stockpile partitions and regulators -/
  stk : Stockpile
  /-- Pans, key pan number -/
  pans : Table Pan
  /-- Beds, key pan × 16 + bed -/
  beds : Table Bed
  /-- Rake slots, key (pan × 16 + bed) × 48 + slot -/
  rakes : Table Rake
  /-- Core dies, key die -/
  coreDies : Table CoreDie
  /-- Cores, key core number of R227 -/
  cores : Table Core
  /-- I/O dies, key die -/
  ioDies : Table IoDie
  /-- Ports, key port number of R351 -/
  ports : Table Port
  /-- Queue pairs, key index q -/
  qps : Table (Option Qp)
  /-- Mailboxes, key mailbox number of R380 -/
  boxes : Table Mailbox
  /-- Salter -/
  salter : Salter
  /-- Tally -/
  tally : Tally
  deriving DecidableEq, Repr

/-- The machine right after reset: the unpowered module with every register at the value the manual's Reset column
gives, nothing running and no command waiting (entry 1). -/
def State.reset : State where
  pending := []
  free := 0
  now := 0
  bus := 0
  out := []
  cfg := {}
  pkg := {}
  trust := {}
  board := {}
  power := {}
  events := {}
  time := {}
  tide := {}
  plan0 := none
  plan1 := none
  mem := []
  coh := {}
  stk := {}
  pans := []
  beds := []
  rakes := []
  coreDies := []
  cores := []
  ioDies := []
  ports := []
  qps := []
  boxes := []
  salter := {}
  tally := {}

end Sys2Proof.Machine
end

