-- ==== Sys2Proof/Machine/Ops.lean ====
section
/-!
DEFINITION. The named operations over the state's tables, the counts of the variants (R1), free values, events (R483, R484)
and outputs. -/

namespace Sys2Proof.Machine

/-! ### Variants (R1) -/

def Variant.pans (v : Variant) : Nat :=
  match v with
  | .a20 => 20
  | .a16 => 16
  | .a12 => 12

def Variant.coreDies (v : Variant) : Nat :=
  match v with
  | .a20 => 8
  | .a16 => 6
  | .a12 => 4

def Variant.cores (v : Variant) : Nat := 24 * v.coreDies

def Variant.ioDies (v : Variant) : Nat :=
  match v with
  | .a20 => 4
  | .a16 => 4
  | .a12 => 2

def Variant.ports (v : Variant) : Nat := 4 * v.ioDies

def Variant.stkDies (v : Variant) : Nat :=
  match v with
  | .a20 => 6
  | .a16 => 4
  | .a12 => 4

/-- The tally mirror engine and the MACsec engines are absent from the PLN9-A12; so is the write-combining buffer. -/
def Variant.full (v : Variant) : Bool :=
  match v with
  | .a20 => true
  | .a16 => true
  | .a12 => false

/-! ### Reading and updating one unit -/

def State.pan (s : State) (p : Nat) : Pan := tget {} s.pans p
def State.setPan (s : State) (p : Nat) (x : Pan) : State := { s with pans := tput {} s.pans p x }
def State.updPan (s : State) (p : Nat) (f : Pan → Pan) : State := s.setPan p (f (s.pan p))

def bedKey (p b : Nat) : Nat := p * 16 + b
def State.bed (s : State) (p b : Nat) : Bed := tget {} s.beds (bedKey p b)
def State.setBed (s : State) (p b : Nat) (x : Bed) : State := { s with beds := tput {} s.beds (bedKey p b) x }
def State.updBed (s : State) (p b : Nat) (f : Bed → Bed) : State := s.setBed p b (f (s.bed p b))

def rakeKey (p b r : Nat) : Nat := (p * 16 + b) * 48 + r
def State.rake (s : State) (p b r : Nat) : Rake := tget {} s.rakes (rakeKey p b r)
def State.setRake (s : State) (p b r : Nat) (x : Rake) : State :=
  { s with rakes := tput {} s.rakes (rakeKey p b r) x }
def State.updRake (s : State) (p b r : Nat) (f : Rake → Rake) : State := s.setRake p b r (f (s.rake p b r))

def State.coreDie (s : State) (d : Nat) : CoreDie := tget {} s.coreDies d
def State.updCoreDie (s : State) (d : Nat) (f : CoreDie → CoreDie) : State :=
  { s with coreDies := tput {} s.coreDies d (f (s.coreDie d)) }

def State.core (s : State) (n : Nat) : Core := tget {} s.cores n
def State.setCore (s : State) (n : Nat) (x : Core) : State := { s with cores := tput {} s.cores n x }
def State.updCore (s : State) (n : Nat) (f : Core → Core) : State := s.setCore n (f (s.core n))

def State.ioDie (s : State) (i : Nat) : IoDie := tget {} s.ioDies i
def State.updIoDie (s : State) (i : Nat) (f : IoDie → IoDie) : State :=
  { s with ioDies := tput {} s.ioDies i (f (s.ioDie i)) }

def State.port (s : State) (j : Nat) : Port := tget {} s.ports j
def State.updPort (s : State) (j : Nat) (f : Port → Port) : State :=
  { s with ports := tput {} s.ports j (f (s.port j)) }

def State.qp (s : State) (q : Nat) : Option Qp := tget none s.qps q
def State.setQp (s : State) (q : Nat) (x : Option Qp) : State := { s with qps := tput none s.qps q x }

def State.box (s : State) (m : Nat) : Mailbox := tget {} s.boxes m
def State.updBox (s : State) (m : Nat) (f : Mailbox → Mailbox) : State :=
  { s with boxes := tput {} s.boxes m (f (s.box m)) }

def State.updTide (s : State) (f : Tide → Tide) : State := { s with tide := f s.tide }
def State.updTally (s : State) (f : Tally → Tally) : State := { s with tally := f s.tally }
def State.updSalter (s : State) (f : Salter → Salter) : State := { s with salter := f s.salter }
def State.updPkg (s : State) (f : Package → Package) : State := { s with pkg := f s.pkg }
def State.updEvents (s : State) (f : Events → Events) : State := { s with events := f s.events }
def State.updPower (s : State) (f : Power → Power) : State := { s with power := f s.power }
def State.updBoard (s : State) (f : Module → Module) : State := { s with board := f s.board }
def State.updTrust (s : State) (f : Trust → Trust) : State := { s with trust := f s.trust }
def State.updCoh (s : State) (f : Coh → Coh) : State := { s with coh := f s.coh }
def State.updStk (s : State) (f : Stockpile → Stockpile) : State := { s with stk := f s.stk }
def State.updTime (s : State) (f : TimeBase → TimeBase) : State := { s with time := f s.time }

def State.plan (s : State) (slot : Nat) : Option Plan := if slot = 0 then s.plan0 else s.plan1
def State.setPlan (s : State) (slot : Nat) (p : Option Plan) : State :=
  if slot = 0 then { s with plan0 := p } else { s with plan1 := p }

/-! ### Free values and outputs -/

/-- The i-th free value of this step (entry 2). -/
def State.draw (s : State) (i : Nat) : Nat := Config.free s.free i

/-- The step has drawn its free values: the next step draws others. -/
def State.drawn (s : State) : State := { s with free := s.free + 1 }

/-- Something leaves the block. -/
def State.emit (s : State) (o : Output) : State := { s with out := o :: s.out }

/-! ### Units and dies -/

def dieOfPan (p : Nat) : Nat := p
def dieOfCore (d : Nat) : Nat := 32 + d
def dieOfIo (i : Nat) : Nat := 64 + i
def dieOfStk (k : Nat) : Nat := 96 + k
def dieOfCtl (c : Nat) : Nat := 128 + c
def dieModule : Nat := 160

def State.isLost (s : State) (die : Nat) : Bool := s.pkg.lostDies.contains die

def State.hasPan (s : State) (p : Nat) : Bool := decide (p < s.cfg.variant.pans)

def State.onlinePan (s : State) (p : Nat) : Bool := s.hasPan p && decide ((s.pan p).state = .online)

/-- The coherent domain is up: units issue (R295, R298, entry 34). -/
def State.domainUp (s : State) : Bool := decide (s.pkg.st ≠ .draining) && decide (s.pkg.st ≠ .fault)

/-- The beds of an ONLINE pan that is not in STOP run (R452, R490), outside a drain (R295). -/
def State.panRuns (s : State) (p : Nat) : Bool := s.onlinePan p && (s.pan p).stopFrom.isNone && s.domainUp

/-- A core number that has a core (R227): numbers go without one only where their die's spares are exhausted (R1, R477). -/
def State.hasCore (s : State) (n : Nat) : Bool :=
  decide (n < s.cfg.variant.cores) && !(s.coreDie (n / 24)).absent.getLsbD (n % 24)

/-- A core number whose core is on a die in service. -/
def State.coreServes (s : State) (n : Nat) : Bool := s.hasCore n && !s.isLost (dieOfCore (n / 24))

def State.stkState (s : State) (k : Nat) : UnitState := tget .online s.stk.states k
def State.ctlState (s : State) (c : Nat) : UnitState := tget .online s.salter.dies c

/-! ### Events (R481 to R485) -/

def evBrineCe := 0x0101
def evBrineUe := 0x0102
def evLpdCe := 0x0103
def evLpdUe := 0x0104
def evSramCe := 0x0105
def evSramUe := 0x0106
def evPoisonRead := 0x0107
def evFloodDropUe := 0x0108
def evRowSpared := 0x0109
def evRowsOut := 0x010A
def evWayDisabled := 0x010B
def evWayLimit := 0x010C
def evBedFault := 0x0201
def evDeviceAbort := 0x0202
def evProtection := 0x0203
def evMpuFault := 0x0204
def evLiquorRestart := 0x0205
def evLaneSpared := 0x0301
def evLinkDead := 0x0302
def evSerdesSpared := 0x0303
def evPortDown := 0x0304
def evSluiceTiming := 0x0305
def evDrain := 0x0401
def evPanState := 0x0402
def evPanReplaced := 0x0403
def evBistResult := 0x0404
def evSwitchover := 0x0405
def evFwSwitched := 0x0406
def evReserveShort := 0x0407
def evCoreSpared := 0x0408
def evLogGap := 0x0409
def evHoldover := 0x0501
def evTimeFree := 0x0502
def evTideInMissing := 0x0503
def evSourceChange := 0x0504
def evSkip := 0x0505
def evStringDesync := 0x0506
def evPlanStalled := 0x0507
def evReadyFault := 0x0508
def evSupplyWarn := 0x0601
def evPhaseRetired := 0x0602
def evConverterLost := 0x0603
def evSensorFail := 0x0604
def evCapRaised := 0x0605
def evCapExceeded := 0x0606
def evEnvelope := 0x0607
def evFloorBreach := 0x0608
def evThermal := 0x0609
def evConfigPartition := 0x0701
def evConfigMacsec := 0x0702
def evConfigPaired := 0x0703
def evTallyRing := 0x0704
def evPairDown := 0x0705
def evRngFail := 0x0706
def evEventRing := 0x0707

/-- Class of an event (R484): 1 CE, 2 UE, 0 NOTE. A BED_FAULT carries its fault code in detail[7:0]. -/
def evClass (code detail : Nat) : Nat :=
  if [evBrineCe, evLpdCe, evSramCe].contains code then 1
  else if [evBrineUe, evLpdUe, evSramUe, evFloodDropUe, evPoisonRead, evWayLimit, evLinkDead, evDrain].contains code then 2
  else if code = evBedFault ∧ detail % 256 = 0x07 then 2
  else 0

/-- Whether two held records are coalesced (R483). -/
def sameHeld (a b : Event) : Bool :=
  decide (a.code = b.code) && decide (a.die = b.die) && decide (a.part = b.part) && decide (a.partIndex = b.partIndex)
    && (decide (a.code ≠ evBedFault) || decide (a.detail % 256 = b.detail % 256))

/-- The held records with one more occurrence. -/
def holdEvent (held : List Event) (e : Event) : List Event :=
  match held with
  | [] => [e]
  | h :: r => if sameHeld h e then { h with count := h.count + 1 } :: r else h :: holdEvent r e

/-- An event arises: CE and BED_FAULT records are held for their second, every other record waits to be written (R483). -/
def State.raise (s : State) (e : Event) : State :=
  let e' := { e with time := s.now, cls := evClass e.code e.detail }
  if e'.cls = 1 ∨ e.code = evBedFault then s.updEvents (fun v => { v with held := holdEvent v.held e' })
  else s.updEvents (fun v => { v with queue := v.queue ++ [e'] })

/-- A NOTE or other event that names a die, a part and an action. -/
def State.note (s : State) (code die : Nat) (part partIndex action : Nat) : State :=
  s.raise { code := code, cls := 0, die := die, part := part, partIndex := partIndex, action := action }

/-- An event with its detail fields. -/
def State.noteD (s : State) (code die action detail detail2 : Nat) : State :=
  s.raise { code := code, cls := 0, die := die, action := action, detail := detail, detail2 := detail2 }

/-- The answer of a meaning: the block goes on. -/
def go (s : State) : Host.Outcome State Fault Refusal := .next s

end Sys2Proof.Machine
end

