-- ==== Sys2Proof/Machine/AddressMap.lean ====
section
/-!
DEFINITION. The physical address map (R304, R307, R318, R324, R327, R328, R380): which addresses are populated, which unit
each belongs to, the canonical address of an alias, and the crust's protection table (R339). -/

namespace Sys2Proof.Machine

def gib : Nat := 2 ^ 30
def mib : Nat := 2 ^ 20
def kib64 : Nat := 65536

/-- Base of the brine window of pan p (R327). -/
def brineBase (p : Nat) : Nat := 0x100000000000 + p * 0x2000000000
/-- Populated brine of a pan (R301). -/
def brineSize : Nat := 72 * gib
/-- Host memory of one core die (R324). -/
def lpdSize : Nat := 256 * gib
def aliasBase : Nat := 0x200000000000
def scratchBase : Nat := 0x300000000000
def deviceBase : Nat := 0xF00000000000

/-- Device memory (R251). -/
def isDevice (pa : Nat) : Bool := decide (deviceBase ≤ pa)

/-- What a physical address names. -/
inductive Place where
  | lpd (die off : Nat)
  | brine (pan off : Nat)
  | scratch (off : Nat)
  | mailbox (off : Nat)
  | coreReg (die off : Nat)
  | panReg (pan off : Nat)
  | ioReg (die off : Nat)
  | stkReg (off : Nat)
  | unpop
  deriving DecidableEq, Repr

/-- Units of every scratchpad partition together, per die (R318). -/
def scratchUnits (ps : List Partition) : Nat := ps.foldl (fun a p => if p.kind = 2 then a + p.units else a) 0

/-- The partition and the offset in it of a scratchpad offset (R318). -/
def scratchPart (ps : List Partition) (s0 off i : Nat) : Option (Nat × Nat) :=
  match ps with
  | [] => none
  | p :: r =>
    if p.kind = 2 then
      let n := p.units * 16 * mib * s0
      if off < n then some (i, off) else scratchPart r s0 (off - n) (i + 1)
    else scratchPart r s0 off (i + 1)

/-- The die of a partition offset: the dies in service at package reset in ascending order (R318). -/
def scratchDie (s : State) (b : Nat) : Nat := if s.stk.s0 = 0 then 0 else b / 4096 % s.stk.s0

/-- A stockpile die is out: lost, failed or under test (R320, R496). -/
def stkOut (s : State) (k : Nat) : Bool :=
  s.isLost (dieOfStk k) || decide (s.stkState k = .failed) || decide (s.stkState k = .test)

/-- Where a physical address lies (R307 to R309, R318, R320, R324, R326, R327). -/
def place (s : State) (pa : Nat) : Place :=
  let v := s.cfg.variant
  if pa < 0x40000000000 then
    let d := pa / lpdSize
    if d < v.coreDies ∧ !s.isLost (dieOfCore d) ∧ (s.coreDie d).state ≠ .test then .lpd d (pa % lpdSize) else .unpop
  else if pa < 0x100000000000 then .unpop
  else if pa < 0x200000000000 then
    let p := (pa - 0x100000000000) / 0x2000000000
    let o := (pa - 0x100000000000) % 0x2000000000
    if p < v.pans ∧ o < brineSize ∧ (s.pan p).service then .brine p o else .unpop
  else if pa < 0x300000000000 then
    let n := s.pkg.interleave.length
    let a := pa - aliasBase
    if a < n * 64 * gib then
      let p := s.pkg.interleave.getD (a / 4096 % n) 0
      let o := a / 4096 / n * 4096 + a % 4096
      if (s.pan p).service then .brine p o else .unpop
    else .unpop
  else if pa < deviceBase then
    let o := pa - scratchBase
    match scratchPart s.stk.parts s.stk.s0 o 0 with
    | some (_, b) => if stkOut s (scratchDie s b) then .unpop else .scratch o
    | none => .unpop
  else
    let w := (pa - deviceBase) / 0x10000000000
    let u := (pa - deviceBase) % 0x10000000000 / 0x1000000
    let o := pa % 0x1000000
    if w = 0 then (if pa - deviceBase < mib then .mailbox o else .unpop)
    else if w = 1 then (if u < v.coreDies ∧ !s.isLost (dieOfCore u) then .coreReg u o else .unpop)
    else if w = 2 then (if u < v.pans then .panReg u o else .unpop)
    else if w = 3 then (if u < v.ioDies ∧ !s.isLost (dieOfIo u) then .ioReg u o else .unpop)
    else if w = 4 then (if u = 0 then .stkReg o else .unpop)
    else .unpop

/-- The canonical address of a byte (R307, R308). -/
def canon (s : State) (pa : Nat) : Nat :=
  if aliasBase ≤ pa ∧ pa < 0x300000000000 then
    match place s pa with
    | .brine p o => brineBase p + o
    | _ => pa
  else pa

def isUnpop (s : State) (pa : Nat) : Bool := decide (place s pa = .unpop)

/-- Populated memory that is not device memory. -/
def isNormal (s : State) (pa : Nat) : Bool :=
  match place s pa with
  | .lpd _ _ => true
  | .brine _ _ => true
  | .scratch _ => true
  | _ => false

/-! ### Reserved granules (R304) -/

def granuleSize : Nat := 256 * mib

/-- Where granule g lies by R304: on pan g mod n0, descending from 72 GiB. -/
def granuleHome (v : Variant) (g : Nat) : Nat :=
  brineBase (g % v.pans) + brineSize - (g / v.pans + 1) * granuleSize

/-- Where granule g lies now (R306). -/
def granulePa (s : State) (g : Nat) : Nat := (tget none s.salter.granuleAt g).getD (granuleHome s.cfg.variant g)

/-- The granule a canonical address lies in, if it is reserved. -/
def granuleOf (s : State) (pa : Nat) : Option Nat :=
  (List.range 64).find? (fun g => decide (granulePa s g ≤ pa) && decide (pa < granulePa s g + granuleSize))

/-- Reserved granules that R304's placement puts on a pan. -/
def granulesOn (v : Variant) (p : Nat) : Nat := ((List.range 64).filter (fun g => g % v.pans = p)).length

/-- What a granule holds. The manual does not place the contents among the granules: here granules 2k and 2k + 1, which lie on
different pans, are the two copies of the k-th part of them (R305, entry 29). -/
def granuleContent (g : Nat) : ReservedContent :=
  match g / 2 with
  | 0 => .directory
  | 1 => .firmware
  | 2 => .repairSet
  | 3 => .eventLog
  | k => if k < 8 then .tally else if k < 16 then .planImages else if k < 18 then .mirror else .unused

/-- The granule that holds the other copy. -/
def otherCopy (g : Nat) : Nat := if g % 2 = 0 then g + 1 else g - 1

/-- The pan a canonical brine address lies on. -/
def panOf (pa : Nat) : Nat := (pa - 0x100000000000) / 0x2000000000

/-- The granule that holds the agent directory (R172). -/
def dirGranule (s : State) : Option Nat := granuleOf s s.salter.dirPa

/-- Whether the crust's protection table lets an agent outside the control dies at a canonical address (R339). -/
def protectOk (s : State) (pa : Nat) (cacheless reads : Bool) : Bool :=
  match granuleOf s pa with
  | none => true
  | some g => !cacheless && reads && decide (dirGranule s = some g)

end Sys2Proof.Machine
end

