-- ==== Sys2Proof/Machine/Coherent.lean ====
section
/-!
DEFINITION. The coherent domain (R276 to R290): cached lines, the directory, cacheless reads and writes, and the cache
partitions at the home (R321). Every line is named by PA[47:6] of its canonical address. -/

namespace Sys2Proof.Machine

/-! ### Lines and the home -/

def lineOf (pa : Nat) : Nat := pa / 64
def agentKey (a l : Nat) : Nat := a * 2 ^ 42 + l
def l2Agent (n : Nat) : Nat := n
def dieCacheAgent (d : Nat) : Nat := 192 + d
def panAgent (p : Nat) : Nat := 208 + p

def State.cached (s : State) (a l : Nat) : Option CacheLine := tget none s.coh.lines (agentKey a l)
def State.setCached (s : State) (a l : Nat) (x : Option CacheLine) : State :=
  s.updCoh (fun c => { c with lines := tput none c.lines (agentKey a l) x })

/-- L2 set of a line (R235). -/
def l2Set (l : Nat) : Nat := (l ^^^ l / 2 ^ 11 ^^^ l / 2 ^ 22 ^^^ (l / 2 ^ 33 % 2 ^ 9)) % 2 ^ 11

/-- Die-cache slice and set of a line (R236). -/
def dieSlice (l : Nat) : Nat := (List.range 11).foldl (fun x m => x ^^^ (l / 16 ^ m % 16)) 0
def dieSet (l : Nat) : Nat := (l / 2 ^ 4 ^^^ l / 2 ^ 17) % 2 ^ 13

/-- The lines an agent holds. -/
def agentLines (s : State) (a : Nat) : List (Nat × CacheLine) :=
  s.coh.lines.filterMap (fun e => if e.1 / 2 ^ 42 = a then e.2.map (fun c => (e.1 % 2 ^ 42, c)) else none)

/-- Lines of an agent in the set of a line, that line apart. -/
def setMates (s : State) (a l : Nat) : List (Nat × CacheLine) :=
  (agentLines s a).filter (fun v => v.1 ≠ l &&
    (if a < 192 then l2Set v.1 == l2Set l else dieSlice v.1 == dieSlice l && dieSet v.1 == dieSet l))

/-- The way a line takes in its set: its own, else the first in service that no other line has. A pan cache's ways are not
described. -/
def wayFor (s : State) (a l : Nat) : Nat :=
  match s.cached a l with
  | some c => c.way
  | none =>
    let free (n : Nat) (off : Nat → Bool) : Nat :=
      ((List.range n).find? (fun w => !off w && !(setMates s a l).any (fun v => v.2.way == w))).getD 0
    if a < 192 then free 16 (fun w => (s.core a).l2Ways.getLsbD w)
    else if a < 208 then free 12 (fun w => (tget 0 (s.coreDie (a - 192)).ways (dieSlice l)).getLsbD w)
    else 0

def State.dirEntry (s : State) (l : Nat) : Option DirEntry := tget none s.coh.dir l
def State.setDir (s : State) (l : Nat) (e : Option DirEntry) : State :=
  s.updCoh (fun c => { c with dir := tput none c.dir l e })

/-- Bytes of physical memory. -/
def State.memBytes (s : State) (pa n : Nat) : List Byte := tgets 0 s.mem pa n
def State.memWrite (s : State) (pa : Nat) (bs : List Byte) : State := { s with mem := tputs 0 s.mem pa bs }

/-- An instruction that queues a flood source. -/
def WorkOp.isFlood (o : WorkOp) : Bool :=
  match o with
  | .flood _ => true
  | _ => false

/-- A bed has a flood source that is not yet read to its end, queued or about to be (R178, R179). -/
def Bed.floodOpen (d : Bed) : Bool := d.flood.any (fun q => !q.2.descs.isEmpty) || d.dq.any (fun w => w.op.isFlood)

/-- While a flood source is open, a write of the DRAM is noted with the bytes it writes over (R220). -/
def State.noteHome (s : State) (pa n : Nat) : State :=
  if s.beds.any (fun e => e.2.floodOpen) then
    s.updCoh (fun c => { c with
      homeLog := { number := c.homeNo, pa := pa, old := s.memBytes pa n } :: c.homeLog, homeNo := c.homeNo + 1 })
  else s

/-- A write of the DRAM or SRAM at a home. -/
def State.homePut (s : State) (pa : Nat) (bs : List Byte) : State := (s.noteHome pa bs.length).memWrite pa bs

/-- Bytes that are written over no longer hide older ones. -/
def cutKept (ks : List StoreRec) (a n : Nat) : List StoreRec :=
  (ks.map (fun r => { r with old := r.old.filter (fun e => !(decide (a ≤ e.1) && decide (e.1 < a + n))) })).filter
    (fun r => !r.old.isEmpty)

/-- A write that every observer sees at once leaves nothing older to read (R221). -/
def State.unkeep (s : State) (a n : Nat) : State := s.updCoh (fun c => { c with kept := cutKept c.kept a n })

/-- The line of a cache partition at the home (R321). -/
def State.partLine (s : State) (l : Nat) : Option PartLine := tget none s.coh.part l

def State.setPart (s : State) (l : Nat) (x : Option PartLine) : State :=
  s.updCoh (fun c => { c with part := tput none c.part l x })

/-- The 64 bytes of a line at its home: the cache partition's where it holds the line, else the DRAM's or SRAM's. -/
def State.homeLine (s : State) (l : Nat) : List Byte :=
  match s.partLine l with
  | none => s.memBytes (l * 64) 64
  | some x => x.data

/-- The poison mark of a line of DRAM or SRAM. -/
def State.dramPoison (s : State) (l : Nat) : Bool := tget false s.coh.poison l

def State.homePoison (s : State) (l : Nat) : Bool :=
  match s.partLine l with
  | none => s.dramPoison l
  | some x => x.poison

/-- Marks or clears the poison of a line of DRAM or SRAM. -/
def State.setPoison (s : State) (l : Nat) (b : Bool) : State :=
  s.updCoh (fun c => { c with poison := tput false c.poison l b })

/-- The caching agents that hold a copy of a line, by agent number; a tag whose data has passed to a local L2 is none. -/
def State.holders (s : State) (l : Nat) : List (Nat × CacheLine) :=
  s.coh.lines.filterMap (fun e =>
    if e.1 % 2 ^ 42 = l then (e.2.bind (fun c => if c.passed then none else some (e.1 / 2 ^ 42, c))) else none)

/-- Die caches whose data of a line has passed to an L2 of their die (R286). -/
def State.passedTags (s : State) (l : Nat) : List (Nat × CacheLine) :=
  s.coh.lines.filterMap (fun e =>
    if e.1 % 2 ^ 42 = l then (e.2.bind (fun c => if c.passed then some (e.1 / 2 ^ 42, c) else none)) else none)

def Moesi.dirty (x : Moesi) : Bool :=
  match x with
  | .m => true
  | .o => true
  | _ => false

/-- The line's current bytes and poison mark: a dirty holder's, else the home's (R289). -/
def State.curLine (s : State) (l : Nat) : List Byte × Bool :=
  match (s.holders l).find? (fun h => h.2.st.dirty) with
  | some h => (h.2.data, h.2.poison)
  | none => (s.homeLine l, s.homePoison l)

/-- The current value of n bytes (R289, R337). -/
def State.cohBytes (s : State) (pa n : Nat) : List Byte :=
  (List.range n).map (fun i => ((s.curLine (lineOf (pa + i))).1).getD ((pa + i) % 64) 0)

def State.cohNat (s : State) (pa n : Nat) : Nat := leNat (s.cohBytes pa n)

/-- Lines that n bytes from pa touch. -/
def linesOf (pa n : Nat) : List Nat :=
  if n = 0 then [] else (List.range ((pa + n - 1) / 64 - pa / 64 + 1)).map (fun i => pa / 64 + i)

/-- Whether some byte of the range lies in a poisoned line. -/
def State.poisoned (s : State) (pa n : Nat) : Bool := (linesOf pa n).any (fun l => (s.curLine l).2)

/-! ### Cache partitions at the home (R321) -/

/-- The requester class of a caching agent: 0 cores, 1 pans; 2 are the I/O dies and 3 the other cacheless agents. -/
def reqClass (a : Nat) : Nat := if a < 208 then 0 else 1

/-- The line lies in LPDDR6. -/
def isLpd (l : Nat) : Bool := decide (l * 64 < 0x40000000000)

/-- The lowest-numbered cache partition that serves a line for a requester class. -/
def cachePart (s : State) (l cls : Nat) : Option Nat :=
  let serving (bit : Nat) : Option Nat :=
    findIdxD (fun p => decide (p.kind = 1) && p.amask.getLsbD bit && p.rmask.getLsbD cls) s.stk.parts 0
  match place s (l * 64) with
  | .lpd _ _ => serving 0
  | .brine _ _ => serving 1
  | _ => none

/-- The hash x of R280. -/
def dirHash (l : Nat) : Nat :=
  fld l 0 8 ^^^ fld l 8 8 ^^^ fld l 16 8 ^^^ fld l 24 8 ^^^ fld l 32 8 ^^^ fld l 40 2

/-- The stockpile die h of a line (R280). -/
def homeDie (s : State) (l : Nat) : Nat :=
  let dies := (List.range 6).filter (fun k => s.stk.dies.getLsbD k)
  dies.getD (dirHash l % max 1 dies.length) 0

/-- The partition and the stockpile die that a request for a line goes to: the scratchpad it lies in, else the lowest-numbered
cache partition that serves it (R318, R321); dies h of R280 count the dies in service. -/
def partOf (s : State) (l cls : Nat) : Option (Nat × Nat) :=
  match place s (l * 64) with
  | .scratch o => (scratchPart s.stk.parts s.stk.s0 o 0).map (fun x => (x.1, scratchDie s x.2))
  | _ => (cachePart s l cls).map (fun i => (i, homeDie s l))

def tokenKey (die part : Nat) : Nat := die * 16 + part

/-- One 64-byte request to a partition spends 64 tokens; one that finds fewer waits for the next refill, or goes on without
tokens where the partition may borrow (R322, R323). The access itself is one step, so only the bucket shows the wait. -/
def spendLine (s : State) (l cls : Nat) : State :=
  match partOf s l cls with
  | none => s
  | some (i, k) =>
    let r := tget {} s.stk.regs i
    let t := tget 0 s.stk.tokens (tokenKey k i)
    let w := tget 0 s.stk.waiting (tokenKey k i)
    if r.rateNow = 0 then s
    else if 64 ≤ t ∧ w = 0 then s.updStk (fun x => { x with tokens := tput 0 x.tokens (tokenKey k i) (t - 64) })
    else if r.borrowNow then
      let r1 : Regulator := { r with held := satAdd 32 r.held 1, borrowed := satAdd 32 r.borrowed 1 }
      s.updStk (fun x => { x with regs := tput {} x.regs i r1 })
    else
      let r1 : Regulator := { r with held := satAdd 32 r.held 1 }
      s.updStk (fun x => { x with regs := tput {} x.regs i r1, waiting := tput 0 x.waiting (tokenKey k i) (w + 1) })

/-- A read that reaches the home of each line of a range. -/
def spendRange (s : State) (pa n cls : Nat) : State := (linesOf pa n).foldl (fun s l => spendLine s l cls) s

/-- The set of a line in a cache partition's share of its die. How an address picks the set no rule says: DESIGN CHOICE, as R280
has it for the directory (entry 13). -/
def partSet (s : State) (i l : Nat) : Nat :=
  (l ^^^ l / 2 ^ 17) % max 1 (((s.stk.parts[i]?).map Partition.units).getD 0 * 16384)

/-- A line of DRAM or SRAM is written, with its poison mark. -/
def State.dramLine (s : State) (l : Nat) (d : List Byte) (poison : Bool) : State := (s.homePut (l * 64) d).setPoison l poison

/-- A line leaves its partition; a dirty one goes to the DRAM. -/
def partDrop (s : State) (l : Nat) : State :=
  match s.partLine l with
  | none => s
  | some x =>
    let s1 := s.setPart l none
    if x.dirty then s1.dramLine l x.data x.poison else s1

/-- A set of 16 ways makes room: its line of least recent use leaves. -/
def partRoom (s : State) (i l : Nat) : State :=
  let same := s.coh.part.filterMap (fun e => e.2.bind (fun x =>
    if e.1 ≠ l ∧ x.part = i ∧ homeDie s e.1 = homeDie s l ∧ partSet s i e.1 = partSet s i l then some (e.1, x.stamp) else none))
  if same.length < 16 then s
  else match same with
    | [] => s
    | v :: r => partDrop s (r.foldl (fun b x => if x.2 < b.2 then x else b) v).1

/-- The next stamp of use. -/
def State.stamp (s : State) : State := s.updCoh (fun c => { c with clock := c.clock + 1 })

/-- A partition takes a line. -/
def partTake (s : State) (i l : Nat) (d : List Byte) (dirty poison : Bool) : State :=
  let s1 := (partRoom s i l).stamp
  s1.setPart l (some { part := i, data := d, dirty := dirty, poison := poison, stamp := s1.coh.clock })

/-- A line's bytes go to its home. A partition that holds the line keeps them, LPDDR6 write-back and brine written through, and one
that allocates takes the line; else they go to the DRAM or SRAM. -/
def State.homeWrite (s : State) (l : Nat) (d : List Byte) (poison : Bool) (alloc : Option Nat) : State :=
  let part := match s.partLine l with
    | some x => some x.part
    | none => alloc
  match part with
  | none => s.dramLine l d poison
  | some i => if isLpd l then partTake s i l d true poison else (partTake s i l d false poison).dramLine l d poison

/-- A write-back from a caching agent. -/
def State.writeBack (s : State) (a l : Nat) (d : List Byte) (poison : Bool) : State :=
  (spendLine s l (reqClass a)).homeWrite l d poison (cachePart s l (reqClass a))

/-- A read miss of a caching agent that the home serves from memory: the partition holds the line from then on. -/
def partRead (s : State) (a l : Nat) : State :=
  match s.partLine l, cachePart s l (reqClass a) with
  | some x, _ => partTake s x.part l x.data x.dirty x.poison
  | none, some i => partTake s i l (s.homeLine l) false (s.homePoison l)
  | none, none => s

/-- A dirty partition line is written through to the DRAM (LINE.CLEAN, LINE.FLUSH). -/
def State.partClean (s : State) (l : Nat) : State :=
  match s.partLine l with
  | none => s
  | some x => if x.dirty then (s.setPart l (some { x with dirty := false })).dramLine l x.data x.poison else s

/-! ### The directory (R280 to R285) -/

/-- The directory's share of each stockpile die, in 16 MiB units. -/
def dirUnits (s : State) : Nat :=
  match s.stk.parts.find? (fun p => p.kind = 3) with
  | some p => p.units
  | none => 6

/-- N of R280. -/
def dirSets (s : State) : Nat := dirUnits s * 65536

/-- Stockpile dies in service, S. -/
def stkCount (s : State) : Nat := (List.range 6).foldl (fun n k => n + boolN (s.stk.dies.getLsbD k)) 0

/-- The directory slice and set of a line (R280). -/
def dirSet (s : State) (l : Nat) : Nat × Nat := (dirHash l % max 1 (stkCount s), (l ^^^ l / 2 ^ 17) % max 1 (dirSets s))

/-- Caching agents in service. -/
def agentsInService (s : State) : List Nat :=
  (List.range s.cfg.variant.cores).filter (fun n => s.coreServes n)
    ++ ((List.range s.cfg.variant.coreDies).filter (fun d => !s.isLost (dieOfCore d))).map dieCacheAgent
    ++ ((List.range s.cfg.variant.pans).filter (fun p => decide ((s.pan p).state = .online))).map panAgent

/-- What a core loses with a line: the L1 lines, the reservation, the side-buffer entry, and data in flight (R234, R238, R239,
R266). -/
def Core.loseLine (c : Core) (l : Nat) : Core :=
  let hit := c.side.contains l
  { c with
    side := c.side.filter (fun x => x ≠ l)
    l1d := c.l1d.filter (fun x => x ≠ l)
    l1i := c.l1i.filter (fun x => x ≠ l)
    pfUnused := if hit then satAdd 32 c.pfUnused 1 else c.pfUnused
    inflight := c.inflight.map (fun x => if x.1 = l then (x.1, true) else x)
    rsv := match c.rsv with
      | some r => if r.line = l then none else some r
      | none => none
    deferral := if c.deferral = some l then none else c.deferral }

/-- Every core but the one kept loses the line. -/
def coresLose (s : State) (l : Nat) (keep : Option Nat) : State :=
  (s.cores.map Prod.fst).foldl (fun s n => if keep = some n then s else s.updCore n (fun c => c.loseLine l)) s

/-- Agents the directory's entry names. -/
def DirEntry.names (e : DirEntry) : List Nat :=
  (if e.st = .s then [] else [e.owner]) ++ e.sharers

/-- Whether an agent answers an invalidation as holding the line: its own copy, a core's side buffer, or a die cache's copy or tag. -/
def answersHeld (s : State) (a l : Nat) : Bool := (s.cached a l).isSome || (s.core a).side.contains l

/-- The counts of the invalidations of one line (R282, R285, R300): they go to the agents the entry names, or to all in service,
the requester apart. -/
def countInval (s : State) (l : Nat) (keep : Option Nat) : State :=
  match s.dirEntry l with
  | none => s
  | some e =>
    let sent := (if e.bcast then agentsInService s else e.names.eraseDups).filter (fun a => keep ≠ some a)
    let gone := (sent.filter (fun a => !answersHeld s a l)).length
    s.updCoh (fun c => { c with
      bcast := if e.bcast then satAdd 32 c.bcast 1 else c.bcast, stale := satAdd 32 c.stale gone })

/-- Every copy but the kept agent's is invalidated; dirty data goes to the home unless it is discarded; the entry is
released (R283, R288). -/
def invalidate (s : State) (l : Nat) (keep : Option Nat) (discard : Bool) : State :=
  let hs := (s.holders l).filter (fun h => keep ≠ some h.1)
  let s1 := countInval s l keep
  let s2 := match hs.find? (fun h => h.2.st.dirty) with
    | some h => if discard then s1 else s1.writeBack h.1 l h.2.data h.2.poison
    | none => s1
  let s3 := (hs ++ s.passedTags l).foldl (fun s h => s.setCached h.1 l none) s2
  (coresLose s3 l keep).setDir l none

/-- The set of a line has no free entry: the entry of least recent use is released (R283). -/
def dirRoom (s : State) (l : Nat) : State :=
  if (s.dirEntry l).isSome then s else
  let same := s.coh.dir.filterMap (fun e =>
    if dirSet s e.1 = dirSet s l then e.2.map (fun d => (e.1, d.lru)) else none)
  if same.length < 16 then s else
  match same with
  | [] => s
  | e :: r =>
    let v := r.foldl (fun b x => if x.2 < b.2 then x else b) e
    let s1 := invalidate s v.1 none false
    s1.updCoh (fun c => { c with backinv := satAdd 32 c.backinv 1 })

/-- Writes an entry as the one of its set used last; the set's other entries keep their order (R281). -/
def putEntry (s : State) (l : Nat) (e : DirEntry) : State :=
  let s1 := dirRoom s l
  let mates := s1.coh.dir.filterMap (fun x =>
    if x.1 ≠ l ∧ dirSet s1 x.1 = dirSet s1 l then x.2.map (fun d => (x.1, d)) else none)
  let s2 := mates.foldl (fun s m =>
    s.setDir m.1 (some { m.2 with lru := (mates.filter (fun x => decide (x.2.lru < m.2.lru))).length })) s1
  s2.setDir l (some { e with lru := mates.length })

/-- One more S holder; a fifth sets bcast (R282). -/
def DirEntry.addSharer (e : DirEntry) (a : Nat) : DirEntry :=
  if e.bcast ∨ a ∈ e.sharers then e
  else if e.sharers.length < 4 then { e with sharers := e.sharers ++ [a] }
  else { e with bcast := true }

/-- A line comes into an agent, or its copy there changes. -/
def hold (s : State) (a l : Nat) (c : CacheLine) : State :=
  let s1 := s.stamp
  s1.setCached a l (some { c with stamp := s1.coh.clock, way := wayFor s a l })

/-- The line enters an agent. -/
def fill (s : State) (a l : Nat) (st : Moesi) (d : List Byte) (poison : Bool) : State :=
  hold s a l { st := st, data := d, poison := poison }

/-- A die cache takes back the data of a line that has passed to an L2 of its die, which keeps a copy in S (R286). -/
def takeBack (s : State) (l : Nat) : State :=
  (s.passedTags l).foldl (fun s t =>
    match (s.holders l).find? (fun h => h.1 < 192 && h.1 / 24 == t.1 - 192 && h.2.st.dirty) with
    | none => s.setCached t.1 l none
    | some h =>
      (s.setCached h.1 l (some { h.2 with st := .s })).setCached t.1 l
        (some { t.2 with st := .m, data := h.2.data, poison := h.2.poison, passed := false })) s

/-- The holders give up write permission to a reader: M becomes O, E becomes S; the dirty holder stays the owner. -/
def downgrade (s : State) (l : Nat) : State :=
  let s := takeBack s l
  (s.holders l).foldl (fun s h => s.setCached h.1 l (some { h.2 with st := if h.2.st.dirty then .o else .s })) s

/-- The home serves a read miss of a caching agent: the line's value, its new holders and its entry (R278 to R282). -/
def homeRead (s : State) (a l : Nat) : State :=
  let s := downgrade (spendLine s l (reqClass a)) l
  let cur := s.curLine l
  let own := ((s.holders l).find? (fun h => h.2.st.dirty)).map Prod.fst
  let s := if own.isNone then partRead s a l else s
  let alone := putEntry (fill s a l .e cur.1 cur.2) l { st := .x, owner := a }
  match s.dirEntry l with
  | none => alone
  | some e =>
    if e.st = .x ∧ (s.holders l).isEmpty then alone
    else
      let e1 : DirEntry :=
        match e.st, own with
        | .x, some o => { st := .o, owner := o, sharers := [a] }
        | .x, none => { st := .s, sharers := [e.owner, a] }
        | _, some o => ({ e with st := .o, owner := o }).addSharer a
        | _, none => ({ e with st := .s, owner := 0xFF }).addSharer a
      putEntry (fill s a l .s cur.1 cur.2) l e1

/-- The home grants a line for writing: every other copy is invalidated, the data passes to the writer (R278, R284). -/
def homeOwn (s : State) (a l : Nat) : State :=
  let cur := s.curLine l
  let s := spendLine s l (reqClass a)
  let s := if (s.holders l).isEmpty then partRead s a l else s
  putEntry (hold (invalidate s l (some a) true) a l { st := .m, data := cur.1, poison := cur.2 }) l { st := .x, owner := a }

/-- Bytes laid over a line's bytes from offset off. -/
def overlay (d : List Byte) (off : Nat) (bs : List Byte) : List Byte := d.take off ++ bs ++ d.drop (off + bs.length)

/-- Writes bytes into a line the agent holds for writing; all 64 bytes clear the poison (R290). -/
def pokeCached (s : State) (a l off : Nat) (bs : List Byte) : State :=
  match s.cached a l with
  | none => s
  | some c =>
    (s.setCached a l (some { c with st := .m, data := overlay c.data off bs, poison := c.poison && bs.length != 64 })).unkeep
      (l * 64 + off) bs.length

/-- The parts of a run of bytes that lie in one line each: line, offset and bytes. -/
def splitLines (pa : Nat) (bs : List Byte) : List (Nat × Nat × List Byte) :=
  (linesOf pa bs.length).map (fun l =>
    let lo := max pa (l * 64)
    let hi := min (pa + bs.length) (l * 64 + 64)
    (l, lo - l * 64, (bs.drop (lo - pa)).take (hi - lo)))

/-- One cacheless write of a line's part by a requester class (R288): a full-line write discards dirty data, a partial one recalls
and merges. -/
def cachelessLine (s : State) (cls l off : Nat) (bs : List Byte) : State :=
  let s := (spendLine s l cls).unkeep (l * 64 + off) bs.length
  if bs.length = 64 then (invalidate s l none true).homeWrite l bs false none
  else
    let s1 := invalidate s l none false
    s1.homeWrite l (overlay (s1.homeLine l) off bs) (s1.homePoison l) none

/-- A cacheless write by a requester class (R288). -/
def cachelessBy (cls : Nat) (s : State) (pa : Nat) (bs : List Byte) : State :=
  (splitLines pa bs).foldl (fun s x => cachelessLine s cls x.1 x.2.1 x.2.2) s

/-- A write of a cacheless agent. -/
def cachelessWrite (s : State) (pa : Nat) (bs : List Byte) : State := cachelessBy 3 s pa bs

/-- A write of a network I/O die's placement engine. -/
def ioWrite (s : State) (pa : Nat) (bs : List Byte) : State := cachelessBy 2 s pa bs

/-! ### Lines leave an agent -/

/-- The home learns that the holder of a dirty line has given it up. -/
def dirLeft (s : State) (l : Nat) : State :=
  match s.dirEntry l with
  | some e => s.setDir l (if e.sharers.isEmpty ∧ !e.bcast then none else some { e with st := .s, owner := 0xFF })
  | none => s

/-- A line leaves an agent: dirty data goes to the home, which is told; a clean line is dropped silently (R278, R279). The tag by
which a die cache answered for an L2's line goes with it. -/
def leave (s : State) (a : Nat) (v : Nat × CacheLine) : State :=
  let die := dieCacheAgent (a / 24)
  let s0 := if a < 192 ∧ v.2.st.dirty ∧ ((s.cached die v.1).map CacheLine.passed).getD false then s.setCached die v.1 none else s
  let s1 := s0.setCached a v.1 none
  if v.2.st.dirty then dirLeft (s1.writeBack a v.1 v.2.data v.2.poison) v.1 else s1

/-! ### The pan cache -/

/-- Lines of a pan cache of 32 MiB (R13). -/
def panLines : Nat := 524288

/-- A pan cache makes room: it must where it is full; which line, and whether one before then, the manual does not say (entry 13). -/
def panEvict (s : State) (p l : Nat) : State :=
  let mine := (agentLines s (panAgent p)).filter (fun v => v.1 ≠ l)
  let m := if panLines ≤ mine.length then mine.length else mine.length + 1
  if mine.isEmpty then s else
  match mine[s.draw 1001 % m]? with
  | none => s
  | some v => leave s (panAgent p) v

/-- The pan cache obtains a line for reading. -/
def panShare (s : State) (p l : Nat) : State :=
  if (s.cached (panAgent p) l).isSome then s else homeRead (panEvict s p l) (panAgent p) l

/-- The pan cache obtains a line for writing. -/
def panOwn (s : State) (p l : Nat) : State :=
  match s.cached (panAgent p) l with
  | some c =>
    match c.st with
    | .m => s
    | .e => s.setCached (panAgent p) l (some { c with st := .m })
    | _ => homeOwn s (panAgent p) l
  | none => homeOwn (panEvict s p l) (panAgent p) l

/-- A bed's read through the pan cache; a non-cacheable page is read at the home. -/
def panRead (s : State) (p pa n : Nat) (cacheable : Bool) : State × List Byte :=
  let s1 := if cacheable then (linesOf pa n).foldl (fun s l => panShare s p l) s else spendRange s pa n 1
  (s1, s1.cohBytes pa n)

/-- A bed's write through the pan cache; a non-cacheable page is written at the home. -/
def panWrite (s : State) (p pa : Nat) (bs : List Byte) (cacheable : Bool) : State :=
  if cacheable then
    (splitLines pa bs).foldl (fun s x => pokeCached (panOwn s p x.1) (panAgent p) x.1 x.2.1 x.2.2) s
  else cachelessBy 1 s pa bs

/-- Every dirty line of an agent goes to its home and every line leaves it, and the directory names it no longer. -/
def flushAgent (s : State) (a : Nat) : State :=
  (agentLines s a).foldl (fun s v =>
    let s1 := if v.2.passed then s else leave s a v
    match s1.dirEntry v.1 with
    | some e =>
      let sh := e.sharers.filter (fun x => x ≠ a)
      let mine := decide (e.st ≠ .s) && decide (e.owner = a)
      if v.2.passed then s1
      else if mine then s1.setDir v.1 (if sh.isEmpty ∧ !e.bcast then none else some { e with st := .s, owner := 0xFF, sharers := sh })
      else s1.setDir v.1 (if e.st = .s ∧ sh.isEmpty ∧ !e.bcast then none else some { e with sharers := sh })
    | none => s1) s

/-- The brine controller of a pan performs refresh only: its stack is in band 3 and its sensor has not yet read 103 °C or below
(R312). -/
def brineHeld (s : State) (p : Nat) : Bool := decide ((s.pan p).band = 3) && decide (103 < (s.pan p).dramTemp)

/-- An access to a line would read a brine that holds every beat (R312). -/
def memoryHeld (s : State) (l : Nat) : Bool :=
  (match place s (l * 64) with
    | .brine p _ => brineHeld s p
    | _ => false) && (s.holders l).isEmpty && (s.partLine l).isNone

/-- A core's L2 defers the requests of others for the line (R268, entry 115). -/
def State.deferred (s : State) (l : Nat) : Bool := s.cores.any (fun e => decide (e.2.deferral = some l))

end Sys2Proof.Machine
end

