-- ==== Sys2Proof/Machine/Translate.lean ====
section
/-!
DEFINITION. Address translation and protection: the walk (R332 to R337), rights (R338, R339), causes (R340), fault records
(R342, R343, R350), cached translations (R345, R347) and their invalidation (R348). -/

namespace Sys2Proof.Machine

/-! ### Causes (R340) -/

def cNotMapped := 1
def cRights := 2
def cFormat := 3
def cNonCanonical := 4
def cUnpopulated := 5
def cWalkError := 6
def cNotShared := 7
def cDevice := 8

/-- A leaf the walk reached: its bits, the base and size of its page, and its level. -/
structure Leaf where
  bits : Nat
  base : Nat
  bytes : Nat
  level : Nat
  deriving DecidableEq, Repr

def Leaf.frame (l : Leaf) : Nat := fld l.bits 12 36 * 4096
def Leaf.has (l : Leaf) (bit : Nat) : Bool := bitN l.bits bit
/-- The cacheable bit C. -/
def Leaf.cacheable (l : Leaf) : Bool := l.has 7
def Leaf.global (l : Leaf) : Bool := l.has 8

/-- The physical address of a virtual address in the leaf's page. -/
def Leaf.pa (l : Leaf) (va : Nat) : Nat := l.frame + va % l.bytes

/-- Virtual bits that index level k, and the page size of a leaf there (R335, R336). -/
def levelShift (k : Nat) : Nat := 39 - 9 * k

/-- One walk from a table at a level (R335 to R337). A frame in device memory is a format error of any walk (R336,
entry 14). -/
def walkFrom (s : State) (at_ : Nat → Except (Nat × Nat) Nat) (norm : Nat → Bool) (va : Nat) (fuel level table : Nat) :
    Except (Nat × Nat) Leaf :=
  match fuel with
  | 0 => .error (cFormat, level)
  | n + 1 =>
    match at_ (table + fld va (levelShift level) 9 * 8) with
    | .error e => .error e
    | .ok epa =>
      if s.poisoned epa 8 then .error (cWalkError, level) else
      let e := s.cohNat epa 8
      if !bitN e 0 then .error (cNotMapped, level) else
      let leaf := bitN e 6
      let frame := fld e 12 36 * 4096
      let size := 2 ^ levelShift level
      if fld e 48 11 ≠ 0 ∨ (leaf ∧ level = 0) ∨ (!leaf ∧ level = 3) ∨ !norm frame then .error (cFormat, level)
      else if leaf then
        if frame % size ≠ 0 then .error (cFormat, level)
        else .ok { bits := e, base := va / size * size, bytes := size, level := level }
      else walkFrom s at_ norm va n (level + 1) frame

/-- A walk of VA[47:0] from a root table in physical memory. -/
def walk (s : State) (root va : Nat) : Except (Nat × Nat) Leaf :=
  if isNormal s root then walkFrom s (fun a => .ok (canon s a)) (isNormal s) (va % 2 ^ 48) 4 0 root else .error (cFormat, 0)

/-- The entry bits of a leaf that both stages of a translation grant, over the frame the second stage gives (R334). The page is the
smaller of the two. -/
def Leaf.under (l : Leaf) (va : Nat) (t : Leaf) : Leaf :=
  let n := min l.bytes t.bytes
  let ipa := l.pa va
  let frame := t.frame + ipa % t.bytes / n * n
  let keep := fld l.bits 0 12 &&& (fld t.bits 0 12 ||| 256)
  { bits := keep + fld frame 12 36 * 4096, base := va / n * n, bytes := n, level := max l.level t.level }

/-- A walk of a guest: the first stage's tables and pages lie in its intermediate addresses, which the second stage at the
hypervisor's root maps (R334). A table entry is read where the second stage grants R. Which checks of R336 a first-stage frame meets
is no rule's to say: DEDUCED, those of the second stage's walk (entry 14). -/
def walkTwo (s : State) (root2 root va : Nat) : Except (Nat × Nat) Leaf :=
  let at_ (a : Nat) : Except (Nat × Nat) Nat :=
    match walk s root2 a with
    | .error e => .error e
    | .ok t => if t.has 1 then .ok (canon s (t.pa (a % 2 ^ 48))) else .error (cRights, t.level)
  match walkFrom s at_ (fun _ => true) (va % 2 ^ 48) 4 0 root with
  | .error e => .error e
  | .ok l =>
    match walk s root2 (l.pa (va % 2 ^ 48)) with
    | .error e => .error e
    | .ok t => .ok (l.under (va % 2 ^ 48) t)

/-- VA[63:48] equal bit 47 (R332). -/
def canonical (va : Nat) : Bool :=
  let h := va / 2 ^ 47 % 2 ^ 17
  decide (h = 0) || decide (h = 2 ^ 17 - 1)

/-- Rights an access needs (R338), as entry bits: R 1, W 2, A 3, X 4, U 5. -/
inductive Need where
  | r | w | a | x | xu
  deriving DecidableEq, Repr

def Need.bits (n : Need) : List Nat :=
  match n with
  | .r => [1]
  | .w => [2]
  | .a => [1, 2, 3]
  | .x => [4]
  | .xu => [4, 5]

/-- The access only reads, for R339. -/
def Need.reads (n : Need) : Bool :=
  match n with
  | .r => true
  | .w => false
  | .a => false
  | .x => true
  | .xu => true

/-- The checks after the leaf, in the order of R340; the physical address when all pass. protection: the refusal is the
protection table's (it is logged too). -/
def leafCheck (s : State) (bed cacheless : Bool) (need : Need) (va : Nat) (l : Leaf) : Except (Nat × Bool) Nat :=
  let pa := l.pa (va % 2 ^ 48)
  if !canonical va then .error (cNonCanonical, false)
  else if bed && !l.has 9 then .error (cNotShared, false)
  else if !need.bits.all l.has then .error (cRights, false)
  else if isUnpop s pa then .error (cUnpopulated, false)
  else if bed && isDevice pa then .error (cDevice, false)
  else if !protectOk s (canon s pa) cacheless need.reads then .error (cRights, true)
  else .ok (canon s pa)

/-! ### Cached translations -/

/-- Whether a cached translation matches an address space and address; a global entry matches every one (R347). -/
def TlbEntry.hits (t : TlbEntry) (asid va : Nat) : Bool :=
  (decide (t.asid = asid) || t.leaf.getLsbD 8) && decide (t.base ≤ va) && decide (va < t.base + t.bytes)

def TlbEntry.asLeaf (t : TlbEntry) : Leaf :=
  { bits := t.leaf.toNat, base := t.base, bytes := t.bytes,
    level := if t.bytes = 4096 then 3 else if t.bytes = 2 ^ 21 then 2 else 1 }

/-- The cache with a fresh leaf, at most n entries, latest first. -/
def tlbPut (n : Nat) (t : List TlbEntry) (asid : Nat) (l : Leaf) : List TlbEntry :=
  ({ asid := asid, base := l.base, bytes := l.bytes, leaf := BitVec.ofNat 64 l.bits } ::
    t.filter (fun x => !(decide (x.asid = asid) && decide (x.base = l.base)))).take n

/-- A translation: the cached leaf or the present one, as the free value says (R345, entry 15); a fresh walk is cached. root2 is the
second stage's root, where there is one. -/
structure Found where
  res : Except (Nat × Nat) Leaf
  tlb : List TlbEntry
  walked : Bool

def lookup (s : State) (tlb : List TlbEntry) (root : Nat) (root2 : Option Nat) (asid va i : Nat) : Found :=
  let fresh : Found :=
    match (match root2 with
      | none => walk s root va
      | some r => walkTwo s r root va) with
    | .ok l => { res := .ok l, tlb := tlbPut 9216 tlb asid l, walked := true }
    | .error e => { res := .error e, tlb := tlb, walked := true }
  match tlb.find? (fun t => t.hits asid (va % 2 ^ 48)) with
  | none => fresh
  | some t => if s.draw i % 2 = 0 then fresh else { res := .ok t.asLeaf, tlb := tlb, walked := false }

/-! ### Pan-side translation -/

/-- XLAT.ROOT_s of a pan. -/
def Pan.root (p : Pan) (slot : Nat) : Option (Nat × Nat) := if slot = 0 then p.root0 else p.root1

/-- A failure of a pan's translation: its cause and the level of the last entry read. -/
structure XFail where
  cause : Nat
  level : Nat
  deriving DecidableEq, Repr

/-- Translates one address for a pan-side access; i tells free values of one step apart. -/
def panXlat (s : State) (p slot : Nat) (need : Need) (cacheless : Bool) (va i : Nat) :
    State × Except XFail (Nat × Leaf) :=
  match (s.pan p).root slot with
  | none => (s, .error { cause := cNotMapped, level := 0 })
  | some (root, asid) =>
    let f := lookup s (s.pan p).tlb root none asid va i
    let s1 := s.updPan p (fun x => { x with tlb := f.tlb, walks := if f.walked then satAdd 32 x.walks 1 else x.walks })
    match f.res with
    | .error e => (s1, .error { cause := e.1, level := e.2 })
    | .ok l =>
      match leafCheck s true cacheless need va l with
      | .ok pa => (s1, .ok (pa, l))
      | .error e =>
        let s2 := if e.2 then
          s1.raise { code := evProtection, cls := 0, die := dieOfPan p, action := 3, addrKind := 1,
                     addr := l.pa (va % 2 ^ 48) } else s1
        (s2, .error { cause := e.1, level := l.level })

/-- Kinds of XLAT.FAULT_INFO (R350). -/
def kLoad := 0
def kStore := 1
def kAtomic := 2
def kFetch := 3
def kDmaSrc := 4
def kDmaDst := 5
def kFlood := 6
def kRewalk := 7

/-- Records a translation failure, or counts it while a record is held (R343, R350). -/
def recordXlat (s : State) (p bed slot kind : Nat) (queue : Bool) (f : XFail) (va : Nat) : State :=
  s.updPan p (fun x =>
    if x.xValid then { x with xLost := satAdd 32 x.xLost 1 }
    else { x with
      xValid := true
      xVa := va % 2 ^ 48
      xInfo := BitVec.ofNat 15 (f.cause + kind * 16 + boolN queue * 128 + bed * 256 + f.level * 4096 + slot * 16384) })

/-- The status of a refusal at queue time (R342). -/
def refusalStatus (cause : Nat) : Nat :=
  if cause = cNotMapped ∨ cause = cRights ∨ cause = cWalkError ∨ cause = cNotShared then 0x0105 else 0x0101

/-- The pages of a range, in ascending order: for each the virtual base, the bytes and the physical base of its leaf, or the
first failure and its address (R344). fuel bounds the pages. -/
def xlatRange (s : State) (p slot : Nat) (need : Need) (fuel va n i : Nat) (acc : List (Nat × Nat × Nat)) :
    State × Except (XFail × Nat) (List (Nat × Nat × Nat)) :=
  match fuel with
  | 0 => (s, .ok acc.reverse)
  | k + 1 =>
    if n = 0 then (s, .ok acc.reverse) else
    match panXlat s p slot need true va i with
    | (s1, .error f) => (s1, .error (f, va))
    | (s1, .ok (_, l)) =>
      let left := l.bytes - va % l.bytes
      if n ≤ left then (s1, .ok ((l.base, l.bytes, l.frame) :: acc).reverse)
      else xlatRange s1 p slot need k (va + left) (n - left) (i + 1) ((l.base, l.bytes, l.frame) :: acc)

/-- The canonical physical address of a virtual address by translations a descriptor holds. -/
def heldPa (s : State) (pages : List (Nat × Nat × Nat)) (va : Nat) : Option Nat :=
  match pages.find? (fun g => decide (g.1 ≤ va % 2 ^ 48) && decide (va % 2 ^ 48 < g.1 + g.2.1)) with
  | some g => some (canon s (g.2.2 + (va % 2 ^ 48 - g.1)))
  | none => none

/-! ### Core-side translation -/

/-- A core's access to virtual memory; the address is physical where the context names no table. -/
def coreXlat (s : State) (n : Nat) (ctx : CoreCtx) (need : Need) (va i : Nat) : State × Except Nat (Nat × Bool) :=
  match ctx.root with
  | none =>
    let pa := va % 2 ^ 48
    if isDevice pa then (s, .ok (pa, false))
    else if isUnpop s pa then (s, .error cUnpopulated)
    else if !protectOk s (canon s pa) false need.reads then
      (s.raise { code := evProtection, cls := 0, die := dieOfCore (n / 24), part := 2, partIndex := n % 24, action := 3,
                 addrKind := 1, addr := pa }, .error cRights)
    else (s, .ok (canon s pa, true))
  | some root =>
    let f := lookup s (s.core n).tlb root ctx.root2 ctx.asid va i
    let s1 := s.updCore n (fun c => { c with tlb := f.tlb })
    match f.res with
    | .error e => (s1, .error e.1)
    | .ok l =>
      let pa := l.pa (va % 2 ^ 48)
      match leafCheck s false false need va l with
      | .ok pa => (s1, .ok (pa, l.cacheable))
      | .error e =>
        let s2 := if e.2 then
          s1.raise { code := evProtection, cls := 0, die := dieOfCore (n / 24), part := 2, partIndex := n % 24, action := 3,
                     addrKind := 1, addr := pa } else s1
        (s2, .error e.1)

/-! ### Invalidation (R348) -/

/-- Whether an invalidation of an address space and an address, each none for all, matches a cached translation. -/
def TlbEntry.matched (t : TlbEntry) (asid va : Option Nat) : Bool :=
  (match asid with
    | none => true
    | some a => decide (t.asid = a) || t.leaf.getLsbD 8) &&
  (match va with
    | none => true
    | some v => decide (t.base ≤ v % 2 ^ 48) && decide (v % 2 ^ 48 < t.base + t.bytes))

end Sys2Proof.Machine
end

