-- ==== Sys2Proof/Machine/Operands.lean ====
section
/-!
DEFINITION. How a bed instruction issues: its group, guard and participation mask (R114, R125, R130, R131), its registers
(R112, R113) and operand forms (R116, R117, R120), its faults (R136, R141, R142), and the step to the next instruction. -/

namespace Sys2Proof.Machine

/-! ### Fault codes (R141) -/

def fIllegal := 0x01
def fMask := 0x02
def fMmaState := 0x03
def fMisaligned := 0x04
def fOrphan := 0x05
def fTranslation := 0x06
def fData := 0x07
def fTrap := 0x08

/-- A precise fault of an instruction: its code, the address it records and the participation mask at issue. seen: the state
with what the checks themselves recorded (walks, a translation record, an event), where they recorded something. -/
structure BedFault where
  code : Nat
  addr : Nat := 0
  pm : Word := 0
  seen : Option State := none

def illegal : Except BedFault State := .error { code := fIllegal }

/-- The instruction waits where it stands (R124, R128, R214): no fault, and the group does not go on. -/
def waits : Except BedFault State := .error { code := 0 }

/-! ### Rakes -/

def Rake.vget (r : Rake) (reg lane : Nat) : Word := tget 0 r.v (reg * 32 + lane)
def Rake.vset (r : Rake) (reg lane : Nat) (w : Word) : Rake := { r with v := tput 0 r.v (reg * 32 + lane) w }
def Rake.sget (r : Rake) (n : Nat) : Dword := tget 0 r.s n
def Rake.sset (r : Rake) (n : Nat) (w : Dword) : Rake := { r with s := tput 0 r.s n w }
/-- A predicate as a mask of lanes; p7 is always set (R112). -/
def Rake.pget (r : Rake) (n : Nat) : Word := if n = 7 then 0xFFFFFFFF else tget 0 r.p n
/-- p7 cannot be written (R111). -/
def Rake.pset (r : Rake) (n : Nat) (m : Word) : Rake := if n = 7 then r else { r with p := tput 0 r.p n m }
def Rake.pc (r : Rake) (lane : Nat) : Dword := tget 0 r.pcs lane
def Rake.setPc (r : Rake) (lane : Nat) (w : Dword) : Rake := { r with pcs := tput 0 r.pcs lane w }
def Rake.thread (r : Rake) (lane : Nat) : Thread := tget .absent r.threads lane
def Rake.setThread (r : Rake) (lane : Nat) (t : Thread) : Rake := { r with threads := tput .absent r.threads lane t }
def Rake.groupOf (r : Rake) (lane : Nat) : Nat := tget 0 r.groups lane
def Rake.setGroup (r : Rake) (lane g : Nat) : Rake := { r with groups := tput 0 r.groups lane g }

def Thread.live (t : Thread) : Bool :=
  match t with
  | .absent => false
  | .exited => false
  | _ => true

/-- The live threads of a rake. -/
def Rake.live (r : Rake) : Word := maskOf (fun t => (r.thread t).live)

/-- The threads of a group that can issue. -/
def Rake.issuing (r : Rake) (g : Nat) : Word :=
  maskOf (fun t => decide (r.thread t = .running) && decide (r.groupOf t = g))

/-- The lowest group number no live thread of the rake uses; 32 threads leave one of 33 free. -/
def Rake.freshGroup (r : Rake) : Nat :=
  ((List.range 33).find? (fun g => !laneList.any (fun t => (r.thread t).live && decide (r.groupOf t = g)))).getD 32

/-- An issuing group: where, its rake, its active mask (R131) and its program counter. -/
structure Issue where
  a : At
  rake : Rake
  active : Word
  pc : Dword



/-- The threads of the group whose guard holds (R114). -/
def Issue.guarded (c : Issue) (gd : Guard) : Word :=
  let m := c.rake.pget gd.g.toNat
  c.active &&& (if gd.gn = 1 then ~~~m else m)

/-- The guard of a rake-wide instruction must be p7 with gn = 0 (R130). -/
def guardAlways (gd : Guard) : Bool := decide (gd.g = 7) && decide (gd.gn = 0)

/-- The participation mask of a pm code; none where the code is reserved (R120). -/
def Issue.pmask (c : Issue) (pm : BitVec 7) : Option Word :=
  if pm.toNat < 0x40 then some ((c.rake.sget pm.toNat).truncate 32)
  else if pm.toNat = 0x40 then some 0xFFFFFFFF
  else none

/-- Scalar operand j of a rake-wide instruction (R120). -/
def Issue.sop (c : Issue) (sbase : BitVec 3) (j : Nat) : Nat := (c.rake.sget (8 * sbase.toNat + j)).toNat

/-- The index of the block whose rake issues. -/
def Issue.block (c : Issue) : Nat := (c.rake.home.getD (0, 0)).1

/-! ### Writing back -/

def Issue.put (c : Issue) (s : State) (r : Rake) : State := s.setRake c.a.pan c.a.bed c.a.slot r

/-- The threads of a mask go on at a program counter. -/
def Rake.jump (r : Rake) (m : Word) (pc : Dword) : Rake := (lanesOf m).foldl (fun r t => r.setPc t pc) r

/-- The issuing group goes on at the next instruction. -/
def advance (c : Issue) (s : State) : State :=
  s.updRake c.a.pan c.a.bed c.a.slot (fun r => r.jump c.active (c.pc + 8))

/-! ### Blocks and faults -/

def Bed.block? (b : Bed) (i : Nat) : Option Block := b.blocks.find? (fun x => x.index = i)

def Bed.setBlock (b : Bed) (x : Block) : Bed :=
  { b with blocks := b.blocks.map (fun y => if y.index = x.index then x else y) }

/-- Every thread of a rake that lives ends. -/
def Rake.endThreads (r : Rake) : Rake :=
  { laneList.foldl (fun r t => if (r.thread t).live then r.setThread t .exited else r) r with syncFrom := [] }

/-- A queued instruction of a block that has not started (R136). -/
def Work.drops (i : Nat) (w : Work) : Bool := decide (w.block = i) && w.got.isEmpty

/-- The queued instructions of a block that have not started are discarded, the agent moves that stand behind others at a tide
mover among them (R136). -/
def discardWork (s : State) (p b : Nat) (x : Block) : State :=
  let s1 := s.updBed p b (fun d => { d with
    mq := d.mq.filter (fun w => !w.drops x.index), dq := d.dq.filter (fun w => !w.drops x.index) })
  s1.updSalter (fun z => { z with movers := z.movers.filterMap (fun e =>
    let rest := e.2.filter (fun m => m.started || !(match m.origin with
      | .rake p' b' r _ => decide (p' = p) && decide (b' = b) && x.slots.contains r
      | .mailbox _ => false
      | .gone => false))
    if rest.isEmpty then none else some (e.1, rest)) })

/-- The block's threads end, what it queued and has not started is discarded, and the kernel's result is FAILED (R136); the
accumulator slots stay. -/
def blockAbort (s : State) (p b i : Nat) : State :=
  match (s.bed p b).block? i with
  | none => s
  | some x =>
    let s1 := x.slots.foldl (fun s r => s.updRake p b r Rake.endThreads) (discardWork s p b x)
    s1.updBed p b (fun d => { (d.setBlock { x with waitFrom := none, ctxWait := [], ctxMet := false, aborted := true }) with
      curFailed := true, failed := true })

/-- The bed's fault record: taken while none is held, counted otherwise (R142, R143). -/
def Bed.record (d : Bed) (code rake block : Nat) (pc : Dword) (active pm : Word) (addr : Nat) : Bed :=
  if d.fValid then { d with fLost := satAdd 32 d.fLost 1 }
  else { d with fCode := code, fRake := rake, fKernel := d.kernel, fBlock := block, fValid := true, fPc := pc,
                fActive := active, fPart := pm, fAddr := BitVec.ofNat 64 addr }

/-- A fault of a rake's instruction: recorded, reported, and the block aborted (R142). -/
def takeFault (c : Issue) (f : BedFault) (s : State) : State :=
  let p := c.a.pan
  let b := c.a.bed
  let home := c.rake.home.getD (0, 0)
  let k := (s.bed p b).kernel
  let s1 := s.updBed p b (fun d => d.record f.code home.2 home.1 c.pc c.active f.pm f.addr)
  let s2 := s1.raise { code := evBedFault, cls := 0, die := dieOfPan p, part := 1, partIndex := b, action := 3,
                       detail := f.code + k * 65536, detail2 := home.1 }
  blockAbort s2 p b home.1

/-! ### Issue -/

/-- The plan slot whose kernels run. -/
def State.slotRun (s : State) : Nat := (s.tide.cur.map StepRun.slot).getD (s.tide.running.getD 0)

/-- The issuing group of a place, when it exists: the pan is ONLINE and not in STOP, the bed runs, the rake is resident and the group has
threads that can issue (entry 9). -/
def issueOf (a : At) (s : State) : Option Issue :=
  let r := s.rake a.pan a.bed a.slot
  let m := r.issuing a.group
  if s.panRuns a.pan && decide ((s.bed a.pan a.bed).run = 1) && r.home.isSome && decide (m ≠ 0) then
    some { a := a, rake := r, active := m, pc := r.pc ((lanesOf m).headD 0) }
  else none

/-- The fetch of the instruction translates with the execute right and the B bit (R338, R342). -/
def fetchCheck (c : Issue) (s : State) : State × Option XFail :=
  match panXlat s c.a.pan s.slotRun .x false c.pc.toNat 1002 with
  | (s1, .ok _) => (s1, none)
  | (s1, .error f) => (s1, some f)

/-- One issue of a bed instruction: the group's effect f, or the fault it takes. -/
def bedIssue (a : At) (s : State) (f : Issue → State → Except BedFault State) : State :=
  match issueOf a s with
  | none => s
  | some c =>
    match fetchCheck c s with
    | (s1, some x) =>
      (takeFault c { code := fTranslation, addr := c.pc.toNat }
        (recordXlat s1 a.pan a.bed s.slotRun kFetch false x c.pc.toNat)).drawn
    | (s1, none) =>
      match f c s1 with
      | .ok s2 => s2.drawn
      | .error x => if x.code = 0 then s1.drawn else (takeFault c x (x.seen.getD s1)).drawn

/-! ### The engines' queues (R124, R206) -/

/-- The scalar register that receives an instruction's status, if one does (R85, R179, R190, R203). -/
def WorkOp.sd (o : WorkOp) : Option Nat :=
  match o with
  | .mma _ => none
  | .mmaDrain _ => none
  | .mmaLoad _ => none
  | .mmaStat f => some (fld f.body.toNat 12 6)
  | .copy f => some f.sd.toNat
  | .agentFetch f => some f.sd.toNat
  | .agentSpill f => some f.sd.toNat
  | .flood f => some f.sd.toNat
  | .kvAppend f => some f.sd.toNat
  | .kvCommit f => some f.sd.toNat
  | .kvDiscard f => some f.sd.toNat

/-- A KV instruction: it counts in the KV queue, the others of its list in the DMA queue. -/
def WorkOp.isKv (o : WorkOp) : Bool :=
  match o with
  | .kvAppend _ => true
  | .kvCommit _ => true
  | .kvDiscard _ => true
  | _ => false

/-- A matrix instruction. -/
def WorkOp.isMatrix (o : WorkOp) : Bool :=
  match o with
  | .mma _ => true
  | .mmaDrain _ => true
  | .mmaLoad _ => true
  | .mmaStat _ => true
  | _ => false

/-- The queue an instruction goes to holds as many as it can (R124). -/
def Bed.full (d : Bed) (o : WorkOp) : Bool :=
  if o.isMatrix then decide (64 ≤ d.mq.length)
  else if o.isKv then decide (16 ≤ (d.dq.filter (fun w => w.op.isKv)).length)
  else decide (32 ≤ (d.dq.filter (fun w => !w.op.isKv)).length)

/-- The instruction goes to its engine's queue with its operands as they stand, and its group goes on; a full queue makes the
group wait (R81, R124). -/
def enqueue (c : Issue) (m : Word) (sbase : BitVec 3) (o : WorkOp) (s : State) : Except BedFault State :=
  let d := s.bed c.a.pan c.a.bed
  if d.full o then waits
  else
    let w : Work := { op := o, at_ := c.a, block := c.block, pc := c.pc, active := c.active, pm := m,
                      ops := (List.range 8).map (c.sop sbase), key := c.rake.drainKey, view := c.rake.work,
                      issued := s.coh.homeNo }
    .ok (s.setBed c.a.pan c.a.bed (if o.isMatrix then { d with mq := d.mq ++ [w] } else { d with dq := d.dq ++ [w] }))

/-- Work of a rake that its bed's engines have not completed. -/
def Bed.workOf (d : Bed) (slot : Nat) : List Work := (d.mq ++ d.dq).filter (fun w => decide (w.at_.slot = slot))

/-- Scalar destinations of the agent moves that a rake's DMA.Q instructions asked for (R203). -/
def movingSds (a : At) (s : State) : List Nat :=
  s.salter.movers.flatMap (fun e => e.2.filterMap (fun m =>
    match m.origin with
    | .rake p b r sd => if p = a.pan ∧ b = a.bed ∧ r = a.slot then some sd else none
    | .mailbox _ => none
    | .gone => none))

/-- Scalar destinations a rake still waits for. -/
def pendingSds (a : At) (s : State) : List Nat :=
  ((s.bed a.pan a.bed).workOf a.slot).filterMap (fun w => w.op.sd) ++ movingSds a s

/-- Some matrix, DMA or KV instruction that the rake queued has not completed (R213, R214). -/
def rakeBusy (a : At) (s : State) : Bool := !((s.bed a.pan a.bed).workOf a.slot).isEmpty || !(movingSds a s).isEmpty

/-- Some scalar operand of the instruction is not yet there, and the group waits (R128, R217). -/
def operandWait (a : At) (s : State) (regs : List Nat) : Bool := regs.any (fun r => (pendingSds a s).contains r)

/-- An instruction that goes on at the next one. -/
def bedNext (a : At) (s : State) (f : Issue → State → Except BedFault State) : State :=
  bedIssue a s (fun c s => (f c s).map (advance c))

/-- A rake-wide instruction: guard p7 and a listed pm code, then the active mask equal to pm, else a fault (R130, R131).
f takes the participation mask. legal is the instruction's own check of reserved codes and registers; the group waits for the
mask's scalar and for the n scalar operands (R128). -/
def rakeWide (a : At) (gd : Guard) (pm : BitVec 7) (sbase : BitVec 3) (n : Nat) (legal : Issue → Bool) (s : State)
    (f : Issue → Word → State → Except BedFault State) : State :=
  bedNext a s (fun c s =>
    match c.pmask pm with
    | none => illegal
    | some m =>
      if !guardAlways gd || !legal c then .error { code := fIllegal, pm := m }
      else if operandWait a s (pm.toNat :: (List.range n).map (fun j => 8 * sbase.toNat + j)) then waits
      else if c.active ≠ m then .error { code := fMask, pm := m }
      else
        match f c m s with
        | .ok s' => .ok s'
        | .error x => .error { x with pm := m })

/-! ### What a reader may see (R206 to R216, R221) -/

/-- A reader of memory: a thread of a bed's vector engine, the work a rake queued, or a core, and what happens before its read. -/
structure Viewer where
  pan : Nat := 0
  bed : Nat := 0
  slot : Nat := 0
  block : Nat := 0
  lane : Option Nat := none
  core : Bool := false
  view : View := []
  seen : List Nat := []
  deriving DecidableEq, Repr

/-- The key of a thread in a view. -/
def threadKey (pan bed slot lane : Nat) : Nat := ((pan * 16 + bed) * 48 + slot) * 32 + lane

/-- What happens before either. -/
def mergeView (a b : View) : View := b.foldl (fun v e => tput 0 v e.1 (max (tget 0 v e.1) e.2)) a

/-- The scope of a code, taken from an issuer, contains an observer (R211). -/
def scopeHas (code pan bed slot block : Nat) (v : Viewer) : Bool :=
  match code with
  | 0 => !v.core && decide (v.pan = pan) && decide (v.bed = bed) && decide (v.slot = slot) && decide (v.block = block)
  | 1 => !v.core && decide (v.pan = pan) && decide (v.bed = bed) && decide (v.block = block)
  | 2 => !v.core
  | _ => true

/-- The reader's read races with a store: it is not the thread's own, does not happen before the read, and has not been
performed at a scope that contains the reader (R214, R221). -/
def racing (v : Viewer) (r : StoreRec) : Bool :=
  !(decide (v.lane = some r.lane) && decide (v.pan = r.pan) && decide (v.bed = r.bed) && decide (v.slot = r.slot))
    && decide (tget 0 v.view (threadKey r.pan r.bed r.slot r.lane) < r.number) && !v.seen.contains r.number
    && !(match r.performed with
      | some k => scopeHas k r.pan r.bed r.slot r.block v
      | none => false)

/-- The bytes that the reader finds instead of the latest ones, the latest store first: each racing store that the free bits let
it miss shows what stood before, unless a later store that it does not miss covers it (R210, R221). -/
def missed (v : Viewer) (free : Nat → Bool) (i : Nat) (cover : List Nat) (ks : List StoreRec) : List (Nat × Byte) :=
  match ks with
  | [] => []
  | r :: rest =>
    if racing v r && free i then r.old.filter (fun e => !cover.contains e.1) ++ missed v free (i + 1) cover rest
    else missed v free (i + 1) (r.old.map Prod.fst ++ cover) rest

/-- The releases carried by the stores whose values the reader finds in n bytes from lo (R215). -/
def foundRels (v : Viewer) (free : Nat → Bool) (i : Nat) (cover : List Nat) (lo n : Nat) (ks : List StoreRec) :
    List RelMark :=
  match ks with
  | [] => []
  | r :: rest =>
    if racing v r && free i then foundRels v free (i + 1) cover lo n rest
    else
      let hit := r.old.any (fun e => decide (lo ≤ e.1) && decide (e.1 < lo + n) && !cover.contains e.1)
      (if hit then r.rels else []) ++ foundRels v free (i + 1) (r.old.map Prod.fst ++ cover) lo n rest

/-- Numbers of the stores to n bytes from lo that the reader does not miss. -/
def foundNos (v : Viewer) (free : Nat → Bool) (lo n : Nat) (ks : List StoreRec) : List Nat :=
  ((List.range ks.length).zip ks).filterMap (fun e =>
    if (racing v e.2 && free e.1) || !e.2.old.any (fun b => decide (lo ≤ b.1) && decide (b.1 < lo + n)) then none
    else some e.2.number)

/-- Bytes read from lo with others in their place. -/
def patch (lo : Nat) (bs : List Byte) (os : List (Nat × Byte)) : List Byte :=
  os.foldl (fun bs e => if lo ≤ e.1 then bs.set (e.1 - lo) e.2 else bs) bs

/-- Bed scratch as a reader finds it. -/
def Bed.seen (d : Bed) (v : Viewer) (free : Nat → Bool) : Bed :=
  { d with scratch := (missed v free 0 [] d.kept).foldl (fun t e => tput 0 t e.1 e.2) d.scratch }

/-- The free bits of a reader of this step: which racing stores it misses (entry 11). -/
def State.missBit (s : State) (reader i : Nat) : Bool := decide (s.draw (1000000 + reader * 65536 + i) % 2 = 1)

/-- A thread as a reader. -/
def Issue.viewer (c : Issue) (l : Nat) : Viewer :=
  { pan := c.a.pan, bed := c.a.bed, slot := c.a.slot, block := c.block, lane := some l, view := tget [] c.rake.views l }

/-- The work a rake queued, as a reader. -/
def Work.viewer (w : Work) : Viewer :=
  { pan := w.at_.pan, bed := w.at_.bed, slot := w.at_.slot, block := w.block, view := w.view }

/-- A release and an acquire at a scope by the reader synchronise: each scope contains the other's observer (R215). -/
def syncs (m : RelMark) (scope : Nat) (v : Viewer) : Bool :=
  scopeHas m.scope m.pan m.bed m.slot m.block v
    && (if v.core then true else scopeHas scope v.pan v.bed v.slot v.block
      { pan := m.pan, bed := m.bed, slot := m.slot, block := m.block })

/-- What an acquire at a scope learns from the releases it read (R215). -/
def learned (ms : List RelMark) (scope : Nat) (v : Viewer) : View :=
  (ms.filter (fun m => syncs m scope v)).foldl (fun a m => mergeView a m.view) []

/-- The stores of some threads are performed at a scope (R214). -/
def perform (scope : Nat) (mine : StoreRec → Bool) (ks : List StoreRec) : List StoreRec :=
  ks.map (fun r => if mine r then { r with performed := some (max scope (r.performed.getD 0)) } else r)

/-- The threads of a mask, and the work their rake queues next, go on after what a view says (R213). -/
def Rake.after (r : Rake) (m : Word) (v : View) (work : Bool) : Rake :=
  let r1 := (lanesOf m).foldl (fun r l => { r with views := tput [] r.views l (mergeView (tget [] r.views l) v) }) r
  if work then { r1 with work := mergeView r1.work v } else r1

/-! ### Vector operands (R112, R113, R116) -/

/-- What the elements of a type code are. -/
inductive EKind where
  | sint
  | uint
  | flt (f : FFmt)
  | raw
  deriving DecidableEq, Repr

/-- A type of R116: registers of an operand, bits of an element, elements, and what they are. -/
structure VType where
  regs : Nat
  bits : Nat
  elems : Nat
  kind : EKind
  deriving DecidableEq, Repr

/-- The types of R116; none where the code is reserved. -/
def vtype (code : Nat) : Option VType :=
  match code with
  | 0 => some ⟨1, 32, 1, .sint⟩
  | 1 => some ⟨1, 32, 1, .uint⟩
  | 2 => some ⟨2, 64, 1, .sint⟩
  | 3 => some ⟨2, 64, 1, .uint⟩
  | 4 => some ⟨1, 32, 1, .flt fp32⟩
  | 5 => some ⟨1, 16, 2, .flt bf16⟩
  | 6 => some ⟨1, 16, 2, .flt fp16⟩
  | 7 => some ⟨1, 8, 4, .sint⟩
  | 8 => some ⟨4, 128, 1, .raw⟩
  | _ => none

/-- Bits of a whole operand. -/
def VType.width (t : VType) : Nat := 32 * t.regs

/-- A register of n registers lies in the rake's allocation and is aligned to n (R113). -/
def Rake.regOk (r : Rake) (reg n : Nat) : Bool := decide (reg % n = 0) && decide (reg + n ≤ r.vregGroups * 8)

/-- The value of n registers from reg on in a lane, the lowest register in the low bits. -/
def Rake.wide (r : Rake) (reg n lane : Nat) : Nat :=
  match n with
  | 0 => 0
  | k + 1 => (r.vget reg lane).toNat + 2 ^ 32 * r.wide (reg + 1) k lane

/-- Writes n registers from reg on in a lane. -/
def Rake.setWide (r : Rake) (reg n lane v : Nat) : Rake :=
  match n with
  | 0 => r
  | k + 1 => (r.vset reg lane (BitVec.ofNat 32 v)).setWide (reg + 1) k lane (v / 2 ^ 32)

/-- Element i of a packed value. -/
def elem (bits i v : Nat) : Nat := fld v (i * bits) bits

/-- Packs n elements, element 0 in the low bits. -/
def packElems (bits n : Nat) (f : Nat → Nat) : Nat :=
  match n with
  | 0 => 0
  | k + 1 => packElems bits k f + 2 ^ (k * bits) * (f k % 2 ^ bits)

/-- Negation of one element: the sign bit of a float, two's complement of an integer, the value and tag of a RAW96. -/
def negElem (k : EKind) (bits v : Nat) : Nat :=
  match k with
  | .flt f => v ^^^ 2 ^ (f.ex + f.man)
  | .raw =>
    let tag := fld v 96 2
    (2 ^ 96 - v % 2 ^ 96) % 2 ^ 96 + 2 ^ 96 * (if tag = 1 then 2 else if tag = 2 then 1 else tag)
  | _ => (2 ^ bits - v) % 2 ^ bits

def negVal (t : VType) (on : Bool) (v : Nat) : Nat :=
  if on then packElems t.bits t.elems (fun i => negElem t.kind t.bits (elem t.bits i v)) else v

/-- Bits of an element's value: those of a RAW96 are the 96 below its tag (R93, R112). -/
def VType.valBits (t : VType) : Nat := if t.kind = .raw then 96 else t.bits

/-- The immediate of bmode 2: bits [35:20], that is vb and vc together, sign-extended to the operand's value; a RAW96 made of it
is finite. -/
def immOf (f : VFmt) (t : VType) : Nat :=
  wrapN (if t.kind = .raw then 96 else t.width) (sext 16 (f.vb.toNat * 256 + f.vc.toNat))

/-- Operand a of a lane. -/
def opA (c : Issue) (f : VFmt) (t : VType) (lane : Nat) : Nat :=
  negVal t (f.na = 1) (c.rake.wide f.va.toNat t.regs lane)

/-- Operand b of a lane: a register, a broadcast scalar or the immediate. -/
def opB (c : Issue) (f : VFmt) (t : VType) (lane : Nat) : Nat :=
  let v :=
    if f.bmode = 0 then c.rake.wide f.vb.toNat t.regs lane
    else if f.bmode = 1 then (c.rake.sget (f.vb.toNat % 64)).toNat % 2 ^ t.width
    else immOf f t
  negVal t (f.nb = 1) v

/-- Operand c of a lane; with an immediate vc is unused and the operand is a free value (entry 16). -/
def opC (c : Issue) (s : State) (f : VFmt) (t : VType) (lane : Nat) : Nat :=
  let v := if f.bmode = 2 then s.draw (2000 + lane) % 2 ^ t.width else c.rake.wide f.vc.toNat t.regs lane
  negVal t (f.nc = 1) v

/-- The fields of a format V instruction are legal: no reserved type, bmode or rnd, and rnd = 2 only where st is true
(R115, R116, R161). -/
def vfieldsOk (f : VFmt) (st : Bool) : Bool :=
  (vtype f.type.toNat).isSome && decide (f.bmode ≠ 3) && decide (f.rnd ≠ 3) && (st || decide (f.rnd ≠ 2))

/-- The source registers a, b and c that a format V instruction names are legal, each where it is used. -/
def vsrcOk (c : Issue) (f : VFmt) (n : Nat) (useA useB useC : Bool) : Bool :=
  (!useA || c.rake.regOk f.va.toNat n)
    && (!useB || decide (f.bmode ≠ 0) || c.rake.regOk f.vb.toNat n)
    && (!useC || decide (f.bmode = 2) || c.rake.regOk f.vc.toNat n)

/-- A format V instruction: it waits for a broadcast scalar that is not yet there, and goes on at the next one. -/
def vecNext (a : At) (f : VFmt) (s : State) (body : Issue → State → Except BedFault State) : State :=
  bedNext a s (fun c s =>
    if f.bmode = 1 ∧ c.guarded f.gd ≠ 0 ∧ operandWait a s [f.vb.toNat % 64] then waits else body c s)

/-- A vector instruction that acts per thread: with no thread guarded it has no effect; legal is checked for the rest; val
gives each lane's result, n registers of vd (R113, R130). -/
def vecWrite (c : Issue) (s : State) (f : VFmt) (legal : Bool) (n : Nat) (val : Nat → Nat) : Except BedFault State :=
  let m := c.guarded f.gd
  if m = 0 then .ok s
  else if !legal || !c.rake.regOk f.vd.toNat n then illegal
  else .ok (c.put s ((lanesOf m).foldl (fun r t => r.setWide f.vd.toNat n t (val t)) c.rake))

/-- A vector instruction that writes a predicate of the guarded threads. -/
def vecPred (c : Issue) (s : State) (f : VFmt) (legal : Bool) (bit : Nat → Bool) : Except BedFault State :=
  let m := c.guarded f.gd
  if m = 0 then .ok s
  else if !legal then illegal
  else
    let old := c.rake.pget f.pd.toNat
    let new := maskOf (fun t => if lane m t then bit t else lane old t)
    .ok (if f.pw = 1 then c.put s (c.rake.pset f.pd.toNat new) else s)

/-! ### Scalar operands (R117) -/

/-- Operand b of a format S instruction. -/
def sopB (c : Issue) (f : SFmt) : Dword :=
  if f.imm = 1 then f.imm32.signExtend 64 else c.rake.sget f.sb.toNat

/-- A scalar instruction: it acts once when its guard holds for some thread of the group (R130). -/
def scalarOp (a : At) (f : SFmt) (s : State) (op : Issue → State → Except BedFault State) : State :=
  bedNext a s (fun c s =>
    if c.guarded f.gd = 0 then .ok s
    else if operandWait a s ([f.sa.toNat, f.sd.toNat] ++ if f.imm = 1 then [] else [f.sb.toNat]) then waits
    else op c s)

/-- A scalar instruction that writes sd. -/
def scalarWrite (a : At) (f : SFmt) (s : State) (val : Issue → Dword) : State :=
  scalarOp a f s (fun c s => .ok (c.put s (c.rake.sset f.sd.toNat (val c))))

end Sys2Proof.Machine
end

