-- ==== Sys2Proof/Machine/Flags.lean ====
section
/-!
DEFINITION. The conditions of VCMP and SCMP (R147), and the results of elementwise arithmetic with saturation (R116) as
predicates and values. -/

namespace Sys2Proof.Machine

/-- The conditions in their order: EQ, NE, LT, LE, GT, GE, UNORD; none beyond (R147). -/
def condInt (code : Nat) (x y : Int) : Option Bool :=
  match code with
  | 0 => some (decide (x = y))
  | 1 => some (decide (x ≠ y))
  | 2 => some (decide (x < y))
  | 3 => some (decide (x ≤ y))
  | 4 => some (decide (y < x))
  | 5 => some (decide (y ≤ x))
  | 6 => some false
  | _ => none

/-- The conditions on floating-point values: with a NaN only NE and UNORD hold (entry 17). -/
def condFl (code : Nat) (x y : Fl) : Option Bool :=
  if x.isNan || y.isNan then
    (match code with
      | 1 => some true
      | 6 => some true
      | _ => if code ≤ 6 then some false else none)
  else
    match code with
    | 0 => some (x.eqv y)
    | 1 => some (!x.eqv y)
    | 2 => some (x.lt y)
    | 3 => some (x.lt y || x.eqv y)
    | 4 => some (y.lt x)
    | 5 => some (y.lt x || x.eqv y)
    | 6 => some false
    | _ => none

/-- An integer element's value. -/
def elemInt (k : EKind) (bits v : Nat) : Int :=
  match k with
  | .sint => sext bits v
  | _ => Int.ofNat (v % 2 ^ bits)

/-- A RAW96 as a value: its tag, or its 96-bit two's-complement number on an unstated grid (R93, R98). -/
def rawFl (v : Nat) : Fl :=
  match fld v 96 2 with
  | 0 => Fl.ofInt (sext 96 v)
  | 1 => .inf false
  | 2 => .inf true
  | _ => .nan

/-- The condition of one element. -/
def condElem (k : EKind) (bits code x y : Nat) : Bool :=
  match k with
  | .flt f => (condFl code (f.decode x) (f.decode y)).getD false
  | .raw => (condFl code (rawFl x) (rawFl y)).getD false
  | _ => (condInt code (elemInt k bits x) (elemInt k bits y)).getD false

/-- The condition of a packed operand: that of its elements where they agree, else a free bit (entry 16). -/
def condVal (t : VType) (code x y free : Nat) : Bool :=
  let r := (List.range t.elems).map (fun i => condElem t.kind t.bits code (elem t.bits i x) (elem t.bits i y))
  if r.all id then true else if r.all (fun b => !b) then false else bitN free 0

/-- An exact integer result in an element: saturated to the type's range, or modulo the width (R116, R133). -/
def intResult (k : EKind) (bits : Nat) (sat : Bool) (i : Int) : Nat :=
  if sat then
    match k with
    | .sint => wrapN bits (max (-(2 ^ (bits - 1) : Int)) (min i (2 ^ (bits - 1) - 1)))
    | _ => wrapN bits (max 0 (min i (2 ^ bits - 1)))
  else wrapN bits i

/-- A NaN of a format with free sign and payload (entry 17). -/
def freeNan (f : FFmt) (free : Nat) : Nat :=
  fld free f.man 1 * 2 ^ (f.ex + f.man) + (2 ^ f.ex - 1) * 2 ^ f.man + (1 + free % (2 ^ f.man - 1))

/-- A floating-point result in an element: rounded once, saturated where sat holds; a NaN is free (entry 17). -/
def fltResult (f : FFmt) (rnd : Rnd) (sat : Bool) (free : Nat) (x : Fl) : Nat :=
  match x with
  | .nan => freeNan f free
  | .inf n => f.infBits n
  | .fin n m e => f.encodeFin rnd sat n m e

/-- The rounding of a vector instruction other than a stochastic one. -/
def vrnd (f : VFmt) : Rnd := if f.rnd = 1 then .rz else .rne

end Sys2Proof.Machine
end

