-- ==== Sys2Proof/Machine/Vector.lean ====
section
/-!
DEFINITION. The vector instructions of R147 with R113, R116, R161 and R518. -/

namespace Sys2Proof.Machine

/-- Elementwise arithmetic of R147. -/
inductive VArith where
  | add | sub | mul | fma | min | max
  deriving DecidableEq, Repr

/-- The free value of an element of a lane. -/
def State.laneDraw (s : State) (t i : Nat) : Nat := s.draw (4096 + t * 8 + i)

/-- One integer element, exact before it is narrowed. -/
def arithInt (op : VArith) (a b c : Int) : Int :=
  match op with
  | .add => a + b
  | .sub => a - b
  | .mul => a * b
  | .fma => a * b + c
  | .min => if a ≤ b then a else b
  | .max => if a ≤ b then b else a

/-- One floating-point element. The minimum or maximum of a NaN is a free value; of two equal values, one of them, free where
they are zeros of unlike signs (entry 17). -/
def arithFlt (op : VArith) (f : FFmt) (rnd : Rnd) (sat : Bool) (free a b c : Nat) : Nat :=
  let x := f.decode a
  let y := f.decode b
  let pick (less : Bool) : Nat :=
    if x.isNan || y.isNan then free % 2 ^ (f.ex + f.man + 1)
    else if x.eqv y then (if bitN free 0 then a else b)
    else if less then a else b
  match op with
  | .add => fltResult f rnd sat free (x.add y)
  | .sub => fltResult f rnd sat free (x.add y.neg)
  | .mul => fltResult f rnd sat free (x.mul y)
  | .fma => fltResult f rnd sat free ((x.mul y).add (f.decode c))
  | .min => pick (x.lt y)
  | .max => pick (y.lt x)

/-- Tags combine (R98). -/
def tagAdd (x y : Nat) : Nat :=
  if x = 3 ∨ y = 3 then 3
  else if x = 0 then y
  else if y = 0 then x
  else if x = y then x else 3

/-- RAW96 addition modulo 2^96 with tags (R97, R98). -/
def raw96Add (a b : Nat) : Nat := (a + b) % 2 ^ 96 + 2 ^ 96 * tagAdd (fld a 96 2) (fld b 96 2)

/-- Elementwise arithmetic of RAW96 values: the sums of R97 and R98, the lesser and the greater of two values that are ordered; for
a product, and the lesser or greater with a NaN, no rule states a result (entry 16). -/
def arithRaw (op : VArith) (free a b : Nat) : Nat :=
  let pick (less : Bool) : Nat :=
    if (rawFl a).isNan || (rawFl b).isNan then free % 2 ^ 98 else if less then a % 2 ^ 98 else b % 2 ^ 98
  match op with
  | .add => raw96Add a b
  | .sub => raw96Add a (negElem .raw 128 b)
  | .min => pick ((rawFl a).lt (rawFl b))
  | .max => pick ((rawFl b).lt (rawFl a))
  | _ => free % 2 ^ 98

def arithElem (op : VArith) (k : EKind) (bits : Nat) (rnd : Rnd) (sat : Bool) (free a b c : Nat) : Nat :=
  match k with
  | .flt f => arithFlt op f rnd sat free a b c
  | .raw => arithRaw op free a b
  | _ => intResult k bits sat (arithInt op (elemInt k bits a) (elemInt k bits b) (elemInt k bits c))

/-- The type a legal instruction names. -/
def vtypeD (f : VFmt) : VType := (vtype f.type.toNat).getD ⟨1, 32, 1, .uint⟩

/-- Elementwise arithmetic of a lane. -/
def arithLane (op : VArith) (c : Issue) (s : State) (f : VFmt) (l : Nat) : Nat :=
  let t := vtypeD f
  let a := opA c f t l
  let b := opB c f t l
  let cc := if op = .fma then opC c s f t l else 0
  packElems t.bits t.elems (fun i =>
    arithElem op t.kind t.bits (vrnd f) (f.sat = 1) (s.laneDraw l i) (elem t.bits i a) (elem t.bits i b) (elem t.bits i cc))

def vArith (op : VArith) (a : At) (f : VFmt) (s : State) : State :=
  vecNext a f s (fun c s =>
    vecWrite c s f (vfieldsOk f false && vsrcOk c f (vtypeD f).regs true true (decide (op = .fma))) (vtypeD f).regs
      (arithLane op c s f))

def execVadd (a : At) (f : VFmt) (s : State) : Host.Outcome State Fault Refusal := go (vArith .add a f s)
def execVsub (a : At) (f : VFmt) (s : State) : Host.Outcome State Fault Refusal := go (vArith .sub a f s)
def execVmul (a : At) (f : VFmt) (s : State) : Host.Outcome State Fault Refusal := go (vArith .mul a f s)
def execVfma (a : At) (f : VFmt) (s : State) : Host.Outcome State Fault Refusal := go (vArith .fma a f s)
def execVmin (a : At) (f : VFmt) (s : State) : Host.Outcome State Fault Refusal := go (vArith .min a f s)
def execVmax (a : At) (f : VFmt) (s : State) : Host.Outcome State Fault Refusal := go (vArith .max a f s)

/-- VCMP: the condition of sub, written to pd where pw = 1; sub 7 and above are reserved. -/
def execVcmp (a : At) (f : VFmt) (s : State) : Host.Outcome State Fault Refusal :=
  go (vecNext a f s (fun c s =>
    let t := vtypeD f
    vecPred c s f (vfieldsOk f false && vsrcOk c f t.regs true true false && decide (f.sub.toNat < 7))
      (fun l => condVal t f.sub.toNat (opA c f t l) (opB c f t l) (s.laneDraw l 0))))

/-- VSEL: a where pd holds, else b. -/
def execVsel (a : At) (f : VFmt) (s : State) : Host.Outcome State Fault Refusal :=
  go (vecNext a f s (fun c s =>
    let t := vtypeD f
    vecWrite c s f (vfieldsOk f false && vsrcOk c f t.regs true true false) t.regs
      (fun l => if lane (c.rake.pget f.pd.toNat) l then opA c f t l else opB c f t l)))

/-- A bitwise operation on whole operands. -/
def vBitwise (op : Nat → Nat → Nat) (a : At) (f : VFmt) (s : State) : State :=
  vecNext a f s (fun c s =>
    let t := vtypeD f
    vecWrite c s f (vfieldsOk f false && vsrcOk c f t.regs true true false) t.regs
      (fun l => op (opA c f t l) (opB c f t l)))

def execVand (a : At) (f : VFmt) (s : State) : Host.Outcome State Fault Refusal := go (vBitwise (· &&& ·) a f s)
def execVor (a : At) (f : VFmt) (s : State) : Host.Outcome State Fault Refusal := go (vBitwise (· ||| ·) a f s)
def execVxor (a : At) (f : VFmt) (s : State) : Host.Outcome State Fault Refusal := go (vBitwise (· ^^^ ·) a f s)

/-- One shifted element (R518): left, logical right, arithmetic right. -/
def shlElem (bits x n : Nat) : Nat := if bits ≤ n then 0 else x * 2 ^ n % 2 ^ bits
def shrElem (bits x n : Nat) : Nat := if bits ≤ n then 0 else x / 2 ^ n
def sarElem (bits x n : Nat) : Nat := wrapN bits (sext bits x / (2 ^ (min n bits) : Int))

/-- A shift of one element; that of a RAW96 shifts its 96-bit value and keeps its tag. -/
def shiftElem (op : Nat → Nat → Nat → Nat) (t : VType) (x n : Nat) : Nat :=
  op t.valBits (x % 2 ^ t.valBits) (n % 2 ^ t.valBits) + 2 ^ t.valBits * fld x t.valBits 2 * boolN (decide (t.kind = .raw))

def vShift (op : Nat → Nat → Nat → Nat) (legal : Bool) (a : At) (f : VFmt) (s : State) : State :=
  vecNext a f s (fun c s =>
    let t := vtypeD f
    vecWrite c s f (vfieldsOk f false && vsrcOk c f t.regs true true false && legal) t.regs
      (fun l => packElems t.bits t.elems (fun i => shiftElem op t (elem t.bits i (opA c f t l)) (elem t.bits i (opB c f t l)))))

def execVshl (a : At) (f : VFmt) (s : State) : Host.Outcome State Fault Refusal := go (vShift shlElem true a f s)

/-- VSHR: sub 0 logical, 1 arithmetic; others are reserved. -/
def execVshr (a : At) (f : VFmt) (s : State) : Host.Outcome State Fault Refusal :=
  go (vShift (if f.sub = 1 then sarElem else shrElem) (decide (f.sub.toNat < 2)) a f s)

/-- VMOV: vd receives b; operand a is not read (R518). -/
def execVmov (a : At) (f : VFmt) (s : State) : Host.Outcome State Fault Refusal :=
  go (vecNext a f s (fun c s =>
    let t := vtypeD f
    vecWrite c s f (vfieldsOk f false && vsrcOk c f t.regs false true false) t.regs (fun l => opB c f t l)))

/-! ### VCVT -/

/-- Converts one element: from kind k of n bits to kind k' of n' bits (R518; entry 16 for what it leaves open). -/
def cvtElem (k : EKind) (n : Nat) (k' : EKind) (n' : Nat) (rnd : Rnd) (sat : Bool) (free x : Nat) : Nat :=
  match k, k' with
  | .raw, .flt g => if fld x 96 2 = 0 then free % 2 ^ n' else g.cvtBits rnd sat (rawFl x)
  | .raw, _ => free % 2 ^ n'
  | _, .raw => free % 2 ^ n'
  | .flt f, .flt g => g.cvtBits rnd sat (f.decode x)
  | .flt f, _ =>
    match f.decode x with
    | .nan => free % 2 ^ n'
    | .inf neg => if sat then intResult k' n' true (if neg then -(2 ^ 128 : Int) else 2 ^ 128) else free % 2 ^ n'
    | .fin neg m e =>
      let i := roundInt rnd neg m e
      if intResult k' n' true i = intResult k' n' false i ∧ elemInt k' n' (intResult k' n' false i) = i then
        intResult k' n' false i
      else if sat then intResult k' n' true i
      else free % 2 ^ n'
  | _, .flt g => g.cvtBits rnd sat (Fl.ofInt (elemInt k n x))
  | _, _ => intResult k' n' sat (elemInt k n x)

/-- One step of a grain generator (R148): the output and the next state. State bit 32k + b is bit b of s[k]. -/
def grainStep (st : BitVec 128) : Word × BitVec 128 :=
  let s0 : Word := st.extractLsb' 0 32
  let s1 : Word := st.extractLsb' 32 32
  let s2 : Word := st.extractLsb' 64 32
  let s3 : Word := st.extractLsb' 96 32
  let out := (s0 + s3).rotateLeft 7 + s0
  let t := s1 <<< 9
  let s2 := s2 ^^^ s0
  let s3 := s3 ^^^ s1
  let s1 := s1 ^^^ s2
  let s0 := s0 ^^^ s3
  let s2 := s2 ^^^ t
  let s3 := s3.rotateLeft 11
  (out, s3 ++ s2 ++ s1 ++ s0)

def Rake.laneState (r : Rake) (t : Nat) : BitVec 128 := tget 0 r.lanes t
def Rake.setLane (r : Rake) (t : Nat) (x : BitVec 128) : Rake := { r with lanes := tput 0 r.lanes t x }

/-- The next word of a lane, and the rake with the lane's state advanced (R154). -/
def Rake.drawLane (r : Rake) (t : Nat) : Word × Rake :=
  let x := grainStep (r.laneState t)
  (x.1, r.setLane t x.2)

/-- VCVT from FP32 to a packed 16-bit format: the lower half is a, the upper b; with rnd = 2 the word x of the lane serves the
halves (R161, R518). -/
def cvtPair (g : FFmt) (f : VFmt) (a b x : Nat) : Nat :=
  let rnd (h : Nat) : Rnd := if f.rnd = 2 then .st16 (fld x (16 * h) 16) else vrnd f
  g.cvtBits (rnd 0) (f.sat = 1) (f32 a) + 2 ^ 16 * g.cvtBits (rnd 1) (f.sat = 1) (f32 b)

/-- Whether VCVT goes from FP32 to BF16x2 or FP16x2. -/
def cvtIsPair (f : VFmt) : Bool := decide (f.sub = 4) && (decide (f.type = 5) || decide (f.type = 6))

/-- The lane's result of a VCVT, x being its grain word. -/
def cvtLane (c : Issue) (s : State) (f : VFmt) (src : VType) (l x : Nat) : Nat :=
  let t := vtypeD f
  match t.kind with
  | .flt g =>
    if cvtIsPair f then cvtPair g f (opA c f src l) (opB c f src l) x
    else packElems t.bits t.elems (fun i =>
      if i < src.elems then cvtElem src.kind src.bits t.kind t.bits (vrnd f) (f.sat = 1) (s.laneDraw l i)
        (elem src.bits i (opA c f src l))
      else s.laneDraw l i)
  | _ => packElems t.bits t.elems (fun i =>
      if i < src.elems then cvtElem src.kind src.bits t.kind t.bits (vrnd f) (f.sat = 1) (s.laneDraw l i)
        (elem src.bits i (opA c f src l))
      else s.laneDraw l i)

/-- The guarded threads each draw a word: the rake with the lane states advanced. -/
def Rake.drawAll (r : Rake) (m : Word) : Rake := (lanesOf m).foldl (fun r t => (r.drawLane t).2) r

/-- VCVT: from type sub to type, with rnd and sat. -/
def execVcvt (a : At) (f : VFmt) (s : State) : Host.Outcome State Fault Refusal :=
  go (vecNext a f s (fun c s =>
    match vtype f.sub.toNat with
    | none => if c.guarded f.gd = 0 then .ok s else illegal
    | some src =>
      let c2 : Issue := if f.rnd = 2 then { c with rake := c.rake.drawAll (c.guarded f.gd) } else c
      vecWrite c2 s f (vfieldsOk f (cvtIsPair f) && vsrcOk c f src.regs true (cvtIsPair f) false) (vtypeD f).regs
        (fun l => cvtLane c s f src l (c.rake.drawLane l).1.toNat)))

/-! ### RAW96 -/

/-- The RAW96 type. -/
def rawType : VType := ⟨4, 128, 1, .raw⟩

/-- VADD96: RAW96 whatever the type field holds. -/
def execVadd96 (a : At) (f : VFmt) (s : State) : Host.Outcome State Fault Refusal :=
  go (vecNext a f s (fun c s =>
    vecWrite c s f (vfieldsOk f false && vsrcOk c f 4 true true false) 4
      (fun l => raw96Add (opA c f rawType l) (opB c f rawType l))))

/-! ### Elementary functions (FP32, within 2 ulp) -/

/-- The FP32 type. -/
def fp32Type : VType := ⟨1, 32, 1, .flt fp32⟩

/-- A finite exact result as FP32 within 2 ulp, chosen by the free value. A result beyond FP32, and every operand at which
the function has no value, gives a free value (entry 17). -/
def near (free : Nat) (x : Fl) : Nat :=
  match x with
  | .fin n m e => if fp32.maxMag < fp32.roundMag .rz m e then free % 2 ^ 32 else within2 n m e free
  | _ => free % 2 ^ 32

def vElementary (fn : Fl → Fl) (a : At) (f : VFmt) (s : State) : State :=
  vecNext a f s (fun c s =>
    vecWrite c s f (vfieldsOk f false && vsrcOk c f 1 true false false) 1
      (fun l => near (s.laneDraw l 0) (fn (f32 (opA c f fp32Type l)))))

/-- The functions on finite operands; nan where the manual states no result. -/
def rcpFl (x : Fl) : Fl :=
  match x with
  | .fin n m e => if m = 0 then .nan else (Fl.fin false 1 0).div (.fin n m e)
  | _ => .nan

def rsqFl (x : Fl) : Fl :=
  match x with
  | .fin n m e => if n ∨ m = 0 then .nan else rsqrtFin m e
  | _ => .nan

def exp2Fl (x : Fl) : Fl :=
  match x with
  | .fin n m e => exp2Fin n m e
  | _ => .nan

def log2Fl (x : Fl) : Fl :=
  match x with
  | .fin n m e => if n ∨ m = 0 then .nan else log2Fin m e
  | _ => .nan

def sinFl (x : Fl) : Fl :=
  match x with
  | .fin n m e => sinFin n m e
  | _ => .nan

def cosFl (x : Fl) : Fl :=
  match x with
  | .fin _ m e => cosFin m e
  | _ => .nan

def execVrcp (a : At) (f : VFmt) (s : State) : Host.Outcome State Fault Refusal := go (vElementary rcpFl a f s)
def execVrsq (a : At) (f : VFmt) (s : State) : Host.Outcome State Fault Refusal := go (vElementary rsqFl a f s)
def execVexp2 (a : At) (f : VFmt) (s : State) : Host.Outcome State Fault Refusal := go (vElementary exp2Fl a f s)
def execVlog2 (a : At) (f : VFmt) (s : State) : Host.Outcome State Fault Refusal := go (vElementary log2Fl a f s)
def execVsin (a : At) (f : VFmt) (s : State) : Host.Outcome State Fault Refusal := go (vElementary sinFl a f s)
def execVcos (a : At) (f : VFmt) (s : State) : Host.Outcome State Fault Refusal := go (vElementary cosFl a f s)

/-- VLANE: the lane number. -/
def execVlane (a : At) (f : VFmt) (s : State) : Host.Outcome State Fault Refusal :=
  go (vecNext a f s (fun c s => vecWrite c s f (vfieldsOk f false) 1 (fun l => l)))

/-- Set bits among the low n. -/
def popCount (n x : Nat) : Nat :=
  match n with
  | 0 => 0
  | k + 1 => popCount k x + boolN (bitN x k)

/-- Leading zeros of the low n bits. -/
def leadZeros (n x : Nat) : Nat :=
  match n with
  | 0 => 0
  | k + 1 => if bitN x k then 0 else 1 + leadZeros k x

/-- VBITS: sub 0 population count, 1 leading zeros, of each element of a; others are reserved. -/
def execVbits (a : At) (f : VFmt) (s : State) : Host.Outcome State Fault Refusal :=
  go (vecNext a f s (fun c s =>
    let t := vtypeD f
    vecWrite c s f (vfieldsOk f false && vsrcOk c f t.regs true false false && decide (f.sub.toNat < 2)) t.regs
      (fun l => packElems t.bits t.elems (fun i =>
        let x := elem t.bits i (opA c f t l)
        if f.sub = 0 then popCount t.valBits x else leadZeros t.valBits x))))

end Sys2Proof.Machine
end

