-- ==== Sys2Proof/Machine/Collective.lean ====
section
/-!
DEFINITION. The collective instructions SHFL, VOTE, BCAST, REDUCE and SCAN (R132, R133). -/

namespace Sys2Proof.Machine

/-- The type a legal format L instruction names. -/
def ltypeD (f : LFmt) : VType := (vtype f.type.toNat).getD ⟨1, 32, 1, .uint⟩

/-- A collective instruction: n registers of va are read and k registers of vd written in every thread of pm; val takes the
mask and the lane. -/
def collective (a : At) (f : LFmt) (legal : Bool) (n k : Nat) (s : State)
    (val : Issue → Word → State → Nat → Nat) : State :=
  rakeWide a f.gd f.pm f.sbase 0
    (fun c => legal && (vtype f.type.toNat).isSome && c.rake.regOk f.va.toNat n && c.rake.regOk f.vd.toNat k) s
    (fun c m s => .ok (c.put s ((lanesOf m).foldl (fun r t => r.setWide f.vd.toNat k t (val c m s t)) c.rake)))

/-- va of a source lane; zero outside the lanes or pm. -/
def srcLane (c : Issue) (f : LFmt) (n : Nat) (m : Word) (i : Int) : Nat :=
  if 0 ≤ i ∧ i < 32 ∧ lane m i.toNat then c.rake.wide f.va.toNat n i.toNat else 0

/-- The source lane of a SHFL: index, up, down, xor. -/
def shflSource (sub n t : Nat) : Int :=
  match sub with
  | 0 => n
  | 1 => (t : Int) - n
  | 2 => t + n
  | _ => ((t ^^^ n : Nat) : Int)

def execShfl (a : At) (f : LFmt) (s : State) : Host.Outcome State Fault Refusal :=
  go (collective a f (decide (f.sub.toNat < 4)) (ltypeD f).regs (ltypeD f).regs s (fun c m _ t =>
    srcLane c f (ltypeD f).regs m (shflSource f.sub.toNat (f.imm10.toNat % 32) t)))

/-- VOTE: all, any, or the ballot of the threads whose va is not zero. -/
def execVote (a : At) (f : LFmt) (s : State) : Host.Outcome State Fault Refusal :=
  go (collective a f (decide (f.sub.toNat < 3)) (ltypeD f).regs 1 s (fun c m _ _ =>
    let yes := maskOf (fun t => lane m t && decide (c.rake.wide f.va.toNat (ltypeD f).regs t ≠ 0))
    if f.sub = 0 then boolN (yes == m) else if f.sub = 1 then boolN (yes != 0) else yes.toNat))

def execBcast (a : At) (f : LFmt) (s : State) : Host.Outcome State Fault Refusal :=
  go (collective a f (decide (f.sub = 0)) (ltypeD f).regs (ltypeD f).regs s (fun c m _ _ =>
    srcLane c f (ltypeD f).regs m (f.imm10.toNat % 32)))

/-- The members of a mask, by lane: none where the lane is absent. -/
def members (c : Issue) (reg n : Nat) (m : Word) : List (Option Nat) :=
  laneList.map (fun t => if lane m t then some (c.rake.wide reg n t) else none)

/-- One level of the tree: neighbours combine, an absent member passes the other through. -/
def treeLevel (op : Nat → Nat → Nat) (xs : List (Option Nat)) : List (Option Nat) :=
  match xs with
  | x :: y :: r =>
    (match x, y with
      | some a, some b => some (op a b)
      | some a, none => some a
      | none, z => z) :: treeLevel op r
  | xs => xs

/-- The fixed binary tree over 32 lanes (R133). -/
def treeOf (op : Nat → Nat → Nat) (xs : List (Option Nat)) : Option Nat := ((iter (treeLevel op) 5 xs).headD none)

/-- How two values of a reduction combine: 0 add, 1 min, 2 max, 3 and, 4 or, 5 xor, 6 RAW96 add. -/
def reduceOp (s : State) (t : VType) (code x y : Nat) : Nat :=
  match code with
  | 6 => raw96Add x y
  | 3 => x &&& y
  | 4 => x ||| y
  | 5 => x ^^^ y
  | k =>
    packElems t.bits t.elems (fun i =>
      arithElem (if k = 1 then .min else if k = 2 then .max else .add) t.kind t.bits .rne false (s.laneDraw 0 i)
        (elem t.bits i x) (elem t.bits i y) 0)

/-- A sum of packed floats has no stated order, so it is a free value (entry 16); FP32 takes the tree of R133. -/
def reduceAll (s : State) (t : VType) (code i : Nat) (xs : List (Option Nat)) : Nat :=
  match t.kind with
  | .flt g => if code = 0 ∧ g ≠ fp32 ∧ 1 < (xs.filterMap id).length then s.laneDraw i 7 % 2 ^ t.width
    else (treeOf (reduceOp s t code) xs).getD 0
  | _ => (treeOf (reduceOp s t code) xs).getD 0

/-- The type of a REDUCE: RAW96 for sub 6 (R133). -/
def reduceType (f : LFmt) : VType := if f.sub = 6 then rawType else ltypeD f

def execReduce (a : At) (f : LFmt) (s : State) : Host.Outcome State Fault Refusal :=
  go (collective a f (decide (f.sub.toNat < 7)) (reduceType f).regs (reduceType f).regs s (fun c m s _ =>
    reduceAll s (reduceType f) f.sub.toNat 0 (members c f.va.toNat (reduceType f).regs m)))

/-- SCAN: the reduction over the threads of pm at or below the lane, or below it. -/
def execScan (a : At) (f : LFmt) (s : State) : Host.Outcome State Fault Refusal :=
  go (collective a f (decide (f.sub.toNat < 3)) (ltypeD f).regs (ltypeD f).regs s (fun c m s t =>
    let below := maskOf (fun u => lane m u && decide (if f.sub = 1 then u < t else u ≤ t))
    reduceAll s (ltypeD f) (if f.sub = 2 then 2 else 0) t (members c f.va.toNat (ltypeD f).regs below)))

end Sys2Proof.Machine
end

