-- ==== Sys2Proof/Machine/Grain.lean ====
section
/-!
DEFINITION. Grains: seeds, segments and jumps (R150 to R153), the grain instructions (R158 to R160), sampling (R162, R163)
and the states set at a pan reset (R157). -/

namespace Sys2Proof.Machine

/-! ### Keyed states -/

/-- splitmix64 (R150): the running counter and the output. -/
def splitmix64 (x : Dword) : Dword × Dword :=
  let x := x + 0x9E3779B97F4A7C15
  let z := (x ^^^ (x >>> 30)) * 0xBF58476D1CE4E5B9
  let z := (z ^^^ (z >>> 27)) * 0x94D049BB133111EB
  (x, z ^^^ (z >>> 31))

/-- B(seed) (R150). -/
def grainBase (seed : Dword) : BitVec 128 :=
  let a := splitmix64 seed
  let b := splitmix64 a.1
  b.2 ++ a.2

/-- The characteristic polynomial of the step T of R148 over GF(2), bit i the coefficient of x^i. -/
def grainPoly : Nat := 0x100FC65A2006254B11B489DB6DE18FC01

/-- The polynomial JUMP of R151, x^(2^64) modulo the characteristic polynomial. -/
def jumpPoly : Nat := 0x77F2DB5B6FA035C3F542D2D38764000B

/-- Product modulo the characteristic polynomial, by the bits of b from bit n − 1 down. -/
def polyMul (a b n r : Nat) : Nat :=
  match n with
  | 0 => r
  | k + 1 =>
    let r2 := 2 * r
    let r3 := if r2 < 2 ^ 128 then r2 else r2 ^^^ grainPoly
    polyMul a b k (if bitN b k then r3 ^^^ a else r3)

/-- a^g by the bits of g from bit n − 1 down. -/
def polyPow (a g n r : Nat) : Nat :=
  match n with
  | 0 => r
  | k + 1 =>
    let r2 := polyMul r r 128 0
    polyPow a g k (if bitN g k then polyMul r2 a 128 0 else r2)

/-- The jump of R151 by a polynomial: the sum of the states whose step count is an exponent of it. -/
def jumpBy (c : Nat) (n : Nat) (st acc : BitVec 128) : BitVec 128 :=
  match n with
  | 0 => acc
  | k + 1 => jumpBy (c / 2) k (grainStep st).2 (if c % 2 = 1 then acc ^^^ st else acc)

/-- T^(g × 2^64) · x (R152). -/
def segment (x : BitVec 128) (g : Nat) : BitVec 128 := jumpBy (polyPow jumpPoly g 64 1) 128 x 0

/-- The segment index of a key (R152). -/
def segmentIndex (stream block lane : Nat) : Nat := stream % 2 ^ 16 * 2 ^ 48 + block % 2 ^ 43 * 2 ^ 5 + lane % 32

/-- The keyed state of a seed, stream, block and lane. -/
def keyedState (seed : Dword) (stream block lane : Nat) : BitVec 128 :=
  segment (grainBase seed) (segmentIndex stream block lane)

/-- The n keyed states from a state on, each one M_0 beyond the last (R153). -/
def laneStates (st : BitVec 128) (n : Nat) : List (BitVec 128) :=
  match n with
  | 0 => []
  | k + 1 => st :: laneStates (jumpBy jumpPoly 128 st 0) k

/-- The 32 keyed states of a rake. -/
def keyedRake (seed : Dword) (stream block : Nat) : List (BitVec 128) := laneStates (keyedState seed stream block 0) 32

def Rake.setLanes (r : Rake) (xs : List (BitVec 128)) : Rake := { r with lanes := tputs 0 r.lanes 0 xs }

/-! ### Pan reset and reseeding (R157) -/

/-- Lane states and drain bank of one bed from the pan's free seed. -/
def reseedBed (s : State) (p b : Nat) : State :=
  let seed := (s.pan p).freeSeed
  let s1 := (List.range 48).foldl (fun s r => s.updRake p b r (fun k => k.setLanes (keyedRake seed 0xFFFF (b * 48 + r)))) s
  s1.updBed p b (fun d => { d with
    drainBank := tputs 0 [] 0 (laneStates (keyedState seed 0xFFFF (768 + b) 0) 16) })

/-- R157 on every bed of a pan. -/
def reseedPan (s : State) (p : Nat) : State := (List.range 16).foldl (fun s b => reseedBed s p b) s

/-! ### GRAIN.KEY (R158) -/

/-- GRAIN.KEY with sub 0: every lane state of the rake becomes its keyed state and the lane key is recorded. -/
def execGrainKeyLane (a : At) (f : RFmt) (s : State) : Host.Outcome State Fault Refusal :=
  go (rakeWide a f.gd f.pm f.sbase 3 (fun _ => true) s (fun c _ s =>
    let seed := BitVec.ofNat 64 (c.sop f.sbase 0)
    let stream := c.sop f.sbase 1 % 2 ^ 16
    let block := c.sop f.sbase 2 % 2 ^ 43
    let r := { (c.rake.setLanes (keyedRake seed stream block)) with
      laneKey := { seed := seed, stream := BitVec.ofNat 16 stream, block := block } }
    .ok ((c.put s r).updPan a.pan (fun p => { p with grainKeys := satAdd 32 p.grainKeys 1 }))))

/-- GRAIN.KEY with sub 1: the rake's drain key. -/
def execGrainKeyDrain (a : At) (f : RFmt) (s : State) : Host.Outcome State Fault Refusal :=
  go (rakeWide a f.gd f.pm f.sbase 2 (fun _ => true) s (fun c _ s =>
    .ok (c.put s { c.rake with
      drainKey := some { seed := BitVec.ofNat 64 (c.sop f.sbase 0), stream := BitVec.ofNat 16 (c.sop f.sbase 1) } })))

/-! ### GRAIN.DRAW and DROPMASK (R159, R160) -/

/-- ((x >> 8) + 0.5) × 2^−24 in FP32 under a rounding, kept below 1 as R159 and R163 say (entry 19). -/
def openUnit (rnd : Rnd) (x : Nat) : Nat := min (fp32.encodeFin rnd false false (2 * (x / 256) + 1) (-25)) 0x3F7FFFFF

/-- The result of a GRAIN.DRAW of one word; rnd is format V's (R116). -/
def drawResult (sub : Nat) (rnd : Rnd) (x : Nat) : Nat :=
  match sub with
  | 0 => x
  | 1 => toF32 (.fin false (x / 256) (-24))
  | _ => openUnit rnd x

/-- The legal combinations of sub and type. -/
def drawLegal (f : VFmt) : Bool :=
  match f.sub.toNat with
  | 0 => decide (f.type = 1)
  | 1 => decide (f.type = 4)
  | 2 => decide (f.type = 4)
  | 3 => decide (f.type = 3)
  | _ => false

def execGrainDraw (a : At) (f : VFmt) (s : State) : Host.Outcome State Fault Refusal :=
  go (vecNext a f s (fun c s =>
    let m := c.guarded f.gd
    let two := f.sub = 3
    let r1 := c.rake.drawAll m
    let c2 : Issue := { c with rake := if two then r1.drawAll m else r1 }
    vecWrite c2 s f (vfieldsOk f false && drawLegal f) (if two then 2 else 1) (fun l =>
      let x := (c.rake.drawLane l).1.toNat
      if two then x + 2 ^ 32 * (r1.drawLane l).1.toNat else drawResult f.sub.toNat (vrnd f) x)))

/-- DROPMASK: keep = (x ≥ b); pd receives keep with pw = 1, vd receives va × vc or +0. -/
def execDropmask (a : At) (f : VFmt) (s : State) : Host.Outcome State Fault Refusal :=
  go (vecNext a f s (fun c s =>
    let m := c.guarded f.gd
    let keep (l : Nat) : Bool := decide ((opB c f fp32Type l) ≤ (c.rake.drawLane l).1.toNat)
    let old := c.rake.pget f.pd.toNat
    let r1 := c.rake.drawAll m
    let r2 := if f.pw = 1 then r1.pset f.pd.toNat (maskOf (fun l => if lane m l then keep l else lane old l)) else r1
    vecWrite { c with rake := r2 } s f (vfieldsOk f false && decide (f.type = 4) && vsrcOk c f 1 true true true) 1
      (fun l =>
        if keep l then arithFlt .mul fp32 .rne (f.sat = 1) (s.laneDraw l 0) (opA c f fp32Type l) (opC c s f fp32Type l) 0
        else 0)))

/-! ### SAMPLE (R162, R163) -/

/-- A candidate: its logit's bits and its index. -/
structure Cand where
  bits : Nat
  idx : Nat
  deriving DecidableEq, Repr

/-- Candidates ranked so far, highest first, with one more; equal logits rank by lower index, and indices arrive rising. -/
def rankIn (k : Nat) (xs : List Cand) (x : Cand) : List Cand :=
  match k with
  | 0 => []
  | n + 1 =>
    match xs with
    | [] => [x]
    | y :: r => if (f32 y.bits).lt (f32 x.bits) then x :: (y :: r).take n else y :: rankIn n r x

/-- −infinity as FP32 bits; a NaN logit counts as it. -/
def negInf : Nat := 0xFF800000
def posInf : Nat := 0x7F800000

def cleanLogit (b : Nat) : Nat := if (f32 b).isNan then negInf else b

/-- 2^x of an FP32 value under RNE; 2^(−infinity) is +0. -/
def exp2F32 (x : Nat) : Nat :=
  match f32 x with
  | .fin n m e => toF32 (exp2Fin n m e)
  | .inf true => 0
  | .inf false => posInf
  | .nan => fp32.nanBits

/-- ln of an FP32 value under RNE. -/
def lnF32 (x : Nat) : Nat :=
  match f32 x with
  | .fin n m e => if m = 0 then negInf else if n then fp32.nanBits else toF32 (lnFin m e)
  | .inf false => posInf
  | _ => fp32.nanBits

def negF32 (x : Nat) : Nat := x ^^^ 2 ^ 31

/-- FP32 of log2 e. -/
def log2eF32 : Nat := 0x3FB8AA3B

/-- The weight of a rank (step 5). -/
def sampleWeight (y0 y : Nat) : Nat := exp2F32 (mulF32 (subF32 y y0) log2eF32)

/-- The running sums of the weights. -/
def runSums (acc : Nat) (ws : List Nat) : List Nat :=
  match ws with
  | [] => []
  | w :: r => addF32 acc w :: runSums (addF32 acc w) r

/-- g_r of a word (step 6). -/
def gumbel (x : Nat) : Nat := negF32 (lnF32 (negF32 (lnF32 (openUnit .rne x))))

/-- The word of a rank: lane r mod 32, draw position r / 32. -/
def rankWord (lanes : List (BitVec 128)) (r : Nat) : Nat :=
  (grainStep (iter (fun st => (grainStep st).2) (r / 32) (lanes.getD (r % 32) 0))).1.toNat

/-- The index of the greatest value, the lower rank on ties. -/
def argmax (best : Nat × Nat) (xs : List (Nat × Nat)) : Nat :=
  match xs with
  | [] => best.2
  | x :: r => if (f32 best.1).lt (f32 x.1) then argmax x r else argmax best r

/-- Steps 1 to 7 of R163 on the logits: the chosen index, and whether the SAMPLE is not greedy, so that it holds the jump unit
(R164). -/
def sampleOf (logits : List Nat) (tau k topP : Nat) (seed : Dword) (stream pos : Nat) : Nat × Bool :=
  let kk := if k = 0 ∨ 256 < k then 256 else k
  let cands := ((List.range logits.length).zip logits).map (fun e => ({ bits := cleanLogit e.2, idx := e.1 } : Cand))
  let kept := cands.foldl (rankIn kk) []
  if kept.all (fun c => c.bits = negInf) then (0xFFFFFFFF, (Fl.fin false 0 0).lt (f32 tau))
  else
    let top := (kept.headD ⟨0, 0⟩).idx
    if !(Fl.fin false 0 0).lt (f32 tau) then (top, false)
    else
      let ys := kept.map (fun c => if (f32 c.bits).isInf then c.bits else divF32 c.bits tau)
      let y0 := ys.headD 0
      let lanes := keyedRake seed stream pos
      if y0 = posInf then
        let n := (ys.filter (fun y => y = posInf)).length
        let zs := (List.range n).map (fun r => (gumbel (rankWord lanes r), ((kept.getD r ⟨0, 0⟩).idx)))
        (argmax (zs.headD (0, 0)) (zs.drop 1), true)
      else
        let sums := runSums 0 (ys.map (sampleWeight y0))
        let tp := f32 topP
        let top1 := if (Fl.fin false 0 0).lt tp && !(Fl.fin false 1 0).lt tp then topP else 0x3F800000
        let thr := f32 (mulF32 top1 (sums.getLastD 0))
        let cut := (findIdxD (fun x => !(f32 x).lt thr) sums 0).getD (sums.length - 1)
        let zs := (List.range (cut + 1)).map (fun r =>
          (addF32 (ys.getD r 0) (gumbel (rankWord lanes r)), (kept.getD r ⟨0, 0⟩).idx))
        (argmax (zs.headD (0, 0)) (zs.drop 1), true)

/-- Bytes of bed scratch. -/
def Bed.scratchBytes (d : Bed) (off n : Nat) : List Byte := tgets 0 d.scratch off n
def Bed.scratchNat (d : Bed) (off n : Nat) : Nat := leNat (d.scratchBytes off n)

/-- Size of a bed's scratch (R16). -/
def scratchSize : Nat := 4 * mib

/-- Some word of a scratch range is in error (R485). -/
def Bed.scratchErr (d : Bed) (off n : Nat) : Bool :=
  d.scratchBad.any (fun w => decide (off < w * 8 + 8) && decide (w * 8 < off + n))

/-- Writes bytes of bed scratch; a word written whole is no longer in error (R485). -/
def Bed.poke (d : Bed) (off : Nat) (bs : List Byte) : Bed :=
  { d with scratch := tputs 0 d.scratch off bs,
           kept := cutKept d.kept off bs.length,
           scratchBad := d.scratchBad.filter (fun w => !(decide (off ≤ w * 8) && decide (w * 8 + 8 ≤ off + bs.length))) }

/-- The logits of a SAMPLE as FP32 bits: FP32 words, or BF16 halves packed two per word. -/
def logitsOf (d : Bed) (addr v : Nat) (bf : Bool) : List Nat :=
  if bf then (List.range v).map (fun i => d.scratchNat (addr + 2 * i) 2 * 65536)
  else (List.range v).map (fun i => d.scratchNat (addr + 4 * i) 4)

def execSample (a : At) (f : LFmt) (s : State) : Host.Outcome State Fault Refusal :=
  go (rakeWide a f.gd f.pm f.sbase 8
    (fun c => decide (f.sub = 0) && (decide (f.type = 4) || decide (f.type = 5)) && c.rake.regOk f.vd.toNat 1) s
    (fun c m s =>
      let d := (s.bed a.pan a.bed).seen (c.viewer ((lanesOf m).headD 0)) (s.missBit 32)
      let addr := c.sop f.sbase 0
      let v := min (c.sop f.sbase 1) (2 ^ 20)
      let bf := f.type = 5
      let n := if bf then 2 * v else 4 * v
      if v ≠ 0 ∧ (addr % 4 ≠ 0 ∨ scratchSize < addr + n) then .error { code := fMisaligned, addr := addr }
      else if v ≠ 0 ∧ d.scratchErr addr n then .error { code := fData, addr := addr }
      else
        let r := sampleOf (logitsOf d addr v bf) (c.sop f.sbase 2 % 2 ^ 32) (c.sop f.sbase 3) (c.sop f.sbase 4 % 2 ^ 32)
            (BitVec.ofNat 64 (c.sop f.sbase 5)) (c.sop f.sbase 6 % 2 ^ 16) (c.sop f.sbase 7 % 2 ^ 43)
        let r1 := (lanesOf m).foldl (fun k t => k.vset f.vd.toNat t (BitVec.ofNat 32 r.1)) c.rake
        let s1 := c.put s r1
        .ok (if r.2 then s1.updPan a.pan (fun p => { p with grainKeys := satAdd 32 p.grainKeys 1 }) else s1)))

end Sys2Proof.Machine
end

