-- ==== Sys2Proof/Machine/Matrix.lean ====
section
/-!
DEFINITION. The matrix instructions MMA, MMA.DRAIN, MMA.LOAD and MMA.STAT (R70 to R87, R92 to R104, R165): what issue checks, the
hazards between queued ones (R90), and what the matrix engine does when it takes one (R81, R89). -/

namespace Sys2Proof.Machine

/-! ### Formats and shapes -/

/-- What a format code of R73 stands for. -/
inductive MFmt8 where
  | plain (f : FFmt)
  | mx (f : FFmt)
  | half (f : FFmt)
  | int8
  deriving DecidableEq, Repr

/-- The formats of R73; none where the code is reserved. -/
def matFmt (code : Nat) : Option MFmt8 :=
  match code with
  | 0 => some (.plain e4m3)
  | 1 => some (.plain e5m2)
  | 2 => some (.mx e4m3)
  | 3 => some (.mx e5m2)
  | 4 => some (.mx e3m2)
  | 5 => some (.mx e2m3)
  | 6 => some (.mx e2m1)
  | 8 => some (.half bf16)
  | 9 => some (.half fp16)
  | 10 => some .int8
  | _ => none

def ffmtBits (f : FFmt) : Nat := 1 + f.ex + f.man

def MFmt8.bits (m : MFmt8) : Nat :=
  match m with
  | .plain f => ffmtBits f
  | .mx f => ffmtBits f
  | .half f => ffmtBits f
  | .int8 => 8

def MFmt8.isMx (m : MFmt8) : Bool :=
  match m with
  | .mx _ => true
  | _ => false

/-- The pairs of R74. -/
def pairOk (a b : MFmt8) (exact : Bool) : Bool :=
  match a, b with
  | .plain _, .plain _ => true
  | .mx _, .mx _ => true
  | .half f, .half g => decide (f = g) && !exact
  | .int8, .int8 => !exact
  | _, _ => false

/-- Tile K (R75, R76). -/
def tileK (a b : MFmt8) : Nat :=
  match a, b with
  | .half _, _ => 16
  | .mx f, .mx g => if ffmtBits f = 4 ∧ ffmtBits g = 4 then 64 else 32
  | _, _ => 32

/-- Tile M and N of a shape (R76). -/
def tileM (shape : Nat) : Nat := if shape = 0 then 128 else if shape = 1 then 32 else 16
def tileN (shape : Nat) : Nat := if shape = 0 then 128 else if shape = 1 then 512 else 1024

/-! ### Fields of format X (R121) -/

def xf (f : XFmt) (lo len : Nat) : Nat := fld f.body.toNat lo len
def xShape (f : XFmt) : Nat := xf f 40 2
def xFa (f : XFmt) : Nat := xf f 36 4
def xFb (f : XFmt) : Nat := xf f 32 4
/-- acc of MMA, rnd of MMA.DRAIN, add of MMA.LOAD. -/
def xBit31 (f : XFmt) : Bool := bitN f.body.toNat 31
def xSlot (f : XFmt) : Nat := xf f 28 3
/-- init of MMA, sat of MMA.DRAIN. -/
def xBit27 (f : XFmt) : Bool := bitN f.body.toNat 27
/-- hold of MMA, free of MMA.DRAIN. -/
def xBit26 (f : XFmt) : Bool := bitN f.body.toNat 26
def xBsrc (f : XFmt) : Bool := bitN f.body.toNat 25
def xRows (f : XFmt) : Nat := xf f 18 7 + 1
def xSd (f : XFmt) : Nat := xf f 12 6

/-! ### Slots (R71) -/

def Bed.slot (d : Bed) (i : Nat) : AccSlot := tget {} d.slots i
def Bed.setSlot (d : Bed) (i : Nat) (x : AccSlot) : Bed := { d with slots := tput {} d.slots i x }

/-- Slots a tile of a kind at s occupies. -/
def tileSlots (k : SlotKind) (s : Nat) : List Nat := if k = .exact then [s, s + 1, s + 2] else [s]

/-- Ends every exact tile that occupies one of the slots: all three of its slots become empty (R71). -/
def Bed.endTiles (d : Bed) (ss : List Nat) : Bed :=
  ss.foldl (fun d i =>
    let x := d.slot i
    if x.kind = .exact then [x.base, x.base + 1, x.base + 2].foldl (fun d j => d.setSlot j {}) d
    else d.setSlot i {}) d

/-- A tile formed at s (R71, R80, R84). -/
def Bed.form (d : Bed) (s : Nat) (x : AccSlot) : Bed :=
  let ss := tileSlots x.kind s
  let d1 := d.endTiles ss
  ss.foldl (fun d i => d.setSlot i
    (if i = s then { x with base := s } else { kind := x.kind, shape := x.shape, base := s, anchor := x.anchor })) d1

/-- The tile at s replaced by one of the same kind. -/
def Bed.putTile (d : Bed) (s : Nat) (x : AccSlot) : Bed := d.setSlot s x

/-- The slot named s addresses a tile of the kind: an exact tile only by its first slot. -/
def slotIs (x : AccSlot) (k : SlotKind) (s : Nat) : Bool :=
  decide (x.kind = k) && (decide (k ≠ .exact) || decide (x.base = s))

/-- An anchor or origin field read as a signed number of 10 bits (R80). -/
def anchorOf (v : Nat) : Int := sext 10 v

/-! ### Operand bytes (R87) -/

/-- Element k of a packed slice of n-bit elements, a little-endian bit stream. -/
def sliceElem (bytes : List Byte) (n k : Nat) : Nat := fld (leNat ((bytes.drop (k * n / 8)).take 3)) (k * n % 8) n

/-- The value of an element. -/
def elemFl (m : MFmt8) (bits : Nat) : Fl :=
  match m with
  | .plain f => f.decode bits
  | .mx f => f.decode bits
  | .half f => f.decode bits
  | .int8 => Fl.ofInt (sext 8 bits)

/-- A held or fetched operand: element bits by n × 64 + k, scale bytes by n × 2 + block. -/
def opElem (t : Table Half) (n k : Nat) : Nat := (tget 0 t (n * 64 + k)).toNat
def opScale (t : Table Byte) (n b : Nat) : Nat := (tget 0 t (n * 2 + b)).toNat

/-- A table of the non-zero values of a function on 0 to n − 1. -/
def tabulate {w : Nat} (n : Nat) (f : Nat → BitVec w) : Table (BitVec w) :=
  (List.range n).filterMap (fun i => let v := f i; if v = 0 then none else some (i, v))

/-- Element table of an operand of n rows or columns whose bytes src gives. -/
def elemTable (n k bits : Nat) (src : Nat → List Byte) : Table Half :=
  tabulate (n * 64) (fun i => if i % 64 < k then BitVec.ofNat 16 (sliceElem (src (i / 64)) bits (i % 64)) else 0)

def scaleTable (n blocks : Nat) (src : Nat → Byte) : Table Byte :=
  tabulate (n * 2) (fun i => if i % 2 < blocks then src (i / 2 * blocks + i % 2) else 0)

/-! ### Accumulation -/

/-- The exact sum of a list of exact values; a zero sum is +0 (R92). -/
def sumFl (xs : List Fl) : Fl :=
  let r := xs.foldl Fl.add (.fin false 0 0)
  match r with
  | .fin _ 0 e => .fin false 0 e
  | x => x

/-- The products of one output's group of K from k0 on, n of them. -/
def products (fa fb : MFmt8) (ea eb : Nat → Nat) (k0 n : Nat) : List Fl :=
  (List.range n).map (fun j => (elemFl fa (ea (k0 + j))).mul (elemFl fb (eb (k0 + j))))

/-- Block sum of an MX pair with its scales (R92, R94): NaN where a scale is 0xFF. -/
def blockValue (sa sb : Nat) (ps : List Fl) : Fl :=
  if sa = 255 ∨ sb = 255 then .nan
  else
    match sumFl ps with
    | .fin n m e => .fin n m (e + Int.ofNat sa + Int.ofNat sb - 254)
    | x => x

/-- One output's contributions, in ascending k: blocks of an MX pair, single products otherwise. -/
def contributions (fa fb : MFmt8) (k : Nat) (ea eb sa sb : Nat → Nat) : List Fl :=
  if fa.isMx then (List.range (k / 32)).map (fun b => blockValue (sa b) (sb b) (products fa fb ea eb (32 * b) 32))
  else products fa fb ea eb 0 k

/-- Fast mode (R92): an MX block is rounded to FP32 first; every addition is binary32 under RNE. -/
def fastAcc (mx : Bool) (acc : Nat) (cs : List Fl) : Nat :=
  cs.foldl (fun a c => if mx then addF32 a (toF32 c) else toF32 ((f32 a).add c)) acc

/-- Integer mode (R74): modulo 2^32. -/
def intAcc (acc : Nat) (cs : List Fl) : Nat :=
  cs.foldl (fun a c => match c with
    | .fin n m e => wrapN 32 (Int.ofNat a + roundInt .rne n m e)
    | _ => a) acc

/-- An exact accumulator: value, tag, and whether a contribution was rounded or clamped. -/
structure ExactAcc where
  val : Nat
  tag : Nat
  inexact : Bool
  range : Bool
  deriving DecidableEq, Repr

/-- One contribution on the grid 2^q (R94, R98). -/
def exactStep (q : Int) (a : ExactAcc) (c : Fl) : ExactAcc :=
  match c with
  | .nan => { a with tag := tagAdd a.tag 3 }
  | .inf n => { a with tag := tagAdd a.tag (if n then 2 else 1) }
  | .fin n m e =>
    let h := e - q
    let i := roundInt .rne n m h
    let lost := decide (h < 0) && decide (m % 2 ^ (-h).toNat ≠ 0)
    let big := decide (2 ^ 75 ≤ i.natAbs)
    let j : Int := if big then (if n then -(2 ^ 75 - 1) else 2 ^ 75 - 1) else i
    { val := wrapN 96 (Int.ofNat a.val + j), tag := a.tag, inexact := a.inexact || lost, range := a.range || big }

/-! ### MMA (R80 to R82) -/

/-- The reserved codes and pairs of an MMA (R71, R74, R76, R121). -/
def mmaLegal (f : XFmt) : Bool :=
  match matFmt (xFa f), matFmt (xFb f) with
  | some fa, some fb =>
    pairOk fa fb (xBit31 f) && decide (xShape f < 3) && decide (xRows f ≤ tileM (xShape f))
      && (!xBit31 f || decide (xSlot f < 6))
  | _, _ => false

def mmaKind (f : XFmt) : SlotKind := if xBit31 f then .exact else if xFa f = 10 then .integer else .fast

/-- Rows of bytes in bed scratch: n rows of len bytes at base + i × stride. -/
structure Span where
  base : Nat
  stride : Nat
  n : Nat
  len : Nat
  deriving DecidableEq, Repr

/-- The first row that is not aligned to align or has a byte at or beyond 4 MiB, by its address; a span of no bytes has none
(R87). -/
def Span.bad (x : Span) (align : Nat) : Option Nat :=
  if x.n = 0 ∨ x.len = 0 then none
  else if x.base % align ≠ 0 ∨ scratchSize < x.base + x.len then some x.base
  else if x.stride = 0 ∨ x.n = 1 then none
  else
    let far := (scratchSize - x.len - x.base) / x.stride + 1
    let i := if x.stride % align ≠ 0 then 1 else far
    if i < x.n then some (x.base + i * x.stride) else none

/-- The span has a byte among n bytes from lo. -/
def Span.meets (x : Span) (lo n : Nat) : Bool :=
  if x.n = 0 ∨ x.len = 0 ∨ n = 0 then false
  else if x.stride = 0 then decide (x.base < lo + n) && decide (lo < x.base + x.len)
  else
    let i := if lo < x.base + x.len then 0 else (lo - x.base - x.len) / x.stride + 1
    decide (i < x.n) && decide (x.base + i * x.stride < lo + n)

/-- Two spans have a byte in common. -/
def Span.hits (x y : Span) : Bool := (List.range x.n).any (fun i => y.meets (x.base + i * x.stride) x.len)

/-- The first byte of the span's first row that lies in a word in error. -/
def Span.error (x : Span) (d : Bed) : Option Nat :=
  (List.range x.n).findSome? (fun i =>
    let lo := x.base + i * x.stride
    (d.scratchBad.filter (fun w => decide (lo < w * 8 + 8) && decide (w * 8 < lo + x.len))).foldl
      (fun (m : Option Nat) w => some (min (m.getD (lo + x.len)) (max lo (w * 8)))) none)

/-- The operands of an MMA as its scalar operands give them. -/
structure MmaArgs where
  fa : MFmt8
  fb : MFmt8
  k : Nat
  m : Nat
  n : Nat
  rows : Nat
  aAddr : Nat
  aStride : Nat
  asAddr : Nat
  bAddr : Nat
  bStride : Nat
  bsAddr : Nat
  anchor : Int

def MmaArgs.aLen (x : MmaArgs) : Nat := x.k * x.fa.bits / 8
def MmaArgs.bLen (x : MmaArgs) : Nat := x.k * x.fb.bits / 8
def MmaArgs.blocks (x : MmaArgs) : Nat := if x.fa.isMx then x.k / 32 else 0

/-- The operands that eight scalar values op give. -/
def mmaArgs (op : Nat → Nat) (f : XFmt) : MmaArgs :=
  let fa := (matFmt (xFa f)).getD .int8
  let fb := (matFmt (xFb f)).getD .int8
  { fa := fa, fb := fb, k := tileK fa fb, m := tileM (xShape f), n := tileN (xShape f), rows := xRows f,
    aAddr := op 0, aStride := op 1, asAddr := op 2, bAddr := op 3, bStride := op 4, bsAddr := op 5,
    anchor := anchorOf (op 6) }

/-- What an MMA reads of bed scratch, with the alignment of each: A, its scales, and B and its scales where they come from there
(R87). -/
def mmaReads (f : XFmt) (x : MmaArgs) : List (Span × Nat) :=
  [(⟨x.aAddr, x.aStride, x.rows, x.aLen⟩, x.aLen), (⟨x.asAddr, x.blocks, x.rows, x.blocks⟩, 1)]
    ++ (if xBit26 f || xBsrc f then []
        else [(⟨x.bAddr, x.bStride, x.n, x.bLen⟩, x.bLen), (⟨x.bsAddr, x.blocks, x.n, x.blocks⟩, 1)])

/-- The address of the first of several spans that is misaligned or beyond the scratch; the order within an instruction is the
one of its operands (entry 109). -/
def firstMisaligned (xs : List (Span × Nat)) : Option Nat := xs.findSome? (fun x => x.1.bad x.2)

/-- The address of the first byte in error of several spans. -/
def firstError (d : Bed) (xs : List (Span × Nat)) : Option Nat := xs.findSome? (fun x => x.1.error d)

/-- A valid hold needs a preceding MMA of the kernel with the same shape and fb (R82). -/
def holdOk (d : Bed) (f : XFmt) : Bool :=
  match d.heldB with
  | some h => decide (h.shape = xShape f) && decide (h.fb = xFb f)
  | none => false

/-- The slots and the held operand allow the MMA (R78, R82). -/
def mmaFits (d : Bed) (f : XFmt) : Bool :=
  (!xBit26 f || holdOk d f)
    && (xBit27 f || (slotIs (d.slot (xSlot f)) (mmaKind f) (xSlot f) && decide ((d.slot (xSlot f)).shape = xShape f)))

/-- The B operand that an MMA takes from bytes src and scale bytes. -/
def bOperand (f : XFmt) (x : MmaArgs) (src : Nat → List Byte) (sc : Nat → Byte) : HeldB :=
  { shape := xShape f, fb := xFb f, k := x.k, elems := elemTable x.n x.k x.fb.bits src,
    scales := scaleTable x.n x.blocks sc }

/-- B from bed scratch. -/
def bScratch (d : Bed) (f : XFmt) (x : MmaArgs) : HeldB :=
  bOperand f x (fun n => d.scratchBytes (x.bAddr + n * x.bStride) x.bLen) (fun i => tget 0 d.scratch (x.bsAddr + i))

/-- B from the head of a flood queue's bytes: the columns with no gap, then the scales (R87, R180). -/
def bFlood (bs : List Byte) (f : XFmt) (x : MmaArgs) : HeldB :=
  bOperand f x (fun n => (bs.drop (n * x.bLen)).take x.bLen) (fun i => bs.getD (x.n * x.bLen + i) 0)

/-- Flood bytes an MMA takes. -/
def floodNeed (x : MmaArgs) : Nat := x.n * x.bLen + x.n * x.blocks

/-- Products counted: saturating (R85). -/
def countK (t : AccSlot) (k : Nat) : AccSlot :=
  { t with kCount := satAdd 32 t.kCount k, products := t.products + k,
           kOver := t.kOver || (decide (t.kind = .exact) && decide (2 ^ 20 < t.products + k)) }

/-- The held operand as an MMA of another K finds it. What the elements and scales that were not fed are, and which of two held
blocks serves, no rule states: they are free (entry 69). -/
def HeldB.elem (b : HeldB) (x : MmaArgs) (free : Nat → Nat) (n k : Nat) : Nat :=
  let off := if x.k < b.k then 32 * (free (2 * 65536) % 2) else 0
  if k + off < b.k then opElem b.elems n (k + off) else fld (free (n * 64 + k)) 0 x.fb.bits

def HeldB.scale (b : HeldB) (x : MmaArgs) (free : Nat → Nat) (n j : Nat) : Nat :=
  let off := if x.k < b.k then free (2 * 65536) % 2 else 0
  if 32 * (j + off) < b.k then opScale b.scales n (j + off) else free (65536 + n * 2 + j) % 256

/-- The tile after the product A × B is added (R81, R92, R94). -/
def mmaTile (d : Bed) (x : MmaArgs) (b : HeldB) (old : AccSlot) (free : Nat → Nat) : AccSlot :=
  let at_ := elemTable x.rows x.k x.fa.bits (fun m => d.scratchBytes (x.aAddr + m * x.aStride) x.aLen)
  let as_ := scaleTable x.rows x.blocks (fun i => tget 0 d.scratch (x.asAddr + i))
  let cs (i : Nat) : List Fl :=
    let m := i / x.n
    let n := i % x.n
    contributions x.fa x.fb x.k (opElem at_ m) (b.elem x free n)
      (fun j => if m < x.rows then opScale as_ m j else 127) (b.scale x free n)
  let out := countK old x.k
  match old.kind with
  | .exact =>
    let r (i : Nat) : ExactAcc := (cs i).foldl (exactStep old.anchor)
      { val := (tget 0 old.vals i).toNat, tag := (tget 0 old.tags i).toNat, inexact := false, range := false }
    let rs := (List.range 16384).map r
    { out with
      vals := tputs 0 [] 0 (rs.map (fun a => BitVec.ofNat 96 a.val))
      tags := tputs 0 [] 0 (rs.map (fun a => BitVec.ofNat 2 a.tag))
      inexact := old.inexact || rs.any ExactAcc.inexact
      range := old.range || rs.any ExactAcc.range }
  | .integer => { out with vals := tabulate 16384 (fun i => BitVec.ofNat 96 (intAcc (tget 0 old.vals i).toNat (cs i))) }
  | _ => { out with
      vals := tabulate 16384 (fun i => BitVec.ofNat 96 (fastAcc x.fa.isMx (tget 0 old.vals i).toNat (cs i))) }

/-- Takes n bytes from the head of a flood queue. -/
def Bed.takeFlood (d : Bed) (q n : Nat) : Bed :=
  let x := tget {} d.flood q
  { d with flood := tput {} d.flood q { x with buf := x.buf.drop n } }

/-- The MMA's product goes into its slot; seen is the bed as the MMA's reads find it. -/
def mmaInto (d seen : Bed) (f : XFmt) (x : MmaArgs) (b : HeldB) (free : Nat → Nat) : Bed :=
  let s := xSlot f
  let d1 := if xBit27 f then d.form s { kind := mmaKind f, shape := xShape f, anchor := if xBit31 f then x.anchor else 0 }
    else d
  { (d1.putTile s (mmaTile seen x b (d1.slot s) free)) with heldB := some b }

/-! ### What queued instructions do to the slots, and their hazards (R78, R82, R90) -/

/-- A scalar operand of a queued instruction. -/
def Work.sop (w : Work) (j : Nat) : Nat := w.ops.getD j 0

/-- The queued instruction as its issue. -/
def Work.issue (w : Work) (s : State) : Issue :=
  { a := w.at_, rake := s.rake w.at_.pan w.at_.bed w.at_.slot, active := w.active, pc := w.pc }

def loadKind (fi : Nat) : Option SlotKind :=
  match fi with
  | 7 => some .fast
  | 15 => some .exact
  | 11 => some .integer
  | _ => none

/-- Kinds, shapes and held operand of the bed once a queued instruction has executed. -/
def Work.outline (d : Bed) (w : Work) : Bed :=
  match w.op with
  | .mma f =>
    let x := mmaArgs w.sop f
    let d1 := if xBit27 f then
        d.form (xSlot f) { kind := mmaKind f, shape := xShape f, anchor := if xBit31 f then x.anchor else 0 }
      else d
    { d1 with heldB := some { shape := xShape f, fb := xFb f, k := x.k, elems := [], scales := [] } }
  | .mmaDrain f => if xBit26 f then d.endTiles (tileSlots (d.slot (xSlot f)).kind (xSlot f)) else d
  | .mmaLoad f =>
    let k := (loadKind (xFa f)).getD .fast
    if xBit31 f then d
    else d.form (xSlot f) { kind := k, shape := xShape f, anchor := if k = .exact then anchorOf (w.sop 2) else 0 }
  | _ => d

/-- The bed as the instruction issued next will find its slots and its held operand. -/
def Bed.ahead (d : Bed) : Bed := d.mq.foldl Work.outline d

/-- Bits of an output element of a code (R100): 0 where it is none. -/
def outBits (fo : Nat) : Nat :=
  match fo with
  | 7 => 32
  | 11 => 32
  | 15 => 128
  | k => match matFmt k with
    | some m => if k = 10 then 0 else m.bits
    | none => 0

def foIsMx (fo : Nat) : Bool := decide (2 ≤ fo) && decide (fo ≤ 6)

/-- What an MMA.DRAIN writes: its rows, and its scales (R87). -/
def drainWrites (op : Nat → Nat) (f : XFmt) : List (Span × Nat) :=
  [(⟨op 0, op 1, op 3, ceilDiv (outBits (xFa f) * op 4) 8⟩, 1)]
    ++ (if foIsMx (xFa f) then [(⟨op 2, op 4 / 32, op 3, op 4 / 32⟩, 1)] else [])

/-- Bytes of a loaded element. -/
def loadSize (f : XFmt) : Nat := if xFa f = 15 then 16 else 4

/-- What an MMA.LOAD reads. -/
def loadReads (op : Nat → Nat) (f : XFmt) : List (Span × Nat) :=
  [(⟨op 0, op 1, tileM (xShape f), loadSize f * tileN (xShape f)⟩, 1)]

def Work.reads (w : Work) : List (Span × Nat) :=
  match w.op with
  | .mma f => mmaReads f (mmaArgs w.sop f)
  | .mmaLoad f => loadReads w.sop f
  | _ => []

def Work.writes (w : Work) : List (Span × Nat) :=
  match w.op with
  | .mmaDrain f => drainWrites w.sop f
  | _ => []

/-- The slots of a tile at s of a kind, with those of every exact tile it would end. -/
def Bed.around (d : Bed) (k : SlotKind) (s : Nat) : List Nat :=
  (tileSlots k s).flatMap (fun i =>
    let x := d.slot i
    if x.kind = .exact then [i, x.base, x.base + 1, x.base + 2] else [i])

/-- The slots an instruction reads or changes. -/
def Work.slotsOf (d : Bed) (w : Work) : List Nat :=
  match w.op with
  | .mma f => d.around (mmaKind f) (xSlot f)
  | .mmaDrain f => d.around .fast (xSlot f)
  | .mmaLoad f => d.around ((loadKind (xFa f)).getD .fast) (xSlot f)
  | .mmaStat f => d.around .fast (xSlot f)
  | _ => []

/-- The unit of the matrix engine that an instruction holds: the array, the drain unit, the load port (R90). -/
def WorkOp.unit (o : WorkOp) : Option Nat :=
  match o with
  | .mma _ => some 0
  | .mmaDrain _ => some 1
  | .mmaLoad _ => some 2
  | _ => none

def spansHit (xs ys : List (Span × Nat)) : Bool := xs.any (fun x => ys.any (fun y => x.1.hits y.1))

/-- A later instruction has to wait for an earlier one: for its unit, a slot, or scratch bytes that one of them writes (R90). -/
def Work.hazard (d : Bed) (a b : Work) : Bool :=
  (a.op.unit.isSome && decide (a.op.unit = b.op.unit))
    || (a.slotsOf d).any (fun i => (b.slotsOf d).contains i)
    || spansHit a.writes (b.reads ++ b.writes) || spansHit a.reads b.writes

/-- Entry i of the matrix queue waits for no earlier one. -/
def Bed.goes (d : Bed) (i : Nat) : Bool :=
  match d.mq[i]? with
  | none => false
  | some w => (d.mq.take i).all (fun a => !a.hazard d w)

/-! ### MMA (R80 to R82, R89) -/

/-- What an MMA checks at issue, in the order of R141, against the slots as every queued instruction leaves them. -/
def mmaFault (d : Bed) (f : XFmt) (x : MmaArgs) : Option BedFault :=
  match firstMisaligned (mmaReads f x) with
  | some a => some { code := fMisaligned, addr := a }
  | none => if mmaFits d.ahead f then none else some { code := fMmaState }

/-- MMA: it goes to the matrix queue, and its group goes on (R81, R124). -/
def execMma (a : At) (f : XFmt) (s : State) : Host.Outcome State Fault Refusal :=
  go (rakeWide a f.gd f.pm f.sbase 7 (fun _ => mmaLegal f) s (fun c m s =>
    match mmaFault (s.bed a.pan a.bed) f (mmaArgs (c.sop f.sbase) f) with
    | some e => .error e
    | none => enqueue c m f.sbase (.mma f) s))

/-- A queued instruction faults: its record names it as it issued (entry 109). -/
def Work.fault (w : Work) (code addr : Nat) (s : State) : State :=
  takeFault (w.issue s) { code := code, addr := addr, pm := w.pm } s

/-- The flood queue an MMA names; for a number above 3 the manual names none, and which it is depends on the number alone (entry
69). -/
def floodOf (x : MmaArgs) : Nat := if x.bAddr < 4 then x.bAddr else Config.unstated [80, x.bAddr] % 4

/-- The bed as a queued instruction's reads of scratch find it (R207, R221). -/
def Work.seen (w : Work) (s : State) : Bed :=
  (s.bed w.at_.pan w.at_.bed).seen w.viewer (fun i => s.missBit 40 i)

/-- The matrix engine takes an MMA that has its flood bytes, if it takes any: its product goes into the slot, or it faults. An element
of the tile it adds to that is in error has no address (R485). -/
def mmaDone (w : Work) (f : XFmt) (s : State) : State :=
  let d := s.bed w.at_.pan w.at_.bed
  let x := mmaArgs w.sop f
  let free := fun i => s.draw (8192 + i)
  if !mmaFits d f then w.fault fMmaState 0 s
  else
    match firstError d (mmaReads f x), w.got.find? FloodByte.bad with
    | some e, _ => w.fault fData e s
    | none, some e => w.fault fData e.va s
    | none, none =>
      if !xBit27 f && !(d.slot (xSlot f)).bad.isEmpty then w.fault fData 0 s else
      let b := if xBit26 f then d.heldB.getD ⟨0, 0, 0, [], []⟩
        else if xBsrc f then bFlood (w.got.map FloodByte.val) f x else bScratch (w.seen s) f x
      s.setBed w.at_.pan w.at_.bed (mmaInto d (w.seen s) f x b free)

/-- The matrix engine's turn at an MMA. With bsrc = 1 it takes what its flood queue holds of its bytes, and stays at its place
while they are too few, the array taking bubbles (R89, R180, R205); how many cycles of them passed is free (entry 12). A byte whose
translation failed stops it (R344). The answer: the state, and the MMA where it stays. -/
def mmaRun (w : Work) (f : XFmt) (s : State) : State × Option Work :=
  let x := mmaArgs w.sop f
  if xBit26 f || !xBsrc f then (mmaDone w f s, none)
  else
    let d := s.bed w.at_.pan w.at_.bed
    let q := floodOf x
    let new := (tget {} d.flood q).buf.take (floodNeed x - w.got.length)
    let w1 : Work := { w with got := w.got ++ new }
    let s1 := (s.setBed w.at_.pan w.at_.bed (d.takeFlood q new.length)).updPan w.at_.pan (fun p =>
      { p with floodBytes := wrapAdd 64 p.floodBytes (new.filter (fun b => !b.stopped)).length })
    match w1.got.find? FloodByte.stopped with
    | some e => (w1.fault fTranslation e.va s1, none)
    | none =>
      if w1.got.length < floodNeed x then
        (s1.updPan w.at_.pan (fun p => { p with starved := satAdd 32 p.starved (s.draw 2400) }), some w1)
      else (mmaDone w1 f s1, none)

/-! ### MMA.DRAIN (R83, R100 to R104, R165) -/

/-- The value of an element of a tile as a drain to a floating-point format reads it. -/
def tileFl (t : AccSlot) (i : Nat) : Fl :=
  let v := (tget 0 t.vals i).toNat
  match t.kind with
  | .exact =>
    match (tget 0 t.tags i).toNat with
    | 0 =>
      let z := sext 96 v
      if z = 0 then .fin false 0 t.anchor else ofGrid false z t.anchor
    | 1 => .inf false
    | 2 => .inf true
    | _ => .nan
  | .integer => Fl.ofInt (sext 32 v)
  | _ => f32 v

/-- The pairs of output code and slot kind of R100. -/
def drainPair (k : SlotKind) (fo : Nat) : Bool :=
  match k with
  | .empty => false
  | .integer => decide (fo = 7) || decide (fo = 11)
  | .exact => decide (fo < 10) || decide (fo = 15)
  | .fast => decide (fo < 10)

/-- The 4 grain bits of output element (m, n) under a drain key (R165). -/
def drainNibble (k : GrainKey) (origin m n : Nat) : Nat :=
  let row := (origin % 2 ^ 32 + m) % 2 ^ 31
  let col := (origin / 2 ^ 32 % 2 ^ 32 + n) % 2 ^ 20
  let w := (grainStep (keyedState k.seed k.stream.toNat (row * 2 ^ 12 + col / 256) (col / 8 % 32))).1.toNat
  fld w (4 * (col % 8)) 4

/-- floor(log2) of a non-zero finite value. -/
def flog2 (m : Nat) (e : Int) : Int := Int.ofNat (Nat.log2 m) + e

/-- The non-zero finite values of a block, by the floor of their log2. -/
def blockTops (xs : List Fl) : List Int :=
  xs.filterMap (fun x => match x with
    | .fin _ m e => if m = 0 then none else some (flog2 m e)
    | _ => none)

/-- emax of R104. -/
def fmtEmax (f : FFmt) : Int :=
  match f.decode f.maxMag with
  | .fin _ m e => flog2 m e
  | _ => 0

/-- The scale byte of a block of 32 values; none where amax = 0, whose scale is 0x00 and whose elements are +0 (R104). -/
def blockScale (f : FFmt) (xs : List Fl) : Option Nat :=
  if xs.any (fun x => x.isNan || x.isInf) then some 255
  else
    match blockTops xs with
    | [] => none
    | t :: r => some (max (-127) (min (r.foldl max t - fmtEmax f) 127) + 127).toNat

/-- An element of an MX block with its scale byte; an element that rounds to zero keeps its sign (R104). -/
def blockElem (f : FFmt) (rnd : Rnd) (scale : Option Nat) (x : Fl) : Nat :=
  match scale, x with
  | none, _ => 0
  | some 255, _ => 0
  | some k, .fin n m e => f.encodeFin rnd true n m (e - (Int.ofNat k - 127))
  | _, _ => 0

/-- One output element's bits. -/
def drainElem (t : AccSlot) (fo i : Nat) (rnd : Rnd) (sat : Bool) (scale : Option Nat) : Nat :=
  match fo with
  | 15 => (tget 0 t.vals i).toNat + 2 ^ 96 * (tget 0 t.tags i).toNat
  | 11 => (tget 0 t.vals i).toNat % 2 ^ 32
  | 7 => fp32.drainBits (if t.kind = .integer then .rne else rnd) sat (tileFl t i)
  | k =>
    match matFmt k with
    | some (.mx f) => blockElem f rnd scale (tileFl t i)
    | some (.plain f) => f.drainBits rnd sat (tileFl t i)
    | some (.half f) => f.drainBits rnd sat (tileFl t i)
    | _ => 0

/-- The bytes of n packed elements of w bits. -/
def packBytes (w n : Nat) (f : Nat → Nat) : List Byte := leBytes (w * n / 8) (packElems w n f)

/-- Writes one output row and its scales. -/
def drainRow (t : AccSlot) (fo cols dAddr dStride dsAddr : Nat) (sat : Bool) (rnd : Nat → Nat → Rnd) (d : Bed)
    (m : Nat) : Bed :=
  let base := m * tileN t.shape
  let scale (b : Nat) : Option Nat :=
    match matFmt fo with
    | some (.mx f) => blockScale f ((List.range 32).map (fun j => tileFl t (base + 32 * b + j)))
    | _ => none
  let scales := if foIsMx fo then (List.range (cols / 32)).map scale else []
  let bytes := packBytes (outBits fo) cols (fun n =>
    drainElem t fo (base + n) (rnd m n) sat (scales.getD (n / 32) none))
  let d1 := d.poke (dAddr + m * dStride) bytes
  if foIsMx fo then d1.poke (dsAddr + m * (cols / 32)) (scales.map (fun x => BitVec.ofNat 8 (x.getD 0))) else d1

/-- The bank's 16 generators each take a number of steps. -/
def Bed.stepBank (d : Bed) (k : Nat) : Bed :=
  { d with drainBank := tputs 0 [] 0 ((List.range 16).map (fun i =>
      iter (fun st => (grainStep st).2) k (tget 0 d.drainBank i))) }

/-- Output columns of one drain cycle (R86). -/
def drainCols (fo : Nat) : Nat := if fo = 15 then 32 else 128

/-- The 4 bits that an output element takes from the bed's drain bank: of the words that the 16 generators give in its drain
cycle, 8 nibbles each, the manual does not say which nibble (R103, R165; entry 112). -/
def bankNibble (d : Bed) (cycle pick : Nat) : Nat :=
  let st := iter (fun st => (grainStep st).2) cycle (tget 0 d.drainBank (pick % 16))
  fld (grainStep st).1.toNat (4 * (pick / 16 % 8)) 4

/-- The slot allows a drain of rows × cols to an output code (R83, R100). -/
def drainFits (d : Bed) (f : XFmt) (rows cols : Nat) : Bool :=
  let t := d.slot (xSlot f)
  slotIs t t.kind (xSlot f) && drainPair t.kind (xFa f) && decide (rows ≠ 0) && decide (cols ≠ 0)
    && decide (rows ≤ tileM t.shape) && decide (cols ≤ tileN t.shape) && (!foIsMx (xFa f) || decide (cols % 32 = 0))

/-- What an MMA.DRAIN checks at issue, in the order of R141. -/
def mmaDrainFault (d : Bed) (f : XFmt) (op : Nat → Nat) : Option BedFault :=
  match firstMisaligned (drainWrites op f) with
  | some a => some { code := fMisaligned, addr := a }
  | none => if drainFits d.ahead f (op 3) (op 4) then none else some { code := fMmaState }

def execMmaDrain (a : At) (f : XFmt) (s : State) : Host.Outcome State Fault Refusal :=
  go (rakeWide a f.gd f.pm f.sbase 6 (fun _ => true) s (fun c m s =>
    match mmaDrainFault (s.bed a.pan a.bed) f (c.sop f.sbase) with
    | some e => .error e
    | none => enqueue c m f.sbase (.mmaDrain f) s))

/-- An element of the slot that a drain of rows × cols reads is in error (R485). -/
def drainBad (t : AccSlot) (rows cols : Nat) : Bool :=
  t.bad.any (fun i => decide (i / tileN t.shape < rows) && decide (i % tileN t.shape < cols))

/-- The matrix engine's turn at an MMA.DRAIN. -/
def drainRun (w : Work) (f : XFmt) (s : State) : State :=
  let d := s.bed w.at_.pan w.at_.bed
  let i := xSlot f
  let t := d.slot i
  let fo := xFa f
  let rows := w.sop 3
  let cols := w.sop 4
  if !drainFits d f rows cols then w.fault fMmaState 0 s
  else if drainBad t rows cols then w.fault fData 0 s
  else
    let st := xBit31 f
    let rnd (m n : Nat) : Rnd :=
      if !st then .rne
      else
        match w.key with
        | some k => .st4 (drainNibble k (w.sop 5) m n)
        | none => .st4 (bankNibble d (m * ceilDiv cols (drainCols fo) + n / drainCols fo) (s.draw (8192 + m * 1024 + n)))
    let d1 := (List.range rows).foldl (drainRow t fo cols (w.sop 0) (w.sop 1) (w.sop 2) (xBit27 f) rnd) d
    let d2 := if st && w.key.isNone then d1.stepBank (rows * ceilDiv cols (drainCols fo)) else d1
    s.setBed w.at_.pan w.at_.bed (if xBit26 f then d2.endTiles (tileSlots t.kind i) else d2)

/-! ### MMA.LOAD (R84) -/

/-- Reserved codes of an MMA.LOAD, and an exact tile at slot 6 or 7 (R71, R84). -/
def loadLegal (f : XFmt) : Bool :=
  (loadKind (xFa f)).isSome && decide (xShape f < 3) && (decide (xFa f ≠ 15) || decide (xSlot f < 6))

/-- A tile with each element combined with the loaded one (R84, R98). -/
def addTile (t : AccSlot) (v : Nat → Nat) : AccSlot :=
  match t.kind with
  | .exact => { t with
      vals := tabulate 16384 (fun i => BitVec.ofNat 96 ((tget 0 t.vals i).toNat + v i % 2 ^ 96))
      tags := tabulate 16384 (fun i => BitVec.ofNat 2 (tagAdd (tget 0 t.tags i).toNat (fld (v i) 96 2))) }
  | .integer => { t with
      vals := tabulate 16384 (fun i => BitVec.ofNat 96 (((tget 0 t.vals i).toNat + v i) % 2 ^ 32)) }
  | _ => { t with vals := tabulate 16384 (fun i => BitVec.ofNat 96 (addF32 (tget 0 t.vals i).toNat (v i))) }

/-- The slot allows an MMA.LOAD with add = 1 (R78). -/
def loadFits (d : Bed) (f : XFmt) (anchor : Int) : Bool :=
  let t := d.slot (xSlot f)
  let k := (loadKind (xFa f)).getD .fast
  !xBit31 f || (slotIs t k (xSlot f) && decide (t.shape = xShape f) && (decide (k ≠ .exact) || decide (t.anchor = anchor)))

/-- What an MMA.LOAD checks at issue, in the order of R141. -/
def mmaLoadFault (d : Bed) (f : XFmt) (op : Nat → Nat) : Option BedFault :=
  match firstMisaligned (loadReads op f) with
  | some a => some { code := fMisaligned, addr := a }
  | none => if loadFits d.ahead f (anchorOf (op 2)) then none else some { code := fMmaState }

def execMmaLoad (a : At) (f : XFmt) (s : State) : Host.Outcome State Fault Refusal :=
  go (rakeWide a f.gd f.pm f.sbase 3 (fun _ => loadLegal f) s (fun c m s =>
    match mmaLoadFault (s.bed a.pan a.bed) f (c.sop f.sbase) with
    | some e => .error e
    | none => enqueue c m f.sbase (.mmaLoad f) s))

/-- The matrix engine's turn at an MMA.LOAD. -/
def loadRun (w : Work) (f : XFmt) (s : State) : State :=
  let d := s.bed w.at_.pan w.at_.bed
  let i := xSlot f
  let k := (loadKind (xFa f)).getD .fast
  let anchor : Int := if k = .exact then anchorOf (w.sop 2) else 0
  let size := loadSize f
  let n := tileN (xShape f)
  if !loadFits d f (anchorOf (w.sop 2)) then w.fault fMmaState 0 s
  else
    match firstError d (loadReads w.sop f) with
    | some e => w.fault fData e s
    | none =>
      if xBit31 f && !(d.slot i).bad.isEmpty then w.fault fData 0 s else
      let src := w.seen s
      let v (j : Nat) : Nat := src.scratchNat (w.sop 0 + j / n * w.sop 1 + j % n * size) size
      s.setBed w.at_.pan w.at_.bed
        (if xBit31 f then d.putTile i (addTile (d.slot i) v)
        else d.form i
          { kind := k, shape := xShape f, anchor := anchor,
            vals := tabulate 16384 (fun j => BitVec.ofNat 96 (v j)),
            tags := if k = .exact then tabulate 16384 (fun j => BitVec.ofNat 2 (fld (v j) 96 2)) else [] })

/-! ### MMA.STAT (R85) -/

def SlotKind.code (k : SlotKind) : Nat :=
  match k with
  | .empty => 0
  | .fast => 1
  | .exact => 2
  | .integer => 3

/-- A tag or value of the tile is infinite or NaN. -/
def tileSpecial (t : AccSlot) : Bool :=
  match t.kind with
  | .exact => t.tags.any (fun e => e.2 ≠ 0)
  | .fast => t.vals.any (fun e => let x := f32 e.2.toNat; x.isNan || x.isInf)
  | _ => false

/-- The status word of slot i; any slot of an exact tile reports the tile. -/
def slotStat (d : Bed) (i : Nat) : Nat :=
  let x := d.slot i
  let base := if x.kind = .exact then x.base else i
  let t := d.slot base
  t.kind.code + t.shape * 4 + boolN (t.kind = .exact && t.inexact) * 16 + boolN (t.kind = .exact && t.range) * 32
    + boolN (t.kind = .exact && t.kOver) * 64 + boolN (tileSpecial t) * 128
    + (if t.kind = .exact then wrapN 10 t.anchor else 0) * 256 + base * 2 ^ 18 + t.kCount * 2 ^ 32

def execMmaStat (a : At) (f : XFmt) (s : State) : Host.Outcome State Fault Refusal :=
  go (rakeWide a f.gd f.pm f.sbase 0 (fun _ => true) s (fun c m s => enqueue c m f.sbase (.mmaStat f) s))

/-- The matrix engine's turn at an MMA.STAT. -/
def statRun (w : Work) (f : XFmt) (s : State) : State :=
  s.updRake w.at_.pan w.at_.bed w.at_.slot (fun r =>
    r.sset (xSd f) (BitVec.ofNat 64 (slotStat (s.bed w.at_.pan w.at_.bed) (xSlot f))))

end Sys2Proof.Machine
end

