-- ==== Sys2Proof/Machine/MemOps.lean ====
section
/-!
DEFINITION. Loads, stores and atomics of a bed (R119, R138 to R140, R207 to R216, R221, R222). Each is one whole step; what a load
finds where stores race with it is free (R221, entry 11). -/

namespace Sys2Proof.Machine

/-- Bytes of a size code; none where it is reserved (R119). -/
def sizeBytes (code : Nat) : Option Nat := if code ≤ 4 then some (2 ^ code) else none

/-- Vector registers of a datum of n bytes (R138). -/
def sizeRegs (n : Nat) : Nat := if n ≤ 4 then 1 else n / 4

/-- Where one thread's access lands: its lane, the address it names, and the physical address with the page's C bit, or a bed
scratch address. -/
structure Target where
  lane : Nat
  va : Nat
  pa : Nat
  cacheable : Bool
  scratch : Bool
  deriving DecidableEq, Repr

/-- The address a thread names: the scratch address in va or the virtual address in the pair va, with the offset. A scratch
address does not wrap: a sum below zero or above 32 bits lies beyond the scratch (R138). -/
def memAddr (c : Issue) (f : MFmt) (l : Nat) : Nat :=
  wrapN 64 (Int.ofNat (c.rake.wide f.va.toNat (if f.space = 0 then 1 else 2) l) + sext 14 f.offset.toNat)

/-- Translates the lanes' addresses in ascending lane order; the first that fails faults (R342). -/
def xlatLanes (c : Issue) (need : Need) (kind : Nat) (addr : Nat → Nat) (ls : List Nat) (s : State) :
    State × Except BedFault (List Target) :=
  match ls with
  | [] => (s, .ok [])
  | l :: r =>
    match panXlat s c.a.pan s.slotRun need false (addr l) l with
    | (s1, .error x) =>
      let s2 := recordXlat s1 c.a.pan c.a.bed s.slotRun kind false x (addr l)
      (s2, .error { code := fTranslation, addr := addr l, seen := some s2 })
    | (s1, .ok (pa, leaf)) =>
      match xlatLanes c need kind addr r s1 with
      | (s2, .ok ts) => (s2, .ok ({ lane := l, va := addr l, pa := pa, cacheable := leaf.cacheable, scratch := false } :: ts))
      | (s2, .error x) => (s2, .error x)

/-- A reader of a poisoned line: the event, and the counter of the pan whose brine holds it (R290, R329, R484). -/
def poisonSeen (s : State) (die part index pa : Nat) : State :=
  let s1 := s.raise { code := evPoisonRead, cls := 0, die := die, part := part, partIndex := index, action := 3,
                      addrKind := 1, addr := pa }
  match place s pa with
  | .brine p _ => s1.updPan p (fun x => { x with poisonReads := satAdd 32 x.poisonReads 1 })
  | _ => s1

/-- The first target whose data carries an uncorrectable error (R141, R485). -/
def firstBad (s : State) (c : Issue) (n : Nat) (ts : List Target) : Option Target :=
  ts.find? (fun t => if t.scratch then (s.bed c.a.pan c.a.bed).scratchErr t.pa n else s.poisoned t.pa n)

/-- The targets of an access of n bytes, after its checks in the order of R141: alignment, translation, then an error in
the data it reads. A group whose data lies in a brine that holds every beat waits (R312), and so does one whose line a
core defers (R268). -/
def targets (c : Issue) (f : MFmt) (n : Nat) (need : Need) (kind : Nat) (reads : Bool) (s : State) :
    Except BedFault (State × List Target) :=
  let ls := lanesOf (c.guarded f.gd)
  let addr := memAddr c f
  match ls.find? (fun l => decide (addr l % n ≠ 0) || (decide (f.space = 0) && decide (scratchSize ≤ addr l))) with
  | some l => .error { code := fMisaligned, addr := addr l }
  | none =>
    let r : State × Except BedFault (List Target) :=
      if f.space = 0 then
        (s, .ok (ls.map (fun l => { lane := l, va := addr l, pa := addr l, cacheable := false, scratch := true })))
      else xlatLanes c need kind addr ls s
    match r with
    | (_, .error x) => .error x
    | (s1, .ok ts) =>
      if ts.any (fun t => !t.scratch && (memoryHeld s1 (lineOf t.pa) || s1.deferred (lineOf t.pa))) then .error { code := 0 } else
      match (if reads then firstBad s1 c n ts else none) with
      | some t =>
        let seen := if t.scratch then s1 else poisonSeen s1 (dieOfPan c.a.pan) 1 c.a.bed t.pa
        .error { code := fData, addr := t.va, seen := some seen }
      | none => .ok (s1, ts)

/-- The stores whose old bytes may still be read where a target lies. -/
def keptAt (s : State) (c : Issue) (t : Target) : List StoreRec :=
  if t.scratch then (s.bed c.a.pan c.a.bed).kept else s.coh.kept

/-- The latest n bytes at a target. -/
def targetBytes (s : State) (c : Issue) (n : Nat) (t : Target) : State × List Byte :=
  if t.scratch then (s, (s.bed c.a.pan c.a.bed).scratchBytes t.pa n) else panRead s c.a.pan t.pa n t.cacheable

/-- Reads n bytes at a target as its thread finds them, missing the racing stores that miss allows (R221); with the releases
carried by what it read (R215). -/
def targetRead (s : State) (c : Issue) (n : Nat) (miss : Bool) (t : Target) : State × Nat × List RelMark :=
  let v := c.viewer t.lane
  let free := fun i => miss && s.missBit t.lane i
  let ks := keptAt s c t
  let r := targetBytes s c n t
  (r.1, leNat (patch t.pa r.2 (missed v free 0 [] ks)), foundRels v free 0 [] t.pa n ks)

/-- The units of R210 that a store of n bytes writes, each with the bytes that stood in it: one of up to 8 bytes, or two. -/
def storeUnits (pa : Nat) (old : List Byte) : List (List (Nat × Byte)) :=
  let es := ((List.range old.length).map (fun i => pa + i)).zip old
  if old.length ≤ 8 then [es] else [es.take 8, es.drop 8]

/-- The stores that a thread's store adds to those whose old bytes may still be read. -/
def storeRecs (c : Issue) (l number : Nat) (rels : List RelMark) (pa : Nat) (old : List Byte) : List StoreRec :=
  (storeUnits pa old).map (fun es => { old := es, pan := c.a.pan, bed := c.a.bed, slot := c.a.slot, block := c.block, lane := l,
                                       number := number, rels := rels })

/-- What a thread's store with an order field carries: the marks of its group's fences, and itself where it is a release at its
scope (R213). -/
def storeRels (c : Issue) (f : MFmt) (number l : Nat) : List RelMark :=
  tget [] c.rake.rels l ++
    (if 2 ≤ f.order.toNat then
      [{ pan := c.a.pan, bed := c.a.bed, slot := c.a.slot, block := c.block, scope := f.scope.toNat,
         view := mergeView (tget [] c.rake.views l) [(threadKey c.a.pan c.a.bed c.a.slot l, number)] }]
    else [])

/-- Writes n bytes at a target; the bytes that stood there are kept for the readers that race (R221). -/
def targetWrite (s : State) (c : Issue) (f : MFmt) (n v : Nat) (t : Target) : State :=
  let number := s.coh.stores + 1
  let bs := leBytes n v
  let recs (old : List Byte) := storeRecs c t.lane number (storeRels c f number t.lane) t.pa old
  let s1 : State :=
    if t.scratch then s.updBed c.a.pan c.a.bed (fun d =>
      { d.poke t.pa bs with kept := recs (d.scratchBytes t.pa n) ++ d.kept })
    else
      (panWrite s c.a.pan t.pa bs t.cacheable).updCoh (fun z => { z with kept := recs (s.cohBytes t.pa n) ++ s.coh.kept })
  s1.updCoh (fun z => { z with stores := number })

/-- What a thread's read leaves to its later accesses: an acquire synchronises with the releases it read; a relaxed read notes
them for a later acquire fence (R213, R215). -/
def Rake.found (r : Rake) (c : Issue) (f : MFmt) (l : Nat) (ms : List RelMark) : Rake :=
  if ms.isEmpty then r
  else if f.order = 1 ∨ f.order = 3 then r.after (1#32 <<< l) (learned ms f.scope.toNat (c.viewer l)) true
  else { r with reads := tput [] r.reads l ((tget [] r.reads l ++ ms).eraseDups) }

/-- The registers of a memory instruction are legal: space, address, and k registers from each named one. -/
def memRegs (c : Issue) (f : MFmt) (k : Nat) (rs : List Nat) : Bool :=
  decide (f.space.toNat < 2) && c.rake.regOk f.va.toNat (if f.space = 0 then 1 else 2) && rs.all (fun r => c.rake.regOk r k)

/-- A memory instruction of n bytes: nothing when no thread's guard holds, else its legality, then its effect. A release waits until
what its rake queued has completed (R213, R214). -/
def memOp (a : At) (f : MFmt) (writes : Bool) (s : State) (legal : Issue → Nat → Bool)
    (body : Issue → Nat → State → Except BedFault State) : State :=
  bedNext a s (fun c s =>
    if c.guarded f.gd = 0 then .ok s
    else
      match sizeBytes f.size.toNat with
      | none => illegal
      | some n =>
        if !legal c n then illegal
        else if writes && decide (2 ≤ f.order.toNat) && rakeBusy a s then waits
        else body c n s)

/-- LD: each guarded thread loads into vd, zero-extended (R138). -/
def execLd (a : At) (f : MFmt) (s : State) : Host.Outcome State Fault Refusal :=
  go (memOp a f false s (fun c n => memRegs c f (sizeRegs n) [f.vd.toNat]) (fun c n s => do
    let (s1, ts) ← targets c f n .r kLoad true s
    let r := ts.foldl (fun (x : State × Rake) t =>
      let v := targetRead x.1 c n true t
      (v.1, (x.2.setWide f.vd.toNat (sizeRegs n) t.lane v.2.1).found c f t.lane v.2.2)) (s1, c.rake)
    return c.put r.1 r.2))

/-- ST: each guarded thread stores the low bytes of vb; a byte several threads store ends with the highest (R138, R208). -/
def execSt (a : At) (f : MFmt) (s : State) : Host.Outcome State Fault Refusal :=
  go (memOp a f true s (fun c n => memRegs c f (sizeRegs n) [f.vb.toNat]) (fun c n s => do
    let (s1, ts) ← targets c f n .w kStore false s
    return ts.foldl (fun s t => targetWrite s c f n (c.rake.wide f.vb.toNat (sizeRegs n) t.lane % 2 ^ (8 * n)) t) s1))

/-- The new value of an atomic operation on n bytes (R140). -/
def atomicOp (aop n old x : Nat) : Nat :=
  let w := 8 * n
  match aop with
  | 0 => (old + x) % 2 ^ w
  | 1 => if sext w x < sext w old then x else old
  | 2 => if sext w old < sext w x then x else old
  | 3 => min old x
  | 4 => max old x
  | 5 => old &&& x
  | 6 => old ||| x
  | 7 => old ^^^ x
  | 8 => x
  | _ => addF32 old x

/-- The atomics of the guarded threads, one at a time in ascending lane order; vd receives the old values, which are the latest
(R139, R222). new: what is written, if anything is. -/
def atomics (c : Issue) (f : MFmt) (n : Nat) (new : Nat → Nat → Option Nat) (ts : List Target) (s : State) : State :=
  let r := ts.foldl (fun (x : State × Rake) t =>
    let v := targetRead x.1 c n false t
    let s1 := match new t.lane v.2.1 with
      | some x => targetWrite v.1 c f n x t
      | none => v.1
    (s1, (x.2.setWide f.vd.toNat (sizeRegs n) t.lane v.2.1).found c f t.lane v.2.2)) (s, c.rake)
  c.put r.1 r.2

def atomicSize (n : Nat) : Bool := decide (n = 4) || decide (n = 8)

def execAtom (a : At) (f : MFmt) (s : State) : Host.Outcome State Fault Refusal :=
  go (memOp a f true s
    (fun c n => atomicSize n && decide (f.aop.toNat ≤ 9) && (decide (f.aop ≠ 9) || decide (n = 4))
      && memRegs c f (sizeRegs n) [f.vd.toNat, f.vb.toNat])
    (fun c n s => do
      let (s1, ts) ← targets c f n .a kAtomic true s
      return atomics c f n (fun l old => some (atomicOp f.aop.toNat n old (c.rake.wide f.vb.toNat (sizeRegs n) l))) ts s1))

/-- ATOM.CAS: the compare value in vb, the new value in the next register or pair (R119, R140). -/
def execAtomCas (a : At) (f : MFmt) (s : State) : Host.Outcome State Fault Refusal :=
  go (memOp a f true s
    (fun c n => atomicSize n && decide (f.aop = 0)
      && memRegs c f (sizeRegs n) [f.vd.toNat, f.vb.toNat, f.vb.toNat + sizeRegs n])
    (fun c n s => do
      let (s1, ts) ← targets c f n .a kAtomic true s
      let k := sizeRegs n
      return atomics c f n (fun l old =>
        if old = c.rake.wide f.vb.toNat k l then some (c.rake.wide (f.vb.toNat + k) k l) else none) ts s1))

end Sys2Proof.Machine
end

