-- ==== Sys2Proof/Machine/Kv.lean ====
section
/-!
DEFINITION. The agent directory, headers and stream records in brine (R171 to R176), the KV append engine (R186 to R192,
R421), and the discards the salter applies (R194, R423). Every write of the engine is a cacheless write (R288). A KV instruction
issues into its bed's queue, and the append engine of the pan executes it (R186, R187). -/

namespace Sys2Proof.Machine

/-! ### The directory (R172) -/

def aResident := 0
def aCold := 1
def aMovingIn := 2
def aMovingOut := 3

/-- A directory word. -/
structure AgentDir where
  valid : Bool
  st : Nat
  owner : Nat
  loc : Nat
  deriving DecidableEq, Repr

def dirWordPa (s : State) (a : Nat) : Nat := s.salter.dirPa + 8 * a

/-- The agent's directory word. -/
def State.agentDir (s : State) (a : Nat) : AgentDir :=
  let w := s.cohNat (dirWordPa s a) 8
  { valid := bitN w 0, st := fld w 1 2, owner := fld w 3 5, loc := fld w 16 25 }

def AgentDir.word (d : AgentDir) : Nat := boolN d.valid + d.st * 2 + d.owner % 32 * 8 + d.loc % 2 ^ 25 * 65536

def State.setAgentDir (s : State) (a : Nat) (d : AgentDir) : State := cachelessWrite s (dirWordPa s a) (leBytes 8 d.word)

/-- The agent's word is cleared. -/
def State.clearAgentDir (s : State) (a : Nat) : State := cachelessWrite s (dirWordPa s a) (leBytes 8 0)

/-- The valid agent ids, ascending. The directory is written by cacheless writes alone, so memory lists every word that is
not zero. -/
def State.agentIds (s : State) : List Nat :=
  let base := s.salter.dirPa
  let near := s.mem.filterMap (fun e => if base ≤ e.1 ∧ e.1 < base + 2097152 then some ((e.1 - base) / 8) else none)
  near.eraseDups.filter (fun a => (s.agentDir a).valid)

/-- The agent has an owner pan, and it is p (R171). -/
def AgentDir.ownedBy (d : AgentDir) (p : Nat) : Bool := d.valid && decide (d.st ≠ aCold) && decide (d.owner = p)

/-- Physical address of the header: in the owner's brine, or of the cold image. -/
def AgentDir.header (d : AgentDir) : Nat :=
  if d.st = aResident ∨ d.st = aMovingOut then brineBase d.owner + d.loc * kib64 else d.loc * kib64

/-! ### The header (R173 to R175) -/

def hStreams (s : State) (h : Nat) : Nat := s.cohNat (h + 5) 1
def hGen (s : State) (h : Nat) : Nat := s.cohNat (h + 6) 1
def hC (s : State) (h : Nat) : Nat := s.cohNat (h + 8) 8 % 2 ^ 40
def hStateOff (s : State) (h : Nat) : Nat := s.cohNat (h + 16) 4
def hStateUnits (s : State) (h : Nat) : Nat := s.cohNat (h + 20) 4
def hUsed (s : State) (h : Nat) : Nat := s.cohNat (h + 24) 4
def hGranted (s : State) (h : Nat) : Nat := s.cohNat (h + 28) 4

/-- A stream record. -/
structure StreamRec where
  entry : Nat
  perPage : Nat
  fill : Nat
  off : Nat
  len : Nat
  deriving DecidableEq, Repr

def streamPa (h st : Nat) : Nat := h + 0x100 + 64 * st

def streamRec (s : State) (h st : Nat) : StreamRec :=
  let b := streamPa h st
  { entry := s.cohNat b 4, perPage := s.cohNat (b + 4) 4, fill := s.cohNat (b + 8) 8 % 2 ^ 40, off := s.cohNat (b + 16) 4,
    len := s.cohNat (b + 20) 4 }

/-- Address of directory word k of a stream. -/
def wordPa (h : Nat) (r : StreamRec) (k : Nat) : Nat := h + r.off + 4 * k

def pageWord (s : State) (h : Nat) (r : StreamRec) (k : Nat) : Nat := s.cohNat (wordPa h r k) 4
def wordGranted (w : Nat) : Bool := bitN w 30
def wordUsed (w : Nat) : Bool := bitN w 31
def pageSize : Nat := 262144

/-- Physical address of position p of a stream of an agent owned by a pan (R175). -/
def positionPa (s : State) (owner h : Nat) (r : StreamRec) (p : Nat) : Nat :=
  brineBase owner + fld (pageWord s h r (p / r.perPage)) 0 19 * pageSize + p % r.perPage * r.entry

def setFill (s : State) (h st fill : Nat) : State := cachelessWrite s (streamPa h st + 8) (leBytes 8 fill)

/-- The commit line with new values of generation, C and pages_in_use, written as one 64-byte line (R173). -/
def writeCommitLine (s : State) (h gen c used : Nat) : State :=
  let line := s.cohBytes h 64
  cachelessWrite s h (overlay (overlay (overlay line 6 (leBytes 1 gen)) 8 (leBytes 8 c)) 24 (leBytes 4 used))

/-! ### Cutting (R191) -/

/-- Zeroes positions lo to hi − 1 of a stream; with the bytes zeroed. -/
def zeroPositions (s : State) (owner h : Nat) (r : StreamRec) (lo hi : Nat) : State :=
  (List.range (hi - lo)).foldl (fun s i =>
    cachelessWrite s (positionPa s owner h r (lo + i)) (List.replicate r.entry 0)) s

/-- Clears in_use on the words from keep on; the state and the words cleared. -/
def clearWords (s : State) (h : Nat) (r : StreamRec) (keep : Nat) : State × Nat :=
  (List.range r.len).foldl (fun (x : State × Nat) k =>
    let w := pageWord x.1 h r k
    if keep ≤ k * r.perPage ∧ wordUsed w then
      (cachelessWrite x.1 (wordPa h r k) (leBytes 4 (w - 2 ^ 31)), x.2 + 1)
    else x) (s, 0)

/-- cut(a, keep) of R191: the state, the pages freed and the bytes zeroed. -/
def cutAgent (s : State) (owner h keep : Nat) : State × Nat × Nat :=
  (List.range (hStreams s h)).foldl (fun (x : State × Nat × Nat) st =>
    let r := streamRec x.1 h st
    if keep < r.fill then
      let y := clearWords (zeroPositions x.1 owner h r keep r.fill) h r keep
      (y.1, x.2.1 + y.2, x.2.2 + (r.fill - keep) * r.entry)
    else x) (s, 0, 0)

/-- Positions from keep on are discarded, C becomes c, the generation advances, the commit line is written, then the
fills (R191). The owner's KV.ZERO_BYTES counts the bytes zeroed. -/
def cutTo (s : State) (owner h keep c : Nat) : State :=
  let used := hUsed s h
  let gen := hGen s h
  let x := cutAgent s owner h keep
  let s1 := writeCommitLine x.1 h ((gen + 1) % 256) c (used - x.2.1)
  let s2 := (List.range (hStreams s1 h)).foldl (fun s st =>
    let f := (streamRec s h st).fill
    setFill s h st (min f keep)) s1
  s2.updPan owner (fun p => { p with kvZero := wrapAdd 64 p.kvZero x.2.2 })

/-- commit(a, n). -/
def kvCommitAt (s : State) (owner h n : Nat) : State := cutTo s owner h (hC s h + n) (hC s h + n)

/-- discard(a, q). -/
def kvDiscardAt (s : State) (owner h q : Nat) : State := cutTo s owner h q (hC s h)

/-- The discard at C that follows a pan reset, on every agent the pan owns whose state lies in its brine (R194). -/
def discardOwned (s : State) (p : Nat) : State :=
  s.agentIds.foldl (fun s a =>
    let d := s.agentDir a
    if d.ownedBy p ∧ d.st ≠ aMovingIn then kvDiscardAt s p d.header (hC s d.header) else s) s

/-- The rewind of a step: every agent of the commit logs goes back to its logged C (R423). -/
def rewindStep (s : State) : State :=
  (List.range s.cfg.variant.pans).foldl (fun s p =>
    if !(s.pan p).service then s else
    let s1 := (s.pan p).commitLog.foldl (fun s (e : Nat × Nat) =>
      let d := s.agentDir e.1
      if d.ownedBy p ∧ d.st ≠ aMovingIn then cutTo s p d.header e.2 e.2 else s) s
    s1.updPan p (fun x => { x with commitLog := [] })) s

/-- The first commit or discard of an agent in a step is logged with the C before it (R421). -/
def logCommit (s : State) (p a c : Nat) : State :=
  s.updPan p (fun x => if x.commitLog.any (fun e => e.1 == a) then x else { x with commitLog := x.commitLog ++ [(a, c)] })

/-! ### Statuses (R393) -/

def stOk := 0x0000
def stAccepted := 0x0001
def stBadCommand := 0x0100
def stBadArgument := 0x0101
def stNotPresent := 0x0102
def stWrongState := 0x0103
def stNoFit := 0x0104
def stNoRights := 0x0105
def stBadSignature := 0x0106
def stRollback := 0x0107
def stBusyRetry := 0x0200
def stUnitFailed := 0x0300

/-! ### The instructions (R187 to R191) -/

/-- Checks 1 to 4 of R188: the failing status, or none. A COLD agent has no owner (R171). -/
def kvCheck (s : State) (p : Nat) (d : AgentDir) (gen : Nat) : Option Nat :=
  if !d.valid then some stBadArgument
  else if !d.ownedBy p then some stNoRights
  else if d.st ≠ aResident then some stWrongState
  else if hGen s d.header ≠ gen then some stWrongState
  else none

/-- Words of a stream that positions lo to hi − 1 need. -/
def wordsOf (r : StreamRec) (lo hi : Nat) : List Nat :=
  (List.range ((hi - 1) / r.perPage + 1 - lo / r.perPage)).map (fun i => lo / r.perPage + i)

/-- Writes a status to a scalar destination. -/
def putStatus (a : At) (sd status : Nat) (s : State) : State :=
  s.updRake a.pan a.bed a.slot (fun r => r.sset sd (BitVec.ofNat 64 status))

/-- A KV instruction: its status, generation and position value go to sd, and the counters count it (R190, R204). With an
agent that is not valid no value is current, and the two fields are free (entry 16). -/
def kvDone (a : At) (f : RFmt) (d : AgentDir) (status : Nat) (val : State → Nat) (s : State) : State :=
  let gen := if d.valid then hGen s d.header else s.draw 2200 % 256
  let v := if d.valid then val s else s.draw 2201 % 2 ^ 40
  (putStatus a f.sd.toNat (status + gen * 65536 + v * 2 ^ 24) s).updPan a.pan (fun p =>
    if status = stOk then { p with kvDone := satAdd 32 p.kvDone 1 } else { p with kvRefused := satAdd 32 p.kvRefused 1 })

/-- Checks 5 to 7 of a KV.APPEND (R188). -/
def appendCheck (s : State) (bed : Bed) (h st p count src : Nat) : Option Nat :=
  let r := streamRec s h st
  if hStreams s h ≤ st ∨ count = 0 ∨ 256 < count ∨ p ≠ r.fill ∨ src % 64 ≠ 0 ∨ scratchSize < src + count * r.entry then
    some stBadArgument
  else if hC s h + 1024 < p + count ∨ r.len * r.perPage < p + count
      ∨ (wordsOf r p (p + count)).any (fun k => !wordGranted (pageWord s h r k)) then some stNoFit
  else if s.poisoned h kib64 || bed.scratchErr src (count * r.entry) then some stUnitFailed
  else none

/-- The word of a position comes into use, if it was not: the state and whether it did. -/
def useWord (s : State) (h : Nat) (r : StreamRec) (k : Nat) : State × Nat :=
  let w := pageWord s h r k
  if wordUsed w then (s, 0) else (cachelessWrite s (wordPa h r k) (leBytes 4 (w + 2 ^ 31)), 1)

/-- append(a, s, p, count, src) of R191: for each position in turn its word comes into use and its entry is written. -/
def kvAppendAt (s : State) (bed : Bed) (owner h st p count src : Nat) : State :=
  let r := streamRec s h st
  let x := (List.range count).foldl (fun (x : State × Nat) i =>
    let y := useWord x.1 h r ((p + i) / r.perPage)
    (cachelessWrite y.1 (positionPa y.1 owner h r (p + i)) (bed.scratchBytes (src + i * r.entry) r.entry), x.2 + y.2)) (s, 0)
  let s2 := setFill x.1 h st (p + count)
  writeCommitLine s2 h (hGen s2 h) (hC s2 h) (hUsed s2 h + x.2)

/-- A KV instruction's imm32 must be zero (R187); sub is not one of its fields. -/
def kvLegal (f : RFmt) : Bool := decide (f.imm32 = 0)

/-- A KV instruction issues into its bed's KV queue (R186, R187). -/
def kvIssue (a : At) (f : RFmt) (n : Nat) (o : WorkOp) (s : State) : State :=
  rakeWide a f.gd f.pm f.sbase n (fun _ => kvLegal f) s (fun c m s => enqueue c m f.sbase o s)

def execKvAppend (a : At) (f : RFmt) (s : State) : Host.Outcome State Fault Refusal := go (kvIssue a f 5 (.kvAppend f) s)
def execKvCommit (a : At) (f : RFmt) (s : State) : Host.Outcome State Fault Refusal := go (kvIssue a f 3 (.kvCommit f) s)
def execKvDiscard (a : At) (f : RFmt) (s : State) : Host.Outcome State Fault Refusal := go (kvIssue a f 3 (.kvDiscard f) s)

/-- The append engine's turn at a KV.APPEND. -/
def appendRun (w : Work) (f : RFmt) (s : State) : State :=
  let a := w.at_
  let d := s.agentDir (w.sop 0 % 2 ^ 18)
  let st := w.sop 1 % 32
  let p := w.sop 2 % 2 ^ 40
  let count := w.sop 3 % 512
  let src := w.sop 4
  let bed := w.seen s
  let val := fun s => (streamRec s d.header st).fill
  match kvCheck s a.pan d (fld (w.sop 1) 8 8) with
  | some e => kvDone a f d e val s
  | none =>
    match appendCheck s bed d.header st p count src with
    | some e => kvDone a f d e val s
    | none => kvDone a f d stOk val (kvAppendAt s bed a.pan d.header st p count src)

/-- The append engine's turn at a commit or discard: check 5 of its own, check 7, the log of R421, then the effect. -/
def kvCut (w : Work) (f : RFmt) (bad : State → Nat → Bool) (act : State → Nat → State) (s : State) : State :=
  let a := w.at_
  let id := w.sop 0 % 2 ^ 18
  let d := s.agentDir id
  let val := fun s => hC s d.header
  match kvCheck s a.pan d (fld (w.sop 1) 8 8) with
  | some e => kvDone a f d e val s
  | none =>
    if bad s d.header then kvDone a f d stBadArgument val s
    else if s.poisoned d.header kib64 then kvDone a f d stUnitFailed val s
    else kvDone a f d stOk val (act (logCommit s a.pan id (hC s d.header)) d.header)

def commitRun (w : Work) (f : RFmt) (s : State) : State :=
  let n := w.sop 2 % 2 ^ 11
  kvCut w f
    (fun s h => decide (1024 < n) || (List.range (hStreams s h)).any (fun st => decide ((streamRec s h st).fill < hC s h + n)))
    (fun s h => kvCommitAt s w.at_.pan h n) s

def discardRun (w : Work) (f : RFmt) (s : State) : State :=
  let q := w.sop 2 % 2 ^ 40
  kvCut w f (fun s h => decide (q < hC s h)) (fun s h => kvDiscardAt s w.at_.pan h q) s

end Sys2Proof.Machine
end

