-- ==== Sys2Proof/Machine/Brine.lean ====
section
/-!
DEFINITION. Free brine and its grants (R15, R197, R304, R306), and the zeroing and copying the salter does in memory. -/

namespace Sys2Proof.Machine

/-! ### Free brine -/

/-- First brine offset that the placement of R304 reserves on a pan. -/
def brineLimit (s : State) (p : Nat) : Nat := brineSize - granulesOn s.cfg.variant p * granuleSize

/-- Two ranges of bytes meet. -/
def meets (a n b m : Nat) : Bool := decide (a < b + m) && decide (b < a + n)

/-- A range of a pan's brine that nothing has taken. -/
def brineRangeFree (s : State) (p off n : Nat) : Bool :=
  decide (off + n ≤ brineLimit s p) && (s.pan p).taken.all (fun x => !meets off n x.1 x.2)
    && (s.pan p).relocated.all (fun x => !meets off n x granuleSize)

/-- Brine footprint of a loaded plan on a physical pan, rounded up to 64 KiB (R43, R47). -/
def planBrine (pl : Plan) (p : Nat) : Nat :=
  match findIdxD (fun x => x == p) pl.binding 0 with
  | some j => ceilDiv (((pl.pans[j]?).map PanPlan.brineBytes).getD 0) kib64 * kib64
  | none => 0

def slotBrine (s : State) (slot p : Nat) : Nat := ((s.plan slot).map (fun pl => planBrine pl p)).getD 0

/-- Free brine of a pan, in bytes: neither reserved, nor an agent's, nor a loaded plan's (R306, R329). -/
def freeBrine (s : State) (p : Nat) : Nat :=
  brineLimit s p - (s.pan p).relocated.length * granuleSize - (s.pan p).taken.foldl (fun n x => n + x.2) 0
    - slotBrine s 0 p - slotBrine s 1 p

/-- The first free place of n bytes, a multiple of the alignment, from place k on, counted round m places. -/
def fitFrom (s : State) (p n align m fuel k : Nat) : Option Nat :=
  match fuel with
  | 0 => none
  | f + 1 => if brineRangeFree s p (k % m * align) n then some (k % m * align) else fitFrom s p n align m f (k + 1)

/-- Where the salter places a grant of brine: some free range, which the manual does not name (entry 24). i tells the grants
of one step apart. -/
def placeBrine (s : State) (p n align i : Nat) : Option Nat :=
  let m := brineLimit s p / align
  fitFrom s p n align m m (s.draw (4000000 + i))

def takeBrine (s : State) (p off n : Nat) : State := s.updPan p (fun x => { x with taken := x.taken ++ [(off, n)] })
def freeRange (s : State) (p off : Nat) : State :=
  s.updPan p (fun x => { x with taken := x.taken.filter (fun e => e.1 ≠ off) })

/-- Grants of brine in order, each with its bytes and alignment; none where one does not fit. -/
def grantAll (s : State) (p i : Nat) (want : List (Nat × Nat)) : Option (State × List Nat) :=
  match want with
  | [] => some (s, [])
  | (n, align) :: rest =>
    if n = 0 then (grantAll s p (i + 1) rest).map (fun x => (x.1, 0 :: x.2)) else
    (placeBrine s p n align i).bind (fun off =>
      (grantAll (takeBrine s p off n) p (i + 1) rest).map (fun x => (x.1, off :: x.2)))

/-! ### Zeroing and copying by the salter -/

/-- Lines of a range that something is known of: memory, a partition, a cache, the directory, or a poison mark. -/
def touchedLines (s : State) (pa n : Nat) : List Nat :=
  let lo := pa / 64
  let hi := (pa + n + 63) / 64
  let within (l : Nat) : Bool := decide (lo ≤ l) && decide (l < hi)
  let all : List Nat := s.mem.map (fun e => e.1 / 64) ++ s.coh.part.map Prod.fst ++ s.coh.lines.map (fun e => e.1 % 2 ^ 42)
    ++ s.coh.dir.map Prod.fst ++ s.coh.poison.map Prod.fst
  (all.filter within).eraseDups

/-- A range of whole lines becomes zero, as by full-line cacheless writes (R288). -/
def zeroRange (s : State) (pa n : Nat) : State :=
  (touchedLines s pa n).foldl (fun s l => (invalidate s l none true).homeWrite l (List.replicate 64 0) false none) s

/-- A range of whole lines is copied; poisoned lines keep their mark (entry 25). -/
def copyRange (s : State) (dst src n : Nat) : State :=
  (touchedLines s src n).foldl (fun s l =>
    let cur := s.curLine l
    let t := dst / 64 + (l - src / 64)
    (invalidate s t none true).homeWrite t cur.1 cur.2 none) (zeroRange s dst n)

/-- A range lies in populated LPDDR6. -/
def lpdRange (s : State) (pa n : Nat) : Bool :=
  decide (0 < n) && decide (pa + n ≤ 0x40000000000) &&
    (List.range ((pa + n - 1) / lpdSize - pa / lpdSize + 1)).all (fun i =>
      match place s ((pa / lpdSize + i) * lpdSize) with
      | .lpd _ _ => true
      | _ => false)

/-- A range lies in one pan's populated brine. -/
def brineRange (s : State) (pa n : Nat) : Bool :=
  match place s pa, place s (pa + n - 1) with
  | .brine p _, .brine q _ => decide (0 < n) && decide (p = q) && decide (pa < aliasBase)
  | _, _ => false

end Sys2Proof.Machine
end

