-- ==== Sys2Proof/Machine/Flood.lean ====
section
/-!
DEFINITION. The DMA copy (R203, R344), the flood queues and the tide mover's flood reads (R177 to R183, R220). -/

namespace Sys2Proof.Machine

/-- A refusal at queue time: the translation record with queue = 1, and the status in sd (R342). -/
def queueRefused (a : At) (sd kind : Nat) (x : XFail) (va : Nat) (s : State) : State :=
  putStatus a sd (refusalStatus x.cause) (recordXlat s a.pan a.bed s.slotRun kind true x va)

/-- Pages a range of n bytes can touch. -/
def pageFuel (n : Nat) : Nat := n / 4096 + 2

/-! ### DMA.Q with sub 0 (R203) -/

/-- One side of a copy: a scratch range, or a virtual range with the translations it took. -/
structure Side where
  scratch : Bool
  addr : Nat
  pages : List (Nat × Nat × Nat)
  deriving DecidableEq, Repr

/-- A virtual range is a side of a copy once every page of it passes (R344). -/
def sideOf (pan : Nat) (scratch : Bool) (addr n i : Nat) (need : Need) (s : State) :
    State × Except (XFail × Nat) Side :=
  if scratch then (s, .ok { scratch := true, addr := addr, pages := [] })
  else
    match xlatRange s pan s.slotRun need (pageFuel n) addr n i [] with
    | (s1, .ok g) => (s1, .ok { scratch := false, addr := addr, pages := g })
    | (s1, .error e) => (s1, .error e)

/-- The runs of a virtual range that lie in one page each: the offset in the range, the bytes, and the physical address. -/
def sideRuns (s : State) (x : Side) (fuel off n : Nat) : List (Nat × Nat × Nat) :=
  match fuel with
  | 0 => []
  | k + 1 =>
    if n ≤ off then [] else
    let va := x.addr + off
    let m := min (n - off) (4096 - va % 4096)
    (off, m, (heldPa s x.pages va).getD 0) :: sideRuns s x k (off + m) n

/-- Bytes of a side of a copy as a reader finds them; memory is read as a cacheless agent reads it (R289), and a store that races
may be missed (R221). seen is the bed's scratch as the reader finds it. -/
def sideRead (s : State) (seen : Bed) (v : Viewer) (x : Side) (n : Nat) : List Byte :=
  if x.scratch then seen.scratchBytes x.addr n
  else (sideRuns s x (pageFuel n) 0 n).flatMap (fun r =>
    patch r.2.2 (s.cohBytes r.2.2 r.2.1) (missed v (fun i => s.missBit 41 i) 0 [] s.coh.kept))

/-- Tokens that the reads of a side spend at the stockpile (R322). -/
def sideSpend (s : State) (x : Side) (n : Nat) : State :=
  if x.scratch then s else (sideRuns s x (pageFuel n) 0 n).foldl (fun s r => spendRange s r.2.2 r.2.1 3) s

/-- The first address of a side whose data carries an uncorrectable error. -/
def sideBad (s : State) (d : Bed) (x : Side) (n : Nat) : Option (Nat × Option Nat) :=
  if x.scratch then (if d.scratchErr x.addr n then some (x.addr, none) else none)
  else ((sideRuns s x (pageFuel n) 0 n).find? (fun r => s.poisoned r.2.2 r.2.1)).map (fun r => (x.addr + r.1, some r.2.2))

/-- Writes a side of a copy as a cacheless agent (R288). -/
def sideWrite (s : State) (p b : Nat) (x : Side) (bs : List Byte) : State :=
  if x.scratch then s.updBed p b (fun d => d.poke x.addr bs)
  else (sideRuns s x (pageFuel bs.length) 0 bs.length).foldl
    (fun s r => cachelessWrite s r.2.2 ((bs.drop r.1).take r.2.1)) s

/-- Translations that a bed's flood descriptors hold (R347). -/
def Bed.heldPages (d : Bed) : Nat := d.flood.foldl (fun n e => e.2.descs.foldl (fun n x => n + x.pages.length) n) 0

/-- XLAT.HELD notes the greatest count of translations one bed has held, at most 4,096 (R347, R350). -/
def noteHeld (s : State) (p n : Nat) : State := s.updPan p (fun x => { x with heldMax := max x.heldMax (min n 4096) })

/-- A DMA or flood instruction whose imm32 is zero issues into the DMA queue (R124, R203). -/
def dmaIssue (a : At) (f : RFmt) (n : Nat) (o : WorkOp) (s : State) : State :=
  rakeWide a f.gd f.pm f.sbase n (fun _ => decide (f.imm32 = 0)) s (fun c m s => enqueue c m f.sbase o s)

def execDmaCopy (a : At) (f : RFmt) (s : State) : Host.Outcome State Fault Refusal := go (dmaIssue a f 4 (.copy f) s)

/-- The writes of the DRAM noted since number n are a bed's DMA engine's, or bring in an agent it asked for (R220). -/
def State.tagHome (s : State) (n : Nat) (bed agent : Option Nat) : State :=
  s.updCoh (fun c => { c with homeLog := c.homeLog.map (fun r => if n ≤ r.number then { r with bed := bed, agent := agent } else r) })

/-- The number of a bed in the package. -/
def bedNo (a : At) : Nat := a.pan * 16 + a.bed

/-- The DMA engine's turn at a copy: its ranges are translated (R344), and it is performed whole, or refused, or it faults. -/
def copyRun (w : Work) (f : RFmt) (s : State) : State :=
  let a := w.at_
  let sd := f.sd.toNat
  let src := w.sop 0
  let dst := w.sop 1
  let n := w.sop 2
  let srcS := bitN (w.sop 3) 0
  let dstS := bitN (w.sop 3) 1
  if n = 0 ∨ 2 ^ 32 < n ∨ (srcS ∧ scratchSize < src + n) ∨ (dstS ∧ scratchSize < dst + n) then putStatus a sd stBadArgument s
  else
    match sideOf a.pan srcS src n 0 .r s with
    | (s1, .error e) => queueRefused a sd kDmaSrc e.1 e.2 s1
    | (s1, .ok x) =>
      match sideOf a.pan dstS dst n (pageFuel n) .w s1 with
      | (s2, .error e) => queueRefused a sd kDmaDst e.1 e.2 s2
      | (s3, .ok y) =>
        let d := s3.bed a.pan a.bed
        let s2 := noteHeld s3 a.pan (d.heldPages + x.pages.length + y.pages.length)
        match sideBad s2 d x n with
        | some (va, none) => w.fault fData va s2
        | some (va, some pa) => w.fault fData va (poisonSeen s2 (dieOfPan a.pan) 1 a.bed pa)
        | none =>
          let bs := sideRead s2 (w.seen s2) w.viewer x n
          putStatus a sd stOk ((sideWrite (sideSpend s2 x n) a.pan a.bed y bs).tagHome s.coh.homeNo (some (bedNo a)) none)

/-! ### FLOOD.Q (R178, R179) -/

def Bed.queue (d : Bed) (q : Nat) : FloodQueue := tget {} d.flood q
def Bed.setQueue (d : Bed) (q : Nat) (x : FloodQueue) : Bed := { d with flood := tput {} d.flood q x }

/-- A physical address lies in the populated brine of a pan. -/
def inBrineOf (s : State) (p pa : Nat) : Bool :=
  match place s pa with
  | .brine q _ => decide (q = p)
  | _ => false

/-- Every page of a range lies in the brine of a pan. -/
def rangeInBrine (s : State) (p : Nat) (x : Side) (n : Nat) : Bool :=
  (sideRuns s x (pageFuel n) 0 n).all (fun r => inBrineOf s p r.2.2)

/-- FLOOD.Q goes to the DMA queue (R179). The first that is queued while no flood source is open starts the notes of R220. -/
def execFloodQ (a : At) (f : RFmt) (s : State) : Host.Outcome State Fault Refusal :=
  go (rakeWide a f.gd f.pm f.sbase 3 (fun _ => decide (f.imm32 = 0) && decide (f.sub = 0)) s (fun c m s =>
    enqueue c m f.sbase (.flood f)
      (if s.beds.any (fun e => e.2.floodOpen) then s else s.updCoh (fun z => { z with homeLog := [] }))))

/-- The arguments of a FLOOD.Q are in range (R179). -/
def floodArgs (w : Work) : Bool :=
  decide (w.sop 0 < 4) && decide (w.sop 1 % 64 = 0) && decide (w.sop 2 % 64 = 0) && decide (64 ≤ w.sop 2)
    && decide (w.sop 2 ≤ 2 ^ 32 - 64)

/-- A full flood queue holds its FLOOD.Q in the DMA queue (R179). -/
def floodHeld (s : State) (w : Work) : Bool :=
  floodArgs w && decide (8 ≤ ((s.bed w.at_.pan w.at_.bed).queue (w.sop 0)).descs.length)

/-- Agents whose fetches a bed's DMA engine has asked for and that are not complete. -/
def fetching (s : State) (a : At) : List Nat :=
  s.salter.movers.flatMap (fun e => e.2.filterMap (fun m =>
    match m.origin with
    | .rake p b _ _ => if p = a.pan ∧ b = a.bed ∧ m.spill = false then some m.agent else none
    | .mailbox _ => none
    | .gone => none))

/-- The DMA engine's turn at a FLOOD.Q whose queue has room: the source is translated and the descriptor queued, or it is refused
(R178, R179, R344). -/
def floodRun (w : Work) (f : RFmt) (s : State) : State :=
  let a := w.at_
  let sd := f.sd.toNat
  let va := w.sop 1
  let n := w.sop 2
  if !floodArgs w then putStatus a sd stBadArgument s
  else
    match sideOf a.pan false va n 0 .r s with
    | (s1, .error e) => queueRefused a sd kFlood e.1 e.2 s1
    | (s1, .ok x) =>
      if !rangeInBrine s1 a.pan x n then putStatus a sd stNoRights s1
      else
        let held := (s1.bed a.pan a.bed).heldPages
        let desc : FloodDesc := { va := va, left := n, pages := x.pages.take (4096 - held), slot := s.slotRun,
                                  issued := w.issued, queued := s.coh.homeNo, after := fetching s a }
        putStatus a sd stOk ((noteHeld s1 a.pan (held + x.pages.length)).updBed a.pan a.bed (fun d =>
          let y := d.queue (w.sop 0)
          d.setQueue (w.sop 0) { y with descs := y.descs ++ [desc] }))

/-! ### The tide mover's reads -/

/-- Bytes of a bed's buffer that belong to one queue. -/
def floodPart : Nat := 8192

/-- Where the next 64 bytes of a descriptor lie: a translation it holds, or a re-walk (R344). -/
def floodSource (s : State) (p : Nat) (d : FloodDesc) : State × Except XFail Nat :=
  match heldPa s d.pages d.va with
  | some pa => (s, .ok pa)
  | none =>
    match panXlat s p d.slot .r true d.va 0 with
    | (s1, .ok (pa, _)) => if inBrineOf s1 p pa then (s1, .ok pa) else (s1, .error { cause := cRights, level := 3 })
    | (s1, .error e) => (s1, .error e)

/-- A write of the DRAM that a descriptor's reads do not find: made since its FLOOD.Q issued, but not by the same bed's DMA engine
before it was queued, nor by a fetch it follows (R207, R220). -/
def FloodDesc.hides (d : FloodDesc) (bed : Nat) (r : HomeRec) : Bool :=
  decide (d.issued ≤ r.number) && !(decide (r.bed = some bed) && decide (r.number < d.queued))
    && !(match r.agent with
      | some x => d.after.contains x
      | none => false)

/-- The bytes that stood before the writes that hide says, the latest write first; a write that stays covers older ones. -/
def undone (hide : HomeRec → Bool) (cover : List Nat) (rs : List HomeRec) : List (Nat × Byte) :=
  match rs with
  | [] => []
  | r :: rest =>
    let es := ((List.range r.old.length).map (fun i => r.pa + i)).zip r.old
    if hide r then es.filter (fun e => !cover.contains e.1) ++ undone hide cover rest
    else undone hide (es.map Prod.fst ++ cover) rest

/-- A 64-byte beat of the DRAM as a descriptor finds it. -/
def floodBeat (s : State) (bed : Nat) (d : FloodDesc) (pa : Nat) : List Byte :=
  let near := s.coh.homeLog.filter (fun r => decide (r.pa < pa + 64) && decide (pa < r.pa + r.old.length))
  patch pa (s.memBytes pa 64) (undone (d.hides bed) [] near)

/-- A fetch that the descriptor follows is still under way (R220). -/
def FloodDesc.waits (s : State) (d : FloodDesc) : Bool :=
  s.salter.movers.any (fun e => e.2.any (fun m => !m.spill && d.after.contains m.agent))

/-- FLOOD_FETCH: one 64-byte beat of the first descriptor of a queue that has room, while the brine holds no beats (R312), read from the DRAM itself (R177, R178), as it
stood when the FLOOD.Q issued with the writes of R220. A re-walk that fails ends the descriptor, and a byte that stops the MMA
stands in its place (R344). -/
def execFloodFetch (pan bed queue : Nat) (s : State) : Host.Outcome State Fault Refusal :=
  let x := (s.bed pan bed).queue queue
  match x.descs with
  | [] => go s
  | d :: rest =>
    if !s.onlinePan pan ∨ brineHeld s pan ∨ 3 < queue ∨ floodPart < x.buf.length + 64 ∨ d.waits s then go s
    else
      match floodSource s pan d with
      | (s1, .error e) =>
        let s2 := recordXlat s1 pan bed d.slot kRewalk false e d.va
        go ((s2.updBed pan bed (fun b => b.setQueue queue
          { descs := rest, buf := x.buf ++ [{ val := 0, stopped := true, va := d.va }] })).drawn)
      | (s1, .ok pa) =>
        let bad := s1.homePoison (lineOf pa)
        let bytes := ((List.range 64).zip (floodBeat s1 (pan * 16 + bed) d pa)).map (fun e =>
          ({ val := e.2, bad := bad, va := d.va + e.1 } : FloodByte))
        let descs := if d.left ≤ 64 then rest else { d with va := d.va + 64, left := d.left - 64 } :: rest
        go ((s1.updBed pan bed (fun b => b.setQueue queue { descs := descs, buf := x.buf ++ bytes })).drawn)

/-- A pan's flood queues lose every descriptor and byte; a byte in error that is dropped is logged (R181, R183, R485). -/
def dropFlood (s : State) (p : Nat) : State :=
  (List.range 16).foldl (fun s b =>
    let d := s.bed p b
    let bad := d.flood.any (fun e => e.2.buf.any FloodByte.bad)
    let s1 := if bad then
      s.raise { code := evFloodDropUe, cls := 2, die := dieOfPan p, part := 1, partIndex := b, action := 0 } else s
    s1.updBed p b (fun d => { d with flood := [] })) s

end Sys2Proof.Machine
end

