-- ==== Sys2Proof/Machine/Net.lean ====
section
/-!
DEFINITION. Ports, regions and queue pairs: what leaves a port (R352, R353), a region's rights and bytes (R367 to R369),
completions (R365), the send queue (R365, R366), and release transfers with their markers (R372, R373, R376). -/

namespace Sys2Proof.Machine

/-! ### Ports -/

/-- Frames leave a port whose link is up; those of a port that is down are dropped (R352). -/
def sendFrames (s : State) (j n : Nat) (o : Output) : State :=
  if (s.port j).link then (s.updPort j (fun p => { p with tx := satAdd 32 p.tx n })).emit o else s

/-- A control message to a package of the destination list: on both of its ports that are up (R359). -/
def sendControl (s : State) (ident : Dword) (o : Output) : State :=
  match s.cfg.destinations.find? (fun d => d.ident = ident) with
  | none => s
  | some d =>
    let ports := [d.primary, d.secondary].eraseDups.filter (fun j => (s.port j).link)
    if ports.isEmpty then s
    else
      (ports.foldl (fun s j =>
        s.updPort j (fun p => { p with tx := satAdd 32 p.tx 1, ctlSent := satAdd 32 p.ctlSent 1 })) s).emit o

/-- The package answers every request with an RNR NAK: in DRAINING or FAULT, or while the ports are held (R374, R405). -/
def netHeld (s : State) : Bool := decide (s.pkg.st = .draining) || decide (s.pkg.st = .fault) || s.salter.heldPorts

/-- The I/O dies do not read memory: from step 2 of a drain to its end (R375), and in FAULT. -/
def netStopped (s : State) : Bool := netHeld s

/-! ### Regions (R367 to R369) -/

def rLocalRead := 0
def rLocalWrite := 1
def rRemoteRead := 2
def rRemoteWrite := 3
def rRemoteAtomic := 4

/-- The region a key names, when it is in force and has a right over a range. -/
def regionFor (s : State) (key : Word) (right va n : Nat) : Option Region :=
  match tget none s.salter.regions (key.toNat % 2 ^ 20) with
  | none => none
  | some r =>
    if r.key = key ∧ !r.ending ∧ r.rights.getLsbD right ∧ r.start ≤ va ∧ va + n ≤ r.start + r.len then some r else none

def Region.side (r : Region) (va : Nat) : Side := { scratch := false, addr := va, pages := r.pages }

/-- The protection table lets a cacheless agent at every byte of a range (R339). -/
def regionProtect (s : State) (r : Region) (va n : Nat) (reads : Bool) : Bool :=
  (sideRuns s (r.side va) (pageFuel n) 0 n).all (fun x => protectOk s x.2.2 true reads)

/-- The latest bytes of a range: what an atomic finds (R371, R222). -/
def regionNow (s : State) (r : Region) (va n : Nat) : List Byte :=
  (sideRuns s (r.side va) (pageFuel n) 0 n).flatMap (fun x => s.cohBytes x.2.2 x.2.1)

/-- The bytes of a range as a placement engine reads them: it may miss a racing store of a vector engine (R221). -/
def regionRead (s : State) (r : Region) (va n : Nat) : List Byte := sideRead s {} { core := true } (r.side va) n
def regionWrite (s : State) (r : Region) (va : Nat) (bs : List Byte) : State :=
  (sideRuns s (r.side va) (pageFuel bs.length) 0 bs.length).foldl (fun s x => ioWrite s x.2.2 ((bs.drop x.1).take x.2.1)) s

/-- Tokens that a placement engine's reads spend at the stockpile (R322). -/
def regionSpend (s : State) (r : Region) (va n : Nat) : State :=
  (sideRuns s (r.side va) (pageFuel n) 0 n).foldl (fun s x => spendRange s x.2.2 x.2.1 2) s

def regionBad (s : State) (r : Region) (va n : Nat) : Bool := (sideBad s {} (r.side va) n).isSome

/-! ### Queue pairs -/

def State.updQp (s : State) (q : Nat) (f : Qp → Qp) : State :=
  match s.qp q with
  | none => s
  | some x => s.setQp q (some (f x))

/-- Bytes of a packet's payload. -/
def Qp.mtu (x : Qp) : Nat := 128 * 2 ^ x.pmtu

/-- Packets, and PSNs, of a message of n bytes. -/
def Qp.packets (x : Qp) (n : Nat) : Nat := max 1 (ceilDiv n x.mtu)

def psnAdd (a b : Nat) : Nat := (a + b) % 2 ^ 24

/-- How far PSN a lies ahead of b; values of 2^23 and above lie behind. -/
def psnAhead (a b : Nat) : Nat := (a + 2 ^ 24 - b % 2 ^ 24) % 2 ^ 24

/-- The queue pair is connected for sending. -/
def Qp.canSend (x : Qp) : Bool := decide (x.state = .rts)

def cqEntries (x : Qp) : Nat := 2 ^ x.sqLog + 2 ^ x.rqLog

/-- Completion statuses (R365). -/
def cOk := 0
def cLocalLength := 1
def cLocalProtection := 2
def cRemoteAccess := 3
def cRemoteInvalid := 4
def cRetryExceeded := 5
def cRnrExceeded := 6
def cFlushed := 7
def cDataError := 8

/-- A completion entry is written when its ring position is free; a queue pair whose completion queue is full goes to ERROR
(R365). On the first pass the phase bit is 1 (entry 23). -/
def complete (s : State) (q wr bytes imm opcode status : Nat) : State :=
  match s.qp q with
  | none => s
  | some x =>
    if cqEntries x ≤ x.cqPi - x.cqCi then s.updQp q (fun x => { x with state := .error })
    else
      let pass := x.cqPi / cqEntries x
      let e := leBytes 8 wr ++ leBytes 4 bytes ++ leBytes 4 imm ++ leBytes 2 q ++ leBytes 1 opcode ++ leBytes 1 status
        ++ leBytes 1 ((pass + 1) % 2 + 2 * boolN x.drained) ++ leBytes 11 0
      (ioWrite s (canon s (x.cqBase + x.cqPi % cqEntries x * 32)) e).updQp q
        (fun x => { x with cqPi := x.cqPi + 1, drained := false })

/-! ### The send queue -/

/-- A send queue entry. -/
structure SendEntry where
  opcode : Nat
  signaled : Bool
  fenced : Bool
  imm : Word
  wrId : Nat
  lva : Nat
  lkey : Word
  len : Nat
  rva : Nat
  rkey : Word
  deriving DecidableEq, Repr

def sendEntry (s : State) (x : Qp) (i : Nat) : SendEntry :=
  let b := s.cohBytes (canon s (x.sqBase + i % 2 ^ x.sqLog * 64)) 64
  { opcode := leField b 0 1, signaled := bitN (leField b 1 1) 0, fenced := bitN (leField b 1 1) 1,
    imm := BitVec.ofNat 32 (leField b 4 4), wrId := leField b 8 8, lva := leField b 16 8,
    lkey := BitVec.ofNat 32 (leField b 24 4), len := leField b 28 4, rva := leField b 32 8,
    rkey := BitVec.ofNat 32 (leField b 40 4) }

/-- Tokens that the read of an entry spends (R322). -/
def entrySpend (s : State) (x : Qp) (i : Nat) : State := spendRange s (canon s (x.sqBase + i % 2 ^ x.sqLog * 64)) 64 2

def isRead (op : Nat) : Bool := decide (op = 0x10)

/-- The opcodes a queue pair may send (R362, R365). -/
def opListed (raw : Bool) (op : Nat) : Bool :=
  if raw then decide (op = 0x20) else [0x00, 0x01, 0x08, 0x09, 0x10].contains op

/-- A request leaves on the queue pair's port, with its data as memory now holds it. -/
def transmit (s : State) (q : Nat) (x : Qp) (e : Sent) : State :=
  let data := if isRead e.opcode then [] else if e.rel.isSome ∧ e.inline ≠ [] then e.inline else
    match regionFor s e.lkey rLocalRead e.lva e.len with
    | some r => regionRead s r e.lva e.len
    | none => []
  let s := if data.isEmpty ∨ e.inline ≠ [] then s else
    match regionFor s e.lkey rLocalRead e.lva e.len with
    | some r => regionSpend s r e.lva e.len
    | none => s
  sendFrames s x.port (if isRead e.opcode then 1 else x.packets e.len)
    (.roceRequest x.port q e.opcode e.psn e.len data)

/-- Every request that is open is sent again. -/
def resend (s : State) (q : Nat) : State :=
  match s.qp q with
  | none => s
  | some x => x.sent.foldl (fun s e => transmit s q x e) s

/-- The release transfers of a queue pair that are not done have failed: each goes to the tally (R376, R422). -/
def releaseFailed (s : State) (q : Nat) : State :=
  match s.qp q with
  | none => s
  | some x =>
    let fresh := x.rels.filter (fun r => !r.failed)
    let s1 := s.updQp q (fun x => { x with rels := x.rels.map (fun r => { r with failed := true }) })
    s1.updTally (fun t => { t with steps := t.steps ++ fresh.map (fun r =>
      { result := 5, step := r.step, tide := s.tide.number, slot := r.slot }) })

/-- Open entries of the send queue that have not been sent. -/
def unsentOf (x : Qp) : List Nat := (List.range ((x.sqPi + 65536 - x.sqCi) % 65536)).map (fun i => (x.sqCi + i) % 65536)

/-- The queue pair fails: its open entries complete in order, the first with a status and the others FLUSHED, and it enters
ERROR (R366). Entries of a release transfer write no completion. -/
def qpFail (s : State) (q status : Nat) : State :=
  match s.qp q with
  | none => s
  | some x =>
    let s1 := releaseFailed s q
    let own := (x.sent.filter (fun e => e.rel.isNone)).map (fun e => (e.wrId.toNat, e.opcode))
    let later := (unsentOf x).map (fun i => let e := sendEntry s x i; (e.wrId, e.opcode))
    let all := own ++ later
    let s2 := (((List.range all.length).zip all).foldl (fun s e =>
      complete s q e.2.1 0 0 e.2.2 (if e.1 = 0 then status else cFlushed)) s1)
    s2.updQp q (fun x => { x with state := .error, sent := [], sqCi := x.sqPi, retries := 0, rnrRetries := 0,
                                  rnrWait := none })

/-- One entry is sent, or ends at once with a local error. i tells free values apart. -/
def sendOne (s : State) (q : Nat) (x : Qp) (i : Nat) : State :=
  let e := sendEntry s x i
  let s1 := (entrySpend s x i).updQp q (fun x => { x with sqCi := (i + 1) % 65536 })
  let bad (st : Nat) : State := qpFail (complete s1 q e.wrId 0 0 e.opcode st) q cFlushed
  if !opListed x.raw e.opcode then bad (s.draw 3000 % 10)
  else if 2 ^ 31 < e.len ∨ (x.raw ∧ 9216 < e.len) then bad cLocalLength
  else
    match regionFor s e.lkey (if isRead e.opcode then rLocalWrite else rLocalRead) e.lva e.len with
    | none => bad cLocalProtection
    | some r =>
      if !isRead e.opcode && regionBad s r e.lva e.len then bad cDataError
      else if x.raw then
        let s2 := sendFrames (regionSpend s1 r e.lva e.len) x.port 1 (.frame x.port x.priority (regionRead s r e.lva e.len))
        if e.signaled then complete s2 q e.wrId e.len 0 e.opcode cOk else s2
      else
        let n := x.packets e.len
        let t : Sent :=
          { index := i, opcode := e.opcode, psn := x.sqPsn, last := psnAdd x.sqPsn (n - 1), signaled := e.signaled,
            wrId := BitVec.ofNat 64 e.wrId, len := e.len, lva := e.lva, lkey := e.lkey, rva := e.rva, rkey := e.rkey,
            imm := e.imm }
        transmit (s1.updQp q (fun x => { x with sent := x.sent ++ [t], sqPsn := psnAdd x.sqPsn n })) q x t

/-- Entries are sent in order while the queue pair may send (R362, R365, R405). -/
def pumpSend (fuel : Nat) (s : State) (q : Nat) : State :=
  match fuel with
  | 0 => s
  | k + 1 =>
    match s.qp q with
    | none => s
    | some x =>
      if netStopped s || !x.canSend || decide (x.sqCi = x.sqPi) || x.rnrWait.isSome then s
      else
        let e := sendEntry s x x.sqCi
        let reads := (x.sent.filter (fun t => isRead t.opcode)).length
        if (e.fenced ∧ reads ≠ 0) ∨ (isRead e.opcode ∧ x.maxRd ≤ reads) then s
        else pumpSend k (sendOne s q x x.sqCi) q

def pump (s : State) (q : Nat) : State := pumpSend 65536 s q

/-! ### Release transfers (R373) -/

/-- An entry of a release table. -/
structure RelEntry where
  valid : Bool
  q : Nat
  lkey : Word
  buf0 : Nat
  buf1 : Nat
  dataKey : Word
  markerKey : Word
  rbuf0 : Nat
  rbuf1 : Nat
  rready : Nat
  ringAdd : Nat
  readyAdd : Nat
  deriving DecidableEq, Repr

/-- Entry k of a plan slot's release table as one I/O die has it set. -/
def relEntryAt (s : State) (base k : Nat) : RelEntry :=
  let b := s.cohBytes (canon s (base + 64 * k)) 64
  { valid := bitN (leField b 0 4) 31, q := leField b 0 2, lkey := BitVec.ofNat 32 (leField b 4 4), buf0 := leField b 8 8,
    buf1 := leField b 16 8, dataKey := BitVec.ofNat 32 (leField b 24 4), markerKey := BitVec.ofNat 32 (leField b 28 4),
    rbuf0 := leField b 32 8, rbuf1 := leField b 40 8, rready := leField b 48 8, ringAdd := leField b 56 1,
    readyAdd := leField b 57 1 }

/-- The address of a plan slot's release table, set alike on every I/O die, when it is in use. -/
def relTable (s : State) (slot : Nat) : Option Nat :=
  let d := (List.range s.cfg.variant.ioDies).find? (fun i =>
    if slot = 0 then (s.ioDie i).rel0.1 else (s.ioDie i).rel1.1)
  d.map (fun i => if slot = 0 then (s.ioDie i).rel0.2 else (s.ioDie i).rel1.2)

/-- The valid entry of an output slot; none hands the slot off on the core side. -/
def relEntry (s : State) (slot k : Nat) : Option RelEntry :=
  match relTable s slot with
  | none => none
  | some b =>
    let e := relEntryAt s b k
    if e.valid then some e else none

/-- Slots of the running plan whose valid entry names a queue pair: it serves only release transfers (R373). -/
def relQp (s : State) (q : Nat) : Bool :=
  match s.tide.running with
  | none => false
  | some slot =>
    match s.plan slot with
    | none => false
    | some p => decide (s.pkg.st = .serving) && p.slots.any (fun k =>
        k.output && (match relEntry s slot k.id with
          | some e => decide (e.q = q)
          | none => false))

/-- A cleaning read writes an owner's dirty data to the home as it takes it (R373). -/
def cleanLine (s : State) (l : Nat) : State :=
  match (s.holders l).find? (fun h => h.2.st.dirty) with
  | none => s
  | some h => (s.homeWrite l h.2.data h.2.poison none).partClean l

/-- The release of a slot of a queue pair changes. -/
def Qp.setRel (x : Qp) (slot : Nat) (f : Release → Release) : Qp :=
  { x with rels := x.rels.map (fun r => if r.slot = slot then f r else r) }

/-- The data of a release leaves: one RDMA WRITE of the slot's bytes, read with cleaning reads (R373). -/
def sendRelease (s : State) (q : Nat) (r : Release) (e : RelEntry) : State :=
  match s.qp q with
  | none => s
  | some x =>
    let va := if r.step % 2 = 0 then e.buf0 else e.buf1
    let ra := if (r.step + e.ringAdd) % 2 = 0 then e.rbuf0 else e.rbuf1
    match regionFor s e.lkey rLocalRead va r.bytes with
    | none => releaseFailed (s.updQp q (fun x => { x with state := .error })) q
    | some g =>
      let s1 := (sideRuns s (g.side va) (pageFuel r.bytes) 0 r.bytes).foldl
        (fun s y => (linesOf y.2.2 y.2.1).foldl cleanLine s) s
      let n := x.packets r.bytes
      let t : Sent :=
        { index := 0, opcode := 0x08, psn := x.sqPsn, last := psnAdd x.sqPsn (n - 1), signaled := false, wrId := 0,
          len := r.bytes, lva := va, lkey := e.lkey, rva := ra, rkey := e.dataKey, imm := 0, rel := some r.slot }
      let s2 := s1.updQp q (fun x => { x with sent := x.sent ++ [t], sqPsn := psnAdd x.sqPsn n })
      if netStopped s then s2 else transmit s2 q x t

/-- Starts the transfer of an output slot's buffer of a step; one whose queue pair is not in RTS fails for now (R373,
R376). -/
def startRelease (s : State) (slot k bytes step : Nat) (e : RelEntry) : State :=
  let rel : Release := { planSlot := slot, slot := k, step := step, bytes := bytes }
  match s.qp e.q with
  | none => s.updTally (fun t =>
      { t with steps := t.steps ++ [{ result := 5, step := step, tide := s.tide.number, slot := k }] })
  | some x =>
    let s1 := s.updQp e.q (fun x => { x with rels := x.rels.filter (fun r => r.slot ≠ k) ++ [rel] })
    if !x.canSend then
      (s1.updQp e.q (fun x => x.setRel k (fun r => { r with failed := true }))).updTally (fun t =>
        { t with steps := t.steps ++ [{ result := 5, step := step, tide := s.tide.number, slot := k }] })
    else sendRelease s1 e.q rel e

/-- The marker follows once every data packet is acknowledged: an 8-byte RDMA WRITE of the step and ready_add (R372). -/
def sendMarker (s : State) (q : Nat) (r : Release) : State :=
  match s.qp q with
  | none => s
  | some x =>
    match relEntry s r.planSlot r.slot with
    | none => s
    | some e =>
      let t : Sent :=
        { index := 0, opcode := 0x08, psn := x.sqPsn, last := x.sqPsn, signaled := false, wrId := 0, len := 8, lva := 0,
          lkey := 0, rva := e.rready, rkey := e.markerKey, imm := 0, rel := some r.slot,
          inline := leBytes 8 (r.step + e.readyAdd) }
      let s1 := s.updQp q (fun x => { (x.setRel r.slot (fun r => { r with markerOut := true })) with
        sent := x.sent ++ [t], sqPsn := psnAdd x.sqPsn 1 })
      transmit s1 q x t

/-- The failed releases of a queue pair that is back in RTS are sent again, before the tick that starts the step at which
their buffer is rewritten (R376). -/
def reissueReleases (s : State) (q : Nat) : State :=
  match s.qp q with
  | none => s
  | some x =>
    if !x.canSend then s else
    (x.rels.filter (fun r => r.failed ∧ s.tide.nextStep < r.step + 2 + 1)).foldl (fun s r =>
      match relEntry s r.planSlot r.slot with
      | none => s
      | some e => sendRelease (s.updQp q (fun x => x.setRel r.slot (fun r => { r with markerOut := false }))) q r e) s

end Sys2Proof.Machine
end

