-- ==== Sys2Proof/Machine/Mailbox.lean ====
section
/-!
DEFINITION. Mailboxes (R380 to R388): their bytes, the checks every command passes (R393 to R396), and hand-backs. -/

namespace Sys2Proof.Machine

/-! ### Bytes of a mailbox -/

/-- Bytes of the payload. -/
def Mailbox.bytes (b : Mailbox) (off n : Nat) : List Byte := tgets 0 b.payload off n
def Mailbox.field (b : Mailbox) (off n : Nat) : Nat := leNat (b.bytes off n)

/-- MBOX.HDR (R383). -/
def Mailbox.hdr (b : Mailbox) : Nat :=
  boolN b.owner + b.seq.toNat * 2 + b.command.toNat * 2 ^ 16 + b.length.toNat * 2 ^ 32 + b.status.toNat * 2 ^ 48

/-- MBOX.INFO (R383). -/
def Mailbox.info (b : Mailbox) : Nat := boolN b.held + boolN b.image * 2 + b.detail.toNat * 2 ^ 32

/-- The 64-byte header of a mailbox image. -/
def Mailbox.header (b : Mailbox) : List Byte :=
  leBytes 8 b.hdr ++ leBytes 8 b.info ++ leBytes 8 b.tag.toNat ++ leBytes 8 b.time.toNat ++ leBytes 32 0

/-- The image an MBOX_RESPONSE carries. -/
def Mailbox.imageBytes (b : Mailbox) : List Byte := b.header ++ b.bytes 0 b.length.toNat

def isHost (m : Nat) : Bool := decide (m < 64)
def isRemote (m : Nat) : Bool := decide (64 ≤ m) && decide (m < 72)
def isTray (m : Nat) : Bool := decide (m = 72)

/-- Package state codes (R391). -/
def PkgState.code (p : PkgState) : Nat :=
  match p with
  | .off => 0
  | .crust => 1
  | .liquor => 2
  | .ready => 3
  | .serving => 4
  | .draining => 5
  | .maint => 6
  | .fault => 7

/-- Unit state codes (R392). -/
def UnitState.code (u : UnitState) : Nat :=
  match u with
  | .online => 0
  | .offline => 1
  | .test => 2
  | .failed => 3

/-! ### Hand-back (R386, R387) -/

/-- A response to a party: on its listed ports, else on the port its request came by, with the key's next sequence. -/
def replyTo (s : State) (box key : Nat) (ident : Dword) (port : Nat) (image : List Byte) : State :=
  let seq := tget 0 s.salter.sendSeq key + 1
  let s1 := s.updSalter (fun x => { x with sendSeq := tput 0 x.sendSeq key seq })
  let o := Output.mboxResponse box ident key seq image
  if s.cfg.destinations.any (fun d => d.ident = ident) then sendControl s1 ident o
  else if (s.port port).link then
    (s1.updPort port (fun p => { p with tx := satAdd 32 p.tx 1, ctlSent := satAdd 32 p.ctlSent 1 })).emit o
  else s1

/-- A message to the party that sent a remote mailbox's last request. -/
def sendReply (s : State) (box : Nat) (image : List Byte) : State :=
  match (s.box box).requester with
  | none => s
  | some (key, ident, port) => replyTo s box key ident port image

/-- A remote mailbox's image goes to the party that sent its last request (R360). -/
def respond (s : State) (box : Nat) : State :=
  if !isRemote box then s else
  let img := (s.box box).imageBytes
  (sendReply s box img).updBox box (fun b => { b with lastResponse := some img })

/-- What MBOX.INFO.detail shows: an offset for BAD_ARGUMENT, the state code for WRONG_STATE, else zero (R383). -/
def infoDetail (s : State) (status detail : Nat) : Nat :=
  if status = stBadArgument then detail else if status = stWrongState then s.pkg.st.code else 0

/-- A final hand-back: the response, MBOX.TIME, MBOX.HDR with owner 0, and held cleared. -/
def handBackAt (s : State) (box status detail : Nat) (image : Bool) (resp : List Byte) : State :=
  respond (s.updBox box (fun b => { b with
    owner := false
    held := false
    image := image && decide (status = stBadArgument)
    detail := BitVec.ofNat 32 (infoDetail s status detail)
    status := BitVec.ofNat 16 status
    length := BitVec.ofNat 16 resp.length
    time := BitVec.ofNat 64 s.now
    payload := tputs 0 b.payload 0 resp })) box

def handBack (s : State) (box status : Nat) (resp : List Byte) : State := handBackAt s box status 0 false resp

/-- The ACCEPTED hand-back of a deferred command, which then runs (R387). -/
def accept (s : State) (box : Nat) (d : Deferred) : State :=
  let s1 := s.updBox box (fun b => { b with
    owner := false, held := true, image := false, detail := 0, status := BitVec.ofNat 16 stAccepted, length := 0,
    time := BitVec.ofNat 64 s.now })
  respond (s1.updSalter (fun x => { x with deferred := x.deferred ++ [(box, d)] })) box

/-- A deferred command ends: its final hand-back. -/
def finishAt (s : State) (box status detail : Nat) (image : Bool) (resp : List Byte) : State :=
  handBackAt (s.updSalter (fun x => { x with deferred := x.deferred.filter (fun e => e.1 ≠ box) })) box status detail image
    resp

def finish (s : State) (box status : Nat) (resp : List Byte) : State := finishAt s box status 0 false resp

/-- The deferred command a mailbox waits for. -/
def deferredOf (s : State) (box : Nat) : Option Deferred :=
  (s.salter.deferred.find? (fun e => e.1 = box)).map Prod.snd

/-! ### The checks of R393 -/

/-- What R396 says of a command in a state. -/
inductive Verdict where
  | taken | wrong | busy
  deriving DecidableEq, Repr

/-- Rows of R396 by their pattern over CRUST, LIQUOR, READY, SERVING, DRAINING, MAINT, FAULT. -/
def verdictOf (pat : List Verdict) (p : PkgState) : Verdict :=
  match p with
  | .off => .busy
  | .crust => pat.getD 0 .busy
  | .liquor => pat.getD 1 .busy
  | .ready => pat.getD 2 .busy
  | .serving => pat.getD 3 .busy
  | .draining => pat.getD 4 .busy
  | .maint => pat.getD 5 .busy
  | .fault => pat.getD 6 .busy

def patAll : List Verdict := [.taken, .taken, .taken, .taken, .taken, .taken, .taken]
def patCaps : List Verdict := [.busy, .taken, .taken, .taken, .taken, .taken, .taken]
/-- PLAN_LOAD, TIDE_START, TIDE_STOP. -/
def patPlan : List Verdict := [.busy, .busy, .taken, .taken, .busy, .wrong, .wrong]
/-- Commands taken in READY, SERVING and MAINT. -/
def patWork : List Verdict := [.busy, .busy, .taken, .taken, .busy, .taken, .wrong]
/-- Commands taken in READY, SERVING, MAINT and FAULT. -/
def patKeep : List Verdict := [.busy, .busy, .taken, .taken, .busy, .taken, .taken]

/-- A command: its code, whether host, remote and tray mailboxes may issue it (R394), its row of R396, and its request's
length (R398). -/
structure Cmd where
  code : Nat
  tray : Bool
  hostRemote : Bool
  pat : List Verdict
  lenOk : Mailbox → Bool

/-- A reply of a check that fails: a status and, for BAD_ARGUMENT, the offset of the field. -/
abbrev Refuse := Nat × Nat

def refuse {α : Type} (status : Nat) : Except Refuse α := .error (status, 0)
def badField {α : Type} (off : Nat) : Except Refuse α := .error (stBadArgument, off)

/-- A check: passes, or refuses with a status and an offset. -/
def need (ok : Bool) (status off : Nat) : Except Refuse Unit := if ok then .ok () else .error (status, off)

/-- Whether a mailbox is answered at all: after a failed boot the crust answers the tray mailbox only, and no mailbox when
neither control die completed step 2 (R469), nor before step 2, nor once no control die is left. -/
def answers (s : State) (box : Nat) : Bool :=
  decide (s.pkg.st ≠ .off) && decide (s.ctlState s.salter.active ≠ .failed) && (decide (s.pkg.st ≠ .crust) || decide (2 ≤ s.pkg.bootStep))
    && (decide (s.pkg.st ≠ .fault) || decide (s.pkg.bootStep = 11) || (isTray box && decide (2 ≤ s.pkg.bootStep)))

/-- The request at the front of the latched ones, when it is this mailbox's and carries the command. -/
def requestAt (s : State) (box : Nat) (c : Cmd) : Option Mailbox :=
  if answers s box ∧ s.salter.latched.head? = some box ∧ (s.box box).command.toNat = c.code then some (s.box box)
  else none

/-- The offsets at which a list of reserved (offset, length) ranges is not zero. -/
def nonZero (b : Mailbox) (rs : List (Nat × Nat)) : List Nat :=
  (rs.filter (fun r => (b.bytes r.1 r.2).any (fun x => x ≠ 0))).map Prod.fst

/-- The first of the offending fields: the lowest offset (R383). -/
def lowest (l : List Nat) : Option Nat :=
  match l with
  | [] => none
  | a :: r => some (r.foldl min a)

/-- Steps 2 to 4 of R393: source, package state, length, reserved bytes and the fields' ranges. fields gives each field's
offset and whether it lies in its range. -/
def commonChecks (s : State) (box : Nat) (b : Mailbox) (c : Cmd) (reserved : List (Nat × Nat)) (fields : List (Nat × Bool)) :
    Except Refuse Unit := do
  need (if isTray box then c.tray else c.hostRemote) stNoRights 0
  match verdictOf c.pat s.pkg.st with
  | .wrong => refuse stWrongState
  | .busy => refuse stBusyRetry
  | .taken =>
    need (c.lenOk b) stBadArgument 0xFFFFFFFF
    match lowest (nonZero b reserved ++ (fields.filter (fun f => !f.2)).map Prod.fst) with
    | some o => badField o
    | none => .ok ()

/-- A mailbox command: it is taken off the latched requests, checked, and answered by its body or by the refusal. The body
may refuse too, and then nothing has changed. -/
def command (s : State) (box : Nat) (c : Cmd) (reserved : List (Nat × Nat)) (fields : Mailbox → List (Nat × Bool))
    (body : Mailbox → State → Except Refuse State) : State :=
  match requestAt s box c with
  | none => s
  | some b =>
    let s1 := s.updSalter (fun x => { x with latched := x.latched.drop 1 })
    match (do commonChecks s box b c reserved (fields b); body b s1) with
    | .ok s2 => s2.drawn
    | .error e => handBackAt s1 box e.1 e.2 false []

/-- A command without fields of its own. -/
def noFields (_ : Mailbox) : List (Nat × Bool) := []

/-- A request of a fixed length. -/
def lenIs (n : Nat) (b : Mailbox) : Bool := decide (b.length.toNat = n)

/-! ### Writes by a requester (R384 to R386) -/

/-- A requester's 64-bit write at an offset of its mailbox: ignored and counted while the salter owns or holds the mailbox;
the write that sets owner latches a request. -/
def requesterWrite (s : State) (box off : Nat) (v : Dword) : State :=
  let b := s.box box
  if b.owner ∨ b.held then s.updSalter (fun x => { x with ignored := satAdd 32 x.ignored 1 })
  else if off = 0 then
    let s1 := s.updBox box (fun b => { b with
      owner := v.getLsbD 0, seq := v.extractLsb' 1 15, command := v.extractLsb' 16 16, length := v.extractLsb' 32 16 })
    if v.getLsbD 0 then s1.updSalter (fun x => { x with latched := x.latched ++ [box] }) else s1
  else if off = 0x10 then s.updBox box (fun b => { b with tag := v })
  else if 0x40 ≤ off ∧ off + 8 ≤ 0x1000 ∧ off % 8 = 0 then
    s.updBox box (fun b => { b with payload := tputs 0 b.payload (off - 0x40) (leBytes 8 v.toNat) })
  else s

/-- A read of an offset of a mailbox. -/
def mailboxRead (s : State) (box off : Nat) : Dword :=
  let b := s.box box
  if off = 0 then BitVec.ofNat 64 b.hdr
  else if off = 8 then BitVec.ofNat 64 b.info
  else if off = 0x10 then b.tag
  else if off = 0x18 then b.time
  else if 0x40 ≤ off ∧ off + 8 ≤ 0x1000 then BitVec.ofNat 64 (b.field (off - 0x40) 8)
  else 0

/-- MBOX_REQUESTER_WRITE: host mailboxes by a core, the tray mailbox by the tray controller (R381). -/
def execMboxRequesterWrite (box off : Nat) (val : Dword) (s : State) : Host.Outcome State Fault Refusal :=
  if (isHost box || isTray box) && decide (s.pkg.st ≠ .off) then go (requesterWrite s box off val) else go s

end Sys2Proof.Machine
end

