-- ==== Sys2Proof/Machine/Agents.lean ====
section
/-!
DEFINITION. Agents: AGENT_ADMIT, AGENT_EVICT, AGENT_ADVISE, AGENT_PREFETCH, DMA.Q subs 1 and 2, and migrations (R196 to
R203). -/

namespace Sys2Proof.Machine

/-! ### Conflicts (R395, R492) -/

def moveOf (s : State) (a : Nat) : Bool := s.salter.movers.any (fun e => e.2.any (fun m => m.agent = a))

/-- A deferred command for an agent still runs. -/
def agentBusy (s : State) (a : Nat) : Bool :=
  moveOf s a || s.salter.deferred.any (fun e =>
    match e.2 with
    | .prefetch x _ => decide (x = a)
    | .spill x => decide (x = a)
    | _ => false)

/-- A deferred command for a unit still runs: kind 0 a pan, 1 a core die, 2 an I/O die, 3 a stockpile die. -/
def unitBusy (s : State) (kind i : Nat) : Bool :=
  (decide (kind = 0) && (s.pan i).held) || s.salter.deferred.any (fun e =>
    match e.2 with
    | .panOffline p _ _ => decide (kind = 0 ∧ p = i)
    | .panOnline p => decide (kind = 0 ∧ p = i)
    | .bistRun k x _ _ => decide (k = kind ∧ x = i)
    | _ => false)

def panBusy (s : State) (p : Nat) : Bool := unitBusy s 0 p

/-- Agents that a pan owns (R171). -/
def ownedCount (s : State) (p : Nat) : Nat := (s.agentIds.filter (fun a => (s.agentDir a).ownedBy p)).length

/-! ### Brine that an agent holds -/

/-- The granted page words of an agent: stream, word index and word. -/
def grantedWords (s : State) (h : Nat) : List (Nat × Nat × Nat) :=
  (List.range (hStreams s h)).flatMap (fun st =>
    let r := streamRec s h st
    (List.range r.len).filterMap (fun k =>
      let w := pageWord s h r k
      if wordGranted w then some (st, k, w) else none))

/-- Ends every grant of an agent in its owner's brine: pages, state area and header (R198). -/
def releaseAgent (s : State) (p h : Nat) : State :=
  let pages := (grantedWords s h).map (fun x => fld x.2.2 0 19 * pageSize)
  let state := if hStateUnits s h = 0 then [] else [hStateOff s h * kib64]
  (pages ++ state ++ [h - brineBase p]).foldl (fun s o => freeRange s p o) s

/-- Length of the cold image of an agent (R202). -/
def imageBytes (s : State) (h : Nat) : Nat := kib64 + hStateUnits s h * kib64 + hUsed s h * pageSize

/-! ### AGENT_ADMIT (R197) -/

/-- A stream record of the request: entry_bytes, positions, pages. -/
def admitRec (b : Mailbox) (i : Nat) : Nat × Nat × Nat :=
  (b.field (0x10 + 16 * i) 4, b.field (0x14 + 16 * i) 4, b.field (0x18 + 16 * i) 4)

def entryOk (e : Nat) : Bool := decide (e % 64 = 0) && decide (64 ≤ e) && decide (e ≤ 16384)
def perPage (e : Nat) : Nat := pageSize / e
/-- Directory words that a stream's positions need. -/
def dirLen (e pos : Nat) : Nat := ceilDiv pos (perPage e)

def cmdAgentAdmit : Cmd :=
  { code := 0x20, tray := false, hostRemote := true, pat := patWork,
    lenOk := fun b => lenIs (0x10 + 16 * b.field 6 1) b }

def admitStreams (b : Mailbox) : List Nat := List.range (min 32 (b.field 6 1))

def admitFields (b : Mailbox) : List (Nat × Bool) :=
  [(0, decide (b.field 0 4 ≤ 262143)), (4, decide (b.field 4 2 = 0xFFFF) || decide (b.field 4 2 < 20)),
   (6, decide (1 ≤ b.field 6 1) && decide (b.field 6 1 ≤ 32)), (7, decide (b.field 7 1 = 0)),
   (8, decide (b.field 8 4 ≤ 16384)), (0xC, decide (b.field 0xC 4 = 0))]
  ++ (admitStreams b).flatMap (fun i =>
    let x := admitRec b i
    [(0x10 + 16 * i, entryOk x.1), (0x18 + 16 * i, !entryOk x.1 || decide (x.2.2 ≤ dirLen x.1 x.2.1)),
     (0x1C + 16 * i, decide (b.field (0x1C + 16 * i) 4 = 0))])

/-- The pan the salter chooses for 0xFFFF: the ONLINE pan, not held, that owns the fewest agents, lowest index first. -/
def choosePan (s : State) : Option Nat :=
  let pans := (List.range s.cfg.variant.pans).filter (fun p => s.onlinePan p && !(s.pan p).held)
  match pans with
  | [] => none
  | a :: r => some (r.foldl (fun b p => if ownedCount s p < ownedCount s b then p else b) a)

/-- The owner pan of a request: the one named, when it is ONLINE, or the salter's choice. -/
def admitOwner (s : State) (owner : Nat) : Option Nat :=
  if owner = 0xFFFF then choosePan s else if s.onlinePan owner then some owner else none

/-- Header bytes of a fresh agent's commit line. -/
def commitLine (id state streams gen owner c off units used granted : Nat) : List Byte :=
  leBytes 4 id ++ leBytes 1 state ++ leBytes 1 streams ++ leBytes 1 gen ++ leBytes 1 owner ++ leBytes 8 c ++ leBytes 4 off
    ++ leBytes 4 units ++ leBytes 4 used ++ leBytes 4 granted ++ leBytes 32 0

/-- Writes the stream records and directories of a fresh agent: doff is the next directory's offset, pages the page numbers
granted to the streams in order. -/
def writeStreams (s : State) (h doff i : Nat) (pages : List Nat) (recs : List (Nat × Nat × Nat)) : State :=
  match recs with
  | [] => s
  | (e, pos, n) :: rest =>
    let len := dirLen e pos
    let rec1 := leBytes 4 e ++ leBytes 4 (perPage e) ++ leBytes 8 0 ++ leBytes 4 doff ++ leBytes 4 len
    let words := (pages.take n).flatMap (fun g => leBytes 4 (g + 2 ^ 30))
    let s1 := cachelessWrite (cachelessWrite s (streamPa h i) rec1) (h + doff) words
    writeStreams s1 h (doff + 4 * len) (i + 1) (pages.drop n) rest

/-- The owner pan and the header's address, as responses carry them. -/
def ownerResp (p h : Nat) : List Byte := leBytes 2 p ++ leBytes 6 0 ++ leBytes 8 h

def admitBody (box : Nat) (b : Mailbox) (s : State) : Except Refuse State := do
  let id := b.field 0 4
  let owner := b.field 4 2
  let units := b.field 8 4
  let recs := (admitStreams b).map (admitRec b)
  need (decide (owner = 0xFFFF) || decide (owner < s.cfg.variant.pans)) stNotPresent 0
  need (!(agentBusy s id || (decide (owner ≠ 0xFFFF) && panBusy s owner))) stBusyRetry 0
  need (!(s.agentDir id).valid) stBadArgument 0
  need (decide (recs.foldl (fun n x => n + dirLen x.1 x.2.1) 0 ≤ 15360)) stNoFit 0
  match admitOwner s owner with
  | none => refuse stWrongState
  | some p =>
    let pages := recs.foldl (fun n x => n + x.2.2) 0
    let want := (kib64, kib64) :: (units * kib64, kib64) :: List.replicate pages (pageSize, pageSize)
    if freeBrine s p < kib64 + units * kib64 + pages * pageSize then refuse stNoFit else
    match grantAll s p 0 want with
    | none => refuse stNoFit
    | some (s1, offs) =>
      let h := brineBase p + offs.getD 0 0
      let off := if units = 0 then s.draw 2500 % 2 ^ 20 else offs.getD 1 0 / kib64
      let s2 := ((want.map Prod.fst).zip offs).foldl (fun s x => zeroRange s (brineBase p + x.2) x.1) s1
      let s3 := cachelessWrite s2 h (commitLine id aResident (b.field 6 1) 0 p 0 off units 0 pages)
      let s4 := writeStreams s3 h 0x1000 0 ((offs.drop 2).map (fun o => o / pageSize)) recs
      let s5 := s4.setAgentDir id { valid := true, st := aResident, owner := p, loc := (h - brineBase p) / kib64 }
      .ok (handBack s5 box stOk (ownerResp p h))

def execAgentAdmit (box : Nat) (s : State) : Host.Outcome State Fault Refusal :=
  go (command s box cmdAgentAdmit [] admitFields (admitBody box))

/-! ### AGENT_EVICT (R198) -/

def cmdAgentEvict : Cmd := { code := 0x21, tray := false, hostRemote := true, pat := patWork, lenOk := lenIs 8 }

def agentField (b : Mailbox) : List (Nat × Bool) := [(0, decide (b.field 0 4 ≤ 262143))]

def evictBody (box : Nat) (b : Mailbox) (s : State) : Except Refuse State := do
  let id := b.field 0 4
  let d := s.agentDir id
  need (!agentBusy s id) stBusyRetry 0
  need d.valid stBadArgument 0
  need (decide (d.st ≠ aMovingIn) && decide (d.st ≠ aMovingOut)) stBusyRetry 0
  let s1 := if d.st = aResident then
      let s1 := kvDiscardAt s d.owner d.header (hC s d.header)
      releaseAgent s1 d.owner d.header
    else s
  .ok (handBack (s1.clearAgentDir id) box stOk [])

def execAgentEvict (box : Nat) (s : State) : Host.Outcome State Fault Refusal :=
  go (command s box cmdAgentEvict [(4, 4)] agentField (evictBody box))

/-! ### AGENT_PREFETCH and its checks (R200) -/

/-- The checks of AGENT_PREFETCH; the target pan when they pass. -/
def prefetchCheck (s : State) (id target : Nat) : Except Refuse Nat := do
  need (decide (id ≤ 262143)) stBadArgument 0
  need (decide (target = 0xFFFF) || decide (target < s.cfg.variant.pans)) stNotPresent 0
  need (!(agentBusy s id || (decide (target ≠ 0xFFFF) && panBusy s target))) stBusyRetry 0
  let d := s.agentDir id
  need d.valid stBadArgument 0
  let p := if target = 0xFFFF then d.owner else target
  need (decide (d.st = aCold) && s.onlinePan p && (decide (target ≠ 0xFFFF) || !(s.pan p).held)) stWrongState 0
  let h := d.header
  need (decide (kib64 + hStateUnits s h * kib64 + (grantedWords s h).length * pageSize ≤ freeBrine s p)) stNoFit 0
  .ok p

/-- A move joins the order of a tide mover (R201). -/
def queueMove (s : State) (p : Nat) (m : Migration) : State :=
  s.updSalter (fun x => { x with movers := tput [] x.movers p (tget [] x.movers p ++ [m]) })

def cmdAgentPrefetch : Cmd := { code := 0x22, tray := false, hostRemote := true, pat := patWork, lenOk := lenIs 8 }

def prefetchFields (b : Mailbox) : List (Nat × Bool) :=
  [(0, decide (b.field 0 4 ≤ 262143))]

def execAgentPrefetch (box : Nat) (s : State) : Host.Outcome State Fault Refusal :=
  go (command s box cmdAgentPrefetch [(6, 2)] prefetchFields (fun b s => do
    let id := b.field 0 4
    let p ← prefetchCheck s id (b.field 4 2)
    .ok (queueMove (accept s box (.prefetch id p)) p { agent := id, spill := false, pan := p, origin := .mailbox box })))

/-! ### AGENT_ADVISE (R199) -/

/-- Some position at or above C is tentative. -/
def tentative (s : State) (h : Nat) : Bool :=
  (List.range (hStreams s h)).any (fun st => decide (hC s h < (streamRec s h st).fill))

/-- The checks of AGENT_ADVISE SPILL; the owner when they pass. -/
def spillCheck (s : State) (id pa capacity : Nat) : Except Refuse Nat := do
  need (decide (id ≤ 262143)) stBadArgument 0
  need (decide (pa % kib64 = 0)) stBadArgument 8
  need (!agentBusy s id) stBusyRetry 0
  let d := s.agentDir id
  need d.valid stBadArgument 0
  need (decide (d.st ≠ aMovingIn) && decide (d.st ≠ aMovingOut)) stBusyRetry 0
  need (decide (d.st = aResident)) stWrongState 0
  need (s.onlinePan d.owner && !tentative s d.header) stWrongState 0
  need (decide (imageBytes s d.header ≤ capacity)) stNoFit 0
  need (lpdRange s pa (imageBytes s d.header)) stBadArgument 8
  .ok d.owner

/-- AGENT_ADVISE with an op. -/
def cmdAgentAdvise : Cmd := { code := 0x23, tray := false, hostRemote := true, pat := patWork, lenOk := lenIs 24 }

/-- The request at the front is an AGENT_ADVISE whose op satisfies p. -/
def adviseOp (s : State) (box : Nat) (p : Nat → Bool) : Bool :=
  match requestAt s box cmdAgentAdvise with
  | some b => p (b.field 4 1)
  | none => false

def adviseFields (b : Mailbox) : List (Nat × Bool) :=
  [(0, decide (b.field 0 4 ≤ 262143)), (4, decide (b.field 4 1 ≤ 2))]

def adviseReserved : List (Nat × Nat) := [(5, 3)]

/-- AGENT_ADVISE SPILL, and an AGENT_ADVISE whose op is none of R199's, which is out of its range. -/
def execAgentAdviseSpill (box : Nat) (s : State) : Host.Outcome State Fault Refusal :=
  if !adviseOp s box (fun o => o = 0 || decide (2 < o)) then go s else
  go (command s box cmdAgentAdvise adviseReserved
    (fun b => adviseFields b ++ [(8, decide (b.field 8 8 % kib64 = 0))]) (fun b s => do
    let id := b.field 0 4
    let pa := b.field 8 8
    let p ← spillCheck s id pa (b.field 16 8)
    .ok (queueMove (accept s box (.spill id)) p
      { agent := id, spill := true, pan := p, pa := pa, capacity := b.field 16 8, origin := .mailbox box })))

/-- The checks that GROW and RELEASE share, in the order of R199. -/
def streamCheck (s : State) (id st : Nat) : Except Refuse AgentDir := do
  need (!agentBusy s id) stBusyRetry 0
  let d := s.agentDir id
  need d.valid stBadArgument 0
  need (decide (st < hStreams s d.header)) stBadArgument 8
  need (decide (d.st ≠ aMovingIn) && decide (d.st ≠ aMovingOut)) stBusyRetry 0
  need (decide (d.st ≠ aCold)) stWrongState 0
  .ok d

/-- The commit line with a new count of granted pages. -/
def setGranted (s : State) (h n : Nat) : State := cachelessWrite s (h + 28) (leBytes 4 n)

/-- The words of a stream that a grant of n pages goes to. -/
def ungranted (s : State) (h : Nat) (r : StreamRec) (n : Nat) : List Nat :=
  ((List.range r.len).filter (fun k => !wordGranted (pageWord s h r k))).take n

def execAgentAdviseGrow (box : Nat) (s : State) : Host.Outcome State Fault Refusal :=
  if !adviseOp s box (fun o => o = 1) then go s else
  go (command s box cmdAgentAdvise adviseReserved adviseFields (fun b s => do
    let st := b.field 8 8
    let n := b.field 16 8
    let d ← streamCheck s (b.field 0 4) st
    let h := d.header
    let r := streamRec s h st
    need (decide (n ≤ r.len)) stNoFit 0
    let ks := ungranted s h r n
    need (decide (ks.length = n) && decide (n * pageSize ≤ freeBrine s d.owner)) stNoFit 0
    match grantAll s d.owner 0 (List.replicate n (pageSize, pageSize)) with
    | none => refuse stNoFit
    | some (s1, offs) =>
      let s2 := (ks.zip offs).foldl (fun s x =>
        cachelessWrite (zeroRange s (brineBase d.owner + x.2) pageSize) (wordPa h r x.1) (leBytes 4 (x.2 / pageSize + 2 ^ 30))) s1
      .ok (handBack (setGranted s2 h (hGranted s2 h + n)) box stOk [])))

def execAgentAdviseRelease (box : Nat) (s : State) : Host.Outcome State Fault Refusal :=
  if !adviseOp s box (fun o => o = 2) then go s else
  go (command s box cmdAgentAdvise adviseReserved adviseFields (fun b s => do
    let st := b.field 8 8
    let d ← streamCheck s (b.field 0 4) st
    let h := d.header
    let r := streamRec s h st
    let ks := (List.range r.len).filter (fun k => wordGranted (pageWord s h r k) && !wordUsed (pageWord s h r k))
    let s1 := ks.foldl (fun s k =>
      cachelessWrite (freeRange s d.owner (fld (pageWord s h r k) 0 19 * pageSize)) (wordPa h r k) (leBytes 4 0)) s
    .ok (handBack (setGranted s1 h (hGranted s1 h - ks.length)) box stOk [])))

/-! ### DMA.Q subs 1 and 2 (R203) -/

def execDmaAgentFetch (a : At) (f : RFmt) (s : State) : Host.Outcome State Fault Refusal := go (dmaIssue a f 2 (.agentFetch f) s)
def execDmaAgentSpill (a : At) (f : RFmt) (s : State) : Host.Outcome State Fault Refusal := go (dmaIssue a f 3 (.agentSpill f) s)

/-- The DMA engine's turn at a request for the salter: it is passed on, to a tide mover's order, or its status goes to sd. -/
def dmaRequest (a : At) (sd : Nat) (s : State) (chk : Except Refuse Nat) (m : Nat → Origin → Migration) : State :=
  match chk with
  | .error e => putStatus a sd e.1 s
  | .ok p => queueMove s p (m p (.rake a.pan a.bed a.slot sd))

def fetchRun (w : Work) (f : RFmt) (s : State) : State :=
  dmaRequest w.at_ f.sd.toNat s (prefetchCheck s (w.sop 0) (w.sop 1)) (fun p o =>
    { agent := w.sop 0, spill := false, pan := p, origin := o })

def spillRun (w : Work) (f : RFmt) (s : State) : State :=
  dmaRequest w.at_ f.sd.toNat s (spillCheck s (w.sop 0) (w.sop 1) (w.sop 2)) (fun p o =>
    { agent := w.sop 0, spill := true, pan := p, pa := w.sop 1, capacity := w.sop 2, origin := o })

/-! ### Migrations (R201, R202) -/

def State.mover (s : State) (p : Nat) : List Migration := tget [] s.salter.movers p
def setMover (s : State) (p : Nat) (l : List Migration) : State :=
  s.updSalter (fun x => { x with movers := tput [] x.movers p l })

/-- A migration ends: it leaves its order, and its command or its sd receives the final status. -/
def endMove (s : State) (p : Nat) (m : Migration) (status : Nat) (resp : List Byte) : State :=
  let s1 := setMover s p ((s.mover p).drop 1)
  match m.origin with
  | .mailbox box => finish s1 box status resp
  | .rake q b r sd => s1.updRake q b r (fun k => k.sset sd (BitVec.ofNat 64 status))
  | .gone => s1

/-- The header's copy of the state changes. -/
def headerState (s : State) (h st : Nat) : State := cachelessWrite s (h + 4) (leBytes 1 st)

/-- The state field of a directory word and of its copy in the header changes. -/
def setMoveState (s : State) (a : Nat) (d : AgentDir) (st : Nat) : State :=
  headerState (s.setAgentDir a { d with st := st }) d.header st

/-- Brine a PREFETCH grants: header, state area, and a page for every granted word. -/
def moveWant (s : State) (h : Nat) : List (Nat × Nat) :=
  (kib64, kib64) :: (hStateUnits s h * kib64, kib64) ::
    List.replicate (grantedWords s h).length (pageSize, pageSize)

/-- The head migration starts: a SPILL's agent is MOVING_OUT; a PREFETCH's brine is granted and its agent is MOVING_IN, or
the command completes with NO_FIT. -/
def startMove (s : State) (p : Nat) (m : Migration) : State :=
  let d := s.agentDir m.agent
  let rest := (s.mover p).drop 1
  if m.spill then setMover (setMoveState s m.agent d aMovingOut) p ({ m with started := true } :: rest)
  else
    let h := d.header
    let want := moveWant s h
    if freeBrine s p < want.foldl (fun n x => n + x.1) 0 then endMove s p m stNoFit []
    else
      match grantAll s p 0 want with
      | none => endMove s p m stNoFit []
      | some (s1, offs) =>
        let m1 : Migration := { m with
          started := true, prev := d.owner, header := offs.getD 0 0, ranges := offs.zip (want.map Prod.fst) }
        setMover (s1.setAgentDir m.agent { d with st := aMovingIn, owner := p }) p (m1 :: rest)

/-- The agent a queued KV instruction names. -/
def Work.kvAgent (w : Work) : Option Nat := if w.op.isKv then some (w.sop 0 % 2 ^ 18) else none

/-- A KV instruction for the agent is queued: execution is one step, so none is executing between steps (R201). -/
def kvQueued (s : State) (agent : Nat) : Bool := s.beds.any (fun e => e.2.dq.any (fun w => decide (w.kvAgent = some agent)))

/-- MIGRATION_TEST: the head command of a tide mover starts where no KV instruction for its agent is queued or executing. -/
def execMigrationTest (pan : Nat) (s : State) : Host.Outcome State Fault Refusal :=
  match s.mover pan with
  | [] => go s
  | m :: rest =>
    if m.started ∨ s.pkg.st = .draining ∨ s.pkg.st = .fault ∨ s.pkg.st = .off ∨ 8 ≤ m.tests then go s
    else if kvQueued s m.agent then go (setMover s pan ({ m with tests := m.tests + 1 } :: rest))
    else go (startMove s pan m).drawn

/-- MIGRATION_BUSY: the condition has been false at 8 consecutive tests. -/
def execMigrationBusy (pan : Nat) (s : State) : Host.Outcome State Fault Refusal :=
  match s.mover pan with
  | [] => go s
  | m :: _ => if m.started ∨ m.tests < 8 ∨ s.pkg.st = .draining then go s else go (endMove s pan m stBusyRetry [])

/-- The in_use words of an agent, in stream and word order. -/
def usedWords (s : State) (h : Nat) : List (Nat × Nat × Nat) := (grantedWords s h).filter (fun x => wordUsed x.2.2)

/-- The ordinal of a word in the image: its place among the in_use words; zero for a granted word not in use (R202). -/
def ordinalOf (used : List (Nat × Nat × Nat)) (x : Nat × Nat × Nat) : Nat :=
  (findIdxD (fun y => y.1 == x.1 && y.2.1 == x.2.1) used 0).getD 0

/-- Rewrites page fields of a header: each listed word receives its new page number, its other bits stay. -/
def rewritePages (s : State) (h : Nat) (ws : List ((Nat × Nat × Nat) × Nat)) : State :=
  ws.foldl (fun s e => cachelessWrite s (wordPa h (streamRec s h e.1.1) e.1.2.1)
    (leBytes 4 (e.1.2.2 / 2 ^ 19 * 2 ^ 19 + e.2 % 2 ^ 19))) s

/-- A SPILL is complete: the image is written, the directory word becomes COLD and the brine is freed (R201, R202). -/
def completeSpill (s : State) (p : Nat) (m : Migration) : State :=
  let d := s.agentDir m.agent
  let h := d.header
  let units := hStateUnits s h
  let used := usedWords s h
  let len := imageBytes s h
  let s1 := copyRange s m.pa h kib64
  let s2 := rewritePages s1 m.pa ((grantedWords s h).map (fun x => (x, ordinalOf used x)))
  let s3 := headerState s2 m.pa aCold
  let s4 := if units = 0 then s3 else copyRange s3 (m.pa + kib64) (brineBase p + hStateOff s h * kib64) (units * kib64)
  let s5 := ((List.range used.length).zip used).foldl (fun s x =>
    copyRange s (m.pa + kib64 + units * kib64 + x.1 * pageSize) (brineBase p + fld x.2.2.2 0 19 * pageSize) pageSize) s4
  let s6 := releaseAgent s5 p h
  endMove (s6.setAgentDir m.agent { d with st := aCold, loc := m.pa / kib64 }) p m stOk (leBytes 8 len)

/-- A PREFETCH is complete: the new header, state area and pages hold the image, and the agent is RESIDENT (R200, R202). -/
def completeFetch (s : State) (p : Nat) (m : Migration) : State :=
  let d := s.agentDir m.agent
  let img := d.header
  let units := hStateUnits s img
  let ws := grantedWords s img
  let h := brineBase p + m.header
  let offs := m.ranges.map Prod.fst
  let pages := offs.drop 2
  let s1 := copyRange s h img kib64
  let s2 := rewritePages s1 h (ws.zip (pages.map (fun o => o / pageSize)))
  let s3 := cachelessWrite (headerState s2 h aResident) (h + 7) (leBytes 1 p)
  let s4 := if units = 0 then s3 else
    copyRange (cachelessWrite s3 (h + 16) (leBytes 4 (offs.getD 1 0 / kib64))) (brineBase p + offs.getD 1 0) (img + kib64)
      (units * kib64)
  let s5 := (ws.zip pages).foldl (fun s x =>
    if wordUsed x.1.2.2 then
      copyRange s (brineBase p + x.2) (img + kib64 + units * kib64 + fld x.1.2.2 0 19 * pageSize) pageSize
    else zeroRange s (brineBase p + x.2) pageSize) s4
  endMove (s5.setAgentDir m.agent { valid := true, st := aResident, owner := p, loc := m.header / kib64 }) p m stOk
    (ownerResp p h)

def execMigrationComplete (pan : Nat) (s : State) : Host.Outcome State Fault Refusal :=
  match s.mover pan with
  | [] => go s
  | m :: _ =>
    if !m.started ∨ s.pkg.st = .draining then go s
    else go (if m.spill then completeSpill s pan m else (completeFetch s pan m).tagHome s.coh.homeNo none (some m.agent))

/-- A migration that has started is cut short: its agent is as before and a partial copy is freed (R201). -/
def undoMove (s : State) (p : Nat) (m : Migration) : State :=
  let d := s.agentDir m.agent
  if m.spill then setMoveState s m.agent d aResident
  else
    (m.ranges.filter (fun x => x.2 ≠ 0)).foldl (fun s x => freeRange s p x.1)
      (s.setAgentDir m.agent { d with st := aCold, owner := m.prev })

/-- The started migration of a pan's tide mover, if any, is cut short with a status. -/
def cutMove (status : Nat) (s : State) (p : Nat) : State :=
  match s.mover p with
  | [] => s
  | m :: _ => if m.started then endMove (undoMove s p m) p m status [] else s

/-- Every migration in progress is cut short with BUSY_RETRY (R201, R403). -/
def cutMoves (s : State) : State := (List.range s.cfg.variant.pans).foldl (cutMove stBusyRetry) s

/-- Every move of a pan's tide mover ends: the pan has left ONLINE (entry 27). -/
def dropMoves (s : State) (p status : Nat) : State :=
  (s.mover p).foldl (fun s m => endMove (if m.started then undoMove s p m else s) p m status []) s

end Sys2Proof.Machine
end

