-- ==== Sys2Proof/Machine/Sha.lean ====
section
/-!
DEFINITION. SHA-384, the hash of the measurement registers (R472), over lists of bytes. Its constants are computed from
what defines them: roots of primes. -/

namespace Sys2Proof.Machine

/-- The greatest r below 2^k more than r with r^e ≤ n, found bit by bit from bit k - 1 down. -/
def rootFrom (e n k r : Nat) : Nat :=
  match k with
  | 0 => r
  | j + 1 => rootFrom e n j (if (r + 2 ^ j) ^ e ≤ n then r + 2 ^ j else r)

/-- The first 64 bits of the fraction of the e-th root of p, a number below 2^9. -/
def rootFraction (e p : Nat) : Dword := BitVec.ofNat 64 (rootFrom e (p * 2 ^ (64 * e)) 70 0)

/-- n has no divisor from 2 on below itself. -/
def isPrime (n : Nat) : Bool := decide (2 ≤ n) && (List.range n).all (fun d => decide (d < 2) || decide (n % d ≠ 0))

/-- The 80 primes up to 409. -/
def shaPrimes : List Nat := (List.range 410).filter isPrime

/-- The 80 round constants come from the cube roots of the first 80 primes. -/
def shaK : List Dword := shaPrimes.map (rootFraction 3)

/-- The initial hash of SHA-384 comes from the square roots of the ninth to the sixteenth prime. -/
def shaStart : List Dword := ((shaPrimes.drop 8).take 8).map (rootFraction 2)

/-- The exclusive or of three rotations of a word. -/
def rot3 (x : Dword) (i j k : Nat) : Dword := x.rotateRight i ^^^ x.rotateRight j ^^^ x.rotateRight k

/-- The working words as two histories, the latest value first: four of the words named a to d, four of those named e to h. -/
abbrev ShaWork := List Dword × List Dword

/-- A round puts one new word before each history and drops the oldest. -/
def shaRound (r : ShaWork) (kw : Dword) : ShaWork :=
  match r with
  | ([p, q, u, v], [x, y, z, t]) =>
    let pick := t + rot3 x 14 18 41 + (z ^^^ (x &&& (y ^^^ z))) + kw
    ([pick + rot3 p 28 34 39 + ((p &&& (q ||| u)) ||| (q &&& u)), p, q, u], [v + pick, x, y, z])
  | other => other

/-- The next word of the schedule, from its last 16 words, oldest first. -/
def shaNext (w : List Dword) : Dword :=
  let x := w.getD 1 0
  let y := w.getD 14 0
  w.getD 0 0 + (x.rotateRight 1 ^^^ x.rotateRight 8 ^^^ (x >>> 7)) + w.getD 9 0
    + (y.rotateRight 19 ^^^ y.rotateRight 61 ^^^ (y >>> 6))

/-- Runs one round for each constant left, over the schedule's window of 16 words. -/
def shaRun (ks w : List Dword) (r : ShaWork) : ShaWork :=
  match ks with
  | [] => r
  | k :: rest => shaRun rest (w.tail ++ [shaNext w]) (shaRound r (k + w.headD 0))

/-- n big-endian words of a list of bytes. -/
def beDwords (n : Nat) (bs : List Byte) : List Dword :=
  match n with
  | 0 => []
  | k + 1 => BitVec.ofNat 64 (leNat (bs.take 8).reverse) :: beDwords k (bs.drop 8)

/-- The hash words after one block of 128 bytes. -/
def shaBlock (h : List Dword) (block : List Byte) : List Dword :=
  let r := shaRun shaK (beDwords 16 block) (h.take 4, h.drop 4)
  List.zipWith (· + ·) h (r.1 ++ r.2)

/-- The message with its padding: a set bit, zeros, and the count of its bits in the last 16 bytes of a block. -/
def shaPad (bs : List Byte) : List Byte :=
  let n := bs.length
  bs ++ (0x80#8 :: List.replicate ((239 - n % 128) % 128) 0#8) ++ (leBytes 16 (8 * n)).reverse

/-- Hashes n blocks. -/
def shaBlocks (n : Nat) (h : List Dword) (bs : List Byte) : List Dword :=
  match n with
  | 0 => h
  | k + 1 => shaBlocks k (shaBlock h (bs.take 128)) (bs.drop 128)

/-- The 48 bytes of SHA-384. -/
def sha384 (bs : List Byte) : List Byte :=
  let m := shaPad bs
  ((shaBlocks (m.length / 128) shaStart m).take 6).flatMap (fun w => (leBytes 8 w.toNat).reverse)

end Sys2Proof.Machine
end

