-- ==== Sys2Proof/Machine/Measure.lean ====
section
/-!
DEFINITION. Measurement registers and the repair record (R463, R472). -/

namespace Sys2Proof.Machine

/-- The 48 bytes of a measurement register, most significant first. -/
def mBytes (s : State) (i : Nat) : List Byte :=
  let m := tget 0 s.trust.m i
  (List.range 48).map (fun k => m.extractLsb' (8 * (47 - k)) 8)

/-- Extends a measurement register: M becomes SHA-384 of M followed by the item's SHA-384 (R472). -/
def extendM (s : State) (i : Nat) (item : List Byte) : State :=
  let new := sha384 (mBytes s i ++ sha384 item)
  s.updTrust (fun t =>
    { t with m := tput 0 t.m i (new.foldl (fun (a : BitVec 384) b => (a <<< 8) ||| b.setWidth 384) 0) })

/-- The header of a repair record of the package (R461, R462): its security and image versions are not stated (entry 16). -/
def repairHeader (s : State) (seq : Nat) (body : List Byte) : List Byte :=
  let h := leBytes 4 0x4E474953 ++ leBytes 2 1 ++ leBytes 2 0x11 ++ leBytes 4 (s.draw 5300) ++ leBytes 4 (s.draw 5301)
    ++ leBytes 8 body.length ++ leBytes 8 s.cfg.identity.toNat ++ leBytes 8 seq ++ leBytes 1 1 ++ leBytes 7 0
    ++ sha384 body ++ leBytes 64 0
  h ++ padTo 96 (Config.deviceSign h)

/-- The crust appends a repair record, its sequence one higher than the last, and extends M2 with its header (R463, R472). -/
def repairEntry (s : State) (body : List Byte) : State :=
  let seq := (s.trust.repair.getLast?.map Prod.fst).getD 0 + 1
  extendM (s.updTrust (fun t => { t with repair := t.repair ++ [(seq, body)] })) 2 (repairHeader s seq body)

end Sys2Proof.Machine
end

