-- ==== Sys2Proof/Machine/Context.lean ====
section
/-!
DEFINITION. Context images (R144 to R146, R168), the block barrier and its release (R134, R135). -/

namespace Sys2Proof.Machine

/-! ### Image sections (R146); the bytes inside a section are the model's choice where R146 gives only its size (entry 21) -/

def threadCode (t : Thread) : Nat :=
  match t with
  | .absent => 0
  | .running => 1
  | .atSync _ => 2
  | .atBarrier => 3
  | .exited => 4
  | .beside => 5

/-- A saved thread is running, ended or absent: a block is saved when no thread of it waits. -/
def threadOfCode (n : Nat) : Thread :=
  match n with
  | 0 => .absent
  | 4 => .exited
  | _ => .running

/-- The grain state of a rake in an image, 576 bytes (R168). -/
def grainSection (r : Rake) : List Byte :=
  let d := r.drainKey.getD {}
  laneList.flatMap (fun t => leBytes 16 (tget 0 r.lanes t).toNat)
    ++ padTo 64 (leBytes 8 r.laneKey.seed.toNat ++ leBytes 2 r.laneKey.stream.toNat ++ leBytes 6 0
      ++ leBytes 8 r.laneKey.block ++ leBytes 8 d.seed.toNat ++ leBytes 2 d.stream.toNat
      ++ leBytes 1 (boolN r.drainKey.isSome))

/-- The fixed section of a rake, 1,536 bytes. -/
def rakeSection (r : Rake) : List Byte :=
  laneList.flatMap (fun t => leBytes 8 (r.pc t).toNat)
    ++ laneList.flatMap (fun t => leBytes 1 (threadCode (r.thread t)) ++ leBytes 1 (r.groupOf t))
    ++ (List.range 8).flatMap (fun i => leBytes 4 (r.pget i).toNat)
    ++ (List.range 64).flatMap (fun i => leBytes 8 (r.sget i).toNat)
    ++ grainSection r ++ leBytes 96 0

/-- The vector section of a rake: registers in ascending number, each as 32 lanes. -/
def vectorSection (r : Rake) (groups : Nat) : List Byte :=
  (List.range (groups * 256)).flatMap (fun i => leBytes 4 (r.vget (i / 32) (i % 32)).toNat)

/-- A rake's state from its sections. -/
def rakeRestore (r : Rake) (fx vec : List Byte) (groups : Nat) : Rake :=
  { r with
    pcs := tputs 0 [] 0 (laneList.map (fun t => BitVec.ofNat 64 (leField fx (8 * t) 8)))
    threads := tputs .absent [] 0 (laneList.map (fun t => threadOfCode (leField fx (256 + 2 * t) 1)))
    groups := tputs 0 [] 0 (laneList.map (fun t => leField fx (257 + 2 * t) 1))
    p := tputs 0 [] 0 ((List.range 7).map (fun i => BitVec.ofNat 32 (leField fx (320 + 4 * i) 4)))
    s := tputs 0 [] 0 ((List.range 64).map (fun i => BitVec.ofNat 64 (leField fx (352 + 8 * i) 8)))
    lanes := tputs 0 [] 0 (laneList.map (fun t => BitVec.ofNat 128 (leField fx (864 + 16 * t) 16)))
    laneKey := { seed := BitVec.ofNat 64 (leField fx 1376 8), stream := BitVec.ofNat 16 (leField fx 1384 2),
                 block := leField fx 1392 8 % 2 ^ 43 }
    drainKey := if leField fx 1410 1 = 1 then
        some { seed := BitVec.ofNat 64 (leField fx 1400 8), stream := BitVec.ofNat 16 (leField fx 1408 2) }
      else none
    syncFrom := []
    v := tputs 0 [] 0 ((List.range (groups * 256)).map (fun i => BitVec.ofNat 32 (leField vec (4 * i) 4))) }

/-- First slots of the tiles that a mask saves. -/
def tileBases (d : Bed) (mask : Nat) : List Nat :=
  (List.range 8).filter (fun i =>
    let x := d.slot i
    bitN mask i && decide (x.kind ≠ .empty) && (decide (x.kind ≠ .exact) || decide (x.base = i)))

/-- The image's slot mask: every slot of every tile saved. -/
def slotMaskOf (d : Bed) (mask : Nat) : Nat :=
  (tileBases d mask).foldl (fun m i => (tileSlots (d.slot i).kind i).foldl (fun m j => m ||| 2 ^ j) m) 0

/-- Description of a slot in the block section. -/
def slotHead (d : Bed) (bases : List Nat) (i : Nat) : List Byte :=
  let x := d.slot i
  if bases.contains i then
    leBytes 1 x.kind.code ++ leBytes 1 x.shape ++ leBytes 2 0 ++ leBytes 4 x.kCount ++ leBytes 4 x.products
  else leBytes 12 0

/-- The block section, 256 bytes: the saved block waits at nothing, so no thread counts as arrived. -/
def blockSection (d : Bed) (x : Block) (bases : List Nat) : List Byte :=
  padTo 256 (leBytes 8 x.generation ++ leBytes 8 0 ++ leBytes 128 0 ++ (List.range 8).flatMap (slotHead d bases))

/-- A slot's data, in the layout of MMA.DRAIN to FP32, INT32 or RAW. -/
def slotSection (x : AccSlot) : List Byte :=
  match x.kind with
  | .exact =>
    padTo 64 (leBytes 4 (wrapN 32 x.anchor) ++ leBytes 1 (boolN x.inexact + 2 * boolN x.range + 4 * boolN x.kOver))
      ++ (List.range 16384).flatMap (fun i => leBytes 16 ((tget 0 x.vals i).toNat + 2 ^ 96 * (tget 0 x.tags i).toNat))
  | .empty => []
  | _ => (List.range 16384).flatMap (fun i => leBytes 4 (tget 0 x.vals i).toNat)

def slotBytes (k : SlotKind) : Nat :=
  match k with
  | .empty => 0
  | .exact => 262208
  | _ => 65536

/-- A tile from its description and data. -/
def slotRestore (kind : SlotKind) (hd bs : List Byte) : AccSlot :=
  let shape := leField hd 1 1
  let base : AccSlot := { kind := kind, shape := shape, kCount := leField hd 4 4, products := leField hd 8 4 }
  match kind with
  | .exact =>
    { base with
      anchor := sext 32 (leField bs 0 4)
      inexact := bitN (leField bs 4 1) 0
      range := bitN (leField bs 4 1) 1
      kOver := bitN (leField bs 4 1) 2
      vals := tabulate 16384 (fun i => BitVec.ofNat 96 (leField bs (64 + 16 * i) 12))
      tags := tabulate 16384 (fun i => BitVec.ofNat 2 (leField bs (76 + 16 * i) 1)) }
  | _ => { base with vals := tabulate 16384 (fun i => BitVec.ofNat 96 (leField bs (4 * i) 4)) }

def kindOfCode (n : Nat) : SlotKind :=
  match n with
  | 1 => .fast
  | 2 => .exact
  | 3 => .integer
  | _ => .empty

/-- The image of a block: its header with the CRC over the image with the field at zero, and its sections. -/
def contextImage (s : State) (p b : Nat) (x : Block) (groups mask : Nat) : List Byte :=
  let d := s.bed p b
  let bases := tileBases d mask
  let body := blockSection d x bases
    ++ x.slots.flatMap (fun r => rakeSection (s.rake p b r) ++ vectorSection (s.rake p b r) groups)
    ++ d.scratchBytes x.scratchAddr x.scratchLen
    ++ bases.flatMap (fun i => slotSection (d.slot i))
  let head (crc : Nat) : List Byte := padTo 128
    (leBytes 4 0x58544E43 ++ leBytes 2 1 ++ leBytes 1 32 ++ leBytes 1 x.slots.length ++ leBytes 1 groups
      ++ leBytes 1 (slotMaskOf d mask) ++ leBytes 1 (boolN x.keyed) ++ leBytes 1 0 ++ leBytes 4 x.scratchLen
      ++ leBytes 8 (128 + body.length) ++ leBytes 4 crc)
  head (crc32c (head 0 ++ body)) ++ body

/-! ### Saving and loading (R144, R145) -/

/-- Every rake that waits at the context instruction receives a status in its sd. -/
def ctxStatus (s : State) (p b : Nat) (ws : List (Nat × RFmt × Bool)) (v : Nat) : State :=
  ws.foldl (fun s w => s.updRake p b w.1 (fun r => r.sset w.2.1.sd.toNat (BitVec.ofNat 64 v))) s

/-- The issue a context instruction's fault is taken at: the lowest-numbered rake with a live thread. -/
def ctxIssue (s : State) (p b slot : Nat) : Issue :=
  let r := s.rake p b slot
  let m := r.live
  { a := { pan := p, bed := b, slot := slot, group := r.groupOf ((lanesOf m).headD 0) }, rake := r, active := m,
    pc := r.pc ((lanesOf m).headD 0) }

/-- Vector registers the kernel's rakes hold, in groups of 8. -/
def kernelGroups (d : Bed) : Nat := (d.cur.map Kernel.vregGroups).getD 0

/-- The block as a reader of memory: its own stores have completed (R144). -/
def ctxViewer (s : State) (p b : Nat) (x : Block) : Viewer :=
  { pan := p, bed := b, slot := x.slots.headD 0, block := x.index
    view := x.slots.foldl (fun v r =>
      laneList.foldl (fun v l =>
        tput 0 (mergeView v (tget [] (s.rake p b r).views l)) (threadKey p b r l) s.coh.stores)
        (mergeView v (s.rake p b r).work)) [] }

/-- CTX.SAVE once the block's work has completed: s0 is the state before the barrier's release, s1 after it. -/
def ctxSaveRun (s0 s1 : State) (p b : Nat) (x : Block) (lead : Nat) (f : RFmt) (ws : List (Nat × RFmt × Bool)) : State :=
  let c := ctxIssue s0 p b lead
  let addr := c.sop f.sbase 0
  let cap := c.sop f.sbase 1
  let mask := f.imm32.toNat % 256
  let img := contextImage (ctxStatus s1 p b ws 0x10000) p b x (kernelGroups (s1.bed p b)) mask
  if cap < img.length then ctxStatus s1 p b ws stNoFit
  else
    match sideOf p false addr img.length 0 .w s1 with
    | (_, .error e) =>
      takeFault c { code := fTranslation, addr := e.2, pm := c.active }
        (recordXlat s0 p b s0.slotRun kStore false e.1 e.2)
    | (s2, .ok y) =>
      match (⟨x.scratchAddr, 0, 1, x.scratchLen⟩ : Span).error (s1.bed p b) with
      | some e => takeFault c { code := fData, addr := e, pm := c.active } s0
      | none =>
        let s3 := ctxStatus (sideWrite s2 p b y img) p b ws stOk
        if bitN f.imm32.toNat 8 then x.slots.foldl (fun s r => s.updRake p b r Rake.endThreads) s3 else s3

/-- The length of an image by its own header and slot descriptions. -/
def imageLen (img : List Byte) : Nat :=
  384 + leField img 7 1 * (1536 + leField img 8 1 * 1024) + leField img 12 4
    + (List.range 8).foldl (fun n i => n + slotBytes (kindOfCode (leField img (272 + 12 * i) 1))) 0

/-- The checks of R145 on an image that was read: the status of the first that fails. -/
def imageCheck (d : Bed) (img : List Byte) : Option Nat :=
  let k := d.cur
  if leField img 0 4 ≠ 0x58544E43 ∨ leField img 4 2 ≠ 1 ∨ leField img 16 8 ≠ imageLen img
      ∨ crc32c (img.take 24 ++ leBytes 4 0 ++ img.drop 28) ≠ leField img 24 4 then some stBadArgument
  else if leField img 6 1 ≠ 32 then some stBadArgument
  else if (k.map Kernel.blockRakes).getD 0 < leField img 7 1 then some stNoFit
  else if (k.map Kernel.vregGroups).getD 0 < leField img 8 1 then some stNoFit
  else if (k.map Kernel.scratchPer).getD 0 < leField img 12 4 then some stNoFit
  else if (List.range 8).any (fun i => bitN (leField img 9 1) i && decide ((d.slot i).kind ≠ .empty)) then some stNoFit
  else none

/-- The tiles of an image go into their slots; off is where the first begins. -/
def loadSlots (d : Bed) (img : List Byte) (off i n : Nat) : Bed :=
  match n with
  | 0 => d
  | k + 1 =>
    let hd := (img.drop (128 + 144 + 12 * i)).take 12
    let kind := kindOfCode (leField hd 0 1)
    if kind = .empty then loadSlots d img off (i + 1) k
    else loadSlots (d.form i (slotRestore kind hd ((img.drop off).take (slotBytes kind)))) img (off + slotBytes kind) (i + 1) k

/-- The block's state becomes the image's. -/
def imageRestore (s : State) (p b : Nat) (x : Block) (img : List Byte) : State :=
  let n := leField img 7 1
  let groups := leField img 8 1
  let size := 1536 + groups * 1024
  let scratch := leField img 12 4
  let idx := (List.range x.slots.length).zip x.slots
  let s1 := idx.foldl (fun s e =>
    s.updRake p b e.2 (fun r =>
      if e.1 < n then
        let fx := (img.drop (384 + e.1 * size)).take 1536
        rakeRestore r fx ((img.drop (384 + e.1 * size + 1536)).take (groups * 1024)) groups
      else r.endThreads)) s
  s1.updBed p b (fun d =>
    let d1 := d.poke x.scratchAddr ((img.drop (384 + n * size)).take scratch)
    let d2 := loadSlots d1 img (384 + n * size + scratch) 0 8
    d2.setBlock { x with generation := leField img 128 8, keyed := decide (leField img 10 1 = 1) })

/-- CTX.LOAD once the block's work has completed: the whole image is read before it is checked. An image whose length is not the
one its header gives is no image: it fails with magic, version and CRC (entry 21). -/
def ctxLoadRun (s0 s1 : State) (p b : Nat) (x : Block) (lead : Nat) (f : RFmt) (ws : List (Nat × RFmt × Bool)) : State :=
  let c := ctxIssue s0 p b lead
  let addr := c.sop f.sbase 0
  let v := ctxViewer s0 p b x
  let fault (e : XFail × Nat) : State :=
    takeFault c { code := fTranslation, addr := e.2, pm := c.active } (recordXlat s0 p b s0.slotRun kLoad false e.1 e.2)
  match sideOf p false addr 128 0 .r s1 with
  | (_, .error e) => fault e
  | (s2, .ok h) =>
    let d := s2.bed p b
    if (sideBad s2 d h 128).isSome then ctxStatus s2 p b ws stUnitFailed
    else
      let n := max 128 (leField (sideRead s2 d v h 128) 16 8)
      match sideOf p false addr n 4 .r s2 with
      | (_, .error e) => fault e
      | (s3, .ok y) =>
        if (sideBad s3 d y n).isSome then ctxStatus s3 p b ws stUnitFailed
        else
          let img := sideRead s3 d v y n
          match imageCheck d img with
          | some e => ctxStatus s3 p b ws e
          | none => imageRestore (sideSpend s3 y n) p b x img

/-! ### The barrier (R134) -/

/-- Every live thread of the block has arrived, and some thread has. -/
def barrierMet (s : State) (p b : Nat) (x : Block) : Bool :=
  let ts := x.slots.flatMap (fun r => laneList.map (fun l => (s.rake p b r).thread l))
  ts.any (fun t => decide (t = .atBarrier)) && ts.all (fun t => !t.live || decide (t = .atBarrier))

/-- The threads at the barrier go on at the next instruction, each in its group. -/
def Rake.release (r : Rake) : Rake :=
  laneList.foldl (fun r l => if r.thread l = .atBarrier then (r.setThread l .running).setPc l (r.pc l + 8) else r) r

/-- Matrix, DMA or KV work of a block that has not completed, the agent moves it asked for among it (R144, R218). -/
def blockBusy (s : State) (p b : Nat) (x : Block) : Bool :=
  let d := s.bed p b
  (d.mq ++ d.dq).any (fun w => decide (w.block = x.index)) || s.salter.movers.any (fun e => e.2.any (fun m =>
    match m.origin with
    | .rake q k r _ => decide (q = p) && decide (k = b) && x.slots.contains r
    | .mailbox _ => false
    | .gone => false))

/-- The rake that leads a block's context instruction: the lowest-numbered with a live thread (R144). -/
def leadSlot (s : State) (p b : Nat) (x : Block) : Nat :=
  (x.slots.find? (fun r => decide ((s.rake p b r).live ≠ 0))).getD 0

/-- The arrived threads go on and the next generation starts empty. -/
def releaseBarrier (s : State) (p b : Nat) (x : Block) : State :=
  (x.slots.foldl (fun s r => s.updRake p b r Rake.release) s).updBed p b (fun d =>
    d.setBlock { x with generation := x.generation + 1, waitFrom := none, ctxWait := [], ctxMet := false })

/-- The barrier is met, if it is: every arrived thread goes on and the generation advances; a context instruction that waited at it
goes on to wait for the block's work (R134, R144). -/
def meetBarrier (s : State) (p b i : Nat) : State :=
  match (s.bed p b).block? i with
  | none => s
  | some x =>
    if x.ctxMet || !barrierMet s p b x then s
    else if x.ctxWait.any (fun w => decide (w.1 = leadSlot s p b x)) then
      s.updBed p b (fun d => d.setBlock { x with waitFrom := none, ctxMet := true })
    else releaseBarrier s p b x

/-- A context instruction whose barrier has been met and whose block's work has completed is ready to be performed. -/
def ctxReady (s : State) (p b : Nat) (x : Block) : Bool := x.ctxMet && !blockBusy s p b x

/-- The context instruction of a block is performed. -/
def ctxRun (s : State) (p b i : Nat) : State :=
  match (s.bed p b).block? i with
  | none => s
  | some x =>
    if !ctxReady s p b x then s else
    let s2 := releaseBarrier s p b x
    let lead := leadSlot s p b x
    let x1 := ((s2.bed p b).block? i).getD x
    match x.ctxWait.find? (fun w => w.1 = lead) with
    | none => s2
    | some w =>
      if w.2.2 then ctxLoadRun s s2 p b x1 lead w.2.1 x.ctxWait else ctxSaveRun s s2 p b x1 lead w.2.1 x.ctxWait

/-- Threads arrive at the barrier of their block; the first arrival starts the wait of R135. -/
def arrive (c : Issue) (m : Word) (ctx : Option (RFmt × Bool)) (s : State) : State :=
  let p := c.a.pan
  let b := c.a.bed
  let i := c.block
  let s1 := s.updRake p b c.a.slot (fun r => (lanesOf m).foldl (fun r l => r.setThread l .atBarrier) r)
  let s2 := s1.updBed p b (fun d =>
    match d.block? i with
    | none => d
    | some x => d.setBlock { x with
        waitFrom := some (x.waitFrom.getD s.now)
        ctxWait := x.ctxWait ++ (ctx.map (fun z => (c.a.slot, z.1, z.2))).toList })
  meetBarrier s2 p b i

/-- A context instruction: rake-wide, with pm equal to every live thread of the rake (R131); it waits at the barrier. -/
def ctxIssueOp (a : At) (f : RFmt) (load : Bool) (s : State) : State :=
  bedIssue a s (fun c s =>
    match c.pmask f.pm with
    | none => illegal
    | some m =>
      if !guardAlways f.gd then .error { code := fIllegal, pm := m }
      else if operandWait a s (f.pm.toNat :: (List.range (if load then 1 else 2)).map (fun j => 8 * f.sbase.toNat + j)) then waits
      else if c.active ≠ m ∨ c.rake.live ≠ m then .error { code := fMask, pm := m }
      else .ok (arrive c m (some (f, load)) s))

def execCtxSave (a : At) (f : RFmt) (s : State) : Host.Outcome State Fault Refusal := go (ctxIssueOp a f false s)
def execCtxLoad (a : At) (f : RFmt) (s : State) : Host.Outcome State Fault Refusal := go (ctxIssueOp a f true s)

end Sys2Proof.Machine
end

