-- ==== Sys2Proof/Machine/Control.lean ====
section
/-!
DEFINITION. Branches, groups and their merging (R118, R125 to R127, R130), EXIT, the block barrier (R134), orphaned waits
(R135), FENCE, TRAP and NOP (R137, R141, R214), and words that are no instruction (R115). -/

namespace Sys2Proof.Machine

/-- Fields of format C (R118). -/
def cField (f : CFmt) (lo len : Nat) : Nat := fld f.body.toNat lo len

/-- The target of a branch: a signed offset in instructions from the next one. -/
def branchTarget (c : Issue) (f : CFmt) : Dword := c.pc + 8 + 8 * BitVec.ofInt 64 (sext 32 (cField f 0 32))

/-- The threads of a mask form a group of a number. -/
def Rake.regroup (r : Rake) (m : Word) (g : Nat) : Rake := (lanesOf m).foldl (fun r l => r.setGroup l g) r

/-- The issuing group splits: the threads of m go to a target, the others to the next instruction. When both sets are not
empty the first become a group of a number of their own (R125). -/
def splitJump (c : Issue) (r : Rake) (m : Word) (target : Dword) : Rake :=
  let rest := c.active &&& ~~~m
  let r1 := (r.jump m target).jump rest (c.pc + 8)
  if m = 0 ∨ rest = 0 then r1 else r1.regroup m r.freshGroup

def execBra (a : At) (f : CFmt) (s : State) : Host.Outcome State Fault Refusal :=
  go (bedIssue a s (fun c s => .ok (c.put s (splitJump c c.rake (c.guarded f.gd) (branchTarget c f)))))

/-- CALL: BRA, and the guarded threads receive the return address in the pair vd. -/
def execCall (a : At) (f : CFmt) (s : State) : Host.Outcome State Fault Refusal :=
  go (bedIssue a s (fun c s =>
    let m := c.guarded f.gd
    let vd := cField f 44 8
    if m ≠ 0 ∧ !c.rake.regOk vd 2 then illegal
    else
      let r := (lanesOf m).foldl (fun r l => r.setWide vd 2 l (c.pc + 8).toNat) c.rake
      .ok (c.put s (splitJump c r m (branchTarget c f)))))

/-- The distinct values of a list, in order of first appearance. -/
def distinct (xs : List Dword) : List Dword := xs.eraseDups

/-- The threads of m go each to its own target, one group per distinct target; the first keeps the group's number unless
some threads go on at the next instruction. -/
def splitTargets (c : Issue) (r : Rake) (m : Word) (target : Nat → Dword) : Rake :=
  let rest := c.active &&& ~~~m
  let r0 := r.jump rest (c.pc + 8)
  let ts := distinct ((lanesOf m).map target)
  let first := decide (rest = 0)
  (ts.foldl (fun (x : Rake × Bool) t =>
    let mt := maskOf (fun l => lane m l && decide (target l = t))
    let r1 := x.1.jump mt t
    (if x.2 then r1 else r1.regroup mt x.1.freshGroup, false)) (r0, first)).1

def execBrx (a : At) (f : CFmt) (s : State) : Host.Outcome State Fault Refusal :=
  go (bedIssue a s (fun c s =>
    let m := c.guarded f.gd
    let va := cField f 36 8
    if m ≠ 0 ∧ !c.rake.regOk va 2 then illegal
    else .ok (c.put s (splitTargets c c.rake m (fun l => BitVec.ofNat 64 (c.rake.wide va 2 l))))))

/-- SBRA: the whole group branches when s[sa] is not zero and its guard holds for some thread (R118, R130). -/
def execSbra (a : At) (f : CFmt) (s : State) : Host.Outcome State Fault Refusal :=
  go (bedIssue a s (fun c s =>
    let sa := cField f 40 6
    if c.guarded f.gd ≠ 0 ∧ operandWait a s [sa] then waits
    else
      let take := decide (c.guarded f.gd ≠ 0) && decide (c.rake.sget sa ≠ 0)
      .ok (c.put s (c.rake.jump c.active (if take then branchTarget c f else c.pc + 8)))))

/-! ### SYNC.RAKE (R126, R127) -/

/-- Every live thread of m waits at the instruction at pc with the mask m. -/
def syncMet (r : Rake) (m : Word) (pc : Dword) : Bool :=
  (lanesOf (r.live &&& m)).all (fun l => decide (r.thread l = .atSync m) && decide (r.pc l = pc))

/-- The threads that stand beside waiting threads of a mask: of one group with them. -/
def Rake.besides (r : Rake) (w : Word) : Word :=
  maskOf (fun l => decide (r.thread l = .beside) && (lanesOf w).any (fun k => decide (r.groupOf k = r.groupOf l)))

/-- The wait a lane stands in, if it is over: its threads, with those that stand beside them, form one group, which goes on at the
next instruction. -/
def syncLane (r : Rake) (l : Nat) : Rake :=
  match r.thread l with
  | .atSync m =>
    if syncMet r m (r.pc l) then
      let w := (r.live &&& m) ||| r.besides (r.live &&& m)
      let r1 := ((lanesOf w).foldl (fun r l => { r.setThread l .running with syncFrom := tput none r.syncFrom l none }) r).jump w
        (r.pc l + 8)
      r1.regroup w r.freshGroup
    else r
  | _ => r

/-- Every wait of the rake that is over ends. -/
def Rake.syncAll (r : Rake) : Rake := laneList.foldl syncLane r

/-- Package time of the first arrival of the wait with mask m at pc, if some thread stands in it (R135). -/
def Rake.firstSync (r : Rake) (m : Word) (pc : Dword) : Option Nat :=
  laneList.findSome? (fun l =>
    if r.thread l = .atSync m ∧ r.pc l = pc then tget none r.syncFrom l else none)

/-- The threads of g wait at the instruction of the issue with mask m; the others of the group stand beside them, since the
instruction does not split a group (R125, R127; entry 22). -/
def Rake.waitSync (r : Rake) (c : Issue) (g m : Word) (now : Nat) : Rake :=
  let t0 := (r.firstSync m c.pc).getD now
  let r1 := (lanesOf g).foldl (fun r l => { r.setThread l (.atSync m) with syncFrom := tput none r.syncFrom l (some t0) }) r
  (lanesOf (c.active &&& ~~~g)).foldl (fun r l => r.setThread l .beside) r1

/-- SYNC.RAKE: the guarded threads wait; with none guarded the group goes on. -/
def execSyncRake (a : At) (f : CFmt) (s : State) : Host.Outcome State Fault Refusal :=
  go (bedIssue a s (fun c s =>
    let g := c.guarded f.gd
    let pm : BitVec 7 := f.body.extractLsb' 45 7
    if g = 0 then .ok (advance c s)
    else
      match c.pmask pm with
      | none => illegal
      | some m =>
        if operandWait a s [pm.toNat] then waits
        else if g &&& ~~~m ≠ 0 then .error { code := fMask, pm := m }
        else .ok (c.put s (c.rake.waitSync c g m s.now).syncAll)))

/-! ### EXIT and BAR.BLOCK -/

/-- EXIT ends the guarded threads; the waits they leave may be over (R125, R127, R134). -/
def execExit (a : At) (f : CFmt) (s : State) : Host.Outcome State Fault Refusal :=
  go (bedIssue a s (fun c s =>
    let m := c.guarded f.gd
    let r1 := (lanesOf m).foldl (fun r l => r.setThread l .exited) (c.rake.jump (c.active &&& ~~~m) (c.pc + 8))
    .ok (meetBarrier (c.put s r1.syncAll) a.pan a.bed (c.rake.home.getD (0, 0)).1)))

/-- BAR.BLOCK: the guarded threads arrive and wait, the others go on as another group (R134). -/
def execBarBlock (a : At) (f : CFmt) (s : State) : Host.Outcome State Fault Refusal :=
  go (bedIssue a s (fun c s =>
    let m := c.guarded f.gd
    let rest := c.active &&& ~~~m
    if m = 0 then .ok (advance c s)
    else
      let r1 := c.rake.jump rest (c.pc + 8)
      let r2 := if rest = 0 then r1 else r1.regroup rest c.rake.freshGroup
      .ok (arrive c m none (c.put s r2))))

/-! ### FENCE, TRAP and NOP -/

/-- A store of a thread of a mask of the issuing rake. -/
def Issue.ownStore (c : Issue) (m : Word) (r : StoreRec) : Bool :=
  decide (r.pan = c.a.pan) && decide (r.bed = c.a.bed) && decide (r.slot = c.a.slot) && lane m r.lane

/-- What happens before a release fence of the group: the stores of its threads so far, and what they go on after (R213). -/
def Issue.before (c : Issue) (n : Nat) : View :=
  (lanesOf c.active).foldl (fun v l =>
    mergeView (tput 0 v (threadKey c.a.pan c.a.bed c.a.slot l) n) (tget [] c.rake.views l)) []

/-- The acquire half of a fence: the group and its rake's later work go on after what the group's reads synchronise with. -/
def fenceAcquire (c : Issue) (scope : Nat) (r : Rake) : Rake :=
  let ms := (lanesOf c.active).flatMap (fun l => tget [] r.reads l)
  r.after c.active (learned ms scope (c.viewer 0)) true

/-- The release half: the group's later stores carry the fence's mark, and the rake's later work goes on after it. -/
def fenceRelease (c : Issue) (scope n : Nat) (r : Rake) : Rake :=
  let v := c.before n
  let mark : RelMark := { pan := c.a.pan, bed := c.a.bed, slot := c.a.slot, block := c.block, scope := scope, view := v }
  { ((lanesOf c.active).foldl (fun r l =>
      { r with rels := tput [] r.rels l ((tget [] r.rels l).filter (fun k => k.scope ≠ scope) ++ [mark]) }) r) with
    work := mergeView r.work v }

/-- FENCE at a scope (R137, R213, R214): kind 0 acquires, kind 1 releases, kind 2 does both and has the group's stores performed at
the scope; a release waits until what the rake queued has completed. Kind 3 is reserved (R118). -/
def execFence (a : At) (f : CFmt) (s : State) : Host.Outcome State Fault Refusal :=
  go (bedNext a s (fun c s =>
    let kind := cField f 2 2
    let scope := cField f 0 2
    if c.guarded f.gd = 0 then .ok s
    else if kind = 3 then illegal
    else if kind ≠ 0 ∧ rakeBusy a s then waits
    else
      let r1 := if kind ≠ 1 then fenceAcquire c scope c.rake else c.rake
      let r2 := if kind ≠ 0 then fenceRelease c scope s.coh.stores r1 else r1
      let s1 := c.put s (if kind = 2 then r2.after c.active (c.before s.coh.stores) true else r2)
      if kind ≠ 2 then .ok s1
      else
        .ok ((s1.updCoh (fun z => { z with kept := perform scope (c.ownStore c.active) z.kept })).updBed a.pan a.bed
          (fun d => { d with kept := perform scope (c.ownStore c.active) d.kept }))))

/-- TRAP: the code is recorded as the fault's address (R141). -/
def execTrap (a : At) (f : CFmt) (s : State) : Host.Outcome State Fault Refusal :=
  go (bedNext a s (fun c s => if c.guarded f.gd = 0 then .ok s else .error { code := fTrap, addr := cField f 0 16 }))

def execNop (a : At) (_f : CFmt) (s : State) : Host.Outcome State Fault Refusal := go (bedNext a s (fun _ s => .ok s))

/-! ### Words that are no instruction (R115) -/

def vReserved (f : VFmt) (st : Bool) : Bool :=
  (vtype f.type.toNat).isNone || decide (f.bmode = 3) || decide (f.rnd = 3) || (!st && decide (f.rnd = 2))

def pmReserved (gd : Guard) (pm : BitVec 7) : Bool := !guardAlways gd || decide (0x40 < pm.toNat)

def mReserved (f : MFmt) : Bool := decide (4 < f.size.toNat) || decide (1 < f.space.toNat)

/-- Whether a field of the instruction holds a reserved code or a guard R130 does not allow; the guard of the instruction and
whether it acts rake-wide. The rules of a register allocation (R113) are the instruction's own. -/
def reservedField (i : Instr) : Option (Guard × Bool) :=
  let v (f : VFmt) (bad : Bool) : Option (Guard × Bool) := if bad then some (f.gd, false) else none
  let l (f : LFmt) (bad : Bool) : Option (Guard × Bool) :=
    if pmReserved f.gd f.pm || bad then some (f.gd, true) else none
  let r (f : RFmt) (bad : Bool) : Option (Guard × Bool) :=
    if pmReserved f.gd f.pm || bad then some (f.gd, true) else none
  let m (f : MFmt) (bad : Bool) : Option (Guard × Bool) := if mReserved f || bad then some (f.gd, false) else none
  let x (f : XFmt) (bad : Bool) : Option (Guard × Bool) :=
    if pmReserved f.gd f.pm || bad then some (f.gd, true) else none
  match i with
  | .vadd _ f => v f (vReserved f false)
  | .vsub _ f => v f (vReserved f false)
  | .vmul _ f => v f (vReserved f false)
  | .vfma _ f => v f (vReserved f false)
  | .vmin _ f => v f (vReserved f false)
  | .vmax _ f => v f (vReserved f false)
  | .vcmp _ f => v f (vReserved f false || decide (6 < f.sub.toNat))
  | .vsel _ f => v f (vReserved f false)
  | .vand _ f => v f (vReserved f false)
  | .vor _ f => v f (vReserved f false)
  | .vxor _ f => v f (vReserved f false)
  | .vshl _ f => v f (vReserved f false)
  | .vshr _ f => v f (vReserved f false || decide (1 < f.sub.toNat))
  | .vmov _ f => v f (vReserved f false)
  | .vcvt _ f => v f (vReserved f (cvtIsPair f) || (vtype f.sub.toNat).isNone)
  | .vadd96 _ f => v f (vReserved f false)
  | .vrcp _ f => v f (vReserved f false)
  | .vrsq _ f => v f (vReserved f false)
  | .vexp2 _ f => v f (vReserved f false)
  | .vlog2 _ f => v f (vReserved f false)
  | .vsin _ f => v f (vReserved f false)
  | .vcos _ f => v f (vReserved f false)
  | .vlane _ f => v f (vReserved f false)
  | .vbits _ f => v f (vReserved f false || decide (1 < f.sub.toNat))
  | .grainDraw _ f => v f (vReserved f false || !drawLegal f)
  | .dropmask _ f => v f (vReserved f false || decide (f.type ≠ 4))
  | .scmp _ f => if f.imm32.toNat % 8 = 7 then some (f.gd, false) else none
  | .sread _ f => if 6 < f.imm32.toNat % 256 then some (f.gd, false) else none
  | .fence _ f => if cField f 2 2 = 3 then some (f.gd, false) else none
  | .syncRake _ f => if 0x40 < cField f 45 7 then some (f.gd, false) else none
  | .ld _ f => m f false
  | .st _ f => m f false
  | .atom _ f => m f (decide (9 < f.aop.toNat) || (decide (f.size ≠ 2) && decide (f.size ≠ 3)))
  | .atomCas _ f => m f (decide (f.aop ≠ 0) || (decide (f.size ≠ 2) && decide (f.size ≠ 3)))
  | .shfl _ f => l f ((vtype f.type.toNat).isNone || decide (3 < f.sub.toNat))
  | .vote _ f => l f ((vtype f.type.toNat).isNone || decide (2 < f.sub.toNat))
  | .bcast _ f => l f ((vtype f.type.toNat).isNone || decide (f.sub ≠ 0))
  | .reduce _ f => l f ((vtype f.type.toNat).isNone || decide (6 < f.sub.toNat))
  | .scan _ f => l f ((vtype f.type.toNat).isNone || decide (2 < f.sub.toNat))
  | .sample _ f => l f (decide (f.sub ≠ 0) || (decide (f.type ≠ 4) && decide (f.type ≠ 5)))
  | .mma _ f => x f (!mmaLegal f)
  | .mmaDrain _ f => x f false
  | .mmaLoad _ f => x f (!loadLegal f)
  | .mmaStat _ f => x f false
  | .grainKeyLane _ f => r f false
  | .grainKeyDrain _ f => r f false
  | .kvAppend _ f => r f (decide (f.imm32 ≠ 0))
  | .kvCommit _ f => r f (decide (f.imm32 ≠ 0))
  | .kvDiscard _ f => r f (decide (f.imm32 ≠ 0))
  | .dmaCopy _ f => r f (decide (f.imm32 ≠ 0))
  | .dmaAgentFetch _ f => r f (decide (f.imm32 ≠ 0))
  | .dmaAgentSpill _ f => r f (decide (f.imm32 ≠ 0))
  | .floodQ _ f => r f (decide (f.imm32 ≠ 0) || decide (f.sub ≠ 0))
  | .ctxSave _ f => r f false
  | .ctxLoad _ f => r f false
  | _ => none

/-- ILLEGAL_INSTRUCTION: a word with an opcode that is not listed, or with a reserved code in a field, faults; a per-thread
instruction under an all-false guard takes no fault, and a legal word is no such event (R115, R130, entry 9). -/
def execIllegalInstruction (a : At) (word : Dword) (s : State) : Host.Outcome State Fault Refusal :=
  match decodeBed a word with
  | none => go (bedNext a s (fun _ _ => illegal))
  | some i =>
    match reservedField i with
    | none => go s
    | some (gd, wide) => go (bedNext a s (fun c s => if !wide && decide (c.guarded gd = 0) then .ok s else illegal))

/-! ### BARRIER_ORPHAN (R135) -/

/-- Nanoseconds of a tick of the running plan (R27). -/
def tickTime (t : Tide) (n : Nat) : Nat := t.epochSec * 1000000000 + t.epochNs + n * t.periodUs * 1000

/-- A deadline of R135 has passed for a wait that began at a time: the watchdog may have run out where it is not zero (its
cycles are left to the caller, entry 12), or a tide tick has fired since. -/
def orphanDue (s : State) (watchdog : Nat) (wait : Option Nat) : Bool :=
  match wait with
  | none => false
  | some t0 => decide (watchdog ≠ 0) || (s.tide.running.isSome && decide (t0 < tickTime s.tide s.tide.number))

/-- The record and event of a fault that no instruction takes. -/
def orphanRecord (s : State) (p b i : Nat) (rakeIdx : Nat) (r : Rake) (arrived waitedFor : Word) : State :=
  let pc := r.pc ((lanesOf waitedFor).headD 0)
  let k := (s.bed p b).kernel
  let s1 := s.updBed p b (fun d => d.record fOrphan rakeIdx i pc waitedFor arrived 0)
  blockAbort (s1.raise { code := evBedFault, cls := 0, die := dieOfPan p, part := 1, partIndex := b, action := 3,
                         detail := fOrphan + k * 65536, detail2 := i }) p b i

/-- A barrier wait that is orphaned: the record names the lowest rake with a live thread not arrived. -/
def orphanBarrier (s : State) (p b : Nat) (x : Block) : State :=
  let out (r : Rake) : Word := maskOf (fun l => (r.thread l).live && decide (r.thread l ≠ .atBarrier))
  let at_ (r : Rake) : Word := maskOf (fun l => decide (r.thread l = .atBarrier))
  let idx := (findIdxD (fun k => decide (out (s.rake p b k) ≠ 0)) x.slots 0).getD 0
  let r := s.rake p b (x.slots.getD idx 0)
  orphanRecord s p b x.index idx r (at_ r) (out r)

/-- The first arrival of the earliest wait at a SYNC.RAKE of a rake. -/
def Rake.earliestSync (r : Rake) : Option Nat :=
  laneList.foldl (fun (m : Option Nat) l =>
    match tget none r.syncFrom l, m with
    | some t, some k => some (min t k)
    | some t, none => some t
    | none, k => k) none

/-- The wait at a SYNC.RAKE of a rake that began first is orphaned: the record names the threads of its mask that have not arrived. -/
def orphanSync (s : State) (p b : Nat) (x : Block) (idx : Nat) : State :=
  let r := s.rake p b (x.slots.getD idx 0)
  match laneList.find? (fun l => decide (tget none r.syncFrom l ≠ none) && decide (tget none r.syncFrom l = r.earliestSync)) with
  | none => s
  | some k =>
    match r.thread k with
    | .atSync m =>
      let arrived := maskOf (fun l => decide (r.thread l = .atSync m) && decide (r.pc l = r.pc k))
      orphanRecord s p b x.index idx r arrived (r.live &&& m &&& ~~~arrived)
    | _ => s

/-- A wait that began at t, and where: none the barrier, some k the SYNC.RAKE of rake k; the earlier of two. -/
def earlierWait (x y : Option (Nat × Option Nat)) : Option (Nat × Option Nat) :=
  match x, y with
  | some a, some b => if b.1 < a.1 then some b else some a
  | some a, none => some a
  | none, y => y

/-- The wait of a block that began first, whose deadline comes first (R135). -/
def firstWait (s : State) (p b : Nat) (x : Block) : Option (Nat × Option Nat) :=
  ((List.range x.slots.length).zip x.slots).foldl (fun w e =>
    earlierWait w ((s.rake p b e.2).earliestSync.map (fun t => (t, some e.1))))
    (x.waitFrom.map (fun t => (t, none)))

/-- BARRIER_ORPHAN: a wait of the block has reached its deadline, and the block is aborted. -/
def execBarrierOrphan (pan bed index : Nat) (s : State) : Host.Outcome State Fault Refusal :=
  let d := s.bed pan bed
  match d.block? index with
  | none => go s
  | some x =>
    match firstWait s pan bed x with
    | none => go s
    | some (t, at_) =>
      if d.run ≠ 1 ∨ !orphanDue s ((d.cur.map Kernel.watchdog).getD 0) (some t) then go s
      else
        match at_ with
        | none => go (orphanBarrier s pan bed x)
        | some idx => go (orphanSync s pan bed x idx)

end Sys2Proof.Machine
end

