-- ==== Sys2Proof/Machine/TideRun.lean ====
section
/-!
DEFINITION. Steps, tides and kernels: the tick (R27, R53 to R67), watch points and skips (R60 to R66), inputs and outputs
(R57 to R59, R406), kernels and blocks (R106 to R111, R156, R218), grain reseeding (R157, R169), and the end of a plan. -/

namespace Sys2Proof.Machine

/-! ### The running plan -/

def State.runningPlan (s : State) : Option Plan := s.tide.running.bind s.plan

/-- Logical pan of a physical pan in a plan; none where the pan is not bound or is absent since a failure (R494). -/
def Plan.logical (pl : Plan) (p : Nat) : Option Nat :=
  match findIdxD (fun x => x == p) pl.binding 0 with
  | some j => if pl.absentPans.contains j then none else some j
  | none => none

/-- The bed record of a physical bed. -/
def Plan.bedPlan (pl : Plan) (p b : Nat) : Option BedPlan :=
  match pl.logical p with
  | none => none
  | some j => (pl.pans[j]?).bind (fun x => x.beds[b]?)

/-- A logical pan absent since a failure has kernels: each counts as retired with result FAILED (R494). -/
def Plan.absentFails (pl : Plan) : Bool :=
  pl.absentPans.any (fun j => ((pl.pans[j]?).map (fun x => x.beds.any (fun b => !b.kernels.isEmpty))).getD false)

/-- Physical pans that the plan binds and that take part. -/
def Plan.livePans (pl : Plan) : List Nat := pl.binding.filter (fun p => (pl.logical p).isSome)

/-- The plan of the step in progress or last executed. -/
def State.curPlan (s : State) : Option Plan := s.tide.cur.bind (fun c => s.plan c.slot)

/-- A step of the plan is in progress. -/
def State.stepOpen (s : State) : Bool :=
  match s.tide.cur with
  | some c => !c.complete
  | none => false

/-- Kernels of a bed in the step in progress. -/
def State.kernelsOf (s : State) (p b : Nat) : List Kernel :=
  match s.curPlan with
  | none => []
  | some pl => ((pl.bedPlan p b).map BedPlan.kernels).getD []

/-- The bed has retired every kernel of the step. -/
def State.bedDone (s : State) (p b : Nat) : Bool := decide ((s.kernelsOf p b).length ≤ (s.bed p b).retired)

def beds16 : List Nat := List.range 16

/-- Every bed of a pan has retired its kernels. -/
def State.panDone (s : State) (p : Nat) : Bool := beds16.all (fun b => s.bedDone p b)

/-! ### Times -/

/-- Package time of the watch point of a tide (R60). -/
def watchTime (t : Tide) (n : Nat) : Nat := tickTime t n + t.periodUs * 950

/-- Package time reaches at least t. -/
def State.reach (s : State) (t : Nat) : State := { s with now := max s.now t }

/-! ### The tide logic's accesses (R57) -/

/-- The physical address of an access of the tide logic through a plan's page table. -/
def tideXlat (s : State) (pl : Plan) (nd : Need) (va : Nat) : Option Nat :=
  match walk s pl.root va with
  | .error _ => none
  | .ok l =>
    match leafCheck s true true nd va l with
    | .ok pa => some pa
    | .error _ => none

/-- A failure of the tide logic's access is logged once in a step: slot, or 0xFFFF for the status block, and 2^16 for a
write (R57, R481). -/
def readyFault (s : State) (slot : Nat) (write : Bool) : State :=
  let key := slot + 65536 * boolN write
  if s.tide.readyFaults.contains key then s
  else (s.noteD evReadyFault 0xFF 0 key s.tide.number).updTide (fun t => { t with readyFaults := key :: t.readyFaults })

/-- Whether an input's ready word holds the value of a step; a read that fails counts as not ready (R57). Of a ready word in a
poisoned line no rule says what the tide logic finds: DESIGN CHOICE, it counts as not ready and nothing is logged (entry 113). -/
def inputReady (s : State) (pl : Plan) (k : IoSlot) (step : Nat) : State × Bool :=
  match tideXlat s pl .r k.ready with
  | none => (readyFault s k.id false, false)
  | some pa => (s, decide (s.cohNat pa 8 = (step + 1) % 2 ^ 64) && !s.poisoned pa 8)

/-- The inputs of a step: whether every required one is ready, and the optional ones that are not (R58). -/
def checkInputs (s : State) (pl : Plan) (step : Nat) : State × Bool × List Nat :=
  (pl.slots.filter (fun k => !k.output)).foldl (fun (x : State × Bool × List Nat) k =>
    let r := inputReady x.1 pl k step
    if r.2 then (r.1, x.2)
    else if k.optional then (r.1, x.2.1, x.2.2 ++ [k.id])
    else (r.1, false, x.2.2)) (s, true, [])

/-- The input status block of a step (R58). -/
def statusBlock (pl : Plan) (absent : List Nat) : List Byte :=
  (List.range 128).map (fun i =>
    BitVec.ofNat 8 ((List.range 8).foldl (fun n j =>
      n + 2 ^ j * boolN (pl.slots.any (fun k => decide (k.id = i * 8 + j) && !k.output && !absent.contains k.id))) 0))

/-- The tide logic writes the status block before the first kernel of the step (R58). -/
def writeStatus (s : State) (pl : Plan) : State :=
  if pl.statusVa = 0 then s else
  match tideXlat s pl .w pl.statusVa with
  | none => readyFault s 0xFFFF true
  | some pa => cachelessWrite s pa (statusBlock pl s.tide.absent)

/-! ### Output release (R59, R64, R373, R406) -/

/-- The core-side hand-off of an output: its ready word receives the step plus one (R406). -/
def handOff (s : State) (pl : Plan) (k : IoSlot) (step : Nat) : State :=
  match tideXlat s pl .w k.ready with
  | none => readyFault s k.id true
  | some pa => cachelessWrite s pa (leBytes 8 (step + 1))

/-- Releases the outputs of the step that has completed, once; the step is then settled (R423). -/
def releaseOutputs (s : State) : State :=
  match s.tide.cur with
  | none => s
  | some c =>
    if !c.complete ∨ c.released ∨ c.withheld then s else
    match s.plan c.slot with
    | none => s
    | some pl =>
      let s1 := (pl.slots.filter (fun k => k.output)).foldl (fun s k =>
        match relEntry s c.slot k.id with
        | some e => startRelease s c.slot k.id k.bytes c.step e
        | none => handOff s pl k c.step) s
      (s1.updTide (fun t => { t with cur := some { c with released := true } })).updTally (fun t =>
        { t with settled := c.step % 2 ^ 32 })

/-! ### Kernels (R107, R110, R72) -/

/-- A rake slot that no block uses: it keeps its lane states (R156). -/
def Rake.vacate (r : Rake) : Rake := { lanes := r.lanes }

/-- The agent moves that rakes of a bed asked for go on without anybody to report to. -/
def forgetOrigins (s : State) (p b : Nat) : State :=
  s.updSalter (fun x => { x with movers := x.movers.map (fun e => (e.1, e.2.map (fun m =>
    match m.origin with
    | .rake p' b' _ _ => if p' = p ∧ b' = b then { m with origin := .gone } else m
    | .mailbox _ => m
    | .gone => m))) })

/-- The blocks of a bed leave it. -/
def vacateBed (s : State) (p b : Nat) : State :=
  let s0 := forgetOrigins s p b
  let s1 := (s.bed p b).blocks.foldl (fun s x => x.slots.foldl (fun s r => s.updRake p b r Rake.vacate) s) s0
  s1.updBed p b (fun d => { d with blocks := [] })

/-- The kernels of a pan that have not retired are aborted with result FAILED; every slot of its beds becomes empty, and what is
queued for its engines is gone (R72). -/
def abortPan (s : State) (p : Nat) : State :=
  beds16.foldl (fun s b =>
    let n := (s.kernelsOf p b).length
    let hit := decide ((s.bed p b).retired < n) || (s.bed p b).cur.isSome
    if !hit then s else
    let s1 := vacateBed s p b
    let s2 := s1.updBed p b (fun d => { d with
      run := 0, cur := none, curFailed := false, failed := true, ended := [], retired := n, slots := [], heldB := none,
      mq := [], dq := [] })
    s2.updTide (fun t => { t with cur := t.cur.map (fun c => { c with failed := true }) })) s

/-- Every write of the bed so far is performed at device scope (R218). -/
def performBed (s : State) (p b : Nat) : State :=
  let mine (r : StoreRec) : Bool := decide (r.pan = p) && decide (r.bed = b)
  (s.updCoh (fun z => { z with kept := perform 2 mine z.kept })).updBed p b (fun d => { d with kept := perform 2 mine d.kept })

/-- The next kernel of a bed starts, when one is due: the first at the step's start, the next when one retires (R107). Its
slots are empty (R72), and it waits for a reseed in progress (R169). -/
def startKernel (s : State) (p b : Nat) : State :=
  let d := s.bed p b
  if !s.panRuns p ∨ !s.stepOpen ∨ s.pkg.st ≠ .serving ∨ s.pkg.rerun ∨ d.cur.isSome ∨ (s.pan p).grainBusy then s else
  match (s.kernelsOf p b)[d.retired]? with
  | none => s
  | some k =>
    (performBed s p b).updBed p b (fun d => { d with
      run := 1, kernel := d.retired, cur := some k, curFailed := false, ended := [], blocks := [], slots := [],
      heldB := none })

def execKernelStart (pan bed : Nat) (s : State) : Host.Outcome State Fault Refusal := go (startKernel s pan bed)

/-- A rake at the start of a block (R111, R156). -/
def startRake (s : State) (k : Kernel) (i pos r statusVa : Nat) (old : Rake) : Rake :=
  let sv : List Dword :=
    [k.args, BitVec.ofNat 64 i, BitVec.ofNat 64 k.blocks, BitVec.ofNat 64 r,
     BitVec.ofNat 64 (k.scratchBase + pos * k.scratchPer), BitVec.ofNat 64 ((s.tide.cur.map StepRun.step).getD 0),
     BitVec.ofNat 64 ((s.tide.cur.map StepRun.tide).getD 0), BitVec.ofNat 64 statusVa]
  { home := some (i, r)
    threads := tputs .absent [] 0 (laneList.map (fun _ => .running))
    pcs := tputs 0 [] 0 (laneList.map (fun _ => k.entry))
    s := tputs 0 [] 0 sv
    vregGroups := k.vregGroups
    lanes := if k.keyed then tputs 0 [] 0 (keyedRake 0 0 0) else old.lanes
    drainKey := if k.keyed then some {} else none }

/-- The block may start: it has not yet, and block i − resident has ended (R110). -/
def blockDue (d : Bed) (k : Kernel) (i : Nat) : Bool :=
  decide (d.run = 1) && decide (i < k.blocks) && !d.ended.contains i && (d.block? i).isNone
    && (decide (i < k.resident) || d.ended.contains (i - k.resident))

def execBlockStart (pan bed index : Nat) (s : State) : Host.Outcome State Fault Refusal :=
  let d := s.bed pan bed
  match d.cur with
  | none => go s
  | some k =>
    if !s.panRuns pan ∨ !blockDue d k index then go s else
    let pos := index % k.resident
    let slots := (List.range k.blockRakes).map (fun r => pos * k.blockRakes + r)
    let va := (s.curPlan.map Plan.statusVa).getD 0
    let s1 := (List.range k.blockRakes).foldl (fun s r =>
      s.updRake pan bed (pos * k.blockRakes + r) (startRake s k index pos r va)) s
    let x : Block := { index := index, position := pos, slots := slots, scratchAddr := k.scratchBase + pos * k.scratchPer,
                       scratchLen := k.scratchPer, keyed := k.keyed }
    go (s1.updBed pan bed (fun d => { d with blocks := d.blocks ++ [x] }))

/-! ### The end of a tide and of a plan -/

/-- Run-ahead of the flood is dropped on every pan of a plan (R56, R181). -/
def dropPlanFlood (s : State) (pl : Plan) : State := pl.livePans.foldl dropFlood s

/-- Bytes of the TIDE_STOP response: the last tide executed and its step (R398). -/
def stopBytes (s : State) : List Byte := leBytes 8 s.tide.lastTide ++ leBytes 4 s.tide.lastStep

/-- The plan stops and stays loaded: the package leaves SERVING, and a pending TIDE_STOP completes (R55, R65, R66). -/
def endPlan (s : State) : State :=
  let s1 := match s.runningPlan with
    | some pl => dropPlanFlood s pl
    | none => s
  let s2 := s1.updTide (fun t => { t with
    running := none, start := none, stopping := false, members := [], declared := [], skipping := false, absentNext := [] })
  let s3 := s2.updPkg (fun k => { k with
    st := if k.st = .serving then .ready else k.st
    back := if k.back = .serving then .ready else k.back
    rerun := false })
  (s3.salter.deferred.filter (fun e => e.2 = .tideStop)).foldl (fun s e => finish s e.1 stOk (stopBytes s)) s3

/-- A record of the tally for the step in progress (R422). -/
def stepRecord (s : State) (result : Nat) (c : StepRun) : State :=
  s.updTally (fun t => { t with steps := t.steps ++ [{ result := result, step := c.step, tide := c.tide }] })

/-- The step completes once every bed of every bound pan has retired (R60): flood run-ahead is dropped (R181), the record is
made (R422), a late step's outputs are released at once (R64), and a TIDE_STOP that waits for it takes effect (R55). -/
def tideCheck (s : State) : State :=
  match s.tide.cur, s.curPlan with
  | some c, some pl =>
    if c.complete ∨ s.pkg.rerun ∨ !pl.livePans.all (fun p => s.panDone p) then s else
    let c1 := { c with complete := true }
    let s1 := dropPlanFlood (s.updTide (fun t => { t with cur := some c1 })) pl
    let s2 := stepRecord s1 (if c.failed then 1 else 0) c1
    if c.late then
      let s3 := releaseOutputs s2
      if s3.tide.stopping then endPlan s3 else s3
    else s2
  | _, _ => s

/-- The pan's last bound bed has retired: the slack to the watch point (R68). -/
def noteMargin (s : State) (p : Nat) : State :=
  match s.tide.cur with
  | none => s
  | some c =>
    if !s.panDone p ∨ c.late then s
    else s.updPan p (fun x => { x with margin := min x.margin (watchTime s.tide c.tide - s.now) })

/-- A kernel retires once every block has ended (R107). -/
def retireCheck (s : State) (p b : Nat) : State :=
  let d := s.bed p b
  match d.cur with
  | none => s
  | some k =>
    if d.ended.length < k.blocks then s else
    let bad := d.curFailed
    let s1 := s.updBed p b (fun d => { d with
      cur := none, curFailed := false, retired := d.retired + 1, ended := [],
      run := if (s.kernelsOf p b).length ≤ d.retired + 1 then 0 else 1 })
    let s2 := if bad then s1.updTide (fun t => { t with cur := t.cur.map (fun c => { c with failed := true }) }) else s1
    tideCheck (noteMargin s2 p)

/-- BLOCK_END: the block's threads have all ended and what it queued has completed (R218). -/
def execBlockEnd (pan bed index : Nat) (s : State) : Host.Outcome State Fault Refusal :=
  match (s.bed pan bed).block? index with
  | none => go s
  | some x =>
    if !s.panRuns pan || x.slots.any (fun r => decide ((s.rake pan bed r).live ≠ 0)) || blockBusy s pan bed x then go s else
    let s1 := x.slots.foldl (fun s r => s.updRake pan bed r Rake.vacate) s
    let s2 := s1.updBed pan bed (fun d => { d with
      blocks := d.blocks.filter (fun y => y.index ≠ index), ended := index :: d.ended })
    go (retireCheck s2 pan bed)

/-! ### GRAIN.RESEED (R169) -/

def execGrainReseed (pan : Nat) (s : State) : Host.Outcome State Fault Refusal :=
  if !s.hasPan pan then go s
  else if beds16.any (fun b => (s.bed pan b).cur.isSome) then go (s.updPan pan (fun p => { p with grainRefused := true }))
  else go ((reseedPan s pan).updPan pan (fun p => { p with grainBusy := true }))

/-- RESEED_COMPLETE: busy clears, and the kernels that waited for it start. -/
def execReseedComplete (pan : Nat) (s : State) : Host.Outcome State Fault Refusal :=
  if !(s.pan pan).grainBusy then go s
  else go (beds16.foldl (fun s b => startKernel s pan b) (s.updPan pan (fun p => { p with grainBusy := false })))

/-! ### Skips (R61 to R67) -/

/-- The notice of a skip goes to every other member of the string, under the member's key and that key's next sequence (R53, R61). -/
def sendNotices (s : State) (planId : Dword) (members : List Member) (own tide cause : Nat) : State :=
  (((List.range members.length).zip members).filter (fun e => e.1 ≠ own)).foldl (fun s e =>
    let seq := tget 0 s.salter.sendSeq e.2.keyIndex + 1
    let s1 := s.updSalter (fun x => { x with sendSeq := tput 0 x.sendSeq e.2.keyIndex seq })
    sendControl s1 e.2.ident (.skipNotice e.2.ident e.2.keyIndex seq planId tide own cause)) s

/-- Between step 1 of a drain and the completion of the step that it made late: skips do not count toward R66 (R296). -/
def State.inDrain (s : State) : Bool :=
  decide (s.pkg.st = .draining) || (s.tide.cur.map (fun c => c.drained && !c.complete)).getD false

/-- A skip of a tide is declared: on the package's sluice and to the members (R61). For the tide n0 of a start pending while no plan
runs, no rule names the notice's plan and members: DESIGN CHOICE, those of the start (entry 113). -/
def declareSkip (s : State) (tide cause : Nat) : State :=
  let running := s.runningPlan
  let start := s.tide.start
  let planId := match running with
    | some pl => pl.planId
    | none => ((start.bind (fun x => s.plan x.slot)).map Plan.planId).getD 0
  let members := if running.isSome then s.tide.members else (start.map Start.members).getD []
  let own := if running.isSome then s.tide.own else (start.map Start.own).getD 0
  let k : Skip := { tide := tide, cause := cause, position := own, own := true,
                    exempt := s.inDrain }
  sendNotices (s.updTide (fun t => { t with declared := t.declared ++ [k] })) planId members own tide cause

/-- Skips still to come after tick n: of later tides, and of the tide n0 of a switch pending (R54). -/
def Tide.skipsAfter (t : Tide) (n : Nat) : List Skip :=
  t.declared.filter (fun d => decide (n < d.tide) || decide (t.start.map Start.n0 = some d.tide))

/-- A tide is skipped (R63, R67). A skip declared while a drained step has still to complete does not count toward the limit of
R66 (R296); one the package causes, or caused by a late input, does. The record's step number is the next to run, and the counts
of TIDE.SKIPS saturate: the rules name neither (DESIGN CHOICE, entry 113). -/
def skipTide (s : State) (n : Nat) (k : Skip) : State :=
  let exempt := k.exempt || s.inDrain
  let counts := k.own || decide (k.cause = 2) || s.tide.declared.any (fun d => d.own && decide (d.tide = n))
  let s1 := s.updTide (fun t => { t with
    number := n
    skipping := true
    skips := satAdd 32 t.skips 1
    skipRun := satAdd 16 t.skipRun 1
    stallRun := if exempt then t.stallRun else if counts then t.stallRun + 1 else 0
    lastSkip := n
    declared := t.skipsAfter n })
  let s2 := s1.raise { code := evSkip, cls := 0, detail := k.cause, detail2 := n }
  s2.updTally (fun t => { t with steps := t.steps ++
    [{ result := 2, step := s.tide.nextStep, tide := n, position := k.position, cause := k.cause }] })

/-- The beds of a plan's pans begin a step: nothing has retired yet. -/
def resetBeds (s : State) (pl : Plan) : State :=
  pl.livePans.foldl (fun s p => beds16.foldl (fun s b =>
    let n := ((pl.bedPlan p b).map (fun x => x.kernels.length)).getD 0
    s.updBed p b (fun d => { d with retired := 0, failed := false, cur := none, curFailed := false, ended := [],
                                    run := if n = 0 then 0 else 1 })) s) s

/-- Every write of the beds is performed at system scope (R219): nothing older can be read. -/
def performAll (s : State) : State :=
  let s1 := s.updCoh (fun z => { z with kept := [] })
  { s1 with beds := s1.beds.map (fun e => (e.1, { e.2 with kept := [] })) }

/-- A tide executes the next step (R28, R29, R58, R219, R421). Releases that failed may no longer be sent again once the step
that rewrites their buffer starts (R376). -/
def executeTide (s : State) (slot n : Nat) : State :=
  match s.plan slot with
  | none => s
  | some pl =>
    let step := s.tide.nextStep
    let s1 := s.updTide (fun t => { t with
      number := n, step := step, nextStep := step + 1, skipping := false, skipRun := 0, stallRun := 0,
      absent := t.absentNext, absentNext := [], readyFaults := [], lastTide := n, lastStep := step,
      declared := t.skipsAfter n,
      cur := some { slot := slot, step := step, tide := n, failed := pl.absentFails } })
    let s2 := (List.range s.cfg.variant.pans).foldl (fun s p =>
      s.updPan p (fun x => { x with commitLogPrev := x.commitLog, commitLog := [] })) (performAll s1)
    let s3 := { s2 with qps := s2.qps.map (fun e =>
      (e.1, e.2.map (fun x => { x with rels := x.rels.filter (fun r => !(r.failed ∧ r.step + 2 ≤ step)) }))) }
    tideCheck (resetBeds (writeStatus s3 pl) pl)

/-- The started plan becomes the running one (R53, R54). The old plan's run-ahead is dropped; while its last step is late that waits
for the step's completion, since its kernels still take from it (DEDUCED from R56 and R181, entry 113). TIDE.SKIPS counts from here:
"since TIDE_START" names no instant between the command and tick n0 (DESIGN CHOICE, entry 113). In a drain it is the state to
which the package returns that becomes SERVING (R295). -/
def enterPlan (s : State) (x : Start) : State :=
  let s1 := match s.runningPlan with
    | some pl => if s.stepOpen then s else dropPlanFlood s pl
    | none => s
  let s2 := s1.updTide (fun t => { t with
    running := some x.slot, periodUs := ((s.plan x.slot).map Plan.periodUs).getD 0, epochSec := x.sec, epochNs := x.ns,
    nextStep := 0, skips := 0, skipRun := 0, stallRun := 0, members := x.members, own := x.own, start := none, declared := [],
    cur := if t.running.isSome then t.cur else none })
  let s3 := (List.range s.cfg.variant.pans).foldl (fun s p => s.updPan p (fun y => { y with heldMax := 0 })) s2
  s3.updPkg (fun k => if k.st = .draining then { k with back := .serving } else { k with st := .serving })

/-- Nanoseconds of a tick of a pending start. -/
def startTime (s : State) (x : Start) (n : Nat) : Nat :=
  x.sec * 1000000000 + x.ns + n * ((s.plan x.slot).map Plan.periodUs).getD 0 * 1000

/-- The start pending switches the running plan at its tick n: the two ticks fall within 1 ns (R54). -/
def switchAt (s : State) (n : Nat) : Option Start :=
  match s.tide.start, s.tide.running with
  | some x, some _ =>
    let a := startTime s x x.n0
    let b := tickTime s.tide n
    if a ≤ b + 1 ∧ b ≤ a + 1 then some x else none
  | _, _ => none

/-- The tide after a late one is skipped, whether the late one is still incomplete or not (R64); in a drain every tide is (R296). -/
def State.afterLate (s : State) (n : Nat) : Bool :=
  decide (s.pkg.st = .draining) || s.stepOpen || (s.tide.cur.map (fun c => c.late && decide (c.tide + 1 = n))).getD false

/-- The skip that keeps a tide from executing: a declared or received one, or the package's own late step (R63, R64). n is the
tide's number, and old the number its tick has in the plan that ran before it. -/
def skipFor (s : State) (n old : Nat) : Option Skip :=
  match s.tide.declared.find? (fun k => k.tide = n) with
  | some k => some k
  | none => if s.afterLate old then some { tide := n, cause := 1, position := s.tide.own, own := true } else none

/-- A pulse on TIDE_OUT (R40). -/
def tidePulse (s : State) (n : Nat) : State := (s.updTide (fun t => { t with pulses := t.pulses + 1 })).emit (.tidePulse n)

/-- The tide that begins at a tick of the running plan. -/
def tideBegin (s : State) (n : Nat) : State :=
  match s.tide.running with
  | none => s
  | some slot =>
    match skipFor s n n with
    | some k => skipTide s n k
    | none => executeTide s slot n

/-- A tick ends the tide in progress: a step still incomplete is late (R64). -/
def endTide (s : State) : State :=
  if s.stepOpen then s.updTide (fun t => { t with cur := t.cur.map (fun c => { c with late := true }) }) else s

/-- TIDE_TICK: tick n of the running plan, or tick n0 of a start pending. A step completed in its own tide is released
(R59), a TIDE_STOP takes effect at the end of a complete tide (R55), a switch takes place (R54), and the tide is executed or
skipped. While a TIDE_STOP waits for a late tide, the tides that pass are skipped ones. -/
def execTideTick (n : Nat) (s : State) : Host.Outcome State Fault Refusal :=
  match s.tide.running with
  | some _ =>
    if n ≠ s.tide.number + 1 then go s else
    let s1 := endTide (releaseOutputs (tidePulse (s.reach (tickTime s.tide n)) n))
    if s1.tide.stopping then
      go (if s1.stepOpen then
          skipTide s1 n ((skipFor s1 n n).getD { tide := n, cause := 1, position := s1.tide.own, own := true })
        else endPlan (s1.updTide (fun t => { t with number := n })))
    else
      match switchAt s1 n with
      | some x =>
        let s2 := enterPlan s1 x
        go (match skipFor s1 x.n0 n with
          | some k => skipTide s2 x.n0 k
          | none => executeTide s2 x.slot x.n0)
      | none => go (tideBegin s1 n)
  | none =>
    match s.tide.start with
    | none => go s
    | some x =>
      if n ≠ x.n0 ∨ !(decide (s.pkg.st = .ready) || (decide (s.pkg.st = .draining) && decide (s.pkg.back = .ready))) then go s
      else
        let s1 := tidePulse (s.reach (startTime s x n)) n
        let s2 := enterPlan s1 x
        go (match skipFor { s1 with tide := { s1.tide with cur := none } } n n with
          | some k => skipTide s2 n k
          | none => executeTide s2 x.slot n)

/-- The beds of a pan that have not retired at a watch point (R68). -/
def lateBeds (s : State) (p : Nat) : Half :=
  beds16.foldl (fun (m : Half) b => if s.bedDone p b then m else m ||| (1#16 <<< b)) 0

/-- LATE_BEDS and MARGIN at a watch point. -/
def markLate (s : State) (pl : Plan) : State :=
  pl.livePans.foldl (fun s p =>
    if s.panDone p then s else s.updPan p (fun x => { x with lateBeds := x.lateBeds ||| lateBeds s p, margin := 0 })) s

/-- The plan and step that the tide after a watch point would run. -/
def nextRun (s : State) (n : Nat) : Option (Plan × Nat) :=
  match s.tide.running with
  | some slot =>
    match switchAt s (n + 1) with
    | some x => (s.plan x.slot).map (fun p => (p, 0))
    | none => (s.plan slot).map (fun p => (p, s.tide.nextStep))
  | none => s.tide.start.bind (fun x => (s.plan x.slot).map (fun p => (p, 0)))

/-- The number of the tide after a watch point: its own in the plan that it starts, where that plan starts there (R54). -/
def nextTide (s : State) (n : Nat) : Nat :=
  match switchAt s (n + 1) with
  | some x => x.n0
  | none => n + 1

/-- WATCH_POINT of tide n: the tide's completeness and the next step's inputs are checked, and a skip is declared where either
fails (R60, R61). The one before a start's first tick checks that step's inputs (R57). What no rule says is the model's (DESIGN
CHOICE, entry 113): a start with n0 = 0 has no watch point before its tick, and its step 0 runs with every input taken as present;
while a TIDE_STOP waits, completeness is checked and a skip declared, and the inputs of the step that will not run are not. -/
def execWatchPoint (n : Nat) (s : State) : Host.Outcome State Fault Refusal :=
  let due := match s.tide.running with
    | some _ => decide (n = s.tide.number)
    | none => match s.tide.start with
      | some x => decide (n + 1 = x.n0)
      | none => false
  if !due then go s else
  match nextRun s n with
  | none => go s
  | some (pl, step) =>
    let t0 := if s.tide.running.isSome then watchTime s.tide n else
      (s.tide.start.map (fun x => startTime s x n + pl.periodUs * 950)).getD s.now
    let s1 := s.reach t0
    let s2 := if s1.stepOpen then (match s1.curPlan with
      | some cp => markLate s1 cp
      | none => s1) else s1
    let late := s2.afterLate (n + 1)
    let m := nextTide s n
    if s2.tide.stopping then go (if late then declareSkip s2 m 1 else s2) else
    let c := checkInputs s2 pl step
    let s3 := c.1.updTide (fun t => { t with absentNext := c.2.2 })
    go (if late then declareSkip s3 m 1 else if c.2.1 then s3 else declareSkip s3 m 2)

/-- An unsettled step is rewound (R423). -/
def rewind (s : State) : State :=
  match s.tide.cur with
  | none => s
  | some c =>
    if c.released then s else
    (stepRecord (rewindStep s) 4 c).updTally (fun t => { t with rewound := c.step % 2 ^ 32 })

/-- The step in progress ends without release: its kernels are aborted, a STOPPED record is made, and it is rewound. -/
def stopStep (s : State) : State :=
  match s.tide.cur, s.curPlan with
  | some c, some pl =>
    if c.released then s.updTide (fun t => { t with cur := none }) else
    let s1 := pl.livePans.foldl abortPan s
    let s2 := stepRecord s1 3 c
    let s3 := rewind s2
    s3.updTide (fun t => { t with cur := none })
  | _, _ => s

/-- PLAN_STALLED: after 8 consecutive skips of its own the plan is stopped (R66). -/
def execPlanStalled (s : State) : Host.Outcome State Fault Refusal :=
  if s.tide.running.isNone ∨ s.tide.stallRun < 8 then go s
  else go (endPlan ((stopStep s).note evPlanStalled 0xFF 0 0 0))

/-- DRAIN_RERUN: the late tide's step runs again from its start, as that tide's continuation (R296). -/
def execDrainRerun (s : State) : Host.Outcome State Fault Refusal :=
  if !s.pkg.rerun ∨ s.pkg.st ≠ .serving then go s else
  match s.tide.cur, s.curPlan with
  | some c, some pl =>
    let s1 := s.updTide (fun t => { t with
      cur := some { c with complete := false, failed := pl.absentFails, withheld := false } })
    let s2 := s1.updPkg (fun k => { k with rerun := false })
    go (tideCheck (resetBeds (writeStatus s2 pl) pl))
  | _, _ => go (s.updPkg (fun k => { k with rerun := false }))

end Sys2Proof.Machine
end

