-- ==== Sys2Proof/Machine/Units.lean ====
section
/-!
DEFINITION. Units: pan resets (R157, R184, R194), pan states (R490 to R495), replacement (R492, R493), and self-test (R496,
R497). -/

namespace Sys2Proof.Machine

/-! ### Resets -/

/-- A bed after a pan reset: nothing runs, scratch is zero, the fault record stays (R143, R184, R294). -/
def Bed.reset (d : Bed) : Bed :=
  { fCode := d.fCode, fRake := d.fRake, fKernel := d.fKernel, fBlock := d.fBlock, fValid := d.fValid, fPc := d.fPc,
    fActive := d.fActive, fPart := d.fPart, fAddr := d.fAddr, fLost := d.fLost, retired := d.retired }

/-- The beds and rakes of a pan are reset and its grain states take the free seed (R157). -/
def resetBedsOf (s : State) (p : Nat) : State :=
  let s1 := beds16.foldl (fun s b =>
    let s1 := forgetOrigins s p b
    let s2 := (List.range 48).foldl (fun s r => s.setRake p b r {}) s1
    s2.updBed p b Bed.reset) s
  reseedPan (s1.updPan p (fun x => { x with tlb := [], grainBusy := false })) p

/-- A pan reset: the beds, the grain states, then discard at C of every agent the pan owns (R194). -/
def panReset (s : State) (p : Nat) : State := discardOwned (resetBedsOf s p) p

/-- A core after a core reset: its registers, buffers and cached translations are as at reset; the registers of the core
die's window stay (entry 28). -/
def Core.reset (c : Core) (entry : Nat) (released : Bool) : Core :=
  { released := released, startAt := entry, pfEnable := c.pfEnable, pfDescend := c.pfDescend, pfDistance := c.pfDistance,
    pfUsed := c.pfUsed, pfUnused := c.pfUnused, strEnable := c.strEnable, strLines := c.strLines, l2Ways := c.l2Ways,
    l2Limit := c.l2Limit, l2Ce := c.l2Ce, wayCe := c.wayCe, discards := c.discards }

/-- Core numbers of a core die. -/
def coresOf (d : Nat) : List Nat := (List.range 24).map (fun c => 24 * d + c)

/-- Where the boot releases the cores: the entry address of the host boot image (R467). -/
def hostStart (s : State) : Nat := ((tget none s.trust.running 3).map Image.entry).getD s.cfg.hostEntry

/-- Where cores start (R297): COH.WARM_ENTRY, which holds PA[47:2], or the host boot entry when it is zero. -/
def coreEntry (s : State) : Nat := if s.coh.warmEntry = 0 then hostStart s else s.coh.warmEntry * 4

/-- Every core of a die starts at the entry. -/
def startCores (s : State) (d : Nat) : State :=
  (coresOf d).foldl (fun s n => if s.hasCore n then s.updCore n (fun c => c.reset (coreEntry s) true) else s) s

/-- Every core of a die is held in reset. -/
def holdCores (s : State) (d : Nat) : State := (coresOf d).foldl (fun s n => s.updCore n (fun c => c.reset 0 false)) s

/-- Dirty lines of a core die's caches go to their homes and every line leaves them. -/
def flushDie (s : State) (d : Nat) : State := flushAgent ((coresOf d).foldl (fun s n => flushAgent s (l2Agent n)) s) (dieCacheAgent d)

/-! ### Pan states (R490) -/

/-- TIDE.STATUS.run of an ONLINE pan: 0 IDLE, 1 RUNNING, 2 LATE, 3 SKIPPING (R68). -/
def tideRun (s : State) : Nat :=
  if s.tide.running.isNone then 0
  else if s.stepOpen ∧ (s.tide.cur.map StepRun.late).getD false then 2
  else if s.tide.skipping then 3
  else 1

/-- TIDE.STATUS of an ONLINE pan. With no plan running, slot reads 0, and PERIOD and EPOCH keep the last plan's values: the table
names no value (DESIGN CHOICE, entry 113). -/
def tideStatus (s : State) (p : Nat) : Nat :=
  (match s.time.lock with
    | .free => 0
    | .acquiring => 1
    | .locked => 2
    | .holdover => 3) + boolN s.time.tideIn * 8 + tideRun s * 16
    + boolN ((s.runningPlan.map (fun pl => pl.binding.contains p)).getD false) * 64 + s.tide.running.getD 0 % 2 * 128

/-- The TIDE registers at 0x000 to 0x040 of an ONLINE pan (R68). -/
def tideRegs (s : State) (p : Nat) : List Dword :=
  [tideStatus s p, s.tide.number, s.tide.step, s.tide.periodUs % 2 ^ 32, s.tide.epochSec % 2 ^ 48, s.tide.epochNs % 2 ^ 30,
   s.tide.skips + 2 ^ 32 * s.tide.skipRun, s.tide.lastSkip, s.time.offset.toNat].map (BitVec.ofNat 64)

/-- A pan's state changes, and the change is logged. A pan that leaves ONLINE keeps its TIDE fields (R68). -/
def setPanState (s : State) (p : Nat) (u : UnitState) : State :=
  let kept := if u = .online then none else if (s.pan p).state = .online then some (tideRegs s p) else (s.pan p).tideKept
  (s.updPan p (fun x => { x with state := u, tideKept := kept })).raise
    { code := evPanState, cls := 0, die := dieOfPan p, detail := u.code,
      action := match u with
        | .test => 5
        | .failed => 6
        | .online => 0
        | .offline => 0 }

/-- A pan leaves ONLINE for a state: its kernels end with result FAILED, its flood queues are dropped, its cache is written
back and invalidated, and its tide mover's moves end with a status (R490, entry 27). -/
def leaveOnline (s : State) (p : Nat) (u : UnitState) (status : Nat) : State :=
  let s1 := flushAgent (dropFlood (abortPan s p) p) (panAgent p)
  tideCheck (setPanState (dropMoves s1 p status) p u)

/-! ### PAN_OFFLINE (R491, R492) -/

/-- Slots of loaded plans that bind a pan. -/
def boundTo (s : State) (p : Nat) : Bool :=
  [s.plan0, s.plan1].any (fun x => (x.map (fun pl => pl.binding.contains p)).getD false)

/-- The replacement for a pan (R492). -/
def replacementFor (s : State) (p : Nat) : Option Nat :=
  (List.range s.cfg.variant.pans).find? (fun r =>
    decide (r ≠ p) && s.onlinePan r && !boundTo s r && decide (ownedCount s r = 0) && !(s.pan r).held)

/-- Both pans of a replacement are held for it. -/
def holdPans (s : State) (p r : Nat) (h : Bool) : State :=
  (s.updPan p (fun x => { x with held := h })).updPan r (fun x => { x with held := h })

def cmdPanOffline : Cmd := { code := 0x40, tray := true, hostRemote := true, pat := patWork, lenOk := lenIs 8 }
def cmdPanOnline : Cmd := { code := 0x41, tray := true, hostRemote := true, pat := patWork, lenOk := lenIs 8 }

/-- Steps 5 and 6 of R393 for a command that names a pan, and R495. -/
def panChecks (s : State) (p : Nat) : Except Refuse Unit := do
  need (decide (p < s.cfg.variant.pans)) stNotPresent 0
  need (!panBusy s p && s.salter.repl.isNone) stBusyRetry 0

def execPanOffline (box : Nat) (s : State) : Host.Outcome State Fault Refusal :=
  go (command s box cmdPanOffline [(2, 6)]
    (fun b => [(1, decide (b.field 1 1 ≤ 1))]) (fun b s => do
    let p := b.field 0 1
    let test := decide (b.field 1 1 = 1)
    panChecks s p
    need (s.onlinePan p) stWrongState 0
    if boundTo s p then
      match replacementFor s p with
      | none => refuse stNoFit
      | some r =>
        let s1 := accept s box (.panOffline p test (some r))
        .ok ((holdPans s1 p r true).updSalter (fun x => { x with repl := some { p := p, r := r, test := test, box := some box } }))
    else .ok (accept s box (.panOffline p test none))))

/-- The state a PAN_OFFLINE leads to. -/
def offState (test : Bool) : UnitState := if test then .test else .offline

/-- PAN_OFFLINE_COMPLETE: of a pan bound to no loaded plan (R491). -/
def execPanOfflineComplete (box : Nat) (s : State) : Host.Outcome State Fault Refusal :=
  match deferredOf s box with
  | some (.panOffline p test none) =>
    if s.onlinePan p then go (finish (leaveOnline s p (offState test) stBusyRetry) box stOk [])
    else go (finish s box stUnitFailed [])
  | _ => go s

/-! ### Replacement (R493 to R495) -/

/-- A pan with an aligned free range of a granule. -/
def granuleRoom (s : State) (p : Nat) : Option Nat :=
  ((List.range (brineLimit s p / granuleSize)).find? (fun i => brineRangeFree s p (i * granuleSize) granuleSize)).map
    (fun i => i * granuleSize)

/-- Where R306 re-creates a granule: the pan with the most free brine among those with room, lowest index first, but none of
the pans excluded. -/
def granuleTarget (s : State) (excluded : List Nat) : Option (Nat × Nat) :=
  let pans := (List.range s.cfg.variant.pans).filter (fun p =>
    (s.pan p).service && !excluded.contains p && decide (granuleSize ≤ freeBrine s p) && (granuleRoom s p).isSome)
  match pans with
  | [] => none
  | a :: r =>
    let best := r.foldl (fun b p => if freeBrine s b < freeBrine s p then p else b) a
    (granuleRoom s best).map (fun o => (best, o))

/-- One reserved granule moves to another pan than its other copy's; with no room its content keeps its single copy, and
RESERVE_SHORT is logged (R305, R306, entry 29). -/
def moveGranule (excluded : List Nat) (s : State) (g : Nat) : State :=
  match granuleTarget s (panOf (granulePa s (otherCopy g)) :: excluded) with
  | none => (s.note evReserveShort 0xFF 0 0 0).updSalter (fun x => { x with single := (g :: x.single).eraseDups })
  | some (p, o) =>
    let old := granulePa s g
    let new := brineBase p + o
    let src := if (s.pan (panOf old)).service then old else granulePa s (otherCopy g)
    let s1 := copyRange s new src granuleSize
    let inDir := decide (dirGranule s = some g)
    (s1.updPan p (fun x => { x with relocated := x.relocated ++ [o] })).updSalter (fun x => { x with
      granuleAt := tput none x.granuleAt g (some new)
      single := x.single.filter (fun k => k ≠ g)
      dirPa := if inDir then new + (x.dirPa - old) else x.dirPa })

/-- Reserved granules that lie on a pan. -/
def granulesAt (s : State) (p : Nat) : List Nat :=
  (List.range 64).filter (fun g => decide (brineBase p ≤ granulePa s g) && decide (granulePa s g < brineBase p + brineSize))

/-- A pan's brine becomes zero, but for reserved granules that still lie on it. -/
def zeroPan (s : State) (p : Nat) : State :=
  (touchedLines s (brineBase p) brineSize).foldl (fun s l =>
    if (granuleOf s (l * 64)).isSome then s
    else (invalidate s l none true).homeWrite l (List.replicate 64 0) false none) s

/-- Brine r is the copy of brine p, and the pans exchange numbers (R493): what was pan r answers as pan p with p's scratch,
lane states and drain banks, or with zero scratch where p has failed (R494). -/
def exchange (s : State) (p r : Nat) (failed : Bool) : State :=
  let s1 := flushAgent (flushAgent s (panAgent p)) (panAgent r)
  let a := s1.pan p
  let b := s1.pan r
  let s2 := beds16.foldl (fun s k =>
    let x := s.bed p k
    let y := s.bed r k
    let scratch : Table Byte := if failed then [] else x.scratch
    let new : Bed := { y with scratch := scratch, scratchBad := if failed then [] else x.scratchBad,
                              drainBank := if failed then y.drainBank else x.drainBank, retired := x.retired }
    let old : Bed := { x with retired := y.retired }
    (List.range 48).foldl (fun s i =>
      let u := s.rake p k i
      let v := s.rake r k i
      let v1 : Rake := { v with lanes := if failed then v.lanes else u.lanes }
      (s.setRake p k i v1).setRake r k i u) ((s.setBed p k new).setBed r k old)) s1
  let np : Pan := { b with root0 := a.root0, root1 := a.root1, taken := a.taken, relocated := a.relocated, held := false,
                           commitLog := a.commitLog, commitLogPrev := a.commitLogPrev, tlb := [] }
  let nr : Pan := { a with root0 := b.root0, root1 := b.root1, taken := b.taken, relocated := [], held := false,
                           commitLog := b.commitLog, commitLogPrev := b.commitLogPrev, tlb := [] }
  let s3 := (s2.setPan p np).setPan r nr
  let s4 := zeroPan s3 r
  let cp := tget {} s4.power.pans p
  let cr := tget {} s4.power.pans r
  let s5 := s4.updPower (fun w => { w with pans := tput {} (tput {} w.pans p cr) r cp })
  let dp := tget p s5.pkg.panMap p
  let dr := tget r s5.pkg.panMap r
  s5.updPkg (fun k => { k with panMap := tput r (tput p k.panMap p dr) r dp })

/-- A plan's logical pan takes part again. -/
def Plan.rejoin (pl : Plan) (p : Nat) : Plan :=
  match findIdxD (fun x => x == p) pl.binding 0 with
  | some j => { pl with absentPans := pl.absentPans.filter (fun x => x ≠ j) }
  | none => pl

/-- A plan's logical pan is absent (R494). -/
def Plan.lose (pl : Plan) (p : Nat) : Plan :=
  match findIdxD (fun x => x == p) pl.binding 0 with
  | some j => if pl.absentPans.contains j then pl else { pl with absentPans := pl.absentPans ++ [j] }
  | none => pl

def eachPlan (s : State) (f : Plan → Plan) : State := { s with plan0 := s.plan0.map f, plan1 := s.plan1.map f }

/-- The repair record's entry for an exchange of two pans' numbers. -/
def exchangeEntry (p r : Nat) : List Byte := leBytes 1 4 ++ leBytes 1 p ++ leBytes 1 r

/-- The cut-over of a replacement: relocation of pan r's granules, the exchange, and the end of the PAN_OFFLINE. -/
def cutOver (s : State) (x : Replacement) : State :=
  let failed := decide ((s.pan x.p).state = .failed)
  let s1 := (granulesAt s x.r).foldl (moveGranule [x.p, x.r]) s
  let s2 := exchange s1 x.p x.r failed
  let s3 := (eachPlan s2 (fun pl => pl.rejoin x.p)).updSalter (fun k => { k with repl := none })
  let s4 := repairEntry (s3.note evPanReplaced (dieOfPan x.p) 0 0 4) (exchangeEntry x.p x.r)
  let s5 := if failed then s4 else setPanState s4 x.r (offState x.test)
  match x.box with
  | some b => finish s5 b stOk []
  | none => s5

/-- PAN_CUT_OVER: the copy has ended. While a plan runs, the watch point declares a skip of the next tide, whose interval the
exchange takes (R493); with a step still running the cut-over waits. -/
def execPanCutOver (pan : Nat) (s : State) : Host.Outcome State Fault Refusal :=
  match s.salter.repl with
  | none => go s
  | some x =>
    if x.p ≠ pan ∨ s.pkg.st = .draining ∨ s.stepOpen ∨ !(s.pan pan).service then go s
    else if s.tide.running.isSome then
      let n := s.tide.number
      go (cutOver (declareSkip (s.reach (watchTime s.tide n)) (nextTide s n) 1) x)
    else go (cutOver s x)

/-- A replacement whose pan r has left service is abandoned (R495). -/
def abandonReplacement (s : State) (x : Replacement) : State :=
  let s1 := (holdPans s x.p x.r false).updSalter (fun k => { k with repl := none })
  match x.box with
  | some b => finish s1 b stUnitFailed []
  | none => s1

/-- An event of R425 sets replay pending with a cause and advances the epoch. -/
def setReplay (s : State) (cause : Nat) : State :=
  s.updTally (fun t => { t with replay := true, cause := cause, epoch := wrapAdd 32 t.epoch 1, snapshot := none })

/-- The pan fails without a drain: it becomes FAILED, is absent from the plans that bind it, and is replaced by the salter
itself where a replacement exists (R480, R494). -/
def panFails (s : State) (p : Nat) : State :=
  let was := s.onlinePan p
  let s1 := if was then leaveOnline s p .failed stUnitFailed else setPanState s p .failed
  let bound := was && (s.runningPlan.map (fun pl => pl.binding.contains p)).getD false
  let s1 := if bound then setReplay s1 2 else s1
  let s2 := match s1.salter.repl with
    | some x => if x.r = p then abandonReplacement s1 x else s1
    | none => s1
  if was ∧ boundTo s2 p then
    let s3 := eachPlan s2 (fun pl => pl.lose p)
    match s3.salter.repl, replacementFor s3 p with
    | none, some r =>
      (holdPans s3 p r true).updSalter (fun k => { k with repl := some { p := p, r := r, test := false, box := none } })
    | _, _ => s3
  else s2

/-- A pan of the variant that has not failed. -/
def canFail (s : State) (p : Nat) : Bool := s.hasPan p && decide ((s.pan p).state ≠ .failed) && decide (s.pkg.st ≠ .off)

def execPanFailure (pan : Nat) (s : State) : Host.Outcome State Fault Refusal :=
  if canFail s pan then go (panFails s pan) else go s

/-- PAN_STOP_TIMEOUT: 10 s in STOP without a break (R452). -/
def execPanStopTimeout (pan : Nat) (s : State) : Host.Outcome State Fault Refusal :=
  match (s.pan pan).stopFrom with
  | none => go s
  | some t => if canFail s pan then go (panFails (s.reach (t + 10000000000)) pan) else go s

/-! ### Self-test (R496, R497) -/

/-- Kinds of units: 0 pan, 1 core die, 2 I/O die, 3 stockpile die. -/
def dieCode (kind i : Nat) : Nat := kind * 32 + i

def kindCount (v : Variant) (kind : Nat) : Nat :=
  match kind with
  | 0 => v.pans
  | 1 => v.coreDies
  | 2 => v.ioDies
  | _ => v.stkDies

def unitState (s : State) (kind i : Nat) : UnitState :=
  match kind with
  | 0 => (s.pan i).state
  | 1 => (s.coreDie i).state
  | 2 => (s.ioDie i).state
  | _ => s.stkState i

def setUnitState (s : State) (kind i : Nat) (u : UnitState) : State :=
  match kind with
  | 0 => setPanState s i u
  | 1 => s.updCoreDie i (fun d => { d with state := u })
  | 2 => s.updIoDie i (fun d => { d with state := u })
  | _ => s.updStk (fun x => { x with states := tput .online x.states i u })

/-- Expected signature of a unit's test: 0 logic, 1 memory. -/
def expectedSig (s : State) (kind i test : Nat) : Dword := tget 0 s.cfg.expected (kind * 64 + i * 2 + test)

/-- A test passes when its signature, or the one of the repeat, is the expected one. -/
def sigPass (want got again : Dword) : Bool := decide (got = want) || decide (again = want)

/-- The signature a run reports: the repeat's, when the test was repeated. -/
def sigOf (want got again : Dword) : Dword := if got = want then got else again

/-- The BIST_RESULT record of a run (R481, R497). -/
def bistResult (s : State) (kind i tests : Nat) (pass repaired : Bool) (logic : Dword) : State :=
  s.raise { code := evBistResult, cls := 0, die := dieCode kind i, action := if pass then (if repaired then 4 else 0) else 6,
            detail := tests + boolN pass * 4 + boolN repaired * 8, detail2 := logic.toNat }

/-- What starts with a test (R496). -/
def bistStart (s : State) (kind i : Nat) : State :=
  match kind with
  | 0 => if (s.pan i).state = .test then s else setPanState s i .test
  | 1 => setUnitState (holdCores (flushDie s i) i) 1 i .test
  | 2 =>
    let s1 := (List.range 4).foldl (fun s j =>
      s.updPort (4 * i + j) (fun p => { p with link := false })) s
    setUnitState s1 2 i .test
  | _ => setUnitState s 3 i .test

/-- Every line that the cache partitions hold goes to its DRAM and leaves them: a die's share is written back (R496). -/
def partFlush (s : State) (die : Nat) : State :=
  (s.coh.part.filter (fun e => homeDie s e.1 = die)).foldl (fun s e => partDrop s e.1) s

/-- A stockpile die's share of the scratchpad becomes zero. -/
def zeroShare (s : State) (die : Nat) : State :=
  (touchedLines s scratchBase (2 ^ 32)).foldl (fun s l =>
    match scratchPart s.stk.parts s.stk.s0 (l * 64 - scratchBase) 0 with
    | some (_, b) => if scratchDie s b = die then
        (invalidate s l none true).homeWrite l (List.replicate 64 0) false none else s
    | none => s) s

def cmdBistRun (s : State) (box : Nat) : Cmd :=
  let k := (s.box box).field 0 1
  { code := 0x50, tray := true, hostRemote := decide (k = 0) || decide (3 < k) || isRemote box, pat := patWork,
    lenOk := lenIs 8 }

def execBistRun (box : Nat) (s : State) : Host.Outcome State Fault Refusal :=
  go (command s box (cmdBistRun s box) [(3, 5)]
    (fun b => [(2, decide (1 ≤ b.field 2 1) && decide (b.field 2 1 ≤ 3))]) (fun b s => do
    let k := b.field 0 1
    let i := b.field 1 1
    need (decide (3 < k) || decide (i < kindCount s.cfg.variant k)) stNotPresent 0
    need (decide (3 < k) || !unitBusy s k i) stBusyRetry 0
    need (decide (k ≤ 3)) stBadArgument 0
    let u := unitState s k i
    need (if k = 0 then decide (u = .offline) || decide (u = .test) else decide (s.pkg.st = .maint) && decide (u = .online))
      stWrongState 0
    let s1 := accept s box (.bistRun k i (BitVec.ofNat 2 (b.field 2 1)) u)
    .ok (bistStart (if k = 3 then partFlush s1 i else s1) k i)))

/-- A plan is loaded that is bound to a pan. -/
def planOn (s : State) (p : Nat) : Bool := [0, 1].any (fun k => ((s.plan k).map (fun pl => pl.binding.contains p)).getD false)

/-- The spare bed of a pan, built bed 16, comes into service under a bed's number, while it is still spare and no plan is loaded on
the pan (R13, R17, R477). -/
def spareBed (s : State) (p b : Nat) : State :=
  if planOn s p || (s.pan p).bedMap.any (fun e => decide (e.2 = some 16)) then s
  else s.updPan p (fun x => { x with bedMap := tput none x.bedMap b (some 16) })

/-- The built bed behind a bed's number (R17). -/
def Pan.built (x : Pan) (b : Nat) : Nat := (tget none x.bedMap b).getD b

/-- A spare column of a bed's array comes into service while the array has one left; with none left the bed is spared (R69, R477). -/
def spareColumn (s : State) (p b : Nat) : State :=
  let k := (s.pan p).built b
  if tget 0 (s.pan p).arrayCols k < 4 then
    s.updPan p (fun x => { x with arrayCols := tput 0 x.arrayCols k (tget 0 x.arrayCols k + 1) })
  else spareBed s p b

/-- What the diagnosis of a test that then passes brought into service, with its entry of the repair record. Which spares it names,
the manual leaves to the diagnosis: it is free (R477, R497, entry 40). A failing core is spared at the next drain or boot. -/
def diagnosed (s : State) (kind i : Nat) : State :=
  let what := s.draw (9400 + kind * 64 + i) % 3
  let part := s.draw (9500 + kind * 64 + i)
  let s1 :=
    match kind, what with
    | 0, 0 => spareColumn s i (part % 16)
    | 0, 1 => spareBed s i (part % 16)
    | 1, 0 => s.updCoreDie i (fun d => { d with toSpare := (part % 24 :: d.toSpare).eraseDups })
    | _, _ => s
  repairEntry s1 (leBytes 1 5 ++ leBytes 1 kind ++ leBytes 1 i ++ leBytes 1 what ++ leBytes 1 (part % 24))

/-- What follows a test that passes (R496). -/
def bistDone (s : State) (kind i : Nat) (before : UnitState) : State :=
  match kind with
  | 0 => setPanState (panReset s i) i before
  | 1 => startCores (setUnitState s 1 i before) i
  | 2 => setUnitState s 2 i before
  | _ => setUnitState (zeroShare s i) 3 i before

/-- BIST_COMPLETE: signatures are compared, a differing test has been repeated once with the spares its diagnosis named, and
the unit returns to its state or becomes FAILED (R497). A failed die is a cause of the drain that follows (R480). -/
def execBistComplete (box : Nat) (logic mem logicAgain memAgain : Dword) (s : State) : Host.Outcome State Fault Refusal :=
  match deferredOf s box with
  | some (.bistRun k i tests before) =>
    let el := expectedSig s k i 0
    let em := expectedSig s k i 1
    let doL := tests.getLsbD 0
    let doM := tests.getLsbD 1
    let pass := (!doL || sigPass el logic logicAgain) && (!doM || sigPass em mem memAgain)
    let repaired := pass && ((doL && decide (logic ≠ el)) || (doM && decide (mem ≠ em)))
    let sl := if doL then sigOf el logic logicAgain else 0
    let sm := if doM then sigOf em mem memAgain else 0
    let resp := leBytes 8 sl.toNat ++ leBytes 8 sm.toNat ++ leBytes 8 (if doL then el.toNat else 0)
      ++ leBytes 8 (if doM then em.toNat else 0)
    let s1 := bistResult s k i tests.toNat pass repaired sl
    if unitState s k i = .failed ∨ !pass then
      let s2 := if unitState s k i = .failed then s1 else setUnitState s1 k i .failed
      let s3 := if k = 0 then s2 else s2.updCoh (fun c => { c with declared := c.declared ++ [(6, 0xFF, dieCode k i)] })
      go (finish s3 box stUnitFailed resp)
    else
      let s2 := if repaired then diagnosed s1 k i else s1
      go (finish (bistDone s2 k i before) box stOk resp).drawn
  | _ => go s

/-! ### PAN_ONLINE (R490) -/

def execPanOnline (box : Nat) (s : State) : Host.Outcome State Fault Refusal :=
  go (command s box cmdPanOnline [(1, 7)] (fun _ => []) (fun b s => do
    let p := b.field 0 1
    panChecks s p
    need (decide ((s.pan p).state = .offline) || decide ((s.pan p).state = .test)) stWrongState 0
    .ok (bistStart (accept s box (.panOnline p)) 0 p)))

/-- PAN_ONLINE_COMPLETE: after the logic BIST and its repeat, the pan is reset and ONLINE, or FAILED. -/
def execPanOnlineComplete (box : Nat) (signature again : Dword) (s : State) : Host.Outcome State Fault Refusal :=
  match deferredOf s box with
  | some (.panOnline p) =>
    let want := expectedSig s 0 p 0
    let pass := sigPass want signature again
    let repaired := pass && decide (signature ≠ want)
    let s1 := bistResult s 0 p 1 pass repaired (sigOf want signature again)
    if (s.pan p).state = .failed then go (finish s1 box stUnitFailed [])
    else if pass then
      let s2 := if repaired then diagnosed s1 0 p else s1
      go (finish (setPanState (panReset s2 p) p .online) box stOk []).drawn
    else go (finish (setPanState s1 p .failed) box stUnitFailed [])
  | _ => go s

end Sys2Proof.Machine
end

