-- ==== Sys2Proof/Machine/Plans.lean ====
section
/-!
DEFINITION. Plans: PLAN_LOAD with its checks and admission (R41 to R51, R108, R109, R319, R333), PLAN_UNLOAD, TIDE_START and
TIDE_STOP (R53 to R55). -/

namespace Sys2Proof.Machine

/-! ### Reading an image -/

/-- Bytes of physical memory, page by page, through the canonical address of each (R308). -/
def physBytes (s : State) (pa n : Nat) : List Byte :=
  (List.range (ceilDiv (pa % 4096 + n) 4096)).flatMap (fun i =>
    let a := if i = 0 then pa else (pa / 4096 + i) * 4096
    let m := min (pa + n) ((pa / 4096 + i + 1) * 4096) - a
    s.cohBytes (canon s a) m)

/-- Tokens that such a read spends at the stockpile, for a requester class (R322). -/
def physSpend (s : State) (pa n cls : Nat) : State :=
  (List.range (ceilDiv (pa % 4096 + n) 4096)).foldl (fun s i =>
    let a := if i = 0 then pa else (pa / 4096 + i) * 4096
    let m := min (pa + n) ((pa / 4096 + i + 1) * 4096) - a
    spendRange s (canon s a) m cls) s

/-- Bytes written by a cacheless agent page by page, through the canonical address of each (R288, R308). -/
def physWrite (s : State) (pa : Nat) (bs : List Byte) : State :=
  (List.range (ceilDiv (pa % 4096 + bs.length) 4096)).foldl (fun s i =>
    let a := if i = 0 then pa else (pa / 4096 + i) * 4096
    let m := min (pa + bs.length) ((pa / 4096 + i + 1) * 4096) - a
    cachelessWrite s (canon s a) ((bs.drop (a - pa)).take m)) s

/-- Every page of a range satisfies a test of its place. -/
def pagesAll (s : State) (pa n : Nat) (f : Place → Bool) : Bool :=
  decide (pa + n ≤ 2 ^ 48) && (List.range (ceilDiv (pa % 4096 + n) 4096)).all (fun i => f (place s ((pa / 4096 + i) * 4096)))

def Place.dram (x : Place) : Bool :=
  match x with
  | .lpd _ _ => true
  | .brine _ _ => true
  | _ => false

def Place.normal (x : Place) : Bool :=
  match x with
  | .scratch _ => true
  | _ => x.dram

/-- A root table address that R333 does not refuse. -/
def rootOk (s : State) (pa : Nat) : Bool := decide (pa % 4096 = 0) && decide (pa < 2 ^ 48) && (place s pa).normal

/-- Some line of a physical range is poisoned. -/
def physPoisoned (s : State) (pa n : Nat) : Bool :=
  (List.range (ceilDiv (pa % 4096 + n) 4096)).any (fun i => s.poisoned (canon s ((pa / 4096 + i) * 4096)) 4096)
    && (linesOf pa n).any (fun l => (s.curLine (lineOf (canon s (l * 64)))).2)

/-! ### Well-formed images (R41, R109) -/

/-- The checks of an image, in order: the offset of the field checked, and whether it passes. -/
abbrev Checks := List (Nat × Bool)

def firstFail (cs : Checks) : Option Nat := (cs.find? (fun c => !c.2)).map Prod.fst

def hPans (b : List Byte) : Nat := leField b 6 2
def hReserve (b : List Byte) : Nat := leField b 0x14 2
def hSlots (b : List Byte) : Nat := leField b 0x16 2
def hPeriod (b : List Byte) : Nat := leField b 0x10 4
def hPanTable (b : List Byte) : Nat := leField b 0x20 4
def hSlotTable (b : List Byte) : Nat := leField b 0x24 4
def panOff (b : List Byte) (j : Nat) : Nat := hPanTable b + 64 * j
def bedOff (b : List Byte) (j k : Nat) : Nat := leField b (panOff b j + 0x24) 4 + 32 * k
def slotOff (b : List Byte) (i : Nat) : Nat := hSlotTable b + 32 * i
def kernelOff (b : List Byte) (j k i : Nat) : Nat := leField b (bedOff b j k + 0x18) 4 + 64 * i
def kernelCount (b : List Byte) (j k : Nat) : Nat := leField b (bedOff b j k + 0x1C) 2

def allPanBeds (n : Nat) : List (Nat × Nat) := (List.range n).flatMap (fun j => beds16.map (fun k => (j, k)))

/-- Magic, version, length and CRC. -/
def frameChecks (b : List Byte) (len : Nat) : Checks :=
  [(0, decide (leField b 0 4 = 0x4E414C50)), (4, decide (leField b 4 2 = 1)), (0x28, decide (leField b 0x28 8 = len)),
   (0xFC, decide (leField b 0xFC 4 = crc32c (overlay b 0xFC (leBytes 4 0))))]

/-- Offsets and counts stay in the image. -/
def tableChecks (b : List Byte) (len : Nat) : Checks :=
  [(0x20, decide (hPanTable b + 64 * hPans b ≤ len)), (0x24, decide (hSlotTable b + 32 * hSlots b ≤ len))]

def bedTableChecks (b : List Byte) (len : Nat) : Checks :=
  (List.range (hPans b)).map (fun j => (panOff b j + 0x24, decide (leField b (panOff b j + 0x24) 4 + 512 ≤ len)))

def kernelTableChecks (b : List Byte) (len : Nat) : Checks :=
  (allPanBeds (hPans b)).map (fun x =>
    (bedOff b x.1 x.2 + 0x18, decide (leField b (bedOff b x.1 x.2 + 0x18) 4 + 64 * kernelCount b x.1 x.2 ≤ len)))

/-- Some slot record is an input. -/
def hasInput (b : List Byte) : Bool := (List.range (hSlots b)).any (fun i => decide (leField b (slotOff b i + 2) 1 = 0))

/-- Period, counts, status_va, and the reserved fields of the header, pan, bed and slot records. -/
def rangeChecks (b : List Byte) : Checks :=
  let va := leField b 0x30 8
  let zero (o n : Nat) : Bool := ((b.drop o).take n).all (fun x => x = 0)
  [(0x10, decide (250 ≤ hPeriod b) && decide (hPeriod b ≤ 20000)), (6, decide (1 ≤ hPans b) && decide (hPans b ≤ 20)),
   (0x14, decide (hReserve b ≤ 4)), (0x16, decide (hSlots b ≤ 1024)),
   (0x30, decide (va % 128 = 0) && (decide (va ≠ 0) || !hasInput b)), (0x38, zero 0x38 196)]
  ++ (List.range (hPans b)).map (fun j => (panOff b j + 0x28, zero (panOff b j + 0x28) 24))
  ++ (allPanBeds (hPans b)).map (fun x => (bedOff b x.1 x.2 + 0x1E, zero (bedOff b x.1 x.2 + 0x1E) 2))
  ++ (List.range (hSlots b)).map (fun i => (slotOff b i + 0x18, zero (slotOff b i + 0x18) 8))

def slotIdOf (b : List Byte) (i : Nat) : Nat := leField b (slotOff b i) 2

def slotChecks (b : List Byte) : Checks :=
  (List.range (hSlots b)).flatMap (fun i =>
    let o := slotOff b i
    let dir := leField b (o + 2) 1
    let nd := leField b (o + 3) 1
    [(o, decide (slotIdOf b i < hSlots b) && (List.range i).all (fun j => decide (slotIdOf b j ≠ slotIdOf b i))),
     (o + 2, decide (dir ≤ 1)), (o + 3, decide (nd ≤ 1) && (decide (nd = 0) || decide (dir = 0)))])

/-- A kernel entry of an image (R108). -/
def kernelAt (b : List Byte) (o : Nat) : Kernel :=
  { entry := BitVec.ofNat 64 (leField b o 8), args := BitVec.ofNat 64 (leField b (o + 8) 8), blocks := leField b (o + 0x10) 4,
    blockRakes := leField b (o + 0x14) 1, vregGroups := leField b (o + 0x15) 1, resident := leField b (o + 0x16) 1,
    keyed := decide (leField b (o + 0x17) 1 = 1), scratchBase := leField b (o + 0x18) 4, scratchPer := leField b (o + 0x1C) 4,
    slots := leField b (o + 0x20) 1, watchdog := leField b (o + 0x22) 2 }

/-- A kernel entry against its bed record (R109). -/
def kernelChecks (b : List Byte) (bed o : Nat) : Checks :=
  let k := kernelAt b o
  let zero (o n : Nat) : Bool := ((b.drop o).take n).all (fun x => x = 0)
  [(o, decide (k.entry.toNat % 8 = 0)), (o + 0x10, decide (1 ≤ k.blocks) && decide (k.blocks ≤ 65535)),
   (o + 0x14, decide (1 ≤ k.blockRakes) && decide (k.blockRakes ≤ 32)),
   (o + 0x15, decide (1 ≤ k.vregGroups) && decide (k.vregGroups ≤ 32)),
   (o + 0x16, decide (1 ≤ k.resident) && decide (k.resident ≤ 48)), (o + 0x17, decide (leField b (o + 0x17) 1 ≤ 1)),
   (o + 0x21, zero (o + 0x21) 1), (o + 0x24, zero (o + 0x24) 28),
   (o + 0x16, decide (k.resident * k.blockRakes ≤ leField b (bed + 8) 2)),
   (o + 0x14, decide (k.blockRakes ≤ leField b (bed + 0xA) 2)),
   (o + 0x15, decide (k.resident * k.blockRakes * k.vregGroups * 1024 ≤ leField b (bed + 0xC) 4)),
   (o + 0x18, decide (k.scratchBase + k.resident * k.scratchPer ≤ leField b (bed + 0x10) 4))]

def allKernelChecks (b : List Byte) : Checks :=
  (allPanBeds (hPans b)).flatMap (fun x =>
    (List.range (kernelCount b x.1 x.2)).flatMap (fun i => kernelChecks b (bedOff b x.1 x.2) (kernelOff b x.1 x.2 i)))

/-- The first list of checks with a failure names the field. -/
def firstOf (a : Option Nat) (b : Unit → Option Nat) : Option Nat :=
  match a with
  | some o => some o
  | none => b ()

/-- The offset of the field whose check fails first, or none for a well-formed image (R41). -/
def imageFault (b : List Byte) (len : Nat) : Option Nat :=
  firstOf (firstFail (frameChecks b len)) (fun _ =>
  firstOf (firstFail (tableChecks b len)) (fun _ =>
  firstOf (firstFail (bedTableChecks b len)) (fun _ =>
  firstOf (firstFail (kernelTableChecks b len)) (fun _ =>
  firstOf (firstFail (rangeChecks b)) (fun _ =>
  firstOf (firstFail (slotChecks b)) (fun _ => firstFail (allKernelChecks b)))))))

/-! ### The plan of an image -/

def bedPlanAt (b : List Byte) (j k : Nat) : BedPlan :=
  let o := bedOff b j k
  { worstCycles := leField b o 8, rakes := leField b (o + 8) 2, blockRakes := leField b (o + 0xA) 2,
    regfile := leField b (o + 0xC) 4, scratch := leField b (o + 0x10) 4, accum := leField b (o + 0x14) 4,
    kernels := (List.range (kernelCount b j k)).map (fun i => kernelAt b (kernelOff b j k i)) }

def panPlanAt (b : List Byte) (j : Nat) : PanPlan :=
  let o := panOff b j
  { brineBytes := leField b o 8, brineTraffic := leField b (o + 8) 8, flumeIn := leField b (o + 0x10) 8,
    flumeOut := leField b (o + 0x18) 8, energyUj := leField b (o + 0x20) 4, beds := beds16.map (bedPlanAt b j) }

def slotAt (b : List Byte) (i : Nat) : IoSlot :=
  let o := slotOff b i
  { id := leField b o 2, output := decide (leField b (o + 2) 1 = 1), optional := decide (leField b (o + 3) 1 = 1),
    bytes := leField b (o + 4) 4, buffer := leField b (o + 8) 8, ready := leField b (o + 0x10) 8 }

/-- The plan of a well-formed image, before admission binds it. -/
def planOf (b : List Byte) (root asid : Nat) : Plan :=
  { planId := BitVec.ofNat 64 (leField b 8 8), periodUs := hPeriod b, reserve := hReserve b, statusVa := leField b 0x30 8,
    stockpileBytes := leField b 0x18 8, pans := (List.range (hPans b)).map (panPlanAt b),
    slots := (List.range (hSlots b)).map (slotAt b), binding := [], root := root, asid := asid, floorPower := 0,
    stockpileBase := 0, stockpileLen := 0, absentPans := [] }

/-! ### Admission (R46 to R51) -/

/-- A check that fails: resource, pan, bed, required, available (R51). -/
structure NoFit where
  code : Nat
  pan : Nat := 0xFFFF
  bed : Nat := 0xFFFF
  required : Nat
  available : Nat
  deriving DecidableEq, Repr

/-- The 24-byte admission result record. -/
def NoFit.bytes (f : NoFit) : List Byte :=
  leBytes 2 f.code ++ leBytes 2 f.pan ++ leBytes 2 f.bed ++ leBytes 2 0 ++ leBytes 8 f.required ++ leBytes 8 f.available

def eligiblePans (s : State) : List Nat :=
  (List.range s.cfg.variant.pans).filter (fun p => s.onlinePan p && !(s.pan p).held)

def otherPlan (s : State) (slot : Nat) : Option Plan := s.plan (1 - slot)

/-- Eligible pans in the order R46 binds them: the other slot's first. -/
def bindOrder (s : State) (slot : Nat) : List Nat :=
  let other := ((otherPlan s slot).map Plan.binding).getD []
  let e := eligiblePans s
  e.filter (fun p => other.contains p) ++ e.filter (fun p => !other.contains p)

/-- A comparison that fits, or the failing check. -/
def fits (ok : Bool) (f : NoFit) : Except NoFit Unit := if ok then .ok () else .error f

def checkEach {α : Type} (l : List α) (f : α → Except NoFit Unit) : Except NoFit Unit :=
  match l with
  | [] => .ok ()
  | a :: r => do f a; checkEach r f

/-- Beds of a plan with their logical pan and bed number. -/
def Plan.bedList (pl : Plan) : List (Nat × Nat × BedPlan) :=
  ((List.range pl.pans.length).zip pl.pans).flatMap (fun x =>
    ((List.range x.2.beds.length).zip x.2.beds).map (fun y => (x.1, y.1, y.2)))

def panList (pl : Plan) : List (Nat × PanPlan) := (List.range pl.pans.length).zip pl.pans

/-- 0.95 × P in ns. -/
def budgetNs (pl : Plan) : Nat := pl.periodUs * 950

def bedTimeCheck (pl : Plan) (x : Nat × Nat × BedPlan) : Except NoFit Unit :=
  fits (decide (x.2.2.worstCycles * 5 ≤ budgetNs pl * 8))
    { code := 2, pan := x.1, bed := x.2.1, required := ceilDiv (x.2.2.worstCycles * 5) 8, available := budgetNs pl }

def bedSpaceCheck (x : Nat × Nat × BedPlan) : Except NoFit Unit := do
  let b := x.2.2
  fits (decide (b.rakes ≤ 48)) { code := 3, pan := x.1, bed := x.2.1, required := b.rakes, available := 48 }
  fits (decide (b.blockRakes ≤ 32)) { code := 3, pan := x.1, bed := x.2.1, required := b.blockRakes, available := 32 }
  fits (decide (b.regfile ≤ 262144)) { code := 4, pan := x.1, bed := x.2.1, required := b.regfile, available := 262144 }
  fits (decide (b.scratch ≤ 4194304)) { code := 5, pan := x.1, bed := x.2.1, required := b.scratch, available := 4194304 }
  fits (decide (b.accum ≤ 524288)) { code := 6, pan := x.1, bed := x.2.1, required := b.accum, available := 524288 }

def panCheck (s : State) (pl : Plan) (binding : List Nat) (x : Nat × PanPlan) : Except NoFit Unit := do
  let free := freeBrine s (binding.getD x.1 0)
  fits (decide (x.2.brineBytes ≤ free)) { code := 7, pan := x.1, required := x.2.brineBytes, available := free }
  fits (decide (x.2.brineTraffic ≤ budgetNs pl * 3200))
    { code := 8, pan := x.1, required := ceilDiv x.2.brineTraffic 3200, available := budgetNs pl }
  let fl := max x.2.flumeIn x.2.flumeOut
  fits (decide (fl ≤ budgetNs pl * 1000)) { code := 9, pan := x.1, required := ceilDiv fl 1000, available := budgetNs pl }

/-- The plan pool in the scratchpad window: base and bytes (R318, R319). -/
def planPool (ps : List Partition) (s0 base : Nat) : Nat × Nat :=
  match ps with
  | [] => (0, 0)
  | p :: r =>
    let n := p.units * 16 * mib * s0
    if p.kind = 2 then (if p.planPool then (base, n) else planPool r s0 (base + n)) else planPool r s0 base

/-- Free ranges of the pool beside the other plan's range, lowest first. -/
def poolRanges (s : State) (slot : Nat) : List (Nat × Nat) :=
  let pool := planPool s.stk.parts s.stk.s0 scratchBase
  match otherPlan s slot with
  | some o =>
    if o.stockpileLen = 0 then [pool]
    else [(pool.1, o.stockpileBase - pool.1), (o.stockpileBase + o.stockpileLen,
      pool.1 + pool.2 - (o.stockpileBase + o.stockpileLen))]
  | none => [pool]

/-- The size of a plan's stockpile range. -/
def stockLen (pl : Plan) : Nat := ceilDiv pl.stockpileBytes (2 * mib) * (2 * mib)

def ioBytes (pl : Plan) (output : Bool) : Nat :=
  (pl.slots.filter (fun k => k.output = output)).foldl (fun n k => n + k.bytes) 0

def networkCheck (s : State) (pl : Plan) (output : Bool) : Except NoFit Unit :=
  let n := ioBytes pl output
  let g := s.cfg.variant.ports * 200
  fits (decide (n ≤ g * budgetNs pl)) { code := 0xB, required := ceilDiv n g, available := budgetNs pl }

/-- P times the floor power of R49, in mW. -/
def floorPowerP (s : State) (pl : Plan) (binding : List Nat) : Nat :=
  let idle := ((List.range s.cfg.variant.pans).filter (fun p => s.onlinePan p && !binding.contains p)).length
  (s.cfg.moduleAllowance + s.cfg.idlePanAllowance * idle) * 1000 * pl.periodUs
    + pl.pans.foldl (fun n x => n + x.energyUj * 1000) 0

/-- The admission of R50: the plan with its binding, stockpile range and floor power. -/
def admission (s : State) (slot : Nat) (pl : Plan) : Except NoFit Plan := do
  let n := pl.pans.length
  let e := (eligiblePans s).length
  fits (decide (n ≤ e)) { code := 1, required := n, available := e }
  let binding := (bindOrder s slot).take n
  let other := ((otherPlan s slot).map Plan.binding).getD []
  let spare := ((eligiblePans s).filter (fun p => !binding.contains p && !other.contains p)).length
  let want := max pl.reserve (((otherPlan s slot).map Plan.reserve).getD 0)
  fits (decide (want ≤ spare)) { code := 1, required := e - spare + want, available := e }
  checkEach pl.bedList (bedTimeCheck pl)
  checkEach pl.bedList bedSpaceCheck
  checkEach (panList pl) (panCheck s pl binding)
  let len := stockLen pl
  let ranges := poolRanges s slot
  let best := ranges.foldl (fun m r => max m r.2) 0
  fits (decide (len ≤ best)) { code := 0xA, required := len, available := best }
  networkCheck s pl false
  networkCheck s pl true
  let fp := ceilDiv (floorPowerP s pl binding) pl.periodUs
  fits (decide (fp ≤ s.power.cap * 1000)) { code := 0xC, required := fp, available := s.power.cap * 1000 }
  let base := if len = 0 then 0 else ((ranges.find? (fun r => decide (len ≤ r.2))).map Prod.fst).getD 0
  .ok { pl with binding := binding, floorPower := fp, stockpileBase := base, stockpileLen := len }

/-! ### PLAN_LOAD and PLAN_UNLOAD -/

def cmdPlanLoad : Cmd := { code := 0x10, tray := false, hostRemote := true, pat := patPlan, lenOk := lenIs 24 }
def cmdPlanUnload : Cmd :=
  { code := 0x11, tray := false, hostRemote := true, pat := [.busy, .busy, .taken, .taken, .busy, .taken, .wrong],
    lenOk := lenIs 8 }

/-- A deferred PLAN_LOAD for a slot still runs. -/
def slotBusy (s : State) (slot : Nat) : Bool :=
  s.salter.deferred.any (fun e =>
    match e.2 with
    | .planLoad k _ _ _ _ => decide (k = slot)
    | _ => false)

def execPlanLoad (box : Nat) (s : State) : Host.Outcome State Fault Refusal :=
  go (command s box cmdPlanLoad [(1, 1)]
    (fun b => [(0, decide (b.field 0 1 ≤ 1)), (4, decide (b.field 4 4 ≤ 64 * mib)), (8, decide (b.field 8 8 % 64 = 0))])
    (fun b s => do
    let slot := b.field 0 1
    let len := b.field 4 4
    let pa := b.field 8 8
    let root := b.field 16 8
    need (!slotBusy s slot) stBusyRetry 0
    need (s.plan slot).isNone stWrongState 0
    need (decide (0 < len) && pagesAll s pa len Place.dram) stBadArgument 8
    need (rootOk s root) stBadArgument 0x10
    .ok (accept s box (.planLoad slot (b.field 2 2) len pa root))))

/-- Sets or clears XLAT.ROOT_s of pans (R333, R350). -/
def setRoots (s : State) (slot : Nat) (pans : List Nat) (v : Option (Nat × Nat)) : State :=
  pans.foldl (fun s p => s.updPan p (fun x => if slot = 0 then { x with root0 := v } else { x with root1 := v })) s

/-- The plan enters its slot: the pans it is bound to take its root, its stockpile range is zero, and M6 is extended. -/
def installPlan (s : State) (slot : Nat) (pl : Plan) (image : List Byte) : State :=
  let s1 := setRoots (s.setPlan slot (some pl)) slot pl.binding (some (pl.root, pl.asid))
  let s2 := if pl.stockpileLen = 0 then s1 else zeroRange s1 pl.stockpileBase pl.stockpileLen
  extendM s2 6 (image.take 256)

/-- The response of a PLAN_LOAD that succeeds. -/
def loadResp (pl : Plan) : List Byte :=
  ({ code := 0, required := 0, available := 0 } : NoFit).bytes
    ++ (List.range 20).flatMap (fun j => leBytes 1 (pl.binding.getD j 0xFF)) ++ leBytes 4 pl.floorPower
    ++ leBytes 8 pl.stockpileBase

/-- PLAN_LOAD_FINAL: the copy and its checks have ended (R41, R47). -/
def execPlanLoadFinal (box : Nat) (s : State) : Host.Outcome State Fault Refusal :=
  match deferredOf s box with
  | some (.planLoad slot asid len pa root) =>
    if physPoisoned s pa len then go (finish s box stUnitFailed [])
    else
      let s := physSpend s pa len 3
      let image := physBytes s pa len
      match imageFault image len with
      | some o => go (finishAt s box stBadArgument o true [])
      | none =>
        match admission s slot (planOf image root asid) with
        | .error f => go (finish s box stNoFit f.bytes)
        | .ok pl => go (finish (installPlan s slot pl image) box stOk (loadResp pl))
  | _ => go s

/-- The slot's plan runs, or a step of it does. -/
def slotRuns (s : State) (slot : Nat) : Bool :=
  decide (s.tide.running = some slot) || (s.stepOpen && decide (s.tide.cur.map StepRun.slot = some slot))

def slotStarts (s : State) (slot : Nat) : Bool := (s.tide.start.map (fun x => decide (x.slot = slot))).getD false

/-- CAP_RAISED is logged again only after the effective cap has fallen to the requested one (R52). -/
def effectiveCap (s : State) : Nat :=
  let fp (x : Option Plan) : Nat := (x.map Plan.floorPower).getD 0
  max s.power.cap (ceilDiv (max (fp s.plan0) (fp s.plan1)) 1000)

def settleCap (s : State) : State :=
  s.updPower (fun w => { w with raised := w.raised && decide (s.power.cap < effectiveCap s) })

def execPlanUnload (box : Nat) (s : State) : Host.Outcome State Fault Refusal :=
  go (command s box cmdPlanUnload [(1, 7)] (fun b => [(0, decide (b.field 0 1 ≤ 1))]) (fun b s => do
    let slot := b.field 0 1
    need (!slotBusy s slot) stBusyRetry 0
    match s.plan slot with
    | none => refuse stWrongState
    | some pl =>
      need (!slotRuns s slot && !slotStarts s slot) stWrongState 0
      let s1 := settleCap ((setRoots s slot pl.binding none).setPlan slot none)
      .ok (handBack s1 box stOk [])))

/-! ### TIDE_START and TIDE_STOP (R53 to R55) -/

def cmdTideStart : Cmd :=
  { code := 0x12, tray := false, hostRemote := true, pat := patPlan, lenOk := fun b => lenIs (0x20 + 32 * b.field 1 1) b }
def cmdTideStop : Cmd := { code := 0x13, tray := false, hostRemote := true, pat := patPlan, lenOk := lenIs 0 }

def memberAt (b : Mailbox) (i : Nat) : Member :=
  let o := 0x20 + 32 * i
  { ident := BitVec.ofNat 64 (b.field o 8), ip := BitVec.ofNat 128 (b.field (o + 8) 16), keyIndex := b.field (o + 0x18) 1,
    ipv6 := bitN (b.field (o + 0x19) 1) 0 }

def memberCount (b : Mailbox) : Nat := min 64 (b.field 1 1)

def startFields (b : Mailbox) : List (Nat × Bool) :=
  [(0, decide (b.field 0 1 ≤ 1)), (1, decide (1 ≤ b.field 1 1) && decide (b.field 1 1 ≤ 64)),
   (8, decide (b.field 8 8 < 2 ^ 48))]
  ++ (List.range (memberCount b)).flatMap (fun i =>
    let o := 0x20 + 32 * i
    [(o + 0x18, decide (b.field (o + 0x18) 1 ≤ 15)), (o + 0x19, decide (b.field (o + 0x19) 1 ≤ 1)),
     (o + 0x1A, decide (b.field (o + 0x1A) 6 = 0))])

/-- A tick at time a falls at a tick of the running plan, within 1 ns (R54). -/
def onTick (t : Tide) (a : Nat) : Bool :=
  let e := t.epochSec * 1000000000 + t.epochNs
  let p := t.periodUs * 1000
  decide (e ≤ a + 1) && (decide (a < e) || decide ((a - e) % p ≤ 1) || decide (p ≤ (a - e) % p + 1))

def execTideStart (box : Nat) (s : State) : Host.Outcome State Fault Refusal :=
  go (command s box cmdTideStart [(3, 5), (0x14, 4)] startFields (fun b s => do
    let slot := b.field 0 1
    need (!slotBusy s slot) stBusyRetry 0
    need ((s.plan slot).isSome && decide (s.tide.running ≠ some slot) && s.tide.start.isNone) stWrongState 0
    need (decide (b.field 0x10 4 < 1000000000)) stBadArgument 0x10
    let ms := (List.range (memberCount b)).map (memberAt b)
    let x : Start := { slot := slot, n0 := b.field 0x18 8, sec := b.field 8 8, ns := b.field 0x10 4, own := b.field 2 1,
                       members := ms }
    let t := startTime s x x.n0
    need (decide (s.now + 1000000 ≤ t) && decide (t ≤ s.now + 60000000000)) stBadArgument 0x18
    need (s.tide.running.isNone || onTick s.tide t) stBadArgument 0x18
    need (decide (x.own < ms.length)) stBadArgument 2
    need (decide ((ms[x.own]?).map Member.ident = some s.cfg.identity)) stBadArgument (0x20 + 32 * x.own)
    match (List.range ms.length).find? (fun i => decide (i ≠ x.own) &&
        !s.cfg.destinations.any (fun d => decide ((ms[i]?).map Member.ident = some d.ident))) with
    | some i => badField (0x20 + 32 * i)
    | none => .ok (handBack (s.updTide (fun k => { k with start := some x })) box stOk [])))

/-- TIDE_STOP: with only a start pending it is cancelled at once; otherwise the stop takes effect at the end of the tide in
progress, and a pending switch is cancelled (R55). -/
def execTideStop (box : Nat) (s : State) : Host.Outcome State Fault Refusal :=
  go (command s box cmdTideStop [] noFields (fun _ s => do
    need (s.tide.running.isSome || s.tide.start.isSome) stWrongState 0
    if s.tide.running.isNone then
      .ok (handBack (s.updTide (fun t => { t with start := none, declared := [] })) box stOk (stopBytes s))
    else .ok (accept (s.updTide (fun t => { t with stopping := true, start := none })) box .tideStop)))

end Sys2Proof.Machine
end

