-- ==== Sys2Proof/Machine/Trust.lean ====
section
/-!
DEFINITION. The crust: signed images (R461, R462), its calls (R457), the report (R473), liquor restarts (R470), loss of a
control die (R409, R480), FW_STAGE and FW_SWITCH (R474 to R476). -/

namespace Sys2Proof.Machine

/-! ### Signed images and records (R461, R462) -/

/-- The signer a type requires: 0 Gwepen, 1 the package identity key, 2 the owner key. -/
def typeSigner (t : Nat) : Option Nat :=
  if t = 1 ∨ t = 2 ∨ t = 0x10 ∨ t = 0x12 then some 0
  else if t = 0x11 then some 1
  else if t = 3 ∨ t = 0x13 then some 2
  else none

/-- The counter a type is held against; 0 where it has none. -/
def typeCounter (s : State) (t : Nat) : Nat :=
  if t = 1 then s.trust.ctrCrust else if t = 2 then s.trust.ctrLiquor else if t = 3 ∨ t = 0x13 then s.trust.ctrSite else 0

/-- The fields of R461 that are not the signature, the digest or the version. -/
def headerOk (s : State) (b : List Byte) (t : Nat) : Bool :=
  decide (leField b 0 4 = 0x4E474953) && decide (leField b 4 2 = 1) && decide (leField b 6 2 = t)
    && decide (leField b 0x2A 6 = 0) && decide (leField b 0x68 56 = 0) && decide (typeSigner t = some (leField b 0x28 1))
    && (decide (leField b 0x28 1 ≠ 0) || decide (leField b 0x29 1 ≤ 3))
    && (decide (leField b 0x18 8 = s.cfg.identity.toNat) || (decide (leField b 0x18 8 = 0) && decide (t ≠ 0x10 ∧ t ≠ 0x12)))

/-- The body a header names. -/
def bodyOf (b : List Byte) : List Byte := (b.drop 256).take (leField b 0x10 8)

/-- Verification of an image or record: OK, BAD_SIGNATURE, or ROLLBACK_REFUSED where the version alone is too low. -/
def signedCheck (s : State) (b : List Byte) (t : Nat) : Nat :=
  let whole := decide (256 + leField b 0x10 8 ≤ b.length)
  if headerOk s b t && whole && Config.signatureGood (b.take 256) && decide ((b.drop 0x30).take 48 = sha384 (bodyOf b))
      && (decide (t ≠ 0x13) || Config.unsealed (bodyOf b)) then
    if typeCounter s t ≤ leField b 8 4 then stOk else stRollback
  else stBadSignature

/-- An image as its flash slot holds it. -/
def imageOf (b : List Byte) : Image :=
  { secVersion := leField b 8 4, version := leField b 0xC 4, sequence := leField b 0x20 8, entry := leField b 0x60 8,
    header := b.take 256, body := bodyOf b }

/-! ### The report (R473) -/

def runningVersion (s : State) (t : Nat) : Nat := ((tget none s.trust.running t).map Image.version).getD 0

/-- What the report says before its signature. In CRUST the fields the liquor would supply read zero. -/
def reportBody (s : State) (nonce : List Byte) : List Byte :=
  let up := decide (s.pkg.st ≠ .crust)
  let t := s.trust
  leBytes 4 0x54505241 ++ leBytes 2 1 ++ leBytes 1 s.pkg.st.code ++ leBytes 1 s.salter.active
    ++ leBytes 8 s.cfg.identity.toNat ++ leBytes 8 (if up then s.now else 0) ++ padTo 32 nonce ++ leBytes 4 t.boots
    ++ leBytes 4 (boolN (up && s.tally.paired) + 2 * boolN t.bistPassed + 4 * boolN (up && t.staged.isSome)
        + 8 * boolN (up && s.stk.dflt))
    ++ [1, 2, 0x10, 0x13, 3].flatMap (fun k => leBytes 4 (runningVersion s k))
    ++ leBytes 4 t.ctrCrust ++ leBytes 4 t.ctrLiquor ++ leBytes 4 t.ctrSite ++ leBytes 32 0
    ++ (List.range 8).flatMap (mBytes s)
    ++ padTo 96 (Config.keyBytes (t.aliasKey + 2)) ++ padTo 96 t.aliasCert ++ padTo 96 (Config.keyBytes 0)
    ++ padTo 96 (Config.keyBytes 1) ++ leBytes 1 Config.gwepenIndex ++ leBytes 15 0

/-- The 1,008 bytes of a report. The signature's nonce is a number of the generator, so it differs at each draw. -/
def report (s : State) (nonce : List Byte) : List Byte :=
  let b := reportBody s nonce
  b ++ padTo 96 (Config.deviceSign (b ++ leBytes 8 (s.draw 5200)))

/-! ### Crust calls (R457) -/

/-- The liquor runs, so that it can call the crust. -/
def liquorUp (s : State) : Bool :=
  decide (s.pkg.st ≠ .off) && decide (s.pkg.st ≠ .crust) && (tget none s.trust.running 2).isSome

/-- A crust call answers. -/
def answerCall (s : State) (status : Nat) (data : List Byte) : State :=
  (s.updTrust (fun t => { t with callStatus := BitVec.ofNat 16 status, callData := data })).drawn

def call (s : State) (f : State → State) : Host.Outcome State Fault Refusal := if liquorUp s then go (f s) else go s

/-- A range of memory a crust call or FW_STAGE may read. -/
def readable (s : State) (pa len : Nat) : Bool := decide (0 < len) && pagesAll s pa len Place.normal

def execVerify (pa len type : Nat) (s : State) : Host.Outcome State Fault Refusal :=
  call s (fun s =>
    if (typeSigner type).isNone ∨ !readable s pa len then answerCall s stBadArgument []
    else if physPoisoned s pa len then answerCall s stUnitFailed []
    else
      let s := physSpend s pa len 3
      let b := physBytes s pa len
      if signedCheck s b type = stOk then answerCall s stOk (b.take 256) else answerCall s (signedCheck s b type) [])

def execExtend (m : Nat) (item : List Byte) (s : State) : Host.Outcome State Fault Refusal :=
  call s (fun s =>
    if m ≤ 4 then answerCall s stNoRights []
    else if m ≤ 7 then answerCall (extendM s m item) stOk []
    else answerCall s stBadArgument [])

def execReport (nonce : List Byte) (s : State) : Host.Outcome State Fault Refusal :=
  call s (fun s => if nonce.length = 32 then answerCall s stOk (report s nonce) else answerCall s stBadArgument [])

/-- RANDOM (R460): the request after the 2^20th waits for the reseeding. -/
def execRandom (n : Nat) (s : State) : Host.Outcome State Fault Refusal :=
  call s (fun s =>
    if 256 < n then answerCall s stBadArgument []
    else if s.trust.drbgFailed then answerCall s stUnitFailed []
    else if 2 ^ 20 ≤ s.trust.drbgCount then s
    else answerCall (s.updTrust (fun t => { t with drbgCount := t.drbgCount + 1 })) stOk
      ((List.range n).map (fun i => BitVec.ofNat 8 (s.draw (6000 + i)))))

def execRepair (entry : List Byte) (s : State) : Host.Outcome State Fault Refusal :=
  call s (fun s => answerCall (repairEntry s entry) stOk [])

/-- PROTECT: only the mailbox rules and the rules of a reserved granule, as R339 has them. -/
def execProtect (req : ProtectReq) (s : State) : Host.Outcome State Fault Refusal :=
  call s (fun s =>
    match req with
    | .mailbox => answerCall s stOk []
    | .granule g dir =>
      if g < 64 ∧ dir = decide (dirGranule s = some g) then
        answerCall (s.updTrust (fun t => { t with protectDone := (g :: t.protectDone).eraseDups })) stOk []
      else answerCall s stNoRights []
    | .other => answerCall s stNoRights [])

def execKeyload (die : Nat) (s : State) : Host.Outcome State Fault Refusal :=
  call s (fun s =>
    if s.cfg.variant.ioDies ≤ die then answerCall s stNotPresent []
    else if s.isLost (dieOfIo die) ∨ (s.ioDie die).state = .failed then answerCall s stUnitFailed []
    else answerCall (s.updTrust (fun t => { t with keysLoaded := t.keysLoaded ||| (1#4 <<< die) })) stOk [])

/-- DRBG_RESEED: due after 2^20 requests; a health-test failure stops the generator and is logged (R460). -/
def execDrbgReseed (healthy : Bool) (s : State) : Host.Outcome State Fault Refusal :=
  if s.pkg.st = .off ∨ s.trust.drbgFailed ∨ s.trust.drbgCount < 2 ^ 20 then go s
  else if healthy then go (s.updTrust (fun t => { t with drbgCount := 0, drbgSeeds := t.drbgSeeds + 1 }))
  else go ((s.updTrust (fun t => { t with drbgFailed := true })).note evRngFail 0xFF 0 0 0)

/-! ### A firmware switch in progress (R475, R476) -/

def switchBox (s : State) : Option Nat :=
  (s.salter.deferred.find? (fun e => decide (e.2 = .fwSwitch))).map Prod.fst

/-- The switch is over: FW_SWITCH is handed back. -/
def endSwitch (s : State) (status : Nat) : State :=
  let s1 := (s.updTrust (fun t => { t with switchPhase := 0 })).updSalter (fun k => { k with switching := false })
  match switchBox s with
  | some b => finish s1 b status []
  | none => s1

/-- Before the cut-over the switch is abandoned, and the staged image stays staged (R476). -/
def abandonSwitch (s : State) (status : Nat) : State := if s.trust.switchPhase = 1 then endSwitch s status else s

/-- The new liquor is in force: CTR_LIQUOR rises, the flash slot changes and M5 is extended (step 4 of R475). -/
def newLiquor (s : State) (slot : Nat) (im : Image) : State :=
  let s1 := s.updTrust (fun t => { t with
    ctrLiquor := max t.ctrLiquor im.secVersion, slotOf := tput 0 t.slotOf 2 slot, running := tput none t.running 2 (some im),
    staged := none, switchPhase := 2 })
  (extendM s1 5 im.header).note evFwSwitched 0xFF 0 0 0

/-- The staged liquor with its flash slot. -/
def stagedImage (s : State) : Option (Nat × Image) :=
  s.trust.staged.bind (fun k => (tget none s.trust.flash (4 + k)).map (fun im => (k, im)))

/-- FW_SWITCH_CUT_OVER: the standby die's salter becomes active with the new liquor. -/
def execFwSwitchCutOver (s : State) : Host.Outcome State Fault Refusal :=
  if s.trust.switchPhase ≠ 1 then go s else
  match stagedImage s with
  | none => go (endSwitch s stBadSignature)
  | some (k, im) =>
    if !im.good then go (endSwitch s stBadSignature)
    else if im.secVersion < s.trust.ctrLiquor then go (endSwitch s stRollback)
    else go ((newLiquor s k im).updSalter (fun x => { x with active := 1 - x.active }))

def execFwSwitchComplete (s : State) : Host.Outcome State Fault Refusal :=
  if s.trust.switchPhase = 2 then go (endSwitch s stOk) else go s

def cmdFwSwitch : Cmd := { code := 0x61, tray := true, hostRemote := true, pat := patWork, lenOk := lenIs 0 }
def cmdFwStage : Cmd :=
  { code := 0x60, tray := true, hostRemote := true, pat := [.busy, .busy, .taken, .taken, .busy, .taken, .taken],
    lenOk := lenIs 16 }

/-- A FW_STAGE of a target runs. -/
def staging (s : State) (crust : Bool) : Bool :=
  s.salter.deferred.any (fun e =>
    match e.2 with
    | .fwStage _ _ c => c == crust
    | _ => false)

def standbyOnline (s : State) : Bool := decide (s.ctlState (1 - s.salter.active) = .online)

def execFwSwitch (box : Nat) (s : State) : Host.Outcome State Fault Refusal :=
  go (command s box cmdFwSwitch [] noFields (fun _ s => do
    need (decide (s.trust.switchPhase = 0) && !staging s false) stBusyRetry 0
    need (s.trust.staged.isSome && standbyOnline s) stWrongState 0
    .ok (accept ((s.updTrust (fun t => { t with switchPhase := 1 })).updSalter (fun k => { k with switching := true })) box
      .fwSwitch)))

def execFwStage (box : Nat) (s : State) : Host.Outcome State Fault Refusal :=
  go (command s box cmdFwStage [(13, 3)]
    (fun b => [(8, decide (b.field 8 4 ≤ 48 * mib)), (12, decide (b.field 12 1 ≤ 1))]) (fun b s => do
    let crust := decide (b.field 12 1 = 1)
    need (decide (s.trust.switchPhase = 0) && !staging s crust) stBusyRetry 0
    need (readable s (b.field 0 8) (b.field 8 4)) stBadArgument 0
    .ok (accept s box (.fwStage (b.field 0 8) (b.field 8 4) crust))))

/-- FW_STAGE_COMPLETE: the image is verified, written to the inactive flash slot of its type, read back and verified again
(R474). -/
def execFwStageComplete (box : Nat) (s : State) : Host.Outcome State Fault Refusal :=
  match deferredOf s box with
  | some (.fwStage pa len crust) =>
    let t := if crust then 1 else 2
    if physPoisoned s pa len then go (finish s box stUnitFailed [])
    else
      let s := physSpend s pa len 3
      let b := physBytes s pa len
      let st := signedCheck s b t
      if st ≠ stOk then go (finish s box st [])
      else
        let slot := 1 - tget 0 s.trust.slotOf t
        let s1 := s.updTrust (fun x => { x with
          flash := tput none x.flash (2 * t + slot) (some (imageOf b)), staged := if crust then x.staged else some slot })
        go (finish s1 box stOk (leBytes 4 (imageOf b).version))
  | _ => go s

/-! ### Liquor restarts and control-die loss (R409, R456, R470, R480) -/

/-- The crust restarts the liquor from its verified image: M5 is extended and the restart is logged. -/
def restartLiquor (s : State) : State :=
  let h := ((tget none s.trust.running 2).map Image.header).getD []
  ((extendM s 5 h).updTrust (fun t => { t with restarts := s.now :: t.restarts.take 2 })).note evLiquorRestart
    (dieOfCtl s.salter.active) 0 0 0

/-- MPU_FAULT: the access is refused and logged, and the liquor is restarted. -/
def execMpuFault (_target : MpuTarget) (s : State) : Host.Outcome State Fault Refusal :=
  if liquorUp s then go (restartLiquor (s.note evMpuFault (dieOfCtl s.salter.active) 0 0 3)) else go s

def execHeartbeatMiss (s : State) : Host.Outcome State Fault Refusal := if liquorUp s then go (restartLiquor s) else go s

/-- The active control die is lost: the standby takes over with every command and round, and replay is set with cause 3. A
switch before its cut-over ends with the new liquor on the die that takes over (R409, R425, R427, R476). -/
def controlDieLoss (s : State) : State :=
  let a := s.salter.active
  let s1 := s.updSalter (fun k => { k with dies := tput .online k.dies a .failed })
  if !standbyOnline s then s1 else
  let s2 := repairEntry (s1.note evSwitchover (dieOfCtl a) 0 0 4) (leBytes 1 6 ++ leBytes 1 a)
  let s3 := setReplay (s2.updSalter (fun k => { k with active := 1 - a })) 3
  let s4 := (s3.updTally (fun t => { t with open_ := none })).updTrust (fun t => { t with restarts := [] })
  if s.trust.switchPhase = 1 then
    match stagedImage s with
    | some (k, im) => endSwitch (newLiquor s4 k im) stOk
    | none => s4
  else if s.trust.switchPhase = 2 then endSwitch s4 stOk
  else s4

/-- The control dies run. -/
def controlUp (s : State) : Bool := decide (s.pkg.st ≠ .off) && decide (s.ctlState s.salter.active ≠ .failed)

def execControlDieSwitchover (s : State) : Host.Outcome State Fault Refusal :=
  if controlUp s then go (controlDieLoss s) else go s

/-- LIQUOR_RESTART_LIMIT: three restarts within 60 s. -/
def execLiquorRestartLimit (s : State) : Host.Outcome State Fault Refusal :=
  match s.trust.restarts with
  | _ :: _ :: t :: _ => if controlUp s ∧ s.now ≤ t + 60000000000 then go (controlDieLoss s) else go s
  | _ => go s

/-- The standby is lost: it is FAILED, and a switch to it ends (R409, R480). -/
def standbyLoss (s : State) : State :=
  abandonSwitch (s.updSalter (fun k => { k with dies := tput .online k.dies (1 - k.active) .failed })) stUnitFailed

def execStandbyControlDieLost (s : State) : Host.Outcome State Fault Refusal :=
  if controlUp s ∧ standbyOnline s then go (standbyLoss s) else go s

end Sys2Proof.Machine
end

