-- ==== Sys2Proof/Machine/Salter.lean ====
section
/-!
DEFINITION. The salter's own commands: CAPS (R399), STATE (R398), ATTEST, WINDOW_SET (R407), STOP_ALL (R401 to R405), and a
command code outside R398. -/

namespace Sys2Proof.Machine

/-! ### CAPS (R399) -/

/-- A unit's state byte; 0xFF where the variant does not carry it. -/
def unitByte (s : State) (kind i : Nat) : Nat :=
  if i < kindCount s.cfg.variant kind then (unitState s kind i).code else 0xFF

/-- The state byte of a control die: bit 2 is 1 while the die is active. -/
def ctlByte (s : State) (c : Nat) : Nat := (s.ctlState c).code + 4 * boolN (decide (s.salter.active = c))

def enabledCores (s : State) : Nat := ((List.range s.cfg.variant.cores).filter (fun n => s.hasCore n)).length

/-- Bits of cores that have none: bit n for core number n (R227). -/
def absentMask (s : State) : List Byte :=
  (List.range 24).map (fun k =>
    (List.range 8).foldl (fun (b : Byte) i =>
      let n := 8 * k + i
      if n < s.cfg.variant.cores ∧ !s.hasCore n then b ||| (1#8 <<< i) else b) 0)

def capsBytes (s : State) : List Byte :=
  let v := s.cfg.variant
  leBytes 1 v.pans ++ leBytes 1 v.coreDies ++ leBytes 1 v.ioDies ++ leBytes 1 v.stkDies ++ leBytes 1 2
    ++ leBytes 1 (if v.full then 7 else 0) ++ leBytes 2 (enabledCores s) ++ leBytes 8 s.cfg.identity.toNat
    ++ leBytes 8 s.salter.dirPa
    ++ leBytes 8 (((List.range v.coreDies).filter (fun d => !s.isLost (dieOfCore d))).length * lpdSize)
    ++ leBytes 4 (runningVersion s 1) ++ leBytes 4 (runningVersion s 2) ++ leBytes 1 s.salter.active
    ++ leBytes 1 s.cfg.stepping ++ leBytes 22 0
    ++ (List.range 20).flatMap (fun i => leBytes 1 (unitByte s 0 i))
    ++ (List.range 8).flatMap (fun i => leBytes 1 (unitByte s 1 i))
    ++ (List.range 4).flatMap (fun i => leBytes 1 (unitByte s 2 i))
    ++ (List.range 6).flatMap (fun i => leBytes 1 (unitByte s 3 i))
    ++ leBytes 1 (ctlByte s 0) ++ leBytes 1 (ctlByte s 1) ++ absentMask s

def cmdCaps : Cmd := { code := 1, tray := true, hostRemote := true, pat := patCaps, lenOk := lenIs 0 }

def execCaps (box : Nat) (s : State) : Host.Outcome State Fault Refusal :=
  go (command s box cmdCaps [] noFields (fun _ s => .ok (handBack s box stOk (capsBytes s))))

/-! ### STATE (R398, R405) -/

def stateBytes (s : State) : List Byte :=
  leBytes 1 s.pkg.st.code ++ leBytes 1 (boolN s.plan0.isSome + 2 * boolN s.plan1.isSome)
    ++ leBytes 1 (s.tide.running.getD 0xFF)
    ++ leBytes 1 (boolN s.tide.start.isSome + 2 * boolN s.salter.heldPorts + 4 * boolN s.trust.staged.isSome)
    ++ leBytes 4 0 ++ leBytes 8 s.tide.number ++ leBytes 8 s.now

def cmdState : Cmd := { code := 2, tray := true, hostRemote := true, pat := patAll, lenOk := lenIs 8 }

/-- A STATE request whose op byte satisfies a test, its effect, and its response. -/
def stateCommand (s : State) (box : Nat) (op : Nat → Bool) (eff : State → Except Refuse State) : State :=
  match requestAt s box cmdState with
  | none => s
  | some b =>
    if !op (b.field 0 1) then s
    else command s box cmdState [(1, 7)] (fun b => [(0, decide (b.field 0 1 ≤ 3))])
      (fun _ s => do
        let s1 ← eff s
        .ok (handBack s1 box stOk (stateBytes s1)))

/-- STATE op 0; it also answers an op above 3 with BAD_ARGUMENT. -/
def execStateQuery (box : Nat) (s : State) : Host.Outcome State Fault Refusal :=
  go (stateCommand s box (fun o => o == 0 || decide (3 < o)) (fun s => .ok s))

def setPkg (s : State) (p : PkgState) : State := s.updPkg (fun k => { k with st := p })

def execStateEnterMaint (box : Nat) (s : State) : Host.Outcome State Fault Refusal :=
  go (stateCommand s box (fun o => o == 1) (fun s => do
    need (decide (s.pkg.st = .ready) && s.tide.start.isNone) stWrongState 0
    .ok (setPkg s .maint)))

/-- A BIST_RUN runs. -/
def bistRunning (s : State) : Bool :=
  s.salter.deferred.any (fun e =>
    match e.2 with
    | .bistRun _ _ _ _ => true
    | _ => false)

def execStateLeaveMaint (box : Nat) (s : State) : Host.Outcome State Fault Refusal :=
  go (stateCommand s box (fun o => o == 2) (fun s => do
    need (decide (s.pkg.st = .maint)) stWrongState 0
    need (!bistRunning s) stBusyRetry 0
    .ok (setPkg s .ready)))

/-- Every queue pair goes on sending. -/
def pumpAll (s : State) : State := (s.qps.map Prod.fst).foldl pump s

/-- STATE op 3: the port hold ends; without a hold it does nothing. -/
def execStateReleasePortHold (box : Nat) (s : State) : Host.Outcome State Fault Refusal :=
  go (stateCommand s box (fun o => o == 3) (fun s =>
    .ok (if s.salter.heldPorts then pumpAll (s.updSalter (fun k => { k with heldPorts := false })) else s)))

/-! ### ATTEST (R473) and WINDOW_SET (R407) -/

def cmdAttest : Cmd := { code := 0x70, tray := true, hostRemote := true, pat := patAll, lenOk := lenIs 32 }

def execAttest (box : Nat) (s : State) : Host.Outcome State Fault Refusal :=
  go (command s box cmdAttest [] noFields (fun b s => .ok (handBack s box stOk (report s (b.bytes 0 32)))))

def cmdWindow : Cmd :=
  { code := 0x80, tray := true, hostRemote := false, pat := [.busy, .busy, .taken, .taken, .busy, .taken, .taken],
    lenOk := lenIs 16 }

/-- A range and mode that the window policy permits. -/
def policyAllows (s : State) (base len mode : Nat) : Bool :=
  s.cfg.windowPolicy.any (fun r => decide (r.base ≤ base) && decide (base + len ≤ r.base + r.len) && (r.write || decide (mode ≠ 2)))

def execWindowSet (box : Nat) (s : State) : Host.Outcome State Fault Refusal :=
  go (command s box cmdWindow [(13, 3)]
    (fun b => [(0, decide (b.field 0 8 % 65536 = 0)),
               (8, decide (b.field 8 4 % 65536 = 0) && decide (65536 ≤ b.field 8 4) && decide (b.field 8 4 ≤ 64 * mib)),
               (12, decide (b.field 12 1 ≤ 2))]) (fun b s => do
    let base := b.field 0 8
    let len := b.field 8 4
    let mode := b.field 12 1
    need (pagesAll s base len Place.normal) stBadArgument 0
    need (policyAllows s base len mode) stNoRights 0
    .ok (handBack (s.updSalter (fun k => { k with winBase := base, winLen := len, winMode := mode })) box stOk
      (b.bytes 0 16))))

/-! ### A code outside R398 -/

def commandCodes : List Nat :=
  [0x01, 0x02, 0x10, 0x11, 0x12, 0x13, 0x20, 0x21, 0x22, 0x23, 0x30, 0x31, 0x40, 0x41, 0x50, 0x60, 0x61, 0x70, 0x80, 0xF0]

def execBadCommand (box : Nat) (s : State) : Host.Outcome State Fault Refusal :=
  if answers s box ∧ s.salter.latched.head? = some box ∧ !commandCodes.contains (s.box box).command.toNat then
    go (handBack (s.updSalter (fun x => { x with latched := x.latched.drop 1 })) box stBadCommand [])
  else go s

/-! ### STOP_ALL (R401 to R405) -/

/-- What the STOP message does at the units: the step in progress ends without release, migrations are cut short, and a plan
that runs or waits stops with its plans loaded (R403). In DRAINING the stop takes effect at the drain's end (R404). -/
def stopUnits (s : State) : State :=
  match s.pkg.st with
  | .ready => endPlan (cutMoves (stopStep s))
  | .serving => endPlan (cutMoves (stopStep s))
  | .draining => s.updPkg (fun k => { k with stopInDrain := true })
  | _ => s

/-- The STOP message leaves the control die. -/
def sendStop (s : State) : State :=
  let s1 := s.updSalter (fun k => { k with stops := (k.stops + 1) % 2 ^ 32, lastStop := s.now % 2 ^ 64 })
  stopUnits s1

def holdPorts (s : State) (flags : Nat) : State :=
  if bitN flags 0 then s.updSalter (fun k => { k with heldPorts := true }) else s

/-- A plan is stopped by this STOP_ALL: one runs, or a start is pending. -/
def stopsPlan (s : State) : Bool :=
  (decide (s.pkg.st = .ready) || decide (s.pkg.st = .serving)) && s.tide.running.isSome

/-- The response: the last tide in which plan work started, its step, and whether a plan was stopped. -/
def stopResponse (s : State) (stopped : Bool) : List Byte :=
  leBytes 8 s.tide.lastTide ++ leBytes 4 s.tide.lastStep ++ leBytes 1 (boolN stopped)

/-- The request of a STOP_ALL is well formed: length 8, reserved bits zero. -/
def stopFault (flags : Nat) (len : Nat) (rest : List Byte) : Option Nat :=
  if len ≠ 8 then some 0xFFFFFFFF
  else if 1 < flags then some 0
  else if rest.any (fun x => x ≠ 0) then some 1
  else none

/-- STOP_ALL that a mailbox holds: taken from among the latched requests whatever stands before it. -/
def stopMailbox (s : State) (box : Nat) : State :=
  let b := s.box box
  let s0 := s.updSalter (fun x => { x with latched := x.latched.filter (fun m => m ≠ box) })
  let s1 := sendStop s0
  match stopFault (b.field 0 1) b.length.toNat (b.bytes 1 7) with
  | some o => handBackAt s1 box stBadArgument o false []
  | none => handBack (holdPorts s1 (b.field 0 1)) box stOk (stopResponse s1 (stopsPlan s))

/-- The offsets of the fields of an MBOX_REQUEST body: the mailbox image of R383. -/
def bodySeq (body : List Byte) : Nat := leField body 0 8 / 2 % 2 ^ 15
def bodyCommand (body : List Byte) : Nat := leField body 2 2
def bodyLength (body : List Byte) : Nat := leField body 4 2

end Sys2Proof.Machine
end

