-- ==== Sys2Proof/Machine/Regions.lean ====
section
/-!
DEFINITION. REGION_REGISTER and REGION_DEREGISTER (R367 to R369). -/

namespace Sys2Proof.Machine

def cmdRegister : Cmd := { code := 0x30, tray := false, hostRemote := true, pat := patWork, lenOk := lenIs 32 }
def cmdDeregister : Cmd :=
  { code := 0x31, tray := false, hostRemote := true, pat := [.busy, .busy, .taken, .taken, .busy, .taken, .taken],
    lenOk := lenIs 8 }

/-- Remote atomic needs remote read and remote write; remote write needs local write (R367). -/
def rightsOk (r : Nat) : Bool :=
  (!bitN r rRemoteAtomic || (bitN r rRemoteRead && bitN r rRemoteWrite)) && (!bitN r rRemoteWrite || bitN r rLocalWrite)

def regionIndices : Nat := 2 ^ 20

def execRegionRegister (box : Nat) (s : State) : Host.Outcome State Fault Refusal :=
  go (command s box cmdRegister [(11, 5)]
    (fun b => [(10, decide (b.field 10 1 < 32)),
               (0x18, decide (1 ≤ b.field 0x18 8) && decide (b.field 0x18 8 ≤ 2 ^ 40))]) (fun b s => do
    let rights := b.field 10 1
    need (rightsOk rights) stBadArgument 10
    need (rootOk s (b.field 0 8)) stBadArgument 0
    need (decide (s.salter.regions.length < regionIndices)) stNoFit 0
    .ok (accept s box (.regionRegister (b.field 0 8) (b.field 8 2) (BitVec.ofNat 5 rights) (b.field 0x10 8)
      (b.field 0x18 8)))))

/-- Page rights that a region's rights need (R368). -/
def pageNeeds (r : BitVec 5) : List Nat :=
  (if r.getLsbD rLocalRead || r.getLsbD rRemoteRead then [1] else [])
    ++ (if r.getLsbD rLocalWrite || r.getLsbD rRemoteWrite then [2] else [])
    ++ (if r.getLsbD rRemoteAtomic then [1, 2, 3] else [])

/-- The addresses at which a part of a page is looked up in the memory map and the protection table: its first, and each
4 KiB one after it up to the page's size. -/
def partAddrs (pa n : Nat) : List Nat := pa :: (List.range (n / 4096)).map (fun i => (pa / 4096 + i + 1) * 4096)

/-- One page's part of a region, from a virtual address on for n bytes: refused, or fine. -/
def pageVerdict (s : State) (rights : BitVec 5) (l : Leaf) (va n : Nat) : Nat :=
  let pa := l.pa va
  if !(pageNeeds rights).all l.has then stNoRights
  else if (partAddrs pa n).any (fun a => decide (a < pa + n) && !isNormal s a) then stBadArgument
  else if (partAddrs pa n).any (fun a => decide (a < pa + n) && !protectOk s (canon s a) true (pageNeeds rights == [1])) then
    stNoRights
  else stOk

/-- Walks every page of a range in ascending order: the translations kept and the pages whose C bit is clear, or the status
of the first page refused. -/
def walkRegion (s : State) (root : Nat) (rights : BitVec 5) (fuel va last : Nat)
    (acc : List (Nat × Nat × Nat)) (unc : List Nat) : Except Nat (List (Nat × Nat × Nat) × List Nat) :=
  match fuel with
  | 0 => .ok (acc.reverse, unc)
  | k + 1 =>
    if last ≤ va then .ok (acc.reverse, unc) else
    if !canonical va then .error stBadArgument else
    match walk s root va with
    | .error _ => .error stBadArgument
    | .ok l =>
      let lo := va % 2 ^ 48
      let n := min (last - va) (l.base + l.bytes - lo)
      let st := pageVerdict s rights l lo n
      if st ≠ stOk then .error st
      else walkRegion s root rights k (va + n) last ((l.base, l.bytes, l.frame) :: acc)
        (if l.cacheable then unc else l.base :: unc)

/-- Page translations held by every region of the package. -/
def heldPages (s : State) : Nat := s.salter.regions.foldl (fun n e => n + ((e.2.map (fun r => r.pages.length)).getD 0)) 0

/-- A free index; which one the manual does not say (entry 31). -/
def freeIndex (s : State) : Option Nat :=
  let k := s.draw 2600 % regionIndices
  let free (i : Nat) : Bool := (tget none s.salter.regions i).isNone
  (List.range (s.salter.regions.length + 1)).map (fun i => (k + i) % regionIndices) |>.find? free

/-- REGION_REGISTER_FINAL: every page has been walked; the region is created with a key of its own, or refused (R368). -/
def execRegionRegisterFinal (box : Nat) (s : State) : Host.Outcome State Fault Refusal :=
  match deferredOf s box with
  | some (.regionRegister root _ rights start len) =>
    match walkRegion s root rights (len / 4096 + 2) start (start + len) [] [] with
    | .error st => go (finish s box st []).drawn
    | .ok (pages, unc) =>
      match freeIndex s with
      | none => go (finish s box stNoFit []).drawn
      | some i =>
        if 16777216 < heldPages s + pages.length then go (finish s box stNoFit []).drawn
        else
          let gen := tget 0 s.salter.regionGen i % 4096
          let key := BitVec.ofNat 32 (i + gen * regionIndices)
          let r : Region := { key := key, rights := rights, start := start, len := len, pages := pages, uncached := unc }
          let s1 := s.updSalter (fun k => { k with
            regions := tput none k.regions i (some r), regionGen := tput 0 k.regionGen i ((gen + 1) % 4096) })
          go (finish s1 box stOk (leBytes 4 key.toNat)).drawn
  | _ => go s

/-- The region a key names, ended or not. -/
def regionOf (s : State) (key : Word) : Option Region :=
  match tget none s.salter.regions (key.toNat % regionIndices) with
  | some r => if r.key = key then some r else none
  | none => none

def execRegionDeregister (box : Nat) (s : State) : Host.Outcome State Fault Refusal :=
  go (command s box cmdDeregister [(4, 4)] noFields (fun b s => do
    let key := BitVec.ofNat 32 (b.field 0 4)
    match regionOf s key with
    | none => refuse stBadArgument
    | some r =>
      need (!r.ending) stBusyRetry 0
      let s1 := s.updSalter (fun k => { k with
        regions := tput none k.regions (key.toNat % regionIndices) (some { r with ending := true }) })
      .ok (accept s1 box (.regionDeregister key))))

/-- An access to a region that has begun: a request sent from it, or into it, and not yet answered. -/
def regionInUse (s : State) (key : Word) : Bool :=
  s.qps.any (fun e => (e.2.map (fun x => x.sent.any (fun t => decide (t.lkey = key) && t.inline.isEmpty))).getD false)

/-- REGION_DEREGISTER_FINAL: once every access begun has been performed (R369). -/
def execRegionDeregisterFinal (box : Nat) (s : State) : Host.Outcome State Fault Refusal :=
  match deferredOf s box with
  | some (.regionDeregister key) =>
    if regionInUse s key then go s
    else go (finish (s.updSalter (fun k => { k with regions := tput none k.regions (key.toNat % regionIndices) none })) box
      stOk [])
  | _ => go s

end Sys2Proof.Machine
end

