-- ==== Sys2Proof/Machine/Queues.lean ====
section
/-!
DEFINITION. Queue-pair commands (R363, R364), doorbells (R365, R373, R379), acknowledgements and timers of the sender (R366,
R372, R376), and pacing (R377). -/

namespace Sys2Proof.Machine

/-! ### The context (R363) -/

/-- The 128 bytes of a context in memory. -/
def ctxBytes (s : State) (die : Nat) : List Byte := physBytes s (s.ioDie die).qpCtx 128

/-- The fields of a context lie in their ranges and its reserved fields are zero. -/
def ctxFieldsOk (b : List Byte) : Bool :=
  let f := leField b
  decide (f 2 1 ≤ 1) && decide (f 3 1 ≤ 4) && decide (1 ≤ f 5 1 ∧ f 5 1 ≤ 5)
    && decide (f 6 1 / 16 ≤ 6) && decide (f 6 1 % 16 ≤ 7) && decide (1 ≤ f 7 1 ∧ f 7 1 ≤ 31) && decide (f 8 1 ≤ 31)
    && decide (1 ≤ f 9 1 ∧ f 9 1 ≤ 16) && decide (f 10 1 ≤ 6) && decide (f 11 1 ≤ 55) && decide (f 12 1 ≤ 3)
    && decide (f 13 3 = 0) && decide (f 0x13 1 = 0) && decide (f 0x17 1 = 0) && decide (f 0x1B 1 = 0)
    && decide (f 0x1C 2 ≤ 3)
    && decide (4 ≤ f 0x36 1 ∧ f 0x36 1 ≤ 15) && decide (4 ≤ f 0x37 1 ∧ f 0x37 1 ≤ 15)
    && decide (f 0x38 8 % 4096 = 0) && decide (f 0x40 8 % 4096 = 0) && decide (f 0x48 8 % 4096 = 0)
    && (b.drop 0x50).all (fun x => decide (x = 0))

/-- The queues lie in populated normal memory. -/
def ctxBasesOk (s : State) (b : List Byte) : Bool :=
  let sq := 2 ^ leField b 0x36 1
  let rq := 2 ^ leField b 0x37 1
  pagesAll s (leField b 0x38 8) (64 * sq) Place.normal && pagesAll s (leField b 0x40 8) (32 * rq) Place.normal
    && pagesAll s (leField b 0x48 8) (32 * (sq + rq)) Place.normal

def qpStateOf (n : Nat) : QpState :=
  match n with
  | 0 => .reset
  | 1 => .init
  | 2 => .rtr
  | 3 => .rts
  | _ => .error

def QpState.code (x : QpState) : Nat :=
  match x with
  | .reset => 0
  | .init => 1
  | .rtr => 2
  | .rts => 3
  | .error => 4

/-- A queue pair with the attributes of a context laid over it; its state, PSNs and indices stay. -/
def Qp.withCtx (x : Qp) (b : List Byte) : Qp :=
  { x with
    raw := decide (leField b 2 1 = 1), port := leField b 4 1, pmtu := leField b 5 1, retryCnt := leField b 6 1 % 8,
    rnrRetry := leField b 6 1 / 16, timeout := leField b 7 1, minRnr := leField b 8 1, maxRd := leField b 9 1,
    priority := leField b 10 1, dscp := leField b 11 1, flags := leField b 12 1, destQpn := leField b 0x10 3,
    filter := BitVec.ofNat 32 (leField b 0x1C 4), remoteIp := BitVec.ofNat 128 (leField b 0x20 16),
    remoteMac := BitVec.ofNat 48 (leField b 0x30 6), sqLog := leField b 0x36 1, rqLog := leField b 0x37 1,
    sqBase := leField b 0x38 8, rqBase := leField b 0x40 8, cqBase := leField b 0x48 8 }

/-- The context as QUERY writes it, with the present state and PSNs. -/
def Qp.ctx (x : Qp) (q : Nat) : List Byte :=
  leBytes 2 q ++ leBytes 1 (boolN x.raw) ++ leBytes 1 x.state.code ++ leBytes 1 x.port ++ leBytes 1 x.pmtu
    ++ leBytes 1 (x.retryCnt + 16 * x.rnrRetry) ++ leBytes 1 x.timeout ++ leBytes 1 x.minRnr ++ leBytes 1 x.maxRd
    ++ leBytes 1 x.priority ++ leBytes 1 x.dscp ++ leBytes 1 x.flags ++ leBytes 3 0 ++ leBytes 4 x.destQpn
    ++ leBytes 4 x.sqPsn ++ leBytes 4 x.rqPsn ++ leBytes 4 x.filter.toNat ++ leBytes 16 x.remoteIp.toNat
    ++ leBytes 6 x.remoteMac.toNat ++ leBytes 1 x.sqLog ++ leBytes 1 x.rqLog ++ leBytes 8 x.sqBase ++ leBytes 8 x.rqBase
    ++ leBytes 8 x.cqBase ++ leBytes 48 0

/-! ### NET.QP_CMD (R364) -/

/-- NET.QP_STATUS.status after a command. -/
def qpStatus (s : State) (die status : Nat) : State :=
  s.updIoDie die (fun d => { d with status := BitVec.ofNat 16 status })

/-- The I/O dies run: from the end of training at boot on. -/
def ioUp (s : State) (die : Nat) : Bool :=
  decide (die < s.cfg.variant.ioDies) && !s.isLost (dieOfIo die) && decide ((s.ioDie die).state = .online)
    && decide (s.pkg.st ≠ .off) && decide (s.pkg.st ≠ .crust)

/-- The checks of a context against the command's index, the die and the variant. -/
def qpCtxStatus (s : State) (die q : Nat) (b : List Byte) : Nat :=
  if !pagesAll s (s.ioDie die).qpCtx 128 Place.normal then stBadArgument
  else if leField b 0 2 ≠ q ∨ !ctxFieldsOk b then stBadArgument
  else if s.cfg.variant.ports ≤ leField b 4 1 then stNotPresent
  else if leField b 4 1 / 4 ≠ die ∨ !ctxBasesOk s b then stBadArgument
  else stOk

/-- A queue pair that this die holds, or none. -/
def qpOn (s : State) (die q : Nat) : Option Qp :=
  match s.qp q with
  | some x => if x.port / 4 = die then some x else none
  | none => none

def qpCommand (s : State) (die q : Nat) (f : State → State) : Host.Outcome State Fault Refusal :=
  if q < 65536 ∧ ioUp s die then go (f (physSpend s (s.ioDie die).qpCtx 128 2)).drawn else go s

/-- CREATE: the queue pair comes into being in RESET with the context's attributes. -/
def execQpCreate (die q : Nat) (s : State) : Host.Outcome State Fault Refusal :=
  qpCommand s die q (fun s =>
    let b := ctxBytes s die
    let st := qpCtxStatus s die q b
    if st ≠ stOk then qpStatus s die st
    else if (s.qp q).isSome then qpStatus s die stWrongState
    else qpStatus (s.setQp q (some ((({} : Qp).withCtx b)))) die stOk)

/-- A state reachable from the present one. -/
def reachable (a b : QpState) : Bool :=
  match a, b with
  | _, .error => true
  | .reset, .init => true
  | .init, .rtr => true
  | .rtr, .rts => true
  | .error, .reset => true
  | _, _ => false

/-- What a queue pair becomes in its new state. -/
def Qp.enter (x : Qp) (b : List Byte) (st : QpState) : Qp :=
  let y := x.withCtx b
  match st with
  | .reset => { y with
      state := .reset, sqPi := 0, sqCi := 0, rqPi := 0, rqCi := 0, cqPi := 0, cqCi := 0, sent := [], retries := 0,
      rnrRetries := 0, rnrWait := none, saved := [], drained := false, rc := 1600000, rt := 1600000, rises := 0,
      lastCut := none, lastCnp := none, sqPsn := leField b 0x14 3, rqPsn := leField b 0x18 3 }
  | .rtr => { y with state := .rtr, rqPsn := leField b 0x18 3 }
  | .rts => { y with state := .rts, sqPsn := leField b 0x14 3 }
  | other => { y with state := other }

/-- MODIFY: to ERROR the open entries are flushed; to RTS the failed releases and the send queue go on. -/
def execQpModify (die q : Nat) (s : State) : Host.Outcome State Fault Refusal :=
  qpCommand s die q (fun s =>
    let b := ctxBytes s die
    let st := qpCtxStatus s die q b
    if st ≠ stOk then qpStatus s die st
    else
      match s.qp q with
      | none => qpStatus s die stWrongState
      | some x =>
        let dst := qpStateOf (leField b 3 1)
        if !reachable x.state dst then qpStatus s die stWrongState
        else if dst = .error then qpStatus (qpFail s q cFlushed) die stOk
        else
          let s1 := s.updQp q (fun x => x.enter b dst)
          qpStatus (if dst = .rts then pump (reissueReleases s1 q) q else s1) die stOk)

def execQpDestroy (die q : Nat) (s : State) : Host.Outcome State Fault Refusal :=
  qpCommand s die q (fun s =>
    match s.qp q with
    | none => qpStatus s die stWrongState
    | some _ =>
      if (qpOn s die q).isNone then qpStatus s die stBadArgument
      else qpStatus ((releaseFailed s q).setQp q none) die stOk)

def execQpQuery (die q : Nat) (s : State) : Host.Outcome State Fault Refusal :=
  qpCommand s die q (fun s =>
    match s.qp q with
    | none => qpStatus s die stWrongState
    | some x =>
      if (qpOn s die q).isNone ∨ !pagesAll s (s.ioDie die).qpCtx 128 Place.normal then qpStatus s die stBadArgument
      else qpStatus (ioWrite s (canon s (s.ioDie die).qpCtx) (x.ctx q)) die stOk)

/-! ### Doorbells -/

/-- A doorbell the die ignores is counted. For an absent queue pair the row names no die: which one counts it is a free value
(entry 16). -/
def doorbellIgnored (s : State) (q : Nat) : State :=
  let die := match s.qp q with
    | some x => x.port / 4
    | none => s.draw 3100 % s.cfg.variant.ioDies
  (s.updIoDie die (fun d => { d with ignored := satAdd 32 d.ignored 1 })).drawn

/-- The queue pair takes doorbells: present, in INIT, RTR or RTS, and not serving releases. -/
def takesDoorbell (s : State) (q : Nat) : Bool :=
  match s.qp q with
  | none => false
  | some x => decide (x.state ≠ .reset) && decide (x.state ≠ .error) && !relQp s q

def doorbell (s : State) (q : Nat) (f : State → State) : Host.Outcome State Fault Refusal :=
  if 65536 ≤ q ∨ s.pkg.st = .off ∨ s.pkg.st = .crust then go s
  else if takesDoorbell s q then go (f s).drawn else go (doorbellIgnored s q)

def execSqDoorbell (q pi : Nat) (s : State) : Host.Outcome State Fault Refusal :=
  doorbell s q (fun s => pump (s.updQp q (fun x => { x with sqPi := pi % 65536 })) q)

def execRqDoorbell (q pi : Nat) (s : State) : Host.Outcome State Fault Refusal :=
  doorbell s q (fun s => s.updQp q (fun x => { x with rqPi := pi % 65536 }))

/-- The consumer index is 16 bits of a running count. -/
def execCqConsumerUpdate (q ci : Nat) (s : State) : Host.Outcome State Fault Refusal :=
  doorbell s q (fun s => s.updQp q (fun x => { x with cqCi := x.cqCi + (ci + 65536 - x.cqCi % 65536) % 65536 }))

/-! ### Acknowledgements (R366, R372) -/

/-- The data of a release is acknowledged: its marker follows. The marker is acknowledged: the release is done, and one that
had been recorded as failed is recorded as reissued (R422). -/
def releaseAck (s : State) (q : Nat) (t : Sent) (slot : Nat) : State :=
  match s.qp q with
  | none => s
  | some x =>
    match x.rels.find? (fun r => r.slot = slot) with
    | none => s
    | some r =>
      if t.inline.isEmpty then sendMarker s q r
      else
        let s1 := s.updQp q (fun x => { x with rels := x.rels.filter (fun r => r.slot ≠ slot) })
        if r.failed then s1.updTally (fun t => { t with
          steps := t.steps ++ [{ result := 6, step := r.step, tide := s.tide.number, slot := slot }] })
        else s1

/-- One request is done. -/
def retireOne (s : State) (q : Nat) (t : Sent) : State :=
  let s1 := s.updQp q (fun x => { x with sent := x.sent.drop 1 })
  match t.rel with
  | some slot => releaseAck s1 q t slot
  | none => if t.signaled then complete s1 q t.wrId.toNat t.len 0 t.opcode cOk else s1

/-- Requests acknowledged up to a PSN retire in order; an RDMA READ only by its response. -/
def retireTo (fuel : Nat) (s : State) (q psn : Nat) : State :=
  match fuel with
  | 0 => s
  | k + 1 =>
    match (s.qp q).bind (fun x => x.sent.head?) with
    | none => s
    | some t =>
      if isRead t.opcode ∨ 2 ^ 23 ≤ psnAhead psn t.last then s else retireTo k (retireOne s q t) q psn

/-- Progress: the counts of retries start anew. -/
def acked (s : State) (q psn : Nat) : State :=
  match s.qp q with
  | none => s
  | some x =>
    let s1 := retireTo (x.sent.length + 1) s q psn
    match s1.qp q with
    | some y => if y.sent.length < x.sent.length then s1.updQp q (fun x => { x with retries := 0, rnrRetries := 0 }) else s1
    | none => s1

/-- A response for a queue pair in RTS on this port, whose link is up. -/
def forSender (s : State) (port q : Nat) (f : Qp → State → State) : Host.Outcome State Fault Refusal :=
  if !(s.port port).link then go s else
  let s1 := s.updPort port (fun p => { p with rx := satAdd 32 p.rx 1 })
  match s.qp q with
  | none => go (s1.updPort port (fun p => { p with dropQp := satAdd 16 p.dropQp 1 }))
  | some x =>
    if x.raw ∨ x.port ≠ port ∨ (x.state ≠ .rts ∧ x.state ≠ .rtr) then
      go (s1.updPort port (fun p => { p with dropQp := satAdd 16 p.dropQp 1 }))
    else go (f x s1).drawn

def execRoceAckReceived (port q psn : Nat) (s : State) : Host.Outcome State Fault Refusal :=
  forSender s port q (fun _ s => pump (acked s q psn) q)

/-- RDMA_READ_RESPONSE_RECEIVED: the oldest request, a READ of this PSN, is answered: the data enters the local buffer. -/
def execRdmaReadResponseReceived (port q psn : Nat) (data : List Byte) (s : State) : Host.Outcome State Fault Refusal :=
  forSender s port q (fun x s =>
    let s0 := acked s q (psn + 2 ^ 24 - 1)
    match (s0.qp q).bind (fun y => y.sent.head?) with
    | none => s0
    | some t =>
      if !isRead t.opcode ∨ t.psn ≠ psn then s0
      else if data.length ≠ t.len then qpFail s0 q cLocalLength
      else
        match regionFor s0 t.lkey rLocalWrite t.lva t.len with
        | none => qpFail s0 q cLocalProtection
        | some r =>
          let s1 := regionWrite s0 r t.lva data
          let s2 := retireOne s1 q t
          pump ((acked s2 q t.last).updQp q (fun y => { y with retries := 0, rnrRetries := if x.state = .rts then 0 else y.rnrRetries })) q)

/-- A NAK (R366, R374): requests before it are acknowledged, and the request it names is sent again, waits, or fails. -/
def execRoceNakReceived (port q psn : Nat) (kind : NakKind) (s : State) : Host.Outcome State Fault Refusal :=
  forSender s port q (fun _ s =>
    let s1 := acked s q (psn + 2 ^ 24 - 1)
    match kind with
    | .sequence => if netStopped s1 then s1 else resend s1 q
    | .rnr t =>
      match s1.qp q with
      | none => s1
      | some y =>
        if y.sent.isEmpty then s1
        else if y.rnrRetries < y.rnrRetry then
          s1.updQp q (fun y => { y with rnrRetries := y.rnrRetries + 1, rnrWait := some t })
        else qpFail s1 q cRnrExceeded
    | .remoteAccess => qpFail s1 q cRemoteAccess
    | .invalidRequest => qpFail s1 q cRemoteInvalid
    | .operational => qpFail s1 q cDataError)

/-- LOCAL_ACK_TIMEOUT: the timers stand still in a drain (R375). -/
def execLocalAckTimeout (q : Nat) (s : State) : Host.Outcome State Fault Refusal :=
  match s.qp q with
  | none => go s
  | some x =>
    if x.sent.isEmpty ∨ x.rnrWait.isSome ∨ x.state ≠ .rts ∨ netStopped s then go s
    else if x.retries < x.retryCnt then
      go (resend (s.updQp q (fun x => { x with retries := x.retries + 1 })) q)
    else go (qpFail s q cRetryExceeded).drawn

def execRnrTimerExpiry (q : Nat) (s : State) : Host.Outcome State Fault Refusal :=
  match s.qp q with
  | none => go s
  | some x =>
    if x.rnrWait.isNone ∨ x.state ≠ .rts ∨ netStopped s then go s
    else go (pump (resend (s.updQp q (fun x => { x with rnrWait := none })) q) q).drawn

/-! ### Pacing (R377) -/

/-- The lowest and highest rate, Mb/s. -/
def rateMin : Nat := 1000
def rateMax : Nat := 1600000

/-- An RC queue pair that sends through a port that is up. -/
def execCnpReceived (port q : Nat) (s : State) : Host.Outcome State Fault Refusal :=
  if !(s.port port).link then go s else
  let s1 := s.updPort port (fun p => { p with rx := satAdd 32 p.rx 1 })
  match s.qp q with
  | none => go (s1.updPort port (fun p => { p with dropQp := satAdd 16 p.dropQp 1 }))
  | some x =>
    if x.raw ∨ x.port ≠ port ∨ (x.state ≠ .rts ∧ x.state ≠ .rtr) then
      go (s1.updPort port (fun p => { p with dropQp := satAdd 16 p.dropQp 1 }))
    else
      let s2 := s1.updPort port (fun p => { p with cnpRx := satAdd 32 p.cnpRx 1 })
      let due : Bool := match x.lastCut with
        | none => true
        | some t => decide (t + s.cfg.ccInterval ≤ s.now)
      if due then
        go (s2.updQp q (fun x => { x with
          rt := x.rc, rc := max (x.rc * s.cfg.ccNum / s.cfg.ccDen) rateMin, rises := 0, lastCut := some s.now }))
      else go s2

/-- RATE_INCREASE_TIMER. -/
def execRateIncreaseTimer (q : Nat) (s : State) : Host.Outcome State Fault Refusal :=
  match s.qp q with
  | none => go s
  | some x =>
    if x.raw then go s
    else
      let rt := if x.rises < s.cfg.ccFast then x.rt else min (x.rt + s.cfg.ccStep) rateMax
      go (s.updQp q (fun x => { x with rt := rt, rc := (x.rc + rt) / 2, rises := x.rises + 1 }))

end Sys2Proof.Machine
end

