-- ==== Sys2Proof/Machine/Time.lean ====
section
/-!
DEFINITION. The time base: PTP (R30 to R36), the sluice's copies of package time (R37) and TIDE_IN (R38, R39). -/

namespace Sys2Proof.Machine

/-- The part's clocks run. -/
def timeUp (s : State) : Bool := decide (s.pkg.st ≠ .off) && decide (s.pkg.st ≠ .crust)

/-! ### Copies of package time (R37) -/

/-- TIME_SYNC_MESSAGE: a stop, named by its die's code, whose copy has drifted by more than 2 ns reports it and is corrected by
the next message. -/
def execTimeSyncMessage (stop : Nat) (driftPs : Int) (s : State) : Host.Outcome State Fault Refusal :=
  if !timeUp s then go s
  else if tget 0 s.time.drift stop ≠ 0 then go (s.updTime (fun t => { t with drift := tput 0 t.drift stop 0 }))
  else if 2000 < driftPs.natAbs then
    go ((s.updTime (fun t => { t with drift := tput 0 t.drift stop driftPs })).note evSluiceTiming stop 0 0 0)
  else go s

/-! ### Lock states (R32, R33, R36) -/

def enterHoldover (s : State) : State :=
  (s.updTime (fun t => { t with lock := .holdover, holdoverAt := s.now, goodSyncs := 0 })).note evHoldover 0xFF 0 0 0

def enterFree (s : State) : State := (s.updTime (fun t => { t with lock := .free, goodSyncs := 0 })).note evTimeFree 0xFF 0 0 0

/-- The best master heard: the lowest rank, the first heard among equals. -/
def bestMaster (l : List Master) : Option Master :=
  match l with
  | [] => none
  | a :: r => some (r.foldl (fun b m => if m.rank < b.rank then m else b) a)

/-- The selection follows the masters heard. A different master restarts the count, and takes LOCKED to HOLDOVER (R33). -/
def selectMaster (s : State) : State :=
  let best := (bestMaster s.time.masters).map Master.id
  if best = s.time.master then s else
  let had := s.time.master.isSome
  let s1 := s.updTime (fun t => { t with master := best })
  if !had then s1
  else
    match s.time.lock with
    | .locked => enterHoldover s1
    | .acquiring => s1.updTime (fun t => { t with goodSyncs := 0 })
    | .holdover => s1.updTime (fun t => { t with goodSyncs := 0 })
    | .free => s1

/-- A master is heard on a port. -/
def hearMaster (l : List Master) (m : Master) : List Master := l.filter (fun x => !(x.id == m.id && x.port == m.port)) ++ [m]

/-- The servo takes a filtered offset: while a plan runs, and in HOLDOVER, it only slews; else it steps (R33, R35). With
TIDE_IN as the source the edges steer the time base. -/
def steer (s : State) (off : Int) : State :=
  let s1 := s.updTime (fun t => { t with offset := BitVec.ofInt 32 off })
  if s.time.tideIn then s1
  else if s.tide.running.isSome ∨ s.time.lock = .holdover then s1.updTime (fun t => { t with slew := -off })
  else { s1 with now := (Int.ofNat s.now - off).toNat }

/-- Length of a Sync interval, ns. -/
def syncInterval (log : Int) : Nat := 1000000000 / 2 ^ (-log).toNat

/-- A candidate port asks for its path delay, by the mechanism it is configured for. The manual does not say how often; it asks
once for each valid Sync (entry 92). -/
def askDelay (s : State) (port : Nat) : State := s.emit (.ptpDelayRequest port (s.cfg.ptpPeer.contains port))

/-- A valid Sync of the selected master arrived on a port: the offset is what it measured less the path delay; one more interval
under 50 ns, or none (R32). -/
def takeSync (s : State) (m : PtpMsg) : State :=
  let off := m.offsetNs - tget 0 s.time.pathDelay m.port
  let good := decide (off.natAbs < 50)
  let s1 := s.updTime (fun t => { t with
    goodSyncs := if good then min 16 (t.goodSyncs + 1) else 0
    lock := if t.lock = .free then .acquiring else t.lock
    lastSync := s.now, syncLog := m.logSync, syncOpen := none })
  askDelay (steer s1 off) m.port

/-- What an authenticated message of the package's domain does. A two-step Sync is valid once its Follow_Up has come; a Sync outside
the supported intervals is none (R30). A delay response counts where it is of the port's mechanism. -/
def takePtp (s : State) (m : PtpMsg) : State :=
  let chosen := decide (s.time.master = some m.master)
  let peer := s.cfg.ptpPeer.contains m.port
  match m.kind with
  | .announce =>
    if m.arb then s
    else selectMaster (s.updTime (fun t => { t with
      masters := hearMaster t.masters { id := m.master, rank := m.rank, port := m.port } }))
  | .sync =>
    if !chosen ∨ m.logSync < -7 ∨ 0 < m.logSync then s
    else if m.twoStep then s.updTime (fun t => { t with syncOpen := some (m.port, m.master, m.seq), syncLog := m.logSync })
    else takeSync s m
  | .followUp =>
    if chosen ∧ s.time.syncOpen = some (m.port, m.master, m.seq) then takeSync s { m with logSync := s.time.syncLog } else s
  | .delayResp => if chosen && !peer then s.updTime (fun t => { t with pathDelay := tput 0 t.pathDelay m.port m.offsetNs }) else s
  | .pdelayResp => if peer then s.updTime (fun t => { t with pathDelay := tput 0 t.pathDelay m.port m.offsetNs }) else s
  | .management => s
  | .other => s

/-- PTP_MESSAGE (R30, R31): on a candidate port, of the configured domain, over a supported transport; an unauthenticated one is
dropped and counted. -/
def execPtpMessage (m : PtpMsg) (s : State) : Host.Outcome State Fault Refusal :=
  if !(s.port m.port).link ∨ !timeUp s then go s else
  let s1 := s.updPort m.port (fun p => { p with rx := satAdd 32 p.rx 1 })
  if !(m.authOk || (s.cfg.variant.full && (s.port m.port).macsec)) then
    go (s1.updPort m.port (fun p => { p with dropCtl := satAdd 16 p.dropCtl 1 }))
  else if m.domain ≠ s.cfg.ptpDomain ∨ !(s.cfg.ptpPorts.take 4).contains m.port ∨ m.transport = .other then go s1
  else go (takePtp s1 m)

def execPtpLocked (s : State) : Host.Outcome State Fault Refusal :=
  if s.time.goodSyncs = 16 ∧ (s.time.lock = .acquiring ∨ s.time.lock = .holdover) then
    go (s.updTime (fun t => { t with lock := .locked }))
  else go s

/-- SYNC_TIMEOUT: three Sync intervals without a valid Sync. -/
def execSyncTimeout (s0 : State) : Host.Outcome State Fault Refusal :=
  if !timeUp s0 ∨ s0.time.lock = .free then go s0 else
  let s := s0.reach (s0.time.lastSync + 3 * syncInterval s0.time.syncLog)
  match s0.time.lock with
  | .locked => go (enterHoldover s)
  | .acquiring => go (enterFree s)
  | .holdover => go (s.updTime (fun t => { t with goodSyncs := 0 }))
  | .free => go s

def execHoldoverLimit (s : State) : Host.Outcome State Fault Refusal :=
  if s.time.lock = .holdover then go (enterFree (s.reach (s.time.holdoverAt + s.cfg.holdoverMs * 1000000))) else go s

/-! ### TIDE_IN (R38, R39) -/

/-- The tick of the running plan within 2 µs of an edge. -/
def edgeTickOf (s : State) (at_ns : Nat) : Option Nat :=
  if s.tide.running.isNone then none else
  let t0 := tickTime s.tide 0
  let p := s.tide.periodUs * 1000
  if at_ns + 2000 < t0 ∨ p = 0 then none else
  let n := (at_ns + 2000 - t0) / p
  if at_ns ≤ tickTime s.tide n + 2000 then some n else none

/-- TIDE_IN_EDGE: as the source, an edge marks its tick and the time base is slewed to it; after a fall-back it counts toward
the return. An edge off every tick is ignored, and restarts that count. -/
def execTideInEdge (at_ns : Nat) (s : State) : Host.Outcome State Fault Refusal :=
  if !timeUp s ∨ !s.cfg.tideIn then go s else
  let s1 := s.reach at_ns
  match edgeTickOf s at_ns with
  | none => go (if s.time.tideIn then s1 else s1.updTime (fun t => { t with goodEdges := 0 }))
  | some n =>
    if s.time.tideIn then
      go (s1.updTime (fun t => { t with
        edgeTick := some n, missing := 0, slew := Int.ofNat (tickTime s.tide n) - Int.ofNat at_ns }))
    else go (s1.updTime (fun t => { t with edgeTick := some n, goodEdges := min 16 (t.goodEdges + 1) }))

/-- TIDE_IN_MISSING: no edge came within 2 µs of the last tick; the tick has fired from the package's own time base. -/
def execTideInMissing (s : State) : Host.Outcome State Fault Refusal :=
  if !s.cfg.tideIn ∨ s.tide.running.isNone ∨ s.time.edgeTick = some s.tide.number then go s else
  let s1 := s.reach (tickTime s.tide s.tide.number + 2000)
  if s.time.tideIn then
    go ((s1.updTime (fun t => { t with edgeTick := some s.tide.number, missing := min 4 (t.missing + 1) })).note
      evTideInMissing 0xFF 0 0 0)
  else go (s1.updTime (fun t => { t with edgeTick := some s.tide.number, goodEdges := 0 }))

/-- TIDE_IN_FALLBACK: PTP takes over where it is LOCKED; otherwise the package runs in FREE. -/
def execTideInFallback (s : State) : Host.Outcome State Fault Refusal :=
  if !s.time.tideIn ∨ s.time.missing < 4 then go s else
  let s1 := (s.updTime (fun t => { t with tideIn := false, missing := 0, goodEdges := 0 })).note evSourceChange 0xFF 0 0 0
  if s.time.lock = .locked ∨ s.time.lock = .free then go s1 else go (enterFree s1)

def execSourceChange (s : State) : Host.Outcome State Fault Refusal :=
  if s.cfg.tideIn ∧ !s.time.tideIn ∧ s.time.goodEdges = 16 then
    go ((s.updTime (fun t => { t with tideIn := true, missing := 0, goodEdges := 0 })).note evSourceChange 0xFF 0 0 0)
  else go s

end Sys2Proof.Machine
end

