-- ==== Sys2Proof/Machine/ControlNet.lean ====
section
/-!
DEFINITION. The control class: what a control engine accepts (R356 to R359), skip notices (R62, R65), remote mailbox requests
(R360) and STOP_ALL from either source (R401 to R405). -/

namespace Sys2Proof.Machine

/-! ### Acceptance (R358) -/

/-- The body length of a type is one its layout allows. -/
def bodyOk (type n : Nat) : Bool :=
  match type with
  | 1 => decide (n = 16)
  | 2 => decide (64 ≤ n)
  | 3 => decide (64 ≤ n)
  | 4 => decide (24 ≤ n)
  | 5 => decide (n = 16)
  | _ => false

/-- Accepted sequences of a sender and key: the highest, and which of the 64 below it. -/
def seqState (s : State) (m : ControlMsg) : Option (Nat × BitVec 64) :=
  (s.salter.recvSeq.find? (fun e => decide (e.1 = m.sender ∧ e.2.1 = m.keyIndex))).map (fun e => e.2.2)

/-- The sequence is new: above the highest, or among the 64 below it and not yet accepted. -/
def seqNew (s : State) (m : ControlMsg) : Bool :=
  match seqState s m with
  | none => true
  | some (hi, w) =>
    decide (hi < m.sequence) || (decide (m.sequence < hi) && decide (hi ≤ m.sequence + 64) && !w.getLsbD (hi - 1 - m.sequence))

/-- The sequence state with one more accepted. -/
def seqTake (s : State) (m : ControlMsg) : State :=
  let new : Nat × BitVec 64 :=
    match seqState s m with
    | none => (m.sequence, 0)
    | some (hi, w) =>
      if hi < m.sequence then (m.sequence, (w <<< (m.sequence - hi)) ||| (1#64 <<< (m.sequence - hi - 1)))
      else (hi, w ||| (1#64 <<< (hi - 1 - m.sequence)))
  s.updSalter (fun k => { k with
    recvSeq := k.recvSeq.filter (fun e => !decide (e.1 = m.sender ∧ e.2.1 = m.keyIndex)) ++
      [(m.sender, m.keyIndex, new.1, new.2)] })

/-- The key list permits the type and, for the mailbox types, the mailbox. -/
def keyPermits (s : State) (m : ControlMsg) : Bool :=
  match s.cfg.controlKeys[m.keyIndex]? with
  | none => false
  | some k => k.types.contains m.type.toNat && (decide (m.type ≠ 2 ∧ m.type ≠ 3) || k.mailboxes.getLsbD m.mailbox)

/-- Every condition of R358, and the priority of R353. The engine's die must hold the keys. -/
def controlOk (s : State) (m : ControlMsg) : Bool :=
  decide (m.pcp = 7) && decide (m.magic = 0x54435747) && decide (m.version = 1) && decide (m.length = m.body.length)
    && decide (m.length ≤ 4096) && bodyOk m.type.toNat m.length && m.reserved
    && (decide (m.type = 1) || decide (m.planId = 0))
    && (if m.type = 2 ∨ m.type = 3 then decide (m.mailbox < 8) else decide (m.mailbox = 0))
    && decide (m.keyIndex < 16) && s.trust.keysLoaded.getLsbD (m.port / 4) && keyPermits s m && m.tagOk && seqNew s m

/-- A control message arrives: it is dropped and counted, or accepted and handed on. -/
def controlMsg (s : State) (m : ControlMsg) (type : Nat) (f : State → State) : Host.Outcome State Fault Refusal :=
  if !(s.port m.port).link then go s else
  let s1 := s.updPort m.port (fun p => { p with rx := satAdd 32 p.rx 1 })
  if m.type.toNat = type ∧ controlOk s m then
    go (f ((seqTake s1 m).updPort m.port (fun p => { p with ctlAccepted := satAdd 32 p.ctlAccepted 1 })))
  else go (s1.updPort m.port (fun p => { p with dropCtl := satAdd 16 p.dropCtl 1 }))

/-! ### Skip notices (R62, R63, R65) -/

/-- The notice names the running plan, and its sender is the member at the position it gives; with no plan running no notice is
valid (R62). -/
def noticeOk (s : State) (m : ControlMsg) : Bool :=
  let pos := leField m.body 8 1
  let cause := leField m.body 9 1
  (match s.runningPlan with
    | some pl => decide (pl.planId = m.planId)
    | none => false)
    && decide (pos ≠ s.tide.own) && decide ((s.tide.members[pos]?).map Member.ident = some m.sender)
    && decide (cause = 1 ∨ cause = 2) && decide (leField m.body 10 6 = 0)

/-- The notice's tide is still to come: a later tick of the running plan, or tick n0 of a switch pending (R54). -/
def tideToCome (s : State) (n : Nat) : Bool := decide (s.tide.number < n) || decide (s.tide.start.map Start.n0 = some n)

/-- A valid notice for a tide to come skips it; one whose tick has passed stops the plan at the end of the tide in progress. -/
def takeNotice (s : State) (m : ControlMsg) : State :=
  let n := leField m.body 0 8
  if !noticeOk s m then s.updPort m.port (fun p => { p with dropCtl := satAdd 16 p.dropCtl 1 })
  else if tideToCome s n then
    s.updTide (fun t => { t with declared := t.declared ++
      [{ tide := n, cause := leField m.body 9 1, position := leField m.body 8 1, own := false }] })
  else
    (s.updTide (fun t => { t with stopping := true, start := none })).raise
      { code := evStringDesync, cls := 0, detail := s.tide.number % 2 ^ 32, detail2 := n }

def execSkipNotice (m : ControlMsg) (s : State) : Host.Outcome State Fault Refusal :=
  controlMsg s m 1 (fun s => takeNotice s m)

/-! ### Remote mailboxes (R360, R402) -/

def bodyTag (body : List Byte) : Dword := BitVec.ofNat 64 (leField body 0x10 8)

/-- The request's header with a status in it. -/
def headerWith (body : List Byte) (status : Nat) : List Byte := body.take 6 ++ leBytes 2 status ++ (body.drop 8).take 56

/-- The image enters the mailbox, which gives it to the salter. -/
def writeImage (s : State) (box : Nat) (m : ControlMsg) : State :=
  s.updBox box (fun b => { b with
    owner := true
    seq := BitVec.ofNat 15 (bodySeq m.body)
    command := BitVec.ofNat 16 (bodyCommand m.body)
    length := BitVec.ofNat 16 (bodyLength m.body)
    tag := bodyTag m.body
    payload := tputs 0 b.payload 0 ((m.body.drop 64).take 4032)
    lastSeq := some (BitVec.ofNat 15 (bodySeq m.body))
    lastResponse := none
    requester := some (m.keyIndex, m.sender, m.port) })

/-- STOP_ALL from a control engine: it finds the mailbox free and is handed back there, or its header alone is sent back. -/
def stopEngine (s : State) (m : ControlMsg) : State :=
  let box := 64 + m.mailbox
  let b := s.box box
  if b.owner ∨ b.held then
    let s1 := sendStop s
    let flags := leField m.body 0x40 1
    match stopFault flags (bodyLength m.body) ((m.body.drop 0x41).take 7) with
    | some _ => replyTo s1 box m.keyIndex m.sender m.port (headerWith m.body stBadArgument)
    | none => replyTo (holdPorts s1 flags) box m.keyIndex m.sender m.port (headerWith m.body stOk)
  else stopMailbox (writeImage s box m) box

/-- The request of R360 that is not a STOP_ALL. -/
def takeRequest (s : State) (m : ControlMsg) : State :=
  let box := 64 + m.mailbox
  let b := s.box box
  let seq := BitVec.ofNat 15 (bodySeq m.body)
  if b.lastSeq = some seq then
    match b.lastResponse with
    | some img => sendReply s box img
    | none => s
  else if b.owner ∨ b.held then replyTo s box m.keyIndex m.sender m.port (headerWith m.body stBusyRetry)
  else (writeImage s box m).updSalter (fun x => { x with latched := x.latched ++ [box] })

/-- MBOX_REQUEST: a STOP_ALL is passed on as a stop message. -/
def execMboxRequest (m : ControlMsg) (s : State) : Host.Outcome State Fault Refusal :=
  controlMsg s m 2 (fun s => if bodyCommand m.body = 0xF0 then stopEngine s m else takeRequest s m)

/-! ### STOP_ALL -/

/-- STOP_ALL: a mailbox whose owner bit the flag scanner latched with the command, or a control engine's stop message. -/
def execStopAll (src : StopSource) (s : State) : Host.Outcome State Fault Refusal :=
  match src with
  | .mailbox box =>
    if answers s box ∧ s.salter.latched.contains box ∧ (s.box box).command = 0xF0 then go (stopMailbox s box) else go s
  | .engine m => controlMsg s m 2 (fun s => if bodyCommand m.body = 0xF0 then stopEngine s m else takeRequest s m)

end Sys2Proof.Machine
end

