-- ==== Sys2Proof/Machine/Wire.lean ====
section
/-!
DEFINITION. What arrives at the ports: RoCE v2 requests and their placement (R370, R371, R374), raw frames (R361), pause
frames (R353), MKA (R355), and the links themselves (R352, R477). -/

namespace Sys2Proof.Machine

/-! ### Links -/

/-- A port the variant carries, on a die that runs. -/
def portHere (s : State) (j : Nat) : Bool := decide (j < s.cfg.variant.ports) && ioUp s (j / 4)

/-- The port must have a secure association before it comes up; on the PLN9-A12 it never has one (R355). -/
def macsecHeld (s : State) (j : Nat) : Bool := s.cfg.macsecPorts.getLsbD j && !(s.cfg.variant.full && (s.port j).macsec)

def execPortLinkDown (port : Nat) (s : State) : Host.Outcome State Fault Refusal :=
  if portHere s port then go (s.updPort port (fun p => { p with link := false })) else go s

/-- PORT_LINK_UP: training completes. Every training after the first since reset is a retrain. -/
def execPortLinkUp (port : Nat) (s : State) : Host.Outcome State Fault Refusal :=
  if !portHere s port ∨ (s.port port).dead ∨ (s.port port).link ∨ s.pkg.bootStep < 9 then go s
  else go (s.updPort port (fun p => { p with link := !macsecHeld s port, retrains := satAdd 16 p.retrains 1 }))

/-- SERDES_SPARED: the lane moves to the spare SerDes and the link retrains; with the spare in use the port stays down. -/
def execSerdesSpared (port : Nat) (s : State) : Host.Outcome State Fault Refusal :=
  if !portHere s port ∨ (s.port port).dead then go s
  else if (s.port port).spare then
    go ((s.updPort port (fun p => { p with link := false, dead := true })).note evPortDown (dieOfIo (port / 4)) 7 (port % 4) 0)
  else
    let s1 := s.updPort port (fun p => { p with link := false, spare := true })
    go (repairEntry (s1.note evSerdesSpared (dieOfIo (port / 4)) 7 (port % 4) 4) (leBytes 1 7 ++ leBytes 1 port))

/-- MKA_FRAME_RECEIVED: the liquor may install or rekey an association, which brings a trained port up. -/
def execMkaFrameReceived (port : Nat) (install : Bool) (s : State) : Host.Outcome State Fault Refusal :=
  if !portHere s port ∨ (s.port port).dead ∨ !s.cfg.macsecPorts.getLsbD port ∨ !s.cfg.variant.full then go s
  else if install then go (s.updPort port (fun p => { p with macsec := true, link := true, rx := satAdd 32 p.rx 1 }))
  else go (s.updPort port (fun p => { p with rx := satAdd 32 p.rx 1 }))

/-- PFC_PAUSE_RECEIVED: priority 7 is never paused, and flow control is off where the configuration record leaves it off. -/
def execPfcPauseReceived (port prio : Nat) (pause : Bool) (s : State) : Host.Outcome State Fault Refusal :=
  if !(s.port port).link then go s else
  let s1 := s.updPort port (fun p => { p with rx := satAdd 32 p.rx 1 })
  if 7 ≤ prio ∨ !s.cfg.pfc.getLsbD prio then go s1
  else
    let bit := (1#7 <<< prio)
    go (s1.updPort port (fun p => { p with paused := if pause then p.paused ||| bit else p.paused &&& ~~~bit }))

/-! ### RoCE v2 requests -/

/-- The queue pair an incoming request names: RC, on this port, in RTR or RTS. -/
def rcFor (s : State) (m : RoceMsg) : Option (Nat × Qp) :=
  if m.qpn < 0x10000 then none else
  let q := m.qpn - 0x10000
  match s.qp q with
  | some x => if !x.raw ∧ x.port = m.port ∧ (x.state = .rtr ∨ x.state = .rts) then some (q, x) else none
  | none => none

def countDropQp (s : State) (j : Nat) : State := s.updPort j (fun p => { p with dropQp := satAdd 16 p.dropQp 1 })

/-- A response leaves the queue pair's port. -/
def sendBack (s : State) (x : Qp) (o : Output) : State := sendFrames s x.port 1 o

/-- A NAK that puts the queue pair in ERROR, counted. -/
def nakError (s : State) (q : Nat) (x : Qp) (psn : Nat) (kind : NakKind) : State :=
  let s1 := sendBack (s.updPort x.port (fun p => { p with nakAccess := satAdd 32 p.nakAccess 1 })) x (.roceNak x.port q psn kind)
  qpFail s1 q cFlushed

/-- An RNR NAK, counted. -/
def nakRnr (s : State) (q : Nat) (x : Qp) (psn timer : Nat) : State :=
  sendBack (s.updPort x.port (fun p => { p with nakRnr := satAdd 32 p.nakRnr 1 })) x (.roceNak x.port q psn (.rnr timer))

/-- A notification for a packet marked CE, at most one in the interval (R377). -/
def congestion (s : State) (q : Nat) (x : Qp) (ce : Bool) : State :=
  let due : Bool := match x.lastCnp with
    | none => true
    | some t => decide (t + s.cfg.ccInterval ≤ s.now)
  if ce ∧ due then
    let s1 := s.updQp q (fun x => { x with lastCnp := some s.now })
    sendBack (s1.updPort x.port (fun p => { p with cnpTx := satAdd 32 p.cnpTx 1 })) x (.cnp x.port q)
  else s

/-- PSNs a request takes: those of its response for an RDMA READ, one for an atomic. -/
def psnCount (x : Qp) (n : Nat) : Nat := x.packets n

/-- An incoming request up to its placement: the checks of R374 in the order of the packet's path, then, by its PSN, the
request itself, its repetition, or a sequence error. -/
def incoming (s : State) (m : RoceMsg) (count : Qp → Nat) (body repeated : Nat → Qp → State → State) :
    Host.Outcome State Fault Refusal :=
  if !(s.port m.port).link then go s else
  let s1 := s.updPort m.port (fun p => { p with rx := satAdd 32 p.rx 1 })
  if !m.icrcOk then go (s1.updPort m.port (fun p => { p with dropIcrc := satAdd 16 p.dropIcrc 1 }))
  else
    match rcFor s1 m with
    | none => go (countDropQp s1 m.port)
    | some (q, x) =>
      let s2 := congestion s1 q x m.ecnCe
      if netHeld s2 then go (nakRnr s2 q x m.psn 26)
      else
        let d := psnAhead m.psn x.rqPsn
        if d = 0 then
          if !m.opOk then go (nakError s2 q x m.psn .invalidRequest).drawn
          else
            let n := count x
            go (body q x (s2.updQp q (fun x => { x with rqPsn := psnAdd x.rqPsn n }))).drawn
        else if 2 ^ 23 ≤ d then go (repeated q x s2).drawn
        else go (sendBack s2 x (.roceNak x.port q x.rqPsn .sequence))

/-- The last PSN of a request of n packets. -/
def lastPsn (psn n : Nat) : Nat := psnAdd psn (n - 1)

def ackOf (s : State) (q : Nat) (x : Qp) (psn : Nat) : State := sendBack s x (.roceAck x.port q psn)

/-- A repeated request that only writes is acknowledged again, up to the last PSN taken. -/
def repeatAck (_ : RoceMsg) (q : Nat) (x : Qp) (s : State) : State := ackOf s q x (psnAdd x.rqPsn (2 ^ 24 - 1))

/-- The PSN goes back: the request was not taken. -/
def untake (s : State) (q : Nat) (x : Qp) : State := s.updQp q (fun y => { y with rqPsn := x.rqPsn })

/-- A receive queue entry: wr_id, local address, key, length. -/
def recvEntry (s : State) (x : Qp) : Nat × Nat × Word × Nat :=
  let b := s.cohBytes (canon s (x.rqBase + x.rqCi % 2 ^ x.rqLog * 32)) 32
  (leField b 0 8, leField b 8 8, BitVec.ofNat 32 (leField b 16 4), leField b 20 4)

/-- The next receive entry is read and taken. -/
def takeRecv (s : State) (q : Nat) : State :=
  match s.qp q with
  | none => s
  | some x =>
    (spendRange s (canon s (x.rqBase + x.rqCi % 2 ^ x.rqLog * 32)) 32 2).updQp q (fun x => { x with rqCi := (x.rqCi + 1) % 65536 })

/-- Protection refusals of placement are logged too (R374). -/
def logProtection (s : State) (port va : Nat) : State :=
  s.raise { code := evProtection, cls := 0, die := dieOfIo (port / 4), part := 7, partIndex := port % 4, action := 3,
            addrKind := 3, addr := va }

/-- The region a request's key names for a right over its range, or what refuses it: the key, or the protection table. -/
def remoteRegion (s : State) (m : RoceMsg) (right n : Nat) (reads : Bool) : Except Bool Region :=
  match regionFor s m.rkey right m.va n with
  | none => .error false
  | some r => if regionProtect s r m.va n reads then .ok r else .error true

/-- A remote access refusal. -/
def refuseAccess (s : State) (q : Nat) (x : Qp) (m : RoceMsg) (logged : Bool) : State :=
  nakError (if logged then logProtection s m.port m.va else s) q x m.psn .remoteAccess

/-- SEND: into the next receive entry, then a completion (R370). A receive buffer whose key does not cover it completes with
LOCAL_PROTECTION (entry 32). -/
def placeSend (m : RoceMsg) (withImm : Bool) (q : Nat) (x : Qp) (s : State) : State :=
  if x.rqCi = x.rqPi then nakRnr (untake s q x) q x m.psn x.minRnr
  else
    let (wr, lva, lkey, len) := recvEntry s x
    if len < m.data.length then nakError s q x m.psn .invalidRequest
    else
      let op := if withImm then 1 else 0
      match regionFor s lkey rLocalWrite lva m.data.length with
      | none =>
        let s1 := complete (takeRecv s q) q wr 0 0 op cLocalProtection
        qpFail (sendBack s1 x (.roceNak x.port q m.psn .operational)) q cFlushed
      | some r =>
        if !regionProtect s r lva m.data.length false then refuseAccess s q x m true
        else
          let s1 := takeRecv (regionWrite s r lva m.data) q
          let s2 := complete s1 q wr m.data.length (if withImm then m.imm.toNat else 0) op cOk
          ackOf s2 q x (lastPsn m.psn (psnCount x m.data.length))

def execSendReceived (m : RoceMsg) (withImm : Bool) (s : State) : Host.Outcome State Fault Refusal :=
  incoming s m (fun x => psnCount x m.data.length) (placeSend m withImm) (repeatAck m)

/-- RDMA WRITE: into the key's region. -/
def placeWrite (m : RoceMsg) (q : Nat) (x : Qp) (s : State) : State :=
  match remoteRegion s m rRemoteWrite m.data.length false with
  | .error l => refuseAccess s q x m l
  | .ok r => ackOf (regionWrite s r m.va m.data) q x (lastPsn m.psn (psnCount x m.data.length))

def execRdmaWriteReceived (m : RoceMsg) (s : State) : Host.Outcome State Fault Refusal :=
  incoming s m (fun x => psnCount x m.data.length) (placeWrite m) (repeatAck m)

/-- RDMA WRITE with immediate: the write, then a receive entry and its completion. Without an entry nothing is placed and the
request is answered RNR (entry 32). -/
def placeWriteImm (m : RoceMsg) (q : Nat) (x : Qp) (s : State) : State :=
  match remoteRegion s m rRemoteWrite m.data.length false with
  | .error l => refuseAccess s q x m l
  | .ok r =>
    if x.rqCi = x.rqPi then nakRnr (untake s q x) q x m.psn x.minRnr
    else
      let (wr, _, _, _) := recvEntry s x
      let s1 := takeRecv (regionWrite s r m.va m.data) q
      let s2 := complete s1 q wr m.data.length m.imm.toNat 9 cOk
      ackOf s2 q x (lastPsn m.psn (psnCount x m.data.length))

def execRdmaWriteImmReceived (m : RoceMsg) (s : State) : Host.Outcome State Fault Refusal :=
  incoming s m (fun x => psnCount x m.data.length) (placeWriteImm m) (repeatAck m)

/-- RDMA READ: the bytes go back; data in error sends none of them (R374). -/
def serveRead (m : RoceMsg) (q : Nat) (x : Qp) (s : State) : State :=
  match remoteRegion s m rRemoteRead m.len true with
  | .error l => refuseAccess s q x m l
  | .ok r =>
    if regionBad s r m.va m.len then sendBack (untake s q x) x (.roceNak x.port q m.psn .operational)
    else sendFrames (regionSpend s r m.va m.len) x.port (x.packets m.len) (.roceRead x.port q m.psn (regionRead s r m.va m.len))

def execRdmaReadReceived (m : RoceMsg) (s : State) : Host.Outcome State Fault Refusal :=
  incoming s m (fun x => psnCount x m.len) (serveRead m) (fun q x s =>
    match remoteRegion s m rRemoteRead m.len true with
    | .error l => refuseAccess s q x m l
    | .ok r =>
      if regionBad s r m.va m.len then sendBack s x (.roceNak x.port q m.psn .operational)
      else sendFrames (regionSpend s r m.va m.len) x.port (x.packets m.len) (.roceRead x.port q m.psn (regionRead s r m.va m.len)))

/-- The page of an address is cacheable in the region (R370). -/
def regionCacheable (r : Region) (va : Nat) : Bool :=
  match r.pages.find? (fun g => decide (g.1 ≤ va % 2 ^ 48) && decide (va % 2 ^ 48 < g.1 + g.2.1)) with
  | some g => !r.uncached.contains g.1
  | none => false

/-- An atomic at the line's home, its old value kept for a repetition. -/
def placeAtomic (m : RoceMsg) (f : Nat → Nat) (q : Nat) (x : Qp) (s : State) : State :=
  if m.va % 8 ≠ 0 then nakError s q x m.psn .invalidRequest
  else
    match remoteRegion s m rRemoteAtomic 8 false with
    | .error l => refuseAccess s q x m l
    | .ok r =>
      if !regionCacheable r m.va then nakError s q x m.psn .invalidRequest
      else if regionBad s r m.va 8 then sendBack (untake s q x) x (.roceNak x.port q m.psn .operational)
      else
        let old := leNat (regionNow s r m.va 8)
        let s1 := regionWrite s r m.va (leBytes 8 (f old))
        let s2 := s1.updQp q (fun x => { x with saved := keepLast x.maxRd (x.saved ++ [(m.psn, BitVec.ofNat 64 old)]) })
        sendBack s2 x (.roceAtomic x.port q m.psn (BitVec.ofNat 64 old))

/-- A repeated atomic returns the saved result. -/
def repeatAtomic (m : RoceMsg) (q : Nat) (x : Qp) (s : State) : State :=
  match x.saved.find? (fun e => e.1 = m.psn) with
  | some e => sendBack s x (.roceAtomic x.port q m.psn e.2)
  | none => s

def execFetchAddReceived (m : RoceMsg) (add : Dword) (s : State) : Host.Outcome State Fault Refusal :=
  incoming s m (fun _ => 1) (placeAtomic m (fun old => (old + add.toNat) % 2 ^ 64)) (repeatAtomic m)

def execCompareSwapReceived (m : RoceMsg) (cmp swap : Dword) (s : State) : Host.Outcome State Fault Refusal :=
  incoming s m (fun _ => 1) (placeAtomic m (fun old => if old = cmp.toNat then swap.toNat else old)) (repeatAtomic m)

/-! ### Raw frames (R361) -/

/-- A raw queue pair's filter matches a frame. -/
def filterMatches (x : Qp) (f : RawFrame) : Bool :=
  let kind := x.filter.toNat % 4
  let v := x.filter.toNat / 65536
  if kind = 0 then true
  else if kind = 1 then decide (f.etherType = v)
  else if kind = 2 then decide (f.udpPort = some v)
  else decide (f.destQpn = some 1)

/-- The first raw queue pair of a port that matches and receives, in ascending index. -/
def rawFor (s : State) (f : RawFrame) : Option (Nat × Qp) :=
  (s.qps.filterMap (fun e => e.2.map (fun x => (e.1, x)))).find? (fun e =>
    e.2.raw && decide (e.2.port = f.port) && (decide (e.2.state = .rtr) || decide (e.2.state = .rts)) && filterMatches e.2 f)

/-- RAW_FRAME_RECEIVED: the frame enters the queue pair's next receive buffer. In FAULT nothing is received (entry 33). -/
def execRawFrameReceived (f : RawFrame) (s : State) : Host.Outcome State Fault Refusal :=
  if !(s.port f.port).link then go s else
  let s1 := s.updPort f.port (fun p => { p with rx := satAdd 32 p.rx 1 })
  if !f.fcsOk then go (s1.updPort f.port (fun p => { p with dropFcs := satAdd 16 p.dropFcs 1 }))
  else if f.pcp = 7 then go (s1.updPort f.port (fun p => { p with dropCtl := satAdd 16 p.dropCtl 1 }))
  else if s.pkg.st = .fault then go (countDropQp s1 f.port)
  else
    match rawFor s f with
    | none => go (countDropQp s1 f.port)
    | some (q, x) =>
      if x.rqCi = x.rqPi then go (countDropQp s1 f.port)
      else
        let (wr, lva, lkey, len) := recvEntry s1 x
        let n := f.bytes.length
        let s2 := takeRecv s1 q
        if len < n then go (complete s2 q wr 0 0 0x20 cLocalLength).drawn
        else
          match regionFor s2 lkey rLocalWrite lva n with
          | none => go (complete s2 q wr 0 0 0x20 cLocalProtection).drawn
          | some r => go (complete (regionWrite s2 r lva f.bytes) q wr n 0 0x20 cOk).drawn

end Sys2Proof.Machine
end

