-- ==== Sys2Proof/Machine/Memory.lean ====
section
/-!
DEFINITION. Memory errors, scrub and row sparing (R313, R314, R325, R477), refresh bands (R310 to R312), the stockpile's token
buckets (R322, R323), and die-to-die links (R291, R292, R477). -/

namespace Sys2Proof.Machine

/-- The package's dies are powered. -/
def poweredUp (s : State) : Bool := decide (s.pkg.st ≠ .off)

/-! ### Brine rows (R301, R477) -/

/-- The pseudo-channel of a brine offset (R302). -/
def pseudoChannel (off : Nat) : Nat := fld off 8 6 ^^^ fld off 14 6 ^^^ fld off 20 6

/-- Rows of a pseudo-channel: 48 banks of 24,576 rows (R301). -/
def rowsPerChannel : Nat := 48 * 24576

/-- The row of a brine offset within its pan. Which bank and row of its pseudo-channel it is, the manual does not say (R302,
entry 35). -/
def brineRow (off : Nat) : Nat := pseudoChannel off * rowsPerChannel + Config.unstated [301, off / 64] % rowsPerChannel

def rowEntry (p row : Nat) : List Byte := leBytes 1 9 ++ leBytes 1 p ++ leBytes 4 row

/-- Rows of a bank of a pan that the repair record holds as spared. -/
def sparedInBank (s : State) (p bank : Nat) : Nat :=
  (s.trust.repair.filter (fun e => decide (leField e.2 0 1 = 9) && decide (leField e.2 1 1 = p)
    && decide (leField e.2 2 4 / 24576 = bank))).length

/-- A failing row is copied to a spare row of its bank, poisoned lines with their marker; with none left ROWS_OUT is logged
(R477, R478). -/
def spareRow (s : State) (p off : Nat) : State :=
  let row := brineRow off
  let ch := pseudoChannel off / 2
  let s0 := s.updPan p (fun x => { x with rowCe := tput [] x.rowCe row [] })
  if sparedInBank s p (row / 24576) < 32 then
    let s1 := s0.updPan p (fun x => { x with rows := satAdd 16 x.rows 1 })
    repairEntry (s1.note evRowSpared (dieOfPan p) 4 ch 4) (rowEntry p row)
  else s0.note evRowsOut (dieOfPan p) 4 ch 0

def dayNs : Nat := 86400000000000

/-- A corrected error of a brine line: counted and logged; the fourth of a row within 24 hours spares the row. -/
def brineCe (s : State) (p off : Nat) : State :=
  let row := brineRow off
  let times := (s.now :: tget [] (s.pan p).rowCe row).filter (fun t => s.now < t + dayNs)
  let s1 := s.updPan p (fun x => { x with
    ce := satAdd 32 x.ce 1, lastOff := off, lastUe := false, rowCe := tput [] x.rowCe row (times.take 4) })
  let s2 := s1.raise { code := evBrineCe, cls := 1, die := dieOfPan p, part := 4, partIndex := pseudoChannel off / 2, action := 1,
                       addrKind := 2, addr := off }
  if 4 ≤ times.length then spareRow s2 p off else s2

/-- An uncorrectable error of a brine line: the line is poisoned, the error logged and the row spared. -/
def brineUe (s : State) (p off : Nat) : State :=
  let s1 := (s.updPan p (fun x => { x with ue := satAdd 32 x.ue 1, lastOff := off, lastUe := true })).setPoison
    (lineOf (brineBase p + off)) true
  spareRow (s1.raise { code := evBrineUe, cls := 2, die := dieOfPan p, part := 4, partIndex := pseudoChannel off / 2,
                       action := 2, addrKind := 2, addr := off }) p off

/-- The LPDDR6 channel of an offset L of a core die (R324). -/
def lpdChannel (l : Nat) : Nat := fld l 8 3 ^^^ fld l 17 3 ^^^ fld l 26 3

def lpdCe (s : State) (d l : Nat) : State :=
  (s.updCoreDie d (fun x => { x with lpdCe := satAdd 32 x.lpdCe 1, lpdOff := l, lpdLastUe := false })).raise
    { code := evLpdCe, cls := 1, die := dieOfCore d, part := 5, partIndex := lpdChannel l, action := 1, addrKind := 4, addr := l }

def lpdUe (s : State) (d l : Nat) : State :=
  let s1 := s.updCoreDie d (fun x => { x with lpdUe := satAdd 32 x.lpdUe 1, lpdOff := l, lpdLastUe := true })
  (s1.setPoison (lineOf (d * lpdSize + l)) true).raise
    { code := evLpdUe, cls := 2, die := dieOfCore d, part := 5, partIndex := lpdChannel l, action := 2, addrKind := 4, addr := l }

/-- SCRUB_LINE: a line found with a CE is written back corrected, one found with a UE is poisoned (R314, R325). -/
def execScrubLine (l : ScrubLine) (found : LineCheck) (s : State) : Host.Outcome State Fault Refusal :=
  if !poweredUp s then go s else
  match l with
  | .brine p off =>
    if !s.hasPan p ∨ !(s.pan p).service ∨ brineSize ≤ off then go s else
    let o := off / 64 * 64
    go (match found with
      | .clean => s
      | .corrected => brineCe s p o
      | .uncorrectable => brineUe s p o)
  | .lpd pa =>
    match place s pa with
    | .lpd d o =>
      let o := o / 64 * 64
      go (match found with
        | .clean => s
        | .corrected => lpdCe s d o
        | .uncorrectable => lpdUe s d o)
    | _ => go s

/-! ### Refresh bands and STOP (R310 to R312, R452) -/

/-- Highest temperature of a band (R310). -/
def bandTop (b : Nat) : Nat :=
  match b with
  | 0 => 85
  | 1 => 95
  | _ => 105

/-- The band of a temperature. -/
def bandOf (t : Nat) : Nat := if t ≤ 85 then 0 else if t ≤ 95 then 1 else if t ≤ 105 then 2 else 3

/-- The pan's clock stops or restarts with its junction state and its brine band (R452). -/
def restop (s : State) (p : Nat) : State :=
  let stop := decide ((tget {} s.power.pans p).thermal = .stop) || decide ((s.pan p).band = 3)
  s.updPan p (fun x => { x with stopFrom := if stop then (if x.stopFrom.isSome then x.stopFrom else some s.now) else none })

/-- A pan bound to the running plan or to one with a start pending (R445, R455). -/
def boundPan (s : State) (p : Nat) : Bool :=
  (s.runningPlan.map (fun pl => pl.binding.contains p)).getD false
    || ((s.tide.start.bind (fun x => s.plan x.slot)).map (fun pl => pl.binding.contains p)).getD false

/-- A bound pan goes below the floor clock: the case is logged (R446). -/
def floorBreach (s : State) (p : Nat) : State := if boundPan s p then s.note evFloorBreach (dieOfPan p) 0 0 0 else s

/-- The package time since which every reading has lain at least 2 °C below the top of each band below the present one, after a
reading t. -/
def bandTimers (s : State) (x : Pan) (t : Nat) : Table (Option Nat) :=
  (List.range x.band).foldl (fun m b =>
    tput none m b (if t + 2 ≤ bandTop b then some ((tget none x.bandBelow b).getD s.now) else none)) []

/-- BRINE_SENSOR_READ: the hottest sensor sets the band at once where it rises, and starts or breaks the 10 ms of each fall
(R310, R311). -/
def execBrineSensorRead (pan : Nat) (temps : List Nat) (s : State) : Host.Outcome State Fault Refusal :=
  if !poweredUp s ∨ !s.hasPan pan ∨ !(s.pan pan).service ∨ temps.length ≠ 12 then go s else
  let t := temps.foldl max 0
  let b := bandOf t
  if (s.pan pan).band < b then
    let s1 := s.updPan pan (fun x => { x with dramTemp := t % 256, band := b, bandBelow := [] })
    go (restop (if b = 3 then floorBreach s1 pan else s1) pan)
  else go (s.updPan pan (fun x => { x with dramTemp := t % 256, bandBelow := bandTimers s x t }))

/-- The band a pan falls to once the 10 ms of the next lower band end at package time t: the lowest whose thresholds, and those of
every band up to the present one, every reading for 10 ms has lain 2 °C below (R311). -/
def fallTo (x : Pan) (t : Nat) : Nat → Nat
  | 0 => 0
  | b + 1 =>
    match tget none x.bandBelow b with
    | some u => if u + 10000000 ≤ t then fallTo x t b else b + 1
    | none => b + 1

/-- BRINE_BAND_FALL: every reading for 10 ms has lain at least 2 °C below the threshold of the band (R311). -/
def execBrineBandFall (pan : Nat) (s : State) : Host.Outcome State Fault Refusal :=
  let x := s.pan pan
  match (if x.band = 0 then none else tget none x.bandBelow (x.band - 1)) with
  | none => go s
  | some t =>
    let s1 := s.reach (t + 10000000)
    let b := fallTo x s1.now x.band
    go (restop (s1.updPan pan (fun x => { x with band := b, bandBelow := x.bandBelow.filter (fun e => decide (e.1 < b)) })) pan)

/-! ### Token buckets (R322, R323) -/

/-- One bucket's refill: a written rate comes into force, tokens are gained up to the burst, and waiting requests are paid in
order (entry 36). -/
def refillOne (s : State) (k i : Nat) : State :=
  let r := tget {} s.stk.regs i
  let n := max 1 (stkCount s)
  let key := tokenKey k i
  if r.rateNow = 0 then s.updStk (fun x => { x with waiting := tput 0 x.waiting key 0 })
  else
    let t := min (r.burstNow * 1024 / n) (tget 0 s.stk.tokens key + r.rateNow * 100 / n)
    let w := tget 0 s.stk.waiting key
    let paid := min w (t / 64)
    s.updStk (fun x => { x with tokens := tput 0 x.tokens key (t - 64 * paid), waiting := tput 0 x.waiting key (w - paid) })

/-- What software wrote to a partition's regulator comes into force. -/
def Regulator.load (r : Regulator) : Regulator := { r with rateNow := r.rate, borrowNow := r.borrow, burstNow := r.burst }

def execTokenRefill (s : State) : Host.Outcome State Fault Refusal :=
  if s.pkg.bootStep < 7 ∨ !poweredUp s then go s else
  let n := s.stk.parts.length
  let s1 := (List.range n).foldl (fun s i => s.updStk (fun x => { x with regs := tput {} x.regs i (tget {} x.regs i).load })) s
  go (((List.range 6).filter (fun k => s.stk.dies.getLsbD k)).foldl (fun s k =>
    (List.range n).foldl (fun s i => refillOne s k i) s) s1)

/-! ### Links and responses (R291, R292) -/

/-- A die code names a die of the variant that is in service (R482). -/
def dieHere (s : State) (die : Nat) : Bool :=
  if die / 32 = 4 then decide (die % 32 < 2) && decide (s.ctlState (die % 32) ≠ .failed)
  else decide (die / 32 ≤ 3) && decide (die % 32 < kindCount s.cfg.variant (die / 32)) && !s.isLost die

/-- Link modules of a die to the stockpile dies (R21). -/
def linkModules (kind : Nat) : Nat :=
  match kind with
  | 0 => 4
  | 1 => 2
  | 2 => 4
  | 4 => 1
  | _ => 0

/-- The base b of a die: its module m attaches to stockpile die (b + m) mod S (R22). -/
def linkBase (kind i : Nat) : Nat :=
  match kind with
  | 2 => i + 2
  | 4 => 3 * i
  | _ => i

/-- The stockpile die that module m of a die attaches to. A stockpile die has two modules to each other one: module 2j + 0 or 1 of
it is joined to stockpile die j (R21, R22, entry 110). -/
def linkFar (s : State) (die m : Nat) : Option Nat :=
  let n := s.cfg.variant.stkDies
  if die / 32 = 3 then (if m / 2 < n ∧ m / 2 ≠ die % 32 then some (m / 2) else none)
  else if m < linkModules (die / 32) then some ((linkBase (die / 32) (die % 32) + m) % n)
  else none

/-- The module joins two dies in service. -/
def linkHere (s : State) (die m : Nat) : Bool :=
  dieHere s die && (match linkFar s die m with
    | some k => dieHere s (dieOfStk k)
    | none => false)

/-- The module as its records name it: a stockpile-to-stockpile module by its end on the die of higher index. -/
def linkName (die m : Nat) : Nat × Nat :=
  if die / 32 = 3 ∧ die % 32 < m / 2 then (dieOfStk (m / 2), 2 * (die % 32) + m % 2) else (die, m)

/-- The die that an outage of the module declares dead: the one at the far end seen from the stockpile die, and of two stockpile
dies the one of higher index (R291). -/
def linkDead (die m : Nat) : Nat := (linkName die m).1

/-- A caching agent of the variant that is in service (R276). -/
def agentHere (s : State) (a : Nat) : Bool :=
  if a < 192 then s.coreServes a
  else if a < 208 then decide (a - 192 < s.cfg.variant.coreDies) && !s.isLost (dieOfCore (a - 192))
  else decide (a < 256) && s.onlinePan (a - 208)

def declareCause (s : State) (cause agent die : Nat) : State :=
  s.updCoh (fun c => { c with declared := c.declared ++ [(cause, agent, die)] })

/-- COHERENCE_TIMEOUT: the agent is declared dead; the drain follows as a command of its own. -/
def execCoherenceTimeout (agent : Nat) (s : State) : Host.Outcome State Fault Refusal :=
  if poweredUp s && agentHere s agent then go (declareCause s 3 agent 0xFF) else go s

/-- LINK_REPLAY: traffic on the link waits, and nothing is lost, duplicated or reordered. -/
def execLinkReplay (_die _link : Nat) (s : State) : Host.Outcome State Fault Refusal := go s

/-- A die is declared dead: a control die hands over or is FAILED with no drain (R480); any other drains with cause LINK_DEAD. -/
def declareDie (s : State) (die : Nat) : State :=
  if die / 32 = 4 then (if die % 32 = s.salter.active then controlDieLoss s else standbyLoss s) else declareCause s 4 0xFF die

/-- LINK_OUTAGE_TIMEOUT: an outage of a link module beyond 2 ms declares a die dead. -/
def execLinkOutageTimeout (link : LinkModule) (s : State) : Host.Outcome State Fault Refusal :=
  if poweredUp s && linkHere s link.die link.link then
    let dead := linkDead link.die link.link
    go (declareDie (s.note evLinkDead dead 6 (linkName link.die link.link).2 0) dead)
  else go s

/-- An entry of the repair record for a lane: die, module and direction, 0 towards the stockpile die. -/
def laneEntry (die link : Nat) (out : Bool) : List Byte :=
  leBytes 1 8 ++ leBytes 1 die ++ leBytes 1 link ++ leBytes 1 out.toNat

/-- Spare lanes of one direction of a module that the repair record holds as in service. -/
def sparedLanes (s : State) (die link : Nat) (out : Bool) : Nat :=
  (s.trust.repair.filter (fun e => decide (e.2 = laneEntry (linkName die link).1 (linkName die link).2 out))).length

/-- LANE_SPARED: one of the two spare lanes of a direction of the module comes into service (R21, R477, R478). -/
def execLaneSpared (die : Nat) (link : LinkSide) (s : State) : Host.Outcome State Fault Refusal :=
  if poweredUp s && linkHere s die link.link && decide (sparedLanes s die link.link link.out < 2) then
    let x := linkName die link.link
    go (repairEntry (s.note evLaneSpared x.1 6 x.2 4) (laneEntry x.1 x.2 link.out))
  else go s

end Sys2Proof.Machine
end

