-- ==== Sys2Proof/Machine/Drain.lean ====
section
/-!
DEFINITION. The drain (R293 to R300), its limit (R298), and the reserved granules restored after it (R306). -/

namespace Sys2Proof.Machine

/-! ### Operands -/

/-- An agent number of R276 that the variant carries. -/
def agentNumber (s : State) (a : Nat) : Bool :=
  if a < 192 then decide (a < s.cfg.variant.cores) else if a < 208 then decide (a - 192 < s.cfg.variant.coreDies)
  else decide (a - 208 < s.cfg.variant.pans)

/-- The causes of R293 with what they name: an agent for TAG_UE and NO_RESPONSE, a core for CORE_UE, and a die for LINK_DEAD and
UNIT_LOST, for which a control die does not drain (R480). -/
def drainCause (s : State) (cause agent die : Nat) : Bool :=
  match cause with
  | 1 => true
  | 2 => agentNumber s agent
  | 3 => agentNumber s agent
  | 4 => dieHere s die && decide (die / 32 < 4)
  | 5 => true
  | 6 => dieHere s die && decide (die / 32 < 4)
  | 7 => decide (agent < 192) && agentNumber s agent
  | _ => false

/-- The die of an agent. -/
def dieOfAgent (a : Nat) : Nat := if a < 192 then dieOfCore (a / 24) else if a < 208 then dieOfCore (a - 192) else dieOfPan (a - 208)

/-- COH.LAST_DRAIN.die: the die declared dead or lost, a die cache that is dead taking its core die with it (R300). -/
def causeDie (cause agent die : Nat) : Nat :=
  if cause = 4 ∨ cause = 6 then die else if cause = 3 ∧ 192 ≤ agent ∧ agent < 208 then dieOfAgent agent else 0xFF

/-- COH.LAST_DRAIN.agent: recorded for causes 2, 3 and 7. -/
def causeAgent (cause agent : Nat) : Nat := if cause = 2 ∨ cause = 3 ∨ cause = 7 then agent else 0xFF

def tenSeconds : Nat := 10000000000

/-- Drains begun within the last 10 s. -/
def recentDrains (s : State) : List Nat := s.coh.drainTimes.filter (fun t => s.now < t + tenSeconds)

/-- A cause now would begin the fifth drain within 10 s (R298). -/
def fifthDrain (s : State) : Bool := decide (s.pkg.st ≠ .draining) && decide (4 ≤ (recentDrains s).length)

/-- A drain can begin: the boot has released the cores, and the package is not in FAULT (R298, R299). -/
def canDrain (s : State) : Bool :=
  match s.pkg.st with
  | .liquor => decide (10 ≤ s.pkg.bootStep)
  | .ready => true
  | .serving => true
  | .maint => true
  | .draining => true
  | _ => false

/-- A cause before that isolates the die without a drain (R299). -/
def earlyCause (s : State) : Bool := (decide (s.pkg.st = .crust) || decide (s.pkg.st = .liquor)) && !canDrain s

/-! ### Isolation (R295 step 4, R303, R320, R326, R480) -/

/-- The die is out until package reset. -/
def loseDie (s : State) (die : Nat) : State :=
  s.updPkg (fun k => { k with lostDies := if k.lostDies.contains die then k.lostDies else k.lostDies ++ [die] })

/-- A replacement that names a pan whose memory section is lost is abandoned. -/
def dropReplacement (s : State) (p : Nat) : State :=
  match s.salter.repl with
  | some x => if x.p = p ∨ x.r = p then abandonReplacement s x else s
  | none => s

/-- Agents whose owner's memory section is lost: their directory words are cleared and their open entries are marked (R425). -/
def agentsLost (s : State) (p : Nat) : State :=
  let ids := s.agentIds.filter (fun a => (s.agentDir a).ownedBy p)
  (ids.foldl (fun s a => s.clearAgentDir a) s).updTally (fun t => { t with
    entries := t.entries.map (fun e => if ids.contains e.agent then { e with stateLost := true } else e) })

/-- The agent directory lay on a pan that is lost: its other copy takes over. -/
def directoryOver (s : State) (p : Nat) : State :=
  match dirGranule s with
  | some g =>
    if panOf (granulePa s g) = p then
      let new := granulePa s (otherCopy g)
      (copyRange s new (granulePa s g) granuleSize).updSalter (fun x => { x with dirPa := new + (x.dirPa - granulePa s g) })
    else s
  | none => s

/-- A pan die is lost: its memory section leaves service, and its reserved granules have one copy left. -/
def losePan (s : State) (p : Nat) : State :=
  let s1 := agentsLost (directoryOver s p) p
  let s2 := (loseDie s1 (dieOfPan p)).updPan p (fun x => { x with service := false, taken := [], relocated := [] })
  let s3 := s2.updSalter (fun k => { k with single := (k.single ++ granulesAt s p).eraseDups })
  dropReplacement (eachPlan (setPanState s3 p .failed) (fun pl => pl.lose p)) p

/-- The unit a die code names is isolated and FAILED. -/
def isolateDie (s : State) (die : Nat) : State :=
  let i := die % 32
  match die / 32 with
  | 0 => losePan s i
  | 1 => loseDie (setUnitState s 1 i .failed) die
  | 2 =>
    let s1 := (List.range 4).foldl (fun s j => s.updPort (4 * i + j) (fun p => { p with link := false })) s
    loseDie (setUnitState s1 2 i .failed) die
  | 3 =>
    let s1 := setUnitState s 3 i .failed
    loseDie (s1.updStk (fun x => { x with dies := x.dies &&& ~~~(1#6 <<< i) })) die
  | _ => s

/-- A core is taken out at the next step 4 (R477). -/
def markCore (s : State) (n : Nat) : State :=
  s.updCoreDie (n / 24) (fun d => { d with toSpare := (n % 24 :: d.toSpare).eraseDups })

/-- A pan whose cache is dead fails with its logic: its memory section stays in service (R303). -/
def failPan (s : State) (p : Nat) : State :=
  if (s.pan p).state = .failed then s
  else eachPlan (setPanState s p .failed) (fun pl => pl.lose p)

/-- An agent declared dead: the core, the core die of a die cache, or the pan. -/
def isolateAgent (s : State) (a : Nat) : State :=
  if a < 192 then markCore s a
  else if a < 208 then isolateDie s (dieOfCore (a - 192))
  else failPan s (a - 208)

/-- What one cause takes out. -/
def isolateCause (s : State) (x : Nat × Nat × Nat) : State :=
  match x.1 with
  | 3 => isolateAgent s x.2.1
  | 4 => isolateDie s x.2.2
  | 6 => isolateDie s x.2.2
  | 7 => markCore s x.2.1
  | _ => s

/-! ### Spare cores and retired slices (R477, R479) -/

def coreEntryBytes (d c : Nat) : List Byte := leBytes 1 2 ++ leBytes 1 d ++ leBytes 1 c

/-- One core of a die is replaced by a spare under its number, or is gone. -/
def spareCore (d : Nat) (s : State) (c : Nat) : State :=
  if 0 < (s.coreDie d).spareCores then
    let s1 := s.updCoreDie d (fun x => { x with spareCores := x.spareCores - 1 })
    let s2 := s1.updCore (24 * d + c) (fun x => { x with l2Ways := 0, l2Limit := false, wayCe := [] })
    repairEntry (s2.note evCoreSpared (dieOfCore d) 2 c 4) (coreEntryBytes d c)
  else s.updCoreDie d (fun x => { x with absent := x.absent ||| (1#24 <<< c) })

/-- Cores due are spared and slices reported under R247 are retired, on a core die. -/
def spareDie (s : State) (d : Nat) : State :=
  let s1 := (s.coreDie d).toSpare.foldl (spareCore d) s
  let ways := (List.range 16).foldl (fun (t : Table (BitVec 12)) k =>
    if (s.coreDie d).limit.getLsbD k then tput 0 t k 0xFFF else t) (s.coreDie d).ways
  s1.updCoreDie d (fun x => { x with toSpare := [], ways := ways })

/-! ### The drain -/

/-- Every cache, side buffer and cache partition and the directory are invalidated, and dirty data is lost (R294). -/
def dropCaches (s : State) : State := s.updCoh (fun c => { c with lines := [], dir := [], part := [], kept := [] })

/-- Coherent units are reset: cores, then pans with the discard at C (R157, R184, R194, R294). -/
def resetUnits (s : State) : State :=
  let s1 := (List.range s.cfg.variant.coreDies).foldl holdCores s
  (List.range s.cfg.variant.pans).foldl panReset s1

/-- The tide in progress becomes a late one whose outputs stay unreleased and whose step is rewound and run again (R296, R423);
past its watch point the skip of the next tide is declared at once (R64). -/
def drainTide (s : State) : State :=
  match s.tide.running, s.tide.cur with
  | some _, some c =>
    if c.released then s else
    let c1 : StepRun := { c with complete := false, withheld := true, drained := true, late := true }
    let s1 := (s.updTide (fun t => { t with cur := some c1 })).updPkg (fun k => { k with rerun := true })
    let n := s.tide.number
    let m := nextTide s n
    if watchTime s.tide n ≤ s.now ∧ !s.tide.declared.any (fun k => k.tide = m) then declareSkip s1 m 1 else s1
  | _, _ => s

/-- Messages that queue pairs were sending go on after the drain: which ones it interrupted is free, a release transfer starts
again and any other completion carries the drained flag (R375). -/
def drainQps (s : State) : State :=
  (s.qps.map Prod.fst).foldl (fun s q =>
    match s.qp q with
    | none => s
    | some x =>
      if x.sent.isEmpty ∨ s.draw (7000 + q) % 2 = 0 then s
      else if x.sent.any (fun e => e.rel.isSome) then resend s q
      else s.updQp q (fun y => { y with drained := true })) s

/-- The COH registers at step 1 and the DRAIN record (R300, R481). A cause during a drain is no new drain (R298). -/
def drainBegin (s : State) (cause agent die : Nat) : State :=
  let fresh := decide (s.pkg.st ≠ .draining)
  let s1 := s.updCoh (fun c => { c with
    drains := if fresh then satAdd 32 c.drains 1 else c.drains
    drainTimes := if fresh then s.now :: recentDrains s else c.drainTimes
    causeAt := s.now
    cause := cause, agent := causeAgent cause agent, die := causeDie cause agent die
    drainStart := if fresh then s.now % 2 ^ 64 else c.drainStart })
  s1.raise { code := evDrain, cls := 2, die := causeDie cause agent die, action := 7, detail := cause }

/-- Steps 1 and 2: the package is DRAINING, its units stop issuing and what they had in progress is cut short. -/
def drainStop (s : State) (cause agent die : Nat) : State :=
  let s1 := setPkg (drainBegin s cause agent die) .draining
  let s2 := if s.pkg.st = .draining then s1 else s1.updPkg (fun k => { k with back := s.pkg.st })
  let s3 := declareCause (s2.updCoh (fun c => { c with step := 2 })) cause agent die
  drainQps (drainTide (abandonSwitch (cutMoves s3) stBusyRetry))

/-- Steps 3 to 9: caches and the directory are invalidated, dead units are isolated, spares come in, units are reset, the step is
rewound and cores are released. -/
def drainBody (s : State) : State :=
  let dies := List.range s.cfg.variant.coreDies
  let s2 := s.coh.declared.foldl isolateCause (dropCaches s)
  let s3 := resetUnits (dies.foldl spareDie s2)
  let s4 := if s3.pkg.rerun then rewind s3 else s3
  let s5 := (setReplay s4 1).updTally (fun t => { t with open_ := none })
  (dies.filter (fun d => !s5.isLost (dieOfCore d) && decide ((s5.coreDie d).state ≠ .test))).foldl startCores s5

/-- Step 10: the package is back in the state it left, or in READY after a STOP_ALL (R295, R404). us is its time after the last
cause. -/
def drainEnd (s : State) (us : Nat) : State :=
  let t1 := max s.now (s.coh.causeAt + us * 1000)
  let s1 := { s with now := t1 }.updCoh (fun c => { c with
    declared := [], step := 0, drainUs := min (2 ^ 32 - 1) ((t1 - c.drainTimes.headD t1) / 1000) })
  let s3 := s1.updSalter (fun k => { k with repl := k.repl.map (fun x => { x with restarts := x.restarts + 1 }) })
  let s4 := (endPlan (stopStep s3)).updPkg (fun k => { k with stopInDrain := false, rerun := false })
  if s.pkg.stopInDrain then (if s.pkg.back = .ready ∨ s.pkg.back = .serving then setPkg s4 .ready else setPkg s4 s.pkg.back)
  else setPkg s3 s.pkg.back

/-- The fifth drain within 10 s: FAULT until PKG_RESET_N. The domain is down, so nothing that ran goes on (entry 34). -/
def drainFault (s : State) (cause agent die : Nat) : State :=
  let s1 := declareCause (drainBegin s cause agent die) cause agent die
  let s2 := dropCaches (abandonSwitch (cutMoves (endPlan (stopStep s1))) stBusyRetry)
  let s3 := (s2.coh.declared.foldl isolateCause s2).updCoh (fun c => { c with declared := [] })
  setPkg ((resetUnits s3).updTally (fun t => { t with open_ := none })) .fault

/-- The die concerned, of a cause before the drain can begin (R299). -/
def earlyDie (cause agent die : Nat) : Nat :=
  if cause = 4 ∨ cause = 6 then die else if cause = 2 ∨ cause = 3 ∨ cause = 7 then dieOfAgent agent else die

/-- A cause in CRUST or early LIQUOR: the die is isolated and FAILED, the event carries action 6, and the boot goes on (R299). -/
def earlyIsolate (s : State) (cause agent die : Nat) : State :=
  let d := earlyDie cause agent die
  let s1 := s.raise { code := evDrain, cls := 2, die := d, action := 6, detail := cause }
  if dieHere s d then isolateDie s1 d else s1

/-- DRAIN: a cause arises. The sequence of R295 runs to its second step; the rest is a turn of the idle block (entry 37). -/
def execDrain (cause agent die : Nat) (s : State) : Host.Outcome State Fault Refusal :=
  if !drainCause s cause agent die then go s
  else if earlyCause s then go (earlyIsolate s cause agent die)
  else if !canDrain s then go s
  else if fifthDrain s then go (drainFault s cause agent die)
  else go (drainStop s cause agent die)

/-- DRAIN_LIMIT_FAULT: the cause that would begin the fifth drain within 10 s. -/
def execDrainLimitFault (cause agent die : Nat) (s : State) : Host.Outcome State Fault Refusal :=
  if drainCause s cause agent die && canDrain s && fifthDrain s then go (drainFault s cause agent die) else go s

/-- RESERVE_RESTORE: each granule that a lost memory section held is re-created on another pan (R306). -/
def execReserveRestore (s : State) : Host.Outcome State Fault Refusal :=
  if s.pkg.st = .off ∨ s.pkg.st = .draining then go s else
  let lost := (List.range s.cfg.variant.pans).filter (fun p => !(s.pan p).service)
  go ((lost.flatMap (granulesAt s)).foldl (moveGranule []) s).drawn

end Sys2Proof.Machine
end

