-- ==== Sys2Proof/Machine/Tally.lean ====
section
/-!
DEFINITION. The tally: rounds and their answers (R411 to R420, R427), replay (R425, R426), and paired mode (R418, R419, R428 to
R430). -/

namespace Sys2Proof.Machine

/-! ### Records (R415) -/

/-- An entry in the layout of R415. -/
def entryBytes (e : Entry) (flags : Nat) : List Byte :=
  leBytes 4 e.agent ++ leBytes 4 e.seq ++ leBytes 1 1 ++ leBytes 1 flags ++ leBytes 2 e.units ++ leBytes 4 e.bytes
    ++ leBytes 8 e.tag.toNat ++ leBytes 8 0 ++ leBytes 8 e.number ++ leBytes 8 e.time ++ leBytes 16 0
    ++ padTo ((e.units - 1) * 64) e.payload

/-- A COMPLETE or RESET as answered. -/
def recordBytes (x : Answer) : List Byte :=
  match x.entry with
  | some e => entryBytes e 0
  | none => leBytes 4 x.agent ++ leBytes 4 x.seq ++ leBytes 1 x.kind ++ leBytes 1 0 ++ leBytes 2 1 ++ leBytes 52 0

/-- An entry from the bytes of a record. -/
def entryOf (b : List Byte) : Entry :=
  { agent := leField b 0 4, seq := leField b 4 4, units := leField b 0xA 2, bytes := leField b 0xC 4,
    tag := BitVec.ofNat 64 (leField b 0x10 8), number := leField b 0x20 8, time := leField b 0x28 8,
    payload := (b.drop 64).take ((leField b 0xA 2 - 1) * 64) }

/-! ### Sequence tables and the log (R411, R420) -/

def seqRow (t : Table SeqRow) (a : Nat) : SeqRow := tget {} t a

/-- One tally copy less its sequence table, in bytes (R420). -/
def logCapacity : Nat := gib - 4 * mib

def entriesBytes (es : List Entry) : Nat := es.foldl (fun n e => n + e.units * 64) 0

/-- Free log space, MiB, once open entries at the tail are copied to the head (R420, R433). -/
def logFreeMib (t : Tally) : Nat := (logCapacity - entriesBytes t.entries) / mib

/-- What a round has judged so far. -/
structure Judge where
  seqs : Table SeqRow
  entries : List Entry
  next : Nat
  answers : List Answer

/-- An accepted record's effect on a sequence table and a list of entries (R411, R413, R416). -/
def applyRecord (t : Table SeqRow) (es : List Entry) (kind agent seq : Nat) (e : Option Entry) : Table SeqRow × List Entry :=
  let r := seqRow t agent
  if kind = 1 then
    (tput {} t agent { r with a := seq }, match e with
      | some x => es.filter (fun y => !decide (y.agent = agent ∧ y.seq = seq)) ++ [x]
      | none => es)
  else if kind = 2 then (tput {} t agent { r with d := seq }, es.filter (fun y => !decide (y.agent = agent ∧ y.seq = seq)))
  else (tput {} t agent {}, es)

/-! ### Submission rings (R414) -/

/-- Addresses of n units of a ring from index i on. -/
def unitAddrs (r : Ring) (i n : Nat) : List Nat :=
  (List.range n).map (fun k => r.base * 4096 + (i + k) % 2 ^ r.size * 64)

/-- A record of a ring: its units and bytes, from a unit index. -/
def recordAt (s : State) (r : Ring) (i n : Nat) : List Byte := (unitAddrs r i n).flatMap (fun a => s.cohBytes (canon s a) 64)

/-- A ring that a round may read: its size in range and its base in populated normal memory. -/
def ringOk (s : State) (r : Ring) : Bool :=
  decide (6 ≤ r.size) && decide (r.size ≤ 20) && (place s (r.base * 4096)).normal

/-- Enabled rings that break R414 are disabled and logged. -/
def checkRings (s : State) : State :=
  (List.range 16).foldl (fun s i =>
    let r := tget {} s.tally.rings i
    if r.enable && !ringOk s r then
      (s.updTally (fun t => { t with rings := tput {} t.rings i { r with enable := false } })).note evTallyRing 0xFF 0 0 0
    else s) s

/-- A record a round takes: ring, unit index, units consumed, and its bytes. -/
structure Taken where
  ring : Nat
  index : Nat
  units : Nat
  bytes : List Byte

/-- The records of one ring, in order, within what is left of the limits of 512 records and 4 MiB. -/
def takeRing (s : State) (i : Nat) (r : Ring) (fuel at_ left bytes : Nat) (acc : List Taken) : List Taken :=
  match fuel with
  | 0 => acc
  | f + 1 =>
    if left = 0 ∨ 512 ≤ acc.length then acc else
    let u := leField (recordAt s r at_ 1) 0xA 2
    let bad := decide (u = 0 ∨ 256 < u)
    let n := if bad then 1 else u
    if left < n ∨ bytes < n * 64 then acc
    else
      let x : Taken := { ring := i, index := at_, units := n, bytes := recordAt s r at_ n }
      takeRing s i r f ((at_ + n) % 2 ^ 32) (left - n) (bytes - n * 64) (acc ++ [x])

/-- The records of every enabled ring, rings ascending (R417). -/
def takeRings (s : State) : List Taken :=
  (List.range 16).foldl (fun acc i =>
    let r := tget {} s.tally.rings i
    if r.enable then
      takeRing s i r 512 r.consumer.toNat (r.producer - r.consumer).toNat
        (4 * mib - acc.foldl (fun n x => n + x.units * 64) 0) acc
    else acc) []

/-! ### Judging (R416) -/

/-- Check 1: kind, flags, units, bytes, agent, sequence and reserved bytes. -/
def recordOk (b : List Byte) : Bool :=
  let kind := leField b 8 1
  let units := leField b 0xA 2
  let n := leField b 0xC 4
  decide (1 ≤ kind ∧ kind ≤ 3) && decide (leField b 9 1 = 0) && decide (1 ≤ units ∧ units ≤ 256)
    && (decide (kind = 1) || decide (units = 1 ∧ n = 0)) && decide (n ≤ 16320) && decide (n ≤ (units - 1) * 64)
    && decide (leField b 0 4 < 262144) && decide (leField b 0x1B 5 = 0) && decide (leField b 0x30 16 = 0)
    && (if kind = 3 then decide (leField b 4 4 = 0) else decide (leField b 4 4 ≠ 0))

/-- A tally content has only one local copy (R305, R433). -/
def tallySingle (s : State) : Bool := s.salter.single.any (fun g => decide (granuleContent g = .tally))

/-- Acceptance is held while rounds run (R417, R425, R430). -/
def tallyHeld (s : State) : Bool := (!s.tally.paired && tallySingle s) || s.tally.restoring

/-- One record is judged by the rows of R416 in order. held marks one that reached check 6. -/
def judgeOne (s : State) (j : Judge) (x : Taken) : Judge :=
  let b := x.bytes
  let kind := leField b 8 1
  let agent := leField b 0 4
  let seq := leField b 4 4
  let r := seqRow j.seqs agent
  let z : Answer :=
    { ring := x.ring, pa := [(tget {} s.tally.rings x.ring).base * 4096 + x.index % 2 ^ (tget {} s.tally.rings x.ring).size * 64],
      units := x.units, status := 0, kind := kind, agent := agent, seq := seq }
  let say (a : Answer) : Judge := { j with answers := j.answers ++ [a] }
  if !recordOk b then say { z with status := stBadArgument }
  else if (kind = 1 ∧ seq ≤ r.a) ∨ (kind = 2 ∧ seq ≤ r.d) then
    match j.entries.find? (fun e => decide (e.agent = agent ∧ e.seq = seq)) with
    | some e => say { z with dup := true, number := e.number, time := e.time }
    | none => say { z with dup := true, done := true }
  else if kind = 3 ∧ r.d ≠ r.a then say { z with status := stWrongState }
  else if (kind = 1 ∧ seq ≠ r.a + 1) ∨ (kind = 2 ∧ (seq ≠ r.d + 1 ∨ r.a < seq)) then say { z with status := stBadArgument }
  else if tallyHeld s then say { z with status := stBusyRetry }
  else if kind = 1 ∧ logCapacity < entriesBytes j.entries + x.units * 64 + mib then say { z with status := stNoFit }
  else
    let e : Option Entry :=
      if kind = 1 then some { entryOf b with number := j.next, time := s.now } else none
    let y := applyRecord j.seqs j.entries kind agent seq e
    { seqs := y.1, entries := y.2, next := if kind = 1 then j.next + 1 else j.next
      answers := j.answers ++ [{ z with number := if kind = 1 then j.next else 0, time := if kind = 1 then s.now else 0,
                                        entry := e, held := true }] }

/-! ### Commit and answers (R417) -/

/-- The answer is written into bytes 0x18 to 0x2F of its record, then the ring's consumer index advances. -/
def writeAnswer (s : State) (x : Answer) : State :=
  let b := leBytes 2 x.status ++ leBytes 1 (boolN x.dup + 2 * boolN x.done) ++ leBytes 5 0 ++ leBytes 8 x.number ++ leBytes 8 x.time
  let s1 := x.pa.foldl (fun s a => cachelessWrite s (canon s a + 0x18) b) s
  s1.updTally (fun t =>
    let r := tget {} t.rings x.ring
    { t with
      rings := tput {} t.rings x.ring { r with consumer := r.consumer + BitVec.ofNat 32 x.units }
      accepted := if x.status = stOk ∧ !x.dup then satAdd 32 t.accepted 1 else t.accepted
      dups := if x.dup then satAdd 32 t.dups 1 else t.dups
      bad := if x.status = stBadArgument then satAdd 32 t.bad 1 else t.bad
      busyCount := if x.status = stBusyRetry then satAdd 16 t.busyCount 1 else t.busyCount
      nofit := if x.status = stNoFit then satAdd 16 t.nofit 1 else t.nofit })

/-- An accepted record takes effect. -/
def commitOne (s : State) (x : Answer) : State :=
  if !x.held then s else
  s.updTally (fun t =>
    let y := applyRecord t.seqs t.entries x.kind x.agent x.seq x.entry
    { t with seqs := y.1, entries := y.2, nextNumber := if x.kind = 1 then max t.nextNumber x.number else t.nextNumber })

/-- The round commits in one step and its answers are written (R427). -/
def commitRound (s : State) (r : Round) : State :=
  let s1 := r.answers.foldl commitOne s
  let s2 := s1.updTally (fun t => { t with round := r.number, open_ := none, voids := 0 })
  r.answers.foldl writeAnswer s2

/-- The round is void: what reached check 6 is answered BUSY_RETRY and changes nothing (R418). -/
def voidRound (s : State) (r : Round) : State :=
  let s1 := s.updTally (fun t => { t with open_ := none, voids := t.voids + 1 })
  (r.answers.map (fun x => if x.held then { x with status := stBusyRetry, number := 0, time := 0 } else x)).foldl writeAnswer s1

/-! ### Mirror streams (R429) -/

/-- The 24-byte header of a MIRROR body, and its fragment's data. -/
def mirrorBody (op off number total : Nat) (d : List Byte) : List Byte :=
  leBytes 1 op ++ leBytes 3 0 ++ leBytes 4 off ++ leBytes 8 number ++ leBytes 4 total ++ leBytes 4 0 ++ d

/-- Data bytes of one fragment. -/
def fragBytes : Nat := 4072

/-- A stream leaves in successive fragments to the partner. -/
def sendStream (s : State) (op number : Nat) (d : List Byte) : State :=
  (List.range (max 1 (ceilDiv d.length fragBytes))).foldl (fun s k =>
    sendControl s s.cfg.partner
      (.mirror s.cfg.partner op number (mirrorBody op (k * fragBytes) number d.length ((d.drop (k * fragBytes)).take fragBytes)))) s

/-- A round's mirror data: its accepted records, then the round number and the record count. -/
def roundStream (r : Round) : List Byte :=
  let acc := r.answers.filter (fun x => x.held)
  acc.flatMap recordBytes ++ leBytes 8 r.number ++ leBytes 8 acc.length

/-- A stream of open entries and of sequence table records with A not 0; the manual does not give the records' layout in the
stream (entry 38). -/
def tallyStream (es : List Entry) (seqs : Table SeqRow) : List Byte :=
  let rows := seqs.filter (fun x => x.2.a ≠ 0)
  es.flatMap (fun e => entryBytes e 0)
    ++ rows.flatMap (fun x => leBytes 4 x.1 ++ leBytes 4 x.2.a ++ leBytes 4 x.2.d ++ leBytes 4 0)
    ++ leBytes 8 es.length ++ leBytes 8 rows.length

/-- Records at the front of a stream, n of them. -/
def readRecords (n : Nat) (d : List Byte) : List (List Byte) × List Byte :=
  match n with
  | 0 => ([], d)
  | k + 1 =>
    let len := max 1 (leField d 0xA 2) * 64
    let r := readRecords k (d.drop len)
    (d.take len :: r.1, r.2)

/-- What a stream of tallyStream's form carries. -/
def readTally (d : List Byte) : List Entry × Table SeqRow :=
  let n := d.length
  let recs := readRecords (min n (leField d (n - 16) 8)) d
  let rows := (List.range (min n (leField d (n - 8) 8))).foldl (fun (t : Table SeqRow) k =>
    tput {} t (leField recs.2 (16 * k) 4) { a := leField recs.2 (16 * k + 4) 4, d := leField recs.2 (16 * k + 8) 4 }) []
  (recs.1.map entryOf, rows)

/-! ### Rounds -/

/-- Rounds run: READY, SERVING or MAINT, a salter serving, no supply warning, and no round in progress (R417, R427). -/
def roundsRun (s : State) : Bool :=
  (decide (s.pkg.st = .ready) || decide (s.pkg.st = .serving) || decide (s.pkg.st = .maint))
    && decide (s.ctlState s.salter.active ≠ .failed) && !s.tally.supply

/-- TALLY_ROUND: the records the rings hold are judged; in local mode the round commits at once, in paired mode it waits for the
partner. -/
def execTallyRound (s : State) : Host.Outcome State Fault Refusal :=
  if !roundsRun s ∨ s.tally.open_.isSome then go s else
  let s1 := checkRings s
  let j := (takeRings s1).foldl (judgeOne s1)
    { seqs := s1.tally.seqs, entries := s1.tally.entries, next := s1.tally.nextNumber + 1, answers := [] }
  let r : Round := { number := s1.tally.round + 1, started := s1.now, answers := j.answers }
  if s1.tally.paired then
    go (sendStream (s1.updTally (fun t => { t with open_ := some r })) 1 r.number (roundStream r))
  else go (commitRound s1 r)

/-- ROUND_VOID: the pair timeout has passed without the acknowledgement (R418). -/
def execRoundVoid (s : State) : Host.Outcome State Fault Refusal :=
  match s.tally.open_ with
  | none => go s
  | some r => go (voidRound (s.reach (r.started + s.cfg.pairTimeoutUs * 1000)) r)

/-- SUPPLY_ROUND_DEADLINE: the round in progress is not durable 200 µs after the warning (R427). -/
def execSupplyRoundDeadline (s : State) : Host.Outcome State Fault Refusal :=
  match s.tally.open_ with
  | none => go s
  | some r => if s.board.warn then go (voidRound (s.reach (s.power.warnAt + 200000)) r) else go s

/-- PAIR_DOWN: three consecutive void rounds with the degrade flag (R419). -/
def execPairDown (s : State) : Host.Outcome State Fault Refusal :=
  if s.tally.paired ∧ s.cfg.degrade ∧ 3 ≤ s.tally.voids then
    go ((s.updTally (fun t => { t with paired := false, pairDown := true, voids := 0 })).note evPairDown 0xFF 0 0 0)
  else go s

/-- PAIR_DOWN_SYNC: every 100 ms the whole tally is sent as MIRROR op 4 (R419). -/
def execPairDownSync (s : State) : Host.Outcome State Fault Refusal :=
  if !s.tally.pairDown ∨ !controlUp s ∨ s.pkg.st = .crust ∨ s.pkg.st = .fault then go s else
  let n := s.tally.streamNo + 1
  let s1 := s.updTally (fun t => { t with streamNo := n, syncNo := some n })
  go (sendStream s1 4 n (tallyStream s.tally.entries s.tally.seqs))

/-! ### Messages of the partner -/

/-- The mirror engine runs: in every package state except OFF, CRUST and FAULT (R428). -/
def mirrorUp (s : State) : Bool :=
  s.cfg.variant.full && s.cfg.paired && decide (s.pkg.st ≠ .off) && decide (s.pkg.st ≠ .crust) && decide (s.pkg.st ≠ .fault)

/-- A MIRROR_ACK to a sender. -/
def sendAck (s : State) (who : Dword) (number held status : Nat) : State := sendControl s who (.mirrorAck who number held status)

/-- Fields of a MIRROR body. -/
def mOp (m : ControlMsg) : Nat := leField m.body 0 1
def mOff (m : ControlMsg) : Nat := leField m.body 4 4
def mNumber (m : ControlMsg) : Nat := leField m.body 8 8
def mTotal (m : ControlMsg) : Nat := leField m.body 16 4

/-- The message is this row's: a MIRROR with its op. -/
def isMirror (m : ControlMsg) (op : Nat) : Bool := decide (m.type ≠ 4) || decide (mOp m = op) || (decide (op = 1) && decide (mOp m = 0 ∨ 4 < mOp m))

/-- A fragment joins its stream where it continues it from offset 0; f takes the whole stream. -/
def takeFragment (s : State) (m : ControlMsg) (op : Nat) (f : State → List Byte → State) : State :=
  let d := m.body.drop 24
  let held : List Byte := match s.tally.stream with
    | some (o, n, t, bs) => if o = op ∧ n = mNumber m ∧ t = mTotal m then bs else []
    | none => []
  if mOff m ≠ held.length then s else
  let bs := held ++ d
  if bs.length < mTotal m then s.updTally (fun t => { t with stream := some (op, mNumber m, mTotal m, bs) })
  else f (s.updTally (fun t => { t with stream := none })) (bs.take (mTotal m))

/-- A MIRROR message is accepted and handed to its row. A sender that is not the partner is answered 2; reserved bytes that are
not zero, or an op outside R429, drop it (R358). -/
def mirrorMsg (s : State) (m : ControlMsg) (op : Nat) (f : State → State) : Host.Outcome State Fault Refusal :=
  if !isMirror m op then go s
  else controlMsg s m 4 (fun s =>
    if mOp m ≠ op ∨ leField m.body 1 3 ≠ 0 ∨ leField m.body 20 4 ≠ 0 then
      s.updPort m.port (fun p => { p with dropCtl := satAdd 16 p.dropCtl 1 })
    else if !mirrorUp s then s
    else if m.sender ≠ s.cfg.partner then sendAck s m.sender (mNumber m) 0 2
    else f s)

/-- The 1 GiB mirror area of R428 holds the entries and the sequence table. -/
def mirrorFits (es : List Entry) : Bool := decide (entriesBytes es ≤ logCapacity)

/-- The partner's records of a round are stored: each COMPLETE and RESET is applied, and a later copy replaces an earlier. -/
def storeRound (s : State) (m : ControlMsg) (d : List Byte) : State :=
  let n := d.length
  let recs := (readRecords (min n (leField d (n - 8) 8)) d).1
  let y := recs.foldl (fun (y : Table SeqRow × List Entry) b =>
    applyRecord y.1 y.2 (leField b 8 1) (leField b 0 4) (leField b 4 4) (if leField b 8 1 = 1 then some (entryOf b) else none))
    (s.tally.mirrorSeqs, s.tally.mirror)
  if mirrorFits y.2 then
    sendAck (s.updTally (fun t => { t with mirrorSeqs := y.1, mirror := y.2 })) m.sender (mNumber m) n 0
  else sendAck s m.sender (mNumber m) n 1

def execMirrorRound (m : ControlMsg) (s : State) : Host.Outcome State Fault Refusal :=
  mirrorMsg s m 1 (fun s => takeFragment s m 1 (fun s d => storeRound s m d))

/-- MIRROR_SYNC: the partner's whole tally replaces what the mirror area holds. -/
def execMirrorSync (m : ControlMsg) (s : State) : Host.Outcome State Fault Refusal :=
  mirrorMsg s m 4 (fun s => takeFragment s m 4 (fun s d =>
    let y := readTally d
    if mirrorFits y.1 then
      sendAck (s.updTally (fun t => { t with mirror := y.1, mirrorSeqs := y.2 })) m.sender (mNumber m) d.length 0
    else sendAck s m.sender (mNumber m) d.length 1))

/-- MIRROR_FETCH: the partner asks for its data back, and is sent the RESTORE stream (R430). -/
def execMirrorFetch (m : ControlMsg) (s : State) : Host.Outcome State Fault Refusal :=
  mirrorMsg s m 2 (fun s => takeFragment s m 2 (fun s _ =>
    sendStream s 3 (mNumber m) (tallyStream s.tally.mirror s.tally.mirrorSeqs)))

/-- The tally is rebuilt from the partner's stream, and replay is set with cause 5 (R425, R430). -/
def restoreTally (s : State) (d : List Byte) : State :=
  let y := readTally d
  let top := y.1.foldl (fun n e => max n e.number) s.tally.nextNumber
  setReplay (s.updTally (fun t => { t with entries := y.1, seqs := y.2, nextNumber := top, restoring := false })) 5

def execMirrorRestore (m : ControlMsg) (s : State) : Host.Outcome State Fault Refusal :=
  mirrorMsg s m 3 (fun s => if !s.tally.restoring then s else takeFragment s m 3 (fun s d =>
    sendAck (restoreTally s d) m.sender (mNumber m) d.length 0))

/-- What an acknowledgement of status 0 completes: the round in progress, or the SYNC of a package in PAIR_DOWN. -/
def takeAck (s : State) (number held : Nat) : State :=
  match s.tally.open_ with
  | some r => if r.number = number ∧ (roundStream r).length ≤ held then commitRound s r else s
  | none =>
    if s.tally.syncNo = some number then
      s.updTally (fun t => { t with syncNo := none, pairDown := false, paired := true, voids := 0 })
    else s

/-- MIRROR_ACK (R417, R419, R429). -/
def execMirrorAck (m : ControlMsg) (s : State) : Host.Outcome State Fault Refusal :=
  controlMsg s m 5 (fun s =>
    if !mirrorUp s ∨ m.sender ≠ s.cfg.partner ∨ leField m.body 13 3 ≠ 0 ∨ leField m.body 12 1 ≠ 0 then s
    else takeAck s (leField m.body 0 8) (leField m.body 8 4))

/-! ### Replay (R426) -/

/-- Open entries in ascending agent id and sequence. -/
def insertEntry (e : Entry) (l : List Entry) : List Entry :=
  match l with
  | [] => [e]
  | x :: r => if e.agent < x.agent ∨ (e.agent = x.agent ∧ e.seq ≤ x.seq) then e :: x :: r else x :: insertEntry e r

def sortEntries (l : List Entry) : List Entry := l.foldr insertEntry []

/-- Whole entries of a list that fit in n bytes. -/
def fitEntries (l : List Entry) (n : Nat) : List Entry :=
  match l with
  | [] => []
  | e :: r => if e.units * 64 ≤ n then e :: fitEntries r (n - e.units * 64) else []

def replayHeader (t : Tally) (total start written : Nat) : List Byte :=
  leBytes 4 0x594C4154 ++ leBytes 2 1 ++ leBytes 1 t.cause ++ leBytes 1 0 ++ leBytes 4 t.epoch ++ leBytes 4 0 ++ leBytes 8 total
    ++ leBytes 8 start ++ leBytes 8 written ++ leBytes 24 0

/-- TALLY_REPLAY_GO: the header and whole entries of the snapshot, from the start index on. -/
def execTallyReplayGo (start : Nat) (s : State) : Host.Outcome State Fault Refusal :=
  if !(decide (s.pkg.st = .ready) || decide (s.pkg.st = .serving) || decide (s.pkg.st = .maint)) then go s else
  let t := s.tally
  let base := t.replayBase
  if t.replayLen < 64 ∨ !pagesAll s base t.replayLen Place.normal then go (s.updTally (fun t => { t with written := 0 }))
  else
    let snap : List Entry := match t.snapshot with
      | some l => if start = 0 then sortEntries t.entries else l
      | none => sortEntries t.entries
    let out := fitEntries (snap.drop start) (t.replayLen - 64)
    let bytes := replayHeader t snap.length start out.length
      ++ out.flatMap (fun e => entryBytes e (1 + 2 * boolN e.stateLost))
    let s1 := physWrite s base bytes
    go (s1.updTally (fun t => { t with
      snapshot := some snap, written := out.length, replay := t.replay && decide (start + out.length < snap.length) }))

end Sys2Proof.Machine
end

