-- ==== Sys2Proof/Machine/Boot.lean ====
section
/-!
DEFINITION. Reset and boot: what survives the loss of the rails and a warm reset (R436, R468, R519), the boot table (R299, R467,
R469), power-up and power-down (R439, R440, R453, R454, R505, R506), and the housekeeping side (R465, R507 to R509, R514). -/

namespace Sys2Proof.Machine

/-! ### What stays -/

/-- A table with each entry mapped, those that become the default dropped. -/
def tmap {α : Type} [DecidableEq α] (d : α) (t : Table α) (f : α → α) : Table α :=
  t.foldl (fun r e => tput d r e.1 (f e.2)) []

/-- What a pan's repair record holds of it (R463, R478). -/
def Pan.repaired (x : Pan) : Pan :=
  { rows := x.rows, connections := x.connections, columns := x.columns, spareConns := x.spareConns, arrayCols := x.arrayCols,
    bedMap := x.bedMap }

/-- What a warm reset leaves of a pan: its repairs and what its brine holds. -/
def Pan.warm (x : Pan) : Pan := { x.repaired with taken := x.taken, relocated := x.relocated }

def CoreDie.repaired (x : CoreDie) : CoreDie :=
  { ways := x.ways, limit := x.limit, spareCores := x.spareCores, toSpare := x.toSpare, absent := x.absent }

def Core.repaired (x : Core) : Core := { l2Ways := x.l2Ways, l2Limit := x.l2Limit }
def Port.repaired (x : Port) : Port := { spare := x.spare, dead := x.dead }

/-- Flash, counters and the repair record; everything else of the crust is lost at a reset. -/
def Trust.kept (t : Trust) : Trust :=
  { ctrCrust := t.ctrCrust, ctrLiquor := t.ctrLiquor, ctrSite := t.ctrSite, boots := t.boots, flash := t.flash,
    drbgSeeds := t.drbgSeeds, repair := t.repair, aliasKey := t.aliasKey, slotOf := t.slotOf, puf0 := t.puf0, puf1 := t.puf1 }

/-- The package with nothing but what lies in the flash and in the repair record: its rails are off. -/
def unpowered (s : State) : State :=
  { State.reset with
    pending := s.pending, free := s.free, now := s.now, bus := s.bus, out := s.out, cfg := s.cfg, board := s.board
    trust := s.trust.kept
    pkg := { panMap := s.pkg.panMap }
    power := { cap := s.cfg.capWatts, phases := s.power.phases, railsOff := s.power.railsOff }
    pans := tmap {} s.pans Pan.repaired
    coreDies := tmap {} s.coreDies CoreDie.repaired
    cores := tmap {} s.cores Core.repaired
    ports := tmap {} s.ports Port.repaired }

/-- The rails are gone and the sequencer stands at a state. -/
def railsGone (s : State) (q : Seq) : State :=
  (unpowered s).updBoard (fun b => { b with seq := q, rails := false, warn := false, taps := [], extest := false })

/-- What a warm reset keeps beside that: DRAM with its poison marks, the tally, the event log and the salter's records in
reserved brine (R468, R486, R519). Scratchpad SRAM keeps its bytes (entry 39). -/
def warmed (s : State) : State :=
  let u := unpowered s
  { u with
    mem := s.mem
    coh := { poison := s.coh.poison }
    pans := tmap {} s.pans Pan.warm
    tally := { s.tally with open_ := none, snapshot := none, stream := none, restoring := false }
    power := { u.power with converters := s.power.converters, warnAt := s.power.warnAt }
    trust := { u.trust with staged := s.trust.staged }
    events := { s.events with enable := false, size := 0, base := 0, producer := 0, consumer := 0, filterCe := true,
                              filterNote := true, lost := 0, waiting := [], linkUp := false }
    salter := { regionGen := s.salter.regionGen, sendSeq := s.salter.sendSeq, recvSeq := s.salter.recvSeq, dirPa := s.salter.dirPa,
                single := s.salter.single, granuleAt := s.salter.granuleAt } }

/-! ### Images (R461, R466) -/

/-- A flash slot's image where it passes every check of R461. -/
def goodImage (s : State) (t k : Nat) : Option Image :=
  (tget none s.trust.flash (2 * t + k)).bind (fun im => if im.good && decide (typeCounter s t ≤ im.secVersion) then some im else none)

/-- What the crust compares two slots by: the sequence of a record, the version of an image. -/
def Image.order (im : Image) (t : Nat) : Nat := if t ≤ 3 then im.version else im.sequence

/-- The slot the crust chooses for a type: the valid one with the higher order; a staged liquor waits for FW_SWITCH while the
other slot is valid (R466, R474, R519). -/
def chooseImage (s : State) (t : Nat) : Option (Nat × Image) :=
  match goodImage s t 0, goodImage s t 1 with
  | none, none => none
  | some a, none => some (0, a)
  | none, some b => some (1, b)
  | some a, some b =>
    if t = 2 ∧ s.trust.staged = some 1 then some (0, a)
    else if t = 2 ∧ s.trust.staged = some 0 then some (1, b)
    else if a.order t < b.order t then some (1, b)
    else some (0, a)

/-- An image comes into force, and the measurement register takes its header (R467, R472). -/
def runImage (s : State) (t m : Nat) : Option State :=
  (chooseImage s t).map (fun x =>
    extendM (s.updTrust (fun r => { r with running := tput none r.running t (some x.2), slotOf := tput 0 r.slotOf t x.1 })) m
      x.2.header)

/-! ### The boot table (R467) -/

def atStep (s : State) (k : Nat) : State := s.updPkg (fun p => { p with bootStep := k })

/-- A boot that fails leaves the package in FAULT (R469). -/
def bootFail (s : State) : State := setPkg s .fault

/-- Steps 1 and 2: the generator is seeded, the control die that reconstructs its die key is active, M0 takes the ROM. -/
def bootSelf (s : State) : Option State :=
  if !s.trust.puf0 ∧ !s.trust.puf1 then none
  else
    let a := if s.trust.puf0 then 0 else 1
    let s1 := s.updTrust (fun t => { t with drbgSeeds := t.drbgSeeds + 1, drbgCount := 0, drbgFailed := false })
    let s2 := s1.updSalter (fun k => { k with
      active := a, dies := if s.trust.puf0 ∧ s.trust.puf1 then k.dies else tput .online k.dies (1 - a) .failed })
    some (atStep (extendM s2 0 Config.romDigest) 2)

/-- The step-2 results of the housekeeping registers (R467, R508). -/
def bootPins (s : State) : State :=
  s.updBoard (fun b => { b with die0 := !s.trust.puf0, die1 := !s.trust.puf1, bootFail := !s.trust.puf0 && !s.trust.puf1 })

/-- M2 takes the header of every record of the repair log (R463, R472). -/
def measureRepairs (s : State) : State := s.trust.repair.foldl (fun s e => extendM s 2 (repairHeader s e.1 e.2)) s

/-- Step 4: the records, the alias key, and the keys of the I/O dies' engines (R457, R462, R472). A site record is wanted but its
lack does not fail the boot (R469). -/
def bootRecords (s : State) : Option State := do
  let s1 ← runImage s 0x10 2
  let s2 ← runImage (measureRepairs s1) 0x12 3
  let s3 := (runImage s2 0x13 3).getD s2
  some (atStep (s3.updTrust (fun t => { t with aliasKey := s.draw 5400, keysLoaded := 0xF })) 4)

/-- The alias certificate: identity number, alias key and M0 to M4 under the identity key (R472). -/
def aliasCertBytes (s : State) : List Byte :=
  Config.deviceSign (leBytes 8 s.cfg.identity.toNat ++ Config.keyBytes (s.trust.aliasKey + 2) ++ (List.range 5).flatMap (mBytes s))

/-- Steps 2 to 5, each as far as it gets. -/
def bootLiquor (s : State) : State × Bool :=
  match bootSelf s with
  | none => (s.updSalter (fun k => { k with dies := tput .online (tput .online k.dies 0 .failed) 1 .failed }), false)
  | some s2 =>
    match runImage s2 1 1 with
    | none => (s2, false)
    | some s3 =>
      let s3 := atStep s3 3
      match bootRecords s3 with
      | none => (s3, false)
      | some s4 =>
        match runImage s4 2 4 with
        | none => (s4, false)
        | some s5 =>
          let s5 := s5.updTrust (fun t => { t with staged := if t.staged = some (tget 0 t.slotOf 2) then none else t.staged })
          (setPkg (atStep (s5.updTrust (fun t => { t with aliasCert := aliasCertBytes s5 })) 5) .liquor, true)

/-- The default partition table (R317). -/
def defaultParts : List Partition :=
  [{ kind := 3, units := 6 }, { kind := 2, units := 20, planPool := true }, { kind := 2, units := 4 },
   { kind := 1, units := 10, amask := 3, rmask := 15 }]

/-- The rules of R316. -/
def partsOk (ps : List Partition) : Bool :=
  decide (ps.length ≤ 16) && ps.all (fun p => decide (1 ≤ p.kind ∧ p.kind ≤ 3))
    && decide ((ps.filter (fun p => p.kind = 3)).length = 1)
    && ps.all (fun p => decide (p.kind ≠ 3) || decide (4 ≤ p.units ∧ p.units ≤ 16))
    && decide ((ps.filter (fun p => p.planPool)).length ≤ 1) && ps.all (fun p => !p.planPool || decide (p.kind = 2))
    && decide (ps.foldl (fun n p => n + p.units) 0 ≤ 40)

/-- The least burst a rate allows, KiB (R330). -/
def leastBurst (rate : Nat) : Nat := ceilDiv (rate * 100) 1024

/-- A partition's regulator as configured. -/
def regulatorOf (p : Partition) : Regulator :=
  let b := max p.burst (leastBurst p.rate)
  { rate := p.rate, borrow := p.borrow, burst := b, rateNow := p.rate, borrowNow := p.borrow, burstNow := b }

/-- Step 7 for the stockpile: the partition table, the dies and S0, the regulators, and full buckets (R316, R318, R322). -/
def bootStockpile (s : State) : State :=
  let good := partsOk s.cfg.partitions
  let ps := if good then s.cfg.partitions else defaultParts
  let dies := (List.range s.cfg.variant.stkDies).filter (fun k => !s.isLost (dieOfStk k))
  let n := max 1 dies.length
  let mask := dies.foldl (fun (m : BitVec 6) k => m ||| (1#6 <<< k)) 0
  let regs := ((List.range ps.length).zip ps).foldl (fun (t : Table Regulator) x => tput {} t x.1 (regulatorOf x.2)) []
  let toks := dies.foldl (fun (t : Table Nat) k =>
    (List.range ps.length).foldl (fun t i => tput 0 t (tokenKey k i) ((tget {} regs i).burst * 1024 / n)) t) []
  let s1 := s.updStk (fun x => { x with
    parts := ps, dflt := !good, dies := mask, s0 := dies.length, regs := regs, tokens := toks, waiting := [] })
  if good then s1 else s1.note evConfigPartition 0xFF 0 0 0

/-- Rails of units that phases have run out on: the unit does not train (R477). -/
def railUnits (s : State) : List Nat :=
  s.power.railsOff.filterMap (fun r =>
    if 8 ≤ r ∧ r < 16 then some (dieOfCore (r - 8)) else if 16 ≤ r ∧ r < 36 then some (dieOfPan (r - 16)) else none)

/-- Step 7: memory is trained; a cold boot writes it to zero; the interleave set is fixed (R307, R467). -/
def bootMemory (s : State) (cold : Bool) : State :=
  let s1 := if cold then { s with mem := [], coh := { s.coh with poison := [] } } else s
  let ps := (List.range s.cfg.variant.pans).filter (fun p => (s1.pan p).service)
  bootStockpile (atStep (s1.updPkg (fun k => { k with interleave := ps })) 7)

/-- Training at step 7 of a cold boot may bring in a spare column of a pan's brine (R477): whether it does is free (entry 40). -/
def bootColumns (s : State) : State :=
  (List.range s.cfg.variant.pans).foldl (fun s p =>
    if s.draw (9600 + p) % 2 = 0 then s
    else repairEntry (s.updPan p (fun x => { x with columns := satAdd 8 x.columns 1 })) (leBytes 1 11 ++ leBytes 1 p)) s

/-- The BIST of one unit at boot: whether it passes, with which spares, and its signature when it does not, is free (R497, entry
40). -/
def bootTest (s : State) (kind i : Nat) : State :=
  if unitState s kind i = .failed then s else
  let pass := decide (s.draw (9000 + kind * 64 + i) % 2 = 0)
  let sig := if pass then expectedSig s kind i 0 else BitVec.ofNat 64 (s.draw (9300 + kind * 64 + i))
  let repaired := pass && decide (s.draw (9100 + kind * 64 + i) % 2 = 1)
  let s1 := bistResult s kind i 3 pass repaired sig
  if pass then (if repaired then diagnosed s1 kind i else s1)
  else
    let s2 := s1.updTrust (fun t => { t with bistPassed := false })
    if kind = 0 then setPanState s2 i .failed else isolateDie s2 (dieCode kind i)

/-- Step 8, when the part record asks for it. -/
def bootBist (s : State) : State :=
  if !s.cfg.bootBist then s else
  let units := (List.range 4).flatMap (fun k => (List.range (kindCount s.cfg.variant k)).map (fun i => (k, i)))
  units.foldl (fun s x => bootTest s x.1 x.2) (s.updTrust (fun t => { t with bistPassed := true }))

/-- Step 9: what the configuration record asks of a variant that does not carry it is logged, and a paired package fetches its
tally (R355, R428, R430). -/
def bootNetwork (s : State) (cold : Bool) : State :=
  let full := s.cfg.variant.full
  let s1 := s.updTime (fun t => { t with tideIn := s.cfg.tideIn })
  let s2 := if !full ∧ s.cfg.macsecPorts ≠ 0 then s1.note evConfigMacsec 0xFF 0 0 0 else s1
  let s3 := if !full ∧ s.cfg.paired then s2.note evConfigPaired 0xFF 0 0 0 else s2
  let pair := full && s.cfg.paired
  let s4 := s3.updTally (fun t => { t with paired := if cold then pair else t.paired, restoring := cold && pair })
  if cold && pair then
    (s4.updTally (fun t => { t with streamNo := t.streamNo + 1 })).emit
      (.mirror s.cfg.partner 2 (s4.tally.streamNo + 1) (mirrorBody 2 0 (s4.tally.streamNo + 1) 0 []))
  else s4

/-- Step 10: the host boot image is loaded and the cores are released at its entry; without a good one they stay in reset. -/
def bootHost (s : State) : State :=
  match runImage s 3 7 with
  | none => s
  | some s1 =>
    let im := (tget none s1.trust.running 3).getD {}
    let s2 := if pagesAll s1 im.entry (max 1 im.body.length) Place.normal then physWrite s1 im.entry im.body else s1
    (List.range s.cfg.variant.coreDies).foldl (fun s d =>
      if s.isLost (dieOfCore d) then s else startCores s d) s2

/-- The counters rise when the package reaches READY (R465). -/
def raiseCounters (s : State) : State :=
  let v (t : Nat) : Nat := ((tget none s.trust.running t).map Image.secVersion).getD 0
  s.updTrust (fun t => { t with
    ctrCrust := max t.ctrCrust (v 1), ctrLiquor := max t.ctrLiquor (v 2), ctrSite := max t.ctrSite (max (v 3) (v 0x13)) })

/-- The table voltage of a clock (R441). -/
def vf (s : State) (u : ClockUnit) (clock : Nat) : Nat :=
  match u with
  | .pan p => tget 176 s.cfg.vfPan (p * 256 + clock)
  | .core d => tget 200 s.cfg.vfCore (d * 256 + clock)

/-- Every clocked unit starts at its lowest clock with that clock's table voltage (entry 41). -/
def bootClocks (s : State) : State :=
  let one (u : ClockUnit) : Clocked := { clock := 32, target := 32, volts := vf s u 32 }
  s.updPower (fun w => { w with
    pans := (List.range s.cfg.variant.pans).foldl (fun t p => tput {} t p (one (.pan p))) []
    cores := (List.range s.cfg.variant.coreDies).foldl (fun t d => tput {} t d (one (.core d))) [] })

/-- Steps 6 to 11, once the liquor runs. -/
def bootRest (s : State) (cold : Bool) : State :=
  let s1 := (railUnits s).foldl isolateDie (bootClocks s)
  let s2 := (fun s => if cold then bootColumns s else s) (bootMemory s1 cold)
  let s3 := (List.range s.cfg.variant.pans).foldl (if cold then resetBedsOf else panReset) s2
  let s4 := (List.range s.cfg.variant.coreDies).foldl (fun s d => (spareDie s d).updCoreDie d (fun x => { x with limit := 0 }))
    (bootBist (atStep s3 8))
  let s5 := bootHost (atStep (bootNetwork s4 cold) 9)
  let s6 := raiseCounters (setPkg (atStep s5 11) .ready)
  if cold then s6 else setReplay s6 4

/-- The boot from CRUST: READY, or FAULT where it fails (R467, R469). Its time is free, at most 40 s. -/
def boot (s : State) (cold : Bool) : State :=
  let s0 := setPkg (atStep (bootPins s) 1) .crust
  let s1 := if cold then s0.updTrust (fun t => { t with boots := t.boots + 1 }) else s0
  let r := bootLiquor s1
  let s2 := if r.2 then bootRest r.1 cold else bootFail r.1
  { s2 with now := s2.now + s.draw 2710 % 40000000001 }.drawn

/-! ### Power-up and power-down (R436, R439, R440, R453, R454, R505) -/

/-- The sequence of R439; with PKG_RESET_N held low at step 9 the control dies wait in reset. -/
def powerOn (s : State) (resetN : Bool) : State :=
  let s1 := s.updBoard (fun b => { b with
    seq := .on, rails := true, resetN := resetN, rail := 0, railCause := 0, die0 := false, die1 := false, bootFail := false,
    powerWait := none })
  if resetN then boot s1 true else setPkg s1 .crust

/-- The sequencer's samples. -/
def sample (s : State) (mv : Nat) (coolant resetN : Bool) : State :=
  s.updBoard (fun b => { b with hkOn := true, pwrEn := true, coolantOk := coolant, mv := mv % 65536, resetN := resetN })

/-- Step 1 of R439, which waits for a flash operation to end (R509). -/
def tryPowerOn (s : State) (mv : Nat) (coolant resetN : Bool) : State :=
  let s1 := sample s mv coolant resetN
  if mv < 50000 ∨ !coolant then s1
  else if s.board.flashOp.isSome then s1.updBoard (fun b => { b with powerWait := some (mv, coolant, resetN) })
  else powerOn s1 resetN

/-- POWER_UP: PWR_EN rises, at least 10 ms after it fell (R440, R506). -/
def execPowerUp (mv : Nat) (coolant resetN : Bool) (s : State) : Host.Outcome State Fault Refusal :=
  if s.board.rails ∨ s.board.pwrEn ∨ s.board.seq ≠ .off ∨ mv < 40000 then go s
  else go (tryPowerOn (s.reach (s.board.fellAt + 10000000)) mv coolant resetN)

/-- The number HK.RAIL_FAIL gives a rail (R508). -/
def railNumber (r : Rail) : Nat :=
  match r with
  | .vctl => 1
  | .vstk => 2
  | .vio => 3
  | .vdram => 4
  | .vlp1 => 5
  | .vlp05 => 6
  | .vddql => 7
  | .vcore d => 8 + d
  | .vpan p => 16 + p
  | .bus12 => 36

/-- The rail is fitted (R438). -/
def railFitted (s : State) (r : Rail) : Bool :=
  match r with
  | .vcore d => decide (d < s.cfg.variant.coreDies)
  | .vpan p => decide (p < s.cfg.variant.pans)
  | _ => true

/-- The module stops on a rail and keeps it in HK.RAIL_FAIL until PWR_EN goes low. -/
def railFault (s : State) (r : Rail) (cause : Nat) : State :=
  (railsGone s .railFault).updBoard (fun b => { b with rail := railNumber r, railCause := cause })

/-- RAIL_POWER_GOOD_TIMEOUT: a power-up fails at a rail (entry 42). -/
def execRailPowerGoodTimeout (r : Rail) (s : State) : Host.Outcome State Fault Refusal :=
  if s.board.rails ∨ s.board.seq ≠ .off ∨ !railFitted s r then go s
  else go ((railFault s r 1).updBoard (fun b => { b with hkOn := true, pwrEn := true, coolantOk := true, powerWait := none }))

/-- POWER_DOWN: PWR_EN low for 100 µs; it also ends a rail fault or a thermal trip (R453, R506, R508). -/
def execPowerDown (s : State) : Host.Outcome State Fault Refusal :=
  if !s.board.pwrEn then go s
  else
    let s1 := if s.board.rails then { railsGone s .off with now := s.now + 1000000 } else s
    go (s1.updBoard (fun b => { b with
      pwrEn := false, seq := .off, trip := false, rail := 0, railCause := 0, powerWait := none, fellAt := s.now }))

/-- THERMTRIP: every rail goes within 1 ms (R453). -/
def execThermtrip (s : State) : Host.Outcome State Fault Refusal :=
  if s.board.rails then go ((railsGone s .thermtrip).updBoard (fun b => { b with trip := true })) else go s

/-- COOLANT_LOSS: every clock stops and the rails are removed; at power-up it prevents step 1 (R454). -/
def execCoolantLoss (s : State) : Host.Outcome State Fault Refusal :=
  let s1 := if s.board.rails then railsGone s .off else s
  go (s1.updBoard (fun b => { b with coolantOk := false, powerWait := none }))

/-- INPUT_OVERVOLTAGE: as loss of input (R434). -/
def execInputOvervoltage (mv : Nat) (s : State) : Host.Outcome State Fault Refusal :=
  if mv ≤ 63000 then go s
  else
    let s1 := s.updBoard (fun b => { b with mv := if b.hkOn then mv % 65536 else b.mv })
    go (if s.board.rails then railsGone s1 .off else s1)

/-- MODULE_RESET: the input below 43.0 V removes every rail (R436). -/
def execModuleReset (mv : Nat) (s : State) : Host.Outcome State Fault Refusal :=
  if 43000 ≤ mv then go s
  else
    let s1 := s.updBoard (fun b => { b with mv := if b.hkOn then mv else b.mv })
    go (if s.board.rails then railsGone s1 .off else s1)

/-- INPUT_RESTORED: with PWR_EN still high and COOLANT_OK high the module boots cold (R436). -/
def execInputRestored (mv : Nat) (s : State) : Host.Outcome State Fault Refusal :=
  if mv < 50000 ∨ s.board.rails then go s
  else if s.board.pwrEn ∧ s.board.coolantOk ∧ s.board.seq = .off then go (tryPowerOn s mv true s.board.resetN)
  else go (s.updBoard (fun b => { b with mv := if b.hkOn then mv % 65536 else b.mv }))

/-! ### Warm reset (R468, R519) -/

/-- Migrations that a warm reset cuts short leave their agents in their starting state, with no hand-back (R201, R519). -/
def undoMoves (s : State) : State :=
  (List.range s.cfg.variant.pans).foldl (fun s p => (s.mover p).foldl (fun s m => if m.started then undoMove s p m else s) s) s

/-- WARM_RESET: PKG_RESET_N low for 10 µs or more with the rails up, and its release. -/
def execWarmReset (s : State) : Host.Outcome State Fault Refusal :=
  if !s.board.rails ∨ !s.board.resetN then go s else go (boot (warmed (undoMoves s)) false)

/-- PKG_RESET_RELEASE: PKG_RESET_N rises after it held the control dies in reset at step 9 of R439. -/
def execPkgResetRelease (s : State) : Host.Outcome State Fault Refusal :=
  if s.board.resetN then go s
  else
    let s1 := s.updBoard (fun b => { b with resetN := true, taps := [], extest := false })
    go (if s.board.rails then boot s1 true else s1)

/-- The TAPs of the chain: two control dies, the I/O dies and the core dies (R514). -/
def tapCount (v : Variant) : Nat := 2 + v.ioDies + v.coreDies

/-- JTAG_TAP_INSTRUCTION: the TAPs respond only with the rails up and PKG_RESET_N low. -/
def execJtagTapInstruction (tap : Nat) (i : TapInstr) (s : State) : Host.Outcome State Fault Refusal :=
  if !s.board.rails ∨ s.board.resetN ∨ tapCount s.cfg.variant ≤ tap then go s
  else go (s.updBoard (fun b => { b with taps := tput .bypass b.taps tap i, extest := b.extest || decide (i = .extest) }))

/-! ### Housekeeping (R505, R507 to R509) -/

/-- HOUSEKEEPING_SUPPLY_ON: the input reaches 40 V and the controller starts with its registers at reset. -/
def execHousekeepingSupplyOn (mv : Nat) (s : State) : Host.Outcome State Fault Refusal :=
  if mv < 40000 ∨ s.board.hkOn then go s
  else go (s.updBoard (fun b => { b with hkOn := true, mv := mv % 65536 }))

/-- HOUSEKEEPING_SUPPLY_OFF: below 40 V the controller, its bus and a flash operation stop; the rails went at 43 V. -/
def execHousekeepingSupplyOff (mv : Nat) (s : State) : Host.Outcome State Fault Refusal :=
  if 40000 ≤ mv ∨ !s.board.hkOn then go s
  else
    let s1 := if s.board.rails then railsGone s .off else s
    let b := s1.board
    let b1 : Module := { flash := b.flash, resetN := b.resetN, pwrEn := b.pwrEn, coolantOk := b.coolantOk, fellAt := b.fellAt }
    go { s1 with board := b1 }

/-- First byte and length of a flash operation (R508). -/
def flashRange (op addr : Nat) : Nat × Nat := if op = 3 then (addr / 65536 * 65536, 65536) else (addr / 256 * 256, 256)

/-- The controller refuses: outside OFF, RAIL_FAULT and THERMTRIP, while busy, or on a protected range (R509). -/
def flashRefuses (s : State) (op : Nat) : Bool :=
  let b := s.board
  let r := flashRange op b.flashAddr
  !(decide (b.seq = .off) || decide (b.seq = .railFault) || decide (b.seq = .thermtrip)) || b.flashOp.isSome
    || (decide (op ≠ 1) && s.cfg.protectedFlash.any (fun x => meets r.1 r.2 x.1 x.2))

/-- A write of an operation to HK.FLASH_CMD. -/
def flashCmd (s : State) (op : Nat) : State :=
  if !s.board.hkOn then s
  else if flashRefuses s op then s.updBoard (fun b => { b with flashRefused := true })
  else s.updBoard (fun b => { b with flashOp := some (op, b.flashAddr) })

def execFlashRead (s : State) : Host.Outcome State Fault Refusal := go (flashCmd s 1)
def execFlashProgram (s : State) : Host.Outcome State Fault Refusal := go (flashCmd s 2)
def execFlashErase (s : State) : Host.Outcome State Fault Refusal := go (flashCmd s 3)

/-- What the operation leaves: the buffer read, 256 bytes programmed, or 64 KiB erased. After a failure the range or the buffer
holds the bytes the command names, of which the manual says nothing (entry 43). -/
def flashEffect (b : Module) (op addr : Nat) (failed : Bool) (bytes : List Byte) : Module :=
  let r := flashRange op addr
  if op = 1 then
    { b with flashData := tputs 0 b.flashData 0 (if failed then padTo 256 bytes else tgets 0xFF b.flash r.1 256) }
  else if failed then { b with flash := tputs 0xFF b.flash r.1 (bytes.take r.2) }
  else if op = 2 then { b with flash := tputs 0xFF b.flash r.1 (tgets 0 b.flashData 0 256) }
  else { b with flash := b.flash.filter (fun e => !(decide (r.1 ≤ e.1) && decide (e.1 < r.1 + r.2))) }

/-- FLASH_OPERATION_END: busy clears, and a power-up that waited for it goes on. -/
def execFlashOperationEnd (failed : Bool) (bytes : List Byte) (s : State) : Host.Outcome State Fault Refusal :=
  match s.board.flashOp with
  | none => go s
  | some (op, addr) =>
    let s1 := s.updBoard (fun b =>
      { flashEffect b op addr failed bytes with flashOp := none, flashError := b.flashError || failed })
    match s.board.powerWait with
    | some (mv, coolant, resetN) => go (tryPowerOn s1 mv coolant resetN)
    | none => go s1

/-- SETDASA and ENTDAA: the controller takes a dynamic address while it has none (R507). -/
def giveAddr (s : State) (a : BitVec 7) : State :=
  if s.board.hkOn ∧ s.board.dynAddr = none then s.updBoard (fun b => { b with dynAddr := some a }) else s

def execSetdasa (addr : BitVec 7) (s : State) : Host.Outcome State Fault Refusal := go (giveAddr s addr)
def execEntdaa (addr : BitVec 7) (s : State) : Host.Outcome State Fault Refusal := go (giveAddr s addr)

end Sys2Proof.Machine
end

