-- ==== Sys2Proof/Machine/Power.lean ====
section
/-!
DEFINITION. The power controller (R443 to R446), the step sequencers (R441, R442), droops (R447, R448), heat (R450 to R452), the
input supply (R434, R435), and the spares of the power path (R437, R438, R477). -/

namespace Sys2Proof.Machine

/-! ### Clocked units -/

def clocked (s : State) (u : ClockUnit) : Clocked :=
  match u with
  | .pan p => tget {} s.power.pans p
  | .core d => tget {} s.power.cores d

def updClocked (s : State) (u : ClockUnit) (f : Clocked → Clocked) : State :=
  match u with
  | .pan p => s.updPower (fun w => { w with pans := tput {} w.pans p (f (tget {} w.pans p)) })
  | .core d => s.updPower (fun w => { w with cores := tput {} w.cores d (f (tget {} w.cores d)) })

/-- The unit is powered: carried by the variant, in service, and its rail up. -/
def unitUp (s : State) (u : ClockUnit) : Bool :=
  s.board.rails && decide (7 ≤ s.pkg.bootStep) &&
    (match u with
      | .pan p => s.hasPan p && !s.isLost (dieOfPan p)
      | .core d => decide (d < s.cfg.variant.coreDies) && !s.isLost (dieOfCore d))

def unitDie (u : ClockUnit) : Nat :=
  match u with
  | .pan p => dieOfPan p
  | .core d => dieOfCore d

/-- Floor clock, lowest and highest clocks, in 25 MHz units (R441, R446). -/
def floorClock : Nat := 64
def lowClock : Nat := 32
def highClock (u : ClockUnit) : Nat :=
  match u with
  | .pan _ => 84
  | .core _ => 136

/-- The unit's clock runs: not in STOP by junction or, for a pan, by its brine. -/
def clockRuns (s : State) (u : ClockUnit) : Bool :=
  decide ((clocked s u).thermal ≠ .stop) &&
    (match u with
      | .pan p => (s.pan p).stopFrom.isNone
      | .core _ => true)

/-! ### The cap (R443, R455) -/

/-- A write to PWR.CAP: in range it sets the cap, and CAP_RAISED is logged when the effective cap comes to exceed it (R52). -/
def writeCap (s : State) (watts : Nat) : State :=
  if watts < 2400 ∨ 4200 < watts then s.updPower (fun w => { w with refused := true })
  else
    let s1 := s.updPower (fun w => { w with cap := watts })
    if effectiveCap s1 ≤ watts then s1.updPower (fun w => { w with raised := false })
    else if s.power.raised then s1
    else (s1.updPower (fun w => { w with raised := true })).note evCapRaised 0xFF 0 0 0

/-- PWR registers are reached from step 5 of R467 on, and not during DRAINING (R512). -/
def pwrReachable (s : State) : Bool :=
  decide (s.pkg.st ≠ .off) && decide (5 ≤ s.pkg.bootStep) && decide (s.pkg.st ≠ .draining)

def execPwrCapWrite (watts : Nat) (s : State) : Host.Outcome State Fault Refusal :=
  if pwrReachable s then go (writeCap s watts) else go s

/-! ### The controller's run (R443 to R446) -/

def envelopeWatts : Nat := 4200

/-- A bound pan stands at the floor and a core die at its lowest clock: nothing is left to lower above the floor. -/
def bottomed (s : State) : Bool :=
  (List.range s.cfg.variant.pans).all (fun p => !boundPan s p || decide ((clocked s (.pan p)).clock ≤ floorClock))
    && (List.range s.cfg.variant.coreDies).all (fun d => decide ((clocked s (.core d)).clock ≤ lowClock))

/-- What heat allows a target: in THROTTLE and EMERGENCY it falls by 100 MHz at each run while the temperature is 95 °C or above,
and does not rise (R450). -/
def heatTarget (c : Clocked) (low want : Nat) : Nat :=
  match c.thermal with
  | .normal => want
  | .stop => c.target
  | .throttle => min want (if 95 ≤ c.temp then max low (c.target - 4) else c.target)
  | .emergency => min want (if 95 ≤ c.temp then max lowClock (c.target - 4) else c.target)

/-- Some clock of a unit's range, which the manual leaves to the controller (R445, entry 44). -/
def someClock (s : State) (i low high : Nat) : Nat := low + s.draw i % (high + 1 - low)

/-- A pan's new target. unmet: the effective cap cannot be met. env: the envelope case of R446. -/
def panTarget (s : State) (p : Nat) (unmet env : Bool) : Nat :=
  let c := clocked s (.pan p)
  let bound := boundPan s p
  let low := if bound then floorClock else lowClock
  let want :=
    if env then max lowClock (c.target - 1)
    else if s.board.warn then (if (s.runningPlan.map (fun pl => pl.binding.contains p)).getD false then floorClock else lowClock)
    else if !bound then lowClock
    else if unmet then floorClock
    else someClock s (8000 + p) floorClock 84
  heatTarget c low want

def coreTarget (s : State) (d : Nat) (unmet env : Bool) : Nat :=
  heatTarget (clocked s (.core d)) lowClock
    (if unmet || env then lowClock else if s.board.warn then 48 else someClock s (8100 + d) lowClock 136)

/-- A unit takes a target; a bound pan whose target comes to lie below the floor is logged (R446). -/
def setTarget (s : State) (u : ClockUnit) (t : Nat) : State :=
  let was := (clocked s u).target
  let s1 := updClocked s u (fun c => { c with target := t })
  match u with
  | .pan p => if t < floorClock ∧ floorClock ≤ was then floorBreach s1 p else s1
  | .core _ => s1

/-- New targets of every unit. -/
def setTargets (s : State) (unmet env : Bool) : State :=
  let s1 := (List.range s.cfg.variant.pans).foldl (fun r p =>
    if unitUp s (.pan p) then setTarget r (.pan p) (panTarget s p unmet env) else r) s
  (List.range s.cfg.variant.coreDies).foldl (fun r d =>
    if unitUp s (.core d) then setTarget r (.core d) (coreTarget s d unmet env) else r) s1

/-- A sum of powers as a 16-bit field shows it. -/
def wattField (n : Nat) : Nat := min n 65535

/-- The telemetry of a run as the PWR registers show it (R444, R455). -/
def takeTelemetry (s : State) (t : Telemetry) : State :=
  let rails := t.pans ++ t.cores ++ [t.other]
  s.updPower (fun w => { w with
    governing := wattField t.avg10ms
    measured := wattField (rails.foldl (fun n r => n + r.measured) 0)
    estimate := wattField (rails.foldl (fun n r => n + r.estimate) 0)
    watts := wattField t.input.measured
    mv := wattField t.inputMv
    minMv := min w.minMv (wattField t.inputMv) })

/-- POWER_CONTROLLER_RUN: the averages of the governing power are held against the envelope and the effective cap, and every
unit has a new target (R443, R445, R446). -/
def execPowerControllerRun (t : Telemetry) (s : State) : Host.Outcome State Fault Refusal :=
  if !s.board.rails ∨ !liquorUp s then go s else
  let s1 := takeTelemetry s t
  let low := bottomed s
  let overEnv := decide (envelopeWatts < t.avg1ms)
  let overCap := decide (effectiveCap s < t.avg10ms)
  let env := overEnv && low
  let unmet := overCap && low
  let s2 := if env && !s.power.envelope then s1.note evEnvelope 0xFF 0 0 0 else s1
  let s3 := if unmet && !s.power.overCap then s2.note evCapExceeded 0xFF 0 0 0 else s2
  let s4 := s3.updPower (fun w => { w with
    envelope := env || (w.envelope && overEnv), overCap := unmet || (w.overCap && overCap) })
  go (setTargets s4 unmet env).drawn

/-! ### Sensors (R444) -/

def sensorHere (s : State) (x : Sensor) : Bool :=
  s.board.rails &&
    (match x with
      | .pan p => s.hasPan p
      | .core d => decide (d < s.cfg.variant.coreDies)
      | .input => true
      | .other => true)

def sensorFailed (s : State) (x : Sensor) : Bool :=
  match x with
  | .pan p => s.power.failPans.getLsbD p
  | .core d => s.power.failCores.getLsbD d
  | .input => s.power.failInput
  | .other => s.power.failOther

def setSensor (s : State) (x : Sensor) (v : Bool) : State :=
  match x with
  | .pan p => s.updPower (fun w => { w with failPans := if v then w.failPans ||| (1#20 <<< p) else w.failPans &&& ~~~(1#20 <<< p) })
  | .core d => s.updPower (fun w => { w with failCores := if v then w.failCores ||| (1#8 <<< d) else w.failCores &&& ~~~(1#8 <<< d) })
  | .input => s.updPower (fun w => { w with failInput := v })
  | .other => s.updPower (fun w => { w with failOther := v })

def sensorDie (x : Sensor) : Nat :=
  match x with
  | .pan p => dieOfPan p
  | .core d => dieOfCore d
  | .input => dieModule
  | .other => dieModule

def execSensorFail (x : Sensor) (s : State) : Host.Outcome State Fault Refusal :=
  if sensorHere s x && !sensorFailed s x then go ((setSensor s x true).note evSensorFail (sensorDie x) 0 0 0) else go s

def execSensorRecover (x : Sensor) (s : State) : Host.Outcome State Fault Refusal :=
  if sensorHere s x && sensorFailed s x then go (setSensor s x false) else go s

/-! ### The step sequencer (R442, R448) -/

/-- The sequencer of a unit may make a step. -/
def stepsAllowed (s : State) (u : ClockUnit) : Bool := unitUp s u && clockRuns s u && !(clocked s u).paused

/-- FREQUENCY_STEP: 25 MHz toward the target; upward only where the rail supports the new clock, and not under a supply warning
(R435). -/
def execFrequencyStep (u : ClockUnit) (s : State) : Host.Outcome State Fault Refusal :=
  let c := clocked s u
  if !stepsAllowed s u then go s
  else if c.clock < c.target then
    if s.board.warn ∨ c.volts < vf s u (c.clock + 1) then go s
    else go (updClocked s u (fun c => { c with clock := c.clock + 1 }))
  else if c.target < c.clock then go (updClocked s u (fun c => { c with clock := c.clock - 1 }))
  else go s

/-- VOLTAGE_STEP: 5 mV; up toward the target's table voltage, down no lower than the present clock's. -/
def execVoltageStep (u : ClockUnit) (s : State) : Host.Outcome State Fault Refusal :=
  let c := clocked s u
  if !stepsAllowed s u then go s
  else if c.clock < c.target then
    if c.volts < vf s u c.target then go (updClocked s u (fun c => { c with volts := c.volts + 1 })) else go s
  else if vf s u c.clock < c.volts then go (updClocked s u (fun c => { c with volts := c.volts - 1 }))
  else go s

/-! ### Droop (R447, R448) -/

/-- DROOP_TRIP: the clock is stretched, the stretch is counted, and the sequencer pauses. -/
def execDroopTrip (u : ClockUnit) (s : State) : Host.Outcome State Fault Refusal :=
  if !unitUp s u then go s
  else go (updClocked s u (fun c => { c with
    droop := true, paused := true, droops := if c.droop then c.droops else satAdd 32 c.droops 1 }))

def execDroopClear (u : ClockUnit) (s : State) : Host.Outcome State Fault Refusal :=
  if (clocked s u).droop then go (updClocked s u (fun c => { c with droop := false })) else go s

def execSequencerResume (u : ClockUnit) (s : State) : Host.Outcome State Fault Refusal :=
  if (clocked s u).paused ∧ !(clocked s u).droop then go (updClocked s u (fun c => { c with paused := false })) else go s

/-! ### Heat (R450 to R452) -/

def Thermal.code (t : Thermal) : Nat :=
  match t with
  | .normal => 0
  | .throttle => 1
  | .emergency => 2
  | .stop => 3

/-- The state a temperature belongs to. -/
def thermalOf (temp : Nat) : Thermal :=
  if temp < 95 then .normal else if temp < 100 then .throttle else if temp < 105 then .emergency else .stop

/-- The threshold at which a state is entered. -/
def thermalEntry (t : Thermal) : Nat :=
  match t with
  | .normal => 0
  | .throttle => 95
  | .emergency => 100
  | .stop => 105

/-- A unit changes its thermal state, which is logged; a pan's clock stops or restarts with it. One that leaves STOP runs at
0.80 GHz. -/
def setThermal (s : State) (u : ClockUnit) (t : Thermal) : State :=
  let left := decide ((clocked s u).thermal = .stop)
  let s1 := updClocked s u (fun c => { c with
    thermal := t, fallFrom := none, clock := if left then lowClock else c.clock, target := if left then lowClock else c.target })
  let s2 := s1.note evThermal (unitDie u) 0 0 0
  match u with
  | .pan p => restop (if t = .stop then floorBreach s2 p else s2) p
  | .core _ => s2

/-- JUNCTION_SENSOR_READ: a rise takes effect at once; a fall waits for its 10 ms. -/
def execJunctionSensorRead (u : ClockUnit) (temp : Nat) (s : State) : Host.Outcome State Fault Refusal :=
  if !unitUp s u then go s else
  let s1 := updClocked s u (fun c => { c with temp := temp % 256 })
  let c := clocked s1 u
  if c.thermal.code < (thermalOf temp).code then go (setThermal s1 u (thermalOf temp))
  else
    let low := decide (c.thermal ≠ .normal) && decide (temp + 2 ≤ thermalEntry c.thermal)
    go (updClocked s1 u (fun c => { c with
      fallFrom := if low then (if c.fallFrom.isSome then c.fallFrom else some s.now) else none }))

/-- THERMAL_FALL: every reading for 10 ms has lain at least 2 °C below the present threshold. -/
def execThermalFall (u : ClockUnit) (s : State) : Host.Outcome State Fault Refusal :=
  let c := clocked s u
  match c.fallFrom with
  | none => go s
  | some t =>
    if !unitUp s u then go s else
    go (setThermal (s.reach (t + 10000000)) u (if c.thermal = .stop then .emergency else thermalOf c.temp))

/-! ### The input supply (R434, R435) -/

/-- SUPPLY_WARN: the tally is held, a switch before its cut-over is abandoned (R476), and clocks go down. -/
def execSupplyWarn (mv : Nat) (s : State) : Host.Outcome State Fault Refusal :=
  if 47000 ≤ mv ∨ !s.board.rails ∨ s.board.warn then go s
  else
    let s1 := (s.updBoard (fun b => { b with warn := true, mv := mv })).updPower (fun w => { w with warnAt := s.now })
    let s2 := (s1.updTally (fun t => { t with supply := true })).note evSupplyWarn dieModule 0 0 0
    go (setTargets (abandonSwitch s2 stBusyRetry) false false)

/-- SUPPLY_WARN_RELEASE: 48.0 V or more for 1 ms; rounds resume. -/
def execSupplyWarnRelease (mv : Nat) (s : State) : Host.Outcome State Fault Refusal :=
  if mv < 48000 ∨ !s.board.warn then go s
  else go ((s.updBoard (fun b => { b with warn := false, mv := mv % 65536 })).updTally (fun t => { t with supply := false }))

/-! ### Spares of the power path (R437, R438, R477) -/

/-- CONVERTER_LOST: the first is a spare in use; a second stops the module on its 12 V bus (R436, R437, R508). -/
def execConverterLost (k : Nat) (s : State) : Host.Outcome State Fault Refusal :=
  if !s.board.rails ∨ 4 ≤ k then go s
  else if s.power.converters = 4 then
    go (repairEntry ((s.updPower (fun w => { w with converters := 3 })).note evConverterLost dieModule 9 k 4)
      (leBytes 1 10 ++ leBytes 1 k))
  else go (railFault s .bus12 3)

/-- The die whose unit a rail feeds, or the module. -/
def railDie (r : Rail) : Nat :=
  match r with
  | .vcore d => dieOfCore d
  | .vpan p => dieOfPan p
  | _ => dieModule

/-- PHASE_RETIRED: two phases of a rail are spare. Once they are used, a VPAN or VCORE rail is switched off and its die is lost;
any other rail stops the module (R477, R480). -/
def execPhaseRetired (r : Rail) (s : State) : Host.Outcome State Fault Refusal :=
  let n := railNumber r
  if !s.board.rails ∨ !railFitted s r ∨ n = 36 ∨ s.power.railsOff.contains n then go s
  else
    let used := tget 0 s.power.phases n + 1
    let s1 := (s.updPower (fun w => { w with phases := tput 0 w.phases n used })).note evPhaseRetired (railDie r) 8 n 4
    let s2 := repairEntry s1 (leBytes 1 7 ++ leBytes 1 n)
    if used ≤ 2 then go s2
    else if railDie r = dieModule then go (railFault s2 r 2)
    else go (declareCause (s2.updPower (fun w => { w with railsOff := w.railsOff ++ [n] })) 6 0xFF (railDie r))

end Sys2Proof.Machine
end

