-- ==== Sys2Proof/Machine/Registers.lean ====
section
/-!
DEFINITION. The register blocks: what each register reads (R9, R11), what a read clears, what a write sets, and the commands
that read and write them. A block of a pan, a core die, an I/O die or the stockpile is reached while its unit is powered and
not lost; the housekeeping block over I3C while its supply runs; the PWR block over the management link alone (R455). -/

namespace Sys2Proof.Machine

/-! ### Forms -/

/-- A register from its fields: the lowest bit of each and its value. -/
def packF (fs : List (Nat × Nat)) : Dword := BitVec.ofNat 64 (fs.foldl (fun n f => n + f.2 * 2 ^ f.1) 0)

/-- The register at an offset of a block; every other offset reads zero (R309). -/
def regAt (off : Nat) (rs : List (Nat × Dword)) : Dword := ((rs.find? (fun r => r.1 = off)).map Prod.snd).getD 0

/-- A field of a written value. -/
def wfld (v : Dword) (lo len : Nat) : Nat := fld v.toNat lo len

/-- A mask of the numbers below n that satisfy a test. -/
def maskN (n : Nat) (p : Nat → Bool) : Nat := (List.range n).foldl (fun m i => m + boolN (p i) * 2 ^ i) 0

/-- The state a meaning leaves. -/
def after (s : State) (o : Host.Outcome State Fault Refusal) : State :=
  match o with
  | .next t => t
  | _ => s

/-! ### Pan blocks (R68, R143, R169, R204, R205, R329, R350) -/

/-- BED.STATUS.run: ABORTING while work that an aborted block started completes (R136, R143). -/
def bedRun (s : State) (p b : Nat) : Nat :=
  if (s.bed p b).blocks.any (fun x => x.aborted && blockBusy s p b x) then 2 else (s.bed p b).run

def bedValue (s : State) (p b off : Nat) : Dword :=
  let d := s.bed p b
  regAt off [
    (0x000, packF [(0, bedRun s p b), (2, d.blocks.foldl (fun n x => n + x.slots.length) 0), (8, d.kernel % 65536), (24, boolN d.failed)]),
    (0x008, packF [(0, d.fCode), (8, d.fRake % 64), (16, d.fKernel % 65536), (32, d.fBlock % 65536), (63, boolN d.fValid)]),
    (0x010, d.fPc),
    (0x018, packF [(0, d.fActive.toNat), (32, d.fPart.toNat)]),
    (0x020, d.fAddr),
    (0x028, packF [(0, d.fLost)])]

/-- Reading BED.FAULT_INFO clears its fields and releases the other fault registers; BED.FAULT_LOST clears alone. -/
def Bed.readClear (d : Bed) (off : Nat) : Bed :=
  if off = 0x008 then { d with fCode := 0, fRake := 0, fKernel := 0, fBlock := 0, fValid := false }
  else if off = 0x028 then { d with fLost := 0 }
  else d

/-- A pan that is not ONLINE shows run IDLE and keeps its other fields (R68). -/
def tideShared (s : State) (p i : Nat) : Dword :=
  if (s.pan p).state = .online then (tideRegs s p).getD i 0
  else
    let v := ((s.pan p).tideKept.getD []).getD i 0
    if i = 0 then v &&& 0xFFFFFFFFFFFFFFCF else v

def tideValue (s : State) (p off : Nat) : Dword :=
  if off < 0x048 ∧ off % 8 = 0 then tideShared s p (off / 8)
  else regAt off [(0x048, packF [(0, (s.pan p).lateBeds.toNat)]), (0x050, packF [(0, (s.pan p).margin)])]

def grainValue (x : Pan) (off : Nat) : Dword :=
  regAt off [(0x000, x.freeSeed), (0x010, packF [(0, boolN x.grainRefused), (1, boolN x.grainBusy)]), (0x018, packF [(0, x.grainKeys)])]

/-- Agents a pan owns in some of the states of R172. -/
def ownedIn (s : State) (p : Nat) (sts : List Nat) : List Nat :=
  s.agentIds.filter (fun a => (s.agentDir a).ownedBy p && sts.contains (s.agentDir a).st)

/-- KV.MOVE: what is left of the move in progress is timing, a free value no greater than the image (entry 12). -/
def kvMove (s : State) (p : Nat) : Dword :=
  match (s.mover p).head? with
  | none => 0
  | some m =>
    if m.started then
      packF [(0, m.agent), (18, if m.spill then 2 else 1),
        (32, s.draw 3200 % (imageBytes s (s.agentDir m.agent).header / kib64 + 1))]
    else 0

/-- KV instructions in the pan's queues. -/
def kvWork (s : State) (p : Nat) : Nat := beds16.foldl (fun n b => n + ((s.bed p b).dq.filter (fun w => w.op.isKv)).length) 0

/-- KV.STATUS: whether the engine has begun the instruction whose turn it is shows in busy, and is timing: a free value (entry 12). -/
def kvStatus (s : State) (p : Nat) : Dword :=
  let n := kvWork s p
  let busy := if n = 0 then 0 else s.draw 3201 % 2
  packF [(0, busy), (1, n - busy)]

def kvValue (s : State) (p off : Nat) : Dword :=
  let x := s.pan p
  regAt off [
    (0x000, kvStatus s p),
    (0x008, packF [(0, (ownedIn s p [aResident, aMovingIn, aMovingOut]).foldl (fun n a => n + (usedWords s (s.agentDir a).header).length) 0)]),
    (0x010, packF [(0, (ownedIn s p [aResident]).length), (32, (ownedIn s p [aMovingIn, aMovingOut]).length)]),
    (0x018, packF [(0, x.kvDone), (32, x.kvRefused)]),
    (0x020, packF [(0, x.kvZero)]),
    (0x028, kvMove s p)]

def floodValue (s : State) (p off : Nat) : Dword :=
  regAt off [
    (0x000, packF [(0, maskN 16 (fun b => (s.bed p b).flood.any (fun e => !e.2.descs.isEmpty)))]),
    (0x008, packF [(0, (s.pan p).floodBytes)]),
    (0x010, packF [(0, (s.pan p).starved)])]

def brineValue (s : State) (p off : Nat) : Dword :=
  let x := s.pan p
  regAt off [
    (0x000, packF [(0, boolN x.service), (1, x.band), (3, boolN x.scrubbing), (8, x.dramTemp % 256)]),
    (0x008, packF [(0, x.ce), (32, x.retries)]),
    (0x010, packF [(0, x.ue), (32, x.poisonReads)]),
    (0x018, packF [(0, x.lastOff), (37, boolN x.lastUe)]),
    (0x020, packF [(0, x.rows % 65536), (16, x.connections % 256), (24, x.columns % 256)]),
    (0x028, packF [(0, granulesOn s.cfg.variant p), (8, x.relocated.length % 256)]),
    (0x030, packF [(0, freeBrine s p / kib64)])]

def rootValue (r : Option (Nat × Nat)) : Dword :=
  match r with
  | none => 0
  | some (root, asid) => packF [(0, 1), (12, root / 4096), (48, asid % 65536)]

def xlatValue (s : State) (p off : Nat) : Dword :=
  let x := s.pan p
  regAt off [
    (0x000, rootValue x.root0),
    (0x008, rootValue x.root1),
    (0x010, packF [(0, x.xInfo.toNat), (63, boolN x.xValid)]),
    (0x018, packF [(0, x.xVa % 2 ^ 48)]),
    (0x020, packF [(0, x.xLost)]),
    (0x028, packF [(0, x.walks), (32, x.parked)]),
    (0x030, packF [(0, x.invals), (32, boolN (beds16.any (fun b => (s.bed p b).flood.any (fun e => e.2.descs.any (fun d => !d.heldBy.isEmpty)))))]),
    (0x038, packF [(0, x.heldMax % 8192)])]

/-! ### Core-die and core registers (R228 to R230, R249, R274, R331) -/

def coreValue (c : Core) (off : Nat) : Dword :=
  regAt off [
    (0x000, packF [(0, boolN c.pfEnable), (1, boolN c.pfDescend), (2, c.pfDistance % 32)]),
    (0x008, packF [(0, c.pfUsed), (32, c.pfUnused)]),
    (0x010, packF [(0, boolN c.strEnable), (1, boolN c.engaged)]),
    (0x018, packF [(0, c.strLines)]),
    (0x020, packF [(0, c.l2Ways.toNat), (16,
      ((List.range 16).filter (fun i => c.l2Ways.getLsbD i)).length), (20, boolN c.l2Limit)]),
    (0x028, packF [(0, c.l2Ce)])]

def dcacheValue (x : CoreDie) (off : Nat) : Dword :=
  if 0x100 ≤ off ∧ off < 0x180 ∧ off % 8 = 0 then
    let i := (off - 0x100) / 8
    let w : BitVec 12 := tget 0 x.ways i
    packF [(0, w.toNat), (12, ((List.range 12).filter (fun k => w.getLsbD k)).length), (16, boolN (x.limit.getLsbD i))]
  else regAt off [(0x000, packF [(0, x.accepted), (32, x.declined)]), (0x008, packF [(0, x.ce)])]

def lpdValue (x : CoreDie) (off : Nat) : Dword :=
  regAt off [
    (0x000, packF [(0, x.channels.toNat), (8, x.lpdTemp % 256)]),
    (0x008, packF [(0, x.lpdCe), (32, x.lpdRetries)]),
    (0x010, packF [(0, x.lpdUe)]),
    (0x018, packF [(0, x.lpdOff), (38, boolN x.lpdLastUe)])]

def identValue (s : State) (n : Nat) : Dword :=
  packF [(0, 0x4757), (16, 0x09), (24, 0x3), (28, s.cfg.stepping % 16), (32, n), (40, n / 24), (43, n % 24)]

def abtInfoValue (c : Core) : Dword :=
  packF [(0, c.abtCause), (4, boolN c.abtStore), (5, boolN c.abtDeferred), (8, c.abtDiscarded), (63, boolN c.abtValid)]

/-! ### Stockpile window (R300, R330, R433, R489) -/

def cohValue (s : State) (off : Nat) : Dword :=
  let c := s.coh
  regAt off [
    (0x000, packF [(0, boolN (decide (s.pkg.st = .draining))), (8, c.step)]),
    (0x008, packF [(0, dirUnits s), (32, dirSets s)]),
    (0x010, packF [(0, c.bcast)]),
    (0x018, packF [(0, c.backinv)]),
    (0x020, packF [(0, c.stale)]),
    (0x028, packF [(0, c.drains), (32, (recentDrains s).length)]),
    (0x030, packF [(0, c.cause), (8, c.agent % 256), (16, c.die % 256)]),
    (0x038, packF [(0, c.drainUs)]),
    (0x040, packF [(0, c.drainStart)]),
    (0x048, packF [(2, c.warmEntry % 2 ^ 46)])]

/-- Units of the scratchpad partitions before the i-th, over all dies: its start in the window (R318). -/
def partBase (s : State) (i : Nat) : Nat := scratchUnits (s.stk.parts.take i) * s.stk.s0

def partValue (s : State) (i : Nat) : Dword :=
  match s.stk.parts[i]? with
  | none => 0
  | some p =>
    packF [(0, p.kind), (2, boolN p.planPool), (3, p.amask.toNat), (5, p.rmask.toNat), (16, p.units),
      (32, if p.kind = 2 then partBase s i else 0)]

def regulatorValue (s : State) (i : Nat) : Dword :=
  if s.stk.parts.length ≤ i then 0
  else
    let r := tget {} s.stk.regs i
    packF [(0, r.rate), (16, boolN r.borrow), (32, r.burst)]

def waitValue (s : State) (i : Nat) : Dword :=
  if s.stk.parts.length ≤ i then 0
  else packF [(0, (tget {} s.stk.regs i).held), (32, (tget {} s.stk.regs i).borrowed)]

/-- Index of an offset in an array of sixteen registers of a stride, from a base. -/
def arrayIx (base stride off : Nat) : Option Nat :=
  if base ≤ off ∧ off < base + 16 * stride ∧ (off - base) % stride = 0 then some ((off - base) / stride) else none

def stkValue (s : State) (off : Nat) : Dword :=
  match arrayIx 0x100 8 off, arrayIx 0x200 8 off, arrayIx 0x300 8 off with
  | some i, _, _ => partValue s i
  | _, some i, _ => regulatorValue s i
  | _, _, some i => waitValue s i
  | _, _, _ =>
    if off = 0 then
      packF [(0, stkCount s), (4, s.stk.s0), (8, s.stk.parts.length), (13, boolN s.stk.dflt), (16, s.stk.dies.toNat)]
    else 0

def ringBase (enable : Bool) (size base : Nat) : Dword := packF [(0, boolN enable), (1, size), (12, base)]

def tallyValue (s : State) (off : Nat) : Dword :=
  let t := s.tally
  match arrayIx 0x100 16 off, arrayIx 0x108 16 off with
  | some i, _ => let r := tget {} t.rings i; ringBase r.enable r.size r.base
  | _, some i => let r := tget {} t.rings i; packF [(0, r.producer.toNat), (32, r.consumer.toNat)]
  | _, _ =>
    regAt off [
      (0x000, packF [(0, if t.paired then 2 else 1), (2, boolN (roundsRun s && !tallyHeld s)), (3, boolN t.replay),
        (4, boolN t.restoring), (5, boolN (tallySingle s)), (6, boolN t.supply), (7, boolN t.pairDown),
        (16, t.epoch % 2 ^ 32)]),
      (0x008, packF [(0, t.round)]),
      (0x010, packF [(0, t.entries.length), (32, logFreeMib t)]),
      (0x018, packF [(0, t.accepted), (32, t.dups)]),
      (0x020, packF [(0, t.bad), (32, t.busyCount), (48, t.nofit)]),
      (0x028, packF [(0, t.settled % 2 ^ 32), (32, t.rewound % 2 ^ 32)]),
      (0x200, packF [(0, t.replayBase)]),
      (0x208, packF [(0, t.replayLen)]),
      (0x218, packF [(32, t.written)])]

def evtValue (e : Events) (off : Nat) : Dword :=
  regAt off [
    (0x000, ringBase e.enable e.size e.base),
    (0x008, packF [(0, e.producer.toNat), (32, e.consumer.toNat)]),
    (0x010, packF [(0, boolN e.filterCe), (1, boolN e.filterNote)]),
    (0x018, packF [(0, e.lost)]),
    (0x020, packF [(0, e.last)])]

/-! ### I/O dies and mailbox control (R379, R410) -/

def portValue (x : Port) (off : Nat) : Dword :=
  regAt off [
    (0x000, packF [(0, boolN x.link), (1, boolN x.macsec), (2, boolN x.spare), (16, x.retrains)]),
    (0x008, packF [(0, x.rx), (32, x.tx)]),
    (0x010, packF [(0, x.dropFcs), (16, x.dropCtl), (32, x.dropIcrc), (48, x.dropQp)]),
    (0x018, packF [(0, x.nakAccess), (32, x.nakRnr)]),
    (0x020, packF [(0, x.cnpRx), (32, x.cnpTx)]),
    (0x028, packF [(0, x.ctlAccepted), (32, x.ctlSent)])]

def netQpValue (x : IoDie) (off : Nat) : Dword :=
  regAt off [
    (0x000, packF [(0, x.qpCtx)]),
    (0x010, packF [(0, boolN x.busy), (16, x.status.toNat), (32, x.ignored)]),
    (0x018, packF [(0, boolN x.rel0.1), (0, x.rel0.2)]),
    (0x020, packF [(0, boolN x.rel1.1), (0, x.rel1.2)])]

def mboxCtlValue (s : State) (off : Nat) : Dword :=
  let high (f : Mailbox → Bool) : Nat := maskN 9 (fun i => f (s.box (64 + i)))
  regAt off [
    (0x000, packF [(1, boolN s.salter.switching), (2, boolN s.salter.heldPorts)]),
    (0x008, packF [(0, s.salter.ignored)]),
    (0x010, packF [(0, s.salter.stops)]),
    (0x018, packF [(0, s.salter.lastStop)]),
    (0x020, packF [(0, maskN 64 (fun m => (s.box m).owner))]),
    (0x028, packF [(0, high Mailbox.owner)]),
    (0x030, packF [(0, maskN 64 (fun m => (s.box m).held))]),
    (0x038, packF [(0, high Mailbox.held)])]

/-! ### Power (R455) and housekeeping (R508) -/

def clockedValue (c : Clocked) (bound : Bool) : Dword :=
  packF [(0, c.clock), (8, c.volts), (16, c.temp % 256), (24, c.thermal.code), (26, boolN c.droop), (27, boolN bound), (32, c.droops)]

/-- The pan is bound to a running plan or one with a start pending. -/
def servingPan (s : State) (p : Nat) : Bool :=
  [0, 1].any (fun k => (slotRuns s k || slotStarts s k) && ((s.plan k).map (fun pl => pl.binding.contains p)).getD false)

def pwrValue (s : State) (off : Nat) : Dword :=
  let w := s.power
  if 0x100 ≤ off ∧ off < 0x1A0 ∧ off % 8 = 0 then
    let p := (off - 0x100) / 8
    if p < s.cfg.variant.pans then clockedValue (tget {} w.pans p) (servingPan s p) else 0
  else if 0x200 ≤ off ∧ off < 0x240 ∧ off % 8 = 0 then
    let d := (off - 0x200) / 8
    if d < s.cfg.variant.coreDies then clockedValue (tget {} w.cores d) false else 0
  else
    regAt off [
      (0x000, packF [(0, w.cap)]),
      (0x008, packF [(0, effectiveCap s % 65536), (16, boolN (decide (w.cap < effectiveCap s))), (17, boolN s.board.warn),
        (18, boolN w.overCap), (19, boolN w.envelope), (20, boolN w.refused), (21, w.converters)]),
      (0x010, packF [(0, w.mv), (16, w.watts), (32, w.minMv)]),
      (0x018, packF [(0, w.governing), (16, w.measured), (32, w.estimate)]),
      (0x020, packF [(0, w.failPans.toNat), (20, w.failCores.toNat), (28, boolN w.failInput), (29, boolN w.failOther)]),
      (0x028, packF [(0, w.droopMv)])]

/-- What a read of a PWR register clears. min_mv starts again from its reset value. -/
def pwrClear (s : State) (off : Nat) : State :=
  if 0x100 ≤ off ∧ off < 0x1A0 ∧ off % 8 = 0 then updClocked s (.pan ((off - 0x100) / 8)) (fun c => { c with droops := 0 })
  else if 0x200 ≤ off ∧ off < 0x240 ∧ off % 8 = 0 then updClocked s (.core ((off - 0x200) / 8)) (fun c => { c with droops := 0 })
  else if off = 0x010 then s.updPower (fun w => { w with minMv := 0xFFFF })
  else s

/-- A write of a PWR register. -/
def pwrWrite (s : State) (off : Nat) (v : Dword) : State :=
  if off = 0x000 then writeCap s (wfld v 0 16)
  else if off = 0x008 then s.updPower (fun w => { w with refused := w.refused && !v.getLsbD 20 })
  else if off = 0x028 ∧ 10 ≤ wfld v 0 8 ∧ wfld v 0 8 ≤ 60 then s.updPower (fun w => { w with droopMv := wfld v 0 8 })
  else s

def Seq.code (x : Seq) : Nat :=
  match x with
  | .off => 0
  | .poweringUp => 1
  | .on => 2
  | .poweringDown => 3
  | .railFault => 4
  | .thermtrip => 5

def hkValue (s : State) (off : Nat) : Dword :=
  let b := s.board
  if 0x100 ≤ off ∧ off < 0x200 ∧ off % 4 = 0 then packF [(0, leNat (tgets 0 b.flashData (off - 0x100) 4))]
  else
    regAt off [
      (0x00, packF [(0, b.seq.code), (3, boolN b.pwrEn), (4, boolN b.coolantOk), (5, boolN b.warn), (6, boolN (!b.resetN)),
        (7, boolN b.bootFail), (8, boolN b.flashOp.isSome)]),
      (0x04, packF [(0, b.rail), (6, b.railCause)]),
      (0x08, packF [(0, s.pkg.bootStep), (4, boolN b.die0), (5, boolN b.die1)]),
      (0x0C, packF [(0, b.mv % 65536)]),
      (0x10, packF [(0, b.inlet % 256), (8, b.outlet % 256), (16, b.board % 256)]),
      (0x20, packF [(0, b.flashAddr % 2 ^ 32)]),
      (0x28, packF [(0, boolN b.flashOp.isSome), (1, boolN b.flashRefused), (2, boolN b.flashError)])]

/-- A write of a housekeeping register over I3C (R508). -/
def hkWrite (s : State) (off : Nat) (v : Dword) : State :=
  if 0x100 ≤ off ∧ off < 0x200 ∧ off % 4 = 0 then
    s.updBoard (fun b => { b with flashData := tputs 0 b.flashData (off - 0x100) (leBytes 4 (wfld v 0 32)) })
  else if off = 0x20 then s.updBoard (fun b => { b with flashAddr := wfld v 0 32 })
  else if off = 0x24 then (if wfld v 0 2 = 0 then s else flashCmd s (wfld v 0 2))
  else if off = 0x28 then
    s.updBoard (fun b => { b with
      flashRefused := b.flashRefused && !v.getLsbD 1, flashError := b.flashError && !v.getLsbD 2 })
  else s

/-! ### Reads -/

/-- The register can be reached: its unit is on this part, powered and not lost. -/
def regUp (s : State) (r : Reg) : Bool :=
  let on := decide (s.pkg.st ≠ .off)
  let pan (p : Nat) : Bool := on && s.hasPan p
  let coreDie (d : Nat) : Bool := on && decide (d < s.cfg.variant.coreDies) && !s.isLost (dieOfCore d)
  let io (i : Nat) : Bool := on && decide (i < s.cfg.variant.ioDies) && !s.isLost (dieOfIo i)
  match r with
  | .bed p b _ => pan p && decide (b < 16)
  | .tide p _ => pan p
  | .grain p _ => pan p
  | .kv p _ => pan p
  | .flood p _ => pan p
  | .brine p _ => pan p
  | .xlat p _ => pan p
  | .core d c _ => coreDie d && decide (c < 24)
  | .dcache d _ => coreDie d
  | .lpd d _ => coreDie d
  | .coh _ => on
  | .stk _ => on
  | .tally _ => on
  | .evt _ => on
  | .netPort i j _ => io i && decide (j < 4)
  | .netQp i _ => io i
  | .netDb i _ _ => io i
  | .mboxCtl _ => on
  | .sysAbtAddr n => on && s.coreServes n
  | .sysAbtInfo n => on && s.coreServes n
  | .sysMemctl n => on && s.coreServes n
  | .sysIdent n => on && s.coreServes n
  | .sysFeatures n => on && s.coreServes n
  | .pwr _ => false
  | .hk _ _ => s.board.hkOn

/-- What a read returns. -/
def regValue (s : State) (r : Reg) : Dword :=
  match r with
  | .bed p b off => bedValue s p b off
  | .tide p off => tideValue s p off
  | .grain p off => grainValue (s.pan p) off
  | .kv p off => kvValue s p off
  | .flood p off => floodValue s p off
  | .brine p off => brineValue s p off
  | .xlat p off => xlatValue s p off
  | .core d c off => coreValue (s.core (24 * d + c)) off
  | .dcache d off => dcacheValue (s.coreDie d) off
  | .lpd d off => lpdValue (s.coreDie d) off
  | .coh off => cohValue s off
  | .stk off => stkValue s off
  | .tally off => tallyValue s off
  | .evt off => evtValue s.events off
  | .netPort i j off => portValue (s.port (4 * i + j)) off
  | .netQp i off => netQpValue (s.ioDie i) off
  | .netDb _ _ _ => 0
  | .mboxCtl off => mboxCtlValue s off
  | .sysAbtAddr n => packF [(0, (s.core n).abtAddr % 2 ^ 48)]
  | .sysAbtInfo n => abtInfoValue (s.core n)
  | .sysMemctl _ => packF [(0, boolN s.cfg.variant.full), (1, 8)]
  | .sysIdent n => identValue s n
  | .sysFeatures _ => 0x0DFF
  | .pwr off => pwrValue s off
  | .hk off n => if n = 4 then hkValue s off else 0

/-- What a read clears in a pan (RC fields). TIDE.MARGIN starts again from its reset value. -/
def Pan.readClear (x : Pan) (r : Reg) : Pan :=
  match r with
  | .tide _ off => if off = 0x048 then { x with lateBeds := 0 } else if off = 0x050 then { x with margin := 0xFFFFFFFF } else x
  | .grain _ off => if off = 0x018 then { x with grainKeys := 0 } else x
  | .kv _ off => if off = 0x018 then { x with kvDone := 0, kvRefused := 0 } else if off = 0x020 then { x with kvZero := 0 } else x
  | .flood _ off => if off = 0x008 then { x with floodBytes := 0 } else if off = 0x010 then { x with starved := 0 } else x
  | .brine _ off =>
    if off = 0x008 then { x with ce := 0, retries := 0 } else if off = 0x010 then { x with ue := 0, poisonReads := 0 } else x
  | .xlat _ off =>
    if off = 0x010 then { x with xInfo := 0, xValid := false }
    else if off = 0x020 then { x with xLost := 0 }
    else if off = 0x028 then { x with walks := 0, parked := 0 }
    else if off = 0x030 then { x with invals := 0 }
    else x
  | _ => x

def Core.readClear (c : Core) (off : Nat) : Core :=
  if off = 0x008 then { c with pfUsed := 0, pfUnused := 0 }
  else if off = 0x018 then { c with strLines := 0 }
  else if off = 0x028 then { c with l2Ce := 0 }
  else c

def CoreDie.readClear (x : CoreDie) (r : Reg) : CoreDie :=
  match r with
  | .dcache _ off => if off = 0x000 then { x with accepted := 0, declined := 0 } else if off = 0x008 then { x with ce := 0 } else x
  | .lpd _ off => if off = 0x008 then { x with lpdCe := 0, lpdRetries := 0 } else if off = 0x010 then { x with lpdUe := 0 } else x
  | _ => x

def Coh.readClear (c : Coh) (off : Nat) : Coh :=
  if off = 0x010 then { c with bcast := 0 }
  else if off = 0x018 then { c with backinv := 0 }
  else if off = 0x020 then { c with stale := 0 }
  else c

def Tally.readClear (t : Tally) (off : Nat) : Tally :=
  if off = 0x018 then { t with accepted := 0, dups := 0 }
  else if off = 0x020 then { t with bad := 0, busyCount := 0, nofit := 0 }
  else t

def Port.readClear (x : Port) (off : Nat) : Port :=
  if off = 0x008 then { x with rx := 0, tx := 0 }
  else if off = 0x010 then { x with dropFcs := 0, dropCtl := 0, dropIcrc := 0, dropQp := 0 }
  else if off = 0x018 then { x with nakAccess := 0, nakRnr := 0 }
  else if off = 0x020 then { x with cnpRx := 0, cnpTx := 0 }
  else if off = 0x028 then { x with ctlAccepted := 0, ctlSent := 0 }
  else x

def stkClear (s : State) (off : Nat) : State :=
  match arrayIx 0x300 8 off with
  | none => s
  | some i =>
    s.updStk (fun k =>
      let r : Regulator := tget {} k.regs i
      { k with regs := tput {} k.regs i { r with held := 0, borrowed := 0 } })

/-- What a read clears (R9). -/
def regClear (s : State) (r : Reg) : State :=
  match r with
  | .bed p b off => s.updBed p b (fun d => d.readClear off)
  | .tide p _ => s.updPan p (fun x => x.readClear r)
  | .grain p _ => s.updPan p (fun x => x.readClear r)
  | .kv p _ => s.updPan p (fun x => x.readClear r)
  | .flood p _ => s.updPan p (fun x => x.readClear r)
  | .brine p _ => s.updPan p (fun x => x.readClear r)
  | .xlat p _ => s.updPan p (fun x => x.readClear r)
  | .core d c off => s.updCore (24 * d + c) (fun x => x.readClear off)
  | .dcache d _ => s.updCoreDie d (fun x => x.readClear r)
  | .lpd d _ => s.updCoreDie d (fun x => x.readClear r)
  | .coh off => s.updCoh (fun c => c.readClear off)
  | .stk off => stkClear s off
  | .tally off => s.updTally (fun t => t.readClear off)
  | .evt off => if off = 0x018 then s.updEvents (fun e => { e with lost := 0 }) else s
  | .netPort i j off => s.updPort (4 * i + j) (fun x => x.readClear off)
  | .netQp i off => if off = 0x010 then s.updIoDie i (fun x => { x with ignored := 0 }) else s
  | .netDb _ _ _ => s
  | .mboxCtl off => if off = 0x008 then s.updSalter (fun x => { x with ignored := 0 }) else s
  | .sysAbtAddr _ => s
  | .sysAbtInfo _ => s
  | .sysMemctl _ => s
  | .sysIdent _ => s
  | .sysFeatures _ => s
  | .pwr off => pwrClear s off
  | .hk _ _ => s

/-- A read: the value goes to the bus, and RC fields clear. -/
def readReg (s : State) (r : Reg) : State := ({ regClear s r with bus := regValue s r }).drawn

/-! ### Writes -/

def grainWrite (s : State) (p off : Nat) (v : Dword) : State :=
  if off = 0x000 then s.updPan p (fun x => { x with freeSeed := v })
  else if off = 0x008 ∧ v.getLsbD 0 then after s (execGrainReseed p s)
  else if off = 0x010 then s.updPan p (fun x => { x with grainRefused := x.grainRefused && !v.getLsbD 0 })
  else s

def Core.writeReg (c : Core) (off : Nat) (v : Dword) : Core :=
  if off = 0x000 then
    { c with pfEnable := v.getLsbD 0, pfDescend := v.getLsbD 1
             pfDistance := if 1 ≤ wfld v 2 5 ∧ wfld v 2 5 ≤ 16 then wfld v 2 5 else c.pfDistance }
  else if off = 0x010 then { c with strEnable := v.getLsbD 0, engaged := c.engaged && v.getLsbD 0 }
  else c

def stkWrite (s : State) (off : Nat) (v : Dword) : State :=
  match arrayIx 0x200 8 off with
  | none => s
  | some i =>
    if s.stk.parts.length ≤ i then s
    else
      s.updStk (fun k =>
        let r : Regulator := tget {} k.regs i
        let rate := wfld v 0 16
        { k with regs := tput {} k.regs i { r with rate := rate, borrow := v.getLsbD 16, burst := max (wfld v 32 24) (leastBurst rate) } })

/-- A ring base write takes effect while enable is 0 or when it clears enable; a size outside 6 to 20 is left as it was. -/
def ringSize (old : Nat) (v : Dword) : Nat := if 6 ≤ wfld v 1 5 ∧ wfld v 1 5 ≤ 20 then wfld v 1 5 else old

def Ring.writeBase (r : Ring) (v : Dword) : Ring :=
  if r.enable && v.getLsbD 0 then r
  else { r with enable := v.getLsbD 0, size := ringSize r.size v, base := wfld v 12 36 }

def tallyWrite (s : State) (off : Nat) (v : Dword) : State :=
  match arrayIx 0x100 16 off, arrayIx 0x108 16 off with
  | some i, _ => s.updTally (fun t => { t with rings := tput {} t.rings i ((tget {} t.rings i).writeBase v) })
  | _, some i =>
    s.updTally (fun t =>
      let r : Ring := tget {} t.rings i
      { t with rings := tput {} t.rings i { r with producer := v.extractLsb' 0 32 } })
  | _, _ =>
    if off = 0x200 then s.updTally (fun t => { t with replayBase := wfld v 6 42 * 64 })
    else if off = 0x208 then s.updTally (fun t => { t with replayLen := wfld v 0 32 })
    else if off = 0x210 ∧ v.getLsbD 0 then after s (execTallyReplayGo (wfld v 32 32) s)
    else s

def Events.writeReg (e : Events) (off : Nat) (v : Dword) : Events :=
  if off = 0x000 then
    (if e.enable && v.getLsbD 0 then e
     else { e with enable := v.getLsbD 0, size := ringSize e.size v, base := wfld v 12 36 })
  else if off = 0x008 then { e with consumer := v.extractLsb' 32 32 }
  else if off = 0x010 then { e with filterCe := v.getLsbD 0, filterNote := v.getLsbD 1 }
  else e

/-- NET.QP_CMD: the four operations; any other code is a field out of range (R364). A write while busy is ignored. -/
def qpWrite (s : State) (i : Nat) (v : Dword) : State :=
  let q := wfld v 0 16
  if (s.ioDie i).busy then s
  else
    match wfld v 16 3 with
    | 1 => after s (execQpCreate i q s)
    | 2 => after s (execQpModify i q s)
    | 3 => after s (execQpDestroy i q s)
    | 4 => after s (execQpQuery i q s)
    | _ => qpStatus s i stBadArgument

/-- A release table address is not written while its plan is SERVING (R373). -/
def relWrite (s : State) (i slot : Nat) (v : Dword) : State :=
  if slotRuns s slot then s
  else
    let x := (v.getLsbD 0, wfld v 6 42 * 64)
    s.updIoDie i (fun d => if slot = 0 then { d with rel0 := x } else { d with rel1 := x })

def netQpWrite (s : State) (i off : Nat) (v : Dword) : State :=
  if off = 0x000 then s.updIoDie i (fun d => { d with qpCtx := wfld v 6 42 * 64 })
  else if off = 0x008 then qpWrite s i v
  else if off = 0x018 then relWrite s i 0 v
  else if off = 0x020 then relWrite s i 1 v
  else s

/-- NET.DB_q on the die of its window. A doorbell on a queue pair that this die does not hold is ignored and counted. -/
def dbWrite (s : State) (i q off : Nat) (v : Dword) : State :=
  if (off ≠ 0 ∧ off ≠ 8) ∨ 65536 ≤ q then s
  else if (qpOn s i q).isNone ∨ !takesDoorbell s q then s.updIoDie i (fun d => { d with ignored := satAdd 32 d.ignored 1 })
  else if off = 8 then after s (execCqConsumerUpdate q (wfld v 0 16) s)
  else
    let s1 := if v.getLsbD 33 then after s (execRqDoorbell q (wfld v 16 16) s) else s
    if v.getLsbD 32 then after s1 (execSqDoorbell q (wfld v 0 16) s1) else s1

/-- A write sets the RW fields, clears W1C bits, and starts the action of WO fields; everything else ignores it (R9, R11). -/
def writeReg (s : State) (r : Reg) (v : Dword) : State :=
  match r with
  | .bed _ _ _ => s
  | .tide _ _ => s
  | .grain p off => grainWrite s p off v
  | .kv _ _ => s
  | .flood _ _ => s
  | .brine _ _ => s
  | .xlat _ _ => s
  | .core d c off => s.updCore (24 * d + c) (fun x => x.writeReg off v)
  | .dcache _ _ => s
  | .lpd _ _ => s
  | .coh off => if off = 0x048 then s.updCoh (fun c => { c with warmEntry := wfld v 2 46 }) else s
  | .stk off => stkWrite s off v
  | .tally off => tallyWrite s off v
  | .evt off => s.updEvents (fun e => e.writeReg off v)
  | .netPort _ _ _ => s
  | .netQp i off => netQpWrite s i off v
  | .netDb i q off => dbWrite s i q off v
  | .mboxCtl _ => s
  | .sysAbtAddr _ => s
  | .sysAbtInfo n => s.updCore n (fun c => { c with abtValid := c.abtValid && !v.getLsbD 63 })
  | .sysMemctl _ => s
  | .sysIdent _ => s
  | .sysFeatures _ => s
  | .pwr off => pwrWrite s off v
  | .hk off n => if n = 4 then hkWrite s off v else s

/-! ### The commands -/

/-- REGISTER_WRITE. -/
def execRegisterWrite (r : Reg) (val : Dword) (s : State) : Host.Outcome State Fault Refusal :=
  if regUp s r then go (writeReg s r val) else go s

/-- A system register that only supervisor level and above read (R274), with the core that reads it. -/
def guardedSys (r : Reg) : Option Nat :=
  match r with
  | .sysAbtAddr n => some n
  | .sysAbtInfo n => some n
  | .sysMemctl n => some n
  | _ => none

/-- A read that the core's level does not allow: no value comes back (R274, entry 103). -/
def readBarred (s : State) (r : Reg) : Bool :=
  match guardedSys r with
  | some n => decide ((s.core n).priv = .user)
  | none => false

/-- RC_REGISTER_READ: any register may be read; RC fields clear. -/
def execRcRegisterRead (r : Reg) (s : State) : Host.Outcome State Fault Refusal :=
  if regUp s r && !readBarred s r then go (readReg s r) else go s

def execBedFaultInfoRead (pan bed : Nat) (s : State) : Host.Outcome State Fault Refusal :=
  if regUp s (.bed pan bed 0x008) then go (readReg s (.bed pan bed 0x008)) else go s

def execXlatFaultInfoRead (pan : Nat) (s : State) : Host.Outcome State Fault Refusal :=
  if regUp s (.xlat pan 0x010) then go (readReg s (.xlat pan 0x010)) else go s

end Sys2Proof.Machine
end

