-- ==== Sys2Proof/Machine/Events.lean ====
section
/-!
DEFINITION. The event log and ring (R483, R486, R487), delivery to the tray controller (R488, R513), and the management link with
its frames (R408, R510 to R512). -/

namespace Sys2Proof.Machine

/-! ### Writing a record (R486, R487) -/

/-- The 64 bytes of a record (R481). -/
def Event.bytes (e : Event) : List Byte :=
  leBytes 8 e.number ++ leBytes 8 e.time ++ leBytes 2 e.code ++ leBytes 1 e.cls ++ leBytes 1 e.die ++ leBytes 1 e.part
    ++ leBytes 1 e.partIndex ++ leBytes 1 e.action ++ leBytes 1 e.addrKind ++ leBytes 8 e.addr ++ leBytes 4 e.count
    ++ leBytes 4 e.detail ++ leBytes 8 e.detail2 ++ leBytes 16 0

/-- Records of group 0x06 carry zero in detail, detail2 and addr on the ring. -/
def Event.onRing (e : Event) : Event := if e.code / 256 = 6 then { e with detail := 0, detail2 := 0, addr := 0 } else e

/-- EVT.FILTER lets a record onto the ring; class UE always passes. -/
def ringTakes (v : Events) (e : Event) : Bool :=
  decide (e.cls = 2) || (decide (e.cls = 1) && v.filterCe) || (decide (e.cls = 0) && v.filterNote)

/-- An enabled ring that R487 accepts: a size from 6 to 20 and a base in populated normal memory. -/
def eventRingOk (s : State) : Bool :=
  decide (6 ≤ s.events.size) && decide (s.events.size ≤ 20) && (place s (s.events.base * 4096)).normal

/-- A record goes onto the ring: a bad ring is disabled and logged, a full one counts the loss, else the record is written
and the producer index advances. -/
def ringWrite (s : State) (e : Event) : State :=
  let v := s.events
  if !v.enable || !ringTakes v e then s
  else if !eventRingOk s then (s.updEvents (fun v => { v with enable := false })).note evEventRing 0xFF 0 0 0
  else if 2 ^ v.size ≤ (v.producer - v.consumer).toNat then s.updEvents (fun v => { v with lost := satAdd 32 v.lost 1 })
  else
    let pa := v.base * 4096 + v.producer.toNat % 2 ^ v.size * 64
    let s1 := if (place s pa).normal then physWrite s pa e.onRing.bytes else s
    s1.updEvents (fun v => { v with producer := v.producer + 1 })

/-- Ring writes of a drain wait for its end. -/
def ringFlush (s : State) : State :=
  if s.pkg.st = .draining then s
  else s.events.waiting.foldl ringWrite (s.updEvents (fun v => { v with waiting := [] }))

def ringSend (s : State) (e : Event) : State :=
  if s.pkg.st = .draining then s.updEvents (fun v => { v with waiting := v.waiting ++ [e] }) else ringWrite s e

/-- Records the log keeps. -/
def logSize : Nat := 65536

/-- The event log's salter serves: reserved brine is up and a control die is active. -/
def logServed (s : State) : Bool :=
  decide (s.pkg.st ≠ .off) && decide (7 ≤ s.pkg.bootStep) && decide (s.ctlState s.salter.active ≠ .failed)

/-- The link's far end is served by the active control die, from step 2 of R467 on (R510). -/
def mgmtServed (s : State) : Bool :=
  s.events.linkUp && decide (s.pkg.st ≠ .off) && decide (2 ≤ s.pkg.bootStep) && decide (s.ctlState s.salter.active ≠ .failed)

/-- Frames of at most 32 records, from a number on. -/
def sendRecords (fuel : Nat) (s : State) (first count : Nat) : State :=
  match fuel with
  | 0 => s
  | f + 1 =>
    if count = 0 then s
    else sendRecords f (s.emit (.events first (min 32 count))) (first + min 32 count) (count - min 32 count)

/-- EVENT_RECORD_WRITE: the oldest waiting event takes the next number, enters the log, goes to the ring and to the tray. -/
def execEventRecordWrite (s : State) : Host.Outcome State Fault Refusal :=
  if !logServed s then go s
  else
    match s.events.queue with
    | [] => go (ringFlush s)
    | q :: _ =>
      let e := { q with number := s.events.last + 1 }
      let s1 := (ringFlush s).updEvents (fun v => { v with
        queue := v.queue.drop 1, last := e.number, log := keepLast logSize (v.log ++ [e]) })
      let s2 := ringSend s1 e
      if mgmtServed s2 then go ((s2.emit (.events e.number 1)).updEvents (fun v => { v with sent := e.number })) else go s2

/-- CE_COALESCE_EXPIRY: a held record's second ends, and it is written with its count. -/
def execCeCoalesceExpiry (index : Nat) (s : State) : Host.Outcome State Fault Refusal :=
  match s.events.held[index]? with
  | none => go s
  | some e =>
    go ((s.reach (e.time + 1000000000)).updEvents (fun v => { v with
      held := v.held.eraseIdx index, queue := v.queue ++ [e] }))

/-! ### Delivery (R488, R513) -/

/-- Response statuses of R511. -/
def mgOk := 0
def mgError := 1
def mgRetry := 2
def mgMalformed := 3

/-- EVENT_ACK: the tray holds every record up to a number. -/
def execEventAck (f : MgmtFrame) (s : State) : Host.Outcome State Fault Refusal :=
  if !mgmtServed s then go s
  else if f.reserved then go (s.emit (.mgmt 0x11 mgMalformed f.tag []))
  else go (s.updEvents (fun v => { v with acked := max v.acked (min f.address v.sent) }))

/-- Delivery from the lowest unacknowledged number still in the log. Numbers that have left it are reported by LOG_GAP and
count as acknowledged from then on. -/
def resumeDelivery (s : State) : State :=
  let v := s.events
  let first := (v.log.head?.map Event.number).getD (v.last + 1)
  let lost := first - (v.acked + 1)
  let s1 :=
    if lost = 0 then s
    else (s.noteD evLogGap 0xFF 0 (min lost 0xFFFFFFFF) (v.acked + 1)).updEvents (fun v => { v with acked := first - 1 })
  let from_ := s1.events.acked + 1
  (sendRecords logSize s1 from_ (v.last + 1 - from_)).updEvents (fun v => { v with sent := v.last })

/-- EVENT_RESEND: 10 ms have passed without an acknowledgement. -/
def execEventResend (s : State) : Host.Outcome State Fault Refusal :=
  if mgmtServed s ∧ s.events.acked < s.events.sent then go (resumeDelivery s) else go s

/-- MGMT_LINK_UP. -/
def execMgmtLinkUp (s : State) : Host.Outcome State Fault Refusal :=
  if s.events.linkUp ∨ s.pkg.st = .off ∨ s.pkg.bootStep < 2 then go s
  else
    let s1 := s.updEvents (fun v => { v with linkUp := true })
    if logServed s1 then go (resumeDelivery s1) else go s1

def execMgmtLinkDown (s : State) : Host.Outcome State Fault Refusal := go (s.updEvents (fun v => { v with linkUp := false }))

/-! ### Requests of the tray (R408, R511, R512) -/

/-- Address and length are multiples of 8, the length from 8 to 4,096, and reserved fields are zero. -/
def frameOk (f : MgmtFrame) : Bool :=
  decide (f.address % 8 = 0) && decide (f.length % 8 = 0) && decide (8 ≤ f.length) && decide (f.length ≤ 4096) && !f.reserved

/-- A request is served: a malformed one does nothing, else its effect gives the state, a status and the data. -/
def serve (op : Nat) (f : MgmtFrame) (s : State) (eff : State → State × Nat × List Byte) : Host.Outcome State Fault Refusal :=
  if !mgmtServed s then go s
  else if !frameOk f then go (s.emit (.mgmt op mgMalformed f.tag []))
  else
    let r := eff s
    go ((r.1.emit (.mgmt op r.2.1 f.tag r.2.2)).drawn)

/-- The offsets of the 64-bit words a request names. -/
def frameWords (f : MgmtFrame) : List Nat := (List.range (f.length / 8)).map (fun i => 8 * i)

/-- The lines of a physical range, at their canonical addresses. -/
def physLines (s : State) (pa n : Nat) : List Nat := (linesOf pa n).map (fun l => lineOf (canon s (l * 64)))

/-- What stops a window access: RETRY in DRAINING; ERROR outside the window, against its mode, or where the range is no longer
populated. -/
def windowStatus (s : State) (f : MgmtFrame) (write : Bool) : Nat :=
  let k := s.salter
  if s.pkg.st = .draining then mgRetry
  else if k.winMode = 0 ∨ k.winLen < f.address + f.length ∨ (write ∧ k.winMode ≠ 2) then mgError
  else if !pagesAll s (k.winBase + f.address) f.length Place.normal then mgError
  else mgOk

/-- The first line of a window access that the protection table refuses (R339). -/
def windowRefused (s : State) (f : MgmtFrame) (write : Bool) : Option Nat :=
  (physLines s (s.salter.winBase + f.address) f.length).find? (fun l => !protectOk s (l * 64) true (!write))

def windowProtect (s : State) (pa : Nat) : State :=
  s.raise { code := evProtection, cls := 0, die := dieOfCtl s.salter.active, action := 3, addrKind := 1, addr := pa }

def windowAccess (s : State) (f : MgmtFrame) (write : Bool) (eff : State × Nat × List Byte) : State × Nat × List Byte :=
  if windowStatus s f write ≠ mgOk then (s, windowStatus s f write, [])
  else
    match windowRefused s f write with
    | some l => (windowProtect s (l * 64), mgError, [])
    | none => eff

/-- WINDOW_READ: a cacheless read at system scope. A poisoned line gives ERROR. -/
def execWindowRead (f : MgmtFrame) (s : State) : Host.Outcome State Fault Refusal :=
  serve 0x01 f s (fun s =>
    let ls := physLines s (s.salter.winBase + f.address) f.length
    let s1 := ls.foldl (fun s l => spendLine s l 3) s
    windowAccess s f false (
      match ls.find? (fun l => (s.curLine l).2) with
      | some l => (poisonSeen s1 (dieOfCtl s.salter.active) 0 0 (l * 64), mgError, [])
      | none => (s1, mgOk, physBytes s (s.salter.winBase + f.address) f.length)))

/-- WINDOW_WRITE: a cacheless write at system scope. -/
def execWindowWrite (f : MgmtFrame) (s : State) : Host.Outcome State Fault Refusal :=
  serve 0x02 f s (fun s =>
    windowAccess s f true (physWrite s (s.salter.winBase + f.address) (padTo f.length f.data), mgOk, []))

/-- REG_READ: PWR registers from the address on; RC fields clear. -/
def execRegRead (f : MgmtFrame) (s : State) : Host.Outcome State Fault Refusal :=
  serve 0x03 f s (fun s =>
    if !pwrReachable s then (s, mgRetry, [])
    else
      let ws := frameWords f
      (ws.foldl (fun s i => pwrClear s (f.address + i)) s, mgOk, ws.flatMap (fun i => leBytes 8 (pwrValue s (f.address + i)).toNat)))

/-- REG_WRITE. -/
def execRegWrite (f : MgmtFrame) (s : State) : Host.Outcome State Fault Refusal :=
  serve 0x04 f s (fun s =>
    if !pwrReachable s then (s, mgRetry, [])
    else
      ((frameWords f).foldl (fun s i => pwrWrite s (f.address + i) (BitVec.ofNat 64 (leField (padTo f.length f.data) i 8))) s, mgOk, []))

/-- MBOX_READ: the tray mailbox. -/
def execMboxRead (f : MgmtFrame) (s : State) : Host.Outcome State Fault Refusal :=
  serve 0x05 f s (fun s => (s, mgOk, (frameWords f).flatMap (fun i => leBytes 8 (mailboxRead s 72 (f.address + i)).toNat)))

/-- MBOX_WRITE: each word is a requester's write of the tray mailbox (R384). -/
def execMboxWrite (f : MgmtFrame) (s : State) : Host.Outcome State Fault Refusal :=
  serve 0x06 f s (fun s =>
    ((frameWords f).foldl (fun s i =>
      requesterWrite s 72 (f.address + i) (BitVec.ofNat 64 (leField (padTo f.length f.data) i 8))) s, mgOk, []))

end Sys2Proof.Machine
end

