-- ==== Sys2Proof/Machine/Cache.lean ====
section
/-!
DEFINITION. The caches of the cores: L2 and die cache with their sets (R233 to R236), the side prefetch buffer (R237 to R239),
offers (R244, R245, R286, R287), and ways that disable themselves (R246, R247). An L2 answers for its L1s (R234): a line of an L1 is
named in the core and its bytes are the L2's. -/

namespace Sys2Proof.Machine

/-! ### Sets (R235, R236) -/

def Core.disabledWays (c : Core) : Nat := ((List.range 16).filter (fun i => c.l2Ways.getLsbD i)).length

/-- Ways of a die-cache slice in service. -/
def sliceWays (x : CoreDie) (k : Nat) : Nat := 12 - ((List.range 12).filter (fun i => (tget 0 x.ways k).getLsbD i)).length

/-! ### Lines leave -/

/-- A line leaves a core's L2, and with it the L1s, the side buffer and the reservation (R234, R266). -/
def dropL2 (s : State) (n : Nat) (v : Nat × CacheLine) : State := leave (s.updCore n (fun c => c.loseLine v.1)) (l2Agent n) v

/-- Local L2s that hold a line the die cache answers for. -/
def localHolders (s : State) (d l : Nat) : List (Nat × CacheLine) := (s.holders l).filter (fun h => h.1 < 192 && h.1 / 24 == d)

/-- The die cache evicts a line: local copies go first, dirty data to the home (R245, R286). -/
def dieDrop (s : State) (d : Nat) (v : Nat × CacheLine) : State :=
  let s0 := takeBack s v.1
  let c := (s0.cached (dieCacheAgent d) v.1).getD v.2
  let ls := (localHolders s0 d v.1).filter (fun h => c.presence.getLsbD (h.1 % 24))
  let dirty := (ls.find? (fun h => h.2.st.dirty)).map Prod.snd
  let s1 := ls.foldl (fun s h => (s.updCore h.1 (fun c => c.loseLine v.1)).setCached h.1 v.1 none) s0
  leave s1 (dieCacheAgent d) (v.1, dirty.getD c)

/-- A set of the die cache makes room: its line of least recent use (R245). -/
def dieRoom (s : State) (d l : Nat) : State :=
  let same := setMates s (dieCacheAgent d) l
  if same.length < sliceWays (s.coreDie d) (dieSlice l) then s
  else
    match same with
    | [] => s
    | v :: r => dieDrop s d (r.foldl (fun b x => if x.2.stamp < b.2.stamp then x else b) v)

/-- A line that an L2 gives up enters the die cache, or updates it there. -/
def dieFill (s : State) (d n l : Nat) (st : Moesi) (c : CacheLine) : State :=
  let s1 := dieRoom s d l
  let old := ((s1.cached (dieCacheAgent d) l).map CacheLine.presence).getD 0
  hold s1 (dieCacheAgent d) l { c with st := st, passed := false, presence := old &&& ~~~(1#24 <<< (n % 24)) }

def countOffer (s : State) (d : Nat) (accepted : Bool) : State :=
  s.updCoreDie d (fun x =>
    if accepted then { x with accepted := satAdd 32 x.accepted 1 } else { x with declined := satAdd 32 x.declined 1 })

/-- A dirty line is always taken, and the die cache becomes its owner. A retired slice takes nothing (R479). -/
def offerDirty (s : State) (n : Nat) (v : Nat × CacheLine) : State :=
  let d := n / 24
  if sliceWays (s.coreDie d) (dieSlice v.1) = 0 then dropL2 s n v
  else
    let s1 := (s.updCore n (fun c => c.loseLine v.1)).setCached (l2Agent n) v.1 none
    let s2 := dieFill (countOffer s1 d true) d n v.1 v.2.st v.2
    match s2.dirEntry v.1 with
    | some e => s2.setDir v.1 (some { e with owner := dieCacheAgent d, sharers := e.sharers.filter (fun a => a ≠ dieCacheAgent d) })
    | none => s2

/-- A clean line is declined when present, or when the slice's queue holds 8 or more offers, which is timing and so free (entry
12); else the die cache becomes an S holder. -/
def offerClean (s : State) (n : Nat) (v : Nat × CacheLine) : State :=
  let d := n / 24
  let s1 := (s.updCore n (fun c => c.loseLine v.1)).setCached (l2Agent n) v.1 none
  if (s.cached (dieCacheAgent d) v.1).isSome ∨ sliceWays (s.coreDie d) (dieSlice v.1) = 0 ∨ s.draw 3310 % 2 = 1 then
    countOffer s1 d false
  else
    let s2 := dieFill (countOffer s1 d true) d n v.1 .s v.2
    match s2.dirEntry v.1 with
    | some e =>
      let e1 : DirEntry := if e.st = .x then { e with st := .s, owner := 0xFF, sharers := [dieCacheAgent d] }
        else e.addSharer (dieCacheAgent d)
      s2.setDir v.1 (some e1)
    | none => s2

/-- The L2 needs a way: a line of the set, which one the manual does not say, is offered to the die cache (R244, entry 13). -/
def l2Evict (s : State) (n l : Nat) : State :=
  let same := setMates s (l2Agent n) l
  if same.length < 16 - (s.core n).disabledWays then s
  else
    match same[s.draw 3302 % max 1 same.length]? with
    | none => s
    | some v => if v.2.st.dirty then offerDirty s n v else offerClean s n v

/-! ### Corrected errors and ways (R246, R247) -/

/-- The times of a way's last 8 corrected errors with one more, and whether the new one lies within 24 hours of the oldest of
eight. -/
def wayTimes (ts : List Nat) (now : Nat) : Bool × List Nat :=
  (decide (ts.length = 8) && (ts.head?.map (fun t => decide (now < t + dayNs))).getD false, keepLast 8 (ts ++ [now]))

def sramCe (s : State) (die way : Nat) : State :=
  s.raise { code := evSramCe, cls := 1, die := die, part := 3, partIndex := way, action := 1 }

/-- A way of an L2 goes out of service: its lines leave it. -/
def disableL2 (s : State) (n w : Nat) : State :=
  let s1 := ((agentLines s (l2Agent n)).filter (fun v => v.2.way = w)).foldl (fun s v => dropL2 s n v) s
  let s2 := s1.updCore n (fun c => { c with l2Ways := c.l2Ways ||| (1#16 <<< w) })
  repairEntry (s2.note evWayDisabled (dieOfCore (n / 24)) 3 w 8) (leBytes 1 3 ++ leBytes 1 (n / 24) ++ leBytes 1 (n % 24) ++ leBytes 1 w)

/-- A corrected error in a way of an L2. A fifth way stays, and the core is reported and replaced at the next drain (R477). -/
def l2Error (s : State) (n w : Nat) : State :=
  let c := s.core n
  if c.l2Ways.getLsbD w then s
  else
    let r := wayTimes (tget [] c.wayCe w) s.now
    let s1 := sramCe (s.updCore n (fun c => { c with l2Ce := satAdd 32 c.l2Ce 1, wayCe := tput [] c.wayCe w r.2 })) (dieOfCore (n / 24)) w
    if !r.1 then s1
    else if c.disabledWays < 4 then disableL2 s1 n w
    else if c.l2Limit then s1
    else
      markCore ((s1.updCore n (fun c => { c with l2Limit := true })).raise
        { code := evWayLimit, cls := 2, die := dieOfCore (n / 24), part := 2, partIndex := n % 24 }) n

def disableDie (s : State) (d k w : Nat) : State :=
  let mine := (agentLines s (dieCacheAgent d)).filter (fun v => dieSlice v.1 = k ∧ v.2.way = w)
  let s1 := mine.foldl (fun s v => dieDrop s d v) s
  let s2 := s1.updCoreDie d (fun x => { x with ways := tput 0 x.ways k (tget 0 x.ways k ||| (1#12 <<< w)) })
  repairEntry (s2.note evWayDisabled (dieOfCore d) 3 k 8) (leBytes 1 3 ++ leBytes 1 d ++ leBytes 1 (128 + k) ++ leBytes 1 w)

/-- A corrected error in a way of a die-cache slice. A fourth way stays, and the slice is reported (R247). -/
def dieError (s : State) (d k w : Nat) : State :=
  let x := s.coreDie d
  if (tget 0 x.ways k).getLsbD w then s
  else
    let r := wayTimes (tget [] x.wayCe (k * 16 + w)) s.now
    let s1 := sramCe (s.updCoreDie d (fun x => { x with ce := satAdd 32 x.ce 1, wayCe := tput [] x.wayCe (k * 16 + w) r.2 })) (dieOfCore d) k
    if !r.1 then s1
    else if 12 - sliceWays x k < 3 then disableDie s1 d k w
    else if x.limit.getLsbD k then s1
    else
      (s1.updCoreDie d (fun x => { x with limit := x.limit ||| (1#16 <<< k) })).raise
        { code := evWayLimit, cls := 2, die := dieOfCore d, part := 3, partIndex := k }

/-- An access that hits may find a corrected error in the line's way: whether is no rule's to say (entry 45). -/
def l2Hit (s : State) (n l : Nat) : State :=
  match s.cached (l2Agent n) l with
  | some c => if s.draw 3300 % 2 = 1 then l2Error s n c.way else s
  | none => s

def dieHit (s : State) (d l : Nat) : State :=
  match s.cached (dieCacheAgent d) l with
  | some c => if s.draw 3303 % 2 = 1 then dieError s d (dieSlice l) c.way else s
  | none => s

/-! ### The prefetcher (R237 to R239) -/

/-- The stride of the last three misses, in lines, where it is constant, from 1 to 32 lines, and within one 4 KiB page. -/
def strideOf (ms : List Nat) (descend : Bool) : Option Int :=
  match ms with
  | a :: b :: c :: _ =>
    let d : Int := Int.ofNat a - Int.ofNat b
    if d = Int.ofNat b - Int.ofNat c ∧ 1 ≤ d.natAbs ∧ d.natAbs ≤ 32 ∧ a / 64 = b / 64 ∧ b / 64 = c / 64 ∧ (0 < d ∨ descend) then some d
    else none
  | _ => none

/-- Lines ahead of a miss, up to the distance, within its page. -/
def prefetchLines (l : Nat) (d : Int) (distance : Nat) : List Nat :=
  (List.range (distance / max 1 d.natAbs)).filterMap (fun k =>
    let t : Int := Int.ofNat l + d * Int.ofNat (k + 1)
    if 0 ≤ t ∧ t.toNat / 64 = l / 64 then some t.toNat else none)

/-- Misses of an L2 outstanding at most, prefetches included (R232). -/
def missLimit : Nat := 64

/-- The prefetcher sees a miss of the L1D (R237); a prefetch of the line in flight is joined (R239). -/
def trackMiss (s : State) (n l : Nat) : State :=
  let c := s.core n
  let ms := (l :: c.misses).take 3
  let fresh := match (if c.pfEnable then strideOf ms c.pfDescend else none) with
    | none => []
    | some d => (prefetchLines l d c.pfDistance).filter (fun t =>
      (s.cached (l2Agent n) t).isNone && !c.side.contains t && !c.inflight.any (fun x => x.1 = t))
  s.setCore n { c with
    misses := ms
    inflight := (c.inflight.filter (fun x => x.1 ≠ l) ++ fresh.map (fun t => (t, false))).take missLimit }

/-- The home serves a prefetch: a shared, clean copy, and no transfer where another agent holds the line in M or O (R237). -/
def sharePrefetch (s : State) (n l : Nat) : Option State :=
  if (s.holders l).any (fun h => h.2.st.dirty) then none
  else
    let s2 := partRead (spendLine s l 0) n l
    match s2.dirEntry l with
    | none => some (putEntry s2 l { st := .s, sharers := [n] })
    | some e =>
      if e.st = .x then
        some (putEntry (downgrade s2 l) l { st := .s, sharers := if (s2.holders l).isEmpty then [n] else [e.owner, n] })
      else some (putEntry s2 l (({ e with st := .s, owner := 0xFF } : DirEntry).addSharer n))

/-- A core that runs: its number has a core on a die that is ONLINE and not in STOP, released from reset (R297, R452, R496). -/
def coreRuns (s : State) (n : Nat) : Bool :=
  s.coreServes n && s.domainUp && (s.core n).released && decide ((s.coreDie (n / 24)).state = .online)
    && decide ((tget {} s.power.cores (n / 24)).thermal ≠ .stop)

/-- PREFETCH_FILL: the oldest prefetch arrives. Data an invalidation hit is discarded; a full buffer drops its oldest line. -/
def execPrefetchFill (core : Nat) (s : State) : Host.Outcome State Fault Refusal :=
  if !coreRuns s core then go s
  else
    match (s.core core).inflight with
    | [] => go s
    | (l, hit) :: rest =>
      let s1 := s.updCore core (fun c => { c with inflight := rest })
      if hit ∨ (s.cached (l2Agent core) l).isSome then go s1.drawn
      else
        match sharePrefetch s1 core l with
        | none => go s1.drawn
        | some s2 =>
          go (s2.updCore core (fun c =>
            if c.side.length < 32 then { c with side := c.side ++ [l] }
            else { c with side := c.side.drop 1 ++ [l], pfUnused := satAdd 32 c.pfUnused 1 })).drawn

/-! ### A core's L2 obtains a line -/

/-- The line is not in the L2: a way is made free, and the side buffer's entry moves in (R238). -/
def l2Miss (s : State) (n l : Nat) : State × Bool :=
  if (s.core n).side.contains l then
    let s1 := s.updCore n (fun c => { c with side := c.side.filter (fun x => x ≠ l), pfUsed := satAdd 32 c.pfUsed 1 })
    let s2 := l2Evict s1 n l
    let cur := s2.curLine l
    (fill s2 (l2Agent n) l .s cur.1 cur.2, true)
  else (l2Evict s n l, false)

/-- A hit in the die cache (R245, R286): the L2 takes an S copy. Data that had passed to another L2 of the die is taken back first. -/
def dieShare (s : State) (n l : Nat) : State :=
  let d := n / 24
  let s1 := takeBack s l
  match s1.cached (dieCacheAgent d) l with
  | none => homeRead s1 (l2Agent n) l
  | some c =>
    let s2 := hold s1 (dieCacheAgent d) l { c with presence := c.presence ||| (1#24 <<< (n % 24)) }
    fill s2 (l2Agent n) l .s c.data c.poison

/-- After the L2 missed: the die cache of the core's die, then the home. -/
def readBelow (s : State) (n l : Nat) : State :=
  match s.cached (dieCacheAgent (n / 24)) l with
  | none => homeRead s (l2Agent n) l
  | some _ => dieShare (dieHit s (n / 24) l) n l

/-- A line enters the L1D: a full set gives up a line, which one the manual does not say (entry 13). Its bytes are the L2's. -/
def l1Fill (s : State) (n l : Nat) : State :=
  let c := s.core n
  let set := c.l1d.filter (fun x => x ≠ l && x % 64 == l % 64)
  let out := if set.length < 16 then none else set[s.draw 3305 % 16]?
  s.updCore n (fun c => { c with l1d := c.l1d.filter (fun x => x ≠ l && out ≠ some x) ++ [l] })

/-- A demand access that misses the L1D shows itself to the prefetcher, and looks the L2 up (R237). -/
def l1Miss (s : State) (n l : Nat) : State := if (s.core n).l1d.contains l then s else l2Hit (trackMiss s n l) n l

/-- A core obtains a line for reading. -/
def coreShare (s : State) (n l : Nat) : State :=
  let s1 := l1Miss s n l
  let s2 := if (s1.cached (l2Agent n) l).isSome then s1
    else
      let r := l2Miss s1 n l
      if r.2 then r.1 else readBelow r.1 n l
  l1Fill s2 n l

/-- A store is granted by the die cache, which holds the line in E or M (R286): the other local copies go, and the newest data passes
to the storing L2, for whose copy the die cache goes on answering by its tag (DEDUCED from R278 and R286: M leaves no other copy,
entry 114). -/
def dieGrant (s : State) (n l : Nat) (c : CacheLine) : State :=
  let d := n / 24
  let cur := s.curLine l
  let ls := (localHolders s d l).filter (fun h => h.1 ≠ n)
  let s1 := ls.foldl (fun s h => (s.updCore h.1 (fun c => c.loseLine l)).setCached h.1 l none) s
  let s2 := hold s1 (dieCacheAgent d) l { c with
    st := .m, data := cur.1, poison := cur.2, presence := 1#24 <<< (n % 24), passed := true }
  fill s2 (l2Agent n) l .m cur.1 cur.2

def ownBelow (s : State) (n l : Nat) : State :=
  match s.cached (dieCacheAgent (n / 24)) l with
  | none => homeOwn s (l2Agent n) l
  | some c => if c.st = .e ∨ c.st = .m then dieGrant s n l c else homeOwn s (l2Agent n) l

/-- A core obtains a line for writing: E becomes M silently (R279). -/
def coreOwn (s : State) (n l : Nat) : State :=
  let s1 := l1Miss s n l
  let s2 := match s1.cached (l2Agent n) l with
    | some c =>
      match c.st with
      | .m => s1
      | .e => s1.setCached (l2Agent n) l (some { c with st := .m })
      | _ => ownBelow s1 n l
    | none => ownBelow (l2Miss s1 n l).1 n l
  l1Fill s2 n l

/-- Bytes stored into a line through the L2. -/
def l2Store (s : State) (n l off : Nat) (bs : List Byte) : State := pokeCached (coreOwn s n l) (l2Agent n) l off bs

end Sys2Proof.Machine
end

