-- ==== Sys2Proof/Machine/Device.lean ====
section
/-!
DEFINITION. Device memory: which register an address names (R327, R328, R350, R379, R380, R433, R489), and a device access at its
target (R12, R261, R262, R309, R381). -/

namespace Sys2Proof.Machine

/-! ### Addresses -/

def panRegOf (p o : Nat) : Option Reg :=
  if 0x100000 ≤ o ∧ o < 0x110000 then some (.bed p ((o - 0x100000) / 0x1000) (o % 0x1000))
  else
    match o / 0x10000 with
    | 0xF0 => some (.tide p (o % 0x10000))
    | 0xF1 => some (.grain p (o % 0x10000))
    | 0xF2 => some (.kv p (o % 0x10000))
    | 0xF3 => some (.flood p (o % 0x10000))
    | 0xF4 => some (.brine p (o % 0x10000))
    | 0xF5 => some (.xlat p (o % 0x10000))
    | _ => none

def coreRegOf (d o : Nat) : Option Reg :=
  if 0x100000 ≤ o ∧ o < 0x118000 then some (.core d ((o - 0x100000) / 0x1000) (o % 0x1000))
  else if 0x200000 ≤ o ∧ o < 0x300000 then some (.dcache d (o - 0x200000))
  else if 0x300000 ≤ o ∧ o < 0x400000 then some (.lpd d (o - 0x300000))
  else none

def ioRegOf (i o : Nat) : Option Reg :=
  if 0x100000 ≤ o ∧ o < 0x104000 then some (.netPort i ((o - 0x100000) / 0x1000) (o % 0x1000))
  else if 0x200000 ≤ o ∧ o < 0x300000 then some (.netQp i (o - 0x200000))
  else if 0x400000 ≤ o ∧ o < 0x800000 then some (.netDb i ((o - 0x400000) / 0x40) (o % 0x40))
  else none

def stkRegOf (o : Nat) : Option Reg :=
  if 0x100000 ≤ o ∧ o < 0x200000 then some (.coh (o - 0x100000))
  else if 0x200000 ≤ o ∧ o < 0x300000 then some (.stk (o - 0x200000))
  else if 0x300000 ≤ o ∧ o < 0x400000 then some (.tally (o - 0x300000))
  else if 0x400000 ≤ o ∧ o < 0x500000 then some (.evt (o - 0x400000))
  else none

/-- The mailbox and the offset in it of an offset of the mailbox window. -/
def boxOf (o : Nat) : Option (Nat × Nat) :=
  if o < 0x40000 then some (o / 0x1000, o % 0x1000)
  else if o < 0x48000 then some (64 + (o - 0x40000) / 0x1000, o % 0x1000)
  else if o < 0x49000 then some (72, o % 0x1000)
  else none

/-- What a device address names. -/
inductive DevTarget where
  | reg (r : Reg)
  | box (m off : Nat)
  | hole
  | absent
  deriving DecidableEq, Repr

def holeOr (r : Option Reg) : DevTarget :=
  match r with
  | some r => .reg r
  | none => .hole

def targetOf (s : State) (pa : Nat) : DevTarget :=
  match place s pa with
  | .mailbox o =>
    match boxOf o with
    | some (m, off) => .box m off
    | none => if 0x80000 ≤ o ∧ o < 0x81000 then .reg (.mboxCtl (o - 0x80000)) else .hole
  | .coreReg d o => holeOr (coreRegOf d o)
  | .panReg p o => holeOr (panRegOf p o)
  | .ioReg i o => holeOr (ioRegOf i o)
  | .stkReg o => holeOr (stkRegOf o)
  | _ => .absent

/-- What the protection table grants cores in the mailbox window: reads everywhere, writes in host mailboxes (R381). -/
def windowGrants (s : State) (pa : Nat) (reads : Bool) : Bool :=
  match targetOf s pa with
  | .box m _ => reads || isHost m
  | .reg (.mboxCtl _) => reads
  | _ => true

/-! ### An access at its target -/

/-- A register access is one aligned access of 64 bits; any other reads as zero and does nothing (R12). -/
def wholeAccess (pa size : Nat) : Bool := decide (size = 8) && decide (pa % 8 = 0)

/-- A device store performed. -/
def devWrite (s : State) (pa : Nat) (data : List Byte) : State :=
  if !wholeAccess pa data.length then s
  else
    let v := BitVec.ofNat 64 (leNat data)
    match targetOf s pa with
    | .reg r => if regUp s r then writeReg s r v else s
    | .box m off => if isHost m then requesterWrite s m off v else s
    | .hole => s
    | .absent => s

/-- A device load performed: the state it leaves (RC fields clear) and the value. -/
def devRead (s : State) (pa size : Nat) : State × Nat :=
  if !wholeAccess pa size then (s, 0)
  else
    match targetOf s pa with
    | .reg r => if regUp s r then (readReg s r, (regValue s r).toNat) else (s, 0)
    | .box m off => (s, (mailboxRead s m off).toNat)
    | .hole => (s, 0)
    | .absent => (s, 0)

end Sys2Proof.Machine
end

