-- ==== Sys2Proof/Machine/Cores.lean ====
section
/-!
DEFINITION. The instructions of the cores: loads and stores through the FIFO and the write-combining buffer (R258, R259), the
streaming detector (R242), device accesses (R261, R271 to R273), atomics and reservations (R265 to R268), line instructions (R240,
R241), fences (R256) and TLB invalidation (R348). A core's commands arrive in program order. Stores waiting in a FIFO are written when
any core's next command arrives, as many of them and in what order the free values say (entry 46). -/

namespace Sys2Proof.Machine

/-! ### Exceptions -/

/-- A precise exception of a core: an exception entry, which clears the reservation (R266). -/
def takeAbort (s : State) (n : Nat) (cause : AbortCause) (addr : Nat) : State :=
  s.updCore n (fun c => { c with abort := some { cause := cause, addr := addr }, rsv := none, deferral := none, stall := none })

/-- The error event of a failed device access (R271). -/
def deviceEvent (s : State) (n pa : Nat) : State :=
  s.raise { code := evDeviceAbort, cls := 0, die := dieOfCore (n / 24), part := 2, partIndex := n % 24, action := 3, addrKind := 1,
            addr := pa }

/-- SYS.ABT_ADDR and SYS.ABT_INFO of a failure; a held record keeps every field (R274). -/
def recordDevice (s : State) (n pa cause : Nat) (store : Bool) (discarded : Nat) : State :=
  (deviceEvent s n pa).updCore n (fun c =>
    if c.abtValid then c
    else { c with
      abtAddr := pa, abtCause := cause, abtStore := store, abtDeferred := store, abtDiscarded := min discarded 255, abtValid := true })

/-! ### Translation of an access -/

/-- The part of an access in one page: its physical address, its bytes, and whether the page is cacheable. -/
structure Seg where
  pa : Nat
  len : Nat
  cacheable : Bool
  deriving DecidableEq, Repr

def Seg.device (g : Seg) : Bool := isDevice g.pa

def coreSeg (s : State) (n : Nat) (ctx : CoreCtx) (need : Need) (va len i : Nat) : State × Except AbortCause Seg :=
  match coreXlat s n ctx need va i with
  | (s1, .error c) => (s1, .error (.translation c))
  | (s1, .ok (pa, c)) =>
    if isDevice pa && !windowGrants s1 pa need.reads then
      (s1.raise { code := evProtection, cls := 0, die := dieOfCore (n / 24), part := 2, partIndex := n % 24, action := 3, addrKind := 1,
                  addr := pa }, .error (.translation cRights))
    else (s1, .ok { pa := pa, len := len, cacheable := c })

/-- The first n bytes of an access's parts, and the parts without them. -/
def takeSegs (n : Nat) (gs : List Seg) : List Seg :=
  match gs with
  | [] => []
  | g :: r => if n = 0 then [] else { g with len := min n g.len } :: takeSegs (n - g.len) r

def dropSegs (n : Nat) (gs : List Seg) : List Seg :=
  match gs with
  | [] => []
  | g :: r => if g.len ≤ n then dropSegs (n - g.len) r else { g with pa := g.pa + n, len := g.len - n } :: r

/-- A word that begins in device memory is sent whole (R262). -/
def wholeWord (n : Nat) (gs : List Seg) : List Seg :=
  match gs with
  | [] => []
  | g :: r => if g.device then [{ g with len := n }] else g :: r

/-- The parts of an access of at most 4 KiB, or the first failure and its address. A scalar device access is sent whole; a pair in
device memory is two words (R262). -/
def coreSegs (s : State) (n : Nat) (ctx : CoreCtx) (need : Need) (va size : Nat) (pair : Bool := false) :
    State × Except (AbortCause × Nat) (List Seg) :=
  let parts (gs : List Seg) : List Seg :=
    if !gs.any Seg.device then gs
    else if pair then wholeWord 8 (takeSegs 8 gs) ++ wholeWord 8 (dropSegs 8 gs)
    else wholeWord size gs
  let first := min size (4096 - va % 4096)
  match coreSeg s n ctx need va first 3700 with
  | (s1, .error e) => (s1, .error (e, va))
  | (s1, .ok g) =>
    if first = size ∨ (g.device ∧ (!pair ∨ 8 < first)) then (s1, .ok (parts [g]))
    else
      match coreSeg s1 n ctx need (va + first) (size - first) 3701 with
      | (s2, .error e) => (s2, .error (e, va + first))
      | (s2, .ok h) => (s2, .ok (parts [g, h]))

/-- Lines a list of parts touches. -/
def segLines (gs : List Seg) : List Nat := gs.flatMap (fun g => linesOf g.pa g.len)

/-! ### The streaming detector (R242) -/

/-- The bytes of a line that a store writes. -/
def byteMask (off n : Nat) : BitVec 64 := BitVec.ofNat 64 ((2 ^ n - 1) * 2 ^ off)

/-- The line is the one after the last full line. -/
def Core.nextLine (c : Core) (l : Nat) : Bool := decide (c.strLine = some (l - 1)) && decide (1 ≤ l)

/-- The detector sees a full-line store. -/
def Core.sawFull (c : Core) (l : Nat) : Core :=
  if c.engaged && c.nextLine l then { c with strLine := some l, strPart := none }
  else
    let k := if c.nextLine l && !c.engaged then c.strCount + 1 else 0
    { c with strLine := some l, strPart := none, strCount := k, engaged := c.strEnable && decide (32 ≤ k) }

/-- The detector sees another store: partial stores that together fill a line, with none to another line between, count as one
full-line store. -/
def Core.sawPart (c : Core) (l off n : Nat) : Core :=
  let m := byteMask off n
  if c.engaged then { c with engaged := false, strCount := 0, strLine := none, strPart := some (l, m) }
  else
    match c.strPart with
    | some (k, w) =>
      if k ≠ l then { c with strCount := 0, strLine := none, strPart := some (l, m) }
      else if w ||| m = BitVec.allOnes 64 then c.sawFull l
      else { c with strPart := some (l, w ||| m) }
    | none => { c with strPart := some (l, m) }

/-- The detector sees the parts of a store. -/
def sawStore (s : State) (n pa : Nat) (bs : List Byte) : State :=
  s.updCore n (fun c => (splitLines pa bs).foldl (fun c x =>
    if x.2.2.length = 64 then c.sawFull x.1 else c.sawPart x.1 x.2.1 x.2.2.length) c)

/-- A full-line store leaves the store path: to the home where the detector is engaged and the L2 does not hold the line. -/
def fullStore (s : State) (n l : Nat) (data : List Byte) : State :=
  let c := s.core n
  if c.engaged && c.nextLine l && (s.cached (l2Agent n) l).isNone then
    (cachelessLine s 0 l 0 data).updCore n (fun c => { c.sawFull l with strLines := satAdd 32 c.strLines 1 })
  else (l2Store s n l 0 data).updCore n (fun c => c.sawFull l)

/-- A partial store leaves the store path. -/
def partialStore (s : State) (n l off : Nat) (bs : List Byte) : State :=
  (l2Store s n l off bs).updCore n (fun c => c.sawPart l off bs.length)

/-! ### The store FIFO (R258) -/

def FifoEntry.lines (e : FifoEntry) : List Nat := linesOf e.pa e.data.length
def FifoEntry.page (e : FifoEntry) : Nat := e.pa / 65536

def sharesLine (a b : FifoEntry) : Bool := a.lines.any (fun l => b.lines.contains l)

/-- The entries from one on that write nothing but its line, in the L2. -/
def runOf (l : Nat) (es : List FifoEntry) : List FifoEntry :=
  es.takeWhile (fun e => !e.device && !e.direct && !e.release && decide (e.lines = [l]))

def runMask (es : List FifoEntry) : BitVec 64 := es.foldl (fun m e => m ||| byteMask (e.pa % 64) e.data.length) 0

def runFull (es : List FifoEntry) : Bool := decide (runMask es = BitVec.allOnes 64)

/-- The bytes a run leaves in its line, over zeros. -/
def runData (es : List FifoEntry) : List Byte :=
  es.foldl (fun d e => overlay d (e.pa % 64) e.data) (List.replicate 64 0)

/-- The j-th entry is written: with the entries that complete its line where they follow it. -/
def writeAt (s : State) (n j : Nat) : State :=
  let q := (s.core n).fifo
  let without (k : Nat) : State := s.updCore n (fun c => { c with fifo := q.take j ++ q.drop (j + k) })
  match q[j]? with
  | none => s
  | some e =>
    if e.direct then sawStore (cachelessBy 0 (without 1) e.pa e.data) n e.pa e.data
    else
      match e.lines with
      | [l] =>
        let run := runOf l (q.drop j)
        if runFull run then fullStore (without run.length) n l (runData run)
        else partialStore (without 1) n l (e.pa % 64) e.data
      | _ => (splitLines e.pa e.data).foldl (fun s x => partialStore s n x.1 x.2.1 x.2.2) (without 1)

/-- A FENCE.W before an entry still waits for older stores. -/
def fenceBars (q : List FifoEntry) (j : Nat) : Bool :=
  (List.range (j + 1)).any (fun k => ((q[k]?).map FifoEntry.fence).getD false && (q.take k).any (fun o => !o.device))

/-- A core's request for a line waits: another core defers it (R268), or its brine holds it. -/
def lineHeld (s : State) (n l : Nat) : Bool :=
  (s.cached (l2Agent n) l).isNone
    && (memoryHeld s l || s.cores.any (fun e => decide (e.1 ≠ n) && decide (e.2.deferral = some l)))

/-- A request to write a line waits so too, from an L2 that may not write it. -/
def ownHeld (s : State) (n l : Nat) : Bool :=
  lineHeld s n l || (s.cores.any (fun e => decide (e.1 ≠ n) && decide (e.2.deferral = some l)))

/-- An entry may be written: no older entry of one of its lines waits, its lines are not held, and no FENCE.W bars it; and a release
waits for every older entry and every device store sent. -/
def writable (s : State) (n j : Nat) : Bool :=
  let c := s.core n
  match c.fifo[j]? with
  | none => false
  | some e =>
    let older := c.fifo.take j
    !e.device && !older.any (fun o => !o.device && sharesLine o e) && !fenceBars c.fifo j && !e.lines.any (ownHeld s n)
      && (!e.release || (older.isEmpty && c.outstanding.isEmpty))

/-- Entries that may be written, oldest first. -/
def writables (s : State) (n : Nat) : List Nat := (List.range (s.core n).fifo.length).filter (writable s n)

/-- Every entry that may be written is written. -/
def drainNormal (fuel : Nat) (s : State) (n : Nat) : State :=
  match fuel with
  | 0 => s
  | k + 1 =>
    match writables s n with
    | [] => s
    | j :: _ => drainNormal k (writeAt s n j) n

def fifoSize : Nat := 96

def drainFifo (s : State) (n : Nat) : State := drainNormal fifoSize s n

/-- Stores to normal memory are still waiting. -/
def waitingStores (s : State) (n : Nat) : Bool := (s.core n).fifo.any (fun e => !e.device)

/-- The L2 owns every line of an entry, so it may pass older ones. -/
def ownsEntry (s : State) (n : Nat) (e : FifoEntry) : Bool :=
  !e.direct && e.lines.all (fun l => match s.cached (l2Agent n) l with
    | some c => decide (c.st = .m) || decide (c.st = .e)
    | none => false)

/-- While the detector is engaged, stores to the next line wait for their line to fill. -/
def heldForLine (s : State) (n j : Nat) : Bool :=
  let c := s.core n
  match c.fifo[j]?, c.strLine with
  | some e, some p =>
    c.engaged && decide (e.lines = [p + 1])
      && (let run := runOf (p + 1) (c.fifo.drop j); !runFull run && (c.fifo.drop (j + run.length)).isEmpty)
  | _, _ => false

/-- Entries the hardware may write now of its own accord. -/
def drainable (s : State) (n : Nat) : List Nat :=
  let c := s.core n
  let js := writables s n
  (js.filter (fun j => decide (js.head? = some j) || (match c.fifo[j]? with
    | some e => ownsEntry s n e
    | none => false))).filter (fun j => !heldForLine s n j)

/-- A free number of free choices among them. -/
def drainFree (fuel : Nat) (s : State) (n i : Nat) : State :=
  match fuel with
  | 0 => s
  | k + 1 =>
    let js := drainable s n
    if js.isEmpty then s else drainFree k (writeAt s n (js.getD (s.draw i % js.length) 0)) n (i + 1)

/-- Between commands every core's FIFO may drain. -/
def drainSome (s : State) : State :=
  (s.cores.map Prod.fst).foldl (fun s n =>
    if waitingStores s n then
      drainFree (s.draw (1000000 + 128 * n) % ((s.core n).fifo.length + 1)) s n (1000001 + 128 * n)
    else s) s

/-- Room in the FIFO: entries are written until the new ones fit; none where none can be written. -/
def makeRoom (fuel : Nat) (s : State) (n k : Nat) : Option State :=
  if (s.core n).fifo.length + k ≤ fifoSize then some s
  else
    match fuel with
    | 0 => none
    | f + 1 =>
      match writables s n with
      | [] => none
      | j :: _ => makeRoom f (writeAt s n j) n k

/-- The first store to normal memory after a FENCE.W carries it. -/
def fenceFirst (es : List FifoEntry) : List FifoEntry :=
  match es with
  | [] => []
  | e :: r => if e.device then e :: fenceFirst r else { e with fence := true } :: r

def pushFifo (s : State) (n : Nat) (es : List FifoEntry) : Option State :=
  (makeRoom fifoSize s n es.length).map (fun s => s.updCore n (fun c =>
    if c.fenced ∧ es.any (fun e => !e.device) then { c with fifo := c.fifo ++ fenceFirst es, fenced := false }
    else { c with fifo := c.fifo ++ es }))

/-! ### The write-combining buffer (R259) -/

def wcLimit : Nat := 16

/-- A line of the buffer is written to its home as an invalidating write. -/
def writeWc (s : State) (n : Nat) (w : WcLine) : State :=
  let s1 := s.updCore n (fun c => { c with wc := c.wc.filter (fun x => x.line ≠ w.line) })
  let full := decide (w.bytes.length = 64)
  let s2 := invalidate (spendLine s1 w.line 0) w.line none full
  let d := (List.range 64).map (fun i =>
    let h : Half := tget 0 w.bytes i
    if h = 0 then (s2.homeLine w.line).getD i 0 else BitVec.ofNat 8 h.toNat)
  w.bytes.foldl (fun s e => s.unkeep (w.line * 64 + e.1) 1) (s2.homeWrite w.line d (!full && s2.homePoison w.line) none)

def flushWc (s : State) (n : Nat) : State := (s.core n).wc.foldl (fun s w => writeWc s n w) s

/-- An access to a line of the buffer writes that line first. -/
def flushWcLines (s : State) (n : Nat) (ls : List Nat) : State :=
  ((s.core n).wc.filter (fun w => ls.contains w.line)).foldl (fun s w => writeWc s n w) s

/-- Bytes enter a line of the buffer; the oldest line makes room; a full line is written. -/
def wcPut (s : State) (n l off : Nat) (bs : List Byte) : State :=
  let c := s.core n
  let s1 :=
    if c.wc.any (fun w => w.line = l) ∨ c.wc.length < wcLimit then s
    else match c.wc with
      | [] => s
      | w :: _ => writeWc s n w
  let c1 := s1.core n
  let put (t : Table Half) : Table Half := tputs 0 t off (bs.map (fun b => BitVec.ofNat 16 (256 + b.toNat)))
  let wc := if c1.wc.any (fun w => w.line = l) then c1.wc.map (fun w => if w.line = l then { w with bytes := put w.bytes } else w)
    else c1.wc ++ [{ line := l, bytes := put [] }]
  let s2 := s1.updCore n (fun c => { c with wc := wc })
  match wc.find? (fun w => decide (w.line = l) && decide (w.bytes.length = 64)) with
  | some w => writeWc s2 n w
  | none => s2

/-! ### Device stores (R261, R271, R273) -/

/-- A device store has failed: an error is pending on its page, later stores to the page are discarded, and the failure is
recorded. -/
def failStore (s : State) (n : Nat) (e : FifoEntry) (cause : Nat) : State :=
  let gone := ((s.core n).fifo.filter (fun x => x.device && decide (x.page = e.page))).length
  let s1 := s.updCore n (fun c => { c with
    fifo := c.fifo.filter (fun x => !(x.device && decide (x.page = e.page)))
    pendingErr := (c.pendingErr ++ [e.page]).eraseDups })
  recordDevice s1 n e.pa cause true gone

/-- The device store that may leave: the first of its page, with none of the page sent and fewer than 8 sent; a release after
everything older (R255). -/
def sendable (c : Core) : Option Nat :=
  if 8 ≤ c.outstanding.length then none
  else
    (List.range c.fifo.length).find? (fun j =>
      match c.fifo[j]? with
      | some e => e.device && !(c.fifo.take j).any (fun o => o.device && decide (o.page = e.page))
          && !c.outstanding.any (fun o => decide (o.page = e.page))
          && (!e.release || (decide (j = 0) && c.outstanding.isEmpty))
      | none => false)

/-- Device stores leave the core as R261 lets them. One to an unpopulated window fails at once (R309). -/
def sendDevice (fuel : Nat) (s : State) (n : Nat) : State :=
  match fuel with
  | 0 => s
  | k + 1 =>
    match sendable (s.core n) with
    | none => s
    | some j =>
      match (s.core n).fifo[j]? with
      | none => s
      | some e =>
        let s1 := s.updCore n (fun c => { c with fifo := c.fifo.eraseIdx j })
        if targetOf s e.pa = .absent then sendDevice k (failStore s1 n e 2) n
        else sendDevice k (s1.updCore n (fun c => { c with outstanding := c.outstanding ++ [e] })) n

/-- The pending error of a page is taken at the first access to it. -/
def takePending (s : State) (n pa : Nat) : State :=
  takeAbort (s.updCore n (fun c => { c with pendingErr := c.pendingErr.filter (fun p => p ≠ pa / 65536) })) n
    (.external (s.core n).abtCause) pa

/-- Device stores of one instruction: the page's pending abort, or its entries in the FIFO. -/
def deviceStores (s : State) (n : Nat) (es : List FifoEntry) : Option State :=
  match es.find? (fun e => (s.core n).pendingErr.contains e.page) with
  | some e => some (takePending s n e.pa)
  | none => (pushFifo s n es).map (fun s => sendDevice fifoSize s n)

/-- A device load that fails (R272). -/
def failLoad (s : State) (n pa cause : Nat) : State :=
  takeAbort ((recordDevice s n pa cause false 0).updCore n (fun c => { c with devSent := none, devLoad := none })) n (.external cause) pa

def setResult (s : State) (n v : Nat) : State := s.updCore n (fun c => { c with result := BitVec.ofNat 256 v })

/-- A device load's part is there: its bytes join those before it. -/
def gotPart (s : State) (n v size : Nat) : State :=
  s.updCore n (fun c => { c with
    devSent := none
    devLoad := c.devLoad.map (fun d => { d with value := d.value + 2 ^ (8 * d.bytes) * v, bytes := d.bytes + size }) })

/-- A device access of a load is answered. -/
def answerPart (s : State) (n pa size : Nat) : State :=
  let r := devRead s pa size
  gotPart r.1 n r.2 size

/-! ### Loads -/

/-- Addresses of the bytes of an access. -/
def segAddrs (gs : List Seg) : List Nat := gs.flatMap (fun g => (List.range g.len).map (fun i => g.pa + i))

/-- The youngest waiting store's value of a byte. -/
def fifoByte (q : List FifoEntry) (pa : Nat) : Option Byte :=
  (q.reverse.find? (fun e => !e.device && decide (e.pa ≤ pa) && decide (pa < e.pa + e.data.length))).map
    (fun e => e.data.getD (pa - e.pa) 0)

/-- The lines of an access enter the L2, or are read at the home. -/
def obtain_ (s : State) (n : Nat) (gs : List Seg) : State :=
  gs.foldl (fun s g => if g.cacheable then (linesOf g.pa g.len).foldl (fun s l => coreShare s n l) s else spendRange s g.pa g.len 0) s

/-- A core as a reader of the vector engines' stores. -/
def Core.viewer (c : Core) : Viewer := { core := true, view := c.view, seen := c.seen }

/-- The core's loads note what they have read of the vector engines' stores, for a later fence (R215, R257). -/
def noteReads (s : State) (n : Nat) (free : Nat → Bool) (gs : List Seg) : State :=
  let ks := s.coh.kept
  let v := (s.core n).viewer
  let ms := gs.flatMap (fun g => foundRels v free 0 [] g.pa g.len ks)
  let ns := gs.flatMap (fun g => foundNos v free g.pa g.len ks)
  if ms.isEmpty ∧ ns.isEmpty then s
  else s.updCore n (fun c => { c with reads := (c.reads ++ ms).eraseDups, seen := (c.seen ++ ns).eraseDups })

/-- What the core's loads have read happens before what follows: an acquire at system scope (R257). -/
def acquireReads (s : State) (n : Nat) : State :=
  if (s.core n).reads.isEmpty then s
  else s.updCore n (fun c => { c with view := mergeView c.view (learned c.reads 3 c.viewer), reads := [] })

/-- What happens before a core's release is performed for every observer (entry 11). -/
def releaseView (s : State) (n : Nat) : State :=
  let v := (s.core n).view
  if v.isEmpty then s
  else s.updCoh (fun z => { z with
    kept := perform 3 (fun r => decide (r.number ≤ tget 0 v (threadKey r.pan r.bed r.slot r.lane))) z.kept })

/-- The bytes of parts of memory as the core finds them: it may miss a racing store of a vector engine (R221). -/
def coreBytes (s : State) (n : Nat) (gs : List Seg) : List Byte :=
  gs.flatMap (fun g => patch g.pa (s.cohBytes g.pa g.len) (missed (s.core n).viewer (fun i => s.missBit 50 i) 0 [] s.coh.kept))

/-- A read of memory and its value: a poisoned line gives a precise data abort (R290). -/
def readMemory (s : State) (n va : Nat) (gs : List Seg) : State × Option Nat :=
  let s1 := obtain_ s n gs
  match gs.find? (fun g => s1.poisoned g.pa g.len) with
  | some g => (takeAbort (poisonSeen s1 (dieOfCore (n / 24)) 2 (n % 24) g.pa) n .dataError va, none)
  | none => (noteReads s1 n (fun i => s1.missBit 50 i) gs, some (leNat (coreBytes s1 n gs)))

/-- A load of normal memory: from the FIFO where it covers every byte; where it covers some, after those entries are written. None
where it must wait: for them, or for a line that is held. -/
def normalLoad (s : State) (n va : Nat) (gs : List Seg) : Option (State × Option Nat) :=
  let s1 := flushWcLines s n (segLines gs)
  let found := (segAddrs gs).map (fifoByte (s1.core n).fifo)
  if found.all Option.isSome then some (s1, some (leNat (found.map (fun b => b.getD 0))))
  else if (segLines gs).any (lineHeld s1 n) then none
  else if found.any Option.isSome then
    let s2 := drainFifo s1 n
    if ((segAddrs gs).map (fifoByte (s2.core n).fifo)).any Option.isSome then none else some (readMemory s2 n va gs)
  else some (readMemory s1 n va gs)

/-- The next device access of a load: the page's pending abort; else it waits for the page's stores; else it is sent. Whether the
target answers at once is a free value (entry 47): one not answered stays sent until its answer, its timeout or its error response. -/
def pumpPart (s : State) (n pa size : Nat) (rest : List (Nat × Nat)) : State × Bool :=
  let c := s.core n
  let page := pa / 65536
  let left (s : State) : State := s.updCore n (fun c => { c with devLoad := c.devLoad.map (fun d => { d with todo := rest }) })
  if c.pendingErr.contains page then (takePending (s.updCore n (fun c => { c with devLoad := none })) n pa, false)
  else if c.fifo.any (fun e => e.device && decide (e.page = page)) ∨ c.outstanding.any (fun e => decide (e.page = page)) then (s, false)
  else if targetOf s pa = .absent then (failLoad s n pa 2, false)
  else if s.draw (3500 + rest.length) % 2 = 0 then (answerPart (left s) n pa size, true)
  else ((left s).updCore n (fun c => { c with devSent := some (pa, size) }), false)

/-- A load of device memory goes on: one part after the other, the lower address first (R262). -/
def pumpLoad (fuel : Nat) (s : State) (n : Nat) : State :=
  match fuel with
  | 0 => s
  | k + 1 =>
    let c := s.core n
    match c.devSent, c.devLoad with
    | none, some d =>
      match d.todo with
      | [] => setResult (s.updCore n (fun c => { c with devLoad := none })) n d.value
      | (pa, size) :: rest =>
        if isDevice pa then
          let x := pumpPart s n pa size rest
          if x.2 then pumpLoad k x.1 n else x.1
        else
          match normalLoad s n pa [{ pa := pa, len := size, cacheable := true }] with
          | none => s
          | some (s1, none) => s1.updCore n (fun c => { c with devLoad := none })
          | some (s1, some v) =>
            pumpLoad k (gotPart (s1.updCore n (fun c => { c with devLoad := c.devLoad.map (fun d => { d with todo := rest }) })) n v size) n
    | _, _ => s

/-- A load: translation, the MEMORY_TYPE abort of a vector access to device memory (R252), then the access. -/
def tryLoad (a : CoreAcc) (pair : Bool) (s : State) : Option State :=
  let va := a.va.toNat
  match coreSegs s a.core a.ctx .r va a.size pair with
  | (s1, .error e) => some (takeAbort s1 a.core e.1 e.2)
  | (s1, .ok gs) =>
    if !gs.any Seg.device then
      (normalLoad s1 a.core va gs).map (fun x => match x.2 with
        | some v => setResult x.1 a.core v
        | none => x.1)
    else if a.vec then some (takeAbort s1 a.core .memoryType va)
    else some (pumpLoad 5 (s1.updCore a.core (fun c => { c with devLoad := some { todo := gs.map (fun g => (g.pa, g.len)) } })) a.core)

/-- A release of the core is not performed. -/
def releaseWaits (s : State) (n : Nat) : Bool := ((s.core n).fifo ++ (s.core n).outstanding).any (fun e => e.release)

/-- No release waits: it is written with what precedes it, or the core waits. -/
def releasesDone (s : State) (n : Nat) : Option State :=
  if !releaseWaits s n then some s
  else
    let s1 := drainFifo s n
    if releaseWaits s1 n then none else some s1

/-- LOAD.ACQ: earlier releases are performed first (R255), and what it read happens before what follows. -/
def tryLoadAcq (a : CoreAcc) (s : State) : Option State :=
  ((releasesDone s a.core).bind (tryLoad a false)).map (fun s => acquireReads s a.core)

/-! ### Stores -/

/-- The entries of a store, one for each part. -/
def storeEntries (gs : List Seg) (data : List Byte) (direct release : Bool) : List FifoEntry :=
  match gs with
  | [] => []
  | g :: r =>
    { pa := g.pa, data := data.take g.len, device := g.device, direct := !g.device && (direct || !g.cacheable), release := release } ::
      storeEntries r (data.drop g.len) direct release

/-- A paired store is one entry where R264 holds, else one for each word (R263). -/
def pairWords (e : FifoEntry) : List FifoEntry :=
  if e.data.length ≤ 8 ∨ e.device ∨ (e.data.length = 16 ∧ e.pa % 16 = 0 ∧ !e.direct) then [e]
  else [{ e with data := e.data.take 8 }, { e with pa := e.pa + 8, data := e.data.drop 8 }]

/-- A store of bytes: to the FIFO. A paired store to device memory is two device stores (R262). -/
def storeTo (a : CoreAcc) (data : List Byte) (direct release pair : Bool) (s : State) : Option State :=
  let n := a.core
  match coreSegs s n a.ctx .w a.va.toNat data.length pair with
  | (s1, .error e) => some (takeAbort s1 n e.1 e.2)
  | (s1, .ok gs) =>
    let es := storeEntries gs data direct release
    if !gs.any Seg.device then pushFifo (flushWcLines s1 n (segLines gs)) n (if pair then es.flatMap pairWords else es)
    else if a.vec then some (takeAbort s1 n .memoryType a.va.toNat)
    else deviceStores (flushWcLines s1 n (segLines (gs.filter (fun g => !g.device)))) n es

/-- STORE.REL: the write-combining buffer is written, and the store enters the FIFO as a release. -/
def tryStoreRel (a : CoreAcc) (data : List Byte) (s : State) : Option State :=
  storeTo a data false true false (releaseView (flushWc s a.core) a.core)

/-- Older stores to some lines are written, or the core waits. -/
def fifoClear (s : State) (n : Nat) (ls : List Nat) : Option State :=
  let busy (t : State) : Bool := (t.core n).fifo.any (fun e => !e.device && e.lines.any (fun l => ls.contains l))
  if !busy s then some s
  else
    let s1 := drainFifo s n
    if busy s1 then none else some s1

/-- Older stores that a FENCE.W waits for are written before a store that passes the FIFO by, or the core waits (R256). -/
def fencePassed (s : State) (n : Nat) : Option State :=
  let c := s.core n
  if !(c.fenced || c.fifo.any (fun e => e.fence)) ∨ !waitingStores s n then some s
  else
    let s1 := drainFifo s n
    if waitingStores s1 n then none else some (s1.updCore n (fun c => { c with fenced := false }))

/-- A non-temporal store: into the write-combining buffer, or, on the PLN9-A12, into the FIFO; to device memory it is a device
store. -/
def tryNonTemporal (a : CoreAcc) (data : List Byte) (s : State) : Option State :=
  let n := a.core
  if !s.cfg.variant.full then storeTo a data true false false s
  else
    match coreSegs s n a.ctx .w a.va.toNat data.length with
    | (s1, .error e) => some (takeAbort s1 n e.1 e.2)
    | (s1, .ok gs) =>
      if gs.any Seg.device then storeTo a data false false false s
      else
        (fencePassed s1 n).bind (fun s1 => (fifoClear s1 n (segLines gs)).map (fun s1 =>
          (storeEntries gs data true false).foldl (fun s e =>
            (splitLines e.pa e.data).foldl (fun s x => wcPut s n x.1 x.2.1 x.2.2) s) s1))

/-! ### Atomics (R265) -/

def atmCode (o : AtmOp) : Nat :=
  match o with
  | .add => 0
  | .min => 1
  | .max => 2
  | .umin => 3
  | .umax => 4
  | .and => 5
  | .or => 6
  | .xor => 7
  | .exch => 8

/-- Every earlier access of the core is performed, or the core waits: what a release asks for (R255). -/
def allPerformed (s : State) (n : Nat) : Option State :=
  let s1 := drainFifo (flushWc s n) n
  if (s1.core n).fifo.isEmpty && (s1.core n).outstanding.isEmpty then some s1 else none

/-- The order of an atomic: 1 acquire, 2 release, 3 both. -/
def ordered (s : State) (n : Nat) (order : BitVec 2) : Option State :=
  if order.getLsbD 1 then (allPerformed s n).map (fun s => releaseView s n)
  else if order.getLsbD 0 then releasesDone s n
  else some s

/-- What an atomic with an acquire read happens before what follows. -/
def acquired (n : Nat) (order : BitVec 2) (s : State) : State := if order.getLsbD 0 then acquireReads s n else s

/-- Older stores to a line are written before an access that the L2 performs on it, and the line is not held. -/
def lineSettled (s : State) (n l : Nat) : Option State :=
  (fencePassed (flushWcLines s n [l]) n).bind (fun s1 =>
    (fifoClear s1 n [l]).bind (fun s2 => if ownHeld s2 n l then none else some s2))

/-- The frame of an atomic, LOAD.RSV and STORE.CND: alignment, translation, the memory type of R252, and settled older stores to the
line; then the access at its physical address. -/
def atomicAccess (a : CoreAcc) (size : Nat) (s : State) (f : Nat → State → Option State) : Option State :=
  let n := a.core
  let va := a.va.toNat
  if va % size ≠ 0 then some (takeAbort s n .alignment va)
  else
    match coreSegs s n a.ctx .a va size with
    | (s1, .error e) => some (takeAbort s1 n e.1 e.2)
    | (s1, .ok gs) =>
      match gs with
      | [g] =>
        if g.device ∨ !g.cacheable then some (takeAbort s1 n .memoryType va)
        else (lineSettled s1 n (lineOf g.pa)).bind (f g.pa)
      | _ => some s1

/-- A read-modify-write in the L2, on the line in M: the old value is the result. -/
def rmw (n va size pa : Nat) (new : Nat → Nat) (s : State) : State :=
  let l := lineOf pa
  let s1 := coreOwn s n l
  if s1.poisoned pa size then takeAbort (poisonSeen s1 (dieOfCore (n / 24)) 2 (n % 24) pa) n .dataError va
  else
    let old := s1.cohNat pa size
    let bs := leBytes size (new old)
    let s2 := noteReads s1 n (fun _ => false) [{ pa := pa, len := size, cacheable := true }]
    setResult (sawStore (pokeCached s2 (l2Agent n) l (pa % 64) bs) n pa bs) n old

def tryAtm (a : CoreAcc) (op : AtmOp) (order : BitVec 2) (x : Dword) (s : State) : Option State :=
  if a.size ≠ 4 ∧ a.size ≠ 8 then some s
  else
    (ordered s a.core order).bind (fun s =>
      atomicAccess a a.size s (fun pa s =>
        some (acquired a.core order
          (rmw a.core a.va.toNat a.size pa (fun old => atomicOp (atmCode op) a.size old (x.toNat % 2 ^ (8 * a.size))) s))))

def tryCasP (a : CoreAcc) (order : BitVec 2) (cmp new : BitVec 128) (s : State) : Option State :=
  (ordered s a.core order).bind (fun s =>
    atomicAccess a 16 s (fun pa s =>
      some (acquired a.core order (rmw a.core a.va.toNat 16 pa (fun old => if old = cmp.toNat then new.toNat else old) s))))

/-! ### Reservations (R266 to R268) -/

def tryLoadRsv (a : CoreAcc) (s : State) : Option State :=
  if a.size ≠ 4 ∧ a.size ≠ 8 then some s
  else
    atomicAccess a a.size (s.updCore a.core (fun c => { c with rsv := none, deferral := none })) (fun pa s =>
      let n := a.core
      let l := lineOf pa
      let s1 := coreShare s n l
      if s1.poisoned pa a.size then some (takeAbort (poisonSeen s1 (dieOfCore (n / 24)) 2 (n % 24) pa) n .dataError a.va.toNat)
      else
        let m : Bool := match s1.cached (l2Agent n) l with
          | some c => decide (c.st = .m)
          | none => false
        let g : Seg := { pa := pa, len := a.size, cacheable := true }
        some ((setResult (noteReads s1 n (fun _ => false) [g]) n (s1.cohNat pa a.size)).updCore n (fun c => { c with
          rsv := some { line := l, pa := pa, size := a.size }, deferral := if m then some l else none })))

/-- STORE.CND: it may fail with a valid reservation, as a free value says (R267); in a constrained loop it does not (R268). The
commands show no other instruction, so a loop with none between the two is taken for constrained (entry 48). -/
def tryStoreCnd (a : CoreAcc) (x : Dword) (s : State) : Option State :=
  if a.size ≠ 4 ∧ a.size ≠ 8 then some s
  else
    atomicAccess a a.size s (fun pa s =>
      let n := a.core
      let c := s.core n
      let ok := decide (c.rsv = some { line := lineOf pa, pa := pa, size := a.size }) && (c.inLoop || decide (s.draw 3600 % 2 = 0))
      let s1 := if ok then partialStore s n (lineOf pa) (pa % 64) (leBytes a.size x.toNat) else s
      some (s1.updCore n (fun c => { c with scFail := !ok, rsv := none, deferral := none })))

/-! ### Line instructions (R240, R241, R269) -/

/-- Translation, the memory type and older stores to the line; then the instruction's effect on the line. -/
def lineAccess (a : CoreAcc) (need : Need) (s : State) (f : Nat → Seg → State → State) : Option State :=
  let n := a.core
  let va := a.va.toNat / 64 * 64
  match coreSegs s n a.ctx need va 64 with
  | (s1, .error e) => some (takeAbort s1 n e.1 e.2)
  | (s1, .ok gs) =>
    match gs with
    | [g] =>
      if g.device then some (takeAbort s1 n .memoryType va)
      else (lineSettled s1 n (lineOf g.pa)).map (f (lineOf g.pa) g)
    | _ => some s1

def tryLineZero (a : CoreAcc) (s : State) : Option State :=
  lineAccess a .w s (fun l g s =>
    let z : List Byte := List.replicate 64 0
    if g.cacheable then fullStore s a.core l z else sawStore (cachelessBy 0 s (l * 64) z) a.core (l * 64) z)

/-- Every dirty copy goes to the home DRAM, and copies stay, clean: a line with one holder in E. -/
def coreClean (s0 : State) (l : Nat) : State :=
  let s := takeBack s0 l
  let hs := s.holders l
  match hs.find? (fun h => h.2.st.dirty) with
  | none => s.partClean l
  | some h =>
    let s1 := s.writeBack h.1 l h.2.data h.2.poison
    let x := ((s1.dirEntry l).map (fun e => decide (e.st = .x))).getD false
    let s2 := s1.setCached h.1 l (some { h.2 with st := if x then .e else .s })
    let s3 := match s2.dirEntry l with
      | some e => if e.st = DirState.o then s2.setDir l (some (({ e with st := .s, owner := 0xFF } : DirEntry).addSharer e.owner)) else s2
      | none => s2
    s3.partClean l

def flushLine (s : State) (l : Nat) : State := invalidate (coreClean s l) l none false

def tryLineClean (a : CoreAcc) (s : State) : Option State :=
  lineAccess a .r s (fun l _ s => coreClean s l)

def tryLineFlush (a : CoreAcc) (s : State) : Option State :=
  lineAccess a .r s (fun l _ s => flushLine s l)

/-- At user level LINE.INVAL acts as LINE.FLUSH. -/
def tryLineInval (a : CoreAcc) (s : State) : Option State :=
  lineAccess a .r s (fun l _ s =>
    if a.ctx.priv = .user then flushLine s l else invalidate s l none true)

/-! ### Fences and TLB invalidation (R256, R270, R348) -/

/-- A flood descriptor still holds a translation that an invalidation of this core matches. -/
def invalPending (s : State) (n : Nat) : Bool :=
  s.beds.any (fun e => e.2.flood.any (fun q => q.2.descs.any (fun d => d.heldBy.contains n)))

/-- Stores, non-temporal stores and maintenance are complete, or the core waits. -/
def storesDone (s : State) (n : Nat) : Option State :=
  let s1 := drainFifo (flushWc s n) n
  if waitingStores s1 n then none else some (s1.updCore n (fun c => { c with fenced := false }))

/-- FENCE.W holds back later stores alone: loads pass it while older stores wait (R256). -/
def fenceW (s : State) (n : Nat) : State :=
  let s1 := releaseView (flushWc s n) n
  if waitingStores s1 n then s1.updCore n (fun c => { c with fenced := true }) else s1

def tryFenceRw (n : Nat) (s : State) : Option State :=
  (storesDone s n).bind (fun s => if invalPending s n then none else some (releaseView (acquireReads s n) n))

/-- FENCE.IO takes the pending device abort; else it waits for every device store. -/
def tryFenceIo (n : Nat) (s : State) : Option State :=
  let c := s.core n
  if !c.pendingErr.isEmpty then
    some (takeAbort (s.updCore n (fun c => { c with pendingErr := [] })) n (.external c.abtCause) c.abtAddr)
  else
    (storesDone s n).bind (fun s =>
      if (s.core n).outstanding.isEmpty && (s.core n).fifo.isEmpty && !invalPending s n then
        some (releaseView (acquireReads s n) n)
      else none)

/-- A descriptor that holds a matching translation makes the invalidation wait. -/
def holdDesc (n : Nat) (asid va : Option Nat) (slotAsid : Nat → Nat) (d : FloodDesc) : FloodDesc :=
  let here := (match asid with
    | none => true
    | some a => decide (slotAsid d.slot = a)) &&
    (match va with
    | none => true
    | some v => d.pages.any (fun g => decide (g.1 ≤ v % 2 ^ 48) && decide (v % 2 ^ 48 < g.1 + g.2.1)))
  if here then { d with heldBy := (n :: d.heldBy).eraseDups } else d

/-- A broadcast invalidation at a pan: cached translations go, descriptors that hold one are waited for. -/
def invalPan (n : Nat) (asid va : Option Nat) (s : State) (p : Nat) : State :=
  let slotAsid (k : Nat) : Nat := (((s.pan p).root k).map Prod.snd).getD 0
  let s1 := s.updPan p (fun x => { x with tlb := x.tlb.filter (fun t => !t.matched asid va), invals := satAdd 32 x.invals 1 })
  beds16.foldl (fun s b =>
    if (s.bed p b).flood.any (fun q => !q.2.descs.isEmpty) then
      s.updBed p b (fun d => { d with
        flood := d.flood.map (fun q => (q.1, { q.2 with descs := q.2.descs.map (holdDesc n asid va slotAsid) })) })
    else s) s1

def tryTlbInvalidate (n : Nat) (asid va : Option Nat) (s : State) : Option State :=
  let s1 := (s.cores.map Prod.fst).foldl (fun s k => s.updCore k (fun c => { c with tlb := c.tlb.filter (fun t => !t.matched asid va) })) s
  some ((List.range s.cfg.variant.pans).foldl (invalPan n asid va) s1)

/-! ### One instruction -/

/-- An instruction of a core, or none where it must wait. -/
def tryInstr (i : Instr) (s : State) : Option State :=
  match i with
  | .coreLoad a => tryLoad a false s
  | .coreStore a data => storeTo a data false false false s
  | .nonTemporalStore a data => tryNonTemporal a data s
  | .loadAcq a => tryLoadAcq a s
  | .storeRel a data => tryStoreRel a data s
  | .atm a op order x => tryAtm a op order x s
  | .casP a order cmp new => tryCasP a order cmp new s
  | .loadRsv a => tryLoadRsv a s
  | .storeCnd a x => tryStoreCnd a x s
  | .pairedLoad a => tryLoad { a with size := 16, vec := false } true s
  | .pairedStore a lo hi => storeTo { a with vec := false } (leBytes 8 lo.toNat ++ leBytes 8 hi.toNat) false false true s
  | .deviceLoad a => tryLoad a false s
  | .deviceStore a x => storeTo a (leBytes a.size x.toNat) false false false s
  | .lineZero a => tryLineZero a s
  | .lineClean a => tryLineClean a s
  | .lineFlush a => tryLineFlush a s
  | .lineInval a => tryLineInval a s
  | .fenceR n => some (acquireReads s n)
  | .fenceW n => some (fenceW s n)
  | .fenceRw n => tryFenceRw n s
  | .fenceIo n => tryFenceIo n s
  | .fenceFetch n => some (s.updCore n (fun c => { c with discards := c.discards + 1 }))
  | .tlbInvalidate n asid va => tryTlbInvalidate n asid va s
  | _ => some s

/-- What the issue of an instruction does before it may have to wait: a fence and a release write the write-combining buffer
(R259). -/
def issued (i : Instr) (s : State) : State :=
  match i with
  | .fenceRw n => flushWc s n
  | .fenceIo n => flushWc s n
  | .storeRel a _ => flushWc s a.core
  | .atm a _ order _ => if order.getLsbD 1 then flushWc s a.core else s
  | .casP a order _ _ => if order.getLsbD 1 then flushWc s a.core else s
  | _ => s

/-- The privilege level that a command shows its core at. -/
def levelOf (i : Instr) : Option Priv :=
  match i with
  | .coreLoad a => some a.ctx.priv
  | .coreStore a _ => some a.ctx.priv
  | .nonTemporalStore a _ => some a.ctx.priv
  | .loadAcq a => some a.ctx.priv
  | .storeRel a _ => some a.ctx.priv
  | .atm a _ _ _ => some a.ctx.priv
  | .casP a _ _ _ => some a.ctx.priv
  | .loadRsv a => some a.ctx.priv
  | .storeCnd a _ => some a.ctx.priv
  | .pairedLoad a => some a.ctx.priv
  | .pairedStore a _ _ => some a.ctx.priv
  | .deviceLoad a => some a.ctx.priv
  | .deviceStore a _ => some a.ctx.priv
  | .lineZero a => some a.ctx.priv
  | .lineClean a => some a.ctx.priv
  | .lineFlush a => some a.ctx.priv
  | .lineInval a => some a.ctx.priv
  | _ => none

/-- What a core's next instruction says of the core: its level, and whether it may lie in a constrained loop (R268, entry 48). -/
def Core.next (c : Core) (i : Instr) : Core :=
  { c with
    priv := (levelOf i).getD c.priv
    inLoop := match i with
      | .loadRsv _ => true
      | .storeCnd _ _ => c.inLoop
      | _ => false }

/-- The instruction a core waits at is tried again. -/
def retry (s : State) (n : Nat) : State :=
  if (s.core n).devSent.isSome then s
  else if (s.core n).devLoad.isSome then pumpLoad 5 s n
  else
    match (s.core n).stall with
    | none => s
    | some i =>
      match tryInstr i (s.updCore n (fun c => { c with stall := none })) with
      | some t => t
      | none => s

/-- The core waits at an instruction. -/
def coreWaits (s : State) (n : Nat) : Bool := (s.core n).stall.isSome || (s.core n).devSent.isSome || (s.core n).devLoad.isSome

/-- A core's instruction: FIFOs may have drained, and an instruction the core waited at is complete or its command cannot arrive yet
(entry 9). One that must wait is held. -/
def coreCmd (n : Nat) (i : Instr) (s : State) : Host.Outcome State Fault Refusal :=
  if !coreRuns s n then go s
  else
    let s1 := retry (drainSome s) n
    if coreWaits s1 n then go s1.drawn
    else
      let s2 := issued i (s1.updCore n (fun c => c.next i))
      match tryInstr i s2 with
      | some t => go t.drawn
      | none => go (s2.updCore n (fun c => { c with stall := some i })).drawn

def execCoreLoad (a : CoreAcc) (s : State) : Host.Outcome State Fault Refusal := coreCmd a.core (.coreLoad a) s
def execCoreStore (a : CoreAcc) (data : List Byte) (s : State) : Host.Outcome State Fault Refusal := coreCmd a.core (.coreStore a data) s
def execNonTemporalStore (a : CoreAcc) (data : List Byte) (s : State) : Host.Outcome State Fault Refusal :=
  coreCmd a.core (.nonTemporalStore a data) s
def execLoadAcq (a : CoreAcc) (s : State) : Host.Outcome State Fault Refusal := coreCmd a.core (.loadAcq a) s
def execStoreRel (a : CoreAcc) (data : List Byte) (s : State) : Host.Outcome State Fault Refusal := coreCmd a.core (.storeRel a data) s
def execAtm (a : CoreAcc) (op : AtmOp) (order : BitVec 2) (operand : Dword) (s : State) : Host.Outcome State Fault Refusal :=
  coreCmd a.core (.atm a op order operand) s
def execCasP (a : CoreAcc) (order : BitVec 2) (cmp new : BitVec 128) (s : State) : Host.Outcome State Fault Refusal :=
  coreCmd a.core (.casP a order cmp new) s
def execLoadRsv (a : CoreAcc) (s : State) : Host.Outcome State Fault Refusal := coreCmd a.core (.loadRsv a) s
def execStoreCnd (a : CoreAcc) (data : Dword) (s : State) : Host.Outcome State Fault Refusal := coreCmd a.core (.storeCnd a data) s
def execPairedLoad (a : CoreAcc) (s : State) : Host.Outcome State Fault Refusal := coreCmd a.core (.pairedLoad a) s
def execPairedStore (a : CoreAcc) (lo hi : Dword) (s : State) : Host.Outcome State Fault Refusal :=
  coreCmd a.core (.pairedStore a lo hi) s
def execDeviceLoad (a : CoreAcc) (s : State) : Host.Outcome State Fault Refusal := coreCmd a.core (.deviceLoad a) s
def execDeviceStore (a : CoreAcc) (data : Dword) (s : State) : Host.Outcome State Fault Refusal :=
  coreCmd a.core (.deviceStore a data) s
def execLineZero (a : CoreAcc) (s : State) : Host.Outcome State Fault Refusal := coreCmd a.core (.lineZero a) s
def execLineClean (a : CoreAcc) (s : State) : Host.Outcome State Fault Refusal := coreCmd a.core (.lineClean a) s
def execLineFlush (a : CoreAcc) (s : State) : Host.Outcome State Fault Refusal := coreCmd a.core (.lineFlush a) s
def execLineInval (a : CoreAcc) (s : State) : Host.Outcome State Fault Refusal := coreCmd a.core (.lineInval a) s
def execFenceR (core : Nat) (s : State) : Host.Outcome State Fault Refusal := coreCmd core (.fenceR core) s
def execFenceW (core : Nat) (s : State) : Host.Outcome State Fault Refusal := coreCmd core (.fenceW core) s
def execFenceRw (core : Nat) (s : State) : Host.Outcome State Fault Refusal := coreCmd core (.fenceRw core) s
def execFenceIo (core : Nat) (s : State) : Host.Outcome State Fault Refusal := coreCmd core (.fenceIo core) s
def execFenceFetch (core : Nat) (s : State) : Host.Outcome State Fault Refusal := coreCmd core (.fenceFetch core) s
def execTlbInvalidate (core : Nat) (asid va : Option Nat) (s : State) : Host.Outcome State Fault Refusal :=
  coreCmd core (.tlbInvalidate core asid va) s

/-! ### Events of a core -/

/-- WC_LINE_TIMEOUT: 512 cycles without a store to the line. -/
def execWcLineTimeout (core line : Nat) (s : State) : Host.Outcome State Fault Refusal :=
  if coreRuns s core then go (flushWcLines s core [line]).drawn else go s

/-- DEFERRAL_TIMEOUT: the deferral of external requests ends; the reservation stays. -/
def execDeferralTimeout (core : Nat) (s : State) : Host.Outcome State Fault Refusal :=
  go (s.updCore core (fun c => { c with deferral := none }))

/-- EXCEPTION_ENTRY: no fence, but the reservation clears. A fence or an access that waits has no effect and is executed again on
return; a device load that has left the core completes first. -/
def execExceptionEntry (core : Nat) (s : State) : Host.Outcome State Fault Refusal :=
  if !coreRuns s core ∨ (s.core core).devSent.isSome ∨ ((s.core core).devLoad.map (fun d => decide (0 < d.bytes))).getD false then go s
  else go (s.updCore core (fun c => { c with
    rsv := none, deferral := none, stall := none, devLoad := none, inLoop := false
    priv := if c.priv = .user then .supervisor else c.priv }))

def execExceptionReturn (core : Nat) (s : State) : Host.Outcome State Fault Refusal :=
  if !coreRuns s core ∨ coreWaits s core then go s
  else go (s.updCore core (fun c => { c with rsv := none, deferral := none, inLoop := false }))

/-- A device store of a page that has been sent. -/
def sentStore (s : State) (n page : Nat) : Option FifoEntry := (s.core n).outstanding.find? (fun e => e.page = page)

/-- A device load of a page that has been sent. -/
def sentLoad (s : State) (n page : Nat) : Option (Nat × Nat) :=
  match (s.core n).devSent with
  | some x => if x.1 / 65536 = page then some x else none
  | none => none

def forgetSent (s : State) (n page : Nat) : State :=
  s.updCore n (fun c => { c with outstanding := c.outstanding.filter (fun e => e.page ≠ page) })

/-- A page is free again: the next device stores leave, and the instruction the core waits at is tried. -/
def resume (s : State) (n : Nat) : State := (retry (sendDevice fifoSize s n) n).drawn

/-- DEVICE_ACK: the page's store is performed and acknowledged. A sent load is answered. -/
def execDeviceAck (core page : Nat) (s : State) : Host.Outcome State Fault Refusal :=
  match sentStore s core page, sentLoad s core page with
  | some e, _ => go (resume (devWrite (forgetSent s core page) e.pa e.data) core)
  | none, some x => go (resume (answerPart s core x.1 x.2) core)
  | none, none => go s

/-- DEVICE_ACCESS_TIMEOUT: whether the store that got no response was performed is a free value (entry 47). -/
def execDeviceAccessTimeout (core page : Nat) (s : State) : Host.Outcome State Fault Refusal :=
  match sentStore s core page, sentLoad s core page with
  | some e, _ =>
    let s1 := forgetSent s core page
    go (resume (failStore (if s.draw 3501 % 2 = 1 then devWrite s1 e.pa e.data else s1) core e 1) core)
  | none, some x => go (resume (failLoad s core x.1 1) core)
  | none, none => go s

/-- DEVICE_ERROR_RESPONSE. -/
def execDeviceErrorResponse (core page : Nat) (s : State) : Host.Outcome State Fault Refusal :=
  match sentStore s core page, sentLoad s core page with
  | some e, _ => go (resume (failStore (forgetSent s core page) core e 2) core)
  | none, some x => go (resume (failLoad s core x.1 2) core)
  | none, none => go s

end Sys2Proof.Machine
end

