-- ==== Sys2Proof/Machine/Scalar.lean ====
section
/-!
DEFINITION. The scalar instructions of R147 (R117, R129, R130). -/

namespace Sys2Proof.Machine

/-- sd := op a b on 64-bit integers. -/
def sBinary (op : Dword → Dword → Dword) (a : At) (f : SFmt) (s : State) : State :=
  scalarWrite a f s (fun c => op (c.rake.sget f.sa.toNat) (sopB c f))

def execSadd (a : At) (f : SFmt) (s : State) : Host.Outcome State Fault Refusal := go (sBinary (· + ·) a f s)
def execSsub (a : At) (f : SFmt) (s : State) : Host.Outcome State Fault Refusal := go (sBinary (· - ·) a f s)
def execSmul (a : At) (f : SFmt) (s : State) : Host.Outcome State Fault Refusal := go (sBinary (· * ·) a f s)
def execSand (a : At) (f : SFmt) (s : State) : Host.Outcome State Fault Refusal := go (sBinary (· &&& ·) a f s)
def execSor (a : At) (f : SFmt) (s : State) : Host.Outcome State Fault Refusal := go (sBinary (· ||| ·) a f s)
def execSxor (a : At) (f : SFmt) (s : State) : Host.Outcome State Fault Refusal := go (sBinary (· ^^^ ·) a f s)

/-- A shift of a scalar; the manual states no result for a count of 64 or more, which gives a free value (entry 16). -/
def sShift (op : Dword → Nat → Dword) (a : At) (f : SFmt) (s : State) : State :=
  scalarOp a f s (fun c s =>
    let n := (sopB c f).toNat
    let v := if n < 64 then op (c.rake.sget f.sa.toNat) n else BitVec.ofNat 64 (s.draw 2100)
    .ok (c.put s (c.rake.sset f.sd.toNat v)))

def execSshl (a : At) (f : SFmt) (s : State) : Host.Outcome State Fault Refusal := go (sShift (fun x n => x <<< n) a f s)

/-- SSHR shifts zeros in (entry 18). -/
def execSshr (a : At) (f : SFmt) (s : State) : Host.Outcome State Fault Refusal := go (sShift (fun x n => x >>> n) a f s)

def execSmov (a : At) (f : SFmt) (s : State) : Host.Outcome State Fault Refusal := go (scalarWrite a f s (fun c => sopB c f))

/-- SMOVH: bits [63:32] of sd from b. -/
def execSmovh (a : At) (f : SFmt) (s : State) : Host.Outcome State Fault Refusal :=
  go (scalarWrite a f s (fun c => (sopB c f).truncate 32 ++ (c.rake.sget f.sd.toNat).truncate 32))

/-- SCMP: the condition in imm32[2:0], on signed integers (entry 18); code 7 is reserved. -/
def execScmp (a : At) (f : SFmt) (s : State) : Host.Outcome State Fault Refusal :=
  go (scalarOp a f s (fun c s =>
    match condInt (f.imm32.toNat % 8) (c.rake.sget f.sa.toNat).toInt (sopB c f).toInt with
    | none => illegal
    | some b => .ok (c.put s (c.rake.sset f.sd.toNat (if b then 1 else 0)))))

/-- The logical pan of a physical pan under the running plan (R46). -/
def State.logicalPan (s : State) (p : Nat) : Nat :=
  match s.plan s.slotRun with
  | some pl => (findIdxD (fun x => x == p) pl.binding 0).getD p
  | none => p

/-- The special registers of R147; none where the selector is reserved. The cycle count is a free value (entry 12). -/
def specialReg (c : Issue) (s : State) (sel : Nat) : Option Dword :=
  match sel with
  | 0 => some (BitVec.ofNat 64 c.a.bed)
  | 1 => some (BitVec.ofNat 64 (s.logicalPan c.a.pan))
  | 2 => some (BitVec.ofNat 64 (s.draw 2101))
  | 3 => some (BitVec.ofNat 64 (s.bed c.a.pan c.a.bed).kernel)
  | 4 => some (BitVec.ofNat 64 c.a.slot)
  | 5 => some (c.active.zeroExtend 64)
  | 6 => some (c.rake.live.zeroExtend 64)
  | _ => none

def execSread (a : At) (f : SFmt) (s : State) : Host.Outcome State Fault Refusal :=
  go (scalarOp a f s (fun c s =>
    match specialReg c s (f.imm32.toNat % 256) with
    | none => illegal
    | some v => .ok (c.put s (c.rake.sset f.sd.toNat v))))

/-- SFROMV: lane imm32[4:0] of v[sa] to sd. -/
def execSfromv (a : At) (f : SFmt) (s : State) : Host.Outcome State Fault Refusal :=
  go (scalarOp a f s (fun c s =>
    if !c.rake.regOk f.sa.toNat 1 then illegal
    else .ok (c.put s (c.rake.sset f.sd.toNat ((c.rake.vget f.sa.toNat (f.imm32.toNat % 32)).zeroExtend 64)))))

end Sys2Proof.Machine
end

