-- ==== Sys2Proof/Machine/Dispatch.lean ====
section
/-!
DEFINITION. The dispatch: one arm per command, each one call of its meaning. -/

namespace Sys2Proof.Machine

def exec (i : Instr) (s : State) : Host.Outcome State Fault Refusal :=
  match i with
  | .caps box => Sys2Proof.Machine.execCaps box s
  | .stateQuery box => Sys2Proof.Machine.execStateQuery box s
  | .stateEnterMaint box => Sys2Proof.Machine.execStateEnterMaint box s
  | .stateLeaveMaint box => Sys2Proof.Machine.execStateLeaveMaint box s
  | .stateReleasePortHold box => Sys2Proof.Machine.execStateReleasePortHold box s
  | .planLoad box => Sys2Proof.Machine.execPlanLoad box s
  | .planLoadFinal box => Sys2Proof.Machine.execPlanLoadFinal box s
  | .planUnload box => Sys2Proof.Machine.execPlanUnload box s
  | .tideStart box => Sys2Proof.Machine.execTideStart box s
  | .tideStop box => Sys2Proof.Machine.execTideStop box s
  | .agentAdmit box => Sys2Proof.Machine.execAgentAdmit box s
  | .agentEvict box => Sys2Proof.Machine.execAgentEvict box s
  | .agentPrefetch box => Sys2Proof.Machine.execAgentPrefetch box s
  | .agentAdviseSpill box => Sys2Proof.Machine.execAgentAdviseSpill box s
  | .agentAdviseGrow box => Sys2Proof.Machine.execAgentAdviseGrow box s
  | .agentAdviseRelease box => Sys2Proof.Machine.execAgentAdviseRelease box s
  | .regionRegister box => Sys2Proof.Machine.execRegionRegister box s
  | .regionRegisterFinal box => Sys2Proof.Machine.execRegionRegisterFinal box s
  | .regionDeregister box => Sys2Proof.Machine.execRegionDeregister box s
  | .regionDeregisterFinal box => Sys2Proof.Machine.execRegionDeregisterFinal box s
  | .panOffline box => Sys2Proof.Machine.execPanOffline box s
  | .panOfflineComplete box => Sys2Proof.Machine.execPanOfflineComplete box s
  | .panCutOver pan => Sys2Proof.Machine.execPanCutOver pan s
  | .panOnline box => Sys2Proof.Machine.execPanOnline box s
  | .panOnlineComplete box signature again => Sys2Proof.Machine.execPanOnlineComplete box signature again s
  | .bistRun box => Sys2Proof.Machine.execBistRun box s
  | .bistComplete box logic mem logicAgain memAgain => Sys2Proof.Machine.execBistComplete box logic mem logicAgain memAgain s
  | .fwStage box => Sys2Proof.Machine.execFwStage box s
  | .fwStageComplete box => Sys2Proof.Machine.execFwStageComplete box s
  | .fwSwitch box => Sys2Proof.Machine.execFwSwitch box s
  | .attest box => Sys2Proof.Machine.execAttest box s
  | .windowSet box => Sys2Proof.Machine.execWindowSet box s
  | .stopAll src => Sys2Proof.Machine.execStopAll src s
  | .mboxRequesterWrite box off val => Sys2Proof.Machine.execMboxRequesterWrite box off val s
  | .verify pa len type => Sys2Proof.Machine.execVerify pa len type s
  | .extend m item => Sys2Proof.Machine.execExtend m item s
  | .report nonce => Sys2Proof.Machine.execReport nonce s
  | .random n => Sys2Proof.Machine.execRandom n s
  | .repair entry => Sys2Proof.Machine.execRepair entry s
  | .protect req => Sys2Proof.Machine.execProtect req s
  | .keyload die => Sys2Proof.Machine.execKeyload die s
  | .drbgReseed healthy => Sys2Proof.Machine.execDrbgReseed healthy s
  | .mpuFault target => Sys2Proof.Machine.execMpuFault target s
  | .heartbeatMiss => Sys2Proof.Machine.execHeartbeatMiss s
  | .liquorRestartLimit => Sys2Proof.Machine.execLiquorRestartLimit s
  | .controlDieSwitchover => Sys2Proof.Machine.execControlDieSwitchover s
  | .tideTick n => Sys2Proof.Machine.execTideTick n s
  | .watchPoint n => Sys2Proof.Machine.execWatchPoint n s
  | .skipNotice m => Sys2Proof.Machine.execSkipNotice m s
  | .planStalled => Sys2Proof.Machine.execPlanStalled s
  | .timeSyncMessage stop driftPs => Sys2Proof.Machine.execTimeSyncMessage stop driftPs s
  | .ptpMessage m => Sys2Proof.Machine.execPtpMessage m s
  | .ptpLocked => Sys2Proof.Machine.execPtpLocked s
  | .syncTimeout => Sys2Proof.Machine.execSyncTimeout s
  | .holdoverLimit => Sys2Proof.Machine.execHoldoverLimit s
  | .tideInEdge at_ns => Sys2Proof.Machine.execTideInEdge at_ns s
  | .tideInMissing => Sys2Proof.Machine.execTideInMissing s
  | .tideInFallback => Sys2Proof.Machine.execTideInFallback s
  | .sourceChange => Sys2Proof.Machine.execSourceChange s
  | .kernelStart pan bed => Sys2Proof.Machine.execKernelStart pan bed s
  | .blockStart pan bed index => Sys2Proof.Machine.execBlockStart pan bed index s
  | .blockEnd pan bed index => Sys2Proof.Machine.execBlockEnd pan bed index s
  | .barrierOrphan pan bed index => Sys2Proof.Machine.execBarrierOrphan pan bed index s
  | .vadd a f => Sys2Proof.Machine.execVadd a f s
  | .vsub a f => Sys2Proof.Machine.execVsub a f s
  | .vmul a f => Sys2Proof.Machine.execVmul a f s
  | .vfma a f => Sys2Proof.Machine.execVfma a f s
  | .vmin a f => Sys2Proof.Machine.execVmin a f s
  | .vmax a f => Sys2Proof.Machine.execVmax a f s
  | .vcmp a f => Sys2Proof.Machine.execVcmp a f s
  | .vsel a f => Sys2Proof.Machine.execVsel a f s
  | .vand a f => Sys2Proof.Machine.execVand a f s
  | .vor a f => Sys2Proof.Machine.execVor a f s
  | .vxor a f => Sys2Proof.Machine.execVxor a f s
  | .vshl a f => Sys2Proof.Machine.execVshl a f s
  | .vshr a f => Sys2Proof.Machine.execVshr a f s
  | .vmov a f => Sys2Proof.Machine.execVmov a f s
  | .vcvt a f => Sys2Proof.Machine.execVcvt a f s
  | .vadd96 a f => Sys2Proof.Machine.execVadd96 a f s
  | .vrcp a f => Sys2Proof.Machine.execVrcp a f s
  | .vrsq a f => Sys2Proof.Machine.execVrsq a f s
  | .vexp2 a f => Sys2Proof.Machine.execVexp2 a f s
  | .vlog2 a f => Sys2Proof.Machine.execVlog2 a f s
  | .vsin a f => Sys2Proof.Machine.execVsin a f s
  | .vcos a f => Sys2Proof.Machine.execVcos a f s
  | .vlane a f => Sys2Proof.Machine.execVlane a f s
  | .vbits a f => Sys2Proof.Machine.execVbits a f s
  | .sadd a f => Sys2Proof.Machine.execSadd a f s
  | .ssub a f => Sys2Proof.Machine.execSsub a f s
  | .smul a f => Sys2Proof.Machine.execSmul a f s
  | .sand a f => Sys2Proof.Machine.execSand a f s
  | .sor a f => Sys2Proof.Machine.execSor a f s
  | .sxor a f => Sys2Proof.Machine.execSxor a f s
  | .sshl a f => Sys2Proof.Machine.execSshl a f s
  | .sshr a f => Sys2Proof.Machine.execSshr a f s
  | .smov a f => Sys2Proof.Machine.execSmov a f s
  | .smovh a f => Sys2Proof.Machine.execSmovh a f s
  | .scmp a f => Sys2Proof.Machine.execScmp a f s
  | .sread a f => Sys2Proof.Machine.execSread a f s
  | .sfromv a f => Sys2Proof.Machine.execSfromv a f s
  | .bra a f => Sys2Proof.Machine.execBra a f s
  | .brx a f => Sys2Proof.Machine.execBrx a f s
  | .call a f => Sys2Proof.Machine.execCall a f s
  | .sbra a f => Sys2Proof.Machine.execSbra a f s
  | .exit a f => Sys2Proof.Machine.execExit a f s
  | .syncRake a f => Sys2Proof.Machine.execSyncRake a f s
  | .barBlock a f => Sys2Proof.Machine.execBarBlock a f s
  | .fence a f => Sys2Proof.Machine.execFence a f s
  | .trap a f => Sys2Proof.Machine.execTrap a f s
  | .nop a f => Sys2Proof.Machine.execNop a f s
  | .ld a f => Sys2Proof.Machine.execLd a f s
  | .st a f => Sys2Proof.Machine.execSt a f s
  | .atom a f => Sys2Proof.Machine.execAtom a f s
  | .atomCas a f => Sys2Proof.Machine.execAtomCas a f s
  | .shfl a f => Sys2Proof.Machine.execShfl a f s
  | .vote a f => Sys2Proof.Machine.execVote a f s
  | .bcast a f => Sys2Proof.Machine.execBcast a f s
  | .reduce a f => Sys2Proof.Machine.execReduce a f s
  | .scan a f => Sys2Proof.Machine.execScan a f s
  | .sample a f => Sys2Proof.Machine.execSample a f s
  | .mma a f => Sys2Proof.Machine.execMma a f s
  | .mmaDrain a f => Sys2Proof.Machine.execMmaDrain a f s
  | .mmaLoad a f => Sys2Proof.Machine.execMmaLoad a f s
  | .mmaStat a f => Sys2Proof.Machine.execMmaStat a f s
  | .grainKeyLane a f => Sys2Proof.Machine.execGrainKeyLane a f s
  | .grainKeyDrain a f => Sys2Proof.Machine.execGrainKeyDrain a f s
  | .grainDraw a f => Sys2Proof.Machine.execGrainDraw a f s
  | .dropmask a f => Sys2Proof.Machine.execDropmask a f s
  | .kvAppend a f => Sys2Proof.Machine.execKvAppend a f s
  | .kvCommit a f => Sys2Proof.Machine.execKvCommit a f s
  | .kvDiscard a f => Sys2Proof.Machine.execKvDiscard a f s
  | .dmaCopy a f => Sys2Proof.Machine.execDmaCopy a f s
  | .dmaAgentFetch a f => Sys2Proof.Machine.execDmaAgentFetch a f s
  | .dmaAgentSpill a f => Sys2Proof.Machine.execDmaAgentSpill a f s
  | .floodQ a f => Sys2Proof.Machine.execFloodQ a f s
  | .ctxSave a f => Sys2Proof.Machine.execCtxSave a f s
  | .ctxLoad a f => Sys2Proof.Machine.execCtxLoad a f s
  | .floodFetch pan bed queue => Sys2Proof.Machine.execFloodFetch pan bed queue s
  | .coreLoad a => Sys2Proof.Machine.execCoreLoad a s
  | .coreStore a data => Sys2Proof.Machine.execCoreStore a data s
  | .nonTemporalStore a data => Sys2Proof.Machine.execNonTemporalStore a data s
  | .wcLineTimeout core line => Sys2Proof.Machine.execWcLineTimeout core line s
  | .loadAcq a => Sys2Proof.Machine.execLoadAcq a s
  | .storeRel a data => Sys2Proof.Machine.execStoreRel a data s
  | .atm a op order operand => Sys2Proof.Machine.execAtm a op order operand s
  | .casP a order cmp new => Sys2Proof.Machine.execCasP a order cmp new s
  | .loadRsv a => Sys2Proof.Machine.execLoadRsv a s
  | .storeCnd a data => Sys2Proof.Machine.execStoreCnd a data s
  | .deferralTimeout core => Sys2Proof.Machine.execDeferralTimeout core s
  | .pairedLoad a => Sys2Proof.Machine.execPairedLoad a s
  | .pairedStore a lo hi => Sys2Proof.Machine.execPairedStore a lo hi s
  | .deviceLoad a => Sys2Proof.Machine.execDeviceLoad a s
  | .deviceStore a data => Sys2Proof.Machine.execDeviceStore a data s
  | .deviceAck core page => Sys2Proof.Machine.execDeviceAck core page s
  | .deviceAccessTimeout core page => Sys2Proof.Machine.execDeviceAccessTimeout core page s
  | .deviceErrorResponse core page => Sys2Proof.Machine.execDeviceErrorResponse core page s
  | .lineZero a => Sys2Proof.Machine.execLineZero a s
  | .lineClean a => Sys2Proof.Machine.execLineClean a s
  | .lineFlush a => Sys2Proof.Machine.execLineFlush a s
  | .lineInval a => Sys2Proof.Machine.execLineInval a s
  | .fenceR core => Sys2Proof.Machine.execFenceR core s
  | .fenceW core => Sys2Proof.Machine.execFenceW core s
  | .fenceRw core => Sys2Proof.Machine.execFenceRw core s
  | .fenceIo core => Sys2Proof.Machine.execFenceIo core s
  | .fenceFetch core => Sys2Proof.Machine.execFenceFetch core s
  | .tlbInvalidate core asid va => Sys2Proof.Machine.execTlbInvalidate core asid va s
  | .exceptionEntry core => Sys2Proof.Machine.execExceptionEntry core s
  | .exceptionReturn core => Sys2Proof.Machine.execExceptionReturn core s
  | .prefetchFill core => Sys2Proof.Machine.execPrefetchFill core s
  | .coherenceTimeout agent => Sys2Proof.Machine.execCoherenceTimeout agent s
  | .linkReplay die link => Sys2Proof.Machine.execLinkReplay die link s
  | .laneSpared die link => Sys2Proof.Machine.execLaneSpared die link s
  | .linkOutageTimeout link => Sys2Proof.Machine.execLinkOutageTimeout link s
  | .drain cause agent die => Sys2Proof.Machine.execDrain cause agent die s
  | .drainLimitFault cause agent die => Sys2Proof.Machine.execDrainLimitFault cause agent die s
  | .drainRerun => Sys2Proof.Machine.execDrainRerun s
  | .reserveRestore => Sys2Proof.Machine.execReserveRestore s
  | .panFailure pan => Sys2Proof.Machine.execPanFailure pan s
  | .panStopTimeout pan => Sys2Proof.Machine.execPanStopTimeout pan s
  | .scrubLine l found => Sys2Proof.Machine.execScrubLine l found s
  | .brineSensorRead pan temps => Sys2Proof.Machine.execBrineSensorRead pan temps s
  | .brineBandFall pan => Sys2Proof.Machine.execBrineBandFall pan s
  | .tokenRefill => Sys2Proof.Machine.execTokenRefill s
  | .migrationTest pan => Sys2Proof.Machine.execMigrationTest pan s
  | .migrationBusy pan => Sys2Proof.Machine.execMigrationBusy pan s
  | .migrationComplete pan => Sys2Proof.Machine.execMigrationComplete pan s
  | .portLinkDown port => Sys2Proof.Machine.execPortLinkDown port s
  | .portLinkUp port => Sys2Proof.Machine.execPortLinkUp port s
  | .serdesSpared port => Sys2Proof.Machine.execSerdesSpared port s
  | .rawFrameReceived f => Sys2Proof.Machine.execRawFrameReceived f s
  | .sendReceived m withImm => Sys2Proof.Machine.execSendReceived m withImm s
  | .rdmaWriteReceived m => Sys2Proof.Machine.execRdmaWriteReceived m s
  | .rdmaWriteImmReceived m => Sys2Proof.Machine.execRdmaWriteImmReceived m s
  | .rdmaReadReceived m => Sys2Proof.Machine.execRdmaReadReceived m s
  | .fetchAddReceived m add => Sys2Proof.Machine.execFetchAddReceived m add s
  | .compareSwapReceived m cmp swap => Sys2Proof.Machine.execCompareSwapReceived m cmp swap s
  | .roceAckReceived port q psn => Sys2Proof.Machine.execRoceAckReceived port q psn s
  | .roceNakReceived port q psn kind => Sys2Proof.Machine.execRoceNakReceived port q psn kind s
  | .localAckTimeout q => Sys2Proof.Machine.execLocalAckTimeout q s
  | .rnrTimerExpiry q => Sys2Proof.Machine.execRnrTimerExpiry q s
  | .cnpReceived port q => Sys2Proof.Machine.execCnpReceived port q s
  | .rateIncreaseTimer q => Sys2Proof.Machine.execRateIncreaseTimer q s
  | .qpCreate die q => Sys2Proof.Machine.execQpCreate die q s
  | .qpModify die q => Sys2Proof.Machine.execQpModify die q s
  | .qpDestroy die q => Sys2Proof.Machine.execQpDestroy die q s
  | .qpQuery die q => Sys2Proof.Machine.execQpQuery die q s
  | .sqDoorbell q pi => Sys2Proof.Machine.execSqDoorbell q pi s
  | .rqDoorbell q pi => Sys2Proof.Machine.execRqDoorbell q pi s
  | .cqConsumerUpdate q ci => Sys2Proof.Machine.execCqConsumerUpdate q ci s
  | .mboxRequest m => Sys2Proof.Machine.execMboxRequest m s
  | .mirrorRound m => Sys2Proof.Machine.execMirrorRound m s
  | .mirrorFetch m => Sys2Proof.Machine.execMirrorFetch m s
  | .mirrorRestore m => Sys2Proof.Machine.execMirrorRestore m s
  | .mirrorSync m => Sys2Proof.Machine.execMirrorSync m s
  | .mirrorAck m => Sys2Proof.Machine.execMirrorAck m s
  | .pairDownSync => Sys2Proof.Machine.execPairDownSync s
  | .tallyRound => Sys2Proof.Machine.execTallyRound s
  | .roundVoid => Sys2Proof.Machine.execRoundVoid s
  | .pairDown => Sys2Proof.Machine.execPairDown s
  | .tallyReplayGo start => Sys2Proof.Machine.execTallyReplayGo start s
  | .eventRecordWrite => Sys2Proof.Machine.execEventRecordWrite s
  | .ceCoalesceExpiry index => Sys2Proof.Machine.execCeCoalesceExpiry index s
  | .eventAck f => Sys2Proof.Machine.execEventAck f s
  | .eventResend => Sys2Proof.Machine.execEventResend s
  | .mgmtLinkUp => Sys2Proof.Machine.execMgmtLinkUp s
  | .windowRead f => Sys2Proof.Machine.execWindowRead f s
  | .windowWrite f => Sys2Proof.Machine.execWindowWrite f s
  | .regRead f => Sys2Proof.Machine.execRegRead f s
  | .regWrite f => Sys2Proof.Machine.execRegWrite f s
  | .mboxRead f => Sys2Proof.Machine.execMboxRead f s
  | .mboxWrite f => Sys2Proof.Machine.execMboxWrite f s
  | .pwrCapWrite watts => Sys2Proof.Machine.execPwrCapWrite watts s
  | .powerControllerRun t => Sys2Proof.Machine.execPowerControllerRun t s
  | .sensorFail x => Sys2Proof.Machine.execSensorFail x s
  | .sensorRecover x => Sys2Proof.Machine.execSensorRecover x s
  | .frequencyStep u => Sys2Proof.Machine.execFrequencyStep u s
  | .voltageStep u => Sys2Proof.Machine.execVoltageStep u s
  | .droopTrip u => Sys2Proof.Machine.execDroopTrip u s
  | .droopClear u => Sys2Proof.Machine.execDroopClear u s
  | .sequencerResume u => Sys2Proof.Machine.execSequencerResume u s
  | .junctionSensorRead u temp => Sys2Proof.Machine.execJunctionSensorRead u temp s
  | .thermalFall u => Sys2Proof.Machine.execThermalFall u s
  | .thermtrip => Sys2Proof.Machine.execThermtrip s
  | .coolantLoss => Sys2Proof.Machine.execCoolantLoss s
  | .inputOvervoltage mv => Sys2Proof.Machine.execInputOvervoltage mv s
  | .supplyWarn mv => Sys2Proof.Machine.execSupplyWarn mv s
  | .supplyWarnRelease mv => Sys2Proof.Machine.execSupplyWarnRelease mv s
  | .moduleReset mv => Sys2Proof.Machine.execModuleReset mv s
  | .inputRestored mv => Sys2Proof.Machine.execInputRestored mv s
  | .converterLost k => Sys2Proof.Machine.execConverterLost k s
  | .phaseRetired r => Sys2Proof.Machine.execPhaseRetired r s
  | .powerUp mv coolant resetN => Sys2Proof.Machine.execPowerUp mv coolant resetN s
  | .railPowerGoodTimeout r => Sys2Proof.Machine.execRailPowerGoodTimeout r s
  | .powerDown => Sys2Proof.Machine.execPowerDown s
  | .warmReset => Sys2Proof.Machine.execWarmReset s
  | .pkgResetRelease => Sys2Proof.Machine.execPkgResetRelease s
  | .flashRead => Sys2Proof.Machine.execFlashRead s
  | .flashProgram => Sys2Proof.Machine.execFlashProgram s
  | .flashErase => Sys2Proof.Machine.execFlashErase s
  | .setdasa addr => Sys2Proof.Machine.execSetdasa addr s
  | .entdaa addr => Sys2Proof.Machine.execEntdaa addr s
  | .grainReseed pan => Sys2Proof.Machine.execGrainReseed pan s
  | .bedFaultInfoRead pan bed => Sys2Proof.Machine.execBedFaultInfoRead pan bed s
  | .xlatFaultInfoRead pan => Sys2Proof.Machine.execXlatFaultInfoRead pan s
  | .registerWrite r val => Sys2Proof.Machine.execRegisterWrite r val s
  | .rcRegisterRead r => Sys2Proof.Machine.execRcRegisterRead r s
  | .illegalInstruction a word => Sys2Proof.Machine.execIllegalInstruction a word s
  | .badCommand box => Sys2Proof.Machine.execBadCommand box s
  | .fwSwitchCutOver => Sys2Proof.Machine.execFwSwitchCutOver s
  | .fwSwitchComplete => Sys2Proof.Machine.execFwSwitchComplete s
  | .standbyControlDieLost => Sys2Proof.Machine.execStandbyControlDieLost s
  | .reseedComplete pan => Sys2Proof.Machine.execReseedComplete pan s
  | .rdmaReadResponseReceived port q psn data => Sys2Proof.Machine.execRdmaReadResponseReceived port q psn data s
  | .pfcPauseReceived port prio pause => Sys2Proof.Machine.execPfcPauseReceived port prio pause s
  | .mkaFrameReceived port install => Sys2Proof.Machine.execMkaFrameReceived port install s
  | .mgmtLinkDown => Sys2Proof.Machine.execMgmtLinkDown s
  | .housekeepingSupplyOn mv => Sys2Proof.Machine.execHousekeepingSupplyOn mv s
  | .housekeepingSupplyOff mv => Sys2Proof.Machine.execHousekeepingSupplyOff mv s
  | .flashOperationEnd failed bytes => Sys2Proof.Machine.execFlashOperationEnd failed bytes s
  | .supplyRoundDeadline => Sys2Proof.Machine.execSupplyRoundDeadline s
  | .jtagTapInstruction tap code => Sys2Proof.Machine.execJtagTapInstruction tap code s

end Sys2Proof.Machine
end

