-- ==== Sys2Proof/Machine/Engines.lean ====
section
/-!
DEFINITION. What the block does with no command waiting (entry 10): package time passes, with the servo's slew (R35), and one of
the things that need no command may happen: a turn of an engine of a bed (R124, R206), the rest of a drain (R295), or an error that
arises (R290, R313, R325, R485). -/

namespace Sys2Proof.Machine

/-! ### Package time (R33, R35, R38, R39) -/

/-- A nanosecond of the oscillator passes. The servo slews the time base by at most 10 ppm: a nanosecond of correction in each
100,000 (R35). -/
def passTime (s : State) : State :=
  let t := s.time
  if t.slew = 0 then { s with now := s.now + 1 }
  else if t.slewAcc < 99999 then { s with now := s.now + 1, time := { t with slewAcc := t.slewAcc + 1 } }
  else if t.slew < 0 then { s with time := { t with slewAcc := 0, slew := t.slew + 1 } }
  else { s with now := s.now + 2, time := { t with slewAcc := 0, slew := t.slew - 1 } }

/-! ### Turns -/

/-- Something ready to go on: an entry of a bed's matrix queue, the head of its DMA and KV queue, a block's context instruction, or
a drain. -/
inductive Turn where
  | matrix (p b i : Nat)
  | dma (p b : Nat)
  | context (p b i : Nat)
  | drain
  deriving DecidableEq, Repr

/-- The first entry of a bed's DMA and KV queue is a KV instruction. -/
def kvHead (s : State) (p b : Nat) : Bool := ((s.bed p b).dq.head?.map (fun w => w.op.isKv)).getD false

/-- The bed whose KV queue the pan's append engine serves next: the queues take turns (R186). -/
def kvNext (s : State) (p : Nat) : Option Nat :=
  ((List.range 16).map (fun k => ((s.pan p).kvTurn + k) % 16)).find? (kvHead s p)

/-- The head of a bed's DMA queue may go on: a FLOOD.Q waits for room in its flood queue (R179), a KV instruction for its turn. -/
def dmaReady (s : State) (p b : Nat) : Bool :=
  match (s.bed p b).dq with
  | [] => false
  | w :: _ =>
    if w.op.isKv then decide (kvNext s p = some b)
    else match w.op with
      | .flood _ => !floodHeld s w
      | _ => true

/-- The turns of one bed. -/
def bedTurns (s : State) (p b : Nat) : List Turn :=
  let d := s.bed p b
  ((List.range d.mq.length).filter d.goes).map (Turn.matrix p b)
    ++ (if dmaReady s p b then [.dma p b] else [])
    ++ (d.blocks.filter (ctxReady s p b)).map (fun x => Turn.context p b x.index)

/-- Everything that is ready to go on. -/
def turns (s : State) : List Turn :=
  if s.pkg.st = .draining then [.drain]
  else s.beds.flatMap (fun e => if s.panRuns (e.1 / 16) then bedTurns s (e.1 / 16) (e.1 % 16) else [])

/-- The turn of entry i of a matrix queue. An MMA that still lacks flood bytes stays at its place. -/
def runMatrix (s : State) (p b i : Nat) : State :=
  match (s.bed p b).mq[i]? with
  | none => s
  | some w =>
    let s1 := s.updBed p b (fun d => { d with mq := d.mq.eraseIdx i })
    match w.op with
    | .mma f =>
      match mmaRun w f s1 with
      | (s2, none) => s2
      | (s2, some w1) => s2.updBed p b (fun d => { d with mq := d.mq.take i ++ w1 :: d.mq.drop i })
    | .mmaDrain f => drainRun w f s1
    | .mmaLoad f => loadRun w f s1
    | .mmaStat f => statRun w f s1
    | _ => s1

/-- The turn of the head of a DMA and KV queue. -/
def runDma (s : State) (p b : Nat) : State :=
  match (s.bed p b).dq with
  | [] => s
  | w :: rest =>
    let s1 := s.updBed p b (fun d => { d with dq := rest })
    let s2 := if w.op.isKv then s1.updPan p (fun x => { x with kvTurn := (b + 1) % 16 }) else s1
    match w.op with
    | .copy f => copyRun w f s2
    | .agentFetch f => fetchRun w f s2
    | .agentSpill f => spillRun w f s2
    | .flood f => floodRun w f s2
    | .kvAppend f => appendRun w f s2
    | .kvCommit f => commitRun w f s2
    | .kvDiscard f => discardRun w f s2
    | _ => s2

/-- The drain ends, at most 250 ms after its last cause (R295). A package that was still booting completes its boot (R299). -/
def runDrain (s : State) : State :=
  let s1 := drainEnd (drainBody s) (s.draw 9900 % 250001)
  if s1.pkg.st = .liquor then setPkg (atStep (raiseCounters s1) 11) .ready else s1

def runTurn (s : State) (t : Turn) : State :=
  match t with
  | .matrix p b i => runMatrix s p b i
  | .dma p b => runDma s p b
  | .context p b i => ctxRun s p b i
  | .drain => runDrain s

/-! ### Errors that arise (R290, R313 to R315, R325, R485) -/

/-- What arises of itself, with what it strikes. -/
inductive Chance where
  | cachedUe (i : Nat)
  | partUe (i : Nat)
  | scratchUe (p b word : Nat)
  | accUe (p b slot elem : Nat)
  | floodUe (p b queue i : Nat)
  | line (pa : Nat) (ue : Bool)
  | brineLink (p ch : Nat)
  | lpdLink (d l : Nat)
  | scrubPass (p : Nat)
  | lpdSensor (d t : Nat)
  deriving DecidableEq, Repr

/-- Which of them arises, and where, is free. -/
def chanceOf (s : State) : Chance :=
  let x (i : Nat) : Nat := s.draw (9910 + i)
  let p := x 1 % s.cfg.variant.pans
  match x 0 % 10 with
  | 0 => .cachedUe (x 1)
  | 1 => .partUe (x 1)
  | 2 => .scratchUe p (x 2 % 16) (x 3 % (scratchSize / 8))
  | 3 => .accUe p (x 2 % 16) (x 3 % 8) (x 4)
  | 4 => .floodUe p (x 2 % 16) (x 3 % 4) (x 4)
  | 5 => .line (x 1 % 2 ^ 48) (decide (x 2 % 2 = 0))
  | 6 => .brineLink p (x 2 % 32)
  | 7 => .lpdLink (x 1 % s.cfg.variant.coreDies) (x 2 % lpdSize)
  | 8 => .scrubPass p
  | _ => .lpdSensor (x 1 % s.cfg.variant.coreDies) (x 2 % 256)

/-- An uncorrectable error of a data SRAM, marked where it lies. -/
def sramUe (s : State) (die part index kind addr : Nat) : State :=
  s.raise { code := evSramUe, cls := 2, die := die, part := part, partIndex := index, action := 2, addrKind := kind, addr := addr }

/-- The data of a cached line: it is poisoned and keeps its coherence state (R290). -/
def cachedUe (s : State) (i : Nat) : State :=
  match s.coh.lines[i % s.coh.lines.length]? with
  | some (k, some c) =>
    let s1 := s.updCoh (fun z => { z with lines := tput none z.lines k (some { c with poison := true }) })
    sramUe s1 (dieOfAgent (k / 2 ^ 42)) 10 0 1 (k % 2 ^ 42 * 64)
  | _ => s

/-- The data of a line of a cache partition, poisoned likewise. -/
def partUe (s : State) (i : Nat) : State :=
  match s.coh.part[i % s.coh.part.length]? with
  | some (l, some c) =>
    let s1 := s.updCoh (fun z => { z with part := tput none z.part l (some { c with poison := true }) })
    sramUe s1 0xFF 10 0 1 (l * 64)
  | _ => s

/-- A byte of a flood buffer: the MMA that takes it faults (R183, R485). -/
def FloodQueue.spoil (q : FloodQueue) (i : Nat) : FloodQueue :=
  let k := i % q.buf.length
  { q with buf := (q.buf.take k) ++ ((q.buf.drop k).take 1).map (fun b => { b with bad := true }) ++ q.buf.drop (k + 1) }

/-- An element of an accumulator slot is in error until it is written (R485). -/
def Bed.spoilAcc (d : Bed) (k e : Nat) : Bed :=
  let x := tget {} d.slots k
  { d with slots := tput {} d.slots k { x with bad := (e :: x.bad).eraseDups } }

/-- A line of memory is read with an error: brine and LPDDR6 count and log it, and one past correction is poisoned; scratchpad data
is poisoned (R313, R325, R485). -/
def lineError (s : State) (pa : Nat) (ue : Bool) : State :=
  match place s pa with
  | .brine p off => if ue then brineUe s p (off / 64 * 64) else brineCe s p (off / 64 * 64)
  | .lpd d off => if ue then lpdUe s d (off / 64 * 64) else lpdCe s d (off / 64 * 64)
  | .scratch _ => if ue then sramUe (s.setPoison (lineOf pa) true) 0xFF 10 0 1 (pa / 64 * 64) else s
  | _ => s

/-- An entry of the repair record for a spare data connection: pan and channel (entry 102). -/
def connectionEntry (p ch : Nat) : List Byte := leBytes 1 12 ++ leBytes 1 p ++ leBytes 1 ch

/-- A CRC failure on a channel of a pan's brine: it is retried up to 4 times, the fifth retrains the channel onto a spare
connection, and a channel with none left is a failure of the memory section (R313, R303, R477). -/
def brineLink (s : State) (p ch : Nat) : State :=
  let x := s.pan p
  let n := tget 0 x.crcFails ch
  if n < 4 then s.updPan p (fun x => { x with crcFails := tput 0 x.crcFails ch (n + 1), retries := satAdd 32 x.retries 1 })
  else
    let s1 := s.updPan p (fun x => { x with crcFails := tput 0 x.crcFails ch 0 })
    if tget 0 x.spareConns ch < 2 then
      repairEntry (s1.updPan p (fun x => { x with
        spareConns := tput 0 x.spareConns ch (tget 0 x.spareConns ch + 1), connections := min 64 (x.connections + 1) }))
        (connectionEntry p ch)
    else declareCause s1 6 0xFF (dieOfPan p)

/-- A link ECC error on a channel of a core die's LPDDR6: it is retried up to 4 times and then is a UE of the line (R325). -/
def lpdLink (s : State) (d l : Nat) : State :=
  let ch := lpdChannel l
  let n := tget 0 (s.coreDie d).lpdFails ch
  if n < 4 then
    s.updCoreDie d (fun x => { x with lpdFails := tput 0 x.lpdFails ch (n + 1), lpdRetries := satAdd 32 x.lpdRetries 1 })
  else lpdUe (s.updCoreDie d (fun x => { x with lpdFails := tput 0 x.lpdFails ch 0 })) d (l / 64 * 64)

/-- A transfer that gets through ends the failures in a row of its channel; the model lets it come with the next sensor or scrub
reading of its unit (entry 58). -/
def runChance (s : State) (c : Chance) : State :=
  match c with
  | .cachedUe i => cachedUe s i
  | .partUe i => partUe s i
  | .scratchUe p b w =>
    sramUe (s.updBed p b (fun d => { d with scratchBad := (w :: d.scratchBad).eraseDups })) (dieOfPan p) 10 b 0 0
  | .accUe p b k e =>
    let x := tget {} (s.bed p b).slots k
    if x.kind = .empty then s
    else sramUe (s.updBed p b (fun d => d.spoilAcc (if x.kind = .exact then x.base else k) (e % 16384))) (dieOfPan p) 10 b 0 0
  | .floodUe p b q i =>
    if ((s.bed p b).queue q).buf.isEmpty then s
    else sramUe (s.updBed p b (fun d => d.setQueue q ((d.queue q).spoil i))) (dieOfPan p) 10 b 0 0
  | .line pa ue => lineError s pa ue
  | .brineLink p ch => if (s.pan p).service then brineLink s p ch else s
  | .lpdLink d l => if s.isLost (dieOfCore d) then s else lpdLink s d l
  | .scrubPass p => s.updPan p (fun x => { x with scrubbing := !x.scrubbing, crcFails := [] })
  | .lpdSensor d t => s.updCoreDie d (fun x => { x with lpdTemp := t, lpdFails := [] })

/-! ### The block idle -/

/-- A drain must end: 250 ms have passed since its last cause (R295). -/
def drainOver (s : State) : Bool := decide (s.pkg.st = .draining) && decide (s.coh.causeAt + 250000000 ≤ s.now)

/-- The block idle: package time passes, and at most one of what can go on without a command does; which, if any, is free, but a
drain does not outlast its time. -/
def idle (s : State) : State :=
  let s1 := passTime s
  let ts := turns s1
  if drainOver s1 then (runDrain s1).drawn
  else
    match s1.draw 9901 % 3 with
    | 0 => s1.drawn
    | 1 =>
      match ts[s1.draw 9902 % ts.length]? with
      | some t => (runTurn s1 t).drawn
      | none => s1.drawn
    | _ => (if poweredUp s1 then runChance s1 (chanceOf s1) else s1).drawn

end Sys2Proof.Machine
end

