-- ==== Sys2Proof/WellFormed.lean ====
section
/-!
DEFINITION. Which commands can be spelled: every unit number lies in the range the manual gives the unit on the largest variant
(R1, R13), every size is one the command has, every field fits its width. What a command outside the range of a smaller variant
does is the meaning's business. -/

namespace Sys2Proof.WellFormed

/-! ### Units (R1, R13, R227, R351, R380) -/

def pan (p : Nat) : Bool := decide (p < 20)
def bed (p b : Nat) : Bool := pan p && decide (b < 16)
def coreDie (d : Nat) : Bool := decide (d < 8)
def coreNo (n : Nat) : Bool := decide (n < 192)
def ioDie (i : Nat) : Bool := decide (i < 4)
def port (j : Nat) : Bool := decide (j < 16)
def box (m : Nat) : Bool := decide (m < 73)
/-- A queue-pair index (13_network, "Queue pairs"). -/
def qp (q : Nat) : Bool := decide (q < 65536)
/-- A die code of R481. -/
def die (d : Nat) : Bool := decide (d < 256)
/-- A tick, a time or a number held in 64 bits. -/
def wide (n : Nat) : Bool := decide (n < 2 ^ 64)
/-- An index of 16 bits. -/
def half (n : Nat) : Bool := decide (n < 2 ^ 16)
/-- A physical address (R302). -/
def phys (a : Nat) : Bool := decide (a < 2 ^ 48)
/-- A voltage in mV (R455, R508). -/
def mv (v : Nat) : Bool := half v
/-- A temperature in °C (R455). -/
def temp (t : Nat) : Bool := decide (t < 256)
/-- A PSN (R364). -/
def psn (n : Nat) : Bool := decide (n < 2 ^ 24)

/-- A place at which a bed instruction issues (R123). -/
def place (a : At) : Bool := bed a.pan a.bed && decide (a.slot < 48)

/-- A core access: the core exists, the size is a power of two that the access kind allows, and a vector's element divides it
(R253, R263). -/
def access (a : CoreAcc) (sizes : List Nat) : Bool :=
  coreNo a.core && (if a.vec then [16, 32].contains a.size && [1, 2, 4, 8].contains a.elem else sizes.contains a.size)
    && decide (a.ctx.asid < 2 ^ 16) && (match a.ctx.root with
      | none => true
      | some r => phys r)

def scalarSizes : List Nat := [1, 2, 4, 8]

/-- A clocked unit (R441). -/
def clockUnit (u : ClockUnit) : Bool :=
  match u with
  | .pan p => pan p
  | .core d => coreDie d

/-- A rail (R438). -/
def rail (r : Rail) : Bool :=
  match r with
  | .vcore d => coreDie d
  | .vpan p => pan p
  | _ => true

/-- A power sensor (R444). -/
def sensor (k : Sensor) : Bool :=
  match k with
  | .pan p => pan p
  | .core d => coreDie d
  | .input => true
  | .other => true

/-- A telemetry sample: at most a reading for each pan and each core die (R444). -/
def telemetry (t : Telemetry) : Bool :=
  decide (t.pans.length ≤ 20) && decide (t.cores.length ≤ 8) && mv t.inputMv

/-- A PTP message comes in at a port with a domain of seven bits (R30). -/
def ptp (m : PtpMsg) : Bool := port m.port && decide (m.domain < 128) && half m.seq && decide (-128 ≤ m.logSync ∧ m.logSync < 128)

/-- A control message: its port, priority, key index, mailbox field and sequence fit their fields (R356). -/
def control (m : ControlMsg) : Bool :=
  port m.port && decide (m.pcp < 8) && half m.length && decide (m.keyIndex < 256) && decide (m.mailbox < 256)
    && wide m.sequence

/-- A RoCE v2 message: port, queue-pair number, PSN, address and length fit their fields (R364, R370). -/
def roce (m : RoceMsg) : Bool :=
  port m.port && decide (m.qpn < 2 ^ 24) && psn m.psn && wide m.va && decide (m.len < 2 ^ 32)

def frame (f : RawFrame) : Bool := port f.port && decide (f.pcp < 8) && half f.etherType

/-- A management frame: an address of 48 bits and a length of 16 (R511). -/
def mgmt (f : MgmtFrame) : Bool := phys f.address && half f.length

/-- A register's unit exists and its offset is a multiple of 8 (R9); a housekeeping access may be of any width (R12). -/
def reg (r : Reg) : Bool :=
  let at8 (o : Nat) : Bool := decide (o % 8 = 0)
  match r with
  | .bed p b o => bed p b && at8 o
  | .tide p o => pan p && at8 o
  | .grain p o => pan p && at8 o
  | .kv p o => pan p && at8 o
  | .flood p o => pan p && at8 o
  | .brine p o => pan p && at8 o
  | .xlat p o => pan p && at8 o
  | .core d c o => coreDie d && decide (c < 24) && at8 o
  | .dcache d o => coreDie d && at8 o
  | .lpd d o => coreDie d && at8 o
  | .coh o => at8 o
  | .stk o => at8 o
  | .tally o => at8 o
  | .evt o => at8 o
  | .netPort i j o => ioDie i && decide (j < 4) && at8 o
  | .netQp i o => ioDie i && at8 o
  | .netDb i q o => ioDie i && qp q && at8 o
  | .mboxCtl o => at8 o
  | .sysAbtAddr n => coreNo n
  | .sysAbtInfo n => coreNo n
  | .sysMemctl n => coreNo n
  | .sysIdent n => coreNo n
  | .sysFeatures n => coreNo n
  | .pwr o => at8 o
  | .hk o n => decide (o < 4096) && decide (1 ≤ n) && decide (n ≤ 64)

/-- A line the scrub visits lies in a unit's memory and starts a line (R314). -/
def scrub (l : ScrubLine) : Bool :=
  match l with
  | .brine p o => pan p && decide (o % 64 = 0) && decide (o < 2 ^ 37)
  | .lpd a => phys a && decide (a % 64 = 0)

/-- An address of the I3C bus that may be a dynamic address: not one of the reserved ends (R507). -/
def i3c (a : BitVec 7) : Bool := decide (8 ≤ a.toNat) && decide (a.toNat < 0x7E)

/-- Where a stop comes from. -/
def stop (s : StopSource) : Bool :=
  match s with
  | .mailbox b => box b
  | .engine m => control m

end Sys2Proof.WellFormed

namespace Sys2Proof

open WellFormed in
/-- The command's operands are in range. -/
def Instr.wellFormed (i : Instr) : Bool :=
  match i with
  | .caps box_ => box box_
  | .stateQuery box_ => box box_
  | .stateEnterMaint box_ => box box_
  | .stateLeaveMaint box_ => box box_
  | .stateReleasePortHold box_ => box box_
  | .planLoad box_ => box box_
  | .planLoadFinal box_ => box box_
  | .planUnload box_ => box box_
  | .tideStart box_ => box box_
  | .tideStop box_ => box box_
  | .agentAdmit box_ => box box_
  | .agentEvict box_ => box box_
  | .agentPrefetch box_ => box box_
  | .agentAdviseSpill box_ => box box_
  | .agentAdviseGrow box_ => box box_
  | .agentAdviseRelease box_ => box box_
  | .regionRegister box_ => box box_
  | .regionRegisterFinal box_ => box box_
  | .regionDeregister box_ => box box_
  | .regionDeregisterFinal box_ => box box_
  | .panOffline box_ => box box_
  | .panOfflineComplete box_ => box box_
  | .panCutOver pan_ => pan pan_
  | .panOnline box_ => box box_
  | .panOnlineComplete box_ _ _ => box box_
  | .bistRun box_ => box box_
  | .bistComplete box_ _ _ _ _ => box box_
  | .fwStage box_ => box box_
  | .fwStageComplete box_ => box box_
  | .fwSwitch box_ => box box_
  | .attest box_ => box box_
  | .windowSet box_ => box box_
  | .stopAll src => stop src
  | .mboxRequesterWrite box_ off _ => box box_ && decide (off < 0x1000) && decide (off % 8 = 0)
  | .verify pa len type => phys pa && decide (len < 2 ^ 32) && half type
  | .extend m _ => decide (m < 8)
  | .report nonce => decide (nonce.length = 32)
  | .random n => decide (n < 2 ^ 16)
  | .repair entry => !entry.isEmpty
  | .protect _ => true
  | .keyload die_ => ioDie die_
  | .drbgReseed _ => true
  | .mpuFault _ => true
  | .heartbeatMiss => true
  | .liquorRestartLimit => true
  | .controlDieSwitchover => true
  | .tideTick n => wide n
  | .watchPoint n => wide n
  | .skipNotice m => control m
  | .planStalled => true
  | .timeSyncMessage stop_ _ => die stop_
  | .ptpMessage m => ptp m
  | .ptpLocked => true
  | .syncTimeout => true
  | .holdoverLimit => true
  | .tideInEdge at_ns => wide at_ns
  | .tideInMissing => true
  | .tideInFallback => true
  | .sourceChange => true
  | .kernelStart p b => bed p b
  | .blockStart p b index => bed p b && half index
  | .blockEnd p b index => bed p b && half index
  | .barrierOrphan p b index => bed p b && half index
  | .vadd a _ => place a
  | .vsub a _ => place a
  | .vmul a _ => place a
  | .vfma a _ => place a
  | .vmin a _ => place a
  | .vmax a _ => place a
  | .vcmp a _ => place a
  | .vsel a _ => place a
  | .vand a _ => place a
  | .vor a _ => place a
  | .vxor a _ => place a
  | .vshl a _ => place a
  | .vshr a _ => place a
  | .vmov a _ => place a
  | .vcvt a _ => place a
  | .vadd96 a _ => place a
  | .vrcp a _ => place a
  | .vrsq a _ => place a
  | .vexp2 a _ => place a
  | .vlog2 a _ => place a
  | .vsin a _ => place a
  | .vcos a _ => place a
  | .vlane a _ => place a
  | .vbits a _ => place a
  | .sadd a _ => place a
  | .ssub a _ => place a
  | .smul a _ => place a
  | .sand a _ => place a
  | .sor a _ => place a
  | .sxor a _ => place a
  | .sshl a _ => place a
  | .sshr a _ => place a
  | .smov a _ => place a
  | .smovh a _ => place a
  | .scmp a _ => place a
  | .sread a _ => place a
  | .sfromv a _ => place a
  | .bra a _ => place a
  | .brx a _ => place a
  | .call a _ => place a
  | .sbra a _ => place a
  | .exit a _ => place a
  | .syncRake a _ => place a
  | .barBlock a _ => place a
  | .fence a _ => place a
  | .trap a _ => place a
  | .nop a _ => place a
  | .ld a _ => place a
  | .st a _ => place a
  | .atom a _ => place a
  | .atomCas a _ => place a
  | .shfl a _ => place a
  | .vote a _ => place a
  | .bcast a _ => place a
  | .reduce a _ => place a
  | .scan a _ => place a
  | .sample a _ => place a
  | .mma a _ => place a
  | .mmaDrain a _ => place a
  | .mmaLoad a _ => place a
  | .mmaStat a _ => place a
  | .grainKeyLane a _ => place a
  | .grainKeyDrain a _ => place a
  | .grainDraw a _ => place a
  | .dropmask a _ => place a
  | .kvAppend a _ => place a
  | .kvCommit a _ => place a
  | .kvDiscard a _ => place a
  | .dmaCopy a _ => place a
  | .dmaAgentFetch a _ => place a
  | .dmaAgentSpill a _ => place a
  | .floodQ a _ => place a
  | .ctxSave a _ => place a
  | .ctxLoad a _ => place a
  | .floodFetch p b queue => bed p b && decide (queue < 4)
  | .coreLoad a => access a scalarSizes
  | .coreStore a data => access a scalarSizes && decide (data.length = a.size)
  | .nonTemporalStore a data => access a scalarSizes && decide (data.length = a.size)
  | .wcLineTimeout core_ line => coreNo core_ && decide (line < 2 ^ 42)
  | .loadAcq a => access a scalarSizes
  | .storeRel a data => access a scalarSizes && decide (data.length = a.size)
  | .atm a _ _ _ => access a [4, 8]
  | .casP a _ _ _ => access a [16]
  | .loadRsv a => access a [4, 8]
  | .storeCnd a _ => access a [4, 8]
  | .deferralTimeout core_ => coreNo core_
  | .pairedLoad a => access a [16]
  | .pairedStore a _ _ => access a [16]
  | .deviceLoad a => access a [4, 8]
  | .deviceStore a _ => access a [4, 8]
  | .deviceAck core_ page => coreNo core_ && phys page
  | .deviceAccessTimeout core_ page => coreNo core_ && phys page
  | .deviceErrorResponse core_ page => coreNo core_ && phys page
  | .lineZero a => access a scalarSizes
  | .lineClean a => access a scalarSizes
  | .lineFlush a => access a scalarSizes
  | .lineInval a => access a scalarSizes
  | .fenceR core_ => coreNo core_
  | .fenceW core_ => coreNo core_
  | .fenceRw core_ => coreNo core_
  | .fenceIo core_ => coreNo core_
  | .fenceFetch core_ => coreNo core_
  | .tlbInvalidate core_ asid _ => coreNo core_ && (match asid with
    | none => true
    | some n => half n)
  | .exceptionEntry core_ => coreNo core_
  | .exceptionReturn core_ => coreNo core_
  | .prefetchFill core_ => coreNo core_
  | .coherenceTimeout agent => die agent
  | .linkReplay die_ m => die die_ && decide (m < 256)
  | .laneSpared die_ x => die die_ && decide (x.link < 256)
  | .linkOutageTimeout x => die x.die && decide (x.link < 256)
  | .drain cause agent die_ => decide (cause < 256) && die agent && die die_
  | .drainLimitFault cause agent die_ => decide (cause < 256) && die agent && die die_
  | .drainRerun => true
  | .reserveRestore => true
  | .panFailure pan_ => pan pan_
  | .panStopTimeout pan_ => pan pan_
  | .scrubLine l _ => scrub l
  | .brineSensorRead pan_ temps => pan pan_ && temps.all temp
  | .brineBandFall pan_ => pan pan_
  | .tokenRefill => true
  | .migrationTest pan_ => pan pan_
  | .migrationBusy pan_ => pan pan_
  | .migrationComplete pan_ => pan pan_
  | .portLinkDown port_ => port port_
  | .portLinkUp port_ => port port_
  | .serdesSpared port_ => port port_
  | .rawFrameReceived f => frame f
  | .sendReceived m _ => roce m
  | .rdmaWriteReceived m => roce m
  | .rdmaWriteImmReceived m => roce m
  | .rdmaReadReceived m => roce m
  | .fetchAddReceived m _ => roce m
  | .compareSwapReceived m _ _ => roce m
  | .roceAckReceived port_ q psn_ => port port_ && qp q && psn psn_
  | .roceNakReceived port_ q psn_ kind => port port_ && qp q && psn psn_ && (match kind with
    | .rnr t => decide (t < 32)
    | _ => true)
  | .localAckTimeout q => qp q
  | .rnrTimerExpiry q => qp q
  | .cnpReceived port_ q => port port_ && qp q
  | .rateIncreaseTimer q => qp q
  | .qpCreate die_ q => ioDie die_ && qp q
  | .qpModify die_ q => ioDie die_ && qp q
  | .qpDestroy die_ q => ioDie die_ && qp q
  | .qpQuery die_ q => ioDie die_ && qp q
  | .sqDoorbell q pi => qp q && half pi
  | .rqDoorbell q pi => qp q && half pi
  | .cqConsumerUpdate q ci => qp q && half ci
  | .mboxRequest m => control m
  | .mirrorRound m => control m
  | .mirrorFetch m => control m
  | .mirrorRestore m => control m
  | .mirrorSync m => control m
  | .mirrorAck m => control m
  | .pairDownSync => true
  | .tallyRound => true
  | .roundVoid => true
  | .pairDown => true
  | .tallyReplayGo start => wide start
  | .eventRecordWrite => true
  | .ceCoalesceExpiry index => wide index
  | .eventAck f => mgmt f
  | .eventResend => true
  | .mgmtLinkUp => true
  | .windowRead f => mgmt f
  | .windowWrite f => mgmt f
  | .regRead f => mgmt f
  | .regWrite f => mgmt f
  | .mboxRead f => mgmt f
  | .mboxWrite f => mgmt f
  | .pwrCapWrite watts => half watts
  | .powerControllerRun t => telemetry t
  | .sensorFail s => sensor s
  | .sensorRecover s => sensor s
  | .frequencyStep u => clockUnit u
  | .voltageStep u => clockUnit u
  | .droopTrip u => clockUnit u
  | .droopClear u => clockUnit u
  | .sequencerResume u => clockUnit u
  | .junctionSensorRead u temp_ => clockUnit u && temp temp_
  | .thermalFall u => clockUnit u
  | .thermtrip => true
  | .coolantLoss => true
  | .inputOvervoltage mv_ => mv mv_
  | .supplyWarn mv_ => mv mv_
  | .supplyWarnRelease mv_ => mv mv_
  | .moduleReset mv_ => mv mv_
  | .inputRestored mv_ => mv mv_
  | .converterLost k => decide (k < 4)
  | .phaseRetired r => rail r
  | .powerUp mv_ _ _ => mv mv_
  | .railPowerGoodTimeout r => rail r
  | .powerDown => true
  | .warmReset => true
  | .pkgResetRelease => true
  | .flashRead => true
  | .flashProgram => true
  | .flashErase => true
  | .setdasa addr => i3c addr
  | .entdaa addr => i3c addr
  | .grainReseed pan_ => pan pan_
  | .bedFaultInfoRead p b => bed p b
  | .xlatFaultInfoRead pan_ => pan pan_
  | .registerWrite r _ => reg r
  | .rcRegisterRead r => reg r
  | .illegalInstruction a _ => place a
  | .badCommand box_ => box box_
  | .fwSwitchCutOver => true
  | .fwSwitchComplete => true
  | .standbyControlDieLost => true
  | .reseedComplete pan_ => pan pan_
  | .rdmaReadResponseReceived port_ q psn_ _ => port port_ && qp q && psn psn_
  | .pfcPauseReceived port_ prio _ => port port_ && decide (prio < 7)
  | .mkaFrameReceived port_ _ => port port_
  | .mgmtLinkDown => true
  | .housekeepingSupplyOn mv_ => mv mv_
  | .housekeepingSupplyOff mv_ => mv mv_
  | .flashOperationEnd _ bytes => decide (bytes.length ≤ 256)
  | .supplyRoundDeadline => true
  | .jtagTapInstruction tap _ => die tap

end Sys2Proof
end

