-- ==== Sys2Proof/Safety.lean ====
section
/-!
DEFINITION. The terms in which claims about the block are stated: a command completes, an event is logged, memory is in its
canonical form, a bed instruction is ready to issue. -/

namespace Sys2Proof.Safety

open Sys2Proof.Machine

/-- The command completes: exec answers a next state, and P holds of it. -/
def Completes (c : Instr) (s : State) (P : State → Prop) : Prop := ∃ t, exec c s = .next t ∧ P t

/-- One record with this code, raised at the package time of s, has joined the records that wait to be written. -/
def Logs (s t : State) (code : Nat) : Prop := ∃ e : Event, t.events = { s.events with queue := s.events.queue ++ [e] } ∧ e.code = code ∧ e.time = s.now

/-- The memory is in its canonical form: addresses strictly rising, no byte listed that equals what an unlisted one reads as. -/
def memoryOk (s : State) : Bool := tableOk 0 s.mem

/-- The group at a place issues, and the fetch of its instruction translates: the instruction runs in s1. -/
def Ready (a : At) (s : State) (c : Issue) (s1 : State) : Prop := issueOf a s = some c ∧ fetchCheck c s = (s1, none)

/-- The rake at an issuing place. -/
def rakeAt (a : At) (s : State) : Rake := s.rake a.pan a.bed a.slot

/-- From s1 to t nothing changes but the rake at the place, and the step has drawn its free values. -/
def OnlyRake (a : At) (s1 t : State) : Prop :=
  t = { s1 with rakes := t.rakes, free := s1.free + 1 }
    ∧ ∀ p b k, rakeKey p b k ≠ rakeKey a.pan a.bed a.slot → t.rake p b k = s1.rake p b k

/-- The threads of the issuing group stand at the next instruction and every other thread where it stood. -/
def NextPc (c : Issue) (r : Rake) : Prop := ∀ l, l < 32 → r.pc l = if lane c.active l then c.pc + 8 else c.rake.pc l

/-- n vector registers from vd on of the threads of m hold val; every other register of every thread is as before, and so is
the rest of the rake but for the program counters. -/
def WritesLanes (c : Issue) (r : Rake) (m : Word) (vd n : Nat) (val : Nat → Nat) : Prop :=
  (∀ l, l < 32 → lane m l = true → r.wide vd n l = val l % 2 ^ (32 * n))
    ∧ (∀ reg l, l < 32 → (lane m l = false ∨ reg < vd ∨ vd + n ≤ reg) → r.vget reg l = c.rake.vget reg l)
    ∧ r = { c.rake with v := r.v, pcs := r.pcs }

/-- A format V instruction of a ready group with some thread guarded, legal fields and registers and every operand there. -/
def VecRuns (a : At) (f : VFmt) (s : State) (c : Issue) (s1 : State) (legal : Bool) : Prop :=
  Ready a s c s1 ∧ c.guarded f.gd ≠ 0 ∧ legal = true ∧ (f.bmode = 1 → operandWait a s1 [f.vb.toNat % 64] = false)

/-- What a format V instruction that writes n registers of vd leaves. -/
def VecResult (a : At) (f : VFmt) (c : Issue) (s1 t : State) (n : Nat) (val : Nat → Nat) : Prop :=
  WritesLanes c (rakeAt a t) (c.guarded f.gd) f.vd.toNat n val ∧ NextPc c (rakeAt a t) ∧ OnlyRake a s1 t

/-- The arithmetic instruction of an operation. -/
def arithInstr (op : VArith) (a : At) (f : VFmt) : Instr :=
  match op with
  | .add => .vadd a f
  | .sub => .vsub a f
  | .mul => .vmul a f
  | .fma => .vfma a f
  | .min => .vmin a f
  | .max => .vmax a f

/-- The result of an operation on 32-bit integers (R147). -/
def arithWord (op : VArith) (x y z : Word) : Word :=
  match op with
  | .add => x + y
  | .sub => x - y
  | .mul => x * y
  | .fma => x * y + z
  | .min => if x.toInt ≤ y.toInt then x else y
  | .max => if x.toInt ≤ y.toInt then y else x

/-- A format S instruction of a ready group with some thread guarded and every scalar operand there. -/
def ScalarRuns (a : At) (f : SFmt) (s : State) (c : Issue) (s1 : State) : Prop :=
  Ready a s c s1 ∧ c.guarded f.gd ≠ 0
    ∧ operandWait a s1 ([f.sa.toNat, f.sd.toNat] ++ if f.imm = 1 then [] else [f.sb.toNat]) = false

/-- What a format S instruction leaves: sd holds v, the group stands at the next instruction, nothing else changes. -/
def ScalarResult (a : At) (sd : Nat) (c : Issue) (s1 t : State) (v : Dword) : Prop :=
  (rakeAt a t).sget sd = v ∧ (∀ n, n ≠ sd → (rakeAt a t).sget n = c.rake.sget n)
    ∧ rakeAt a t = { c.rake with s := (rakeAt a t).s, pcs := (rakeAt a t).pcs } ∧ NextPc c (rakeAt a t) ∧ OnlyRake a s1 t

/-! ### Memory of a bed -/

/-- A memory instruction of n bytes of a ready group with some thread guarded and legal registers. -/
def MemRuns (a : At) (f : MFmt) (s : State) (c : Issue) (s1 : State) (n : Nat) (legal : Bool) : Prop :=
  Ready a s c s1 ∧ c.guarded f.gd ≠ 0 ∧ sizeBytes f.size.toNat = some n ∧ legal = true

/-- The scratch addresses the guarded threads name are aligned, in range and free of errors. -/
abbrev ScratchOk (c : Issue) (f : MFmt) (s : State) (n : Nat) (reads : Bool) : Prop :=
  f.space = 0 ∧ ∀ l ∈ lanesOf (c.guarded f.gd), memAddr c f l % n = 0 ∧ memAddr c f l < scratchSize
    ∧ (reads = true → (s.bed c.a.pan c.a.bed).scratchErr (memAddr c f l) n = false)

/-- The little-endian number in n bytes of a memory. -/
def wordAt (m : Nat → Byte) (x n : Nat) : Nat := leNat ((List.range n).map (fun i => m (x + i)))

/-- Loaded into vd: as WritesLanes, and the reads may have taught the rake what happens before its later accesses (R213). -/
def LoadsLanes (c : Issue) (r : Rake) (m : Word) (vd n : Nat) (val : Nat → Nat) : Prop :=
  (∀ l, l < 32 → lane m l = true → r.wide vd n l = val l % 2 ^ (32 * n))
    ∧ (∀ reg l, l < 32 → (lane m l = false ∨ reg < vd ∨ vd + n ≤ reg) → r.vget reg l = c.rake.vget reg l)
    ∧ r = { c.rake with v := r.v, pcs := r.pcs, views := r.views, reads := r.reads, work := r.work }

/-- Each of the n bytes of x is the latest of its address, or one that stood there before a store of ks that races with the
reader (R221). -/
abbrev Finds (v : Viewer) (ks : List StoreRec) (latest : Nat → Byte) (adr n x : Nat) : Prop :=
  ∀ i, i < n → BitVec.ofNat 8 (x / 256 ^ i) = latest (adr + i)
    ∨ ∃ r ∈ ks, racing v r = true ∧ (adr + i, BitVec.ofNat 8 (x / 256 ^ i)) ∈ r.old

/-- A release goes on where nothing that the rake queued is still to complete (R213, R214). -/
abbrev Released (a : At) (f : MFmt) (s : State) : Prop := 2 ≤ f.order.toNat → rakeBusy a s = false

/-- The highest of the lanes whose n bytes hold address x. -/
def lastAt (ls : List Nat) (adr : Nat → Nat) (n x : Nat) : Option Nat :=
  ls.reverse.find? (fun l => decide (adr l ≤ x) && decide (x < adr l + n))

/-- Every byte the lanes store holds the value of the highest lane that stores it, and every other byte is as before. -/
def Stored (before after : Nat → Byte) (ls : List Nat) (adr : Nat → Nat) (n : Nat) (val : Nat → Nat) : Prop :=
  ∀ x, after x =
    match lastAt ls adr n x with
    | some l => BitVec.ofNat 8 (val l / 256 ^ (x - adr l))
    | none => before x

/-- What a lane's atomic finds: the bytes before the instruction, changed by each lower lane of the same address. -/
def atomicSees (before : Nat → Byte) (ls : List Nat) (adr : Nat → Nat) (n : Nat) (new : Nat → Nat → Nat) (l : Nat) : Nat :=
  (ls.filter (fun k => decide (k < l) && decide (adr k = adr l))).foldl (fun v k => new k v % 2 ^ (8 * n)) (wordAt before (adr l) n)

/-- A byte of the scratch of a place's bed. -/
def scratchByte (a : At) (s : State) (x : Nat) : Byte := tget 0 (s.bed a.pan a.bed).scratch x

/-- A byte of physical memory. -/
def memByte (s : State) (x : Nat) : Byte := tget 0 s.mem x

/-- A byte of the coherent view. -/
def cohByte (s : State) (x : Nat) : Byte := ((s.curLine (lineOf x)).1).getD (x % 64) 0

/-- A byte of a line the pan's cache holds. -/
def heldByte (a : At) (s : State) (x : Nat) : Byte :=
  (((s.cached (panAgent a.pan) (lineOf x)).map CacheLine.data).getD []).getD (x % 64) 0

/-- The pan's cache holds the whole line of an address for writing. -/
abbrev HeldM (a : At) (s : State) (x : Nat) : Prop :=
  (s.cached (panAgent a.pan) (lineOf x)).map (fun k => (k.st, k.data.length)) = some (Moesi.m, 64)

/-- The line of an address is nowhere but in memory. -/
abbrev AtHome (s : State) (x : Nat) : Prop := s.holders (lineOf x) = [] ∧ s.partLine (lineOf x) = none

/-- The physical address of a lane's access. -/
def paOf (ts : List Target) (l : Nat) : Nat := ((ts.find? (fun u => u.lane = l)).map Target.pa).getD 0

/-- From s1 to t nothing changes but the place's rake and its bed's scratch, with what readers that race may still find there, and
the step has drawn its free values. -/
def OnlyScratch (a : At) (s1 t : State) : Prop :=
  t = { s1 with beds := t.beds, rakes := t.rakes, free := s1.free + 1, coh := { s1.coh with stores := t.coh.stores } }
    ∧ (∀ p b k, rakeKey p b k ≠ rakeKey a.pan a.bed a.slot → t.rake p b k = s1.rake p b k)
    ∧ (∀ p b, bedKey p b ≠ bedKey a.pan a.bed → t.bed p b = s1.bed p b)
    ∧ t.bed a.pan a.bed = { s1.bed a.pan a.bed with
        scratch := (t.bed a.pan a.bed).scratch, scratchBad := (t.bed a.pan a.bed).scratchBad, kept := (t.bed a.pan a.bed).kept }

/-! ### Rake-wide instructions -/

/-- A rake-wide instruction of a ready group runs: guard p7, a listed pm that equals the active mask, legal fields, and the mask's
scalar and its n scalar operands there. -/
def WideRuns (a : At) (gd : Guard) (pm : BitVec 7) (sbase : BitVec 3) (n : Nat) (s : State) (c : Issue) (s1 : State) (legal : Bool) : Prop :=
  Ready a s c s1 ∧ c.pmask pm = some c.active ∧ guardAlways gd = true ∧ legal = true
    ∧ operandWait a s1 (pm.toNat :: (List.range n).map (fun j => 8 * sbase.toNat + j)) = false

/-- What a collective leaves: n registers of vd of the group's threads hold val, and nothing else changes. -/
def Collected (a : At) (c : Issue) (s1 t : State) (vd n : Nat) (val : Nat → Nat) : Prop :=
  WritesLanes c (rakeAt a t) c.active vd n val ∧ NextPc c (rakeAt a t) ∧ OnlyRake a s1 t

/-- What an instruction that changes its bed and no register of its rake leaves. -/
def OnlyBed (a : At) (c : Issue) (s1 t : State) : Prop :=
  t = { s1 with beds := t.beds, rakes := t.rakes, free := s1.free + 1 }
    ∧ (∀ p b k, rakeKey p b k ≠ rakeKey a.pan a.bed a.slot → t.rake p b k = s1.rake p b k)
    ∧ (∀ p b, bedKey p b ≠ bedKey a.pan a.bed → t.bed p b = s1.bed p b)
    ∧ rakeAt a t = { c.rake with pcs := (rakeAt a t).pcs } ∧ NextPc c (rakeAt a t)

/-- The instruction has gone to its engine's queue with its operands as they stand, its group has gone on, and nothing else
changes (R81, R124). -/
def Queues (a : At) (sbase : BitVec 3) (o : WorkOp) (c : Issue) (s1 t : State) : Prop :=
  ∃ w : Work, w.op = o ∧ w.at_ = a ∧ w.block = c.block ∧ w.pc = c.pc ∧ w.active = c.active ∧ w.pm = c.active
    ∧ (∀ j, j < 8 → w.sop j = c.sop sbase j) ∧ w.key = c.rake.drainKey ∧ w.view = c.rake.work ∧ w.got = []
    ∧ t.bed a.pan a.bed = (if o.isMatrix then { s1.bed a.pan a.bed with mq := (s1.bed a.pan a.bed).mq ++ [w] }
        else { s1.bed a.pan a.bed with dq := (s1.bed a.pan a.bed).dq ++ [w] })
    ∧ OnlyBed a c s1 t

/-- A queue with room takes the instruction; a full one holds its group at the instruction (R124). -/
def Issues (a : At) (sbase : BitVec 3) (o : WorkOp) (i : Instr) (s : State) (c : Issue) (s1 : State) : Prop :=
  ((s1.bed a.pan a.bed).full o = false → Completes i s (fun t => Queues a sbase o c s1 t))
    ∧ ((s1.bed a.pan a.bed).full o = true → exec i s = .next s1.drawn)

/-- Entry i of a bed's matrix queue is w, and no store of the bed's scratch races with its reads. -/
def MatrixHead (s : State) (p b i : Nat) (w : Work) : Prop :=
  (s.bed p b).mq[i]? = some w ∧ w.at_.pan = p ∧ w.at_.bed = b ∧ (∀ r ∈ (s.bed p b).kept, racing w.viewer r = false)
    ∧ ∀ y ∈ w.got, y.bad = false ∧ y.stopped = false

/-! ### KV instructions -/

/-- Every line of memory is nowhere but in memory. -/
abbrev AllHome (s : State) : Prop := s.coh.lines = [] ∧ s.coh.part = []

/-- The first entry of a bed's DMA and KV queue is w, and no store of the bed's scratch races with its reads. -/
def DmaHead (s : State) (p b : Nat) (w : Work) (rest : List Work) : Prop :=
  (s.bed p b).dq = w :: rest ∧ w.at_.pan = p ∧ w.at_.bed = b ∧ ∀ r ∈ (s.bed p b).kept, racing w.viewer r = false

/-- The status that an instruction's scalar destination receives; no other register of any rake changes. -/
def Answers (s t : State) (w : Work) (sd : BitVec 6) (v : Nat) : Prop :=
  let a := w.at_
  (t.rake a.pan a.bed a.slot).sget sd.toNat = BitVec.ofNat 64 v
    ∧ (∀ n, n ≠ sd.toNat → (t.rake a.pan a.bed a.slot).sget n = (s.rake a.pan a.bed a.slot).sget n)
    ∧ t.rake a.pan a.bed a.slot = { s.rake a.pan a.bed a.slot with s := (t.rake a.pan a.bed a.slot).s }
    ∧ ∀ p b k, rakeKey p b k ≠ rakeKey a.pan a.bed a.slot → t.rake p b k = s.rake p b k

/-- What the append engine answers for the head of a queue: status, generation and a position value in sd, one more count of its
kind, and the next bed's turn; the instruction leaves its queue. -/
def KvAnswer (s t : State) (w : Work) (rest : List Work) (f : RFmt) (status gen v : Nat) : Prop :=
  let p := w.at_.pan
  Answers s t w f.sd (status + gen * 65536 + v * 2 ^ 24)
    ∧ t.bed p w.at_.bed = { s.bed p w.at_.bed with dq := rest }
    ∧ (∀ q b, bedKey q b ≠ bedKey p w.at_.bed → t.bed q b = s.bed q b)
    ∧ (t.pan p).kvTurn = (w.at_.bed + 1) % 16
    ∧ (t.pan p).kvDone = (if status = stOk then satAdd 32 (s.pan p).kvDone 1 else (s.pan p).kvDone)
    ∧ (t.pan p).kvRefused = (if status = stOk then (s.pan p).kvRefused else satAdd 32 (s.pan p).kvRefused 1)

/-- Positions lo to hi − 1 of a stream lie outside the 64 KiB of the header. -/
abbrev ClearOf (s : State) (owner h : Nat) (r : StreamRec) (lo hi : Nat) : Prop :=
  ∀ i, i < hi - lo → positionPa s owner h r (lo + i) + r.entry ≤ h ∨ h + 65536 ≤ positionPa s owner h r (lo + i)

/-- The address lies in one of positions lo to hi − 1 of a stream. -/
abbrev InPositions (s : State) (owner h : Nat) (r : StreamRec) (lo hi x : Nat) : Prop :=
  ∃ i, i < hi - lo ∧ positionPa s owner h r (lo + i) ≤ x ∧ x < positionPa s owner h r (lo + i) + r.entry

/-- The stream's directory words lie in the header behind its stream records. -/
abbrev WordsInside (s : State) (h st : Nat) : Prop :=
  (streamRec s h st).off % 4 = 0 ∧ 0x100 + 64 * hStreams s h ≤ (streamRec s h st).off
    ∧ (streamRec s h st).off + 4 * (streamRec s h st).len ≤ 65536

/-! ### Faults of beds -/

/-- The rake-wide instructions, by format, each with its guard, its mask and where its scalar operands stand. -/
def wideForms (a : At) (l : LFmt) (y : XFmt) (r : RFmt) : List (Instr × Guard × BitVec 7 × BitVec 3) :=
  ([Instr.shfl a l, .vote a l, .bcast a l, .reduce a l, .scan a l, .sample a l].map (fun i => (i, l.gd, l.pm, l.sbase)))
    ++ ([Instr.mma a y, .mmaDrain a y, .mmaLoad a y, .mmaStat a y].map (fun i => (i, y.gd, y.pm, y.sbase)))
    ++ ([Instr.grainKeyLane a r, .grainKeyDrain a r, .kvAppend a r, .kvCommit a r, .kvDiscard a r, .dmaCopy a r, .dmaAgentFetch a r,
      .dmaAgentSpill a r, .floodQ a r, .ctxSave a r, .ctxLoad a r].map (fun i => (i, r.gd, r.pm, r.sbase)))

/-- Every instruction a bed can issue, in one form of each format. -/
def bedForms (a : At) (v : VFmt) (x : SFmt) (g : CFmt) (m : MFmt) (l : LFmt) (y : XFmt) (r : RFmt) : List Instr :=
  [.vadd a v, .vsub a v, .vmul a v, .vfma a v, .vmin a v, .vmax a v, .vcmp a v, .vsel a v, .vand a v, .vor a v, .vxor a v, .vshl a v,
    .vshr a v, .vmov a v, .vcvt a v, .vadd96 a v, .vrcp a v, .vrsq a v, .vexp2 a v, .vlog2 a v, .vsin a v, .vcos a v, .vlane a v,
    .vbits a v, .grainDraw a v, .dropmask a v]
  ++ [.sadd a x, .ssub a x, .smul a x, .sand a x, .sor a x, .sxor a x, .sshl a x, .sshr a x, .smov a x, .smovh a x, .scmp a x,
    .sread a x, .sfromv a x]
  ++ [.bra a g, .brx a g, .call a g, .sbra a g, .exit a g, .syncRake a g, .barBlock a g, .fence a g, .trap a g, .nop a g]
  ++ [.ld a m, .st a m, .atom a m, .atomCas a m] ++ (wideForms a l y r).map (fun e => e.1)

/-- What a precise fault of an issuing group leaves (R142): the bed's record where none was held, else one more lost; the
block's threads ended and its kernel FAILED; a BED_FAULT event held; no register, slot, memory or grain state changed. -/
def Faulted (a : At) (c : Issue) (s1 t : State) (code : Nat) : Prop :=
  let home := c.rake.home.getD (0, 0)
  let d := s1.bed a.pan a.bed
  let d' := t.bed a.pan a.bed
  (d.fValid = false → d'.fValid = true ∧ d'.fCode = code ∧ d'.fRake = home.2 ∧ d'.fBlock = home.1 ∧ d'.fKernel = d.kernel
      ∧ d'.fPc = c.pc ∧ d'.fActive = c.active ∧ d'.fLost = d.fLost)
    ∧ (d.fValid = true → d'.fCode = d.fCode ∧ d'.fPc = d.fPc ∧ d'.fLost = satAdd 32 d.fLost 1)
    ∧ t.events.queue = s1.events.queue ∧ t.events.held ≠ []
    ∧ (∀ x, d.block? home.1 = some x → d'.failed = true ∧ d'.curFailed = true
        ∧ (∀ r ∈ x.slots, ∀ l, l < 32 → ((t.rake a.pan a.bed r).thread l).live = false)
        ∧ ∀ p b k, (∀ r ∈ x.slots, rakeKey p b k ≠ rakeKey a.pan a.bed r) → t.rake p b k = s1.rake p b k)
    ∧ (∀ p b k, t.rake p b k = { s1.rake p b k with threads := (t.rake p b k).threads, syncFrom := (t.rake p b k).syncFrom })
    ∧ (∀ p b, bedKey p b ≠ bedKey a.pan a.bed → t.bed p b = s1.bed p b)
    ∧ d'.scratch = d.scratch ∧ d'.slots = d.slots ∧ d'.flood = d.flood ∧ d'.drainBank = d.drainBank

/-! ### Cores -/

/-- A core runs, waits at nothing, and no FIFO holds a store to normal memory, nor this core a release. -/
abbrev Quiet (s : State) (n : Nat) : Prop :=
  coreRuns s n = true ∧ (∀ e ∈ s.cores, waitingStores s e.1 = false) ∧ waitingStores s n = false ∧ coreWaits s n = false
    ∧ ∀ x ∈ (s.core n).fifo ++ (s.core n).outstanding, x.release = false

/-- The core at the beginning of an instruction: its level is the access's, and a LOAD.RSV begins what may be a constrained loop. -/
abbrev begun (i : Instr) (n : Nat) (s : State) : State := s.updCore n (fun c => c.next i)

/-- An instruction with an order field begins: what happened before a release is performed (R255, R257). -/
abbrev begunOrdered (release : Bool) (i : Instr) (n : Nat) (s : State) : State :=
  if release then releaseView (begun i n s) n else begun i n s

/-- Nothing of a core waits to be performed. -/
abbrev Performed (s : State) (n : Nat) : Prop := (s.core n).wc = [] ∧ (s.core n).fifo = [] ∧ (s.core n).outstanding = []

/-- No store of the vector engines races with a core's reads. -/
abbrev NoRaces (s : State) (n : Nat) : Prop := ∀ r ∈ s.coh.kept, racing (s.core n).viewer r = false

/-- A core's L1D holds a line, and its L2 alone holds it, k, for writing and without poison. -/
abbrev OwnedLine (s : State) (n l : Nat) (k : CacheLine) : Prop :=
  l ∈ (s.core n).l1d ∧ s.holders l = [(l2Agent n, k)] ∧ (k.st = .m ∨ k.st = .e) ∧ k.data.length = 64 ∧ k.poison = false
    ∧ tableOk none s.coh.lines = true

/-- The write-combining buffer of a core holds none of the lines. -/
abbrev NotCombining (s : State) (n : Nat) (ls : List Nat) : Prop := ∀ w ∈ (s.core n).wc, w.line ∉ ls

/-- From s1 to t nothing changes but one core, and the step has drawn its free values. -/
def OnlyCore (n : Nat) (s1 t : State) : Prop :=
  t = { s1 with cores := t.cores, free := s1.free + 1 } ∧ ∀ k, k ≠ n → t.core k = s1.core k

/-- A byte of a line the core's L2 holds. -/
def l2Byte (n : Nat) (s : State) (x : Nat) : Byte :=
  (((s.cached (l2Agent n) (lineOf x)).map CacheLine.data).getD []).getD (x % 64) 0

/-- The part of an access lies in one line of normal memory. -/
abbrev InLine (g : Seg) : Prop := g.device = false ∧ 0 < g.len ∧ g.pa % 64 + g.len ≤ 64

/-! ### Queue pairs -/

/-- Runs of bytes laid over a memory one after the other; every other byte is as before. -/
def Laid (before after : Nat → Byte) (ws : List (Nat × List Byte)) : Prop :=
  ∀ x, after x =
    match ws.reverse.find? (fun w => decide (w.1 ≤ x) && decide (x < w.1 + w.2.length)) with
    | some w => w.2.getD (x - w.1) 0
    | none => before x

/-- Where a queue pair's next completion goes, and its 32 bytes (R365). -/
def cqSlot (s : State) (x : Qp) (q wr bytes imm opcode status : Nat) : Nat × List Byte :=
  (canon s (x.cqBase + x.cqPi % cqEntries x * 32),
    leBytes 8 wr ++ leBytes 4 bytes ++ leBytes 4 imm ++ leBytes 2 q ++ leBytes 1 opcode ++ leBytes 1 status
      ++ leBytes 1 ((x.cqPi / cqEntries x + 1) % 2 + 2 * boolN x.drained) ++ leBytes 11 0)

/-- No store of the vector engines races with the reads of a network I/O die. -/
abbrev NoNetRaces (s : State) : Prop := ∀ r ∈ s.coh.kept, racing { core := true } r = false

/-- The completion queue has room. -/
abbrev CqRoom (x : Qp) : Prop := x.cqPi - x.cqCi < cqEntries x

/-- n bytes at a virtual address of a region lie in one page, at a physical address. -/
abbrev InPage (s : State) (r : Region) (va n pa : Nat) : Prop := va % 4096 + n ≤ 4096 ∧ heldPa s r.pages va = some pa

/-- A RoCE request arrives whole on a port that is up, for an RC queue pair of that port that receives. -/
abbrev Arrives (m : RoceMsg) (s : State) (q : Nat) (x : Qp) : Prop :=
  (s.port m.port).link = true ∧ m.icrcOk = true ∧ m.ecnCe = false ∧ m.qpn = q + 0x10000 ∧ s.qp q = some x ∧ x.raw = false
    ∧ x.port = m.port ∧ (x.state = .rtr ∨ x.state = .rts)

/-- One frame received on a port. -/
def received (s : State) (j : Nat) : Port := { s.port j with rx := satAdd 32 (s.port j).rx 1 }

/-! ### Mailbox commands -/

/-- The mailbox's request stands at the front of the latched ones and carries the command code, and the package answers it. -/
abbrev Asked (s : State) (box code : Nat) : Prop :=
  answers s box = true ∧ s.salter.latched.head? = some box ∧ (s.box box).command.toNat = code

/-- The request is asked, has the length given, and its reserved bytes are zero. -/
abbrev Whole (s : State) (box code len : Nat) (reserved : List (Nat × Nat)) : Prop :=
  Asked s box code ∧ (s.box box).length.toNat = len ∧ ∀ r ∈ reserved, ∀ x ∈ (s.box box).bytes r.1 r.2, x = 0

/-- The front request is no longer latched. -/
def popped (s : State) : State := { s with salter := { s.salter with latched := s.salter.latched.drop 1 } }

/-- The final hand-back of a mailbox (R383, R386): its status, detail and response, owner and held cleared, and for a remote
mailbox the response sent; u is the state without it, and nothing else differs. -/
def Handed (u t : State) (box status detail : Nat) (image : Bool) (resp : List Byte) : Prop :=
  let b := u.box box
  let k := t.box box
  k = { b with owner := false, held := false, image := image, status := BitVec.ofNat 16 status, detail := BitVec.ofNat 32 detail,
               length := BitVec.ofNat 16 resp.length, time := BitVec.ofNat 64 u.now, payload := k.payload, lastResponse := k.lastResponse }
    ∧ (∀ o, tget 0 k.payload o = if o < resp.length then resp.getD o 0 else tget 0 b.payload o)
    ∧ (∀ j, j ≠ box → t.box j = u.box j)
    ∧ t = { u with boxes := t.boxes, ports := t.ports, out := t.out, salter := { u.salter with sendSeq := t.salter.sendSeq }, free := t.free }
    ∧ (isRemote box = false → k.lastResponse = b.lastResponse ∧ t.out = u.out ∧ t.ports = u.ports ∧ t.salter = u.salter)
    ∧ (isRemote box = true → k.lastResponse = some (k.header ++ resp)
        ∧ ∀ key ident port, b.requester = some (key, ident, port) → u.cfg.destinations.any (fun d => d.ident = ident) = false →
          (u.port port).link = true → ∃ n, t.out = .mboxResponse box ident key n (k.header ++ resp) :: u.out)

/-- The ACCEPTED hand-back of a command that goes on as d (R387). -/
def Accepted (u t : State) (box : Nat) (d : Deferred) : Prop :=
  let b := u.box box
  let k := t.box box
  k = { b with owner := false, held := true, image := false, status := 1, detail := 0, length := 0, time := BitVec.ofNat 64 u.now,
               lastResponse := k.lastResponse }
    ∧ (∀ j, j ≠ box → t.box j = u.box j)
    ∧ t = { u with boxes := t.boxes, ports := t.ports, out := t.out, free := t.free,
                   salter := { u.salter with sendSeq := t.salter.sendSeq, deferred := u.salter.deferred ++ [(box, d)] } }
    ∧ (isRemote box = false → t.out = u.out ∧ t.ports = u.ports ∧ t.salter.sendSeq = u.salter.sendSeq ∧ k.lastResponse = b.lastResponse)

/-- A command refused with a status and, for BAD_ARGUMENT, an offset: handed back, and nothing else changes. -/
def Refused (s t : State) (box status off : Nat) : Prop :=
  Handed (popped s) t box status (if status = stBadArgument then off else if status = stWrongState then s.pkg.st.code else 0) false []

/-- The command's mailbox may issue it where its source's flag is true: host, remote, tray (R394). -/
def maySend (box : Nat) (host remote tray : Bool) : Prop :=
  (box < 64 → host = true) ∧ (64 ≤ box → box < 72 → remote = true) ∧ (box = 72 → tray = true)

/-- A deferred command is no longer among those that run. -/
def ended (s : State) (box : Nat) : State :=
  { s with salter := { s.salter with deferred := s.salter.deferred.filter (fun e => decide (e.1 ≠ box)) } }

end Sys2Proof.Safety
end

