-- ==== Sys2Proof/Certificates/Slice0/Obligations.lean ====
section
/-!
DEFINITION. The statements for the provers. -/

open Sys2Proof Sys2Proof.Machine Sys2Proof.Safety

/-- A step runs the command at the front of the queue; an empty queue lets time pass, slewed by at most 10 ppm (R35). -/
def Obligations.StepRunsTheFrontCommand : Prop :=
  (∀ (c : Instr) (rest : List Instr) (s : State), step { s with pending := c :: rest } = exec c { s with pending := rest })
    ∧ (∀ s : State, s.pending = [] → ∃ t, step s = .next t
        ∧ (t = (passTime s).drawn ∨ (∃ u ∈ turns (passTime s), t = (runTurn (passTime s) u).drawn)
          ∨ (s.pkg.st ≠ .off ∧ ∃ c, t = (runChance (passTime s) c).drawn)))
    ∧ (∀ s : State, s.time.slew = 0 → passTime s = { s with now := s.now + 1 })
    ∧ (∀ s : State, s.time.slew ≠ 0 → s.time.slewAcc < 99999 →
        passTime s = { s with now := s.now + 1, time := { s.time with slewAcc := s.time.slewAcc + 1 } })
    ∧ (∀ s : State, s.time.slew ≠ 0 → 99999 ≤ s.time.slewAcc →
        ((passTime s).now : Int) = s.now + 1 + s.time.slew.sign
          ∧ passTime s = { s with now := (passTime s).now, time := { s.time with slewAcc := 0, slew := s.time.slew - s.time.slew.sign } })

/-- What reset leaves, by the Reset columns of the register tables. -/
def Obligations.ResetLeavesTheManualsValues : Prop :=
  let s := State.reset
  s.time.lock = .free ∧ s.tide.number = 0 ∧ s.tide.step = 0 ∧ s.tide.skips = 0
    ∧ (∀ p, (s.pan p).margin = 0xFFFFFFFF ∧ (s.pan p).freeSeed = 0 ∧ (s.pan p).service = true ∧ (s.pan p).band = 0)
    ∧ (∀ n, (s.core n).pfEnable = true ∧ (s.core n).pfDescend = true ∧ (s.core n).pfDistance = 8 ∧ (s.core n).abtValid = false)
    ∧ (∀ d, (s.coreDie d).channels = 0xFF)
    ∧ s.coh.agent = 0xFF ∧ s.coh.die = 0xFF ∧ s.coh.step = 0
    ∧ (∀ m, (s.box m).owner = false ∧ (s.box m).held = false ∧ (s.box m).status = 0)
    ∧ s.power.cap = 3600 ∧ s.power.converters = 4 ∧ s.power.minMv = 0xFFFF
    ∧ s.events.filterCe = true ∧ s.events.filterNote = true ∧ s.events.last = 0 ∧ s.board.seq = .off

/-- The lock states (R32, R33, R36) and the messages that move them (R30, R31). -/
def Obligations.LockStateMovesByTheTable : Prop :=
  (∀ s : State, s.time.goodSyncs = 16 → s.time.lock = .acquiring ∨ s.time.lock = .holdover →
    exec .ptpLocked s = .next { s with time := { s.time with lock := .locked } })
  ∧ (∀ s : State, timeUp s = true → s.time.lock = .locked → Completes .syncTimeout s (fun t =>
      t.now = max s.now (s.time.lastSync + 3 * syncInterval s.time.syncLog)
        ∧ t.time = { s.time with lock := .holdover, holdoverAt := t.now, goodSyncs := 0 } ∧ Logs { s with now := t.now } t evHoldover
        ∧ t = { s with time := t.time, events := t.events, now := t.now }))
  ∧ (∀ s : State, timeUp s = true → s.time.lock = .acquiring → Completes .syncTimeout s (fun t =>
      t.now = max s.now (s.time.lastSync + 3 * syncInterval s.time.syncLog)
        ∧ t.time = { s.time with lock := .free, goodSyncs := 0 } ∧ Logs { s with now := t.now } t evTimeFree
        ∧ t = { s with time := t.time, events := t.events, now := t.now }))
  ∧ (∀ s : State, timeUp s = true → s.time.lock = .holdover →
      exec .syncTimeout s = .next { s with
        now := max s.now (s.time.lastSync + 3 * syncInterval s.time.syncLog), time := { s.time with goodSyncs := 0 } })
  ∧ (∀ s : State, s.time.lock = .holdover → Completes .holdoverLimit s (fun t =>
      t.time = { s.time with lock := .free, goodSyncs := 0 }
        ∧ t.now = max s.now (s.time.holdoverAt + s.cfg.holdoverMs * 1000000)
        ∧ t.events.queue.length = s.events.queue.length + 1 ∧ t.events.queue.getLast?.map Event.code = some evTimeFree
        ∧ t = { s with time := t.time, events := t.events, now := t.now }))
  ∧ (∀ (m : PtpMsg) (s : State), (s.port m.port).link = true → timeUp s = true → m.authOk = true →
      m.domain = s.cfg.ptpDomain → (s.cfg.ptpPorts.take 4).contains m.port = true → m.transport ≠ .other →
      (m.kind = .sync ∧ m.twoStep = false ∧ -7 ≤ m.logSync ∧ m.logSync ≤ 0
        ∨ m.kind = .followUp ∧ s.time.syncOpen = some (m.port, m.master, m.seq)) →
      s.time.master = some m.master → s.time.lock = .free → Completes (.ptpMessage m) s (fun t =>
        t.time.lock = .acquiring ∧ t.time.lastSync = s.now
          ∧ t.time.offset = BitVec.ofInt 32 (m.offsetNs - tget 0 s.time.pathDelay m.port)
          ∧ t.out = .ptpDelayRequest m.port (s.cfg.ptpPeer.contains m.port) :: s.out
          ∧ t = { s with time := t.time, now := t.now, ports := t.ports, out := t.out }))
  ∧ (∀ (m : PtpMsg) (s : State), (s.port m.port).link = true → timeUp s = true → m.authOk = true →
      m.domain = s.cfg.ptpDomain → (s.cfg.ptpPorts.take 4).contains m.port = true → m.transport ≠ .other →
      s.time.master = some m.master →
      (m.kind = .sync → m.twoStep = true → -7 ≤ m.logSync → m.logSync ≤ 0 → Completes (.ptpMessage m) s (fun t =>
        t = { s with ports := t.ports, time := { s.time with syncOpen := some (m.port, m.master, m.seq), syncLog := m.logSync } }))
      ∧ (m.kind = (if s.cfg.ptpPeer.contains m.port then .pdelayResp else .delayResp) → Completes (.ptpMessage m) s (fun t =>
        t = { s with ports := t.ports, time := { s.time with pathDelay := tput 0 s.time.pathDelay m.port m.offsetNs } })))
  ∧ (∀ (m : PtpMsg) (s : State), (s.port m.port).link = true → timeUp s = true → m.authOk = true →
      m.domain = s.cfg.ptpDomain → (s.cfg.ptpPorts.take 4).contains m.port = true → m.transport ≠ .other → m.kind = .announce →
      m.arb = false →
      s.time.master.isSome = true →
      (bestMaster (hearMaster s.time.masters ⟨m.master, m.rank, m.port⟩)).map Master.id ≠ s.time.master →
      Completes (.ptpMessage m) s (fun t =>
        t.time.master = (bestMaster (hearMaster s.time.masters ⟨m.master, m.rank, m.port⟩)).map Master.id
          ∧ (s.time.lock = .locked → t.time.lock = .holdover ∧ Logs s t evHoldover)
          ∧ (s.time.lock = .acquiring → t.time.lock = .acquiring ∧ t.time.goodSyncs = 0)
          ∧ t = { s with time := t.time, events := t.events, ports := t.ports }))
  ∧ (∀ (m : PtpMsg) (s : State), (s.port m.port).link = true → timeUp s = true → m.authOk = true →
      m.kind = .announce → m.arb = true → Completes (.ptpMessage m) s (fun t => t = { s with ports := t.ports }))
  ∧ (∀ (m : PtpMsg) (s : State), (s.port m.port).link = true → timeUp s = true → m.authOk = false →
      (s.port m.port).macsec = false → Completes (.ptpMessage m) s (fun t =>
        (t.port m.port).dropCtl = satAdd 16 (s.port m.port).dropCtl 1 ∧ t = { s with ports := t.ports }))

/-- TIDE_IN (R38, R39) and the copies of package time (R37). -/
def Obligations.TideInEdgesSteerTheTicks : Prop :=
  (∀ (e n : Nat) (s : State), timeUp s = true → s.cfg.tideIn = true → s.time.tideIn = true → edgeTickOf s e = some n →
    exec (.tideInEdge e) s = .next { s with
      now := max s.now e
      time := { s.time with edgeTick := some n, missing := 0, slew := (tickTime s.tide n : Int) - (e : Int) } })
  ∧ (∀ (e : Nat) (s : State), timeUp s = true → s.cfg.tideIn = true → s.time.tideIn = true → edgeTickOf s e = none →
      exec (.tideInEdge e) s = .next { s with now := max s.now e })
  ∧ (∀ (e n : Nat) (s : State), timeUp s = true → s.cfg.tideIn = true → s.time.tideIn = false → edgeTickOf s e = some n →
      exec (.tideInEdge e) s = .next { s with
        now := max s.now e, time := { s.time with edgeTick := some n, goodEdges := min 16 (s.time.goodEdges + 1) } })
  ∧ (∀ (e : Nat) (s : State), timeUp s = true → s.cfg.tideIn = true → s.time.tideIn = false → edgeTickOf s e = none →
      exec (.tideInEdge e) s = .next { s with now := max s.now e, time := { s.time with goodEdges := 0 } })
  ∧ (∀ s : State, s.cfg.tideIn = true → s.tide.running.isSome = true → s.time.edgeTick ≠ some s.tide.number →
      s.time.tideIn = true → Completes .tideInMissing s (fun t =>
        t.time = { s.time with edgeTick := some s.tide.number, missing := min 4 (s.time.missing + 1) }
          ∧ t.events.queue.length = s.events.queue.length + 1 ∧ t.events.queue.getLast?.map Event.code = some evTideInMissing
          ∧ t = { s with time := t.time, events := t.events, now := t.now }))
  ∧ (∀ s : State, s.time.tideIn = true → s.time.missing = 4 → s.time.lock = .locked → Completes .tideInFallback s (fun t =>
      t.time = { s.time with tideIn := false, missing := 0, goodEdges := 0 } ∧ Logs s t evSourceChange
        ∧ t = { s with time := t.time, events := t.events }))
  ∧ (∀ s : State, s.time.tideIn = true → s.time.missing = 4 → s.time.lock ≠ .locked → Completes .tideInFallback s (fun t =>
      t.time.tideIn = false ∧ t.time.lock = .free ∧ t = { s with time := t.time, events := t.events }))
  ∧ (∀ s : State, s.cfg.tideIn = true → s.time.tideIn = false → s.time.goodEdges = 16 → Completes .sourceChange s (fun t =>
      t.time = { s.time with tideIn := true, missing := 0, goodEdges := 0 } ∧ Logs s t evSourceChange
        ∧ t = { s with time := t.time, events := t.events }))
  ∧ (∀ (stop : Nat) (d : Int) (s : State), timeUp s = true → tget 0 s.time.drift stop = 0 → 2000 < d.natAbs →
      Completes (.timeSyncMessage stop d) s (fun t =>
        tget 0 t.time.drift stop = d ∧ Logs s t evSluiceTiming ∧ t = { s with time := t.time, events := t.events }))
  ∧ (∀ (stop : Nat) (d : Int) (s : State), timeUp s = true → tget 0 s.time.drift stop ≠ 0 →
      exec (.timeSyncMessage stop d) s = .next { s with time := { s.time with drift := tput 0 s.time.drift stop 0 } })

/-- The tick (R27, R53, R55, R63, R67). -/
def Obligations.TideTickExecutesSkipsOrStops : Prop :=
  (∀ (s : State) (slot : Nat) (pl : Plan), s.tide.running = some slot → s.plan slot = some pl → s.tide.stopping = false →
    s.tide.start = none → s.afterLate (s.tide.number + 1) = false →
    s.tide.declared.find? (fun k => k.tide = s.tide.number + 1) = none →
    Completes (.tideTick (s.tide.number + 1)) s (fun t =>
      t.tide.number = s.tide.number + 1 ∧ t.tide.step = s.tide.nextStep ∧ t.tide.nextStep = s.tide.nextStep + 1
        ∧ t.tide.skipping = false ∧ t.tide.skipRun = 0 ∧ t.tide.skips = s.tide.skips ∧ t.tide.pulses = s.tide.pulses + 1
        ∧ t.now = max s.now (tickTime s.tide (s.tide.number + 1)) ∧ t.tide.running = some slot))
  ∧ (∀ (s : State) (slot : Nat) (k : Skip), s.tide.running = some slot → s.tide.stopping = false → s.tide.start = none →
      s.tide.declared.find? (fun k => k.tide = s.tide.number + 1) = some k →
      Completes (.tideTick (s.tide.number + 1)) s (fun t =>
        t.tide.number = s.tide.number + 1 ∧ t.tide.skipping = true ∧ t.tide.step = s.tide.step
          ∧ t.tide.nextStep = s.tide.nextStep ∧ t.tide.skips = satAdd 32 s.tide.skips 1
          ∧ t.tide.skipRun = satAdd 16 s.tide.skipRun 1 ∧ t.tide.lastSkip = s.tide.number + 1
          ∧ t.tide.pulses = s.tide.pulses + 1
          ∧ t.tally.steps.getLast? = some ⟨2, s.tide.nextStep, s.tide.number + 1, k.position, k.cause, 0⟩))
  ∧ (∀ (s : State) (slot : Nat), s.tide.running = some slot → s.tide.stopping = true → s.stepOpen = false → s.pkg.st = .serving →
      Completes (.tideTick (s.tide.number + 1)) s (fun t =>
        t.tide.running = none ∧ t.tide.stopping = false ∧ t.tide.start = none ∧ t.pkg.st = .ready
          ∧ t.tide.number = s.tide.number + 1 ∧ t.tide.step = s.tide.step ∧ t.plan0.isSome = s.plan0.isSome))
  ∧ (∀ (s : State) (x : Start) (pl : Plan), s.tide.running = none → s.tide.start = some x → s.pkg.st = .ready →
      s.plan x.slot = some pl → s.tide.declared.find? (fun k => k.tide = x.n0) = none →
      Completes (.tideTick x.n0) s (fun t =>
        t.tide.running = some x.slot ∧ t.tide.start = none ∧ t.pkg.st = .serving ∧ t.tide.periodUs = pl.periodUs
          ∧ t.tide.epochSec = x.sec ∧ t.tide.epochNs = x.ns ∧ t.tide.number = x.n0 ∧ t.tide.step = 0 ∧ t.tide.nextStep = 1
          ∧ t.tide.skips = 0))

/-- Watch points, skips and stalls (R57 to R66), and the re-run after a drain (R296). -/
def Obligations.WatchPointDeclaresSkips : Prop :=
  (∀ (s : State) (slot step : Nat) (pl : Plan), s.tide.running = some slot → nextRun s s.tide.number = some (pl, step) →
    s.afterLate (s.tide.number + 1) = false → s.tide.stopping = false →
    (checkInputs (s.reach (watchTime s.tide s.tide.number)) pl step).2.1 = true →
    Completes (.watchPoint s.tide.number) s (fun t =>
      t.tide.declared = s.tide.declared
        ∧ t.tide.absentNext = (checkInputs (s.reach (watchTime s.tide s.tide.number)) pl step).2.2))
  ∧ (∀ (s : State) (slot step : Nat) (pl : Plan), s.tide.running = some slot → nextRun s s.tide.number = some (pl, step) →
      (s.plan slot).isSome → s.afterLate (s.tide.number + 1) = false → s.tide.stopping = false →
      (checkInputs (s.reach (watchTime s.tide s.tide.number)) pl step).2.1 = false →
      Completes (.watchPoint s.tide.number) s (fun t =>
        ∃ k : Skip, t.tide.declared = s.tide.declared ++ [k] ∧ k.tide = nextTide s s.tide.number ∧ k.cause = 2 ∧ k.own = true
          ∧ k.position = s.tide.own))
  ∧ (∀ (s : State) (slot step : Nat) (pl : Plan), s.tide.running = some slot → nextRun s s.tide.number = some (pl, step) →
      (s.plan slot).isSome → s.afterLate (s.tide.number + 1) = true → Completes (.watchPoint s.tide.number) s (fun t =>
        ∃ k : Skip, t.tide.declared = s.tide.declared ++ [k] ∧ k.tide = nextTide s s.tide.number ∧ k.cause = 1 ∧ k.own = true
          ∧ k.position = s.tide.own))
  ∧ (∀ (s : State) (m : ControlMsg), (s.port m.port).link = true → m.type = 1 → controlOk s m = true → noticeOk s m = true →
      tideToCome s (leField m.body 0 8) = true → Completes (.skipNotice m) s (fun t =>
        t.tide = { s.tide with declared := s.tide.declared ++
          [{ tide := leField m.body 0 8, cause := leField m.body 9 1, position := leField m.body 8 1, own := false }] }
          ∧ (t.port m.port).ctlAccepted = satAdd 32 (s.port m.port).ctlAccepted 1
          ∧ t = { s with tide := t.tide, ports := t.ports, salter := t.salter }))
  ∧ (∀ (s : State) (m : ControlMsg), (s.port m.port).link = true → m.type = 1 → controlOk s m = true → noticeOk s m = true →
      tideToCome s (leField m.body 0 8) = false → Completes (.skipNotice m) s (fun t =>
        t.tide = { s.tide with stopping := true, start := none } ∧ Logs s t evStringDesync))
  ∧ (∀ s : State, s.tide.running.isSome = true → 8 ≤ s.tide.stallRun → Completes .planStalled s (fun t =>
      t.tide.running = none ∧ t.pkg.st = (if s.pkg.st = .serving then .ready else s.pkg.st)
        ∧ (∃ e ∈ t.events.queue, e.code = evPlanStalled)))
  ∧ (∀ (s : State) (c : StepRun) (pl : Plan), s.pkg.rerun = true → s.pkg.st = .serving → s.tide.cur = some c →
      s.plan c.slot = some pl → Completes .drainRerun s (fun t =>
        t.pkg.rerun = false ∧ t.tide.cur.map StepRun.step = some c.step ∧ t.tide.cur.map StepRun.tide = some c.tide))

/-- Kernels, blocks and reseeding (R106 to R111, R135, R136, R169). -/
def Obligations.KernelsAndBlocksStartAndEnd : Prop :=
  (∀ (s : State) (p b : Nat) (k : Kernel), s.panRuns p = true → s.stepOpen = true → s.pkg.st = .serving → s.pkg.rerun = false →
    (s.bed p b).cur = none → (s.pan p).grainBusy = false → (s.kernelsOf p b)[(s.bed p b).retired]? = some k →
    Completes (.kernelStart p b) s (fun t =>
      (t.bed p b).cur = some k ∧ (t.bed p b).run = 1 ∧ (t.bed p b).kernel = (s.bed p b).retired ∧ (t.bed p b).blocks = []
        ∧ (t.bed p b).ended = [] ∧ (t.bed p b).slots = [] ∧ t = { s with beds := t.beds, coh := { s.coh with kept := t.coh.kept } }))
  ∧ (∀ (s : State) (p b i r : Nat) (k : Kernel), s.panRuns p = true → (s.bed p b).cur = some k → blockDue (s.bed p b) k i = true →
      r < k.blockRakes → i % k.resident * k.blockRakes + r < 48 →
      Completes (.blockStart p b i) s (fun t =>
        let x := t.rake p b (i % k.resident * k.blockRakes + r)
        x.home = some (i, r) ∧ (∀ l, l < 32 → x.thread l = .running ∧ x.pc l = k.entry ∧ x.groupOf l = 0)
          ∧ (∀ l n, x.vget n l = 0) ∧ (∀ n, n ≠ 7 → x.pget n = 0) ∧ x.pget 7 = 0xFFFFFFFF
          ∧ x.sget 0 = k.args ∧ x.sget 1 = BitVec.ofNat 64 i ∧ x.sget 2 = BitVec.ofNat 64 k.blocks ∧ x.sget 3 = BitVec.ofNat 64 r
          ∧ x.sget 4 = BitVec.ofNat 64 (k.scratchBase + i % k.resident * k.scratchPer)
          ∧ x.sget 5 = BitVec.ofNat 64 ((s.tide.cur.map StepRun.step).getD 0)
          ∧ x.sget 6 = BitVec.ofNat 64 ((s.tide.cur.map StepRun.tide).getD 0)
          ∧ x.sget 7 = BitVec.ofNat 64 ((s.curPlan.map Plan.statusVa).getD 0) ∧ (∀ n, 8 ≤ n → x.sget n = 0)
          ∧ (∃ y, (t.bed p b).blocks = (s.bed p b).blocks ++ [y] ∧ y.index = i ∧ y.position = i % k.resident)
          ∧ t = { s with beds := t.beds, rakes := t.rakes }))
  ∧ (∀ (s : State) (p b i : Nat) (x : Block) (k : Kernel), (s.bed p b).block? i = some x → s.panRuns p = true →
      (∀ r ∈ x.slots, (s.rake p b r).live = 0) → blockBusy s p b x = false → (s.bed p b).cur = some k →
      Completes (.blockEnd p b i) s (fun t =>
        (t.bed p b).blocks = (s.bed p b).blocks.filter (fun y => y.index ≠ i)
          ∧ ((s.bed p b).ended.length + 1 < k.blocks → (t.bed p b).ended = i :: (s.bed p b).ended ∧ (t.bed p b).cur = some k)
          ∧ (k.blocks ≤ (s.bed p b).ended.length + 1 →
              (t.bed p b).cur = none ∧ (t.bed p b).retired = (s.bed p b).retired + 1)))
  ∧ (∀ (s : State) (p b i t0 : Nat) (w : Option Nat) (x : Block) (k : Kernel), (s.bed p b).block? i = some x → (s.bed p b).run = 1 →
      (s.bed p b).cur = some k → firstWait s p b x = some (t0, w) → orphanDue s k.watchdog (some t0) = true → (s.bed p b).fValid = false →
      (∀ r ∈ x.slots, ∀ l, l < 32 → tget none (s.rake p b r).syncFrom l ≠ none → ∃ m, (s.rake p b r).thread l = .atSync m) →
      Completes (.barrierOrphan p b i) s (fun t =>
        (t.bed p b).failed = true ∧ (t.bed p b).curFailed = true ∧ (t.bed p b).fValid = true ∧ (t.bed p b).fCode = 5
          ∧ (t.bed p b).fBlock = i ∧ t.events.queue = s.events.queue ∧ t.events.held ≠ []
          ∧ t = { s with beds := t.beds, rakes := t.rakes, events := t.events, salter := { s.salter with movers := t.salter.movers } }))
  ∧ (∀ (s : State) (p b : Nat), p < s.cfg.variant.pans → b < 16 → (s.bed p b).cur.isSome = true →
      Completes (.grainReseed p) s (fun t => (t.pan p).grainRefused = true ∧ t = { s with pans := t.pans }))
  ∧ (∀ (s : State) (p : Nat), p < s.cfg.variant.pans → (∀ b, b < 16 → (s.bed p b).cur = none) →
      Completes (.grainReseed p) s (fun t => (t.pan p).grainBusy = true ∧ t.mem = s.mem))
  ∧ (∀ (s : State) (p : Nat), (s.pan p).grainBusy = true → Completes (.reseedComplete p) s (fun t =>
      (t.pan p).grainBusy = false ∧ t.mem = s.mem))

/-- Vector arithmetic: result, frame and completion (R116, R130, R147). -/
def Obligations.VectorArithmeticWritesVd : Prop :=
  (∀ (op : VArith) (a : At) (f : VFmt) (s : State) (c : Issue) (s1 : State),
    VecRuns a f s c s1 (vfieldsOk f false && vsrcOk c f (vtypeD f).regs true true (decide (op = .fma))
      && c.rake.regOk f.vd.toNat (vtypeD f).regs) →
    Completes (arithInstr op a f) s (fun t => VecResult a f c s1 t (vtypeD f).regs (arithLane op c s1 f)))
  ∧ (∀ (op : VArith) (a : At) (f : VFmt) (s : State) (c : Issue) (s1 : State) (l : Nat),
      VecRuns a f s c s1 (vfieldsOk f false && vsrcOk c f 1 true true (decide (op = .fma)) && c.rake.regOk f.vd.toNat 1) →
      f.type = 0 → f.sat = 0 → f.na = 0 → f.nb = 0 → f.nc = 0 → f.bmode = 0 → l < 32 → lane (c.guarded f.gd) l = true →
      Completes (arithInstr op a f) s (fun t =>
        (rakeAt a t).vget f.vd.toNat l =
          arithWord op (c.rake.vget f.va.toNat l) (c.rake.vget f.vb.toNat l) (c.rake.vget f.vc.toNat l)))

/-- The bitwise, shift, move, count and RAW96 instructions (R97, R98, R116, R147, R518). -/
def Obligations.VectorLogicMovesAndShifts : Prop :=
  ∀ (a : At) (f : VFmt) (s : State) (c : Issue) (s1 : State),
    let t := vtypeD f
    let fields (ua ub uc more : Bool) : Prop := VecRuns a f s c s1
      (vfieldsOk f false && vsrcOk c f t.regs ua ub uc && more && c.rake.regOk f.vd.toNat t.regs)
    let gives (i : Instr) (v : Nat → Nat) : Prop := Completes i s (fun t' => VecResult a f c s1 t' t.regs v)
    let w := t.valBits
    let tag (x : Nat) : Nat := if t.kind = .raw then 2 ^ 96 * (x / 2 ^ 96 % 4) else 0
    let A := opA c f t
    let B := opB c f t
    let each (g : Nat → Nat → Nat) (l : Nat) : Nat := packElems t.bits t.elems (fun i => g (elem t.bits i (A l)) (elem t.bits i (B l)))
    (fields true true false true →
      gives (.vand a f) (fun l => A l &&& B l) ∧ gives (.vor a f) (fun l => A l ||| B l) ∧ gives (.vxor a f) (fun l => A l ^^^ B l)
        ∧ gives (.vshl a f) (each (fun x n => tag x + if w ≤ n % 2 ^ w then 0 else x % 2 ^ w * 2 ^ (n % 2 ^ w) % 2 ^ w))
        ∧ gives (.vsel a f) (fun l => if lane (c.rake.pget f.pd.toNat) l then A l else B l))
    ∧ (fields true true false (decide (f.sub = 0)) → gives (.vshr a f)
        (each (fun x n => tag x + if w ≤ n % 2 ^ w then 0 else x % 2 ^ w / 2 ^ (n % 2 ^ w))))
    ∧ (fields true true false (decide (f.sub = 1)) → gives (.vshr a f)
        (each (fun x n => tag x + sarElem w (x % 2 ^ w) (n % 2 ^ w))))
    ∧ (fields false true false true → gives (.vmov a f) B)
    ∧ (fields true false false (decide (f.sub = 0)) → gives (.vbits a f)
        (fun l => packElems t.bits t.elems (fun i => (List.range w).countP (fun k => (elem t.bits i (A l)).testBit k))))
    ∧ (fields true false false (decide (f.sub = 1)) → gives (.vbits a f)
        (fun l => packElems t.bits t.elems (fun i => leadZeros w (elem t.bits i (A l)))))
    ∧ (VecRuns a f s c s1 (vfieldsOk f false && c.rake.regOk f.vd.toNat 1) →
        Completes (.vlane a f) s (fun t' => VecResult a f c s1 t' 1 (fun l => l)))
    ∧ (VecRuns a f s c s1 (vfieldsOk f false && vsrcOk c f 4 true true false && c.rake.regOk f.vd.toNat 4) →
        Completes (.vadd96 a f) s (fun t' => VecResult a f c s1 t' 4 (fun l =>
          let x := opA c f rawType l
          let y := opB c f rawType l
          (x + y) % 2 ^ 96 + 2 ^ 96 * tagAdd (fld x 96 2) (fld y 96 2))))
    ∧ (f.type = 1 → f.na = 0 → f.nb = 0 → f.bmode = 0 →
        (∀ l, A l = (c.rake.vget f.va.toNat l).toNat) ∧ (∀ l, B l = (c.rake.vget f.vb.toNat l).toNat)
          ∧ ∀ g l, each g l = g (A l) (B l) % 2 ^ 32)

/-- Compares, conversions and the elementary functions (R116, R147, R154, R161, R518). -/
def Obligations.VectorComparesConvertsAndFunctions : Prop :=
  (∀ (a : At) (f : VFmt) (s : State) (c : Issue) (s1 : State),
    VecRuns a f s c s1 (vfieldsOk f false && vsrcOk c f (vtypeD f).regs true true false && decide (f.sub.toNat < 7)) →
    Completes (.vcmp a f) s (fun t =>
      (∀ l, l < 32 → f.pw = 1 → f.pd ≠ 7 → lane ((rakeAt a t).pget f.pd.toNat) l =
          if lane (c.guarded f.gd) l then
            condVal (vtypeD f) f.sub.toNat (opA c f (vtypeD f) l) (opB c f (vtypeD f) l) (s1.laneDraw l 0)
          else lane (c.rake.pget f.pd.toNat) l)
        ∧ (∀ n, n ≠ f.pd.toNat ∨ f.pw = 0 ∨ f.pd = 7 → (rakeAt a t).pget n = c.rake.pget n)
        ∧ rakeAt a t = { c.rake with p := (rakeAt a t).p, pcs := (rakeAt a t).pcs }
        ∧ NextPc c (rakeAt a t) ∧ OnlyRake a s1 t))
  ∧ (∀ (c : Issue) (f : VFmt) (l free : Nat), f.type = 0 → f.na = 0 → f.nb = 0 → f.bmode = 0 → f.sub.toNat < 7 →
      let x := (c.rake.vget f.va.toNat l).toInt
      let y := (c.rake.vget f.vb.toNat l).toInt
      condVal (vtypeD f) f.sub.toNat (opA c f (vtypeD f) l) (opB c f (vtypeD f) l) free =
        (if f.sub = 0 then decide (x = y) else if f.sub = 1 then decide (x ≠ y) else if f.sub = 2 then decide (x < y)
          else if f.sub = 3 then decide (x ≤ y) else if f.sub = 4 then decide (y < x) else if f.sub = 5 then decide (y ≤ x)
          else false))
  ∧ (∀ (a : At) (f : VFmt) (s : State) (c : Issue) (s1 : State) (src : VType), vtype f.sub.toNat = some src → f.rnd ≠ 2 →
      VecRuns a f s c s1 (vfieldsOk f (cvtIsPair f) && vsrcOk c f src.regs true (cvtIsPair f) false
        && c.rake.regOk f.vd.toNat (vtypeD f).regs) →
      Completes (.vcvt a f) s (fun t => VecResult a f c s1 t (vtypeD f).regs
        (fun l => cvtLane c s1 f src l (c.rake.drawLane l).1.toNat)))
  ∧ (∀ (a : At) (f : VFmt) (s : State) (c : Issue) (s1 : State) (l : Nat), cvtIsPair f = true → f.rnd = 2 →
      VecRuns a f s c s1 (vfieldsOk f true && vsrcOk c f 1 true true false && c.rake.regOk f.vd.toNat 1) → l < 32 →
      Completes (.vcvt a f) s (fun t =>
        (rakeAt a t).laneState l =
            (if lane (c.guarded f.gd) l then (grainStep (c.rake.laneState l)).2 else c.rake.laneState l)
          ∧ (lane (c.guarded f.gd) l = true → (rakeAt a t).wide f.vd.toNat 1 l =
              cvtLane c s1 f ⟨1, 32, 1, .flt fp32⟩ l (grainStep (c.rake.laneState l)).1.toNat % 2 ^ 32)
          ∧ NextPc c (rakeAt a t) ∧ OnlyRake a s1 t))
  ∧ (∀ (a : At) (f : VFmt) (s : State) (c : Issue) (s1 : State),
      VecRuns a f s c s1 (vfieldsOk f false && vsrcOk c f 1 true false false && c.rake.regOk f.vd.toNat 1) →
      let gives (i : Instr) (fn : Fl → Fl) : Prop := Completes i s (fun t =>
        VecResult a f c s1 t 1 (fun l => near (s1.laneDraw l 0) (fn (f32 (opA c f fp32Type l)))))
      gives (.vrcp a f) rcpFl ∧ gives (.vrsq a f) rsqFl ∧ gives (.vexp2 a f) exp2Fl ∧ gives (.vlog2 a f) log2Fl
        ∧ gives (.vsin a f) sinFl ∧ gives (.vcos a f) cosFl)

/-- The scalar instructions (R117, R129, R130, R147). -/
def Obligations.ScalarInstructionsWriteSd : Prop :=
  (∀ (a : At) (f : SFmt) (s : State) (c : Issue) (s1 : State), ScalarRuns a f s c s1 →
    let x := c.rake.sget f.sa.toNat
    let y : Dword := if f.imm = 1 then f.imm32.signExtend 64 else c.rake.sget f.sb.toNat
    let gives (i : Instr) (v : Dword) : Prop := Completes i s (fun t => ScalarResult a f.sd.toNat c s1 t v)
    gives (.sadd a f) (x + y) ∧ gives (.ssub a f) (x - y) ∧ gives (.smul a f) (x * y) ∧ gives (.sand a f) (x &&& y)
      ∧ gives (.sor a f) (x ||| y) ∧ gives (.sxor a f) (x ^^^ y) ∧ gives (.smov a f) y
      ∧ gives (.smovh a f) (y.extractLsb' 0 32 ++ (c.rake.sget f.sd.toNat).extractLsb' 0 32)
      ∧ (y.toNat < 64 → gives (.sshl a f) (x <<< y.toNat) ∧ gives (.sshr a f) (x >>> y.toNat))
      ∧ (∃ v, gives (.sshl a f) v) ∧ (∃ v, gives (.sshr a f) v)
      ∧ (∀ k b, f.imm32.toNat % 8 = k →
          [(0, decide (x = y)), (1, decide (x ≠ y)), (2, decide (x.toInt < y.toInt)), (3, decide (x.toInt ≤ y.toInt)),
            (4, decide (y.toInt < x.toInt)), (5, decide (y.toInt ≤ x.toInt)), (6, false)].lookup k = some b →
          gives (.scmp a f) (if b then 1 else 0))
      ∧ (f.imm32.toNat % 256 = 0 → gives (.sread a f) (BitVec.ofNat 64 a.bed))
      ∧ (f.imm32.toNat % 256 = 3 → gives (.sread a f) (BitVec.ofNat 64 (s1.bed a.pan a.bed).kernel))
      ∧ (f.imm32.toNat % 256 = 4 → gives (.sread a f) (BitVec.ofNat 64 a.slot))
      ∧ (f.imm32.toNat % 256 = 5 → gives (.sread a f) (c.active.zeroExtend 64))
      ∧ (f.imm32.toNat % 256 = 6 → gives (.sread a f) (c.rake.live.zeroExtend 64))
      ∧ (f.imm32.toNat % 256 = 1 ∨ f.imm32.toNat % 256 = 2 → ∃ v, gives (.sread a f) v)
      ∧ (c.rake.regOk f.sa.toNat 1 = true →
          gives (.sfromv a f) ((c.rake.vget f.sa.toNat (f.imm32.toNat % 32)).zeroExtend 64)))
  ∧ (∀ (a : At) (f : SFmt) (s : State) (c : Issue) (s1 : State) (mk : At → SFmt → Instr), Ready a s c s1 → c.guarded f.gd = 0 →
      mk ∈ [Instr.sadd, Instr.ssub, Instr.smul, Instr.sand, Instr.sor, Instr.sxor, Instr.smov, Instr.smovh, Instr.sshl, Instr.sshr,
        Instr.scmp, Instr.sread, Instr.sfromv] →
      Completes (mk a f) s (fun t => rakeAt a t = { c.rake with pcs := (rakeAt a t).pcs } ∧ NextPc c (rakeAt a t) ∧ OnlyRake a s1 t))

/-- Branches (R118, R125, R130). -/
def Obligations.BranchesSplitGroups : Prop :=
  (∀ (a : At) (f : CFmt) (s : State) (c : Issue) (s1 : State), Ready a s c s1 →
    let m := c.guarded f.gd
    let rest := c.active &&& ~~~m
    let target := c.pc + 8 + 8 * (f.body.extractLsb' 0 32).signExtend 64
    Completes (.bra a f) s (fun t =>
      let r := rakeAt a t
      (∀ l, l < 32 → r.pc l = if lane m l then target else if lane c.active l then c.pc + 8 else c.rake.pc l)
        ∧ (m = 0 ∨ rest = 0 → ∀ l, l < 32 → r.groupOf l = c.rake.groupOf l)
        ∧ (m ≠ 0 → rest ≠ 0 → ∃ g, (∀ l, l < 32 → r.groupOf l = if lane m l then g else c.rake.groupOf l)
            ∧ ∀ l, l < 32 → lane c.rake.live l = true → c.rake.groupOf l ≠ g)
        ∧ r = { c.rake with pcs := r.pcs, groups := r.groups } ∧ OnlyRake a s1 t))
  ∧ (∀ (a : At) (f : CFmt) (s : State) (c : Issue) (s1 : State), Ready a s c s1 →
      let vd := (f.body.extractLsb' 44 8).toNat
      c.rake.regOk vd 2 = true →
      let m := c.guarded f.gd
      let target := c.pc + 8 + 8 * (f.body.extractLsb' 0 32).signExtend 64
      Completes (.call a f) s (fun t =>
        let r := rakeAt a t
        (∀ l, l < 32 → r.pc l = if lane m l then target else if lane c.active l then c.pc + 8 else c.rake.pc l)
          ∧ (∀ l, l < 32 → lane m l = true → r.wide vd 2 l = (c.pc + 8).toNat)
          ∧ (∀ k l, l < 32 → lane m l = false ∨ k < vd ∨ vd + 2 ≤ k → r.vget k l = c.rake.vget k l)
          ∧ r = { c.rake with pcs := r.pcs, groups := r.groups, v := r.v } ∧ OnlyRake a s1 t))
  ∧ (∀ (a : At) (f : CFmt) (s : State) (c : Issue) (s1 : State), Ready a s c s1 →
      let va := (f.body.extractLsb' 36 8).toNat
      c.rake.regOk va 2 = true →
      let m := c.guarded f.gd
      Completes (.brx a f) s (fun t =>
        let r := rakeAt a t
        (∀ l, l < 32 → r.pc l =
            if lane m l then BitVec.ofNat 64 (c.rake.wide va 2 l) else if lane c.active l then c.pc + 8 else c.rake.pc l)
          ∧ (∀ k l, k < 32 → l < 32 → lane m k = true → lane m l = true → c.rake.wide va 2 k = c.rake.wide va 2 l →
              r.groupOf k = r.groupOf l)
          ∧ r = { c.rake with pcs := r.pcs, groups := r.groups } ∧ OnlyRake a s1 t))
  ∧ (∀ (a : At) (f : CFmt) (s : State) (c : Issue) (s1 : State), Ready a s c s1 →
      let sa := (f.body.extractLsb' 40 6).toNat
      operandWait a s1 [sa] = false →
      let target := c.pc + 8 + 8 * (f.body.extractLsb' 0 32).signExtend 64
      Completes (.sbra a f) s (fun t =>
        let r := rakeAt a t
        (∀ l, l < 32 → r.pc l = if lane c.active l then
            (if c.guarded f.gd ≠ 0 ∧ c.rake.sget sa ≠ 0 then target else c.pc + 8) else c.rake.pc l)
          ∧ r = { c.rake with pcs := r.pcs } ∧ OnlyRake a s1 t))

/-- Waits, ends and no-ops (R118, R125, R127, R134, R136, R141, R213, R214). -/
def Obligations.WaitsExitFenceTrapNop : Prop :=
  (∀ (a : At) (f : CFmt) (s : State) (c : Issue) (s1 : State) (i : Instr), Ready a s c s1 →
    i = .nop a f ∨ (c.guarded f.gd = 0 ∧ i ∈ [Instr.fence a f, .trap a f, .syncRake a f, .barBlock a f]) →
    Completes i s (fun t => rakeAt a t = { c.rake with pcs := (rakeAt a t).pcs } ∧ NextPc c (rakeAt a t) ∧ OnlyRake a s1 t))
  ∧ (∀ (a : At) (f : CFmt) (s : State) (c : Issue) (s1 : State), Ready a s c s1 →
      Completes (.exit a f) s (fun t =>
        let r := rakeAt a t
        (∀ l, l < 32 → lane (c.guarded f.gd) l = true → r.thread l = .exited)
          ∧ (∀ l, l < 32 → lane c.active l = true → lane (c.guarded f.gd) l = false → r.thread l = .running ∧ r.pc l = c.pc + 8)
          ∧ (∀ k l, r.vget k l = c.rake.vget k l) ∧ (∀ k, r.sget k = c.rake.sget k) ∧ (∀ k, r.pget k = c.rake.pget k)
          ∧ (∀ p b k, rakeKey p b k ≠ rakeKey a.pan a.bed a.slot →
              (∀ x, (s1.bed a.pan a.bed).block? c.block = some x → ∀ j ∈ x.slots, rakeKey p b k ≠ rakeKey a.pan a.bed j) →
              t.rake p b k = s1.rake p b k)
          ∧ t = { s1 with rakes := t.rakes, beds := t.beds, free := s1.free + 1 }))
  ∧ (∀ (a : At) (f : CFmt) (s : State) (c : Issue) (s1 : State) (m : Word), Ready a s c s1 → c.guarded f.gd ≠ 0 →
      c.pmask (f.body.extractLsb' 45 7) = some m → c.guarded f.gd &&& ~~~m = 0 →
      operandWait a s1 [(f.body.extractLsb' 45 7).toNat] = false →
      (∀ l, l < 32 → lane c.active l = true → c.rake.pc l = c.pc) →
      (∀ l k, l < 32 → c.rake.thread l = .atSync k → k ≠ m ∨ c.rake.pc l ≠ c.pc → syncMet c.rake k (c.rake.pc l) = false) →
      ((∀ l, l < 32 → lane (c.rake.live &&& m) l = true → lane (c.guarded f.gd) l = false →
          c.rake.thread l = .atSync m ∧ c.rake.pc l = c.pc) →
        Completes (.syncRake a f) s (fun t =>
          let r := rakeAt a t
          (∀ l, l < 32 → lane (c.rake.live &&& m ||| c.active) l = true → r.thread l = .running ∧ r.pc l = c.pc + 8)
            ∧ (∀ k l, k < 32 → l < 32 → lane (c.rake.live &&& m ||| c.active) k = true →
                lane (c.rake.live &&& m ||| c.active) l = true → r.groupOf k = r.groupOf l)
            ∧ OnlyRake a s1 t))
      ∧ ((∃ l, l < 32 ∧ lane (c.rake.live &&& m) l = true ∧ lane (c.guarded f.gd) l = false
            ∧ (c.rake.thread l ≠ .atSync m ∨ c.rake.pc l ≠ c.pc)) →
          Completes (.syncRake a f) s (fun t =>
            let r := rakeAt a t
            (∀ l, l < 32 → lane (c.guarded f.gd) l = true → r.thread l = .atSync m ∧ r.pc l = c.pc)
              ∧ (∀ l, l < 32 → lane c.active l = true → lane (c.guarded f.gd) l = false → r.thread l = .beside ∧ r.pc l = c.pc)
              ∧ OnlyRake a s1 t)))
  ∧ (∀ (a : At) (f : CFmt) (s : State) (c : Issue) (s1 : State) (x : Block), Ready a s c s1 → c.guarded f.gd ≠ 0 →
      (s1.bed a.pan a.bed).block? c.block = some x → a.slot ∈ x.slots →
      let waiting (j l : Nat) : Prop := (s1.rake a.pan a.bed j).thread l = .atBarrier ∨ (j = a.slot ∧ lane (c.guarded f.gd) l = true)
      (x.ctxWait = [] → x.ctxMet = false →
        (∀ j ∈ x.slots, ∀ l, l < 32 → ((s1.rake a.pan a.bed j).thread l).live = true → waiting j l) →
        Completes (.barBlock a f) s (fun t =>
          (∀ j ∈ x.slots, ∀ l, l < 32 → waiting j l →
            (t.rake a.pan a.bed j).thread l = .running ∧ (t.rake a.pan a.bed j).pc l = (s1.rake a.pan a.bed j).pc l + 8)
            ∧ ((t.bed a.pan a.bed).block? x.index).map Block.generation = some (x.generation + 1)
            ∧ t = { s1 with rakes := t.rakes, beds := t.beds, free := s1.free + 1 }))
      ∧ ((∃ j ∈ x.slots, ∃ l, l < 32 ∧ ((s1.rake a.pan a.bed j).thread l).live = true ∧ ¬ waiting j l) →
          Completes (.barBlock a f) s (fun t =>
            let r := rakeAt a t
            (∀ l, l < 32 → lane (c.guarded f.gd) l = true → r.thread l = .atBarrier ∧ r.pc l = c.rake.pc l)
              ∧ (∀ l, l < 32 → lane c.active l = true → lane (c.guarded f.gd) l = false → r.thread l = .running ∧ r.pc l = c.pc + 8)
              ∧ ((t.bed a.pan a.bed).block? x.index).map Block.generation = some x.generation
              ∧ t = { s1 with rakes := t.rakes, beds := t.beds, free := s1.free + 1 })))
  ∧ (∀ (a : At) (f : CFmt) (s : State) (c : Issue) (s1 : State), Ready a s c s1 → c.guarded f.gd ≠ 0 →
      let kind := f.body.extractLsb' 2 2
      let scope := (f.body.extractLsb' 0 2).toNat
      (kind = 0 ∨ (kind ≠ 3 ∧ rakeBusy a s1 = false) → Completes (.fence a f) s (fun t =>
        let r := rakeAt a t
        r = { c.rake with pcs := r.pcs, views := r.views, rels := r.rels, work := r.work } ∧ NextPc c r
          ∧ (∀ p b k, rakeKey p b k ≠ rakeKey a.pan a.bed a.slot → t.rake p b k = s1.rake p b k)
          ∧ (∀ p b, t.bed p b = { s1.bed p b with kept := (t.bed p b).kept })
          ∧ (kind ≠ 0 → ∀ l, l < 32 → lane c.active l = true → ∃ k ∈ tget [] r.rels l, k.scope = scope)
          ∧ (kind = 2 → ∀ k ∈ t.coh.kept, c.ownStore c.active k = true → ∃ n, k.performed = some n ∧ scope ≤ n)
          ∧ t = { s1 with rakes := t.rakes, beds := t.beds, coh := { s1.coh with kept := t.coh.kept }, free := s1.free + 1 }))
      ∧ (kind = 1 ∨ kind = 2 → rakeBusy a s1 = true → exec (.fence a f) s = .next s1.drawn))
  ∧ (∀ (a : At) (f : CFmt) (s : State) (c : Issue) (s1 : State), Ready a s c s1 → c.guarded f.gd ≠ 0 →
      Completes (.trap a f) s (fun t => Faulted a c s1 t 8
        ∧ ((s1.bed a.pan a.bed).fValid = false → (t.bed a.pan a.bed).fAddr = (f.body.extractLsb' 0 16).zeroExtend 64)))

/-- Loads of a bed (R138, R210). -/
def Obligations.BedLoadsReadScratchAndMemory : Prop :=
  ∀ (a : At) (f : MFmt) (s : State) (c : Issue) (s1 : State) (n : Nat),
    MemRuns a f s c s1 n (memRegs c f (sizeRegs n) [f.vd.toNat]) →
    (ScratchOk c f s1 n true → Completes (.ld a f) s (fun t => ∃ val,
      LoadsLanes c (rakeAt a t) (c.guarded f.gd) f.vd.toNat (sizeRegs n) val
        ∧ (∀ l ∈ lanesOf (c.guarded f.gd),
            Finds (c.viewer l) (s1.bed a.pan a.bed).kept (scratchByte a s1) (memAddr c f l) n (val l) ∧ val l < 2 ^ (8 * n))
        ∧ NextPc c (rakeAt a t) ∧ OnlyRake a s1 t))
    ∧ (∀ (s2 : State) (ts : List Target), f.space = 1 → targets c f n .r kLoad true s1 = .ok (s2, ts) →
        ((∀ u ∈ ts, u.cacheable = false ∨ ∀ l ∈ linesOf u.pa n, (s2.cached (panAgent a.pan) l).isSome = true) →
          Completes (.ld a f) s (fun t => ∃ val,
            LoadsLanes c (rakeAt a t) (c.guarded f.gd) f.vd.toNat (sizeRegs n) val
              ∧ (∀ l ∈ lanesOf (c.guarded f.gd), Finds (c.viewer l) s2.coh.kept (cohByte s2) (paOf ts l) n (val l) ∧ val l < 2 ^ (8 * n))
              ∧ NextPc c (rakeAt a t) ∧ t = { s2 with rakes := t.rakes, stk := t.stk, free := s2.free + 1 }))
        ∧ Completes (.ld a f) s (fun t => ∃ val,
            LoadsLanes c (rakeAt a t) (c.guarded f.gd) f.vd.toNat (sizeRegs n) val ∧ NextPc c (rakeAt a t)
              ∧ (∀ u, ts.getLast? = some u → Finds (c.viewer u.lane) s2.coh.kept (cohByte t) u.pa n (val u.lane))
              ∧ t = { s2 with rakes := t.rakes, mem := t.mem, coh := t.coh, stk := t.stk, cores := t.cores, free := s2.free + 1 }))

/-- Stores of a bed (R138, R207, R208). -/
def Obligations.BedStoresWriteTheNamedBytes : Prop :=
  ∀ (a : At) (f : MFmt) (s : State) (c : Issue) (s1 : State) (n : Nat),
    MemRuns a f s c s1 n (memRegs c f (sizeRegs n) [f.vb.toNat]) →
    (2 ≤ f.order.toNat → rakeBusy a s1 = true → exec (.st a f) s = .next s1.drawn)
    ∧ (Released a f s1 →
    let ls := lanesOf (c.guarded f.gd)
    let val (l : Nat) : Nat := c.rake.wide f.vb.toNat (sizeRegs n) l % 2 ^ (8 * n)
    (ScratchOk c f s1 n false → Completes (.st a f) s (fun t =>
      Stored (scratchByte a s1) (scratchByte a t) ls (memAddr c f) n val
        ∧ rakeAt a t = { c.rake with pcs := (rakeAt a t).pcs } ∧ NextPc c (rakeAt a t) ∧ OnlyScratch a s1 t))
    ∧ (∀ (s2 : State) (ts : List Target), f.space = 1 → targets c f n .w kStore false s1 = .ok (s2, ts) →
        ((∀ u ∈ ts, u.cacheable = true ∧ u.pa % n = 0 ∧ HeldM a s2 u.pa) → Completes (.st a f) s (fun t =>
          Stored (heldByte a s2) (heldByte a t) ls (paOf ts) n val
            ∧ t = { s2 with rakes := t.rakes, coh := t.coh, free := s2.free + 1 }))
        ∧ ((∀ u ∈ ts, u.cacheable = false ∧ u.pa % n = 0 ∧ AtHome s2 u.pa) → Completes (.st a f) s (fun t =>
          Stored (memByte s2) (memByte t) ls (paOf ts) n val))
        ∧ Completes (.st a f) s (fun t =>
            rakeAt a t = { c.rake with pcs := (rakeAt a t).pcs } ∧ NextPc c (rakeAt a t)
              ∧ t = { s2 with rakes := t.rakes, mem := t.mem, coh := t.coh, stk := t.stk, cores := t.cores, free := s2.free + 1 })))

/-- Atomics of a bed (R139, R140). -/
def Obligations.BedAtomicsActOneThreadAtATime : Prop :=
  (∀ (a : At) (f : MFmt) (s : State) (c : Issue) (s1 : State) (n : Nat) (cas : Bool),
    let k := sizeRegs n
    let i : Instr := if cas then .atomCas a f else .atom a f
    let x (r l : Nat) : Nat := c.rake.wide r k l
    let new (l old : Nat) : Nat :=
      if cas then (if old = x f.vb.toNat l then x (f.vb.toNat + k) l else old) else atomicOp f.aop.toNat n old (x f.vb.toNat l)
    let ls := lanesOf (c.guarded f.gd)
    let done (t : State) (before after : Nat → Byte) (adr : Nat → Nat) : Prop :=
      LoadsLanes c (rakeAt a t) (c.guarded f.gd) f.vd.toNat k (atomicSees before ls adr n new)
        ∧ Stored before after ls adr n (fun l => new l (atomicSees before ls adr n new l)) ∧ NextPc c (rakeAt a t)
    MemRuns a f s c s1 n (atomicSize n && (if cas then decide (f.aop = 0) && memRegs c f k [f.vd.toNat, f.vb.toNat, f.vb.toNat + k]
      else decide (f.aop.toNat ≤ 9) && (decide (f.aop ≠ 9) || decide (n = 4)) && memRegs c f k [f.vd.toNat, f.vb.toNat])) →
    (2 ≤ f.order.toNat → rakeBusy a s1 = true → exec i s = .next s1.drawn)
    ∧ (Released a f s1 →
    (ScratchOk c f s1 n true → Completes i s (fun t => done t (scratchByte a s1) (scratchByte a t) (memAddr c f) ∧ OnlyScratch a s1 t))
    ∧ (∀ (s2 : State) (ts : List Target), f.space = 1 → targets c f n .a kAtomic true s1 = .ok (s2, ts) →
        (∀ u ∈ ts, u.cacheable = true ∧ u.pa % n = 0 ∧ HeldM a s2 u.pa ∧ (s2.cohBytes u.pa n = (List.range n).map (fun j => heldByte a s2 (u.pa + j)))
          ∧ (s2.holders (lineOf u.pa)).length = 1) →
        (s2.coh.lines.map Prod.fst).Nodup →
        Completes i s (fun t => done t (heldByte a s2) (heldByte a t) (paOf ts)
          ∧ t = { s2 with rakes := t.rakes, coh := t.coh, free := s2.free + 1 }))
    ∧ (∀ (s2 : State) (ts : List Target), f.space = 1 → targets c f n .a kAtomic true s1 = .ok (s2, ts) →
        Completes i s (fun t => (∃ val, LoadsLanes c (rakeAt a t) (c.guarded f.gd) f.vd.toNat k val) ∧ NextPc c (rakeAt a t)
          ∧ t = { s2 with rakes := t.rakes, mem := t.mem, coh := t.coh, stk := t.stk, cores := t.cores, free := s2.free + 1 }))))
  ∧ (∀ old x : BitVec 32, ∀ k v, [(0, old + x), (1, if x.slt old then x else old), (2, if old.slt x then x else old),
        (3, if x < old then x else old), (4, if old < x then x else old), (5, old &&& x), (6, old ||| x), (7, old ^^^ x),
        (8, x)].lookup k = some v → atomicOp k 4 old.toNat x.toNat = v.toNat)

/-- The collective instructions (R132, R133). -/
def Obligations.CollectivesExchangeAcrossLanes : Prop :=
  ∀ (a : At) (f : LFmt) (s : State) (c : Issue) (s1 : State),
    let n := (ltypeD f).regs
    let x (l : Nat) : Nat := c.rake.wide f.va.toNat n l
    let imm := f.imm10.toNat % 32
    let src (i : Int) : Nat := if 0 ≤ i ∧ i < 32 ∧ lane c.active i.toNat = true then x i.toNat else 0
    let runs (k : Nat) (more : Bool) : Prop := WideRuns a f.gd f.pm f.sbase 0 s c s1
      (more && (vtype f.type.toNat).isSome && c.rake.regOk f.va.toNat n && c.rake.regOk f.vd.toNat k)
    let gives (i : Instr) (k : Nat) (v : Nat → Nat) : Prop := Completes i s (fun t => Collected a c s1 t f.vd.toNat k v)
    let xs := (lanesOf c.active).map x
    (runs n (decide (f.sub.toNat < 4)) →
      (f.sub = 0 → gives (.shfl a f) n (fun _ => src imm)) ∧ (f.sub = 1 → gives (.shfl a f) n (fun t => src ((t : Int) - imm)))
        ∧ (f.sub = 2 → gives (.shfl a f) n (fun t => src (t + imm))) ∧ (f.sub = 3 → gives (.shfl a f) n (fun t => src (t ^^^ imm : Nat))))
    ∧ (runs 1 (decide (f.sub.toNat < 3)) →
        (f.sub = 0 → gives (.vote a f) 1 (fun _ => if ∀ l ∈ lanesOf c.active, x l ≠ 0 then 1 else 0))
          ∧ (f.sub = 1 → gives (.vote a f) 1 (fun _ => if ∃ l ∈ lanesOf c.active, x l ≠ 0 then 1 else 0))
          ∧ (f.sub = 2 → ∃ w : Word, (∀ l, l < 32 → lane w l = (lane c.active l && decide (x l ≠ 0)))
              ∧ gives (.vote a f) 1 (fun _ => w.toNat)))
    ∧ (runs n (decide (f.sub = 0)) → gives (.bcast a f) n (fun _ => src imm))
    ∧ (WideRuns a f.gd f.pm f.sbase 0 s c s1 (decide (f.sub.toNat < 7) && (vtype f.type.toNat).isSome
          && c.rake.regOk f.va.toNat (reduceType f).regs && c.rake.regOk f.vd.toNat (reduceType f).regs) →
        gives (.reduce a f) (reduceType f).regs (fun _ => reduceAll s1 (reduceType f) f.sub.toNat 0
          (members c f.va.toNat (reduceType f).regs c.active))
        ∧ (f.type = 1 → ∀ g : Nat → Nat → Nat,
            [(0, fun p q => (p + q) % 2 ^ 32), (1, min), (2, max), (3, (· &&& ·)), (4, (· ||| ·)), (5, (· ^^^ ·))].lookup f.sub.toNat = some g →
            ∀ y ys, xs = y :: ys → gives (.reduce a f) 1 (fun _ => ys.foldl g y)))
    ∧ (runs n (decide (f.sub.toNat < 3)) →
        gives (.scan a f) n (fun t => reduceAll s1 (ltypeD f) (if f.sub = 2 then 2 else 0) t (members c f.va.toNat n
          (maskOf (fun u => lane c.active u && decide (if f.sub = 1 then u < t else u ≤ t)))))
        ∧ (f.type = 1 → ∀ (r : Nat → Nat → Bool) (g : Nat → Nat → Nat),
            [(0, (fun u t => decide (u ≤ t)), (fun p q => (p + q) % 2 ^ 32)), (1, (fun u t => decide (u < t)), (fun p q => (p + q) % 2 ^ 32)),
              (2, (fun u t => decide (u ≤ t)), max)].lookup f.sub.toNat = some (r, g) →
            gives (.scan a f) 1 (fun t => ((lanesOf c.active).filter (fun u => r u t)).foldl (fun v u => g v (x u)) 0)))

/-- Token sampling (R162, R163). -/
def Obligations.SampleDrawsOneTokenIndex : Prop :=
  ∀ (a : At) (f : LFmt) (s : State) (c : Issue) (s1 : State),
    let d := s1.bed a.pan a.bed
    let adr := c.sop f.sbase 0
    let v := min (c.sop f.sbase 1) (2 ^ 20)
    let bf := decide (f.type = 5)
    let xs := logitsOf d adr v bf
    let n := if bf then 2 * v else 4 * v
    WideRuns a f.gd f.pm f.sbase 8 s c s1 (decide (f.sub = 0) && (decide (f.type = 4) || decide (f.type = 5)) && c.rake.regOk f.vd.toNat 1) →
    (v = 0 ∨ (adr % 4 = 0 ∧ adr + n ≤ scratchSize ∧ d.scratchErr adr n = false)) →
    (∀ k ∈ d.kept, racing (c.viewer ((lanesOf c.active).headD 0)) k = false) →
    Completes (.sample a f) s (fun t => ∃ w drawn,
      WritesLanes c (rakeAt a t) c.active f.vd.toNat 1 (fun _ => w) ∧ NextPc c (rakeAt a t)
        ∧ t = { s1 with rakes := t.rakes, pans := t.pans, free := s1.free + 1 }
        ∧ t.pan a.pan = (if drawn then { s1.pan a.pan with grainKeys := satAdd 32 (s1.pan a.pan).grainKeys 1 } else s1.pan a.pan)
        ∧ (v = 0 → w = 0xFFFFFFFF) ∧ drawn = (Fl.fin false 0 0).lt (f32 (c.sop f.sbase 2 % 2 ^ 32))
        ∧ ((w, drawn) = sampleOf xs (c.sop f.sbase 2 % 2 ^ 32) (c.sop f.sbase 3) (c.sop f.sbase 4 % 2 ^ 32)
            (BitVec.ofNat 64 (c.sop f.sbase 5)) (c.sop f.sbase 6 % 2 ^ 16) (c.sop f.sbase 7 % 2 ^ 43))
        ∧ (v ≠ 0 → (∀ y ∈ xs, (f32 y).isNan = false ∧ y ≠ negInf) → (Fl.fin false 0 0).lt (f32 (c.sop f.sbase 2 % 2 ^ 32)) = false →
            ∃ y, xs[w]? = some y ∧ (∀ z ∈ xs, (f32 y).lt (f32 z) = false)
              ∧ ∀ (i : Nat) (z : Nat), i < w → xs[i]? = some z → (f32 z).lt (f32 y) = true))

/-- The matrix product (R80, R81, R89, R92, R124). -/
def Obligations.MatrixMultiplyAccumulates : Prop :=
  (∀ (a : At) (f : XFmt) (s : State) (c : Issue) (s1 : State), WideRuns a f.gd f.pm f.sbase 7 s c s1 (mmaLegal f) →
    mmaFault (s1.bed a.pan a.bed) f (mmaArgs (c.sop f.sbase) f) = none → Issues a f.sbase (.mma f) (.mma a f) s c s1)
  ∧ (∀ (s : State) (p k i : Nat) (w : Work) (f : XFmt), MatrixHead s p k i w → w.op = .mma f →
      let d := s.bed p k
      let x := mmaArgs w.sop f
      let j := xSlot f
      let q := floodOf x
      let flood := !xBit26 f && xBsrc f
      let new := if flood then (tget {} d.flood q).buf.take (floodNeed x - w.got.length) else []
      let bytes := w.got ++ new
      let fresh : AccSlot := { kind := mmaKind f, shape := xShape f, base := j, anchor := if xBit31 f then x.anchor else 0 }
      let old := if xBit27 f then fresh else d.slot j
      let t := runTurn s (.matrix p k i)
      let d' := t.bed p k
      (∀ y ∈ new, y.stopped = false ∧ y.bad = false) →
      (flood = true → bytes.length < floodNeed x →
        d'.mq = d.mq.set i { w with got := bytes } ∧ (tget {} d'.flood q).buf = (tget {} d.flood q).buf.drop new.length
          ∧ d' = { d with mq := d'.mq, flood := d'.flood } ∧ t = { s with beds := t.beds, pans := t.pans })
      ∧ (∀ b : HeldB, (flood = true → floodNeed x ≤ bytes.length) → mmaFits d f = true → firstError d (mmaReads f x) = none →
          (xBit27 f = false → (d.slot j).bad = []) →
          (if xBit26 f then d.heldB = some b else if xBsrc f then b = bFlood (bytes.map FloodByte.val) f x else b = bScratch d f x) →
          let z := d'.slot j
          z.kind = old.kind ∧ z.shape = old.shape ∧ z.base = old.base ∧ z.anchor = old.anchor
            ∧ z.kCount = satAdd 32 old.kCount x.k ∧ d'.heldB = some b
            ∧ (∀ e, e < 16384 → old.kind = .integer → x.k = b.k →
                tget 0 z.vals e = BitVec.ofNat 96 (intAcc (tget 0 old.vals e).toNat ((List.range x.k).map (fun k =>
                  (elemFl x.fa (if e / x.n < x.rows then sliceElem (d.scratchBytes (x.aAddr + e / x.n * x.aStride) x.aLen) x.fa.bits k % 2 ^ 16 else 0)).mul
                    (elemFl x.fb (opElem b.elems (e % x.n) k))))))
            ∧ (∀ n, n ∉ tileSlots old.kind j → (xBit27 f = true → ∀ y ∈ tileSlots old.kind j, (d.slot y).kind = .exact →
                  n ∉ [(d.slot y).base, (d.slot y).base + 1, (d.slot y).base + 2]) → d'.slot n = d.slot n)
            ∧ d' = { d with slots := d'.slots, heldB := d'.heldB, flood := d'.flood, mq := d.mq.eraseIdx i }
            ∧ (∀ n, (tget {} d'.flood n).buf = if flood = true ∧ n = q then (tget {} d.flood n).buf.drop new.length else (tget {} d.flood n).buf)
            ∧ (t.pan p).floodBytes = (if flood then wrapAdd 64 (s.pan p).floodBytes new.length else (s.pan p).floodBytes)
            ∧ t = { s with beds := t.beds, pans := t.pans }))

/-- Draining, loading and reporting tiles (R83 to R85, R100, R124, R165). -/
def Obligations.MatrixTilesLoadDrainAndReport : Prop :=
  (∀ (a : At) (f : XFmt) (s : State) (c : Issue) (s1 : State),
    (WideRuns a f.gd f.pm f.sbase 6 s c s1 true → mmaDrainFault (s1.bed a.pan a.bed) f (c.sop f.sbase) = none →
        Issues a f.sbase (.mmaDrain f) (.mmaDrain a f) s c s1)
      ∧ (WideRuns a f.gd f.pm f.sbase 3 s c s1 (loadLegal f) → mmaLoadFault (s1.bed a.pan a.bed) f (c.sop f.sbase) = none →
        Issues a f.sbase (.mmaLoad f) (.mmaLoad a f) s c s1)
      ∧ (WideRuns a f.gd f.pm f.sbase 0 s c s1 true → Issues a f.sbase (.mmaStat f) (.mmaStat a f) s c s1))
  ∧ (∀ (s : State) (p k n : Nat) (w : Work) (f : XFmt), MatrixHead s p k n w →
      let d := s.bed p k
      let i := xSlot f
      let tile := d.slot i
      let o := w.sop
      let fo := xFa f
      let rowLen := outBits fo * o 4 / 8
      let t := runTurn s (.matrix p k n)
      let d' := t.bed p k
      (w.op = .mmaDrain f → drainFits d f (o 3) (o 4) = true → drainBad tile (o 3) (o 4) = false →
        (∀ x, (∀ m, m < o 3 → (x < o 0 + m * o 1 ∨ o 0 + m * o 1 + rowLen ≤ x)
            ∧ (foIsMx fo = true → x < o 2 + m * (o 4 / 32) ∨ o 2 + m * (o 4 / 32) + o 4 / 32 ≤ x)) →
            tget 0 d'.scratch x = tget 0 d.scratch x)
          ∧ (∀ m, foIsMx fo = false → rowLen ≤ o 1 → m < o 3 →
              (xBit31 f = false → d'.scratchBytes (o 0 + m * o 1) rowLen
                = packBytes (outBits fo) (o 4) (fun j => drainElem tile fo (m * tileN tile.shape + j) .rne (xBit27 f) none))
              ∧ (∀ key, xBit31 f = true → w.key = some key → d'.scratchBytes (o 0 + m * o 1) rowLen
                = packBytes (outBits fo) (o 4) (fun j =>
                    drainElem tile fo (m * tileN tile.shape + j) (.st4 (drainNibble key (o 5) m j)) (xBit27 f) none)))
          ∧ (xBit26 f = false → d'.slots = d.slots) ∧ (xBit26 f = true → (d'.slot i).kind = .empty)
          ∧ (xBit31 f = false ∨ w.key.isSome = true → d'.drainBank = d.drainBank)
          ∧ d' = { d with slots := d'.slots, scratch := d'.scratch, scratchBad := d'.scratchBad, kept := d'.kept, drainBank := d'.drainBank,
                          mq := d.mq.eraseIdx n }
          ∧ t = { s with beds := t.beds })
      ∧ (∀ z : SlotKind, w.op = .mmaLoad f → loadKind fo = some z →
          let size := if z = .exact then 16 else 4
          let cols := tileN (xShape f)
          let anchor : Int := if z = .exact then anchorOf (o 2) else 0
          let v (j : Nat) : Nat := d.scratchNat (o 0 + j / cols * o 1 + j % cols * size) size
          loadFits d f (anchorOf (o 2)) = true → firstError d (loadReads o f) = none → (xBit31 f = true → tile.bad = []) →
          let new := d'.slot i
          new.kind = z ∧ new.shape = xShape f ∧ (xBit31 f = false → new.anchor = anchor ∧ new.kCount = 0)
            ∧ (∀ j, j < 16384 → xBit31 f = false → tget 0 new.vals j = BitVec.ofNat 96 (v j)
                ∧ (z = .exact → tget 0 new.tags j = BitVec.ofNat 2 (v j / 2 ^ 96)))
            ∧ (∀ j, j < 16384 → xBit31 f = true →
                (z = .exact → tget 0 new.vals j = tget 0 tile.vals j + BitVec.ofNat 96 (v j)
                  ∧ tget 0 new.tags j = BitVec.ofNat 2 (tagAdd (tget 0 tile.tags j).toNat (v j / 2 ^ 96 % 4)))
                ∧ (z = .integer → tget 0 new.vals j = BitVec.ofNat 96 (((tget 0 tile.vals j).toNat + v j) % 2 ^ 32))
                ∧ (z = .fast → tget 0 new.vals j = BitVec.ofNat 96 (addF32 (tget 0 tile.vals j).toNat (v j))))
            ∧ (xBit31 f = true → ∀ j, j ≠ i → d'.slot j = d.slot j)
            ∧ d' = { d with slots := d'.slots, mq := d.mq.eraseIdx n } ∧ t = { s with beds := t.beds })
      ∧ (w.op = .mmaStat f →
          let base := if tile.kind = .exact then tile.base else i
          let t0 := d.slot base
          let r := t.rake p k w.at_.slot
          let v := (r.sget (xSd f)).toNat
          t0.shape < 3 → base < 8 → t0.kCount < 2 ^ 32 →
          v % 4 = t0.kind.code ∧ v / 4 % 4 = t0.shape ∧ v / 2 ^ 18 % 8 = base ∧ v / 2 ^ 32 = t0.kCount
            ∧ v.testBit 4 = (decide (t0.kind = .exact) && t0.inexact) ∧ v.testBit 5 = (decide (t0.kind = .exact) && t0.range)
            ∧ v.testBit 7 = tileSpecial t0
            ∧ (∀ j, j ≠ xSd f → r.sget j = (s.rake p k w.at_.slot).sget j)
            ∧ r = { s.rake p k w.at_.slot with s := r.s } ∧ d' = { d with mq := d.mq.eraseIdx n }
            ∧ (∀ p' b' j, rakeKey p' b' j ≠ rakeKey p k w.at_.slot → t.rake p' b' j = s.rake p' b' j)
            ∧ t = { s with beds := t.beds, rakes := t.rakes }))

/-- The grain generator (R149). -/
def Obligations.GeneratorReproducesThePublishedWords : Prop :=
  (let x : BitVec 128 := 0x00000004000000030000000200000001;
    (grainStep x).1 = 0x00000281 ∧ (grainStep (grainStep x).2).1 = 0x00180387
      ∧ (grainStep x).2 = 0x00003000000004020000000000000007)
  ∧ (∀ (r q : Rake) (l k : Nat), r.laneState l = q.laneState k →
      (r.drawLane l).1 = (q.drawLane k).1 ∧ (r.drawLane l).2.laneState l = (q.drawLane k).2.laneState k)
  ∧ (∀ x : BitVec 128, x ≠ 0 → (grainStep x).2 ≠ 0)

/-- Keys, draws and drop masks (R154, R158 to R160). -/
def Obligations.GrainInstructionsKeyAndDraw : Prop :=
  (∀ (a : At) (f : RFmt) (s : State) (c : Issue) (s1 : State),
    let o := c.sop f.sbase
    (WideRuns a f.gd f.pm f.sbase 3 s c s1 true → Completes (.grainKeyLane a f) s (fun t =>
      (∀ l, l < 32 → (rakeAt a t).laneState l =
          (laneStates (segment (grainBase (BitVec.ofNat 64 (o 0))) (o 1 % 2 ^ 16 * 2 ^ 48 + o 2 % 2 ^ 43 * 2 ^ 5)) 32).getD l 0)
        ∧ (rakeAt a t).laneKey = { seed := BitVec.ofNat 64 (o 0), stream := BitVec.ofNat 16 (o 1), block := o 2 % 2 ^ 43 }
        ∧ rakeAt a t = { c.rake with lanes := (rakeAt a t).lanes, laneKey := (rakeAt a t).laneKey, pcs := (rakeAt a t).pcs }
        ∧ NextPc c (rakeAt a t) ∧ t.pan a.pan = { s1.pan a.pan with grainKeys := satAdd 32 (s1.pan a.pan).grainKeys 1 }
        ∧ t = { s1 with rakes := t.rakes, pans := t.pans, free := s1.free + 1 }))
    ∧ (WideRuns a f.gd f.pm f.sbase 2 s c s1 true → Completes (.grainKeyDrain a f) s (fun t =>
      (rakeAt a t).drainKey = some { seed := BitVec.ofNat 64 (o 0), stream := BitVec.ofNat 16 (o 1) }
        ∧ rakeAt a t = { c.rake with drainKey := (rakeAt a t).drainKey, pcs := (rakeAt a t).pcs }
        ∧ NextPc c (rakeAt a t) ∧ OnlyRake a s1 t)))
  ∧ (∀ (a : At) (f : VFmt) (s : State) (c : Issue) (s1 : State) (n : Nat), n = (if f.sub = 3 then 2 else 1) →
      VecRuns a f s c s1 (vfieldsOk f false && drawLegal f && c.rake.regOk f.vd.toNat n) →
      let m := c.guarded f.gd
      let st (l : Nat) : BitVec 128 := c.rake.laneState l
      let w (l : Nat) : Nat := (grainStep (st l)).1.toNat
      Completes (.grainDraw a f) s (fun t =>
        (∀ l, l < 32 → lane m l = true →
          (f.sub = 0 → (rakeAt a t).wide f.vd.toNat n l = w l)
            ∧ (f.sub = 1 → (rakeAt a t).wide f.vd.toNat n l = toF32 (.fin false (w l / 256) (-24)) % 2 ^ 32)
            ∧ (f.sub = 2 → (rakeAt a t).wide f.vd.toNat n l = openUnit (vrnd f) (w l) % 2 ^ 32)
            ∧ (f.sub = 3 → (rakeAt a t).wide f.vd.toNat n l = w l + 2 ^ 32 * (grainStep (grainStep (st l)).2).1.toNat))
          ∧ (∀ l, l < 32 → (rakeAt a t).laneState l =
              if lane m l then (if f.sub = 3 then (grainStep (grainStep (st l)).2).2 else (grainStep (st l)).2) else st l)
          ∧ (∀ reg l, l < 32 → (lane m l = false ∨ reg < f.vd.toNat ∨ f.vd.toNat + n ≤ reg) → (rakeAt a t).vget reg l = c.rake.vget reg l)
          ∧ rakeAt a t = { c.rake with v := (rakeAt a t).v, lanes := (rakeAt a t).lanes, pcs := (rakeAt a t).pcs }
          ∧ NextPc c (rakeAt a t) ∧ OnlyRake a s1 t))
  ∧ (∀ (a : At) (f : VFmt) (s : State) (c : Issue) (s1 : State),
      VecRuns a f s c s1 (vfieldsOk f false && decide (f.type = 4) && vsrcOk c f 1 true true true && c.rake.regOk f.vd.toNat 1) →
      let m := c.guarded f.gd
      let keep (l : Nat) : Bool := decide (opB c f fp32Type l ≤ (grainStep (c.rake.laneState l)).1.toNat)
      Completes (.dropmask a f) s (fun t =>
        (∀ l, l < 32 → lane m l = true → keep l = false → (rakeAt a t).vget f.vd.toNat l = 0)
          ∧ (∀ l, l < 32 → lane m l = true → keep l = true → ((rakeAt a t).vget f.vd.toNat l).toNat =
              arithFlt .mul fp32 .rne (f.sat = 1) (s1.laneDraw l 0) (opA c f fp32Type l) (opC c s1 f fp32Type l) 0 % 2 ^ 32)
          ∧ (∀ l, l < 32 → f.pw = 1 → f.pd ≠ 7 → lane ((rakeAt a t).pget f.pd.toNat) l =
              if lane m l then keep l else lane (c.rake.pget f.pd.toNat) l)
          ∧ (∀ k, k ≠ f.pd.toNat ∨ f.pw = 0 ∨ f.pd = 7 → (rakeAt a t).pget k = c.rake.pget k)
          ∧ (∀ l, l < 32 → (rakeAt a t).laneState l =
              if lane m l then (grainStep (c.rake.laneState l)).2 else c.rake.laneState l)
          ∧ (∀ reg l, l < 32 → (lane m l = false ∨ reg ≠ f.vd.toNat) → (rakeAt a t).vget reg l = c.rake.vget reg l)
          ∧ rakeAt a t = { c.rake with v := (rakeAt a t).v, p := (rakeAt a t).p, lanes := (rakeAt a t).lanes, pcs := (rakeAt a t).pcs }
          ∧ NextPc c (rakeAt a t) ∧ OnlyRake a s1 t))

/-- The KV append engine (R124, R186 to R191). -/
def Obligations.KvInstructionsAppendCommitAndDiscard : Prop :=
  (∀ (a : At) (f : RFmt) (s : State) (c : Issue) (s1 : State),
    (WideRuns a f.gd f.pm f.sbase 5 s c s1 (kvLegal f) → Issues a f.sbase (.kvAppend f) (.kvAppend a f) s c s1)
      ∧ (WideRuns a f.gd f.pm f.sbase 3 s c s1 (kvLegal f) →
          Issues a f.sbase (.kvCommit f) (.kvCommit a f) s c s1 ∧ Issues a f.sbase (.kvDiscard f) (.kvDiscard a f) s c s1))
  ∧ (∀ (s : State) (q b : Nat) (w : Work) (rest : List Work) (f : RFmt), DmaHead s q b w rest →
      let o := w.sop
      let d := s.agentDir (o 0 % 2 ^ 18)
      let h := d.header
      let st := o 1 % 32
      let r := streamRec s h st
      let p := o 2 % 2 ^ 40
      let count := o 3 % 512
      let t := runTurn s (.dma q b)
      let refused (e v : Nat) : Prop := KvAnswer s t w rest f e (hGen s h) v ∧ t = { s with beds := t.beds, rakes := t.rakes, pans := t.pans }
      let ran : Prop := t = { s with
        beds := t.beds, rakes := t.rakes, pans := t.pans, mem := t.mem, coh := t.coh, stk := t.stk, cores := t.cores }
      (d.valid = true → ∀ e, kvCheck s q d (fld (o 1) 8 8) = some e →
        (w.op = .kvAppend f → refused e r.fill) ∧ (w.op = .kvCommit f ∨ w.op = .kvDiscard f → refused e (hC s h)))
      ∧ (kvCheck s q d (fld (o 1) 8 8) = none →
          (w.op = .kvAppend f → ∀ e, appendCheck s (s.bed q b) h st p count (o 4) = some e → refused e r.fill)
          ∧ (w.op = .kvCommit f → 1024 < o 2 % 2 ^ 11 → refused stBadArgument (hC s h))
          ∧ (w.op = .kvDiscard f → p < hC s h → refused stBadArgument (hC s h))
          ∧ (w.op = .kvAppend f → appendCheck s (s.bed q b) h st p count (o 4) = none →
              ran ∧ ∃ v, KvAnswer s t w rest f stOk (hGen t h) v
                ∧ (AllHome s → WordsInside s h st → ClearOf s q h r p (p + count) →
                  (∀ i j, i < count → j < count → i ≠ j → positionPa s q h r (p + i) + r.entry ≤ positionPa s q h r (p + j)
                    ∨ positionPa s q h r (p + j) + r.entry ≤ positionPa s q h r (p + i)) →
                  v = (p + count) % 2 ^ 40 ∧ (streamRec t h st).fill = (p + count) % 2 ^ 40 ∧ hC t h = hC s h ∧ hGen t h = hGen s h
                    ∧ (∀ i k, i < count → k < r.entry →
                        memByte t (positionPa s q h r (p + i) + k) = tget 0 (s.bed q b).scratch (o 4 + i * r.entry + k))
                    ∧ (∀ k ∈ wordsOf r p (p + count), pageWord t h r k = pageWord s h r k ||| 2 ^ 31)
                    ∧ (∀ x, (x < h ∨ h + 65536 ≤ x) → ¬ InPositions s q h r p (p + count) x → memByte t x = memByte s x)))
          ∧ (s.poisoned h kib64 = false → ∀ keep new : Nat,
              (w.op = .kvCommit f ∧ o 2 % 2 ^ 11 ≤ 1024 ∧ keep = hC s h + o 2 % 2 ^ 11 ∧ new = keep
                  ∧ (∀ y, y < hStreams s h → keep ≤ (streamRec s h y).fill))
                ∨ (w.op = .kvDiscard f ∧ keep = p ∧ new = hC s h ∧ new ≤ p) →
              ran ∧ ∃ v, KvAnswer s t w rest f stOk (hGen t h) v
                ∧ (AllHome s → v = new % 2 ^ 40 ∧ hC t h = new % 2 ^ 40 ∧ hGen t h = (hGen s h + 1) % 256)
                ∧ (AllHome s → (∀ y, y < hStreams s h → (streamRec s h y).fill ≤ keep) →
                    (∀ y, y < hStreams s h → (streamRec t h y).fill = (streamRec s h y).fill)
                      ∧ ∀ x, (x < h ∨ h + 0x100 + 64 * hStreams s h ≤ x) → memByte t x = memByte s x)
                ∧ (AllHome s → (∀ y, y < hStreams s h → WordsInside s h y
                      ∧ ClearOf s q h (streamRec s h y) keep (streamRec s h y).fill) →
                    (∀ y, y < hStreams s h → (streamRec t h y).fill = min (streamRec s h y).fill keep
                        ∧ ∀ x, InPositions s q h (streamRec s h y) keep (streamRec s h y).fill x → memByte t x = 0)
                      ∧ ∀ x, (x < h ∨ h + 65536 ≤ x) →
                          (∀ y, y < hStreams s h → ¬ InPositions s q h (streamRec s h y) keep (streamRec s h y).fill x) →
                          memByte t x = memByte s x))))

/-- Copies, moves and flood queues (R124, R177 to R179, R203, R220). -/
def Obligations.DmaAndFloodInstructionsMoveBytes : Prop :=
  (∀ (a : At) (f : RFmt) (s : State) (c : Issue) (s1 : State),
    (WideRuns a f.gd f.pm f.sbase 4 s c s1 (decide (f.imm32 = 0)) → Issues a f.sbase (.copy f) (.dmaCopy a f) s c s1)
      ∧ (WideRuns a f.gd f.pm f.sbase 2 s c s1 (decide (f.imm32 = 0)) → Issues a f.sbase (.agentFetch f) (.dmaAgentFetch a f) s c s1)
      ∧ (WideRuns a f.gd f.pm f.sbase 3 s c s1 (decide (f.imm32 = 0)) → Issues a f.sbase (.agentSpill f) (.dmaAgentSpill a f) s c s1)
      ∧ (WideRuns a f.gd f.pm f.sbase 3 s c s1 (decide (f.imm32 = 0) && decide (f.sub = 0)) →
          ((s1.bed a.pan a.bed).full (.flood f) = false → Completes (.floodQ a f) s (fun t => ∃ log,
            Queues a f.sbase (.flood f) c { s1 with coh := { s1.coh with homeLog := log } } t))
          ∧ ((s1.bed a.pan a.bed).full (.flood f) = true → exec (.floodQ a f) s = .next s1.drawn)))
  ∧ (∀ (s : State) (p b : Nat) (w : Work) (rest : List Work) (f : RFmt), DmaHead s p b w rest →
      let o := w.sop
      let n := o 2
      let u := s.updBed p b (fun d => { d with dq := rest })
      let t := runTurn s (.dma p b)
      let srcS := (o 3).testBit 0
      let dstS := (o 3).testBit 1
      let bad : Prop := n = 0 ∨ 2 ^ 32 < n ∨ (srcS = true ∧ scratchSize < o 0 + n) ∨ (dstS = true ∧ scratchSize < o 1 + n)
      (w.op = .copy f →
        (bad → Answers s t w f.sd 0x0101 ∧ t = { u with rakes := t.rakes })
        ∧ (¬ bad → ∀ (s2 : State) (e : XFail × Nat), sideOf p srcS (o 0) n 0 .r u = (s2, .error e) →
            Answers s t w f.sd (refusalStatus e.1.cause) ∧ t = { s2 with rakes := t.rakes, pans := t.pans }
              ∧ ((s2.pan p).xValid = false → (t.pan p).xValid = true ∧ (t.pan p).xVa = e.2 % 2 ^ 48))
        ∧ (¬ bad → ∀ (s2 s3 : State) (x : Side) (e : XFail × Nat), sideOf p srcS (o 0) n 0 .r u = (s2, .ok x) →
            sideOf p dstS (o 1) n (pageFuel n) .w s2 = (s3, .error e) →
            Answers s t w f.sd (refusalStatus e.1.cause) ∧ t = { s3 with rakes := t.rakes, pans := t.pans })
        ∧ (¬ bad → ∀ (s2 s3 : State) (x y : Side), sideOf p srcS (o 0) n 0 .r u = (s2, .ok x) →
            sideOf p dstS (o 1) n (pageFuel n) .w s2 = (s3, .ok y) → sideBad s3 (s3.bed p b) x n = none →
            let bytes := sideRead s3 (s3.bed p b) w.viewer x n
            Answers s t w f.sd stOk ∧ t.tide = s.tide
            ∧ (srcS = true → bytes = (s.bed p b).scratchBytes (o 0) n)
            ∧ (dstS = true →
                (∀ k, tget 0 (t.bed p b).scratch k =
                    if o 1 ≤ k ∧ k < o 1 + bytes.length then bytes.getD (k - o 1) 0 else tget 0 (s.bed p b).scratch k)
                  ∧ t = { s3 with beds := t.beds, rakes := t.rakes, pans := t.pans, stk := t.stk, coh := { s3.coh with homeLog := t.coh.homeLog } }
                  ∧ ∀ p' b', bedKey p' b' ≠ bedKey p b → t.bed p' b' = s.bed p' b')
            ∧ (dstS = false → ∀ pa, AllHome s3 → n ≤ 4096 - o 1 % 4096 → heldPa s3 y.pages (o 1) = some pa → bytes.length = n →
                (∀ k, memByte t k = if pa ≤ k ∧ k < pa + n then bytes.getD (k - pa) 0 else memByte s k)
                  ∧ t.beds = u.beds ∧ t.events = s3.events)))
      ∧ (w.op = .agentFetch f →
          (∀ e, prefetchCheck u (o 0) (o 1) = .error e → Answers s t w f.sd e.1 ∧ t = { u with rakes := t.rakes })
          ∧ (∀ q, prefetchCheck u (o 0) (o 1) = .ok q →
              t.mover q = s.mover q ++ [{ agent := o 0, spill := false, pan := q, origin := .rake p b w.at_.slot f.sd.toNat }]
                ∧ t = { u with salter := { u.salter with movers := t.salter.movers } }))
      ∧ (w.op = .agentSpill f →
          (∀ e, spillCheck u (o 0) (o 1) (o 2) = .error e → Answers s t w f.sd e.1 ∧ t = { u with rakes := t.rakes })
          ∧ (∀ q, spillCheck u (o 0) (o 1) (o 2) = .ok q →
              t.mover q = s.mover q ++ [{ agent := o 0, spill := true, pan := q, pa := o 1, capacity := o 2,
                                          origin := .rake p b w.at_.slot f.sd.toNat }]
                ∧ t = { u with salter := { u.salter with movers := t.salter.movers } }))
      ∧ (w.op = .flood f →
          let q := o 0
          let badQ : Prop := 3 < q ∨ o 1 % 64 ≠ 0 ∨ n % 64 ≠ 0 ∨ n < 64 ∨ 2 ^ 32 - 64 < n
          (badQ → Answers s t w f.sd stBadArgument ∧ t = { u with rakes := t.rakes })
          ∧ (¬ badQ → 8 ≤ ((s.bed p b).queue q).descs.length → dmaReady s p b = false)
          ∧ (¬ badQ → ((s.bed p b).queue q).descs.length < 8 → ∀ (s2 : State) (x : Side), sideOf p false (o 1) n 0 .r u = (s2, .ok x) →
              (rangeInBrine s2 p x n = false → Answers s t w f.sd stNoRights ∧ t = { s2 with rakes := t.rakes })
              ∧ (rangeInBrine s2 p x n = true → Answers s t w f.sd stOk
                  ∧ (∃ y : FloodDesc, ((t.bed p b).queue q).descs = ((s.bed p b).queue q).descs ++ [y]
                      ∧ y.va = o 1 ∧ y.left = n ∧ y.slot = s.slotRun)
                  ∧ ((t.bed p b).queue q).buf = ((s.bed p b).queue q).buf
                  ∧ (∀ k, k ≠ q → (t.bed p b).queue k = (s.bed p b).queue k)
                  ∧ t.bed p b = { s.bed p b with dq := rest, flood := (t.bed p b).flood }
                  ∧ t = { s2 with beds := t.beds, rakes := t.rakes, pans := t.pans }))))
  ∧ (∀ (s : State) (p b q pa : Nat) (d : FloodDesc) (rest : List FloodDesc), let x := (s.bed p b).queue q
      x.descs = d :: rest → s.onlinePan p = true → brineHeld s p = false → d.waits s = false → q ≤ 3 → x.buf.length + 64 ≤ 8192 →
      heldPa s d.pages d.va = some pa →
      Completes (.floodFetch p b q) s (fun t => let y := (t.bed p b).queue q
        ∃ bs : List Byte, bs.length = 64 ∧ y.buf.map FloodByte.val = x.buf.map FloodByte.val ++ bs
          ∧ (∀ i, i < 64 → bs.getD i 0 = memByte s (pa + i) ∨ ∃ r ∈ s.coh.homeLog, d.hides (p * 16 + b) r = true
              ∧ r.pa ≤ pa + i ∧ pa + i < r.pa + r.old.length ∧ bs.getD i 0 = r.old.getD (pa + i - r.pa) 0)
          ∧ y.descs = (if d.left ≤ 64 then rest else { d with va := d.va + 64, left := d.left - 64 } :: rest)
          ∧ (∀ k, k ≠ q → (t.bed p b).queue k = (s.bed p b).queue k) ∧ t = { s with beds := t.beds, free := s.free + 1 }))

/-- Context save and load (R144 to R146). -/
def Obligations.ContextInstructionsSaveAndRestore : Prop :=
  (∀ (a : At) (f : RFmt) (s : State) (c : Issue) (s1 : State) (i k : Nat) (x : Block),
    c.rake.live = c.active → c.rake.home = some (i, k) → (s1.bed a.pan a.bed).block? i = some x → x.ctxMet = false →
    let arrives (load : Bool) (op : Instr) : Prop := Completes op s (fun t =>
      (∀ l, l < 32 → (rakeAt a t).thread l = if lane c.active l then .atBarrier else c.rake.thread l)
        ∧ rakeAt a t = { c.rake with threads := (rakeAt a t).threads }
        ∧ ((∃ r ∈ x.slots, r ≠ a.slot ∧ ∃ l, l < 32 ∧ ((s1.rake a.pan a.bed r).thread l).live = true ∧ (s1.rake a.pan a.bed r).thread l ≠ .atBarrier) →
            (t.bed a.pan a.bed).block? i = some { x with waitFrom := some (x.waitFrom.getD s1.now), ctxWait := x.ctxWait ++ [(a.slot, f, load)] })
        ∧ (x.slots = [a.slot] →
            (t.bed a.pan a.bed).block? i = some { x with waitFrom := none, ctxWait := x.ctxWait ++ [(a.slot, f, load)], ctxMet := true })
        ∧ t = { s1 with beds := t.beds, rakes := t.rakes, free := s1.free + 1 })
    (WideRuns a f.gd f.pm f.sbase 2 s c s1 true → arrives false (.ctxSave a f))
      ∧ (WideRuns a f.gd f.pm f.sbase 1 s c s1 true → arrives true (.ctxLoad a f)))
  ∧ (∀ (s : State) (p b i k slot : Nat) (f : RFmt) (load : Bool) (x : Block),
    let r := s.rake p b slot
    (s.bed p b).block? i = some x → x.slots = [slot] → x.ctxWait = [(slot, f, load)] → x.ctxMet = true →
    r.home = some (i, k) → r.live ≠ 0 → (∀ l, l < 32 → (r.thread l).live = true → r.thread l = .atBarrier) →
    (blockBusy s p b x = true → ctxReady s p b x = false)
    ∧ (blockBusy s p b x = false →
        let t := runTurn s (.context p b i)
        let u := releaseBarrier s p b x
        let r' := t.rake p b slot
        let operand (j : Nat) : Nat := (r.sget (8 * f.sbase.toNat + j)).toNat
        let next (l : Nat) : Dword := if lane r.live l then r.pc l + 8 else r.pc l
        let released (v : Nat) : Prop :=
          r'.sget f.sd.toNat = BitVec.ofNat 64 v ∧ (∀ n, n ≠ f.sd.toNat → r'.sget n = r.sget n) ∧ (∀ l, l < 32 → r'.pc l = next l)
            ∧ r' = { r with s := r'.s, pcs := r'.pcs, threads := r'.threads }
            ∧ (t.bed p b).block? i = some { x with generation := x.generation + 1, waitFrom := none, ctxWait := [], ctxMet := false }
        let goes : Prop := ∀ l, l < 32 → r'.thread l = if lane r.live l then .running else r.thread l
        let faulted (code : Nat) : Prop := (t.bed p b).failed = true ∧ r'.live = 0
          ∧ ((s.bed p b).fValid = false → (t.bed p b).fValid = true ∧ (t.bed p b).fCode = code)
        (load = false → ∃ img : List Byte,
          leField img 0 4 = 0x58544E43 ∧ leField img 4 2 = 1 ∧ leField img 7 1 = 1 ∧ leField img 16 8 = img.length
          ∧ crc32c (img.take 24 ++ leBytes 4 0 ++ img.drop 28) = leField img 24 4
          ∧ (∀ l, l < 32 → leField img (384 + 8 * l) 8 = (next l).toNat)
          ∧ (∀ n, n < 64 → leField img (384 + 352 + 8 * n) 8 = if n = f.sd.toNat then 0x10000 else (r.sget n).toNat)
          ∧ (operand 1 < img.length → released stNoFit ∧ goes ∧ t.mem = s.mem)
          ∧ (img.length ≤ operand 1 → ∀ (u1 : State) (e : XFail × Nat),
              sideOf p false (operand 0) img.length 0 .w u = (u1, .error e) → faulted 6 ∧ t.mem = s.mem)
          ∧ (img.length ≤ operand 1 → ∀ (u1 : State) (y : Side), sideOf p false (operand 0) img.length 0 .w u = (u1, .ok y) →
              ((⟨x.scratchAddr, 0, 1, x.scratchLen⟩ : Span).error (s.bed p b) ≠ none → faulted 7 ∧ t.mem = s.mem)
              ∧ ((⟨x.scratchAddr, 0, 1, x.scratchLen⟩ : Span).error (s.bed p b) = none →
                  released stOk ∧ (bitN f.imm32.toNat 8 = false → goes)
                  ∧ (bitN f.imm32.toNat 8 = true → ∀ l, l < 32 → lane r.live l = true → r'.thread l = .exited)
                  ∧ t.mem = (sideWrite u1 p b y img).mem)))
        ∧ (load = true → t.mem = s.mem
          ∧ (∀ (u1 : State) (e : XFail × Nat), sideOf p false (operand 0) 128 0 .r u = (u1, .error e) → faulted 6)
          ∧ (∀ (u1 : State) (h : Side), sideOf p false (operand 0) 128 0 .r u = (u1, .ok h) →
              ((sideBad u1 (u1.bed p b) h 128).isSome = true → released stUnitFailed ∧ goes)
              ∧ (sideBad u1 (u1.bed p b) h 128 = none →
                  let v := ctxViewer s p b { x with generation := x.generation + 1, waitFrom := none, ctxWait := [], ctxMet := false }
                  let n := max 128 (leField (sideRead u1 (u1.bed p b) v h 128) 16 8)
                  (∀ (u2 : State) (e : XFail × Nat), sideOf p false (operand 0) n 4 .r u1 = (u2, .error e) → faulted 6)
                  ∧ (∀ (u2 : State) (y : Side), sideOf p false (operand 0) n 4 .r u1 = (u2, .ok y) →
                      let img := sideRead u2 (u1.bed p b) v y n
                      ((sideBad u2 (u1.bed p b) y n).isSome = true → released stUnitFailed ∧ goes)
                      ∧ (sideBad u2 (u1.bed p b) y n = none →
                          (∀ st, imageCheck (u1.bed p b) img = some st → released st ∧ goes)
                          ∧ (imageCheck (u1.bed p b) img = none →
                              (t.bed p b).block? i = some { x with
                                generation := leField img 128 8, keyed := decide (leField img 10 1 = 1), waitFrom := none, ctxWait := [], ctxMet := false }
                              ∧ (leField img 7 1 = 1 →
                                  (∀ n, n < 64 → r'.sget n = BitVec.ofNat 64 (leField img (384 + 352 + 8 * n) 8))
                                  ∧ (∀ l, l < 32 → r'.pc l = BitVec.ofNat 64 (leField img (384 + 8 * l) 8)
                                      ∧ r'.laneState l = BitVec.ofNat 128 (leField img (384 + 864 + 16 * l) 16))
                                  ∧ ∀ n, n < 7 → r'.pget n = BitVec.ofNat 32 (leField img (384 + 320 + 4 * n) 4))))))))))

/-- Precise faults (R136, R141, R142). -/
def Obligations.PreciseFaultsAreRecordedAndAbort : Prop :=
  (∀ (a : At) (v : VFmt) (x : SFmt) (g : CFmt) (m : MFmt) (l : LFmt) (y : XFmt) (r : RFmt) (s : State) (c : Issue) (s1 : State) (e : XFail),
    issueOf a s = some c → fetchCheck c s = (s1, some e) → ∀ i ∈ bedForms a v x g m l y r,
    Completes i s (fun t => Faulted a c s1 t fTranslation ∧ t = { s1 with beds := t.beds, rakes := t.rakes, events := t.events, pans := t.pans, salter := { s1.salter with movers := t.salter.movers }, free := s1.free + 1 }
      ∧ ((s1.pan a.pan).xValid = false → (t.pan a.pan).xValid = true ∧ (t.pan a.pan).xVa = c.pc.toNat % 2 ^ 48)))
  ∧ (∀ (a : At) (s : State) (c : Issue) (s1 : State), Ready a s c s1 →
      let faults (i : Instr) (code : Nat) : Prop := Completes i s (fun t => Faulted a c s1 t code
        ∧ t = { s1 with beds := t.beds, rakes := t.rakes, events := t.events, salter := { s1.salter with movers := t.salter.movers }, free := s1.free + 1 })
      (∀ w, decodeBed a w = none → faults (.illegalInstruction a w) fIllegal)
      ∧ (∀ (l : LFmt) (y : XFmt) (r : RFmt), ∀ e ∈ wideForms a l y r,
          (c.pmask e.2.2.1 = none ∨ guardAlways e.2.1 = false → faults e.1 fIllegal)
          ∧ (∀ m, c.pmask e.2.2.1 = some m → guardAlways e.2.1 = true → c.active ≠ m →
              operandWait a s1 (e.2.2.1.toNat :: (List.range 8).map (fun j => 8 * e.2.2.2.toNat + j)) = false →
              (∃ code, (code = fIllegal ∨ code = fMask) ∧ faults e.1 code)
                ∧ (e.1 ∈ [Instr.grainKeyLane a r, .grainKeyDrain a r, .ctxSave a r, .ctxLoad a r] → faults e.1 fMask)))
      ∧ (∀ (f : MFmt) (n k : Nat), sizeBytes f.size.toNat = some n → k ∈ lanesOf (c.guarded f.gd) → memAddr c f k % n ≠ 0 →
          (memRegs c f (sizeRegs n) [f.vd.toNat] = true → faults (.ld a f) fMisaligned)
          ∧ (memRegs c f (sizeRegs n) [f.vb.toNat] = true → Released a f s1 → faults (.st a f) fMisaligned)
          ∧ ((atomicSize n && decide (f.aop.toNat ≤ 9) && (decide (f.aop ≠ 9) || decide (n = 4)) && memRegs c f (sizeRegs n) [f.vd.toNat, f.vb.toNat]) = true →
              Released a f s1 → faults (.atom a f) fMisaligned)))

/-- No group, no effect (entry 9). -/
def Obligations.NothingRunsWhereNoGroupIssues : Prop :=
  ∀ (a : At) (v : VFmt) (x : SFmt) (g : CFmt) (m : MFmt) (l : LFmt) (y : XFmt) (r : RFmt) (s : State),
    issueOf a s = none → ∀ i ∈ bedForms a v x g m l y r, exec i s = .next s

/-- Loads (R253, R255, R258). -/
def Obligations.CoreLoadsReturnTheCoherentValue : Prop :=
  ∀ (i : Instr) (a : CoreAcc) (n : Nat) (pair : Bool) (s : State),
    (i = .coreLoad a ∧ n = a.size ∧ pair = false) ∨ (i = .loadAcq a ∧ n = a.size ∧ pair = false) ∨ (i = .pairedLoad a ∧ n = 16 ∧ pair = true) →
    Quiet s a.core →
    let s0 := begun i a.core s
    (∀ (s1 : State) (g : Seg), coreSegs s0 a.core a.ctx .r a.va.toNat n pair = (s1, .ok [g]) → g.len = n → InLine g →
      NotCombining s1 a.core [lineOf g.pa] → lineHeld s1 a.core (lineOf g.pa) = false →
      Completes i s (fun t =>
        (if t.poisoned g.pa n = true then
            (t.core a.core).abort = some { cause := .dataError, addr := a.va.toNat } ∧ (t.core a.core).result = (s1.core a.core).result
          else (∃ x, (t.core a.core).result = BitVec.ofNat 256 x ∧ x < 2 ^ (8 * n) ∧ Finds (s1.core a.core).viewer s1.coh.kept (cohByte t) g.pa n x)
            ∧ (t.core a.core).abort = (s1.core a.core).abort)
        ∧ t.beds = s1.beds ∧ t.rakes = s1.rakes)
      ∧ (AllHome s1 → NoRaces s1 a.core → s1.poisoned g.pa n = false → Completes i s (fun t =>
          (t.core a.core).result = BitVec.ofNat 256 (wordAt (memByte s1) g.pa n) ∧ (t.core a.core).fifo = (s1.core a.core).fifo
            ∧ ∀ x, memByte t x = memByte s1 x))
      ∧ (g.cacheable = false → NoRaces s1 a.core → s1.poisoned g.pa n = false → Completes i s (fun t =>
          (t.core a.core) = { s1.core a.core with
              result := BitVec.ofNat 256 (s1.cohNat g.pa n), view := (t.core a.core).view, reads := (t.core a.core).reads, seen := (t.core a.core).seen }
            ∧ (∀ k, k ≠ a.core → t.core k = s1.core k)
            ∧ t = { s1 with cores := t.cores, stk := t.stk, free := s1.free + 1 })))
    ∧ (∀ (s1 : State) (e : AbortCause × Nat), coreSegs s0 a.core a.ctx .r a.va.toNat n pair = (s1, .error e) →
        Completes i s (fun t => (t.core a.core).abort = some { cause := e.1, addr := e.2 } ∧ (t.core a.core).rsv = none
          ∧ (t.core a.core).result = (s1.core a.core).result ∧ OnlyCore a.core s1 t))

/-- Stores, the FIFO and the write-combining buffer (R255, R256, R258, R259, R263). -/
def Obligations.CoreStoresEnterTheirBuffers : Prop :=
  (∀ (i : Instr) (a : CoreAcc) (data : List Byte) (s : State) (direct release pair : Bool),
    (i = .coreStore a data ∧ direct = false ∧ release = false ∧ pair = false)
      ∨ (i = .storeRel a data ∧ direct = false ∧ release = true ∧ pair = false ∧ (s.core a.core).wc = [])
      ∨ (i = .nonTemporalStore a data ∧ direct = true ∧ release = false ∧ pair = false ∧ s.cfg.variant = .a12)
      ∨ (∃ lo hi, i = .pairedStore a lo hi ∧ data = leBytes 8 lo.toNat ++ leBytes 8 hi.toNat ∧ direct = false ∧ release = false ∧ pair = true) →
    Quiet s a.core →
    let s0 := begunOrdered release i a.core s
    (∀ (s1 : State) (gs : List Seg), coreSegs s0 a.core a.ctx .w a.va.toNat data.length pair = (s1, .ok gs) →
      (∀ g ∈ gs, g.device = false) → NotCombining s1 a.core (segLines gs) →
      let es := storeEntries gs data direct release
      let new := if pair then es.flatMap pairWords else es
      (s1.core a.core).fifo.length + new.length ≤ 96 →
      Completes i s (fun t => t.core a.core = { s1.core a.core with
          fifo := (s1.core a.core).fifo ++ (if (s1.core a.core).fenced = true then fenceFirst new else new), fenced := false }
        ∧ OnlyCore a.core s1 t))
    ∧ (∀ (s1 : State) (e : AbortCause × Nat), coreSegs s0 a.core a.ctx .w a.va.toNat data.length pair = (s1, .error e) →
        Completes i s (fun t => (t.core a.core).abort = some { cause := e.1, addr := e.2 } ∧ (t.core a.core).fifo = (s1.core a.core).fifo
          ∧ OnlyCore a.core s1 t)))
  ∧ (∀ (e : FifoEntry), e.device = false → pairWords e = if e.data.length ≤ 8 ∨ (e.data.length = 16 ∧ e.pa % 16 = 0 ∧ e.direct = false) then [e]
      else [{ e with data := e.data.take 8 }, { e with pa := e.pa + 8, data := e.data.drop 8 }])
  ∧ (∀ (a : CoreAcc) (data : List Byte) (s s1 : State) (g : Seg), Quiet s a.core → s.cfg.variant ≠ .a12 →
      coreSegs (begun (.nonTemporalStore a data) a.core s) a.core a.ctx .w a.va.toNat data.length = (s1, .ok [g]) → g.len = data.length → InLine g →
      data.length < 64 → (s1.core a.core).wc = [] →
      Completes (.nonTemporalStore a data) s (fun t =>
        (∃ w, (t.core a.core).wc = [w] ∧ w.line = lineOf g.pa
          ∧ ∀ k, tget 0 w.bytes k = if g.pa % 64 ≤ k ∧ k < g.pa % 64 + data.length then BitVec.ofNat 16 (256 + (data.getD (k - g.pa % 64) 0).toNat) else 0)
          ∧ t.core a.core = { s1.core a.core with wc := (t.core a.core).wc } ∧ OnlyCore a.core s1 t))
  ∧ (∀ (n : Nat) (s : State) (w : WcLine), coreRuns s n = true → (s.core n).wc = [w] → (s.core n).fifo = [] → AllHome s →
      Completes (.wcLineTimeout n w.line) s (fun t => (t.core n).wc = []
        ∧ ∀ x, memByte t x = if x / 64 = w.line ∧ tget 0 w.bytes (x % 64) ≠ 0 then BitVec.ofNat 8 (tget 0 w.bytes (x % 64)).toNat else memByte s x))
  ∧ (∀ (n : Nat) (s : State), coreRuns s n = true → coreWaits s n = false → Completes (.fenceW n) s (fun t =>
      (t.core n).wc = [] ∧ (waitingStores t n = true → (t.core n).fenced = true)))
  ∧ (∀ (n j k i : Nat) (s : State) (e o : FifoEntry), k ≤ j → i < k → (s.core n).fifo[k]? = some e → e.fence = true →
      (s.core n).fifo[i]? = some o → o.device = false → writable s n j = false)
  ∧ (∀ (n : Nat) (s : State) (e : FifoEntry), coreRuns s n = true → coreWaits s n = false → (s.core n).wc = [] → (s.core n).fifo = [e] →
      e.device = false → e.direct = true → e.release = false → e.data ≠ [] → (∀ k ∈ s.cores, k.1 ≠ n → waitingStores s k.1 = false) →
      (∀ l ∈ e.lines, ownHeld s n l = false) → invalPending s n = false → AllHome s →
      Completes (.fenceRw n) s (fun t => (t.core n).fifo = []
        ∧ ∀ x, memByte t x = if e.pa ≤ x ∧ x < e.pa + e.data.length then e.data.getD (x - e.pa) 0 else memByte s x))

/-- Atomics and reservations (R265 to R268). -/
def Obligations.CoreAtomicsAndReservations : Prop :=
  (∀ (a : CoreAcc) (s : State) (op : AtmOp) (order : BitVec 2) (x : Dword) (cmp new : BitVec 128) (paired : Bool),
    let i : Instr := if paired then .casP a order cmp new else .atm a op order x
    let n := if paired then 16 else a.size
    let f (old : Nat) : Nat :=
      if paired then (if old = cmp.toNat then new.toNat else old) else atomicOp (atmCode op) a.size old (x.toNat % 2 ^ (8 * a.size))
    let s0 := begunOrdered (order.getLsbD 1) i a.core s
    Quiet s a.core → (order.getLsbD 1 = true → Performed s a.core) → (paired = true ∨ a.size = 4 ∨ a.size = 8) →
    (a.va.toNat % n ≠ 0 → Completes i s (fun t => (t.core a.core).abort = some { cause := .alignment, addr := a.va.toNat } ∧ OnlyCore a.core s0 t))
    ∧ (a.va.toNat % n = 0 → ∀ (s1 : State) (g : Seg), coreSegs s0 a.core a.ctx .a a.va.toNat n = (s1, .ok [g]) →
        (g.device = true ∨ g.cacheable = false →
          Completes i s (fun t => (t.core a.core).abort = some { cause := .memoryType, addr := a.va.toNat } ∧ OnlyCore a.core s1 t))
        ∧ (g.cacheable = true → g.len = n → InLine g → NotCombining s1 a.core [lineOf g.pa] → ownHeld s1 a.core (lineOf g.pa) = false →
            (AllHome s1 → tableOk none s1.coh.dir = true → s1.poisoned g.pa n = false →
              let old := wordAt (memByte s1) g.pa n
              Completes i s (fun t => (t.core a.core).result = BitVec.ofNat 256 old
                ∧ (∀ y, y / 64 = g.pa / 64 → l2Byte a.core t y =
                    if g.pa ≤ y ∧ y < g.pa + n then BitVec.ofNat 8 (f old / 256 ^ (y - g.pa)) else memByte s1 y)
                ∧ (t.cached (l2Agent a.core) (lineOf g.pa)).map CacheLine.st = some .m ∧ t.mem = s1.mem))
            ∧ (∀ k, OwnedLine s1 a.core (lineOf g.pa) k →
              let old := wordAt (l2Byte a.core s1) g.pa n
              Completes i s (fun t => (t.core a.core).result = BitVec.ofNat 256 old
                ∧ (∀ y, y / 64 = g.pa / 64 → l2Byte a.core t y =
                    if g.pa ≤ y ∧ y < g.pa + n then BitVec.ofNat 8 (f old / 256 ^ (y - g.pa)) else l2Byte a.core s1 y)
                ∧ (t.cached (l2Agent a.core) (lineOf g.pa)).map CacheLine.st = some .m ∧ t.mem = s1.mem)))))
  ∧ (∀ (a : CoreAcc) (s s1 : State) (g : Seg), Quiet s a.core → (a.size = 4 ∨ a.size = 8) → a.va.toNat % a.size = 0 →
      let s0 := (begun (.loadRsv a) a.core s).updCore a.core (fun c => { c with rsv := none, deferral := none })
      coreSegs s0 a.core a.ctx .a a.va.toNat a.size = (s1, .ok [g]) → g.cacheable = true → g.len = a.size → InLine g →
      NotCombining s1 a.core [lineOf g.pa] → ownHeld s1 a.core (lineOf g.pa) = false →
      (AllHome s1 → s1.poisoned g.pa a.size = false →
        Completes (.loadRsv a) s (fun t => (t.core a.core).result = BitVec.ofNat 256 (wordAt (memByte s1) g.pa a.size)
          ∧ (t.core a.core).rsv = some { line := lineOf g.pa, pa := g.pa, size := a.size } ∧ ∀ y, memByte t y = memByte s1 y))
      ∧ (∀ k, OwnedLine s1 a.core (lineOf g.pa) k → k.st = .m →
        Completes (.loadRsv a) s (fun t => (t.core a.core).result = BitVec.ofNat 256 (wordAt (l2Byte a.core s1) g.pa a.size)
          ∧ (t.core a.core).rsv = some { line := lineOf g.pa, pa := g.pa, size := a.size }
          ∧ (t.core a.core).deferral = some (lineOf g.pa) ∧ t.mem = s1.mem)))
  ∧ (∀ (a : CoreAcc) (x : Dword) (s s1 : State) (g : Seg), Quiet s a.core → (a.size = 4 ∨ a.size = 8) → a.va.toNat % a.size = 0 →
      coreSegs (begun (.storeCnd a x) a.core s) a.core a.ctx .a a.va.toNat a.size = (s1, .ok [g]) → g.cacheable = true → g.len = a.size → InLine g →
      NotCombining s1 a.core [lineOf g.pa] → ownHeld s1 a.core (lineOf g.pa) = false →
      let mine : Prop := (s1.core a.core).rsv = some { line := lineOf g.pa, pa := g.pa, size := a.size }
      Completes (.storeCnd a x) s (fun t => (t.core a.core).rsv = none ∧ (t.core a.core).deferral = none
        ∧ (mine → (s1.core a.core).inLoop = true → (t.core a.core).scFail = false)
        ∧ ((t.core a.core).scFail = true → t = { s1 with cores := t.cores, free := s1.free + 1 })
        ∧ ((t.core a.core).scFail = false → mine
            ∧ ∀ k, OwnedLine s1 a.core (lineOf g.pa) k → t.mem = s1.mem ∧ ∀ y, y / 64 = g.pa / 64 → l2Byte a.core t y =
                if g.pa ≤ y ∧ y < g.pa + a.size then BitVec.ofNat 8 (x.toNat / 256 ^ (y - g.pa)) else l2Byte a.core s1 y)))
  ∧ (∀ (n : Nat) (s : State), Completes (.deferralTimeout n) s (fun t =>
      (t.core n).deferral = none ∧ (t.core n).rsv = (s.core n).rsv ∧ t = { s with cores := t.cores }))
  ∧ (∀ (n : Nat) (s : State), coreRuns s n = true → (s.core n).devSent = none → (s.core n).devLoad = none → Completes (.exceptionEntry n) s (fun t =>
      t.core n = { s.core n with
        rsv := none, deferral := none, stall := none, inLoop := false, priv := if (s.core n).priv = .user then .supervisor else (s.core n).priv }
      ∧ t = { s with cores := t.cores } ∧ ∀ k, k ≠ n → t.core k = s.core k))
  ∧ (∀ (n : Nat) (s : State), coreRuns s n = true → coreWaits s n = false → Completes (.exceptionReturn n) s (fun t =>
      t.core n = { s.core n with rsv := none, deferral := none, inLoop := false } ∧ t = { s with cores := t.cores } ∧ ∀ k, k ≠ n → t.core k = s.core k))

/-- Device accesses of cores (R261, R271 to R274). -/
def Obligations.DeviceAccessesAreSentAnsweredAndFail : Prop :=
  (∀ (a : CoreAcc) (x : Dword) (s s1 : State) (g : Seg), Quiet s a.core → g.device = true →
    coreSegs (begun (.deviceStore a x) a.core s) a.core a.ctx .w a.va.toNat a.size = (s1, .ok [g]) →
    (a.vec = true → Completes (.deviceStore a x) s (fun t => (t.core a.core).abort = some { cause := .memoryType, addr := a.va.toNat }
        ∧ OnlyCore a.core s1 t))
    ∧ (a.vec = false → g.pa / 65536 ∈ (s1.core a.core).pendingErr → Completes (.deviceStore a x) s (fun t =>
        (t.core a.core).abort = some { cause := .external (s1.core a.core).abtCause, addr := g.pa }
          ∧ g.pa / 65536 ∉ (t.core a.core).pendingErr ∧ (t.core a.core).fifo = (s1.core a.core).fifo ∧ OnlyCore a.core s1 t))
    ∧ (a.vec = false → g.pa / 65536 ∉ (s1.core a.core).pendingErr → (s1.core a.core).fifo = [] → (s1.core a.core).outstanding = [] →
        targetOf s1 g.pa ≠ .absent → Completes (.deviceStore a x) s (fun t =>
          t.core a.core = { s1.core a.core with outstanding := [{ pa := g.pa, data := leBytes a.size x.toNat, device := true }] }
            ∧ OnlyCore a.core s1 t)))
  ∧ (∀ (a : CoreAcc) (s s1 : State) (g : Seg), Quiet s a.core → g.device = true →
      coreSegs (begun (.deviceLoad a) a.core s) a.core a.ctx .r a.va.toNat a.size = (s1, .ok [g]) →
      (a.vec = true → Completes (.deviceLoad a) s (fun t => (t.core a.core).abort = some { cause := .memoryType, addr := a.va.toNat }
          ∧ OnlyCore a.core s1 t))
      ∧ (a.vec = false → g.pa / 65536 ∈ (s1.core a.core).pendingErr → Completes (.deviceLoad a) s (fun t =>
          (t.core a.core).abort = some { cause := .external (s1.core a.core).abtCause, addr := g.pa } ∧ OnlyCore a.core s1 t))
      ∧ (a.vec = false → g.pa / 65536 ∉ (s1.core a.core).pendingErr → (s1.core a.core).fifo = [] → (s1.core a.core).outstanding = [] →
          (targetOf s1 g.pa = .absent → Completes (.deviceLoad a) s (fun t =>
            (t.core a.core).abort = some { cause := .external 2, addr := g.pa } ∧ (t.core a.core).abtValid = true))
          ∧ (targetOf s1 g.pa ≠ .absent →
              let s2 := s1.updCore a.core (fun c => { c with devLoad := some { todo := [] } })
              let u := devRead s2 g.pa a.size
              Completes (.deviceLoad a) s (fun t =>
                (t = (s2.updCore a.core (fun c => { c with devSent := some (g.pa, a.size) })).drawn)
                  ∨ t = (setResult (u.1.updCore a.core (fun c => { c with devSent := none, devLoad := none })) a.core u.2).drawn))))
  ∧ (∀ (s : State) (pa : Nat), (∀ n, n ≠ 8 ∨ pa % 8 ≠ 0 → devRead s pa n = (s, 0) ∧ ∀ bs : List Byte, bs.length = n → devWrite s pa bs = s)
      ∧ (∀ r, pa % 8 = 0 → targetOf s pa = .reg r → regUp s r = true → devRead s pa 8 = (readReg s r, (regValue s r).toNat)
          ∧ ∀ v : Dword, devWrite s pa (leBytes 8 v.toNat) = writeReg s r v))
  ∧ (∀ (s : State) (n page : Nat) (e : FifoEntry), sentStore s n page = some e → (s.core n).fifo = [] → coreWaits s n = false →
      let s0 := forgetSent s n page
      ((s0.core n).outstanding = (s.core n).outstanding.filter (fun x => x.page ≠ page) ∧ s0 = { s with cores := s0.cores })
      ∧ ((let u := devWrite s0 e.pa e.data; (u.core n).fifo = [] ∧ coreWaits u n = false) →
          Completes (.deviceAck n page) s (fun t => t = (devWrite s0 e.pa e.data).drawn))
      ∧ (∀ (i : Instr) (cause : Nat), (i = .deviceErrorResponse n page ∧ cause = 2) →
          Completes i s (fun t => t = { s with cores := t.cores, events := t.events, free := s.free + 1 }
            ∧ e.page ∈ (t.core n).pendingErr ∧ (t.core n).outstanding = (s.core n).outstanding.filter (fun x => x.page ≠ page)
            ∧ Logs s t evDeviceAbort
            ∧ ((s.core n).abtValid = false → (t.core n).abtValid = true ∧ (t.core n).abtCause = cause ∧ (t.core n).abtAddr = e.pa
                ∧ (t.core n).abtStore = true ∧ (t.core n).abtDeferred = true ∧ (t.core n).abtDiscarded = 0)
            ∧ ((s.core n).abtValid = true → (t.core n).abtCause = (s.core n).abtCause ∧ (t.core n).abtAddr = (s.core n).abtAddr)))
      ∧ ((let u := devWrite s0 e.pa e.data; (u.core n).fifo = [] ∧ coreWaits u n = false) →
          Completes (.deviceAccessTimeout n page) s (fun t => e.page ∈ (t.core n).pendingErr
            ∧ ∃ u, (u = s0 ∨ u = devWrite s0 e.pa e.data) ∧ t = { u with cores := t.cores, events := t.events, free := u.free + 1 }
              ∧ ((u.core n).abtValid = false → (t.core n).abtValid = true ∧ (t.core n).abtCause = 1 ∧ (t.core n).abtAddr = e.pa))))
  ∧ (∀ (s : State) (n pa size : Nat), (s.core n).devSent = some (pa, size) → sentStore s n (pa / 65536) = none → (s.core n).fifo = [] →
      (∀ d, (s.core n).devLoad = some d → d.todo = [] →
        let u := devRead s pa size
        (u.1.core n).fifo = [] → (u.1.core n).devLoad = some d → Completes (.deviceAck n (pa / 65536)) s (fun t =>
          t = (setResult (u.1.updCore n (fun c => { c with devSent := none, devLoad := none })) n (d.value + 2 ^ (8 * d.bytes) * u.2)).drawn))
      ∧ (∀ (i : Instr) (cause : Nat), (i = .deviceAccessTimeout n (pa / 65536) ∧ cause = 1) ∨ (i = .deviceErrorResponse n (pa / 65536) ∧ cause = 2) →
          Completes i s (fun t => (t.core n).abort = some { cause := .external cause, addr := pa } ∧ (t.core n).devSent = none
            ∧ (t.core n).result = (s.core n).result ∧ Logs s t evDeviceAbort
            ∧ t = { s with cores := t.cores, events := t.events, free := s.free + 1 })))

/-- Fences, lines, TLBs and prefetches (R237 to R241, R256, R348). -/
def Obligations.FencesLinesAndInvalidations : Prop :=
  (∀ (n : Nat) (s : State), Quiet s n → (s.core n).wc = [] →
    let c := s.core n
    let done (i : Instr) (acquires releases clears : Bool) : Prop := Completes i s (fun t =>
      t.core n = { c with
          inLoop := false, fenced := if clears then false else c.fenced, reads := if acquires then [] else c.reads
          view := if acquires && !c.reads.isEmpty then mergeView c.view (learned c.reads 3 c.viewer) else c.view }
        ∧ (∀ k, k ≠ n → t.core k = s.core k)
        ∧ t = { s with cores := t.cores, coh := { s.coh with kept := t.coh.kept }, free := s.free + 1 }
        ∧ (releases = false ∨ (t.core n).view = [] → t.coh.kept = s.coh.kept))
    let holds (i : Instr) : Prop := Completes i s (fun t => t.core n = { c with inLoop := false, stall := some i } ∧ OnlyCore n s t)
    done (.fenceR n) true false false ∧ done (.fenceW n) false true false
      ∧ (invalPending s n = false → done (.fenceRw n) true true true) ∧ (invalPending s n = true → holds (.fenceRw n))
      ∧ (c.pendingErr = [] → c.outstanding = [] → c.fifo = [] → invalPending s n = false → done (.fenceIo n) true true true)
      ∧ (c.pendingErr = [] → c.outstanding ≠ [] → holds (.fenceIo n))
      ∧ (c.pendingErr ≠ [] → Completes (.fenceIo n) s (fun t =>
          (t.core n).abort = some { cause := .external c.abtCause, addr := c.abtAddr } ∧ (t.core n).pendingErr = [] ∧ OnlyCore n s t))
      ∧ Completes (.fenceFetch n) s (fun t => t.core n = { c with inLoop := false, discards := c.discards + 1 } ∧ OnlyCore n s t))
  ∧ (∀ (a : CoreAcc) (s s1 : State) (g : Seg), Quiet s a.core → 
      let va := a.va.toNat / 64 * 64
      let l := lineOf g.pa
      let finds (i : Instr) (need : Need) : Prop := coreSegs (begun i a.core s) a.core a.ctx need va 64 = (s1, .ok [g])
      (g.device = true → (finds (.lineZero a) .w → Completes (.lineZero a) s (fun t =>
            (t.core a.core).abort = some { cause := .memoryType, addr := va } ∧ OnlyCore a.core s1 t))
          ∧ (∀ i ∈ [Instr.lineClean a, .lineFlush a, .lineInval a], finds i .r → Completes i s (fun t =>
              (t.core a.core).abort = some { cause := .memoryType, addr := va } ∧ OnlyCore a.core s1 t)))
      ∧ (g.device = false → g.pa % 64 = 0 → g.pa < 2 ^ 48 → NotCombining s1 a.core [l] → ownHeld s1 a.core l = false →
          (finds (.lineZero a) .w → AllHome s1 → tableOk none s1.coh.dir = true → (s1.core a.core).engaged = false →
            Completes (.lineZero a) s (fun t =>
              (g.cacheable = true → (∀ x, x / 64 = l → l2Byte a.core t x = 0) ∧ t.mem = s1.mem)
                ∧ (g.cacheable = false → ∀ x, memByte t x = if x / 64 = l then 0 else memByte s1 x)))
          ∧ (∀ (k : Nat) (y : CacheLine), s1.coh.lines = [(agentKey k l, some y)] → y.passed = false → s1.coh.part = [] →
              y.st.dirty = true → y.data.length = 64 →
              let written (t : State) : Prop := ∀ x, memByte t x = if x / 64 = l then y.data.getD (x % 64) 0 else memByte s1 x
              (finds (.lineClean a) .r → Completes (.lineClean a) s (fun t => written t
                  ∧ (t.cached k l).map (fun c => (c.data, c.st.dirty)) = some (y.data, false)))
                ∧ (finds (.lineFlush a) .r → Completes (.lineFlush a) s (fun t => written t ∧ t.holders l = []))
                ∧ (finds (.lineInval a) .r → Completes (.lineInval a) s (fun t => t.holders l = []
                    ∧ (a.ctx.priv = .user → written t) ∧ (a.ctx.priv ≠ .user → t.mem = s1.mem))))))
  ∧ (∀ (n : Nat) (asid va : Option Nat) (s : State), Quiet s n → Completes (.tlbInvalidate n asid va) s (fun t =>
      (∀ k, t.core k = { s.core k with
          tlb := (s.core k).tlb.filter (fun e => !e.matched asid va), inLoop := if k = n then false else (s.core k).inLoop })
        ∧ (∀ p, p < s.cfg.variant.pans → t.pan p = { s.pan p with
            tlb := (s.pan p).tlb.filter (fun e => !e.matched asid va), invals := satAdd 32 (s.pan p).invals 1 })
        ∧ (∀ p, s.cfg.variant.pans ≤ p → t.pan p = s.pan p)
        ∧ t = { s with cores := t.cores, pans := t.pans, beds := t.beds, free := s.free + 1 }))
  ∧ (∀ (n l : Nat) (hit : Bool) (rest : List (Nat × Bool)) (s : State), coreRuns s n = true → (s.core n).inflight = (l, hit) :: rest →
      (hit = true → Completes (.prefetchFill n) s (fun t => t.core n = { s.core n with inflight := rest } ∧ OnlyCore n s t))
      ∧ (hit = false → AllHome s → s.coh.dir.length < 16 → Completes (.prefetchFill n) s (fun t =>
          (t.core n).inflight = rest ∧ (t.core n).result = (s.core n).result
            ∧ (t.core n).side = (if (s.core n).side.length < 32 then (s.core n).side ++ [l] else (s.core n).side.drop 1 ++ [l])
            ∧ (∀ k, k ≠ n → t.core k = s.core k) ∧ t.coh.lines = [] ∧ t.mem = s.mem)))

/-- Links and agents that fall silent (R291 to R293, R477). -/
def Obligations.LinksReplaySpareAndDeclareDeadUnits : Prop :=
  (∀ (die link : Nat) (s : State), Completes (.linkReplay die link) s (fun t => t = s))
  ∧ (∀ (die link : Nat) (out : Bool) (s : State), s.pkg.st ≠ .off → linkHere s die link = true →
      let x := linkName die link
      (sparedLanes s die link out < 2 → Completes (.laneSpared die ⟨link, out⟩) s (fun t =>
        t.trust.repair = s.trust.repair ++ [((s.trust.repair.getLast?.map Prod.fst).getD 0 + 1,
            leBytes 1 8 ++ leBytes 1 x.1 ++ leBytes 1 x.2 ++ leBytes 1 (if out then 1 else 0))]
          ∧ Logs s t evLaneSpared ∧ t = { s with trust := t.trust, events := t.events }))
      ∧ (2 ≤ sparedLanes s die link out → Completes (.laneSpared die ⟨link, out⟩) s (fun t => t = s)))
  ∧ (∀ (die link k : Nat) (s : State), s.pkg.st ≠ .off → linkHere s die link = true → linkFar s die link = some k →
      let dead := if die / 32 = 3 then dieOfStk (max k (die % 32)) else die
      (dead / 32 ≠ 4 → Completes (.linkOutageTimeout ⟨die, link⟩) s (fun t =>
        t.coh = { s.coh with declared := s.coh.declared ++ [(4, 0xFF, dead)] } ∧ Logs s t evLinkDead
          ∧ t = { s with coh := t.coh, events := t.events }))
      ∧ (dead / 32 = 4 → Completes (.linkOutageTimeout ⟨die, link⟩) s (fun t =>
        t.coh = s.coh ∧ t.ctlState (dead % 32) = .failed ∧ t.pkg.st = s.pkg.st ∧ ∃ e ∈ t.events.queue, e.code = evLinkDead ∧ e.die = dead)))
  ∧ (∀ (agent : Nat) (s : State), s.pkg.st ≠ .off → agentHere s agent = true → Completes (.coherenceTimeout agent) s (fun t =>
      t = { s with coh := { s.coh with declared := s.coh.declared ++ [(3, agent, 0xFF)] } }))

/-- Drains (R293 to R300) and the reserved granules (R306). -/
def Obligations.DrainResetsTheCoherentDomain : Prop :=
  let down (t : State) : Prop := t.coh.lines = [] ∧ t.coh.dir = [] ∧ t.coh.part = [] ∧ t.coh.declared = []
    ∧ (∀ p b, p < t.cfg.variant.pans → b < 16 → (t.bed p b).cur = none ∧ (t.bed p b).blocks = [] ∧ (t.bed p b).slots = []
        ∧ (t.bed p b).mq = [] ∧ (t.bed p b).dq = [] ∧ (t.bed p b).scratch = [] ∧ ∀ r, r < 48 → (t.rake p b r).home = none)
    ∧ (∀ n, n < t.cfg.variant.cores → (t.core n).fifo = [] ∧ (t.core n).wc = [] ∧ (t.core n).rsv = none ∧ (t.core n).outstanding = [])
  (∀ (cause agent die : Nat) (s : State), drainCause s cause agent die = true → canDrain s = true → fifthDrain s = false →
    Completes (.drain cause agent die) s (fun t => t.pkg.st = .draining ∧ t.coh.step = 2 ∧ turns t = [.drain] ∧ t.now = s.now
      ∧ t.coh.cause = cause ∧ t.coh.agent = (if cause = 2 ∨ cause = 3 ∨ cause = 7 then agent else 0xFF)
      ∧ t.coh.die = (if cause = 4 ∨ cause = 6 then die else if cause = 3 ∧ 192 ≤ agent ∧ agent < 208 then 32 + (agent - 192) else 0xFF)
      ∧ t.coh.causeAt = s.now ∧ t.coh.declared = s.coh.declared ++ [(cause, agent, die)]
      ∧ (s.pkg.st ≠ .draining → t.coh.drains = satAdd 32 s.coh.drains 1 ∧ t.pkg.back = s.pkg.st)
      ∧ (s.pkg.st = .draining → t.coh.drains = s.coh.drains ∧ t.pkg.back = s.pkg.back)
      ∧ ∃ e ∈ t.events.queue, e.code = evDrain ∧ e.time = s.now ∧ e.detail = cause))
  ∧ (∀ s : State, s.pkg.st = .draining →
      let t := runTurn s .drain
      t.pkg.st = (if s.pkg.back = .liquor ∨ (s.pkg.stopInDrain = true ∧ s.pkg.back = .serving) then .ready else s.pkg.back)
        ∧ down t ∧ t.coh.step = 0 ∧ s.now ≤ t.now ∧ t.now ≤ max s.now (s.coh.causeAt + 250000000)
        ∧ t.tally.replay = true ∧ t.tally.cause = 1 ∧ t.tally.epoch = wrapAdd 32 s.tally.epoch 1
        ∧ ((∀ x ∈ s.coh.declared, x.1 ≠ 3 ∧ x.1 ≠ 4 ∧ x.1 ≠ 6) → s.agentIds = [] → s.pkg.rerun = false → s.pkg.stopInDrain = false → t.mem = s.mem))
  ∧ (∀ (cause agent die : Nat) (s : State) (i : Instr), i = .drain cause agent die ∨ i = .drainLimitFault cause agent die →
      drainCause s cause agent die = true → canDrain s = true → fifthDrain s = true →
      Completes i s (fun t => t.pkg.st = .fault ∧ down t ∧ t.tide.running = none ∧ t.tide.start = none
        ∧ ∃ e ∈ t.events.queue, e.code = evDrain))
  ∧ (∀ (cause agent die : Nat) (s : State), drainCause s cause agent die = true → earlyCause s = true →
      let d := if cause = 4 ∨ cause = 6 then die else if cause = 2 ∨ cause = 3 ∨ cause = 7 then dieOfAgent agent else die
      Completes (.drain cause agent die) s (fun t => t.pkg.st = s.pkg.st ∧ t.coh.drains = s.coh.drains
        ∧ (∃ e ∈ t.events.queue, e.code = evDrain ∧ e.action = 6 ∧ e.die = d)
        ∧ (d / 32 = 1 → dieHere s d = true → t.isLost d = true ∧ (t.coreDie (d % 32)).state = .failed)))
  ∧ (∀ s : State, s.pkg.st ≠ .off → s.pkg.st ≠ .draining →
      ((∀ p, p < s.cfg.variant.pans → (s.pan p).service = true) → Completes .reserveRestore s (fun t => t = s.drawn))
      ∧ (∀ g p q o, (List.range s.cfg.variant.pans).filter (fun x => !(s.pan x).service) = [p] → granulesAt s p = [g] →
          granuleTarget s [panOf (granulePa s (otherCopy g))] = some (q, o) → Completes .reserveRestore s (fun t =>
            granulePa t g = brineBase q + o ∧ g ∉ t.salter.single ∧ (t.pan q).relocated = (s.pan q).relocated ++ [o]
              ∧ t.beds = s.beds ∧ t.rakes = s.rakes ∧ ∀ k, k ≠ g → granulePa t k = granulePa s k)))

/-- Pans that fail (R452, R480, R494). -/
def Obligations.PansFailAndAreReplaced : Prop :=
  (∀ (p : Nat) (s : State), canFail s p = true → Completes (.panFailure p) s (fun t =>
    (t.pan p).state = .failed ∧ (∃ e ∈ t.events.queue, e.code = evPanState ∧ e.die = p)
      ∧ (s.onlinePan p = true → (s.runningPlan.map (fun pl => pl.binding.contains p)).getD false = true →
          t.tally.replay = true ∧ t.tally.cause = 2 ∧ t.tally.epoch = wrapAdd 32 s.tally.epoch 1)
      ∧ (s.onlinePan p = false → s.salter.repl = none → t = { s with pans := t.pans, events := t.events }
          ∧ t.pan p = { s.pan p with state := .failed })))
  ∧ (∀ (p t0 : Nat) (s : State), (s.pan p).stopFrom = some t0 → canFail s p = true → Completes (.panStopTimeout p) s (fun t =>
      (t.pan p).state = .failed ∧ t.now = max s.now (t0 + 10000000000)))
  ∧ (∀ (p : Nat) (s : State), (s.pan p).stopFrom = none → Completes (.panStopTimeout p) s (fun t => t = s))

/-- The memory's controllers (R310 to R314, R322, R323, R325, R477). -/
def Obligations.ScrubFindsErrorsAndBandsFollowTheSensors : Prop :=
  (∀ (p off : Nat) (s : State), s.pkg.st ≠ .off → s.hasPan p = true → (s.pan p).service = true → off < brineSize →
    let o := off / 64 * 64; let row := brineRow o
    let times := (s.now :: tget [] (s.pan p).rowCe row).filter (fun t => s.now < t + dayNs)
    Completes (.scrubLine (.brine p off) .clean) s (fun t => t = s)
    ∧ Completes (.scrubLine (.brine p off) .corrected) s (fun t =>
        (t.pan p).ce = satAdd 32 (s.pan p).ce 1 ∧ (t.pan p).lastOff = o ∧ (t.pan p).lastUe = false ∧ (t.pan p).ue = (s.pan p).ue
          ∧ (∃ e : Event, t.events.held = holdEvent s.events.held e ∧ e.code = evBrineCe ∧ e.die = p ∧ e.addr = o)
          ∧ (times.length < 4 → (t.pan p).rows = (s.pan p).rows ∧ t.trust = s.trust)
          ∧ (4 ≤ times.length → sparedInBank s p (row / 24576) < 32 → (t.pan p).rows = satAdd 16 (s.pan p).rows 1
              ∧ (∃ n, t.trust.repair = s.trust.repair ++ [(n, rowEntry p row)]) ∧ ∃ e ∈ t.events.queue, e.code = evRowSpared)
          ∧ t = { s with pans := t.pans, events := t.events, trust := t.trust } ∧ ∀ q, q ≠ p → t.pan q = s.pan q)
    ∧ Completes (.scrubLine (.brine p off) .uncorrectable) s (fun t =>
        (t.pan p).ue = satAdd 32 (s.pan p).ue 1 ∧ (t.pan p).lastOff = o ∧ (t.pan p).lastUe = true ∧ (t.pan p).ce = (s.pan p).ce
          ∧ (∀ l, tget false t.coh.poison l = if l = (brineBase p + o) / 64 then true else tget false s.coh.poison l)
          ∧ (∃ e ∈ t.events.queue, e.code = evBrineUe ∧ e.die = p ∧ e.addr = o)
          ∧ (sparedInBank s p (row / 24576) < 32 → (t.pan p).rows = satAdd 16 (s.pan p).rows 1)
          ∧ (32 ≤ sparedInBank s p (row / 24576) → t.trust = s.trust ∧ ∃ e ∈ t.events.queue, e.code = evRowsOut)
          ∧ t = { s with pans := t.pans, events := t.events, trust := t.trust, coh := { s.coh with poison := t.coh.poison } }
          ∧ ∀ q, q ≠ p → t.pan q = s.pan q))
  ∧ (∀ (pa d l : Nat) (s : State), s.pkg.st ≠ .off → place s pa = .lpd d l → let o := l / 64 * 64
    Completes (.scrubLine (.lpd pa) .clean) s (fun t => t = s)
    ∧ Completes (.scrubLine (.lpd pa) .corrected) s (fun t =>
        t.coreDie d = { s.coreDie d with lpdCe := satAdd 32 (s.coreDie d).lpdCe 1, lpdOff := o, lpdLastUe := false }
          ∧ (∃ e : Event, t.events.held = holdEvent s.events.held e ∧ e.code = evLpdCe ∧ e.addr = o)
          ∧ t = { s with coreDies := t.coreDies, events := t.events } ∧ ∀ k, k ≠ d → t.coreDie k = s.coreDie k)
    ∧ Completes (.scrubLine (.lpd pa) .uncorrectable) s (fun t =>
        t.coreDie d = { s.coreDie d with lpdUe := satAdd 32 (s.coreDie d).lpdUe 1, lpdOff := o, lpdLastUe := true }
          ∧ (∀ k, tget false t.coh.poison k = if k = (d * lpdSize + o) / 64 then true else tget false s.coh.poison k)
          ∧ (∃ e ∈ t.events.queue, e.code = evLpdUe ∧ e.addr = o)
          ∧ t = { s with coreDies := t.coreDies, events := t.events, coh := { s.coh with poison := t.coh.poison } }
          ∧ ∀ k, k ≠ d → t.coreDie k = s.coreDie k))
  ∧ (∀ (p : Nat) (temps : List Nat) (s : State), s.pkg.st ≠ .off → s.hasPan p = true → (s.pan p).service = true → temps.length = 12 →
    let hot := temps.foldl max 0
    (bandOf hot ≤ (s.pan p).band → Completes (.brineSensorRead p temps) s (fun t =>
      t.pan p = { s.pan p with dramTemp := hot % 256, bandBelow := (t.pan p).bandBelow }
        ∧ (∀ b, tget none (t.pan p).bandBelow b =
            if b < (s.pan p).band ∧ hot + 2 ≤ bandTop b then some ((tget none (s.pan p).bandBelow b).getD s.now) else none)
        ∧ t = { s with pans := t.pans } ∧ ∀ q, q ≠ p → t.pan q = s.pan q))
    ∧ ((s.pan p).band < bandOf hot → Completes (.brineSensorRead p temps) s (fun t =>
      (t.pan p).band = bandOf hot ∧ (t.pan p).dramTemp = hot % 256 ∧ (t.pan p).bandBelow = []
        ∧ (bandOf hot = 3 → (s.pan p).stopFrom = none → (t.pan p).stopFrom = some s.now)
        ∧ (bandOf hot = 3 → boundPan s p = true → Logs s t evFloorBreach)
        ∧ t = { s with pans := t.pans, events := t.events } ∧ ∀ q, q ≠ p → t.pan q = s.pan q)))
  ∧ (∀ (p t0 : Nat) (s : State), 0 < (s.pan p).band → (s.pan p).band ≤ 3 → tget none (s.pan p).bandBelow ((s.pan p).band - 1) = some t0 →
      Completes (.brineBandFall p) s (fun t =>
        let passed (b : Nat) : Prop := ∃ u, tget none (s.pan p).bandBelow b = some u ∧ u + 10000000 ≤ t.now
        t.now = max s.now (t0 + 10000000) ∧ (t.pan p).band < (s.pan p).band
          ∧ (∀ b, (t.pan p).band ≤ b → b < (s.pan p).band → passed b) ∧ ((t.pan p).band = 0 ∨ ¬ passed ((t.pan p).band - 1))
          ∧ ((tget {} s.power.pans p).thermal ≠ .stop → (t.pan p).stopFrom = none)
          ∧ t = { s with now := t.now, pans := t.pans } ∧ ∀ q, q ≠ p → t.pan q = s.pan q))
  ∧ (∀ s : State, 7 ≤ s.pkg.bootStep → s.pkg.st ≠ .off → s.stk.parts.length ≤ 16 → Completes .tokenRefill s (fun t =>
      (∀ i, i < s.stk.parts.length →
        let r := tget {} s.stk.regs i
        (tget {} t.stk.regs i).rateNow = r.rate ∧ (tget {} t.stk.regs i).borrowNow = r.borrow ∧ (tget {} t.stk.regs i).burstNow = r.burst
        ∧ ∀ k, k < 6 → s.stk.dies.getLsbD k = true →
          (r.rate = 0 → tget 0 t.stk.tokens (tokenKey k i) = tget 0 s.stk.tokens (tokenKey k i) ∧ tget 0 t.stk.waiting (tokenKey k i) = 0)
          ∧ (r.rate ≠ 0 → let n := stkCount s
              let have_ := min (r.burst * 1024 / n) (tget 0 s.stk.tokens (tokenKey k i) + r.rate * 100 / n)
              let paid := min (tget 0 s.stk.waiting (tokenKey k i)) (have_ / 64)
              tget 0 t.stk.tokens (tokenKey k i) = have_ - 64 * paid
                ∧ tget 0 t.stk.waiting (tokenKey k i) = tget 0 s.stk.waiting (tokenKey k i) - paid))
      ∧ t = { s with stk := { s.stk with regs := t.stk.regs, tokens := t.stk.tokens, waiting := t.stk.waiting } }))

/-- Migrations (R201 to R203). -/
def Obligations.MigrationsMoveAnAgent : Prop :=
  let tells (o : Origin) (t : State) (status : Nat) : Prop := ∀ q b r sd, o = .rake q b r sd →
    (t.rake q b r).sget sd = BitVec.ofNat 64 status
  (∀ (p : Nat) (s : State), s.mover p = [] → Completes (.migrationTest p) s (fun t => t = s)
    ∧ Completes (.migrationBusy p) s (fun t => t = s) ∧ Completes (.migrationComplete p) s (fun t => t = s))
  ∧ (∀ (p : Nat) (m : Migration) (rest : List Migration) (s : State), s.mover p = m :: rest →
    let d := s.agentDir m.agent
    let need_ := (moveWant s d.header).foldl (fun n x => n + x.1) 0
    (m.started = false → s.pkg.st ≠ .draining → s.pkg.st ≠ .fault → s.pkg.st ≠ .off → m.tests < 8 →
      (kvQueued s m.agent = true → Completes (.migrationTest p) s (fun t =>
        t.mover p = { m with tests := m.tests + 1 } :: rest ∧ t = { s with salter := t.salter }))
      ∧ (kvQueued s m.agent = false → m.spill = true → Completes (.migrationTest p) s (fun t =>
          t.mover p = { m with started := true } :: rest
            ∧ (AllHome s → (d.header + 4 < dirWordPa s m.agent ∨ dirWordPa s m.agent + 8 ≤ d.header + 4) →
                t.agentDir m.agent = { d with st := aMovingOut } ∧ memByte t (d.header + 4) = BitVec.ofNat 8 aMovingOut)))
      ∧ (kvQueued s m.agent = false → m.spill = false → Completes (.migrationTest p) s (fun t =>
          let refused : Prop := t.mover p = rest ∧ tells m.origin t stNoFit ∧ t.mem = s.mem ∧ t.pans = s.pans ∧ t.coh = s.coh
          (freeBrine s p < need_ → refused)
          ∧ (need_ ≤ freeBrine s p → refused
              ∨ ((∃ m', t.mover p = m' :: rest ∧ m'.started = true ∧ m'.agent = m.agent ∧ m'.origin = m.origin ∧ m'.prev = d.owner)
                ∧ (AllHome s → (t.agentDir m.agent).st = aMovingIn ∧ (t.agentDir m.agent).owner = p % 32
                    ∧ (t.agentDir m.agent).loc = d.loc))))))
    ∧ (m.started = false → 8 ≤ m.tests → s.pkg.st ≠ .draining → Completes (.migrationBusy p) s (fun t =>
        t.mover p = rest ∧ tells m.origin t stBusyRetry ∧ t.mem = s.mem ∧ t.pans = s.pans ∧ t.coh = s.coh))
    ∧ (m.started = true → s.pkg.st ≠ .draining → Completes (.migrationComplete p) s (fun t =>
        t.mover p = rest ∧ tells m.origin t stOk
          ∧ (AllHome s → m.spill = true → t.agentDir m.agent = { d with st := aCold, loc := m.pa / kib64 % 2 ^ 25 })
          ∧ (AllHome s → m.spill = false →
              t.agentDir m.agent = { valid := true, st := aResident, owner := p % 32, loc := m.header / kib64 % 2 ^ 25 }))))

/-- Ports and raw frames (R352, R353, R355, R361, R477). -/
def Obligations.PortsTrainSparePauseAndFilterFrames : Prop :=
  let only (j : Nat) (s t : State) (y : Port) : Prop := t.port j = y ∧ (∀ k, k ≠ j → t.port k = s.port k)
  (∀ (j : Nat) (s : State), portHere s j = true →
    Completes (.portLinkDown j) s (fun t => only j s t { s.port j with link := false } ∧ t = { s with ports := t.ports })
    ∧ ((s.port j).dead = false → (s.port j).link = false → 9 ≤ s.pkg.bootStep → Completes (.portLinkUp j) s (fun t =>
        only j s t { s.port j with link := !(s.cfg.macsecPorts.getLsbD j && !(s.cfg.variant.full && (s.port j).macsec)),
                                   retrains := satAdd 16 (s.port j).retrains 1 } ∧ t = { s with ports := t.ports }))
    ∧ ((s.port j).dead = false → (s.port j).spare = false → Completes (.serdesSpared j) s (fun t =>
        only j s t { s.port j with link := false, spare := true }
          ∧ t.trust.repair = s.trust.repair ++ [((s.trust.repair.getLast?.map Prod.fst).getD 0 + 1, leBytes 1 7 ++ leBytes 1 j)]
          ∧ Logs s t evSerdesSpared ∧ t = { s with ports := t.ports, trust := t.trust, events := t.events }))
    ∧ ((s.port j).dead = false → (s.port j).spare = true → Completes (.serdesSpared j) s (fun t =>
        only j s t { s.port j with link := false, dead := true } ∧ Logs s t evPortDown
          ∧ t = { s with ports := t.ports, events := t.events }))
    ∧ ((s.port j).dead = false → s.cfg.macsecPorts.getLsbD j = true → s.cfg.variant.full = true → ∀ inst,
        Completes (.mkaFrameReceived j inst) s (fun t =>
          only j s t (if inst then { received s j with macsec := true, link := true } else received s j)
            ∧ t = { s with ports := t.ports })))
  ∧ (∀ (j prio : Nat) (pause : Bool) (s : State), (s.port j).link = true → Completes (.pfcPauseReceived j prio pause) s (fun t =>
      only j s t { received s j with paused := (t.port j).paused }
        ∧ (∀ b, b < 7 → (t.port j).paused.getLsbD b
            = if b = prio ∧ s.cfg.pfc.getLsbD prio = true then pause else (s.port j).paused.getLsbD b)
        ∧ t = { s with ports := t.ports }))
  ∧ (∀ (f : RawFrame) (s : State), (s.port f.port).link = true →
    (f.fcsOk = false → Completes (.rawFrameReceived f) s (fun t =>
      only f.port s t { received s f.port with dropFcs := satAdd 16 (s.port f.port).dropFcs 1 } ∧ t = { s with ports := t.ports }))
    ∧ (f.fcsOk = true → f.pcp = 7 → Completes (.rawFrameReceived f) s (fun t =>
      only f.port s t { received s f.port with dropCtl := satAdd 16 (s.port f.port).dropCtl 1 } ∧ t = { s with ports := t.ports }))
    ∧ (f.fcsOk = true → f.pcp ≠ 7 → rawFor s f = none → Completes (.rawFrameReceived f) s (fun t =>
      only f.port s t { received s f.port with dropQp := satAdd 16 (s.port f.port).dropQp 1 } ∧ t = { s with ports := t.ports }))
    ∧ (∀ q x wr lva lkey len, f.fcsOk = true → f.pcp ≠ 7 → s.pkg.st ≠ .fault → rawFor s f = some (q, x) → s.qp q = some x →
        x.rqCi ≠ x.rqPi → recvEntry s x = (wr, lva, lkey, len) → AllHome s → CqRoom x → Completes (.rawFrameReceived f) s (fun t =>
          only f.port s t (received s f.port) ∧ t.qp q = some { x with rqCi := (x.rqCi + 1) % 65536, cqPi := x.cqPi + 1, drained := false }
          ∧ (len < f.bytes.length → Laid (memByte s) (memByte t) [cqSlot s x q wr 0 0 0x20 cLocalLength])
          ∧ (∀ r pa, f.bytes.length ≤ len → regionFor s lkey rLocalWrite lva f.bytes.length = some r →
              InPage s r lva f.bytes.length pa →
              Laid (memByte s) (memByte t) [(pa, f.bytes), cqSlot s x q wr f.bytes.length 0 0x20 cOk])
          ∧ t = { s with ports := t.ports, qps := t.qps, mem := t.mem, coh := t.coh, stk := t.stk, cores := t.cores, free := t.free })))

/-- Requests that arrive (R362, R369 to R371, R374). -/
def Obligations.RequestsFromTheNetworkArePlacedAndAnswered : Prop :=
  let forms (m : RoceMsg) (b : Bool) (v w : Dword) : List Instr := [.sendReceived m b, .rdmaWriteReceived m, .rdmaWriteImmReceived m,
    .rdmaReadReceived m, .fetchAddReceived m v, .compareSwapReceived m v w]
  let frame (m : RoceMsg) (q : Nat) (s t : State) : Prop :=
    t = { s with ports := t.ports, qps := t.qps, mem := t.mem, coh := t.coh, stk := t.stk, cores := t.cores, out := t.out, free := t.free }
      ∧ (∀ k, k ≠ m.port → t.port k = s.port k) ∧ ∀ k, k ≠ q → t.qp k = s.qp k
  let answered (m : RoceMsg) (s t : State) (n : Nat) (o : Output) : Prop :=
    t.out = o :: s.out ∧ t.port m.port = { received s m.port with tx := satAdd 32 (s.port m.port).tx n }
  (∀ (m : RoceMsg) (b : Bool) (v w : Dword) (s : State), ∀ i ∈ forms m b v w, (s.port m.port).link = true →
    (m.icrcOk = false → Completes i s (fun t => t.port m.port = { received s m.port with dropIcrc := satAdd 16 (s.port m.port).dropIcrc 1 }
      ∧ t = { s with ports := t.ports }))
    ∧ (m.icrcOk = true → rcFor s m = none → Completes i s (fun t =>
        t.port m.port = { received s m.port with dropQp := satAdd 16 (s.port m.port).dropQp 1 } ∧ t = { s with ports := t.ports })))
  ∧ (∀ (m : RoceMsg) (b : Bool) (v w : Dword) (q : Nat) (x : Qp) (s : State), Arrives m s q x → ∀ i ∈ forms m b v w,
    (netHeld s = true → Completes i s (fun t => t.out = .roceNak m.port q m.psn (.rnr 26) :: s.out
      ∧ (t.port m.port).nakRnr = satAdd 32 (s.port m.port).nakRnr 1 ∧ t = { s with ports := t.ports, out := t.out }))
    ∧ (netHeld s = false → 0 < psnAhead m.psn x.rqPsn → psnAhead m.psn x.rqPsn < 2 ^ 23 → Completes i s (fun t =>
        answered m s t 1 (.roceNak m.port q x.rqPsn .sequence) ∧ t = { s with ports := t.ports, out := t.out })))
  ∧ (∀ (m : RoceMsg) (q : Nat) (x : Qp) (s : State), Arrives m s q x → netHeld s = false →
    let n := m.data.length
    let next := psnAdd x.rqPsn (x.packets n)
    let lastPsn := psnAdd m.psn (x.packets n - 1)
    (2 ^ 23 ≤ psnAhead m.psn x.rqPsn → ∀ b, ∀ i ∈ [Instr.sendReceived m b, .rdmaWriteReceived m, .rdmaWriteImmReceived m],
      Completes i s (fun t => answered m s t 1 (.roceAck m.port q (psnAdd x.rqPsn (2 ^ 24 - 1)))
        ∧ t = { s with ports := t.ports, out := t.out, free := t.free }))
    ∧ (psnAhead m.psn x.rqPsn = 0 → m.opOk = true → AllHome s →
      (∀ r pa, regionFor s m.rkey rRemoteWrite m.va n = some r → regionProtect s r m.va n false = true → InPage s r m.va n pa →
        Completes (.rdmaWriteReceived m) s (fun t => Laid (memByte s) (memByte t) [(pa, m.data)]
          ∧ t.qp q = some { x with rqPsn := next } ∧ answered m s t 1 (.roceAck m.port q lastPsn) ∧ frame m q s t)
        ∧ (∀ wr lva lkey len, x.rqCi ≠ x.rqPi → recvEntry s x = (wr, lva, lkey, len) → CqRoom x →
          Completes (.rdmaWriteImmReceived m) s (fun t =>
            Laid (memByte s) (memByte t) [(pa, m.data), cqSlot s x q wr n m.imm.toNat 9 cOk]
            ∧ t.qp q = some { x with rqPsn := next, rqCi := (x.rqCi + 1) % 65536, cqPi := x.cqPi + 1, drained := false }
            ∧ answered m s t 1 (.roceAck m.port q lastPsn) ∧ frame m q s t)))
      ∧ (∀ b wr lva lkey len, x.rqCi ≠ x.rqPi → recvEntry s x = (wr, lva, lkey, len) → n ≤ len → CqRoom x →
        ∀ r pa, regionFor s lkey rLocalWrite lva n = some r → regionProtect s r lva n false = true → InPage s r lva n pa →
        Completes (.sendReceived m b) s (fun t =>
          Laid (memByte s) (memByte t) [(pa, m.data), cqSlot s x q wr n (if b then m.imm.toNat else 0) (if b then 1 else 0) cOk]
          ∧ t.qp q = some { x with rqPsn := next, rqCi := (x.rqCi + 1) % 65536, cqPi := x.cqPi + 1, drained := false }
          ∧ answered m s t 1 (.roceAck m.port q lastPsn) ∧ frame m q s t))
      ∧ (∀ r pa, regionFor s m.rkey rRemoteRead m.va m.len = some r → regionProtect s r m.va m.len true = true →
          InPage s r m.va m.len pa → regionBad s r m.va m.len = false → NoNetRaces s → Completes (.rdmaReadReceived m) s (fun t =>
            answered m s t (x.packets m.len) (.roceRead m.port q m.psn ((List.range m.len).map (fun k => memByte s (pa + k))))
            ∧ t.qp q = some { x with rqPsn := psnAdd x.rqPsn (x.packets m.len) } ∧ t.mem = s.mem ∧ frame m q s t))
      ∧ (∀ r pa (v w : Dword), regionFor s m.rkey rRemoteAtomic m.va 8 = some r → regionProtect s r m.va 8 false = true →
          InPage s r m.va 8 pa → m.va % 8 = 0 → regionCacheable r m.va = true → regionBad s r m.va 8 = false →
          let old := wordAt (memByte s) pa 8
          ∀ e ∈ [(Instr.fetchAddReceived m v, (old + v.toNat) % 2 ^ 64),
                 (Instr.compareSwapReceived m v w, if old = v.toNat then w.toNat else old)],
            Completes e.1 s (fun t => Laid (memByte s) (memByte t) [(pa, leBytes 8 e.2)]
              ∧ answered m s t 1 (.roceAtomic m.port q m.psn (BitVec.ofNat 64 old))
              ∧ t.qp q = some { x with rqPsn := psnAdd x.rqPsn 1, saved := keepLast x.maxRd (x.saved ++ [(m.psn, BitVec.ofNat 64 old)]) }
              ∧ frame m q s t))
      ∧ (regionFor s m.rkey rRemoteWrite m.va n = none → Completes (.rdmaWriteReceived m) s (fun t =>
          t.out = .roceNak m.port q m.psn .remoteAccess :: s.out ∧ (t.qp q).map Qp.state = some .error
            ∧ (t.port m.port).nakAccess = satAdd 32 (s.port m.port).nakAccess 1))))
  ∧ (∀ (m : RoceMsg) (v w val : Dword) (q k : Nat) (x : Qp) (s : State), Arrives m s q x → netHeld s = false →
      2 ^ 23 ≤ psnAhead m.psn x.rqPsn → x.saved.find? (fun e => e.1 = m.psn) = some (k, val) →
      ∀ i ∈ [Instr.fetchAddReceived m v, .compareSwapReceived m v w], Completes i s (fun t =>
        answered m s t 1 (.roceAtomic m.port q m.psn val) ∧ t = { s with ports := t.ports, out := t.out, free := t.free }))

/-- The sender's side of a queue pair (R366, R377). -/
def Obligations.TheSenderRetiresRetriesPacesAndFails : Prop :=
  let sends (q : Nat) (x : Qp) (s : State) : Prop := (s.port x.port).link = true ∧ s.qp q = some x ∧ x.raw = false ∧ x.state = .rts ∧ x.sqCi = x.sqPi
  let frame (j q : Nat) (s t : State) : Prop :=
    t = { s with ports := t.ports, qps := t.qps, mem := t.mem, coh := t.coh, stk := t.stk, cores := t.cores, out := t.out, free := t.free }
      ∧ (∀ k, k ≠ j → t.port k = s.port k) ∧ ∀ k, k ≠ q → t.qp k = s.qp k
  let again (q : Nat) (x : Qp) (e : Sent) (s t : State) : Prop :=
    (isRead e.opcode = true → t.out = .roceRequest x.port q e.opcode e.psn e.len [] :: s.out)
      ∧ (∀ r pa, isRead e.opcode = false → e.rel = none → AllHome s → NoNetRaces s → regionFor s e.lkey rLocalRead e.lva e.len = some r → InPage s r e.lva e.len pa →
          t.out = .roceRequest x.port q e.opcode e.psn e.len ((List.range e.len).map (fun k => memByte s (pa + k))) :: s.out)
      ∧ t.mem = s.mem ∧ frame x.port q s t
  let failed (q : Nat) (x : Qp) (e : Sent) (s t : State) (status : Nat) : Prop :=
    Laid (memByte s) (memByte t) [cqSlot s x q e.wrId.toNat 0 0 e.opcode status]
      ∧ t.qp q = some { x with state := .error, sent := [], retries := 0, rnrRetries := 0, rnrWait := none, cqPi := x.cqPi + 1, drained := false }
      ∧ frame x.port q s t
  (∀ (j q psn : Nat) (kind : NakKind) (data : List Byte) (s : State), (s.port j).link = true → s.qp q = none →
    ∀ i ∈ [Instr.roceAckReceived j q psn, .roceNakReceived j q psn kind, .rdmaReadResponseReceived j q psn data, .cnpReceived j q],
      Completes i s (fun t => t.port j = { received s j with dropQp := satAdd 16 (s.port j).dropQp 1 } ∧ t = { s with ports := t.ports }))
  ∧ (∀ (q psn : Nat) (x : Qp) (s : State), sends q x s →
    (x.sent ≠ [] → (∀ e ∈ x.sent, isRead e.opcode = false ∧ e.rel = none ∧ e.signaled = false ∧ psnAhead psn e.last < 2 ^ 23) →
      Completes (.roceAckReceived x.port q psn) s (fun t => t.qp q = some { x with sent := [], retries := 0, rnrRetries := 0 }
        ∧ t.port x.port = received s x.port ∧ t.mem = s.mem ∧ frame x.port q s t))
    ∧ (∀ e, x.sent = [e] → isRead e.opcode = false → e.rel = none → e.signaled = true → psnAhead psn e.last < 2 ^ 23 → AllHome s → CqRoom x →
      Completes (.roceAckReceived x.port q psn) s (fun t =>
        t.qp q = some { x with sent := [], retries := 0, rnrRetries := 0, cqPi := x.cqPi + 1, drained := false }
        ∧ Laid (memByte s) (memByte t) [cqSlot s x q e.wrId.toNat e.len 0 e.opcode cOk] ∧ frame x.port q s t))
    ∧ (∀ e, x.sent = [e] → 2 ^ 23 ≤ psnAhead psn e.last → Completes (.roceAckReceived x.port q psn) s (fun t =>
        t.qp q = some x ∧ t = { s with ports := t.ports, free := t.free } ∧ t.port x.port = received s x.port)))
  ∧ (∀ (q psn : Nat) (x : Qp) (e : Sent) (s : State), sends q x s → x.sent = [e] →
    (2 ^ 23 ≤ psnAhead (psn + 2 ^ 24 - 1) e.last →
      (netStopped s = false → Completes (.roceNakReceived x.port q psn .sequence) s (fun t => again q x e s t ∧ t.qp q = some x))
      ∧ (∀ tm, x.rnrRetries < x.rnrRetry → Completes (.roceNakReceived x.port q psn (.rnr tm)) s (fun t =>
          t.qp q = some { x with rnrRetries := x.rnrRetries + 1, rnrWait := some tm } ∧ t.mem = s.mem ∧ t.out = s.out ∧ frame x.port q s t))
      ∧ (e.rel = none → x.rels = [] → AllHome s → CqRoom x →
          ∀ k ∈ [(NakKind.remoteAccess, cRemoteAccess), (.invalidRequest, cRemoteInvalid), (.operational, cDataError)],
          Completes (.roceNakReceived x.port q psn k.1) s (fun t => failed q x e s t k.2))
      ∧ (∀ tm, x.rnrRetry ≤ x.rnrRetries → e.rel = none → x.rels = [] → AllHome s → CqRoom x →
          Completes (.roceNakReceived x.port q psn (.rnr tm)) s (fun t => failed q x e s t cRnrExceeded)))
    ∧ (netStopped s = false →
      (x.rnrWait = none → x.retries < x.retryCnt → Completes (.localAckTimeout q) s (fun t =>
        again q x e s t ∧ t.qp q = some { x with retries := x.retries + 1 }))
      ∧ (x.rnrWait = none → x.retryCnt ≤ x.retries → e.rel = none → x.rels = [] → AllHome s → CqRoom x →
        Completes (.localAckTimeout q) s (fun t => failed q x e s t cRetryExceeded))
      ∧ (x.rnrWait ≠ none → Completes (.rnrTimerExpiry q) s (fun t => again q x e s t ∧ t.qp q = some { x with rnrWait := none })))
    ∧ (netStopped s = true → Completes (.localAckTimeout q) s (fun t => t = s) ∧ Completes (.rnrTimerExpiry q) s (fun t => t = s))
    ∧ (∀ data r pa, isRead e.opcode = true → e.psn = psn → e.rel = none → data.length = e.len →
        regionFor s e.lkey rLocalWrite e.lva e.len = some r → InPage s r e.lva e.len pa → AllHome s → CqRoom x →
        Completes (.rdmaReadResponseReceived x.port q psn data) s (fun t =>
          Laid (memByte s) (memByte t) ((pa, data) :: if e.signaled then [cqSlot s x q e.wrId.toNat e.len 0 e.opcode cOk] else [])
          ∧ (t.qp q).map (fun y => (y.sent, y.retries, y.state)) = some ([], 0, .rts) ∧ frame x.port q s t)))
  ∧ (∀ (q : Nat) (x : Qp) (s : State), s.qp q = some x → x.raw = false →
    ((s.port x.port).link = true → (x.state = .rts ∨ x.state = .rtr) → Completes (.cnpReceived x.port q) s (fun t =>
      t.port x.port = { received s x.port with cnpRx := satAdd 32 (s.port x.port).cnpRx 1 }
      ∧ t.qp q = (if ∃ t0, x.lastCut = some t0 ∧ s.now < t0 + s.cfg.ccInterval then some x else
          some { x with rt := x.rc, rc := max (x.rc * s.cfg.ccNum / s.cfg.ccDen) 1000, rises := 0, lastCut := some s.now })
      ∧ t = { s with ports := t.ports, qps := t.qps } ∧ ∀ k, k ≠ q → t.qp k = s.qp k))
    ∧ Completes (.rateIncreaseTimer q) s (fun t =>
        let rt := if x.rises < s.cfg.ccFast then x.rt else min (x.rt + s.cfg.ccStep) 1600000
        t.qp q = some { x with rt := rt, rc := (x.rc + rt) / 2, rises := x.rises + 1 }
        ∧ t = { s with qps := t.qps } ∧ ∀ k, k ≠ q → t.qp k = s.qp k))

/-- Queue-pair commands and doorbells (R362 to R365, R373). -/
def Obligations.QueuePairCommandsAndDoorbells : Prop :=
  let told (die q : Nat) (s t : State) (st : Nat) : Prop := (t.ioDie die).status = BitVec.ofNat 16 st
    ∧ t = { s with ioDies := t.ioDies, qps := t.qps, mem := t.mem, coh := t.coh, stk := t.stk, cores := t.cores, tally := t.tally, out := t.out, ports := t.ports, free := t.free }
    ∧ t.ioDie die = { s.ioDie die with status := (t.ioDie die).status } ∧ (∀ k, k ≠ die → t.ioDie k = s.ioDie k) ∧ ∀ k, k ≠ q → t.qp k = s.qp k
  let refused (die q : Nat) (s t : State) (st : Nat) : Prop := told die q s t st ∧ t.qps = s.qps ∧ t.mem = s.mem ∧ t.out = s.out
  (∀ (die q : Nat) (s : State), q < 65536 → ioUp s die = true →
    let b := ctxBytes s die
    (qpCtxStatus s die q b ≠ stOk → ∀ i ∈ [Instr.qpCreate die q, .qpModify die q], Completes i s (fun t =>
      refused die q s t (qpCtxStatus s die q b)))
    ∧ (qpCtxStatus s die q b = stOk →
      (s.qp q = none → Completes (.qpCreate die q) s (fun t => told die q s t stOk ∧ t.mem = s.mem ∧ ∃ x, t.qp q = some x ∧ x.state = .reset
        ∧ x = ({} : Qp).withCtx b ∧ x.port = leField b 4 1 ∧ x.sqBase = leField b 0x38 8 ∧ x.rqBase = leField b 0x40 8 ∧ x.cqBase = leField b 0x48 8))
      ∧ (s.qp q ≠ none → Completes (.qpCreate die q) s (fun t => refused die q s t stWrongState))
      ∧ (∀ x, s.qp q = some x →
        (∀ dst, qpStateOf (leField b 3 1) = dst → reachable x.state dst = false → Completes (.qpModify die q) s (fun t => refused die q s t stWrongState))
        ∧ (qpStateOf (leField b 3 1) = .init → x.state = .reset → Completes (.qpModify die q) s (fun t =>
            told die q s t stOk ∧ t.mem = s.mem ∧ t.qp q = some { x.withCtx b with state := .init }))
        ∧ (qpStateOf (leField b 3 1) = .rtr → x.state = .init → Completes (.qpModify die q) s (fun t =>
            told die q s t stOk ∧ t.mem = s.mem ∧ t.qp q = some { x.withCtx b with state := .rtr, rqPsn := leField b 0x18 3 }))
        ∧ (qpStateOf (leField b 3 1) = .rts → x.state = .rtr → x.sqCi = x.sqPi → x.rels = [] → Completes (.qpModify die q) s (fun t =>
            told die q s t stOk ∧ t.mem = s.mem ∧ t.qp q = some { x.withCtx b with state := .rts, sqPsn := leField b 0x14 3 }))
        ∧ (qpStateOf (leField b 3 1) = .reset → x.state = .error → Completes (.qpModify die q) s (fun t =>
            told die q s t stOk ∧ t.mem = s.mem ∧ (t.qp q).map (fun y => (y.state, y.sqPi, y.rqPi, y.cqPi, y.sent)) = some (.reset, 0, 0, 0, [])))
        ∧ (qpStateOf (leField b 3 1) = .error → x.sent = [] → x.sqCi = x.sqPi → Completes (.qpModify die q) s (fun t =>
            told die q s t stOk ∧ t.mem = s.mem ∧ (t.qp q).map Qp.state = some .error)))))
  ∧ (∀ (die q : Nat) (s : State), q < 65536 → ioUp s die = true →
    (s.qp q = none → ∀ i ∈ [Instr.qpDestroy die q, .qpQuery die q], Completes i s (fun t => refused die q s t stWrongState))
    ∧ (∀ x, s.qp q = some x → x.port / 4 = die → Completes (.qpDestroy die q) s (fun t => told die q s t stOk ∧ t.qp q = none ∧ t.mem = s.mem)
      ∧ (pagesAll s (s.ioDie die).qpCtx 128 Place.normal = true → AllHome s → Completes (.qpQuery die q) s (fun t =>
          told die q s t stOk ∧ t.qps = s.qps ∧ Laid (memByte s) (memByte t) [(canon s (s.ioDie die).qpCtx, x.ctx q)]
            ∧ leField (x.ctx q) 0 2 = q % 65536 ∧ leField (x.ctx q) 3 1 = x.state.code))))
  ∧ (∀ (q v : Nat) (s : State), q < 65536 → s.pkg.st ≠ .off → s.pkg.st ≠ .crust →
    (∀ x, s.qp q = some x → takesDoorbell s q = true →
      Completes (.rqDoorbell q v) s (fun t => t.qp q = some { x with rqPi := v % 65536 } ∧ t = { s with qps := t.qps, free := t.free } ∧ ∀ k, k ≠ q → t.qp k = s.qp k)
      ∧ Completes (.cqConsumerUpdate q v) s (fun t => (∃ c, t.qp q = some { x with cqCi := c } ∧ c % 65536 = v % 65536 ∧ x.cqCi ≤ c ∧ c < x.cqCi + 65536)
          ∧ t = { s with qps := t.qps, free := t.free } ∧ ∀ k, k ≠ q → t.qp k = s.qp k)
      ∧ ((x.state ≠ .rts ∨ netStopped s = true ∨ v % 65536 = x.sqCi) → Completes (.sqDoorbell q v) s (fun t =>
          t.qp q = some { x with sqPi := v % 65536 } ∧ t = { s with qps := t.qps, free := t.free } ∧ ∀ k, k ≠ q → t.qp k = s.qp k))
      ∧ (∀ e r pa, x.state = .rts → netStopped s = false → x.rnrWait = none → v % 65536 = (x.sqCi + 1) % 65536 → x.sqCi < 65536 → x.raw = false →
          sendEntry s x x.sqCi = e → e.opcode = 8 → e.fenced = false → e.len ≤ 2 ^ 31 → regionFor s e.lkey rLocalRead e.lva e.len = some r →
          InPage s r e.lva e.len pa → regionBad s r e.lva e.len = false → AllHome s → NoNetRaces s → (s.port x.port).link = true →
          Completes (.sqDoorbell q v) s (fun t =>
            t.out = .roceRequest x.port q 8 x.sqPsn e.len ((List.range e.len).map (fun k => memByte s (pa + k))) :: s.out
              ∧ (∃ y, t.qp q = some y ∧ y.sqCi = v % 65536 ∧ y.sqPi = v % 65536 ∧ y.sqPsn = psnAdd x.sqPsn (x.packets e.len)
                  ∧ y.sent.map (fun k => (k.psn, k.last, k.rva, k.rkey)) = x.sent.map (fun k => (k.psn, k.last, k.rva, k.rkey))
                      ++ [(x.sqPsn, psnAdd x.sqPsn (x.packets e.len - 1), e.rva, e.rkey)])
              ∧ t.mem = s.mem ∧ ∀ k, k ≠ q → t.qp k = s.qp k)))
    ∧ (takesDoorbell s q = false → ∀ i ∈ [Instr.sqDoorbell q v, .rqDoorbell q v, .cqConsumerUpdate q v], Completes i s (fun t =>
        t = { s with ioDies := t.ioDies, free := t.free }
          ∧ (∀ x, s.qp q = some x → (t.ioDie (x.port / 4)).ignored = satAdd 32 (s.ioDie (x.port / 4)).ignored 1))))

/-- The control class behind its acceptance (R358 to R360, R428 to R430). -/
def Obligations.ControlMessagesReachMailboxesAndTheMirror : Prop :=
  let accepts (m : ControlMsg) (type : Nat) (s : State) : Prop := (s.port m.port).link = true ∧ m.type.toNat = type ∧ controlOk s m = true
  let forms (m : ControlMsg) : List (Instr × Nat) := [(.mboxRequest m, 2), (.mirrorAck m, 5)]
    ++ (if mOp m = 1 then [(.mirrorRound m, 4)] else if mOp m = 2 then [(.mirrorFetch m, 4)] else if mOp m = 3 then [(.mirrorRestore m, 4)]
        else if mOp m = 4 then [(.mirrorSync m, 4)] else [])
  let partner (m : ControlMsg) (op : Nat) (s : State) : Prop := accepts m 4 s ∧ mOp m = op ∧ leField m.body 1 3 = 0 ∧ leField m.body 20 4 = 0
    ∧ mirrorUp s = true ∧ m.sender = s.cfg.partner ∧ s.tally.stream = none ∧ mOff m = 0 ∧ mTotal m + 24 = m.body.length
    ∧ ∃ d, s.cfg.destinations.find? (fun d => d.ident = s.cfg.partner) = some d ∧ (s.port d.primary).link = true
  let frame (s t : State) : Prop := t = { s with ports := t.ports, salter := { s.salter with recvSeq := t.salter.recvSeq }, tally := t.tally, out := t.out }
  let fine (e : Entry) : Prop := e.agent < 2 ^ 32 ∧ e.seq < 2 ^ 32 ∧ 1 ≤ e.units ∧ e.units ≤ 256 ∧ e.bytes < 2 ^ 32 ∧ e.number < 2 ^ 64 ∧ e.time < 2 ^ 64
    ∧ e.stateLost = false ∧ e.payload.length = (e.units - 1) * 64
  (∀ (m : ControlMsg) (s : State), (s.port m.port).link = true → ∀ i ∈ forms m,
    (¬ (m.type.toNat = i.2 ∧ controlOk s m = true) → (i.2 = 4 → m.type = 4) → Completes i.1 s (fun t =>
      t.port m.port = { received s m.port with dropCtl := satAdd 16 (s.port m.port).dropCtl 1 } ∧ t = { s with ports := t.ports }))
    ∧ (m.type.toNat = i.2 → controlOk s m = true → (i.2 = 2 → bodyCommand m.body ≠ 0xF0) → (∀ a, i.1 ≠ .mirrorAck a) → ∃ t, exec i.1 s = .next t
        ∧ (t.port m.port).ctlAccepted = satAdd 32 (s.port m.port).ctlAccepted 1 ∧ seqNew t m = false))
  ∧ (∀ (m : ControlMsg) (s : State), accepts m 2 s → bodyCommand m.body ≠ 0xF0 →
    let k := 64 + m.mailbox
    let b := s.box k
    (b.lastSeq = some (BitVec.ofNat 15 (bodySeq m.body)) → Completes (.mboxRequest m) s (fun t => t.boxes = s.boxes ∧ t.salter.latched = s.salter.latched))
    ∧ (b.lastSeq ≠ some (BitVec.ofNat 15 (bodySeq m.body)) → (b.owner = true ∨ b.held = true) →
        s.cfg.destinations.any (fun d => d.ident = m.sender) = false → Completes (.mboxRequest m) s (fun t =>
          t.boxes = s.boxes ∧ t.salter.latched = s.salter.latched
            ∧ ∃ n, t.out = .mboxResponse k m.sender m.keyIndex n (headerWith m.body stBusyRetry) :: s.out))
    ∧ (b.lastSeq ≠ some (BitVec.ofNat 15 (bodySeq m.body)) → b.owner = false → b.held = false → Completes (.mboxRequest m) s (fun t =>
        (t.box k).owner = true ∧ (t.box k).command.toNat = bodyCommand m.body % 65536 ∧ (t.box k).length.toNat = bodyLength m.body % 65536
          ∧ (t.box k).lastSeq = some (BitVec.ofNat 15 (bodySeq m.body)) ∧ t.salter.latched = s.salter.latched ++ [k]
          ∧ (t.box k).requester = some (m.keyIndex, m.sender, m.port)
          ∧ (∀ o, o < 4032 → 64 + o < m.body.length → tget 0 (t.box k).payload o = m.body.getD (64 + o) 0)
          ∧ (∀ j, j ≠ k → t.box j = s.box j) ∧ t.out = s.out)))
  ∧ (∀ (m : ControlMsg) (s : State) (e : Entry) (agent seq number : Nat), partner m 1 s → fine e → agent < 2 ^ 32 → seq < 2 ^ 32 →
    let done (t : State) : Prop := t.out = .mirrorAck m.sender (mNumber m) (m.body.length - 24) 0 :: s.out ∧ frame s t
    (m.body.drop 24 = entryBytes e 0 ++ leBytes 8 number ++ leBytes 8 1 → mirrorFits (s.tally.mirror ++ [e]) = true →
      (∀ x ∈ s.tally.mirror, ¬ (x.agent = e.agent ∧ x.seq = e.seq)) → Completes (.mirrorRound m) s (fun t =>
        t.tally.mirror = s.tally.mirror ++ [e] ∧ seqRow t.tally.mirrorSeqs e.agent = { seqRow s.tally.mirrorSeqs e.agent with a := e.seq } ∧ done t))
    ∧ (m.body.drop 24 = recordBytes { ring := 0, pa := [], units := 1, status := 0, kind := 2, agent := agent, seq := seq } ++ leBytes 8 number ++ leBytes 8 1 →
      mirrorFits s.tally.mirror = true → Completes (.mirrorRound m) s (fun t =>
        t.tally.mirror = s.tally.mirror.filter (fun y => !decide (y.agent = agent ∧ y.seq = seq))
          ∧ seqRow t.tally.mirrorSeqs agent = { seqRow s.tally.mirrorSeqs agent with d := seq } ∧ done t)))
  ∧ (∀ (m : ControlMsg) (s : State) (e : Entry) (r : SeqRow), fine e → 1 ≤ r.a → r.a < 2 ^ 32 → r.d < 2 ^ 32 →
    m.body.drop 24 = tallyStream [e] [(e.agent, r)] →
    (partner m 4 s → mirrorFits [e] = true → Completes (.mirrorSync m) s (fun t => t.tally.mirror = [e] ∧ t.tally.mirrorSeqs = [(e.agent, r)]
        ∧ t.out = .mirrorAck m.sender (mNumber m) (m.body.length - 24) 0 :: s.out ∧ frame s t))
    ∧ (partner m 3 s → s.tally.restoring = true → Completes (.mirrorRestore m) s (fun t =>
        t.tally.entries = [e] ∧ t.tally.seqs = [(e.agent, r)] ∧ t.tally.nextNumber = max s.tally.nextNumber e.number ∧ t.tally.restoring = false
        ∧ t.tally.replay = true ∧ t.tally.cause = 5 ∧ t.tally.epoch = wrapAdd 32 s.tally.epoch 1
        ∧ t.out = .mirrorAck m.sender (mNumber m) (m.body.length - 24) 0 :: s.out ∧ frame s t)))
  ∧ (∀ (m : ControlMsg) (s : State), partner m 2 s → (tallyStream s.tally.mirror s.tally.mirrorSeqs).length ≤ fragBytes →
    let d := tallyStream s.tally.mirror s.tally.mirrorSeqs
    Completes (.mirrorFetch m) s (fun t => t.out = .mirror s.cfg.partner 3 (mNumber m) (mirrorBody 3 0 (mNumber m) d.length d) :: s.out ∧ frame s t))
  ∧ (∀ (m : ControlMsg) (d : Destination) (s : State), accepts m 4 s → mirrorUp s = true → m.sender ≠ s.cfg.partner → leField m.body 1 3 = 0 → leField m.body 20 4 = 0 →
      s.cfg.destinations.find? (fun d => d.ident = m.sender) = some d → (s.port d.primary).link = true → ∀ i ∈ (forms m).drop 2,
      Completes i.1 s (fun t => t.out = .mirrorAck m.sender (mNumber m) 0 2 :: s.out ∧ t.tally = s.tally ∧ frame s t))
  ∧ (∀ (m : ControlMsg) (s : State), accepts m 5 s → mirrorUp s = true → m.sender = s.cfg.partner → leField m.body 12 4 = 0 →
    (∀ r, s.tally.open_ = some r → r.number = leField m.body 0 8 → (roundStream r).length ≤ leField m.body 8 4 → Completes (.mirrorAck m) s (fun t =>
      t.tally.open_ = none ∧ t.tally.round = r.number ∧ t.tally.voids = 0))
    ∧ (s.tally.open_ = none → s.tally.syncNo = some (leField m.body 0 8) → Completes (.mirrorAck m) s (fun t =>
      t.tally.paired = true ∧ t.tally.pairDown = false ∧ t.tally.syncNo = none ∧ t.tally.entries = s.tally.entries ∧ frame s t))
    ∧ (s.tally.open_ = none → s.tally.syncNo = none → Completes (.mirrorAck m) s (fun t => t.tally = s.tally ∧ frame s t)))

/-- The tally's rounds (R411 to R420, R426, R427). -/
def Obligations.ARoundJudgesCommitsOrIsVoid : Prop :=
  let one (s : State) (i : Nat) (r : Ring) (b : List Byte) (n : Nat) : Prop := roundsRun s = true ∧ s.tally.open_ = none ∧ i < 16 ∧ tget {} s.tally.rings i = r
    ∧ r.enable = true ∧ ringOk s r = true ∧ (∀ j, j < 16 → j ≠ i → (tget {} s.tally.rings j).enable = false)
    ∧ (r.producer - r.consumer).toNat = n ∧ b = recordAt s r r.consumer.toNat n ∧ leField b 0xA 2 = n ∧ 1 ≤ n ∧ n ≤ 256 ∧ AllHome s
  let spot (s : State) (r : Ring) : Nat := canon s (r.base * 4096 + r.consumer.toNat % 2 ^ r.size * 64) + 0x18
  let answer (status fl number time : Nat) : List Byte := leBytes 2 status ++ leBytes 1 fl ++ leBytes 5 0 ++ leBytes 8 number ++ leBytes 8 time
  let answered (s t : State) (i : Nat) (r : Ring) (n status fl number time : Nat) : Prop :=
    Laid (memByte s) (memByte t) [(spot s r, answer status fl number time)] ∧ tget {} t.tally.rings i = { r with consumer := r.consumer + BitVec.ofNat 32 n }
      ∧ (∀ j, j ≠ i → tget {} t.tally.rings j = tget {} s.tally.rings j) ∧ t.tally.round = s.tally.round + 1 ∧ t.tally.open_ = none ∧ t.tally.voids = 0
      ∧ t = { s with tally := t.tally, mem := t.mem, coh := t.coh, stk := t.stk, cores := t.cores }
  let same (s t : State) : Prop := t.tally.seqs = s.tally.seqs ∧ t.tally.entries = s.tally.entries ∧ t.tally.nextNumber = s.tally.nextNumber
  (∀ (s : State) (i n : Nat) (r : Ring) (b : List Byte), one s i r b n → s.tally.paired = false →
    let kind := leField b 8 1; let agent := leField b 0 4; let seq := leField b 4 4; let row := seqRow s.tally.seqs agent
    (recordOk b = false → Completes .tallyRound s (fun t => answered s t i r n stBadArgument 0 0 0 ∧ same s t ∧ t.tally.bad = satAdd 32 s.tally.bad 1))
    ∧ (recordOk b = true →
      (kind = 1 → seq ≤ row.a → ∀ e, s.tally.entries.find? (fun e => decide (e.agent = agent ∧ e.seq = seq)) = some e →
        Completes .tallyRound s (fun t => answered s t i r n stOk 1 e.number e.time ∧ same s t ∧ t.tally.dups = satAdd 32 s.tally.dups 1))
      ∧ (kind = 3 → row.d ≠ row.a → Completes .tallyRound s (fun t => answered s t i r n stWrongState 0 0 0 ∧ same s t))
      ∧ (kind = 1 → row.a + 1 < seq → Completes .tallyRound s (fun t => answered s t i r n stBadArgument 0 0 0 ∧ same s t))
      ∧ (kind = 2 → row.d < seq → (seq ≠ row.d + 1 ∨ row.a < seq) → Completes .tallyRound s (fun t => answered s t i r n stBadArgument 0 0 0 ∧ same s t))
      ∧ (tallyHeld s = true → (kind = 1 ∧ seq = row.a + 1 ∨ kind = 2 ∧ seq = row.d + 1 ∧ seq ≤ row.a ∨ kind = 3 ∧ row.d = row.a) →
          Completes .tallyRound s (fun t => answered s t i r n stBusyRetry 0 0 0 ∧ same s t))
      ∧ (tallyHeld s = false →
        (kind = 1 → seq = row.a + 1 → entriesBytes s.tally.entries + n * 64 + mib ≤ logCapacity → Completes .tallyRound s (fun t =>
          let number := s.tally.nextNumber + 1
          answered s t i r n stOk 0 number s.now ∧ t.tally.nextNumber = number ∧ t.tally.accepted = satAdd 32 s.tally.accepted 1
            ∧ (∃ e, e ∈ t.tally.entries ∧ e.agent = agent ∧ e.seq = seq ∧ e.number = number ∧ e.time = s.now ∧ e.bytes = leField b 0xC 4
                ∧ e.payload = b.drop 64 ∧ t.tally.entries = s.tally.entries.filter (fun y => !decide (y.agent = agent ∧ y.seq = seq)) ++ [e])
            ∧ seqRow t.tally.seqs agent = { row with a := seq } ∧ ∀ a, a ≠ agent → seqRow t.tally.seqs a = seqRow s.tally.seqs a))
        ∧ (kind = 2 → seq = row.d + 1 → seq ≤ row.a → Completes .tallyRound s (fun t => answered s t i r n stOk 0 0 0
            ∧ t.tally.entries = s.tally.entries.filter (fun y => !decide (y.agent = agent ∧ y.seq = seq))
            ∧ seqRow t.tally.seqs agent = { row with d := seq } ∧ ∀ a, a ≠ agent → seqRow t.tally.seqs a = seqRow s.tally.seqs a))
        ∧ (kind = 3 → row.d = row.a → Completes .tallyRound s (fun t => answered s t i r n stOk 0 0 0 ∧ t.tally.entries = s.tally.entries
            ∧ seqRow t.tally.seqs agent = {} ∧ ∀ a, a ≠ agent → seqRow t.tally.seqs a = seqRow s.tally.seqs a)))))
  ∧ (∀ (s : State) (i n : Nat) (r : Ring) (b : List Byte), one s i r b n → s.tally.paired = true → Completes .tallyRound s (fun t =>
      t.mem = s.mem ∧ same s t ∧ t.tally.rings = s.tally.rings ∧ t.tally.round = s.tally.round
        ∧ ∃ x, t.tally.open_ = some x ∧ x.number = s.tally.round + 1 ∧ x.started = s.now ∧ x.answers.length = 1))
  ∧ (∀ (s : State) (x : Round) (y : Answer) (a : Nat), s.tally.open_ = some x → x.answers = [y] → y.held = true → y.dup = false → y.done = false → y.pa = [a] → AllHome s →
    let out (t : State) : Prop := Laid (memByte s) (memByte t) [(canon s a + 0x18, answer stBusyRetry 0 0 0)] ∧ same s t ∧ t.tally.open_ = none
      ∧ t.tally.voids = s.tally.voids + 1 ∧ t.tally.round = s.tally.round ∧ t.tally.busyCount = satAdd 16 s.tally.busyCount 1
    Completes .roundVoid s (fun t => out t ∧ t.now = max s.now (x.started + s.cfg.pairTimeoutUs * 1000))
    ∧ (s.board.warn = true → Completes .supplyRoundDeadline s (fun t => out t ∧ t.now = max s.now (s.power.warnAt + 200000)))
    ∧ (s.board.warn = false → Completes .supplyRoundDeadline s (fun t => t = s)))
  ∧ (∀ s : State, (s.tally.paired = true ∧ s.cfg.degrade = true ∧ 3 ≤ s.tally.voids → Completes .pairDown s (fun t =>
        t.tally = { s.tally with paired := false, pairDown := true, voids := 0 } ∧ Logs s t evPairDown ∧ t = { s with tally := t.tally, events := t.events }))
    ∧ (¬ (s.tally.paired = true ∧ s.cfg.degrade = true ∧ 3 ≤ s.tally.voids) → Completes .pairDown s (fun t => t = s)))
  ∧ (∀ (s : State) (d : Destination), s.tally.pairDown = true → controlUp s = true → s.pkg.st ≠ .crust → s.pkg.st ≠ .fault →
      s.cfg.destinations.find? (fun d => d.ident = s.cfg.partner) = some d → (s.port d.primary).link = true →
      (tallyStream s.tally.entries s.tally.seqs).length ≤ fragBytes → Completes .pairDownSync s (fun t =>
        let n := s.tally.streamNo + 1; let x := tallyStream s.tally.entries s.tally.seqs
        t.tally = { s.tally with streamNo := n, syncNo := some n } ∧ t.out = .mirror s.cfg.partner 4 n (mirrorBody 4 0 n x.length x) :: s.out
          ∧ t = { s with tally := t.tally, out := t.out, ports := t.ports }))
  ∧ (∀ (s : State) (start : Nat), (s.pkg.st = .ready ∨ s.pkg.st = .serving ∨ s.pkg.st = .maint) →
    (s.tally.replayLen < 64 → Completes (.tallyReplayGo start) s (fun t => t = { s with tally := { s.tally with written := 0 } }))
    ∧ (64 ≤ s.tally.replayLen → pagesAll s s.tally.replayBase s.tally.replayLen Place.normal = true → s.tally.snapshot = none → AllHome s →
        s.tally.replayBase % 4096 + s.tally.replayLen ≤ 4096 → (∀ e ∈ s.tally.entries, 1 ≤ e.units) → Completes (.tallyReplayGo start) s (fun t =>
          let l := sortEntries s.tally.entries
          let out := (l.drop start).take t.tally.written
          l.Perm s.tally.entries ∧ entriesBytes out + 64 ≤ s.tally.replayLen
            ∧ (∀ k, t.tally.written < k → start + k ≤ l.length → s.tally.replayLen < entriesBytes ((l.drop start).take k) + 64)
            ∧ Laid (memByte s) (memByte t) [(canon s s.tally.replayBase, replayHeader s.tally l.length start out.length
                ++ out.flatMap (fun e => entryBytes e (1 + 2 * boolN e.stateLost)))]
            ∧ out.length = t.tally.written ∧ t.tally.snapshot = some l
            ∧ t.tally.replay = (s.tally.replay && decide (start + out.length < l.length)) ∧ t.tally.entries = s.tally.entries)))

/-- The event log, its ring and its delivery (R483 to R489, R513). -/
def Obligations.EventsAreNumberedLoggedRungAndDelivered : Prop :=
  let writes (s : State) (e : Event) (rest : List Event) : Prop := logServed s = true ∧ s.events.waiting = [] ∧ s.events.queue = e :: rest
  let logged (s t : State) (e : Event) : Prop := t.events.last = s.events.last + 1 ∧ t.events.log = keepLast 65536 (s.events.log ++ [{ e with number := s.events.last + 1 }])
    ∧ t.out = (if mgmtServed s then [.events (s.events.last + 1) 1] else []) ++ s.out ∧ t.events.sent = (if mgmtServed s then s.events.last + 1 else s.events.sent)
    ∧ t = { s with events := t.events, out := t.out, mem := t.mem, coh := t.coh, stk := t.stk, cores := t.cores }
  let resent (s t : State) : Prop := t.out = (if s.events.acked = s.events.last then [] else [.events (s.events.acked + 1) (s.events.last - s.events.acked)]) ++ s.out
  (∀ (s : State) (e : Event) (rest : List Event), writes s e rest → s.pkg.st ≠ .draining →
    let v := s.events
    ((v.enable = false ∨ ringTakes v e = false) → Completes .eventRecordWrite s (fun t => logged s t e ∧ t.events.queue = rest ∧ t.mem = s.mem
        ∧ t.events.producer = v.producer ∧ t.events.lost = v.lost))
    ∧ (v.enable = true → ringTakes v e = true →
      (eventRingOk s = false → Completes .eventRecordWrite s (fun t => logged s t e ∧ t.events.enable = false ∧ t.mem = s.mem
          ∧ ∃ x, t.events.queue = rest ++ [x] ∧ x.code = evEventRing))
      ∧ (eventRingOk s = true → 2 ^ v.size ≤ (v.producer - v.consumer).toNat → Completes .eventRecordWrite s (fun t =>
          logged s t e ∧ t.events.queue = rest ∧ t.events.lost = satAdd 32 v.lost 1 ∧ t.events.producer = v.producer ∧ t.mem = s.mem))
      ∧ (eventRingOk s = true → (v.producer - v.consumer).toNat < 2 ^ v.size → AllHome s →
          (place s (v.base * 4096 + v.producer.toNat % 2 ^ v.size * 64)).normal = true → Completes .eventRecordWrite s (fun t =>
          logged s t e ∧ t.events.queue = rest ∧ t.events.producer = v.producer + 1 ∧ t.events.lost = v.lost
            ∧ Laid (memByte s) (memByte t) [(canon s (v.base * 4096 + v.producer.toNat % 2 ^ v.size * 64),
                (Event.onRing { e with number := v.last + 1 }).bytes)]))))
  ∧ (∀ (s : State) (e : Event) (rest : List Event), writes s e rest → s.pkg.st = .draining → Completes .eventRecordWrite s (fun t =>
      logged s t e ∧ t.events.queue = rest ∧ t.mem = s.mem ∧ t.events.waiting = [{ e with number := s.events.last + 1 }]))
  ∧ (∀ (s : State) (k : Nat) (e : Event), s.events.held[k]? = some e → Completes (.ceCoalesceExpiry k) s (fun t =>
      t.events = { s.events with held := s.events.held.eraseIdx k, queue := s.events.queue ++ [e] } ∧ t.now = max s.now (e.time + 1000000000)
        ∧ t = { s with events := t.events, now := t.now }))
  ∧ (∀ (f : MgmtFrame) (s : State), mgmtServed s = true →
      (f.reserved = false → Completes (.eventAck f) s (fun t =>
        t = { s with events := { s.events with acked := max s.events.acked (min f.address s.events.sent) } }))
      ∧ (f.reserved = true → Completes (.eventAck f) s (fun t => t = { s with out := .mgmt 0x11 3 f.tag [] :: s.out })))
  ∧ (∀ s : State, s.events.acked ≤ s.events.last → s.events.last ≤ s.events.acked + 32 →
    let whole : Prop := ∀ e, s.events.log.head? = some e → e.number ≤ s.events.acked + 1
    let resume (i : Instr) (up : Bool) : Prop :=
      (s.events.log ≠ [] → whole → Completes i s (fun t => resent s t ∧ t.events = { s.events with sent := s.events.last, linkUp := up } ∧ t = { s with events := t.events, out := t.out }))
      ∧ (∀ e, s.events.log.head? = some e → s.events.acked + 1 < e.number → e.number ≤ s.events.last → Completes i s (fun t =>
          t.events.acked = e.number - 1 ∧ t.events.sent = s.events.last ∧ t.out = .events e.number (s.events.last + 1 - e.number) :: s.out
            ∧ ∃ x, t.events.queue = s.events.queue ++ [x] ∧ x.code = evLogGap ∧ x.detail = e.number - (s.events.acked + 1) ∧ x.detail2 = s.events.acked + 1))
    (mgmtServed s = true → s.events.acked < s.events.sent → resume .eventResend true)
    ∧ (s.events.linkUp = false → 2 ≤ s.pkg.bootStep → logServed s = true → resume .mgmtLinkUp true)
    ∧ (s.events.linkUp = false → 2 ≤ s.pkg.bootStep → s.pkg.st ≠ .off → logServed s = false → Completes .mgmtLinkUp s (fun t =>
        t = { s with events := { s.events with linkUp := true } }))
    ∧ Completes .mgmtLinkDown s (fun t => t = { s with events := { s.events with linkUp := false } }))

/-- Requests of the tray (R408, R511, R512). -/
def Obligations.TheTrayReadsAndWritesByFrames : Prop :=
  let reply (s t : State) (op status : Nat) (f : MgmtFrame) (d : List Byte) : Prop := t.out = .mgmt op status f.tag d :: s.out
  let ops (f : MgmtFrame) : List (Instr × Nat) := [(.windowRead f, 1), (.windowWrite f, 2), (.regRead f, 3), (.regWrite f, 4), (.mboxRead f, 5), (.mboxWrite f, 6)]
  (∀ (f : MgmtFrame) (s : State), mgmtServed s = true → frameOk f = false → ∀ i ∈ ops f, Completes i.1 s (fun t => t = { s with out := .mgmt i.2 3 f.tag [] :: s.out }))
  ∧ (∀ (f : MgmtFrame) (s : State), mgmtServed s = true → frameOk f = true →
    let k := s.salter; let pa := k.winBase + f.address
    let inside : Prop := k.winMode ≠ 0 ∧ f.address + f.length ≤ k.winLen ∧ pagesAll s pa f.length Place.normal = true
    (s.pkg.st = .draining → ∀ i ∈ [(Instr.windowRead f, 1), (.windowWrite f, 2), (.regRead f, 3), (.regWrite f, 4)], Completes i.1 s (fun t =>
        reply s t i.2 2 f [] ∧ t = { s with out := t.out, free := t.free }))
    ∧ (s.pkg.st ≠ .draining →
      (k.winMode = 0 ∨ k.winLen < f.address + f.length ∨ pagesAll s pa f.length Place.normal = false → ∀ i ∈ [(Instr.windowRead f, 1), (.windowWrite f, 2)],
        Completes i.1 s (fun t => reply s t i.2 1 f [] ∧ t = { s with out := t.out, free := t.free }))
      ∧ (k.winMode ≠ 2 → Completes (.windowWrite f) s (fun t => reply s t 2 1 f [] ∧ t = { s with out := t.out, free := t.free }))
      ∧ (inside → ∀ l, windowRefused s f false = some l → Completes (.windowRead f) s (fun t => reply s t 1 1 f [] ∧ Logs s t evProtection ∧ t.mem = s.mem))
      ∧ (inside → pa % 4096 + f.length ≤ 4096 → AllHome s → windowRefused s f false = none → s.coh.poison = [] → Completes (.windowRead f) s (fun t =>
            reply s t 1 0 f ((List.range f.length).map (fun i => memByte s (canon s pa + i))) ∧ t.mem = s.mem ∧ t.coh = s.coh))
      ∧ (inside → k.winMode = 2 → pa % 4096 + f.length ≤ 4096 → AllHome s → windowRefused s f true = none → Completes (.windowWrite f) s (fun t =>
            reply s t 2 0 f [] ∧ Laid (memByte s) (memByte t) [(canon s pa, padTo f.length f.data)]))
      ∧ (s.pkg.bootStep < 5 → ∀ i ∈ [(Instr.regRead f, 3), (.regWrite f, 4)], Completes i.1 s (fun t => reply s t i.2 2 f [] ∧ t = { s with out := t.out, free := t.free }))
      ∧ (5 ≤ s.pkg.bootStep → s.pkg.st ≠ .off → f.length = 8 →
        (f.address = 0 → s.power.cap < 2 ^ 16 → Completes (.regRead f) s (fun t => reply s t 3 0 f (leBytes 8 s.power.cap) ∧ t = { s with out := t.out, free := t.free }))
        ∧ (f.address = 0x10 → s.power.mv < 2 ^ 16 → s.power.watts < 2 ^ 16 → s.power.minMv < 2 ^ 16 → Completes (.regRead f) s (fun t =>
            reply s t 3 0 f (leBytes 8 (s.power.mv + s.power.watts * 2 ^ 16 + s.power.minMv * 2 ^ 32)) ∧ t.power = { s.power with minMv := 0xFFFF }))
        ∧ (f.address = 0x28 → Completes (.regWrite f) s (fun t => reply s t 4 0 f []
            ∧ t.power.droopMv = (let v := (f.data.getD 0 0).toNat; if 10 ≤ v ∧ v ≤ 60 then v else s.power.droopMv)
            ∧ t = { s with power := { s.power with droopMv := t.power.droopMv }, out := t.out, free := t.free })))))
  ∧ (∀ (f : MgmtFrame) (s : State), mgmtServed s = true → frameOk f = true → f.length = 8 →
    Completes (.mboxRead f) s (fun t => reply s t 5 0 f (leBytes 8 (mailboxRead s 72 f.address).toNat) ∧ t = { s with out := t.out, free := t.free })
    ∧ (let b := s.box 72
      ((b.owner = true ∨ b.held = true) → Completes (.mboxWrite f) s (fun t => reply s t 6 0 f [] ∧ t.boxes = s.boxes ∧ t.salter.ignored = satAdd 32 s.salter.ignored 1))
      ∧ (b.owner = false → b.held = false → 0x40 ≤ f.address → f.address + 8 ≤ 0x1000 → Completes (.mboxWrite f) s (fun t => reply s t 6 0 f []
          ∧ (∀ o, tget 0 (t.box 72).payload o = if f.address - 0x40 ≤ o ∧ o < f.address - 0x40 + 8 then f.data.getD (o - (f.address - 0x40)) 0 else tget 0 b.payload o)
          ∧ t.salter = s.salter ∧ ∀ m, m ≠ 72 → t.box m = s.box m))
      ∧ (b.owner = false → b.held = false → f.address = 0 → Completes (.mboxWrite f) s (fun t => reply s t 6 0 f []
          ∧ (t.box 72).owner = (f.data.getD 0 0).getLsbD 0 ∧ t.salter.latched = s.salter.latched ++ (if (f.data.getD 0 0).getLsbD 0 then [72] else [])
          ∧ (t.box 72).command.toNat = (f.data.getD 2 0).toNat + 256 * (f.data.getD 3 0).toNat))))

/-- The register blocks (R9, R11, R309). -/
def Obligations.RegistersReadClearAndTakeWrites : Prop :=
  let bits (s : State) (lo n : Nat) : Nat := s.bus.toNat / 2 ^ lo % 2 ^ n
  let reads (r : Reg) (s : State) (P : State → Prop) : Prop := Completes (.rcRegisterRead r) s P
  let again (r : Reg) (s : State) (n : Nat) : Prop := ∀ t, exec (.rcRegisterRead r) s = .next t → ∃ u, exec (.rcRegisterRead r) t = .next u ∧ u.bus = BitVec.ofNat 64 n
  (∀ (r : Reg) (v : Dword) (s : State),
    ((∀ n, r ∈ [Reg.sysAbtAddr n, .sysAbtInfo n, .sysMemctl n] → (s.core n).priv = .user → Completes (.rcRegisterRead r) s (fun t => t = s))
    ∧ (regUp s r = false → Completes (.rcRegisterRead r) s (fun t => t = s) ∧ Completes (.registerWrite r v) s (fun t => t = s))
    ∧ (regUp s r = true → reads r s (fun t => t = { s with pans := t.pans, beds := t.beds, coreDies := t.coreDies, cores := t.cores, coh := t.coh, stk := t.stk, tally := t.tally, events := t.events, ports := t.ports, ioDies := t.ioDies, salter := t.salter, bus := t.bus, free := t.free }
        ∧ t.coh.lines = s.coh.lines ∧ t.tally.entries = s.tally.entries ∧ t.events.log = s.events.log ∧ t.salter.regions = s.salter.regions)
      ∧ ∃ t, exec (.registerWrite r v) s = .next t)))
  ∧ (∀ (p b : Nat) (s : State), regUp s (.bed p b 8) = true → let d := s.bed p b
    d.fCode < 256 → d.fRake < 64 → d.fKernel < 65536 → d.fBlock < 65536 →
    (∀ i ∈ [Instr.bedFaultInfoRead p b, .rcRegisterRead (.bed p b 8)], Completes i s (fun t =>
      bits t 0 8 = d.fCode ∧ bits t 8 6 = d.fRake ∧ bits t 14 2 = 0 ∧ bits t 16 16 = d.fKernel ∧ bits t 32 16 = d.fBlock ∧ bits t 48 15 = 0
        ∧ bits t 63 1 = boolN d.fValid ∧ (t.bed p b).fValid = false ∧ (t.bed p b).fPc = d.fPc ∧ (t.bed p b).fLost = d.fLost
        ∧ t = { s with beds := t.beds, bus := t.bus, free := t.free } ∧ ∀ q c, bedKey q c ≠ bedKey p b → t.bed q c = s.bed q c))
    ∧ again (.bed p b 8) s 0 ∧ (d.fLost < 2 ^ 64 → reads (.bed p b 0x28) s (fun t => t.bus = BitVec.ofNat 64 d.fLost) ∧ again (.bed p b 0x28) s 0)
    ∧ (d.run < 4 → d.blocks.foldl (fun n x => n + x.slots.length) 0 < 64 → reads (.bed p b 0) s (fun t =>
        bits t 0 2 = (if ∃ x ∈ d.blocks, x.aborted = true ∧ blockBusy s p b x = true then 2 else d.run) ∧ bits t 8 16 = d.kernel % 65536 ∧ t.beds = s.beds))
    ∧ reads (.bed p b 0x10) s (fun t => t.bus = d.fPc ∧ t.beds = s.beds) ∧ reads (.bed p b 0x30) s (fun t => t.bus = 0 ∧ t.beds = s.beds))
  ∧ (∀ (p : Nat) (s : State), regUp s (.xlat p 0x10) = true → let x := s.pan p
    (∀ i ∈ [Instr.xlatFaultInfoRead p, .rcRegisterRead (.xlat p 0x10)], x.xInfo.toNat < 2 ^ 63 → Completes i s (fun t =>
      bits t 0 63 = x.xInfo.toNat ∧ bits t 63 1 = boolN x.xValid ∧ (t.pan p) = { x with xInfo := 0, xValid := false }
        ∧ t = { s with pans := t.pans, bus := t.bus, free := t.free } ∧ ∀ q, q ≠ p → t.pan q = s.pan q))
    ∧ again (.xlat p 0x10) s 0)
  ∧ (∀ (p : Nat) (s : State), s.pkg.st ≠ .off → s.hasPan p = true → let x := s.pan p
    x.ce < 2 ^ 32 → x.retries < 2 ^ 32 → x.ue < 2 ^ 32 → x.poisonReads < 2 ^ 32 → x.kvDone < 2 ^ 32 → x.kvRefused < 2 ^ 32 →
    (∀ e ∈ [(Reg.brine p 8, x.ce, x.retries), (.brine p 0x10, x.ue, x.poisonReads), (.kv p 0x18, x.kvDone, x.kvRefused)],
      reads e.1 s (fun t => bits t 0 32 = e.2.1 ∧ bits t 32 32 = e.2.2) ∧ again e.1 s 0)
    ∧ reads (.grain p 0x18) s (fun t => t.bus = BitVec.ofNat 64 x.grainKeys ∧ t.pan p = { x with grainKeys := 0 }) ∧ again (.grain p 0x18) s 0
    ∧ (∀ v, Completes (.registerWrite (.grain p 0) v) s (fun t => t.pan p = { x with freeSeed := v } ∧ t = { s with pans := t.pans } ∧ ∀ q, q ≠ p → t.pan q = s.pan q)
        ∧ Completes (.registerWrite (.grain p 0x10) v) s (fun t => t.pan p = { x with grainRefused := x.grainRefused && !v.getLsbD 0 } ∧ t = { s with pans := t.pans })))
  ∧ (∀ (r : Reg) (v : Dword) (s : State), (match r with
      | .bed _ _ _ => True | .tide _ _ => True | .kv _ _ => True | .flood _ _ => True | .brine _ _ => True | .xlat _ _ => True | .dcache _ _ => True | .lpd _ _ => True
      | .netPort _ _ _ => True | .mboxCtl _ => True | .sysAbtAddr _ => True | .sysMemctl _ => True | .sysIdent _ => True | .sysFeatures _ => True
      | _ => False) → Completes (.registerWrite r v) s (fun t => t = s))
  ∧ (∀ (v : Dword) (s : State), s.pkg.st ≠ .off →
    Completes (.registerWrite (.coh 0x48) v) s (fun t => t = { s with coh := { s.coh with warmEntry := v.toNat / 4 % 2 ^ 46 } }
        ∧ reads (.coh 0x48) t (fun u => u.bus = BitVec.ofNat 64 (v.toNat / 4 % 2 ^ 46 * 4)))
    ∧ Completes (.registerWrite (.evt 0x10) v) s (fun t => t = { s with events := { s.events with filterCe := v.getLsbD 0, filterNote := v.getLsbD 1 } })
    ∧ Completes (.registerWrite (.tally 0x200) v) s (fun t => t = { s with tally := { s.tally with replayBase := v.toNat / 64 % 2 ^ 42 * 64 } })
    ∧ Completes (.registerWrite (.tally 0x208) v) s (fun t => t = { s with tally := { s.tally with replayLen := v.toNat % 2 ^ 32 } })
    ∧ reads (.coh 0x10) s (fun t => t.bus = BitVec.ofNat 64 s.coh.bcast ∧ t.coh = { s.coh with bcast := 0 }) ∧ again (.coh 0x10) s 0
    ∧ reads (.evt 0x18) s (fun t => t.bus = BitVec.ofNat 64 s.events.lost ∧ t.events = { s.events with lost := 0 }) ∧ again (.evt 0x18) s 0
    ∧ reads (.evt 0x20) s (fun t => t.bus = BitVec.ofNat 64 s.events.last ∧ t.events = s.events))
  ∧ (∀ (i j : Nat) (v : Dword) (s : State), regUp s (.netQp i 0) = true → j < 4 →
    Completes (.registerWrite (.netQp i 0) v) s (fun t => t.ioDie i = { s.ioDie i with qpCtx := v.toNat / 64 % 2 ^ 42 * 64 } ∧ t = { s with ioDies := t.ioDies }
        ∧ ∀ k, k ≠ i → t.ioDie k = s.ioDie k)
    ∧ ((s.port (4 * i + j)).rx < 2 ^ 32 → (s.port (4 * i + j)).tx < 2 ^ 32 → reads (.netPort i j 8) s (fun t =>
        bits t 0 32 = (s.port (4 * i + j)).rx ∧ bits t 32 32 = (s.port (4 * i + j)).tx ∧ t.port (4 * i + j) = { s.port (4 * i + j) with rx := 0, tx := 0 }) ∧ again (.netPort i j 8) s 0))
  ∧ (∀ (n : Nat) (v : Dword) (s : State), n < 192 → regUp s (.sysIdent n) = true → s.cfg.stepping < 16 →
    reads (.sysIdent n) s (fun t => bits t 0 16 = 0x4757 ∧ bits t 16 8 = 9 ∧ bits t 28 4 = s.cfg.stepping ∧ bits t 32 8 = n ∧ bits t 40 3 = n / 24 ∧ bits t 43 5 = n % 24)
    ∧ Completes (.registerWrite (.sysAbtInfo n) v) s (fun t => t.core n = { s.core n with abtValid := (s.core n).abtValid && !v.getLsbD 63 }
        ∧ t = { s with cores := t.cores } ∧ ∀ k, k ≠ n → t.core k = s.core k)
    ∧ (regUp s (.core (n / 24) (n % 24) 0) = true → Completes (.registerWrite (.core (n / 24) (n % 24) 0) v) s (fun t =>
        let w := v.toNat / 4 % 32
        t.core n = { s.core n with pfEnable := v.getLsbD 0, pfDescend := v.getLsbD 1, pfDistance := if 1 ≤ w ∧ w ≤ 16 then w else (s.core n).pfDistance }
        ∧ t = { s with cores := t.cores } ∧ ∀ k, k ≠ n → t.core k = s.core k)))

/-- Clocks, voltages, droops and heat (R441 to R452). -/
def Obligations.TheControllerSequencersAndHeat : Prop :=
  let only (u : ClockUnit) (s t : State) (c : Clocked) : Prop := clocked t u = c ∧ (∀ v, v ≠ u → clocked t v = clocked s v)
    ∧ t = { s with power := { s.power with pans := t.power.pans, cores := t.power.cores } }
  (∀ (w : Nat) (s : State), pwrReachable s = true →
    (w < 2400 ∨ 4200 < w → Completes (.pwrCapWrite w) s (fun t => t = { s with power := { s.power with refused := true } }))
    ∧ (2400 ≤ w → w ≤ 4200 → Completes (.pwrCapWrite w) s (fun t => t.power.cap = w ∧ t.power.refused = s.power.refused
        ∧ ((effectiveCap t ≤ w ∨ s.power.raised = true) → t.events = s.events) ∧ (w < effectiveCap t → s.power.raised = false → Logs s t evCapRaised)
        ∧ t = { s with power := { s.power with cap := w, raised := t.power.raised }, events := t.events })))
  ∧ (∀ (x : Telemetry) (s : State), s.board.rails = true → liquorUp s = true → Completes (.powerControllerRun x) s (fun t =>
      t.power.governing = min x.avg10ms 65535 ∧ t.power.mv = min x.inputMv 65535 ∧ t.power.watts = min x.input.measured 65535
        ∧ t.power.minMv = min s.power.minMv (min x.inputMv 65535)
        ∧ (x.avg10ms ≤ effectiveCap s → t.power.overCap = false) ∧ (x.avg1ms ≤ 4200 → t.power.envelope = false)
        ∧ (bottomed s = true → effectiveCap s < x.avg10ms → t.power.overCap = true) ∧ (bottomed s = true → 4200 < x.avg1ms → t.power.envelope = true)
        ∧ (∀ u, clocked t u = { clocked s u with target := (clocked t u).target } ∧ (unitUp s u = false → clocked t u = clocked s u))
        ∧ (∀ p, p < s.cfg.variant.pans → unitUp s (.pan p) = true → (clocked s (.pan p)).thermal = .normal → s.board.warn = false →
            (¬ (bottomed s = true ∧ 4200 < x.avg1ms)) → (boundPan s p = false → (clocked t (.pan p)).target = 32)
              ∧ (boundPan s p = true → 64 ≤ (clocked t (.pan p)).target ∧ (clocked t (.pan p)).target ≤ 84)
              ∧ (boundPan s p = true → bottomed s = true → effectiveCap s < x.avg10ms → (clocked t (.pan p)).target = 64))
        ∧ (∀ d, d < s.cfg.variant.coreDies → unitUp s (.core d) = true → (clocked s (.core d)).thermal = .normal → s.board.warn = false →
            32 ≤ (clocked t (.core d)).target ∧ (clocked t (.core d)).target ≤ 136
              ∧ (bottomed s = true → effectiveCap s < x.avg10ms → (clocked t (.core d)).target = 32))
        ∧ t = { s with power := t.power, events := t.events, free := s.free + 1 }))
  ∧ (∀ (k : Sensor) (s : State), sensorHere s k = true → (∀ d, k = .core d → d < 8) → (∀ p, k = .pan p → p < 20) →
    (sensorFailed s k = false → Completes (.sensorFail k) s (fun t => sensorFailed t k = true ∧ (∀ j, j ≠ k → (∀ d, j = .core d → d < 8) → (∀ p, j = .pan p → p < 20) →
        sensorFailed t j = sensorFailed s j) ∧ Logs s t evSensorFail ∧ t = { s with power := t.power, events := t.events }))
    ∧ (sensorFailed s k = true → Completes (.sensorRecover k) s (fun t => sensorFailed t k = false ∧ (∀ j, j ≠ k → (∀ d, j = .core d → d < 8) → (∀ p, j = .pan p → p < 20) →
        sensorFailed t j = sensorFailed s j) ∧ t = { s with power := t.power })))
  ∧ (∀ (u : ClockUnit) (s : State), stepsAllowed s u = true → let c := clocked s u
    (c.clock < c.target → s.board.warn = false → vf s u (c.clock + 1) ≤ c.volts → Completes (.frequencyStep u) s (fun t => only u s t { c with clock := c.clock + 1 }))
    ∧ (c.clock < c.target → (s.board.warn = true ∨ c.volts < vf s u (c.clock + 1)) → Completes (.frequencyStep u) s (fun t => t = s))
    ∧ (c.target < c.clock → Completes (.frequencyStep u) s (fun t => only u s t { c with clock := c.clock - 1 }))
    ∧ (c.target = c.clock → Completes (.frequencyStep u) s (fun t => t = s))
    ∧ (c.clock < c.target → c.volts < vf s u c.target → Completes (.voltageStep u) s (fun t => only u s t { c with volts := c.volts + 1 }))
    ∧ (c.target ≤ c.clock → vf s u c.clock < c.volts → Completes (.voltageStep u) s (fun t => only u s t { c with volts := c.volts - 1 }))
    ∧ (c.target ≤ c.clock → c.volts ≤ vf s u c.clock → Completes (.voltageStep u) s (fun t => t = s)))
  ∧ (∀ (u : ClockUnit) (s : State), let c := clocked s u
    (stepsAllowed s u = false → Completes (.frequencyStep u) s (fun t => t = s) ∧ Completes (.voltageStep u) s (fun t => t = s))
    ∧ (unitUp s u = true → Completes (.droopTrip u) s (fun t =>
        only u s t { c with droop := true, paused := true, droops := if c.droop then c.droops else satAdd 32 c.droops 1 } ∧ stepsAllowed t u = false))
    ∧ (c.droop = true → Completes (.droopClear u) s (fun t => only u s t { c with droop := false }) ∧ Completes (.sequencerResume u) s (fun t => t = s))
    ∧ (c.paused = true → c.droop = false → Completes (.sequencerResume u) s (fun t => only u s t { c with paused := false })))
  ∧ (∀ (u : ClockUnit) (temp : Nat) (s : State), unitUp s u = true → temp < 256 → let c := clocked s u
    let other (s t : State) : Prop := ∀ v, v ≠ u → clocked t v = clocked s v
    (c.thermal.code < (thermalOf temp).code → Completes (.junctionSensorRead u temp) s (fun t =>
      (clocked t u).thermal = thermalOf temp ∧ (clocked t u).temp = temp ∧ (clocked t u).fallFrom = none ∧ (∃ e ∈ t.events.queue, e.code = evThermal ∧ e.time = s.now)
        ∧ (∀ p, u = .pan p → thermalOf temp = .stop → (t.pan p).stopFrom ≠ none) ∧ other s t
        ∧ t = { s with power := { s.power with pans := t.power.pans, cores := t.power.cores }, pans := t.pans, events := t.events }))
    ∧ ((thermalOf temp).code ≤ c.thermal.code → Completes (.junctionSensorRead u temp) s (fun t =>
        only u s t { c with temp := temp, fallFrom := (clocked t u).fallFrom }
          ∧ ((clocked t u).fallFrom ≠ none ↔ (c.thermal ≠ .normal ∧ temp + 2 ≤ thermalEntry c.thermal))))
    ∧ (∀ t0, c.fallFrom = some t0 → Completes (.thermalFall u) s (fun t => (clocked t u).fallFrom = none ∧ t.now = max s.now (t0 + 10000000)
        ∧ (c.thermal = .stop → (clocked t u).thermal = .emergency ∧ (clocked t u).clock = 32)
        ∧ (c.thermal ≠ .stop → (clocked t u).thermal = thermalOf c.temp ∧ (clocked t u).clock = c.clock)
        ∧ (∀ p, u = .pan p → c.thermal = .stop → (s.pan p).band ≠ 3 → (t.pan p).stopFrom = none) ∧ other s t)))
  ∧ (∀ (mv : Nat) (s : State),
    (mv < 47000 → s.board.rails = true → s.board.warn = false → Completes (.supplyWarn mv) s (fun t =>
        t.board = { s.board with warn := true, mv := mv } ∧ t.tally = { s.tally with supply := true } ∧ roundsRun t = false ∧ t.power.warnAt = s.now
          ∧ (∃ e ∈ t.events.queue, e.code = evSupplyWarn ∧ e.time = s.now) ∧ (∀ u, (clocked t u).clock = (clocked s u).clock ∧ (clocked t u).volts = (clocked s u).volts)
          ∧ (∀ d, d < s.cfg.variant.coreDies → unitUp s (.core d) = true → (clocked s (.core d)).thermal = .normal → (clocked t (.core d)).target = 48)))
    ∧ (48000 ≤ mv → s.board.warn = true → Completes (.supplyWarnRelease mv) s (fun t =>
        t = { s with board := { s.board with warn := false, mv := mv % 65536 }, tally := { s.tally with supply := false } })))

/-- Power and boot (R434 to R440, R453, R454, R467 to R469). -/
def Obligations.RailsComeUpBootAndGo : Prop :=
  let dark (s t : State) (q : Seq) : Prop := t.pkg.st = .off ∧ t.board.rails = false ∧ t.board.seq = q ∧ t.mem = [] ∧ t.coh = {} ∧ t.beds = [] ∧ t.rakes = []
    ∧ t.tide = {} ∧ t.qps = [] ∧ t.boxes = [] ∧ t.tally = {} ∧ t.events = {} ∧ t.trust.flash = s.trust.flash ∧ t.trust.ctrCrust = s.trust.ctrCrust
    ∧ t.trust.ctrLiquor = s.trust.ctrLiquor ∧ t.trust.ctrSite = s.trust.ctrSite ∧ t.trust.repair = s.trust.repair ∧ t.trust.boots = s.trust.boots
  let needed : List Nat := [1, 0x10, 0x12, 2]
  let bootable (s : State) : Prop := (s.trust.puf0 = true ∨ s.trust.puf1 = true) ∧ ∀ k ∈ needed, (goodImage s k 0).isSome = true ∨ (goodImage s k 1).isSome = true
  let booted (s t : State) (cold : Bool) : Prop :=
    (bootable s → t.pkg.st = .ready ∧ t.pkg.bootStep = 11) ∧ (¬ bootable s → t.pkg.st = .fault)
      ∧ t.trust.boots = s.trust.boots + (if cold then 1 else 0) ∧ t.trust.flash = s.trust.flash ∧ s.trust.ctrLiquor ≤ t.trust.ctrLiquor
      ∧ s.trust.ctrCrust ≤ t.trust.ctrCrust ∧ s.trust.ctrSite ≤ t.trust.ctrSite ∧ t.board.bootFail = (!s.trust.puf0 && !s.trust.puf1)
      ∧ t.board.rails = true
  (∀ s : State, s.board.rails = true →
    (s.board.pwrEn = true → Completes .powerDown s (fun t => dark s t .off ∧ t.board.pwrEn = false ∧ t.board.trip = false ∧ t.board.rail = 0))
    ∧ Completes .thermtrip s (fun t => dark s t .thermtrip ∧ t.board.trip = true)
    ∧ Completes .coolantLoss s (fun t => dark s t .off ∧ t.board.coolantOk = false)
    ∧ (∀ mv, 63000 < mv → Completes (.inputOvervoltage mv) s (fun t => dark s t .off))
    ∧ (∀ mv, mv < 43000 → Completes (.moduleReset mv) s (fun t => dark s t .off))
    ∧ (∀ mv, mv ≤ 63000 → Completes (.inputOvervoltage mv) s (fun t => t = s)) ∧ (∀ mv, 43000 ≤ mv → Completes (.moduleReset mv) s (fun t => t = s))
    ∧ (∀ k, k < 4 → s.power.converters ≠ 4 → Completes (.converterLost k) s (fun t => dark s t .railFault ∧ t.board.rail = 36 ∧ t.board.railCause = 3))
    ∧ (∀ k, k < 4 → s.power.converters = 4 → Completes (.converterLost k) s (fun t => t.power = { s.power with converters := 3 } ∧ Logs s t evConverterLost
        ∧ (∃ n, t.trust.repair = s.trust.repair ++ [(n, leBytes 1 10 ++ leBytes 1 k)]) ∧ t = { s with power := t.power, events := t.events, trust := t.trust }))
    ∧ (∀ r, railFitted s r = true → railNumber r ≠ 36 → railNumber r ∉ s.power.railsOff → let n := railNumber r; let used := tget 0 s.power.phases n + 1
        (used ≤ 2 → Completes (.phaseRetired r) s (fun t => tget 0 t.power.phases n = used ∧ Logs s t evPhaseRetired ∧ (∃ k, t.trust.repair = s.trust.repair ++ [(k, leBytes 1 7 ++ leBytes 1 n)])
          ∧ t = { s with power := { s.power with phases := t.power.phases }, events := t.events, trust := t.trust }))
        ∧ (2 < used → railDie r ≠ dieModule → Completes (.phaseRetired r) s (fun t => tget 0 t.power.phases n = used ∧ t.power.railsOff = s.power.railsOff ++ [n]
          ∧ t.coh.declared = s.coh.declared ++ [(6, 0xFF, railDie r)] ∧ t.board = s.board ∧ t.pkg = s.pkg))
        ∧ (2 < used → railDie r = dieModule → Completes (.phaseRetired r) s (fun t => t.pkg.st = .off ∧ t.board.rails = false ∧ t.board.seq = .railFault
          ∧ t.board.rail = n ∧ t.board.railCause = 2 ∧ t.trust.repair.length = s.trust.repair.length + 1))))
  ∧ (∀ s : State, s.board.rails = false →
    (∀ r, s.board.seq = .off → railFitted s r = true → Completes (.railPowerGoodTimeout r) s (fun t =>
        dark s t .railFault ∧ t.board.rail = railNumber r ∧ t.board.railCause = 1))
    ∧ (s.board.pwrEn = true → Completes .powerDown s (fun t => t.board.pwrEn = false ∧ t.board.seq = .off ∧ t.board.trip = false ∧ t.board.rail = 0
        ∧ t.board.fellAt = s.now ∧ t = { s with board := t.board }))
    ∧ Completes .thermtrip s (fun t => t = s)
    ∧ Completes .coolantLoss s (fun t => t = { s with board := { s.board with coolantOk := false, powerWait := none } })
    ∧ (∀ mv coolant resetN, s.board.pwrEn = false → s.board.seq = .off → 40000 ≤ mv → mv < 65536 →
      let sampled : Module := { s.board with hkOn := true, pwrEn := true, coolantOk := coolant, mv := mv, resetN := resetN }
      let at_ := max s.now (s.board.fellAt + 10000000)
      (mv < 50000 ∨ coolant = false → Completes (.powerUp mv coolant resetN) s (fun t => t = { s with now := at_, board := sampled }))
      ∧ (50000 ≤ mv → coolant = true → s.board.flashOp ≠ none → Completes (.powerUp mv coolant resetN) s (fun t =>
          t = { s with now := at_, board := { sampled with powerWait := some (mv, coolant, resetN) } }))
      ∧ (50000 ≤ mv → coolant = true → s.board.flashOp = none →
        (resetN = false → Completes (.powerUp mv coolant resetN) s (fun t => t.pkg.st = .crust ∧ t.board.rails = true ∧ t.board.seq = .on ∧ t.board.resetN = false
            ∧ t.mem = s.mem ∧ t.trust = s.trust ∧ t.now = at_))
        ∧ (resetN = true → Completes (.powerUp mv coolant resetN) s (fun t => booted s t true ∧ t.board.seq = .on ∧ at_ ≤ t.now ∧ t.now ≤ at_ + 40000000000
            ∧ (bootable s → goodImage s 3 0 = none → goodImage s 3 1 = none → t.mem = [])))))
    ∧ (∀ mv, 50000 ≤ mv → s.board.pwrEn = true → s.board.coolantOk = true → s.board.seq = .off → s.board.flashOp = none → s.board.resetN = true →
        Completes (.inputRestored mv) s (fun t => booted s t true))
    ∧ (s.board.resetN = false → Completes .pkgResetRelease s (fun t => t = { s with board := { s.board with resetN := true, taps := [], extest := false } })))
  ∧ (∀ s : State, s.board.rails = true →
    (s.board.resetN = false → Completes .pkgResetRelease s (fun t => booted s t true ∧ t.board.resetN = true))
    ∧ (s.board.resetN = true → Completes .warmReset s (fun t => booted s t false
        ∧ (bootable s → (s.power.railsOff = [] → t.tally.entries = s.tally.entries) ∧ t.tally.seqs = s.tally.seqs ∧ t.tally.replay = true ∧ t.tally.cause = 4 ∧ t.events.log = s.events.log
            ∧ (AllHome s → s.salter.movers = [] → s.agentIds = [] → goodImage s 3 0 = none → goodImage s 3 1 = none → s.cfg.bootBist = false → s.power.railsOff = [] → t.mem = s.mem)))))

/-- The board's side (R471, R505, R507 to R509, R514). -/
def Obligations.TheBoardServesFlashBusAndTaps : Prop :=
  let idle (s : State) : Prop := s.board.hkOn = true ∧ (s.board.seq = .off ∨ s.board.seq = .railFault ∨ s.board.seq = .thermtrip) ∧ s.board.flashOp = none
  let flashByte (s : State) (x : Nat) : Byte := tget 0xFF s.board.flash x
  (∀ s : State, ∀ i ∈ [(Instr.flashRead, 1), (.flashProgram, 2), (.flashErase, 3)],
    (s.board.hkOn = false → Completes i.1 s (fun t => t = s))
    ∧ (idle s → (i.2 = 1 ∨ s.cfg.protectedFlash = []) → Completes i.1 s (fun t => t = { s with board := { s.board with flashOp := some (i.2, s.board.flashAddr) } }))
    ∧ (s.board.hkOn = true → (s.board.seq = .on ∨ s.board.flashOp ≠ none) → Completes i.1 s (fun t => t = { s with board := { s.board with flashRefused := true } })))
  ∧ (∀ (s : State) (a n x : Nat), idle s → (a, n) ∈ s.cfg.protectedFlash → a ≤ x → x < a + n →
      (s.board.flashAddr / 256 = x / 256 → Completes .flashProgram s (fun t => t = { s with board := { s.board with flashRefused := true } }))
      ∧ (s.board.flashAddr / 65536 = x / 65536 → Completes .flashErase s (fun t => t = { s with board := { s.board with flashRefused := true } })))
  ∧ (∀ (s : State) (op a : Nat), s.board.flashOp = some (op, a) → s.board.powerWait = none →
    let done (t : State) : Prop := t.board.flashOp = none ∧ t.board.flashError = s.board.flashError
      ∧ t = { s with board := { s.board with flashOp := none, flash := t.board.flash, flashData := t.board.flashData } }
    (op = 1 → Completes (.flashOperationEnd false []) s (fun t => done t ∧ t.board.flash = s.board.flash
        ∧ ∀ o, o < 256 → tget 0 t.board.flashData o = flashByte s (a / 256 * 256 + o)))
    ∧ (op = 2 → Completes (.flashOperationEnd false []) s (fun t => done t ∧ t.board.flashData = s.board.flashData
        ∧ ∀ x, flashByte t x = if x / 256 = a / 256 then tget 0 s.board.flashData (x % 256) else flashByte s x))
    ∧ (op = 3 → tableOk 0xFF s.board.flash = true → Completes (.flashOperationEnd false []) s (fun t => done t ∧ t.board.flashData = s.board.flashData
        ∧ ∀ x, flashByte t x = if x / 65536 = a / 65536 then 0xFF else flashByte s x))
    ∧ (∀ bytes, op = 1 ∨ op = 2 ∨ op = 3 → Completes (.flashOperationEnd true bytes) s (fun t => t.board.flashError = true ∧ t.board.flashOp = none
        ∧ ∀ x, (if op = 1 then True else if op = 2 then x / 256 ≠ a / 256 else x / 65536 ≠ a / 65536) → flashByte t x = flashByte s x)))
  ∧ (∀ (off n : Nat) (v : Dword) (s : State),
    (s.board.hkOn = false → ∀ i ∈ [Instr.registerWrite (.hk off n) v, .rcRegisterRead (.hk off n)], Completes i s (fun t => t = s))
    ∧ (s.board.hkOn = true →
      (n ≠ 4 → Completes (.registerWrite (.hk off n) v) s (fun t => t = s) ∧ Completes (.rcRegisterRead (.hk off n)) s (fun t => t = { s with bus := 0, free := t.free }))
      ∧ Completes (.registerWrite (.hk 0x20 4) v) s (fun t => t = { s with board := { s.board with flashAddr := v.toNat % 2 ^ 32 } })
      ∧ Completes (.rcRegisterRead (.hk 0x20 4)) s (fun t => t = { s with bus := BitVec.ofNat 64 (s.board.flashAddr % 2 ^ 32), free := t.free })
      ∧ Completes (.rcRegisterRead (.hk 0xC 4)) s (fun t => t = { s with bus := BitVec.ofNat 64 (s.board.mv % 65536), free := t.free })))
  ∧ (∀ (s : State) (b : BitVec 7), ∀ i ∈ [Instr.setdasa b, .entdaa b],
    (s.board.hkOn = true → s.board.dynAddr = none → Completes i s (fun t => t = { s with board := { s.board with dynAddr := some b } }))
    ∧ (s.board.hkOn = false ∨ s.board.dynAddr ≠ none → Completes i s (fun t => t = s)))
  ∧ (∀ (s : State) (mv : Nat),
    (40000 ≤ mv → s.board.hkOn = false → Completes (.housekeepingSupplyOn mv) s (fun t => t = { s with board := { s.board with hkOn := true, mv := mv % 65536 } }))
    ∧ (mv < 40000 → s.board.hkOn = true → Completes (.housekeepingSupplyOff mv) s (fun t => t.board.hkOn = false ∧ t.board.flashOp = none ∧ t.board.dynAddr = none
        ∧ t.board.flashAddr = 0 ∧ t.board.flashData = [] ∧ t.board.flash = s.board.flash ∧ t.board.rails = false
        ∧ (s.board.rails = true → t.pkg.st = .off) ∧ (s.board.rails = false → t = { s with board := t.board }))))
  ∧ (∀ (s : State) (k : Nat) (x : TapInstr),
    (s.board.rails = true → s.board.resetN = false → k < tapCount s.cfg.variant → Completes (.jtagTapInstruction k x) s (fun t =>
      tget .bypass t.board.taps k = x ∧ (∀ j, j ≠ k → tget .bypass t.board.taps j = tget .bypass s.board.taps j)
        ∧ t.board.extest = (s.board.extest || decide (x = .extest)) ∧ t = { s with board := { s.board with taps := t.board.taps, extest := t.board.extest } }))
    ∧ (s.board.rails = false ∨ s.board.resetN = true ∨ tapCount s.cfg.variant ≤ k → Completes (.jtagTapInstruction k x) s (fun t => t = s)))

/-- The CAPS response (R399). -/
def Obligations.TheCapsResponseIs128Bytes : Prop :=
  let count (v : Variant) (kind : Nat) : Nat := match v with
    | .a20 => [20, 8, 4, 6].getD kind 0
    | .a16 => [16, 6, 4, 4].getD kind 0
    | .a12 => [12, 4, 2, 4].getD kind 0
  let cores (v : Variant) : Nat := match v with
    | .a20 => 192
    | .a16 => 144
    | .a12 => 96
  let state (u : UnitState) : Nat := match u with
    | .online => 0
    | .offline => 1
    | .test => 2
    | .failed => 3
  ∀ (s : State) (box : Nat), Whole s box 1 0 [] → s.pkg.st ≠ .crust → Completes (.caps box) s (fun t => ∃ resp : List Byte,
    let num (o n : Nat) : Nat := leNat ((resp.drop o).take n)
    let v := s.cfg.variant
    let unit (o kind i : Nat) (u : UnitState) : Prop := num (o + i) 1 = if i < count v kind then state u else 0xFF
    Handed (popped s) t box 0 0 false resp ∧ resp.length = 128
      ∧ (∀ k, k < 4 → num k 1 = count v k) ∧ num 4 1 = 2 ∧ num 5 1 = (if v = .a12 then 0 else 7)
      ∧ num 6 2 = ((List.range (cores v)).filter (fun n => s.hasCore n)).length ∧ num 8 8 = s.cfg.identity.toNat
      ∧ num 0x10 8 = s.salter.dirPa % 2 ^ 64
      ∧ num 0x18 8 = ((List.range (count v 1)).filter (fun d => !s.isLost (dieOfCore d))).length * 2 ^ 38
      ∧ num 0x20 4 = ((tget none s.trust.running 1).map Image.version).getD 0 % 2 ^ 32
      ∧ num 0x24 4 = ((tget none s.trust.running 2).map Image.version).getD 0 % 2 ^ 32
      ∧ num 0x28 1 = s.salter.active % 256 ∧ num 0x29 1 = s.cfg.stepping % 256 ∧ num 0x2A 22 = 0
      ∧ (∀ i, i < 20 → unit 0x40 0 i (s.pan i).state) ∧ (∀ i, i < 8 → unit 0x54 1 i (s.coreDie i).state)
      ∧ (∀ i, i < 4 → unit 0x5C 2 i (s.ioDie i).state) ∧ (∀ i, i < 6 → unit 0x60 3 i (s.stkState i))
      ∧ (∀ c, c < 2 → num (0x66 + c) 1 = state (s.ctlState c) + if s.salter.active = c then 4 else 0)
      ∧ ∀ n, n < 192 → (resp.getD (0x68 + n / 8) 0).getLsbD (n % 8) = (decide (n < cores v) && !s.hasCore n))
/-- The checks before a command's own, and writes by a requester (R384 to R386, R393 to R398). -/
def Obligations.CommandsAreCheckedInOrder : Prop :=
  let plan : List PkgState × List PkgState := ([.crust, .liquor, .draining], [.maint, .fault])
  let work : List PkgState × List PkgState := ([.crust, .liquor, .draining], [.fault])
  let keep : List PkgState × List PkgState := ([.crust, .liquor, .draining], [])
  let all : List PkgState × List PkgState := ([], [])
  -- the command, its code, whether host, remote and tray mailboxes may send it, its busy and wrong states, length, reserved ranges
  let rows (box : Nat) (b : Mailbox) : List (Instr × Nat × (Bool × Bool × Bool) × (List PkgState × List PkgState) × Nat × List (Nat × Nat)) :=
    [(.caps box, 0x01, (true, true, true), ([.crust], []), 0, []),
     (match b.field 0 1 with
      | 1 => .stateEnterMaint box
      | 2 => .stateLeaveMaint box
      | 3 => .stateReleasePortHold box
      | _ => .stateQuery box, 0x02, (true, true, true), all, 8, [(1, 7)]),
     (.planLoad box, 0x10, (true, true, false), plan, 24, [(1, 1)]), (.planUnload box, 0x11, (true, true, false), work, 8, [(1, 7)]),
     (.tideStart box, 0x12, (true, true, false), plan, 0x20 + 32 * b.field 1 1, [(3, 5), (0x14, 4)]),
     (.tideStop box, 0x13, (true, true, false), plan, 0, []),
     (.agentAdmit box, 0x20, (true, true, false), work, 0x10 + 16 * b.field 6 1, [(7, 1), (12, 4)]),
     (.agentEvict box, 0x21, (true, true, false), work, 8, [(4, 4)]), (.agentPrefetch box, 0x22, (true, true, false), work, 8, [(6, 2)]),
     (match b.field 4 1 with
      | 1 => .agentAdviseGrow box
      | 2 => .agentAdviseRelease box
      | _ => .agentAdviseSpill box, 0x23, (true, true, false), work, 24, [(5, 3)]),
     (.regionRegister box, 0x30, (true, true, false), work, 32, [(11, 5)]), (.regionDeregister box, 0x31, (true, true, false), keep, 8, [(4, 4)]),
     (.panOffline box, 0x40, (true, true, true), work, 8, [(2, 6)]), (.panOnline box, 0x41, (true, true, true), work, 8, [(1, 7)]),
     (.bistRun box, 0x50, (decide (b.field 0 1 = 0 ∨ 3 < b.field 0 1), true, true), work, 8, [(3, 5)]),
     (.fwStage box, 0x60, (true, true, true), keep, 16, [(13, 3)]), (.fwSwitch box, 0x61, (true, true, true), work, 0, []),
     (.attest box, 0x70, (true, true, true), all, 32, []), (.windowSet box, 0x80, (false, false, true), keep, 16, [(13, 3)])]
  let codes : List Nat := [0x01, 0x02, 0x10, 0x11, 0x12, 0x13, 0x20, 0x21, 0x22, 0x23, 0x30, 0x31, 0x40, 0x41, 0x50, 0x60, 0x61, 0x70, 0x80, 0xF0]
  (∀ (s : State) (box : Nat), box ≤ 72 → ∀ r ∈ rows box (s.box box),
    (¬ Asked s box r.2.1 → Completes r.1 s (fun t => t = s))
    ∧ (Asked s box r.2.1 →
        (¬ maySend box r.2.2.1.1 r.2.2.1.2.1 r.2.2.1.2.2 → Completes r.1 s (fun t => Refused s t box 0x105 0))
        ∧ (maySend box r.2.2.1.1 r.2.2.1.2.1 r.2.2.1.2.2 →
            (s.pkg.st ∈ r.2.2.2.1.1 → Completes r.1 s (fun t => Refused s t box 0x200 0))
            ∧ (s.pkg.st ∈ r.2.2.2.1.2 → Completes r.1 s (fun t => Refused s t box 0x103 0))
            ∧ (s.pkg.st ∉ r.2.2.2.1.1 → s.pkg.st ∉ r.2.2.2.1.2 →
                ((s.box box).length.toNat ≠ r.2.2.2.2.1 → Completes r.1 s (fun t => Refused s t box 0x101 0xFFFFFFFF))
                ∧ ((s.box box).length.toNat = r.2.2.2.2.1 → (∃ x ∈ r.2.2.2.2.2, ∃ y ∈ (s.box box).bytes x.1 x.2, y ≠ 0) →
                    Completes r.1 s (fun t => ∃ o, Refused s t box 0x101 o ∧ ∃ x ∈ r.2.2.2.2.2, o ≤ x.1))))))
  ∧ (∀ (s : State) (box : Nat), ((s.box box).command.toNat ∉ codes → Asked s box (s.box box).command.toNat → Completes (.badCommand box) s (fun t => Refused s t box 0x100 0))
    ∧ ((s.box box).command.toNat ∈ codes ∨ ¬ Asked s box (s.box box).command.toNat → Completes (.badCommand box) s (fun t => t = s)))
  ∧ (∀ (s : State) (box off : Nat) (v : Dword),
    let b := s.box box
    let free : Prop := (box < 64 ∨ box = 72) ∧ s.pkg.st ≠ .off ∧ b.owner = false ∧ b.held = false
    let only (t : State) : Prop := (∀ j, j ≠ box → t.box j = s.box j) ∧ t = { s with boxes := t.boxes, salter := { s.salter with latched := t.salter.latched } }
    let does (P : State → Prop) : Prop := Completes (.mboxRequesterWrite box off v) s P
    ((64 ≤ box ∧ box ≠ 72) ∨ s.pkg.st = .off → does (fun t => t = s))
    ∧ ((box < 64 ∨ box = 72) → s.pkg.st ≠ .off → (b.owner = true ∨ b.held = true) → does (fun t =>
        t = { s with salter := { s.salter with ignored := satAdd 32 s.salter.ignored 1 } }))
    ∧ (free → off = 0 → does (fun t => only t
        ∧ t.box box = { b with owner := v.getLsbD 0, seq := v.extractLsb' 1 15, command := v.extractLsb' 16 16, length := v.extractLsb' 32 16 }
        ∧ t.salter.latched = if v.getLsbD 0 then s.salter.latched ++ [box] else s.salter.latched))
    ∧ (free → off = 0x10 → does (fun t => only t ∧ t.box box = { b with tag := v } ∧ t.salter.latched = s.salter.latched))
    ∧ (free → ∀ k, k < 504 → off = 0x40 + 8 * k → does (fun t => only t ∧ t.box box = { b with payload := (t.box box).payload }
        ∧ t.salter.latched = s.salter.latched ∧ (t.box box).field (8 * k) 8 = v.toNat
        ∧ ∀ o, o < 8 * k ∨ 8 * k + 8 ≤ o → tget 0 (t.box box).payload o = tget 0 b.payload o))
    ∧ (free → off ≠ 0 → off ≠ 0x10 → (off < 0x40 ∨ 0x1000 ≤ off ∨ off % 8 ≠ 0) → does (fun t => t = s)))
/-- STATE, ATTEST, WINDOW_SET and STOP_ALL (R391, R398, R401 to R407, R473). -/
def Obligations.StateAttestWindowAndStopAll : Prop :=
  let resp (u : State) : List Byte := leBytes 1 u.pkg.st.code ++ leBytes 1 (boolN u.plan0.isSome + 2 * boolN u.plan1.isSome)
    ++ leBytes 1 (u.tide.running.getD 0xFF) ++ leBytes 1 (boolN u.tide.start.isSome + 2 * boolN u.salter.heldPorts + 4 * boolN u.trust.staged.isSome)
    ++ leBytes 4 0 ++ leBytes 8 u.tide.number ++ leBytes 8 u.now
  let into (s : State) (p : PkgState) : State := { popped s with pkg := { s.pkg with st := p } }
  let testing (s : State) : Prop := ∃ e ∈ s.salter.deferred, ∃ k i x u, e.2 = .bistRun k i x u
  let stops (s t : State) (flag : Bool) : Prop := t.salter.stops = (s.salter.stops + 1) % 2 ^ 32 ∧ t.salter.lastStop = s.now % 2 ^ 64
    ∧ t.salter.heldPorts = (s.salter.heldPorts || flag)
  let answer (s : State) (stopped : Bool) : List Byte := leBytes 8 s.tide.lastTide ++ leBytes 4 s.tide.lastStep ++ leBytes 1 (boolN stopped)
  (∀ (s : State) (box : Nat), Whole s box 2 8 [(1, 7)] →
    let op := (s.box box).field 0 1
    (op = 0 → Completes (.stateQuery box) s (fun t => Handed (popped s) t box 0 0 false (resp s)))
    ∧ (3 < op → Completes (.stateQuery box) s (fun t => Refused s t box 0x101 0))
    ∧ (op = 1 → s.pkg.st = .ready → s.tide.start = none → Completes (.stateEnterMaint box) s (fun t => Handed (into s .maint) t box 0 0 false (resp (into s .maint))))
    ∧ (op = 1 → (s.pkg.st ≠ .ready ∨ s.tide.start ≠ none) → Completes (.stateEnterMaint box) s (fun t => Refused s t box 0x103 0))
    ∧ (op = 2 → s.pkg.st = .maint → ¬ testing s → Completes (.stateLeaveMaint box) s (fun t => Handed (into s .ready) t box 0 0 false (resp (into s .ready))))
    ∧ (op = 2 → s.pkg.st = .maint → testing s → Completes (.stateLeaveMaint box) s (fun t => Refused s t box 0x200 0))
    ∧ (op = 2 → s.pkg.st ≠ .maint → Completes (.stateLeaveMaint box) s (fun t => Refused s t box 0x103 0))
    ∧ (op = 3 → s.salter.heldPorts = false → Completes (.stateReleasePortHold box) s (fun t => Handed (popped s) t box 0 0 false (resp s)))
    ∧ (op = 3 → s.salter.heldPorts = true → s.qps = [] → let u := { popped s with salter := { (popped s).salter with heldPorts := false } }
        Completes (.stateReleasePortHold box) s (fun t => Handed u t box 0 0 false (resp u)))
    ∧ (op = 3 → Completes (.stateReleasePortHold box) s (fun t => t.salter.heldPorts = false ∧ (t.box box).status = 0)))
  ∧ (∀ (s : State) (box : Nat), Whole s box 0x70 32 [] → Completes (.attest box) s (fun t => ∃ r : List Byte,
      let num (o n : Nat) : Nat := leNat ((r.drop o).take n)
      Handed (popped s) t box 0 0 false r ∧ r.length = 1008 ∧ num 0 4 = 0x54505241 ∧ num 4 2 = 1 ∧ num 6 1 = s.pkg.st.code ∧ num 7 1 = s.salter.active % 256
        ∧ num 8 8 = s.cfg.identity.toNat ∧ num 0x10 8 = (if s.pkg.st = .crust then 0 else s.now % 2 ^ 64)
        ∧ (r.drop 0x18).take 32 = (s.box box).bytes 0 32 ∧ num 0x38 4 = s.trust.boots % 2 ^ 32 ∧ num 0x60 32 = 0
        ∧ num 0x54 4 = s.trust.ctrCrust % 2 ^ 32 ∧ num 0x58 4 = s.trust.ctrLiquor % 2 ^ 32 ∧ num 0x5C 4 = s.trust.ctrSite % 2 ^ 32
        ∧ (∀ i, i < 8 → (r.drop (0x80 + 48 * i)).take 48 = mBytes s i)))
  ∧ (∀ s : State, Whole s 72 0x80 16 [(13, 3)] → s.pkg.st ∈ [PkgState.ready, .serving, .maint, .fault] →
    let b := s.box 72
    let base := b.field 0 8
    let len := b.field 8 4
    let mode := b.field 12 1
    base % 65536 = 0 → len % 65536 = 0 → 65536 ≤ len → len ≤ 64 * 2 ^ 20 → mode ≤ 2 →
    let normal : Prop := base + len ≤ 2 ^ 48 ∧ ∀ i, i < len / 4096 → (place s (base + 4096 * i)).normal = true
    let granted : Prop := ∃ r ∈ s.cfg.windowPolicy, r.base ≤ base ∧ base + len ≤ r.base + r.len ∧ (r.write = true ∨ mode ≠ 2)
    (normal → granted → Completes (.windowSet 72) s (fun t =>
      Handed { popped s with salter := { (popped s).salter with winBase := base, winLen := len, winMode := mode } } t 72 0 0 false (b.bytes 0 16)))
    ∧ (normal → ¬ granted → Completes (.windowSet 72) s (fun t => Refused s t 72 0x105 0))
    ∧ (¬ normal → Completes (.windowSet 72) s (fun t => Refused s t 72 0x101 0)))
  ∧ (∀ (s : State) (box : Nat), answers s box = true → box ∈ s.salter.latched → (s.box box).command = 0xF0 → (s.box box).length = 8 →
    (∀ x ∈ (s.box box).bytes 1 7, x = 0) → (s.box box).field 0 1 ≤ 1 →
    let flag := decide ((s.box box).field 0 1 = 1)
    let told (t : State) (stopped : Bool) : Prop := (t.box box).status = 0 ∧ (t.box box).owner = false ∧ (t.box box).length = 13
      ∧ (t.box box).bytes 0 13 = answer t stopped ∧ t.salter.latched = s.salter.latched.filter (fun m => decide (m ≠ box))
    let quiet (stop : Bool) : State := { s with
      pkg := { s.pkg with stopInDrain := s.pkg.stopInDrain || stop },
      salter := { s.salter with latched := s.salter.latched.filter (fun m => decide (m ≠ box)), stops := (s.salter.stops + 1) % 2 ^ 32,
                                lastStop := s.now % 2 ^ 64, heldPorts := s.salter.heldPorts || flag } }
    (s.pkg.st ≠ .ready → s.pkg.st ≠ .serving → Completes (.stopAll (.mailbox box)) s (fun t =>
      Handed (quiet (decide (s.pkg.st = .draining))) t box 0 0 false (answer s false)))
    ∧ (s.pkg.st = .ready ∨ s.pkg.st = .serving → (s.tide.cur = none ∨ s.curPlan ≠ none) → Completes (.stopAll (.mailbox box)) s (fun t =>
        told t s.tide.running.isSome ∧ stops s t flag ∧ t.pkg.st = .ready ∧ t.tide.running = none ∧ t.tide.start = none ∧ t.tide.cur = none
          ∧ t.plan0 = s.plan0 ∧ t.plan1 = s.plan1 ∧ t.tide.lastTide = s.tide.lastTide ∧ (∀ b, b ≠ box → (b, Deferred.tideStop) ∈ s.salter.deferred → (∀ p, ∀ m ∈ s.mover p, m.origin ≠ .mailbox b) → (t.box b).status = 0)
          ∧ (∀ e ∈ t.salter.deferred, e.2 ≠ .tideStop))))
  ∧ (∀ (m : ControlMsg) (s : State), (s.port m.port).link = true → m.type = 2 → controlOk s m = true → bodyCommand m.body = 0xF0 → bodyLength m.body = 8 → 72 ≤ m.body.length →
    (∀ x ∈ (m.body.drop 0x41).take 7, x = 0) → leField m.body 0x40 1 ≤ 1 → s.pkg.st ≠ .ready → s.pkg.st ≠ .serving →
    let k := 64 + m.mailbox
    let b := s.box k
    let flag := decide (leField m.body 0x40 1 = 1)
    ∀ i ∈ [Instr.stopAll (.engine m), .mboxRequest m],
    (b.owner = false → b.held = false → Completes i s (fun t => stops s t flag ∧ (t.box k).status = 0 ∧ (t.box k).owner = false
        ∧ (t.box k).bytes 0 13 = answer s false ∧ (t.box k).seq.toNat = bodySeq m.body % 2 ^ 15 ∧ (∀ j, j ≠ k → t.box j = s.box j)))
    ∧ ((b.owner = true ∨ b.held = true) → s.cfg.destinations.any (fun d => d.ident = m.sender) = false → Completes i s (fun t =>
        stops s t flag ∧ t.boxes = s.boxes ∧ ∃ n, t.out = .mboxResponse k m.sender m.keyIndex n (headerWith m.body 0) :: s.out)))

/-- Plans (R41, R46 to R55). -/
def Obligations.PlansAreLoadedAdmittedStartedAndStopped : Prop :=
  let loading (s : State) (slot : Nat) : Prop := ∃ e ∈ s.salter.deferred, ∃ a l p r, e.2 = .planLoad slot a l p r
  let root (s : State) (slot p : Nat) : Option (Nat × Nat) := if slot = 0 then (s.pan p).root0 else (s.pan p).root1
  (∀ (s : State) (box : Nat), box < 72 → Whole s box 0x10 24 [(1, 1)] → s.pkg.st = .ready ∨ s.pkg.st = .serving →
    let b := s.box box
    let slot := b.field 0 1
    let len := b.field 4 4
    let pa := b.field 8 8
    let fitting : Prop := 0 < len ∧ pa + len ≤ 2 ^ 48 ∧ ∀ x, pa / 4096 ≤ x → x * 4096 < pa + len → (place s (x * 4096)).dram = true
    slot ≤ 1 → len ≤ 64 * 2 ^ 20 → pa % 64 = 0 →
    (loading s slot → Completes (.planLoad box) s (fun t => Refused s t box 0x200 0))
    ∧ (¬ loading s slot → s.plan slot ≠ none → Completes (.planLoad box) s (fun t => Refused s t box 0x103 0))
    ∧ (¬ loading s slot → s.plan slot = none → ¬ fitting → Completes (.planLoad box) s (fun t => Refused s t box 0x101 8))
    ∧ (¬ loading s slot → s.plan slot = none → fitting → rootOk s (b.field 16 8) = false → Completes (.planLoad box) s (fun t => Refused s t box 0x101 0x10))
    ∧ (¬ loading s slot → s.plan slot = none → fitting → rootOk s (b.field 16 8) = true → Completes (.planLoad box) s (fun t =>
        Accepted (popped s) t box (.planLoad slot (b.field 2 2) len pa (b.field 16 8)))))
  ∧ (∀ (s : State) (box slot asid len pa r : Nat), deferredOf s box = some (.planLoad slot asid len pa r) → slot ≤ 1 →
    let image := physBytes s pa len
    let fails (st off : Nat) (im : Bool) (resp : List Byte) : Prop := Completes (.planLoadFinal box) s (fun t => Handed { ended s box with stk := t.stk } t box st off im resp)
    (physPoisoned s pa len = true → fails 0x300 0 false [])
    ∧ (physPoisoned s pa len = false →
        (leField image 0 4 ≠ 0x4E414C50 → fails 0x101 0 true [])
        ∧ (∀ o, imageFault image len = some o → fails 0x101 o true [])
        ∧ (imageFault image len = none →
            leField image 0 4 = 0x4E414C50 ∧ leField image 4 2 = 1 ∧ leField image 0x28 8 = len ∧ leField image 0xFC 4 = crc32c (overlay image 0xFC [0, 0, 0, 0])
              ∧ 250 ≤ leField image 0x10 4 ∧ leField image 0x10 4 ≤ 20000 ∧ 1 ≤ leField image 6 2 ∧ leField image 6 2 ≤ 20)
        ∧ (imageFault image len = none → ∀ f, admission s slot (planOf image r asid) = .error f → fails 0x104 0 false f.bytes)
        ∧ (imageFault image len = none → ∀ pl, admission s slot (planOf image r asid) = .ok pl → Completes (.planLoadFinal box) s (fun t =>
            t.plan slot = some pl ∧ t.plan (1 - slot) = s.plan (1 - slot) ∧ (∀ p ∈ pl.binding, root t slot p = some (r, asid))
              ∧ (∀ p, p ∉ pl.binding → root t slot p = root s slot p) ∧ (∀ p, root t (1 - slot) p = root s (1 - slot) p)
              ∧ mBytes t 6 = sha384 (mBytes s 6 ++ sha384 (image.take 256)) ∧ (∀ m, m ≠ 6 → mBytes t m = mBytes s m)
              ∧ (t.box box).status = 0 ∧ (t.box box).held = false ∧ (t.box box).length = 56 ∧ (t.box box).field 0 2 = 0 ∧ (t.box box).field 2 4 = 0xFFFFFFFF
              ∧ (∀ j, j < 20 → (t.box box).field (0x18 + j) 1 = pl.binding.getD j 0xFF % 256)
              ∧ (t.box box).field 0x2C 4 = pl.floorPower % 2 ^ 32 ∧ (t.box box).field 0x30 8 = pl.stockpileBase % 2 ^ 64
              ∧ t.salter.deferred = s.salter.deferred.filter (fun e => decide (e.1 ≠ box))
              ∧ (AllHome s → pl.stockpileBase % 64 = 0 → ∀ x, memByte t x =
                  if pl.stockpileBase ≤ x ∧ x < pl.stockpileBase + pl.stockpileLen then 0 else memByte s x)))))
  ∧ (∀ (s : State) (slot : Nat) (pl q : Plan), admission s slot pl = .ok q →
    let eligible (p : Nat) : Bool := s.onlinePan p && !(s.pan p).held
    let other := ((s.plan (1 - slot)).map Plan.binding).getD []
    let spare := ((List.range s.cfg.variant.pans).filter (fun p => eligible p && !q.binding.contains p && !other.contains p)).length
    let ns := pl.periodUs * 950
    q = { pl with binding := q.binding, floorPower := q.floorPower, stockpileBase := q.stockpileBase, stockpileLen := q.stockpileLen }
      ∧ q.binding.length = pl.pans.length ∧ q.binding.Nodup ∧ (∀ p ∈ q.binding, p < s.cfg.variant.pans ∧ eligible p = true)
      ∧ pl.reserve ≤ spare ∧ (∀ o, s.plan (1 - slot) = some o → o.reserve ≤ spare)
      ∧ (∀ x ∈ pl.pans, ∀ b ∈ x.beds, b.worstCycles * 10 ≤ ns * 16 ∧ b.rakes ≤ 48 ∧ b.blockRakes ≤ 32 ∧ b.regfile ≤ 256 * 2 ^ 10
          ∧ b.scratch ≤ 4 * 2 ^ 20 ∧ b.accum ≤ 512 * 2 ^ 10)
      ∧ (∀ j x, pl.pans[j]? = some x → x.brineBytes ≤ freeBrine s (q.binding.getD j 0) ∧ x.brineTraffic ≤ ns * 3200 ∧ x.flumeIn ≤ ns * 1000 ∧ x.flumeOut ≤ ns * 1000)
      ∧ (∀ out, ((pl.slots.filter (fun k => k.output = out)).map IoSlot.bytes).sum ≤ s.cfg.variant.ports * 200 * ns)
      ∧ pl.stockpileBytes ≤ q.stockpileLen ∧ q.stockpileLen < pl.stockpileBytes + 2 * 2 ^ 20 ∧ q.stockpileLen % (2 * 2 ^ 20) = 0
      ∧ (q.stockpileLen = 0 → q.stockpileBase = 0) ∧ (q.stockpileLen ≠ 0 → ∃ x ∈ poolRanges s slot, q.stockpileBase = x.1 ∧ q.stockpileLen ≤ x.2)
      ∧ q.floorPower ≤ s.power.cap * 1000)
  ∧ (∀ (s : State) (box : Nat), box < 72 → Whole s box 0x11 8 [(1, 7)] → s.pkg.st ∈ [PkgState.ready, .serving, .maint] →
    let slot := (s.box box).field 0 1
    let waits : Prop := s.tide.running = some slot ∨ (∃ x, s.tide.start = some x ∧ x.slot = slot) ∨ (s.stepOpen = true ∧ ∃ c, s.tide.cur = some c ∧ c.slot = slot)
    slot ≤ 1 →
    (loading s slot → Completes (.planUnload box) s (fun t => Refused s t box 0x200 0))
    ∧ (¬ loading s slot → (s.plan slot = none ∨ waits) → Completes (.planUnload box) s (fun t => Refused s t box 0x103 0))
    ∧ (¬ loading s slot → ∀ pl, s.plan slot = some pl → ¬ waits → Completes (.planUnload box) s (fun t =>
        t.plan slot = none ∧ (∀ p ∈ pl.binding, root t slot p = none) ∧ (∀ p, p ∉ pl.binding → t.pan p = s.pan p)
          ∧ (∀ p, root t (1 - slot) p = root s (1 - slot) p)
          ∧ Handed { popped s with plan0 := if slot = 0 then none else s.plan0, plan1 := if slot = 0 then s.plan1 else none, pans := t.pans,
                                   power := { s.power with raised := t.power.raised } } t box 0 0 false [])))
  ∧ (∀ (s : State) (box : Nat) (pl : Plan), box < 72 → let b := s.box box
    let n := b.field 1 1
    Whole s box 0x12 (0x20 + 32 * n) [(3, 5), (0x14, 4)] → s.pkg.st = .ready ∨ s.pkg.st = .serving →
    let slot := b.field 0 1
    let own := b.field 2 1
    let o (i : Nat) : Nat := 0x20 + 32 * i
    let member (i : Nat) : Member := { ident := BitVec.ofNat 64 (b.field (o i) 8), ip := BitVec.ofNat 128 (b.field (o i + 8) 16), keyIndex := b.field (o i + 0x18) 1,
                                       ipv6 := decide (b.field (o i + 0x19) 1 = 1) }
    let at0 := b.field 8 8 * 10 ^ 9 + b.field 0x10 4 + b.field 0x18 8 * pl.periodUs * 1000
    let e := s.tide.epochSec * 10 ^ 9 + s.tide.epochNs
    slot ≤ 1 → 1 ≤ n → n ≤ 64 → b.field 8 8 < 2 ^ 48 → b.field 0x10 4 < 10 ^ 9 →
    (∀ i, i < n → b.field (o i + 0x18) 1 ≤ 15 ∧ b.field (o i + 0x19) 1 ≤ 1 ∧ b.field (o i + 0x1A) 6 = 0) →
    let window : Prop := s.now + 10 ^ 6 ≤ at0 ∧ at0 ≤ s.now + 60 * 10 ^ 9
    let ticks : Prop := ∃ k, e + k * (s.tide.periodUs * 1000) ≤ at0 + 1 ∧ at0 ≤ e + k * (s.tide.periodUs * 1000) + 1
    let known : Prop := own < n ∧ (member own).ident = s.cfg.identity ∧ ∀ i, i < n → i ≠ own → ∃ d ∈ s.cfg.destinations, d.ident = (member i).ident
    (loading s slot → Completes (.tideStart box) s (fun t => Refused s t box 0x200 0))
    ∧ (¬ loading s slot → (s.plan slot = none ∨ s.tide.running = some slot ∨ s.tide.start ≠ none) → Completes (.tideStart box) s (fun t => Refused s t box 0x103 0))
    ∧ (¬ loading s slot → s.plan slot = some pl → s.tide.running ≠ some slot → s.tide.start = none → (s.tide.running ≠ none → 0 < s.tide.periodUs) →
        (¬ window ∨ (s.tide.running ≠ none ∧ ¬ ticks) → Completes (.tideStart box) s (fun t => Refused s t box 0x101 0x18))
        ∧ (window → (s.tide.running ≠ none → ticks) → n ≤ own → Completes (.tideStart box) s (fun t => Refused s t box 0x101 2))
        ∧ (window → (s.tide.running ≠ none → ticks) → own < n → (member own).ident ≠ s.cfg.identity → Completes (.tideStart box) s (fun t => Refused s t box 0x101 (o own)))
        ∧ (window → (s.tide.running ≠ none → ticks) → known → Completes (.tideStart box) s (fun t =>
            Handed { popped s with tide := { s.tide with start := some { slot := slot, n0 := b.field 0x18 8, sec := b.field 8 8, ns := b.field 0x10 4, own := own, members := (List.range n).map member } } } t box 0 0 false []))))
  ∧ (∀ (s : State) (box : Nat), box < 72 → Whole s box 0x13 0 [] → s.pkg.st = .ready ∨ s.pkg.st = .serving →
    (s.tide.running = none → s.tide.start = none → Completes (.tideStop box) s (fun t => Refused s t box 0x103 0))
    ∧ (s.tide.running = none → s.tide.start ≠ none → Completes (.tideStop box) s (fun t =>
        Handed { popped s with tide := { s.tide with start := none, declared := [] } } t box 0 0 false (leBytes 8 s.tide.lastTide ++ leBytes 4 s.tide.lastStep)))
    ∧ (s.tide.running ≠ none → Completes (.tideStop box) s (fun t =>
        Accepted { popped s with tide := { s.tide with stopping := true, start := none } } t box .tideStop)))

/-- The agent commands of the mailboxes (R197 to R201). -/
def Obligations.AgentsAreAdmittedGrownAndEvicted : Prop :=
  let work (s : State) : Prop := s.pkg.st ∈ [PkgState.ready, .serving, .maint]
  let left (s t : State) : State := { popped s with mem := t.mem, coh := t.coh, pans := t.pans, stk := t.stk, cores := t.cores }
  let queued (s : State) (p : Nat) (m : Migration) : State :=
    { popped s with salter := { (popped s).salter with movers := tput [] s.salter.movers p (s.mover p ++ [m]) } }
  let sum (f : Nat → Nat) (n : Nat) : Nat := ((List.range n).map f).sum
  (∀ (s : State) (box : Nat), box < 72 → let b := s.box box
    let n := b.field 6 1
    Whole s box 0x20 (0x10 + 16 * n) [(7, 1), (12, 4)] → work s →
    let id := b.field 0 4
    let owner := b.field 4 2
    let units := b.field 8 4
    let entry (i : Nat) := b.field (0x10 + 16 * i) 4
    let pages (i : Nat) := b.field (0x18 + 16 * i) 4
    let len (i : Nat) := (b.field (0x14 + 16 * i) 4 + 262144 / entry i - 1) / (262144 / entry i)
    let elig (p : Nat) : Prop := p < s.cfg.variant.pans ∧ s.onlinePan p = true ∧ (s.pan p).held = false
    let owns (p : Nat) : Prop := (owner ≠ 0xFFFF ∧ p = owner ∧ s.onlinePan p = true)
      ∨ (owner = 0xFFFF ∧ elig p ∧ ∀ q, elig q → ownedCount s p ≤ ownedCount s q ∧ (ownedCount s q = ownedCount s p → p ≤ q))
    let need := 65536 + units * 65536 + sum pages n * 262144
    let want := (65536, 65536) :: (units * 65536, 65536) :: List.replicate (sum pages n) (262144, 262144)
    let busy : Prop := agentBusy s id = true ∨ (owner ≠ 0xFFFF ∧ panBusy s owner = true)
    id ≤ 262143 → owner = 0xFFFF ∨ owner < 20 → 1 ≤ n → n ≤ 32 → units ≤ 16384 →
    (∀ i, i < n → entry i % 64 = 0 ∧ 64 ≤ entry i ∧ entry i ≤ 16384 ∧ pages i ≤ len i ∧ b.field (0x1C + 16 * i) 4 = 0) →
    let refused (st : Nat) : Prop := Completes (.agentAdmit box) s (fun t => Refused s t box st 0)
    (owner ≠ 0xFFFF → s.cfg.variant.pans ≤ owner → refused 0x102)
    ∧ (owner = 0xFFFF ∨ owner < s.cfg.variant.pans →
        (busy → refused 0x200)
        ∧ (¬ busy → (s.agentDir id).valid = true → refused 0x101)
        ∧ (¬ busy → (s.agentDir id).valid = false → 15360 < sum len n → refused 0x104)
        ∧ (¬ busy → (s.agentDir id).valid = false → sum len n ≤ 15360 → (∀ p, ¬ owns p) → refused 0x103)
        ∧ (¬ busy → (s.agentDir id).valid = false → sum len n ≤ 15360 → ∀ p, owns p →
            (freeBrine s p < need → refused 0x104)
            ∧ (need ≤ freeBrine s p → grantAll (popped s) p 0 want = none → refused 0x104)
            ∧ (need ≤ freeBrine s p → ∀ s1 offs, grantAll (popped s) p 0 want = some (s1, offs) → Completes (.agentAdmit box) s (fun t =>
                let off (k : Nat) := offs.getD k 0
                let h := brineBase p + off 0
                let ranges := ((want.map Prod.fst).zip offs).filter (fun x => x.1 ≠ 0)
                Handed (left s t) t box 0 0 false (leBytes 2 p ++ leBytes 6 0 ++ leBytes 8 h)
                  ∧ (t.pan p).taken = (s.pan p).taken ++ ranges.map (fun x => (x.2, x.1)) ∧ (∀ q, q ≠ p → (t.pan q).taken = (s.pan q).taken)
                  ∧ (∀ x ∈ ranges, x.2 + x.1 ≤ brineLimit s p ∧ ∀ y ∈ (s.pan p).taken, x.2 + x.1 ≤ y.1 ∨ y.1 + y.2 ≤ x.2)
                  ∧ (AllHome s → s.salter.dirPa + 2 ^ 21 ≤ brineBase p ∨ brineBase p + brineSize ≤ s.salter.dirPa →
                      t.agentDir id = { valid := true, st := 0, owner := p, loc := off 0 / 65536 }
                      ∧ wordAt (memByte t) h 4 = id ∧ memByte t (h + 4) = 0 ∧ memByte t (h + 7) = BitVec.ofNat 8 p
                      ∧ hStreams t h = n ∧ hGen t h = 0 ∧ hC t h = 0 ∧ hUsed t h = 0 ∧ hGranted t h = sum pages n ∧ hStateUnits t h = units
                      ∧ (units ≠ 0 → hStateOff t h = off 1 / 65536)
                      ∧ (∀ i, i < n → streamRec t h i = { entry := entry i, perPage := 262144 / entry i, fill := 0, off := 0x1000 + 4 * sum len i, len := len i }
                          ∧ ∀ k, k < len i → pageWord t h (streamRec t h i) k = if k < pages i then off (2 + sum pages i + k) / 262144 + 2 ^ 30 else 0)
                      ∧ (∀ x ∈ ranges.drop 1, ∀ k, k < x.1 → memByte t (brineBase p + x.2 + k) = 0)
                      ∧ (∀ a, (∀ x ∈ ranges, a < brineBase p + x.2 ∨ brineBase p + x.2 + x.1 ≤ a) → a < dirWordPa s id ∨ dirWordPa s id + 8 ≤ a →
                          memByte t a = memByte s a))))))
    )
  ∧ (∀ (s : State) (box : Nat), box < 72 → Whole s box 0x21 8 [(4, 4)] → work s →
    let id := (s.box box).field 0 4
    let d := s.agentDir id
    let h := d.header
    let gone := (grantedWords s h).map (fun x => x.2.2 % 2 ^ 19 * 262144) ++ (if hStateUnits s h = 0 then [] else [hStateOff s h * 65536]) ++ [h - brineBase d.owner]
    let refused (st : Nat) : Prop := Completes (.agentEvict box) s (fun t => Refused s t box st 0)
    (262143 < id → refused 0x101)
    ∧ (id ≤ 262143 → agentBusy s id = true → refused 0x200)
    ∧ (id ≤ 262143 → agentBusy s id = false → d.valid = false → refused 0x101)
    ∧ (id ≤ 262143 → agentBusy s id = false → d.valid = true → d.st = 2 ∨ d.st = 3 → refused 0x200)
    ∧ (id ≤ 262143 → agentBusy s id = false → d.valid = true → d.st = 0 ∨ d.st = 1 → Completes (.agentEvict box) s (fun t =>
        Handed (left s t) t box 0 0 false []
          ∧ (AllHome s → (t.agentDir id).valid = false)
          ∧ (d.st = 1 → t.pans = s.pans ∧ (AllHome s → ∀ a, a < dirWordPa s id ∨ dirWordPa s id + 8 ≤ a → memByte t a = memByte s a))
          ∧ (d.st = 0 → AllHome s → (∀ y, y < hStreams s h → WordsInside s h y ∧ (streamRec s h y).fill ≤ hC s h) →
              (t.pan d.owner).taken = (s.pan d.owner).taken.filter (fun e => !gone.contains e.1)
                ∧ (∀ q, q ≠ d.owner → t.pan q = s.pan q)
                ∧ ∀ a, (a < h ∨ h + 65536 ≤ a) → (a < dirWordPa s id ∨ dirWordPa s id + 8 ≤ a) → memByte t a = memByte s a))))
  ∧ (∀ (s : State) (box : Nat), box < 72 → Whole s box 0x22 8 [(6, 2)] → work s →
    let id := (s.box box).field 0 4
    let target := (s.box box).field 4 2
    let d := s.agentDir id
    let p := if target = 0xFFFF then d.owner else target
    let busy : Prop := agentBusy s id = true ∨ (target ≠ 0xFFFF ∧ panBusy s target = true)
    let need := 65536 + hStateUnits s d.header * 65536 + (grantedWords s d.header).length * 262144
    let does (P : State → Prop) : Prop := Completes (.agentPrefetch box) s P
    id ≤ 262143 →
    (target ≠ 0xFFFF → s.cfg.variant.pans ≤ target → does (fun t => Refused s t box 0x102 0))
    ∧ (target = 0xFFFF ∨ target < s.cfg.variant.pans →
        (busy → does (fun t => Refused s t box 0x200 0))
        ∧ (¬ busy → d.valid = false → does (fun t => Refused s t box 0x101 0))
        ∧ (¬ busy → d.valid = true → d.st ≠ 1 ∨ s.onlinePan p = false ∨ (target = 0xFFFF ∧ (s.pan p).held = true) → does (fun t => Refused s t box 0x103 0))
        ∧ (¬ busy → d.valid = true → d.st = 1 → s.onlinePan p = true → (target = 0xFFFF → (s.pan p).held = false) →
            (freeBrine s p < need → does (fun t => Refused s t box 0x104 0))
            ∧ (need ≤ freeBrine s p → does (fun t =>
                Accepted (queued s p { agent := id, spill := false, pan := p, origin := .mailbox box }) t box (.prefetch id p))))))
  ∧ (∀ (s : State) (box : Nat), box < 72 → Whole s box 0x23 24 [(5, 3)] → work s →
    let b := s.box box
    let id := b.field 0 4
    let op := b.field 4 1
    let x := b.field 8 8
    let y := b.field 16 8
    let d := s.agentDir id
    let h := d.header
    let r := streamRec s h x
    let idle : Prop := id ≤ 262143 ∧ agentBusy s id = false
    let moves : Prop := d.st = 2 ∨ d.st = 3
    (2 < op → id ≤ 262143 → Completes (.agentAdviseSpill box) s (fun t => Refused s t box 0x101 4))
    ∧ (op = 0 → x % 65536 = 0 → let does (P : State → Prop) : Prop := Completes (.agentAdviseSpill box) s P
        let calm : Prop := s.onlinePan d.owner = true ∧ ∀ k, k < hStreams s h → (streamRec s h k).fill ≤ hC s h
        (id ≤ 262143 → agentBusy s id = true → does (fun t => Refused s t box 0x200 0))
        ∧ (idle → d.valid = false → does (fun t => Refused s t box 0x101 0))
        ∧ (idle → d.valid = true → moves → does (fun t => Refused s t box 0x200 0))
        ∧ (idle → d.valid = true → d.st = 1 ∨ (d.st = 0 ∧ ¬ calm) → does (fun t => Refused s t box 0x103 0))
        ∧ (idle → d.valid = true → d.st = 0 → calm →
            (y < imageBytes s h → does (fun t => Refused s t box 0x104 0))
            ∧ (imageBytes s h ≤ y → lpdRange s x (imageBytes s h) = false → does (fun t => Refused s t box 0x101 8))
            ∧ (imageBytes s h ≤ y → lpdRange s x (imageBytes s h) = true → does (fun t =>
                Accepted (queued s d.owner { agent := id, spill := true, pan := d.owner, pa := x, capacity := y, origin := .mailbox box }) t box (.spill id)))))
    ∧ (∀ i ∈ [(Instr.agentAdviseGrow box, 1), (.agentAdviseRelease box, 2)], op = i.2 → let does (P : State → Prop) : Prop := Completes i.1 s P
        (id ≤ 262143 → agentBusy s id = true → does (fun t => Refused s t box 0x200 0))
        ∧ (idle → d.valid = false → does (fun t => Refused s t box 0x101 0))
        ∧ (idle → d.valid = true → hStreams s h ≤ x → does (fun t => Refused s t box 0x101 8))
        ∧ (idle → d.valid = true → x < hStreams s h → moves → does (fun t => Refused s t box 0x200 0))
        ∧ (idle → d.valid = true → x < hStreams s h → d.st = 1 → does (fun t => Refused s t box 0x103 0)))
    ∧ (op = 1 → idle → d.valid = true → x < hStreams s h → d.st = 0 →
        let room := (List.range r.len).filter (fun k => !wordGranted (pageWord s h r k))
        let want := List.replicate y (262144, 262144)
        let does (P : State → Prop) : Prop := Completes (.agentAdviseGrow box) s P
        (room.length < y ∨ freeBrine s d.owner < y * 262144 ∨ grantAll (popped s) d.owner 0 want = none → does (fun t => Refused s t box 0x104 0))
        ∧ (y ≤ room.length → y * 262144 ≤ freeBrine s d.owner → ∀ s1 offs, grantAll (popped s) d.owner 0 want = some (s1, offs) → does (fun t =>
            Handed (left s t) t box 0 0 false [] ∧ (t.pan d.owner).taken = (s.pan d.owner).taken ++ offs.map (fun o => (o, 262144))
              ∧ (AllHome s → WordsInside s h x → r.off + 4 * r.len ≤ 65536 → (h - brineBase d.owner, 65536) ∈ (s.pan d.owner).taken →
                  hGranted t h = (hGranted s h + y) % 2 ^ 32
                  ∧ (∀ k, k < r.len → pageWord t h r k = match (room.take y).zip offs |>.find? (fun e => e.1 = k) with
                      | some e => e.2 / 262144 + 2 ^ 30
                      | none => pageWord s h r k)
                  ∧ (∀ o ∈ offs, ∀ k, k < 262144 → memByte t (brineBase d.owner + o + k) = 0)
                  ∧ (∀ a, (a < h ∨ h + 65536 ≤ a) → (∀ o ∈ offs, a < brineBase d.owner + o ∨ brineBase d.owner + o + 262144 ≤ a) → memByte t a = memByte s a)))))
    ∧ (op = 2 → idle → d.valid = true → x < hStreams s h → d.st = 0 →
        let ks := (List.range r.len).filter (fun k => wordGranted (pageWord s h r k) && !wordUsed (pageWord s h r k))
        Completes (.agentAdviseRelease box) s (fun t => Handed (left s t) t box 0 0 false []
          ∧ (AllHome s → WordsInside s h x →
              (t.pan d.owner).taken = (s.pan d.owner).taken.filter (fun e => !(ks.map (fun k => pageWord s h r k % 2 ^ 19 * 262144)).contains e.1)
              ∧ hGranted t h = hGranted s h - ks.length
              ∧ (∀ k, k < r.len → pageWord t h r k = if k ∈ ks then 0 else pageWord s h r k)
              ∧ (∀ a, (a < h + 28 ∨ h + 32 ≤ a) → (∀ k ∈ ks, a < wordPa h r k ∨ wordPa h r k + 4 ≤ a) → memByte t a = memByte s a)))))
/-- Regions (R367 to R369). -/
def Obligations.RegionsAreRegisteredAndEnded : Prop :=
  let pages (s : State) : Nat := (s.salter.regions.map (fun e => (e.2.map (fun r => r.pages.length)).getD 0)).sum
  let bit (n i : Nat) : Bool := n / 2 ^ i % 2 = 1
  (∀ (s : State) (box : Nat), box < 72 → Whole s box 0x30 32 [(11, 5)] → s.pkg.st ∈ [PkgState.ready, .serving, .maint] →
    let b := s.box box
    let rights := b.field 10 1
    let len := b.field 0x18 8
    let fair : Prop := (bit rights 4 = true → bit rights 2 = true ∧ bit rights 3 = true) ∧ (bit rights 3 = true → bit rights 1 = true)
    let does (P : State → Prop) : Prop := Completes (.regionRegister box) s P
    rights < 32 → 1 ≤ len → len ≤ 2 ^ 40 →
    (¬ fair → does (fun t => Refused s t box 0x101 10))
    ∧ (fair → rootOk s (b.field 0 8) = false → does (fun t => Refused s t box 0x101 0))
    ∧ (fair → rootOk s (b.field 0 8) = true → 2 ^ 20 ≤ s.salter.regions.length → does (fun t => Refused s t box 0x104 0))
    ∧ (fair → rootOk s (b.field 0 8) = true → s.salter.regions.length < 2 ^ 20 → does (fun t =>
        Accepted (popped s) t box (.regionRegister (b.field 0 8) (b.field 8 2) (BitVec.ofNat 5 rights) (b.field 0x10 8) len))))
  ∧ (∀ (s : State) (box root asid start len : Nat) (rights : BitVec 5), deferredOf s box = some (.regionRegister root asid rights start len) →
    let walked := walkRegion s root rights (len / 4096 + 2) start (start + len) [] []
    let free : Prop := ∃ i, i < 2 ^ 20 ∧ tget none s.salter.regions i = none
    let does (P : State → Prop) : Prop := Completes (.regionRegisterFinal box) s P
    (0 < len → canonical start = false → does (fun t => Handed (ended s box) t box 0x101 0 false []))
    ∧ (∀ l, canonical start = true → walk s root start = .ok l → start < 2 ^ 48 → 0 < len → start + len ≤ l.base + l.bytes →
        walked = (if pageVerdict s rights l start len = 0 then .ok ([(l.base, l.bytes, l.frame)], if l.cacheable then [] else [l.base])
          else .error (pageVerdict s rights l start len)))
    ∧ (∀ st, walked = .error st → does (fun t => Handed (ended s box) t box st 0 false []))
    ∧ (∀ ps unc, walked = .ok (ps, unc) → s.salter.regions.length < 2 ^ 20 → 16777216 < pages s + ps.length → does (fun t => Handed (ended s box) t box 0x104 0 false []))
    ∧ (∀ ps unc, walked = .ok (ps, unc) → s.salter.regions.length < 2 ^ 20 → pages s + ps.length ≤ 16777216 → free → does (fun t => ∃ i, i < 2 ^ 20
        ∧ tget none s.salter.regions i = none
        ∧ let gen := tget 0 s.salter.regionGen i % 4096
          let key := BitVec.ofNat 32 (i + gen * 2 ^ 20)
          (∀ j, tget none t.salter.regions j = if j = i then some { key := key, rights := rights, start := start, len := len, pages := ps, uncached := unc }
              else tget none s.salter.regions j)
          ∧ (∀ j, tget 0 t.salter.regionGen j = if j = i then (gen + 1) % 4096 else tget 0 s.salter.regionGen j)
          ∧ Handed { ended s box with salter := { (ended s box).salter with regions := t.salter.regions, regionGen := t.salter.regionGen } } t box 0 0 false
              (leBytes 4 key.toNat))))
  ∧ (∀ (s : State) (box : Nat), box < 72 → Whole s box 0x31 8 [(4, 4)] → s.pkg.st ∈ [PkgState.ready, .serving, .maint, .fault] →
    let key := BitVec.ofNat 32 ((s.box box).field 0 4)
    let i := key.toNat % 2 ^ 20
    let entry := tget none s.salter.regions i
    let does (P : State → Prop) : Prop := Completes (.regionDeregister box) s P
    ((∀ r, entry = some r → r.key ≠ key) → does (fun t => Refused s t box 0x101 0))
    ∧ (∀ r, entry = some r → r.key = key → r.ending = true → does (fun t => Refused s t box 0x200 0))
    ∧ (∀ r, entry = some r → r.key = key → r.ending = false → does (fun t =>
        (∀ j, tget none t.salter.regions j = if j = i then some { r with ending := true } else tget none s.salter.regions j)
          ∧ Accepted { popped s with salter := { (popped s).salter with regions := t.salter.regions } } t box (.regionDeregister key))))
  ∧ (∀ (s : State) (box : Nat) (key : Word), deferredOf s box = some (.regionDeregister key) →
    let used : Prop := ∃ e ∈ s.qps, ∃ x, e.2 = some x ∧ ∃ m ∈ x.sent, m.lkey = key ∧ m.inline.isEmpty = true
    (used → Completes (.regionDeregisterFinal box) s (fun t => t = s))
    ∧ (¬ used → Completes (.regionDeregisterFinal box) s (fun t =>
        (∀ j, tget none t.salter.regions j = if j = key.toNat % 2 ^ 20 then none else tget none s.salter.regions j)
          ∧ Handed { ended s box with salter := { (ended s box).salter with regions := t.salter.regions } } t box 0 0 false [])))

/-- Pan states, replacement and self-test (R490 to R497). -/
def Obligations.PansLeaveReturnAndAreTested : Prop :=
  let work (s : State) : Prop := s.pkg.st ∈ [PkgState.ready, .serving, .maint]
  let bound (s : State) (p : Nat) : Prop := ∃ pl, (s.plan0 = some pl ∨ s.plan1 = some pl) ∧ p ∈ pl.binding
  let serves (s : State) (p r : Nat) : Prop := r ≠ p ∧ s.onlinePan r = true ∧ ¬ bound s r ∧ ownedCount s r = 0 ∧ (s.pan r).held = false
  let count (v : Variant) (kind : Nat) : Nat := match v with
    | .a20 => [20, 8, 4, 6].getD kind 0
    | .a16 => [16, 6, 4, 4].getD kind 0
    | .a12 => [12, 4, 2, 4].getD kind 0
  let said (t : State) (code die : Nat) : Prop := ∃ e ∈ t.events.queue, e.code = code ∧ e.die = die
  let same (s : State) (kind i test : Nat) (a b : Dword) : Prop := let want := tget 0 s.cfg.expected (kind * 64 + i * 2 + test)
    a = want ∨ b = want
  (∀ (s : State) (box : Nat), box ≤ 72 → Whole s box 0x40 8 [(2, 6)] → work s →
    let p := (s.box box).field 0 1
    let test := decide ((s.box box).field 1 1 = 1)
    let busy : Prop := panBusy s p = true ∨ s.salter.repl ≠ none
    let does (P : State → Prop) : Prop := Completes (.panOffline box) s P
    (s.box box).field 1 1 ≤ 1 →
    (count s.cfg.variant 0 ≤ p → does (fun t => Refused s t box 0x102 0))
    ∧ (p < count s.cfg.variant 0 →
        (busy → does (fun t => Refused s t box 0x200 0))
        ∧ (¬ busy → s.onlinePan p = false → does (fun t => Refused s t box 0x103 0))
        ∧ (¬ busy → s.onlinePan p = true → ¬ bound s p → does (fun t => Accepted (popped s) t box (.panOffline p test none)))
        ∧ (¬ busy → s.onlinePan p = true → bound s p → (∀ r, ¬ serves s p r) → does (fun t => Refused s t box 0x104 0))
        ∧ (¬ busy → s.onlinePan p = true → bound s p → ∀ r, serves s p r → (∀ q, serves s p q → r ≤ q) → does (fun t =>
            (∀ q, t.pan q = if q = p ∨ q = r then { s.pan q with held := true } else s.pan q)
              ∧ Accepted { popped s with pans := t.pans, salter := { (popped s).salter with repl := some { p := p, r := r, test := test, box := some box } } } t box
                  (.panOffline p test (some r))))))
  ∧ (∀ (s : State) (box p : Nat) (test : Bool), deferredOf s box = some (.panOffline p test none) →
    (s.onlinePan p = false → Completes (.panOfflineComplete box) s (fun t => Handed (ended s box) t box 0x300 0 false []))
    ∧ (s.onlinePan p = true → Completes (.panOfflineComplete box) s (fun t =>
        (t.pan p).state = (if test then .test else .offline) ∧ (t.box box).status = 0 ∧ (t.box box).held = false ∧ said t evPanState p
          ∧ (∀ b, b < 16 → (t.bed p b).cur = none ∧ (t.bed p b).flood = []) ∧ t.mover p = [] ∧ (∀ l, l < 2 ^ 42 → t.cached (panAgent p) l = none)
          ∧ ∀ e ∈ t.salter.deferred, e.1 ≠ box)))
  ∧ (∀ (s : State) (pan : Nat), ((∀ x, s.salter.repl = some x → x.p ≠ pan) ∨ s.pkg.st = .draining ∨ s.stepOpen = true ∨ (s.pan pan).service = false) →
      Completes (.panCutOver pan) s (fun t => t = s))
  ∧ (∀ (s : State) (x : Replacement), s.salter.repl = some x → x.p ≠ x.r → s.pkg.st ≠ .draining → s.stepOpen = false → (s.pan x.p).service = true →
    let failed := (s.pan x.p).state = .failed
    Completes (.panCutOver x.p) s (fun t =>
      t.salter.repl = none ∧ (∀ b, x.box = some b → (t.box b).status = 0 ∧ (t.box b).held = false)
        ∧ (∀ k, tget k t.pkg.panMap k = if k = x.p then tget x.r s.pkg.panMap x.r else if k = x.r then tget x.p s.pkg.panMap x.p else tget k s.pkg.panMap k)
        ∧ (∀ b, b < 16 → (¬ failed → (t.bed x.p b).scratch = (s.bed x.p b).scratch) ∧ (failed → (t.bed x.p b).scratch = []))
        ∧ (¬ failed → (t.pan x.r).state = if x.test then .test else .offline) ∧ (failed → (t.pan x.r).state = .failed)
        ∧ (t.pan x.p).state = (s.pan x.r).state ∧ (t.pan x.p).held = false ∧ (t.pan x.r).held = false
        ∧ (∃ n, t.trust.repair = s.trust.repair ++ [(n, [4, BitVec.ofNat 8 x.p, BitVec.ofNat 8 x.r])]) ∧ said t evPanReplaced x.p
        ∧ (s.tide.running ≠ none → ∃ k ∈ t.tide.declared, k.tide = nextTide s s.tide.number ∧ k.cause = 1 ∧ k.own = true)
        ∧ (s.tide.running = none → t.tide = s.tide)
        ∧ (AllHome s → (∀ g, g < 64 → granulePa s g + granuleSize ≤ brineBase x.r ∨ brineBase x.r + brineSize ≤ granulePa s g) →
          (∀ a, brineBase x.r ≤ a → a < brineBase x.r + brineSize → memByte t a = 0)
            ∧ ∀ a, (a < brineBase x.r ∨ brineBase x.r + brineSize ≤ a) → memByte t a = memByte s a)))
  ∧ (∀ (s : State) (box : Nat), box ≤ 72 → Whole s box 0x41 8 [(1, 7)] → work s →
    let p := (s.box box).field 0 1
    let busy : Prop := panBusy s p = true ∨ s.salter.repl ≠ none
    let does (P : State → Prop) : Prop := Completes (.panOnline box) s P
    (count s.cfg.variant 0 ≤ p → does (fun t => Refused s t box 0x102 0))
    ∧ (p < count s.cfg.variant 0 →
        (busy → does (fun t => Refused s t box 0x200 0))
        ∧ (¬ busy → (s.pan p).state = .online ∨ (s.pan p).state = .failed → does (fun t => Refused s t box 0x103 0))
        ∧ (¬ busy → (s.pan p).state = .test → does (fun t => Accepted (popped s) t box (.panOnline p)))
        ∧ (¬ busy → (s.pan p).state = .offline → does (fun t => t.pan p = { s.pan p with state := .test } ∧ (∀ q, q ≠ p → t.pan q = s.pan q)
            ∧ Logs s t evPanState ∧ Accepted { popped s with pans := t.pans, events := t.events } t box (.panOnline p)))))
  ∧ (∀ (s : State) (box p : Nat) (a b : Dword), deferredOf s box = some (.panOnline p) →
    let does (P : State → Prop) : Prop := Completes (.panOnlineComplete box a b) s P
    let ends (t : State) (st : BitVec 16) (u : UnitState) : Prop := (t.box box).status = st ∧ (t.box box).length = 0 ∧ (t.box box).held = false ∧ (t.pan p).state = u
      ∧ said t evBistResult p ∧ ∀ e ∈ t.salter.deferred, e.1 ≠ box
    ((s.pan p).state = .failed → does (fun t => ends t 0x300 .failed))
    ∧ ((s.pan p).state ≠ .failed → ¬ same s 0 p 0 a b → does (fun t => ends t 0x300 .failed ∧ said t evPanState p))
    ∧ ((s.pan p).state ≠ .failed → same s 0 p 0 a b → does (fun t => ends t 0 .online ∧ said t evPanState p
        ∧ (∀ k, k < 16 → (t.bed p k).cur = none ∧ (t.bed p k).scratch = [] ∧ (t.bed p k).flood = []) ∧ (t.pan p).tlb = [])))
  ∧ (∀ (s : State) (box : Nat), box ≤ 72 → Whole s box 0x50 8 [(3, 5)] → work s →
    let k := (s.box box).field 0 1
    let i := (s.box box).field 1 1
    let tests := (s.box box).field 2 1
    let unit (s : State) : UnitState := match k with
      | 0 => (s.pan i).state
      | 1 => (s.coreDie i).state
      | 2 => (s.ioDie i).state
      | _ => s.stkState i
    let does (P : State → Prop) : Prop := Completes (.bistRun box) s P
    1 ≤ tests → tests ≤ 3 → (box < 64 → k = 0 ∨ 3 < k) →
    (3 < k → does (fun t => Refused s t box 0x101 0))
    ∧ (k ≤ 3 → count s.cfg.variant k ≤ i → does (fun t => Refused s t box 0x102 0))
    ∧ (k ≤ 3 → i < count s.cfg.variant k →
        (unitBusy s k i = true → does (fun t => Refused s t box 0x200 0))
        ∧ (unitBusy s k i = false → (k = 0 ∧ (unit s = .online ∨ unit s = .failed)) ∨ (k ≠ 0 ∧ (s.pkg.st ≠ .maint ∨ unit s ≠ .online)) →
            does (fun t => Refused s t box 0x103 0))
        ∧ (unitBusy s k i = false → (k = 0 ∧ (unit s = .offline ∨ unit s = .test)) ∨ (k ≠ 0 ∧ s.pkg.st = .maint ∧ unit s = .online) → does (fun t =>
            (t.box box).status = 1 ∧ (t.box box).held = true ∧ (t.box box).owner = false ∧ unit t = .test
              ∧ t.salter.deferred = s.salter.deferred ++ [(box, .bistRun k i (BitVec.ofNat 2 tests) (unit s))] ∧ t.salter.latched = s.salter.latched.drop 1
              ∧ (k = 1 → ∀ c, c < 24 → (t.core (24 * i + c)).released = false) ∧ (k = 2 → ∀ j, j < 4 → (t.port (4 * i + j)).link = false)))))
  ∧ (∀ (s : State) (box k i : Nat) (tests : BitVec 2) (before : UnitState) (l m la ma : Dword), deferredOf s box = some (.bistRun k i tests before) → k ≤ 3 →
    let unit (t : State) : UnitState := match k with
      | 0 => (t.pan i).state
      | 1 => (t.coreDie i).state
      | 2 => (t.ioDie i).state
      | _ => t.stkState i
    let doL := tests.getLsbD 0
    let doM := tests.getLsbD 1
    let pass : Prop := (doL = true → same s k i 0 l la) ∧ (doM = true → same s k i 1 m ma)
    let want (test : Nat) : Dword := tget 0 s.cfg.expected (k * 64 + i * 2 + test)
    let shown (on : Bool) (test : Nat) (x y : Dword) : Nat := if on then (if x = want test then x else y).toNat else 0
    let does (P : State → Prop) : Prop := Completes (.bistComplete box l m la ma) s P
    let ends (t : State) (st : BitVec 16) : Prop := (t.box box).status = st ∧ (t.box box).length = 32 ∧ (t.box box).held = false ∧ said t evBistResult (k * 32 + i)
      ∧ (t.box box).field 0 8 = shown doL 0 l la ∧ (t.box box).field 8 8 = shown doM 1 m ma ∧ (t.box box).field 16 8 = (if doL then (want 0).toNat else 0)
      ∧ (t.box box).field 24 8 = (if doM then (want 1).toNat else 0) ∧ ∀ e ∈ t.salter.deferred, e.1 ≠ box
    (unit s ≠ .failed → pass → does (fun t => ends t 0 ∧ unit t = before))
    ∧ (unit s = .failed ∨ ¬ pass → does (fun t => ends t 0x300 ∧ unit t = .failed ∧ (k ≠ 0 → (6, 0xFF, k * 32 + i) ∈ t.coh.declared))))

/-- The crust and the firmware switch (R339, R409, R456 to R476). -/
def Obligations.TheCrustServesTheLiquorAndSwitchesIt : Prop :=
  let up (s : State) : Prop := s.pkg.st ≠ .off ∧ s.pkg.st ≠ .crust ∧ tget none s.trust.running 2 ≠ none
  let said (s t : State) (code : Nat) : Prop := ∃ e ∈ t.events.queue, e.code = code ∧ e.time = s.now
  let told (s t : State) (st : BitVec 16) (data : List Byte) (trust : Trust) : Prop :=
    t = { s with trust := { trust with callStatus := st, callData := data }, free := s.free + 1 }
  let extended (s t : State) (m : Nat) (item : List Byte) : Prop :=
    mBytes t m = sha384 (mBytes s m ++ sha384 item) ∧ ∀ k, k ≠ m → mBytes t k = mBytes s k
  let normal (s : State) (pa len : Nat) : Prop := 0 < len ∧ pa + len ≤ 2 ^ 48 ∧ ∀ x, pa / 4096 ≤ x → x * 4096 < pa + len → (place s (x * 4096)).normal = true
  let signer (type : Nat) : Option Nat := if type ∈ [1, 2, 0x10, 0x12] then some 0 else if type = 0x11 then some 1 else if type ∈ [3, 0x13] then some 2 else none
  let counter (s : State) (type : Nat) : Nat := if type = 1 then s.trust.ctrCrust else if type = 2 then s.trust.ctrLiquor
    else if type = 3 ∨ type = 0x13 then s.trust.ctrSite else 0
  let genuine (s : State) (b : List Byte) (type : Nat) : Prop := let body := (b.drop 256).take (leField b 0x10 8)
    leField b 0 4 = 0x4E474953 ∧ leField b 4 2 = 1 ∧ leField b 6 2 = type ∧ leField b 0x2A 6 = 0 ∧ leField b 0x68 56 = 0
      ∧ signer type = some (leField b 0x28 1) ∧ (leField b 0x28 1 = 0 → leField b 0x29 1 ≤ 3)
      ∧ (leField b 0x18 8 = s.cfg.identity.toNat ∨ (leField b 0x18 8 = 0 ∧ type ≠ 0x10 ∧ type ≠ 0x12)) ∧ 256 + leField b 0x10 8 ≤ b.length
      ∧ Config.signatureGood (b.take 256) = true ∧ (b.drop 0x30).take 48 = sha384 body ∧ (type = 0x13 → Config.unsealed body = true)
  -- the status a verification gives
  let judged (s : State) (b : List Byte) (type st : Nat) : Prop := (genuine s b type → counter s type ≤ leField b 8 4 → st = 0)
    ∧ (genuine s b type → leField b 8 4 < counter s type → st = 0x107) ∧ (¬ genuine s b type → st = 0x106)
  let boxEnds (t : State) (b : Nat) (st : BitVec 16) : Prop := (t.box b).status = st ∧ (t.box b).held = false ∧ (t.box b).owner = false ∧ ∀ e ∈ t.salter.deferred, e.1 ≠ b
  let staged (s : State) (k : Nat) (im : Image) : Prop := s.trust.staged = some k ∧ tget none s.trust.flash (4 + k) = some im
  let fresh (s t : State) (k : Nat) (im : Image) : Prop := tget none t.trust.running 2 = some im ∧ t.trust.ctrLiquor = max s.trust.ctrLiquor im.secVersion
    ∧ tget 0 t.trust.slotOf 2 = k ∧ t.trust.staged = none ∧ said s t evFwSwitched
  (∀ s : State, ¬ up s → ∀ i, (∃ pa len ty m item nonce n req die, i ∈ [Instr.verify pa len ty, .extend m item, .report nonce, .random n, .repair item, .protect req, .keyload die]) →
      Completes i s (fun t => t = s))
  ∧ (∀ (s : State) (pa len ty : Nat), up s → let b := physBytes s pa len
    (signer ty = none ∨ ¬ normal s pa len → Completes (.verify pa len ty) s (fun t => told s t 0x101 [] s.trust))
    ∧ (signer ty ≠ none → normal s pa len → physPoisoned s pa len = true → Completes (.verify pa len ty) s (fun t => told s t 0x300 [] s.trust))
    ∧ (signer ty ≠ none → normal s pa len → physPoisoned s pa len = false → Completes (.verify pa len ty) s (fun t => ∃ st : Nat, judged s b ty st
        ∧ told { s with stk := t.stk } t (BitVec.ofNat 16 st) (if st = 0 then b.take 256 else []) s.trust)))
  ∧ (∀ (s : State) (m : Nat) (item nonce : List Byte) (n die : Nat), up s →
    (m ≤ 4 → Completes (.extend m item) s (fun t => told s t 0x105 [] s.trust))
    ∧ (5 ≤ m → m ≤ 7 → Completes (.extend m item) s (fun t => extended s t m item ∧ told s t 0 [] { s.trust with m := t.trust.m }))
    ∧ (8 ≤ m → Completes (.extend m item) s (fun t => told s t 0x101 [] s.trust))
    ∧ (nonce.length = 32 → Completes (.report nonce) s (fun t => ∃ r : List Byte, r.length = 1008 ∧ (r.drop 0x18).take 32 = nonce ∧ leNat (r.take 4) = 0x54505241 ∧ told s t 0 r s.trust))
    ∧ (nonce.length ≠ 32 → Completes (.report nonce) s (fun t => told s t 0x101 [] s.trust))
    ∧ (256 < n → Completes (.random n) s (fun t => told s t 0x101 [] s.trust))
    ∧ (n ≤ 256 → s.trust.drbgFailed = true → Completes (.random n) s (fun t => told s t 0x300 [] s.trust))
    ∧ (n ≤ 256 → s.trust.drbgFailed = false → 2 ^ 20 ≤ s.trust.drbgCount → Completes (.random n) s (fun t => t = s))
    ∧ (n ≤ 256 → s.trust.drbgFailed = false → s.trust.drbgCount < 2 ^ 20 → Completes (.random n) s (fun t =>
        ∃ r : List Byte, r.length = n ∧ told s t 0 r { s.trust with drbgCount := s.trust.drbgCount + 1 }))
    ∧ Completes (.repair item) s (fun t => (∃ k, t.trust.repair = s.trust.repair ++ [(k, item)])
        ∧ (∀ k, k ≠ 2 → mBytes t k = mBytes s k) ∧ told s t 0 [] { s.trust with repair := t.trust.repair, m := t.trust.m })
    ∧ Completes (.protect .mailbox) s (fun t => told s t 0 [] s.trust) ∧ Completes (.protect .other) s (fun t => told s t 0x105 [] s.trust)
    ∧ (∀ g d, (g < 64 ∧ (d = true ↔ dirGranule s = some g)) → Completes (.protect (.granule g d)) s (fun t =>
        g ∈ t.trust.protectDone ∧ told s t 0 [] { s.trust with protectDone := t.trust.protectDone }))
    ∧ (∀ g d, ¬ (g < 64 ∧ (d = true ↔ dirGranule s = some g)) → Completes (.protect (.granule g d)) s (fun t => told s t 0x105 [] s.trust))
    ∧ (s.cfg.variant.ioDies ≤ die → Completes (.keyload die) s (fun t => told s t 0x102 [] s.trust))
    ∧ (die < s.cfg.variant.ioDies → s.isLost (dieOfIo die) = true ∨ (s.ioDie die).state = .failed → Completes (.keyload die) s (fun t => told s t 0x300 [] s.trust))
    ∧ (die < s.cfg.variant.ioDies → s.isLost (dieOfIo die) = false → (s.ioDie die).state ≠ .failed → Completes (.keyload die) s (fun t =>
        (∀ k, k < 4 → t.trust.keysLoaded.getLsbD k = (s.trust.keysLoaded.getLsbD k || decide (k = die)))
          ∧ told s t 0 [] { s.trust with keysLoaded := t.trust.keysLoaded })))
  ∧ (∀ s : State, s.pkg.st ≠ .off → s.trust.drbgFailed = false → 2 ^ 20 ≤ s.trust.drbgCount →
    Completes (.drbgReseed true) s (fun t => t = { s with trust := { s.trust with drbgCount := 0, drbgSeeds := s.trust.drbgSeeds + 1 } })
    ∧ Completes (.drbgReseed false) s (fun t => Logs s t evRngFail ∧ t = { s with trust := { s.trust with drbgFailed := true }, events := t.events }))
  ∧ (∀ (s : State) (x : MpuTarget), up s → let h := ((tget none s.trust.running 2).map Image.header).getD []
    let again (t : State) : Prop := extended s t 5 h ∧ t.trust.restarts = s.now :: s.trust.restarts.take 2 ∧ said s t evLiquorRestart
      ∧ t = { s with trust := { s.trust with m := t.trust.m, restarts := t.trust.restarts }, events := t.events }
    Completes .heartbeatMiss s (fun t => again t ∧ Logs s t evLiquorRestart) ∧ Completes (.mpuFault x) s (fun t => again t ∧ said s t evMpuFault))
  ∧ (∀ s : State, s.pkg.st ≠ .off → s.ctlState s.salter.active ≠ .failed → let a := s.salter.active
    let sent (i : Instr) : Prop :=
      (s.ctlState (1 - a) ≠ .online → Completes i s (fun t => t.ctlState a = .failed ∧ t = { s with salter := { s.salter with dies := t.salter.dies } }))
      ∧ (s.ctlState (1 - a) = .online → Completes i s (fun t => t.ctlState a = .failed ∧ t.salter.active = 1 - a ∧ t.tally.replay = true ∧ t.tally.cause = 3
          ∧ t.tally.epoch = (s.tally.epoch + 1) % 2 ^ 32 ∧ t.tally.open_ = none ∧ t.trust.restarts = [] ∧ said s t evSwitchover
          ∧ (∃ n, t.trust.repair = s.trust.repair ++ [(n, [6, BitVec.ofNat 8 a])])
          ∧ (∀ k im b, s.trust.switchPhase = 1 → staged s k im → switchBox s = some b → fresh s t k im ∧ t.trust.switchPhase = 0 ∧ boxEnds t b 0)
          ∧ (∀ b, s.trust.switchPhase = 2 → switchBox s = some b → t.trust.switchPhase = 0 ∧ boxEnds t b 0)
          ∧ (s.trust.switchPhase = 0 → t.boxes = s.boxes ∧ t.salter.deferred = s.salter.deferred)))
    sent .controlDieSwitchover
      ∧ (∀ x y z rest, s.trust.restarts = x :: y :: z :: rest → s.now ≤ z + 60 * 10 ^ 9 → sent .liquorRestartLimit)
      ∧ (s.trust.restarts.length < 3 → Completes .liquorRestartLimit s (fun t => t = s))
      ∧ (∀ x y z rest, s.trust.restarts = x :: y :: z :: rest → z + 60 * 10 ^ 9 < s.now → Completes .liquorRestartLimit s (fun t => t = s))
      ∧ (s.ctlState (1 - a) ≠ .online → Completes .standbyControlDieLost s (fun t => t = s))
      ∧ (s.ctlState (1 - a) = .online → Completes .standbyControlDieLost s (fun t => t.ctlState (1 - a) = .failed ∧ t.salter.active = a ∧ t.trust.staged = s.trust.staged
          ∧ (s.trust.switchPhase ≠ 1 → t = { s with salter := { s.salter with dies := t.salter.dies } })
          ∧ (∀ b, s.trust.switchPhase = 1 → switchBox s = some b → t.trust.switchPhase = 0 ∧ t.salter.switching = false ∧ boxEnds t b 0x300))))
  ∧ (∀ (s : State) (box : Nat), box ≤ 72 → Whole s box 0x60 16 [(13, 3)] → s.pkg.st ∈ [PkgState.ready, .serving, .maint, .fault] → let b := s.box box
    let crust := decide (b.field 12 1 = 1)
    let busy : Prop := s.trust.switchPhase ≠ 0 ∨ ∃ e ∈ s.salter.deferred, ∃ p l, e.2 = .fwStage p l crust
    b.field 8 4 ≤ 48 * 2 ^ 20 → b.field 12 1 ≤ 1 →
    (busy → Completes (.fwStage box) s (fun t => Refused s t box 0x200 0))
    ∧ (¬ busy → ¬ normal s (b.field 0 8) (b.field 8 4) → Completes (.fwStage box) s (fun t => Refused s t box 0x101 0))
    ∧ (¬ busy → normal s (b.field 0 8) (b.field 8 4) → Completes (.fwStage box) s (fun t => Accepted (popped s) t box (.fwStage (b.field 0 8) (b.field 8 4) crust))))
  ∧ (∀ (s : State) (box pa len : Nat) (crust : Bool), deferredOf s box = some (.fwStage pa len crust) → let b := physBytes s pa len
    let type := if crust then 1 else 2
    let slot := 1 - tget 0 s.trust.slotOf type
    (physPoisoned s pa len = true → Completes (.fwStageComplete box) s (fun t => Handed (ended s box) t box 0x300 0 false []))
    ∧ (physPoisoned s pa len = false → Completes (.fwStageComplete box) s (fun t => ∃ st : Nat, judged s b type st
        ∧ (st ≠ 0 → Handed { ended s box with stk := t.stk } t box st 0 false [])
        ∧ (st = 0 → (∀ k, tget none t.trust.flash k = if k = 2 * type + slot then some (imageOf b) else tget none s.trust.flash k)
            ∧ Handed { ended s box with stk := t.stk, trust := { s.trust with flash := t.trust.flash, staged := if crust then s.trust.staged else some slot } } t box 0 0 false
                (leBytes 4 (leField b 0xC 4))))))
  ∧ (∀ (s : State) (box : Nat), box ≤ 72 → Whole s box 0x61 0 [] → s.pkg.st ∈ [PkgState.ready, .serving, .maint] →
    let busy : Prop := s.trust.switchPhase ≠ 0 ∨ ∃ e ∈ s.salter.deferred, ∃ p l, e.2 = .fwStage p l false
    (busy → Completes (.fwSwitch box) s (fun t => Refused s t box 0x200 0))
    ∧ (¬ busy → s.trust.staged = none ∨ s.ctlState (1 - s.salter.active) ≠ .online → Completes (.fwSwitch box) s (fun t => Refused s t box 0x103 0))
    ∧ (¬ busy → s.trust.staged ≠ none → s.ctlState (1 - s.salter.active) = .online → Completes (.fwSwitch box) s (fun t =>
        Accepted { popped s with trust := { s.trust with switchPhase := 1 }, salter := { (popped s).salter with switching := true } } t box .fwSwitch)))
  ∧ (∀ s : State, (s.trust.switchPhase ≠ 1 → Completes .fwSwitchCutOver s (fun t => t = s)) ∧ (s.trust.switchPhase ≠ 2 → Completes .fwSwitchComplete s (fun t => t = s))
    ∧ (∀ b, s.trust.switchPhase = 2 → switchBox s = some b → Completes .fwSwitchComplete s (fun t => t.trust.switchPhase = 0 ∧ t.salter.switching = false ∧ boxEnds t b 0)))
  ∧ (∀ (s : State) (b k : Nat) (im : Image), s.trust.switchPhase = 1 → switchBox s = some b → staged s k im →
    let off (t : State) (st : BitVec 16) : Prop := boxEnds t b st ∧ t.trust = { s.trust with switchPhase := 0 } ∧ t.salter.active = s.salter.active ∧ t.salter.switching = false
    (im.good = false → Completes .fwSwitchCutOver s (fun t => off t 0x106))
    ∧ (im.good = true → im.secVersion < s.trust.ctrLiquor → Completes .fwSwitchCutOver s (fun t => off t 0x107))
    ∧ (im.good = true → s.trust.ctrLiquor ≤ im.secVersion → Completes .fwSwitchCutOver s (fun t =>
        fresh s t k im ∧ extended s t 5 im.header ∧ t.salter.active = 1 - s.salter.active ∧ t.trust.switchPhase = 2 ∧ t.boxes = s.boxes ∧ t.salter.deferred = s.salter.deferred)))

/-- Memory at reset: nothing is listed, and the canonical form holds. What an unlisted byte reads as is the model's choice
(entry 5). -/
def Obligations.ResetMemoryCanonical : Prop :=
  memoryOk State.reset = true ∧ State.reset.mem = [] ∧ ∀ pa n, State.reset.memBytes pa n = List.replicate n 0
/-- The memory invariant: every step keeps the canonical form of the one physical memory that bed stores, engine writes, core
stores, network writes, drains, KV growth, placements and boot all write. -/
def Obligations.MemoryStaysCanonical : Prop :=
  ∀ s t : State, memoryOk s = true → step s = .next t → memoryOk t = true

/-- The words of the bed instructions (R114 to R121, R147): decode of encode is the instruction, encode of decode is the word, and
every other word is none. -/
def Obligations.BedWordsRoundTrip : Prop :=
  let vs : List (Byte × (At → VFmt → Instr)) :=
    [ (0x00, .vadd), (0x01, .vsub), (0x02, .vmul), (0x03, .vfma), (0x04, .vmin), (0x05, .vmax), (0x06, .vcmp),
      (0x07, .vsel), (0x08, .vand), (0x09, .vor), (0x0a, .vxor), (0x0b, .vshl), (0x0c, .vshr), (0x0d, .vmov),
      (0x0e, .vcvt), (0x0f, .vadd96), (0x10, .vrcp), (0x11, .vrsq), (0x12, .vexp2), (0x13, .vlog2), (0x14, .vsin),
      (0x15, .vcos), (0x16, .vlane), (0x17, .vbits), (0x81, .grainDraw), (0x82, .dropmask) ]
  let ss : List (Byte × (At → SFmt → Instr)) :=
    [ (0x40, .sadd), (0x41, .ssub), (0x42, .smul), (0x43, .sand), (0x44, .sor), (0x45, .sxor), (0x46, .sshl),
      (0x47, .sshr), (0x48, .smov), (0x49, .smovh), (0x4a, .scmp), (0x4b, .sread), (0x4c, .sfromv) ]
  let cs : List (Byte × (At → CFmt → Instr)) :=
    [ (0x50, .bra), (0x51, .brx), (0x52, .call), (0x53, .exit), (0x54, .syncRake), (0x55, .barBlock), (0x56, .fence),
      (0x57, .trap), (0x58, .nop), (0x59, .sbra) ]
  let ms : List (Byte × (At → MFmt → Instr)) :=
    [ (0x60, .ld), (0x61, .st), (0x62, .atom), (0x63, .atomCas) ]
  let ls : List (Byte × (At → LFmt → Instr)) :=
    [ (0x70, .shfl), (0x71, .vote), (0x72, .reduce), (0x73, .scan), (0x74, .bcast), (0x75, .sample) ]
  let xs : List (Byte × (At → XFmt → Instr)) :=
    [ (0x78, .mma), (0x79, .mmaDrain), (0x7a, .mmaLoad), (0x7b, .mmaStat) ]
  let rs : List (Byte × (At → RFmt → Instr)) :=
    [ (0x88, .kvAppend), (0x89, .kvCommit), (0x8a, .kvDiscard), (0x91, .floodQ), (0x98, .ctxSave), (0x99, .ctxLoad) ]
  let subs : List (Byte × BitVec 4 × (At → RFmt → Instr)) :=
    [ (0x80, 0, .grainKeyLane), (0x80, 1, .grainKeyDrain), (0x90, 0, .dmaCopy), (0x90, 1, .dmaAgentFetch), (0x90, 2, .dmaAgentSpill) ]
  let agree (a : At) (w : Dword) (i : Instr) : Prop := encodeBed i = some w ∧ decodeBed a w = some i
  (∀ a, (∀ e ∈ vs, ∀ f, agree a (packV e.1 f) (e.2 a f)) ∧ (∀ e ∈ ss, ∀ f, agree a (packS e.1 f) (e.2 a f))
    ∧ (∀ e ∈ cs, ∀ f, agree a (packC e.1 f) (e.2 a f)) ∧ (∀ e ∈ ms, ∀ f, agree a (packM e.1 f) (e.2 a f))
    ∧ (∀ e ∈ ls, ∀ f, agree a (packL e.1 f) (e.2 a f)) ∧ (∀ e ∈ xs, ∀ f, agree a (packX e.1 f) (e.2 a f))
    ∧ (∀ e ∈ rs, ∀ f, agree a (packR e.1 f) (e.2 a f))
    ∧ (∀ e ∈ subs, ∀ f : RFmt, f.sub = e.2.1 → agree a (packR e.1 f) (e.2.2 a f)))
  ∧ (∀ a w i, decodeBed a w = some i → encodeBed i = some w)
  ∧ (∀ a (w : Dword), (w.extractLsb' 56 8 : Byte) ∉ vs.map Prod.fst ++ ss.map Prod.fst ++ cs.map Prod.fst ++ ms.map Prod.fst
      ++ ls.map Prod.fst ++ xs.map Prod.fst ++ rs.map Prod.fst ++ [0x80, 0x90] → decodeBed a w = none)
  ∧ (∀ a (w : Dword), (w.extractLsb' 56 8 : Byte) ∈ ([0x80, 0x90] : List Byte) →
      (∀ e ∈ subs, ¬ ((w.extractLsb' 56 8 : Byte) = e.1 ∧ (w.extractLsb' 32 4 : BitVec 4) = e.2.1)) → decodeBed a w = none)
end

