-- ==== Sys2Proof/Laws/Table.lean ====
section
/-!
SUPPORT. What reading and writing a sparse table do, once: a read after a write, and the canonical form kept. -/

namespace Sys2Proof.Machine

variable {α : Type} {d : α}

theorem tget_tdel_same (t : Table α) (k : Nat) : tget d (tdel t k) k = d := by
  induction t with
  | nil => rfl
  | cons e r ih =>
    obtain ⟨a, b⟩ := e
    by_cases h : a = k <;> simp [tdel, tget, h, ih]

theorem tget_tdel_other (t : Table α) {k j : Nat} (h : j ≠ k) : tget d (tdel t k) j = tget d t j := by
  induction t with
  | nil => rfl
  | cons e r ih =>
    obtain ⟨a, b⟩ := e
    by_cases hk : a = k
    · have hj : a ≠ j := by omega
      simp only [tdel, hk, if_true, tget, ih]
      rw [if_neg (by omega)]
    · simp only [tdel, hk, if_false, tget, ih]

theorem tget_tins_same (t : Table α) (k : Nat) (v : α) : tget d (tins t k v) k = v := by
  induction t with
  | nil => simp [tins, tget]
  | cons e r ih =>
    obtain ⟨a, b⟩ := e
    unfold tins
    split
    · simp [tget]
    · split
      · simp [tget]
      · rw [tget, if_neg (by omega), ih]

theorem tget_tins_other (t : Table α) {k j : Nat} (v : α) (h : j ≠ k) : tget d (tins t k v) j = tget d t j := by
  induction t with
  | nil => simp [tins, tget, Ne.symm h]
  | cons e r ih =>
    obtain ⟨a, b⟩ := e
    unfold tins
    split
    · simp [tget, Ne.symm h]
    · split
      · rename_i hk
        simp [tget, ← hk, Ne.symm h]
      · simp only [tget, ih]

variable [DecidableEq α]

/-- A read of the key just written gives the value written. -/
@[simp] theorem tget_tput_same (t : Table α) (k : Nat) (v : α) : tget d (tput d t k v) k = v := by
  unfold tput
  split
  · rename_i h
    rw [tget_tdel_same, h]
  · exact tget_tins_same t k v

/-- A write leaves every other key alone. -/
theorem tget_tput_other (t : Table α) {k j : Nat} (v : α) (h : j ≠ k) : tget d (tput d t k v) j = tget d t j := by
  unfold tput
  split
  · exact tget_tdel_other t h
  · exact tget_tins_other t v h

theorem tget_tput (t : Table α) (k j : Nat) (v : α) : tget d (tput d t k v) j = if j = k then v else tget d t j := by
  split
  · rename_i h
    rw [h, tget_tput_same]
  · rename_i h
    exact tget_tput_other t v h

theorem tableFrom_weaken (t : Table α) {x y : Nat} (h : x ≤ y) (ht : tableFrom d y t = true) : tableFrom d x t = true := by
  cases t with
  | nil => rfl
  | cons e r =>
    obtain ⟨a, b⟩ := e
    simp only [tableFrom, Bool.and_eq_true, decide_eq_true_eq] at ht ⊢
    exact ⟨⟨by omega, ht.1.2⟩, ht.2⟩

theorem tableFrom_tdel (t : Table α) (lo k : Nat) (h : tableFrom d lo t = true) : tableFrom d lo (tdel t k) = true := by
  induction t generalizing lo with
  | nil => rfl
  | cons e r ih =>
    obtain ⟨a, b⟩ := e
    simp only [tableFrom, Bool.and_eq_true, decide_eq_true_eq] at h
    unfold tdel
    split
    · exact tableFrom_weaken _ (by omega) (ih (a + 1) h.2)
    · simp only [tableFrom, Bool.and_eq_true, decide_eq_true_eq]
      exact ⟨h.1, ih (a + 1) h.2⟩

theorem tableFrom_tins (t : Table α) (lo k : Nat) (v : α) (h : tableFrom d lo t = true) (hk : lo ≤ k) (hv : v ≠ d) :
    tableFrom d lo (tins t k v) = true := by
  induction t generalizing lo with
  | nil => simp [tins, tableFrom, hv, hk]
  | cons e r ih =>
    obtain ⟨a, b⟩ := e
    simp only [tableFrom, Bool.and_eq_true, decide_eq_true_eq] at h
    unfold tins
    split
    · rename_i hlt
      simp only [tableFrom, Bool.and_eq_true, decide_eq_true_eq]
      exact ⟨⟨hk, by simp [hv]⟩, ⟨by omega, h.1.2⟩, h.2⟩
    · split
      · rename_i hka
        simp only [tableFrom, Bool.and_eq_true, decide_eq_true_eq]
        refine ⟨⟨hk, by simp [hv]⟩, ?_⟩
        rw [hka]
        exact h.2
      · simp only [tableFrom, Bool.and_eq_true, decide_eq_true_eq]
        exact ⟨h.1, ih (a + 1) h.2 (by omega)⟩

/-- A write keeps the canonical form. -/
theorem tableOk_tput (t : Table α) (k : Nat) (v : α) (h : tableOk d t = true) : tableOk d (tput d t k v) = true := by
  unfold tput
  split
  · exact tableFrom_tdel t 0 k h
  · rename_i hv
    exact tableFrom_tins t 0 k v h (Nat.zero_le k) hv

/-- A run of writes keeps the canonical form. -/
theorem tableOk_tputs (vs : List α) (t : Table α) (k : Nat) (h : tableOk d t = true) : tableOk d (tputs d t k vs) = true := by
  induction vs generalizing t k with
  | nil => exact h
  | cons v r ih => exact ih _ _ (tableOk_tput t k v h)

/-- A run of writes leaves every key outside it alone. -/
theorem tget_tputs_outside (vs : List α) (t : Table α) (k j : Nat) (h : j < k ∨ k + vs.length ≤ j) :
    tget d (tputs d t k vs) j = tget d t j := by
  induction vs generalizing t k with
  | nil => rfl
  | cons v r ih =>
    simp only [List.length_cons] at h
    rw [tputs, ih _ _ (by omega), tget_tput_other _ _ (by omega)]

/-- A run of writes leaves each value at its key. -/
theorem tget_tputs_inside (vs : List α) (t : Table α) (k i : Nat) (h : i < vs.length) :
    tget d (tputs d t k vs) (k + i) = vs[i] := by
  induction vs generalizing t k i with
  | nil => simp at h
  | cons v r ih =>
    cases i with
    | zero => rw [tputs, tget_tputs_outside _ _ _ _ (by omega), Nat.add_zero, tget_tput_same]; rfl
    | succ n =>
      have h' : n < r.length := by simpa using h
      have e : k + (n + 1) = (k + 1) + n := by omega
      rw [tputs, e, ih _ _ _ h']
      rfl

end Sys2Proof.Machine
end

