-- ==== Sys2Proof/Laws/State.lean ====
section
/-!
SUPPORT. Each named update of State: the field it writes and, for every other field, that it is as before; what raising an event
does. -/

namespace Sys2Proof.Machine

@[simp] theorem State.setPan_pending (s : State) (p : Nat) (x : Pan) : (s.setPan p x).pending = s.pending := rfl
@[simp] theorem State.setPan_free (s : State) (p : Nat) (x : Pan) : (s.setPan p x).free = s.free := rfl
@[simp] theorem State.setPan_now (s : State) (p : Nat) (x : Pan) : (s.setPan p x).now = s.now := rfl
@[simp] theorem State.setPan_bus (s : State) (p : Nat) (x : Pan) : (s.setPan p x).bus = s.bus := rfl
@[simp] theorem State.setPan_out (s : State) (p : Nat) (x : Pan) : (s.setPan p x).out = s.out := rfl
@[simp] theorem State.setPan_cfg (s : State) (p : Nat) (x : Pan) : (s.setPan p x).cfg = s.cfg := rfl
@[simp] theorem State.setPan_pkg (s : State) (p : Nat) (x : Pan) : (s.setPan p x).pkg = s.pkg := rfl
@[simp] theorem State.setPan_trust (s : State) (p : Nat) (x : Pan) : (s.setPan p x).trust = s.trust := rfl
@[simp] theorem State.setPan_board (s : State) (p : Nat) (x : Pan) : (s.setPan p x).board = s.board := rfl
@[simp] theorem State.setPan_power (s : State) (p : Nat) (x : Pan) : (s.setPan p x).power = s.power := rfl
@[simp] theorem State.setPan_events (s : State) (p : Nat) (x : Pan) : (s.setPan p x).events = s.events := rfl
@[simp] theorem State.setPan_time (s : State) (p : Nat) (x : Pan) : (s.setPan p x).time = s.time := rfl
@[simp] theorem State.setPan_tide (s : State) (p : Nat) (x : Pan) : (s.setPan p x).tide = s.tide := rfl
@[simp] theorem State.setPan_plan0 (s : State) (p : Nat) (x : Pan) : (s.setPan p x).plan0 = s.plan0 := rfl
@[simp] theorem State.setPan_plan1 (s : State) (p : Nat) (x : Pan) : (s.setPan p x).plan1 = s.plan1 := rfl
@[simp] theorem State.setPan_mem (s : State) (p : Nat) (x : Pan) : (s.setPan p x).mem = s.mem := rfl
@[simp] theorem State.setPan_coh (s : State) (p : Nat) (x : Pan) : (s.setPan p x).coh = s.coh := rfl
@[simp] theorem State.setPan_stk (s : State) (p : Nat) (x : Pan) : (s.setPan p x).stk = s.stk := rfl
@[simp] theorem State.setPan_beds (s : State) (p : Nat) (x : Pan) : (s.setPan p x).beds = s.beds := rfl
@[simp] theorem State.setPan_rakes (s : State) (p : Nat) (x : Pan) : (s.setPan p x).rakes = s.rakes := rfl
@[simp] theorem State.setPan_coreDies (s : State) (p : Nat) (x : Pan) : (s.setPan p x).coreDies = s.coreDies := rfl
@[simp] theorem State.setPan_cores (s : State) (p : Nat) (x : Pan) : (s.setPan p x).cores = s.cores := rfl
@[simp] theorem State.setPan_ioDies (s : State) (p : Nat) (x : Pan) : (s.setPan p x).ioDies = s.ioDies := rfl
@[simp] theorem State.setPan_ports (s : State) (p : Nat) (x : Pan) : (s.setPan p x).ports = s.ports := rfl
@[simp] theorem State.setPan_qps (s : State) (p : Nat) (x : Pan) : (s.setPan p x).qps = s.qps := rfl
@[simp] theorem State.setPan_boxes (s : State) (p : Nat) (x : Pan) : (s.setPan p x).boxes = s.boxes := rfl
@[simp] theorem State.setPan_salter (s : State) (p : Nat) (x : Pan) : (s.setPan p x).salter = s.salter := rfl
@[simp] theorem State.setPan_tally (s : State) (p : Nat) (x : Pan) : (s.setPan p x).tally = s.tally := rfl
@[simp] theorem State.setPan_coreDie (s : State) (p : Nat) (x : Pan) (u : Nat) : (s.setPan p x).coreDie u = s.coreDie u := rfl
@[simp] theorem State.setPan_core (s : State) (p : Nat) (x : Pan) (u : Nat) : (s.setPan p x).core u = s.core u := rfl
@[simp] theorem State.setPan_ioDie (s : State) (p : Nat) (x : Pan) (u : Nat) : (s.setPan p x).ioDie u = s.ioDie u := rfl
@[simp] theorem State.setPan_port (s : State) (p : Nat) (x : Pan) (u : Nat) : (s.setPan p x).port u = s.port u := rfl
@[simp] theorem State.setPan_qp (s : State) (p : Nat) (x : Pan) (u : Nat) : (s.setPan p x).qp u = s.qp u := rfl
@[simp] theorem State.setPan_box (s : State) (p : Nat) (x : Pan) (u : Nat) : (s.setPan p x).box u = s.box u := rfl
@[simp] theorem State.setPan_bed (s : State) (p : Nat) (x : Pan) (u v : Nat) : (s.setPan p x).bed u v = s.bed u v := rfl
@[simp] theorem State.setPan_rake (s : State) (p : Nat) (x : Pan) (u v w : Nat) : (s.setPan p x).rake u v w = s.rake u v w := rfl
@[simp] theorem State.updPan_pending (s : State) (p : Nat) (f : Pan → Pan) : (s.updPan p f).pending = s.pending := rfl
@[simp] theorem State.updPan_free (s : State) (p : Nat) (f : Pan → Pan) : (s.updPan p f).free = s.free := rfl
@[simp] theorem State.updPan_now (s : State) (p : Nat) (f : Pan → Pan) : (s.updPan p f).now = s.now := rfl
@[simp] theorem State.updPan_bus (s : State) (p : Nat) (f : Pan → Pan) : (s.updPan p f).bus = s.bus := rfl
@[simp] theorem State.updPan_out (s : State) (p : Nat) (f : Pan → Pan) : (s.updPan p f).out = s.out := rfl
@[simp] theorem State.updPan_cfg (s : State) (p : Nat) (f : Pan → Pan) : (s.updPan p f).cfg = s.cfg := rfl
@[simp] theorem State.updPan_pkg (s : State) (p : Nat) (f : Pan → Pan) : (s.updPan p f).pkg = s.pkg := rfl
@[simp] theorem State.updPan_trust (s : State) (p : Nat) (f : Pan → Pan) : (s.updPan p f).trust = s.trust := rfl
@[simp] theorem State.updPan_board (s : State) (p : Nat) (f : Pan → Pan) : (s.updPan p f).board = s.board := rfl
@[simp] theorem State.updPan_power (s : State) (p : Nat) (f : Pan → Pan) : (s.updPan p f).power = s.power := rfl
@[simp] theorem State.updPan_events (s : State) (p : Nat) (f : Pan → Pan) : (s.updPan p f).events = s.events := rfl
@[simp] theorem State.updPan_time (s : State) (p : Nat) (f : Pan → Pan) : (s.updPan p f).time = s.time := rfl
@[simp] theorem State.updPan_tide (s : State) (p : Nat) (f : Pan → Pan) : (s.updPan p f).tide = s.tide := rfl
@[simp] theorem State.updPan_plan0 (s : State) (p : Nat) (f : Pan → Pan) : (s.updPan p f).plan0 = s.plan0 := rfl
@[simp] theorem State.updPan_plan1 (s : State) (p : Nat) (f : Pan → Pan) : (s.updPan p f).plan1 = s.plan1 := rfl
@[simp] theorem State.updPan_mem (s : State) (p : Nat) (f : Pan → Pan) : (s.updPan p f).mem = s.mem := rfl
@[simp] theorem State.updPan_coh (s : State) (p : Nat) (f : Pan → Pan) : (s.updPan p f).coh = s.coh := rfl
@[simp] theorem State.updPan_stk (s : State) (p : Nat) (f : Pan → Pan) : (s.updPan p f).stk = s.stk := rfl
@[simp] theorem State.updPan_beds (s : State) (p : Nat) (f : Pan → Pan) : (s.updPan p f).beds = s.beds := rfl
@[simp] theorem State.updPan_rakes (s : State) (p : Nat) (f : Pan → Pan) : (s.updPan p f).rakes = s.rakes := rfl
@[simp] theorem State.updPan_coreDies (s : State) (p : Nat) (f : Pan → Pan) : (s.updPan p f).coreDies = s.coreDies := rfl
@[simp] theorem State.updPan_cores (s : State) (p : Nat) (f : Pan → Pan) : (s.updPan p f).cores = s.cores := rfl
@[simp] theorem State.updPan_ioDies (s : State) (p : Nat) (f : Pan → Pan) : (s.updPan p f).ioDies = s.ioDies := rfl
@[simp] theorem State.updPan_ports (s : State) (p : Nat) (f : Pan → Pan) : (s.updPan p f).ports = s.ports := rfl
@[simp] theorem State.updPan_qps (s : State) (p : Nat) (f : Pan → Pan) : (s.updPan p f).qps = s.qps := rfl
@[simp] theorem State.updPan_boxes (s : State) (p : Nat) (f : Pan → Pan) : (s.updPan p f).boxes = s.boxes := rfl
@[simp] theorem State.updPan_salter (s : State) (p : Nat) (f : Pan → Pan) : (s.updPan p f).salter = s.salter := rfl
@[simp] theorem State.updPan_tally (s : State) (p : Nat) (f : Pan → Pan) : (s.updPan p f).tally = s.tally := rfl
@[simp] theorem State.updPan_coreDie (s : State) (p : Nat) (f : Pan → Pan) (u : Nat) : (s.updPan p f).coreDie u = s.coreDie u := rfl
@[simp] theorem State.updPan_core (s : State) (p : Nat) (f : Pan → Pan) (u : Nat) : (s.updPan p f).core u = s.core u := rfl
@[simp] theorem State.updPan_ioDie (s : State) (p : Nat) (f : Pan → Pan) (u : Nat) : (s.updPan p f).ioDie u = s.ioDie u := rfl
@[simp] theorem State.updPan_port (s : State) (p : Nat) (f : Pan → Pan) (u : Nat) : (s.updPan p f).port u = s.port u := rfl
@[simp] theorem State.updPan_qp (s : State) (p : Nat) (f : Pan → Pan) (u : Nat) : (s.updPan p f).qp u = s.qp u := rfl
@[simp] theorem State.updPan_box (s : State) (p : Nat) (f : Pan → Pan) (u : Nat) : (s.updPan p f).box u = s.box u := rfl
@[simp] theorem State.updPan_bed (s : State) (p : Nat) (f : Pan → Pan) (u v : Nat) : (s.updPan p f).bed u v = s.bed u v := rfl
@[simp] theorem State.updPan_rake (s : State) (p : Nat) (f : Pan → Pan) (u v w : Nat) : (s.updPan p f).rake u v w = s.rake u v w := rfl
@[simp] theorem State.setBed_pending (s : State) (p b : Nat) (x : Bed) : (s.setBed p b x).pending = s.pending := rfl
@[simp] theorem State.setBed_free (s : State) (p b : Nat) (x : Bed) : (s.setBed p b x).free = s.free := rfl
@[simp] theorem State.setBed_now (s : State) (p b : Nat) (x : Bed) : (s.setBed p b x).now = s.now := rfl
@[simp] theorem State.setBed_bus (s : State) (p b : Nat) (x : Bed) : (s.setBed p b x).bus = s.bus := rfl
@[simp] theorem State.setBed_out (s : State) (p b : Nat) (x : Bed) : (s.setBed p b x).out = s.out := rfl
@[simp] theorem State.setBed_cfg (s : State) (p b : Nat) (x : Bed) : (s.setBed p b x).cfg = s.cfg := rfl
@[simp] theorem State.setBed_pkg (s : State) (p b : Nat) (x : Bed) : (s.setBed p b x).pkg = s.pkg := rfl
@[simp] theorem State.setBed_trust (s : State) (p b : Nat) (x : Bed) : (s.setBed p b x).trust = s.trust := rfl
@[simp] theorem State.setBed_board (s : State) (p b : Nat) (x : Bed) : (s.setBed p b x).board = s.board := rfl
@[simp] theorem State.setBed_power (s : State) (p b : Nat) (x : Bed) : (s.setBed p b x).power = s.power := rfl
@[simp] theorem State.setBed_events (s : State) (p b : Nat) (x : Bed) : (s.setBed p b x).events = s.events := rfl
@[simp] theorem State.setBed_time (s : State) (p b : Nat) (x : Bed) : (s.setBed p b x).time = s.time := rfl
@[simp] theorem State.setBed_tide (s : State) (p b : Nat) (x : Bed) : (s.setBed p b x).tide = s.tide := rfl
@[simp] theorem State.setBed_plan0 (s : State) (p b : Nat) (x : Bed) : (s.setBed p b x).plan0 = s.plan0 := rfl
@[simp] theorem State.setBed_plan1 (s : State) (p b : Nat) (x : Bed) : (s.setBed p b x).plan1 = s.plan1 := rfl
@[simp] theorem State.setBed_mem (s : State) (p b : Nat) (x : Bed) : (s.setBed p b x).mem = s.mem := rfl
@[simp] theorem State.setBed_coh (s : State) (p b : Nat) (x : Bed) : (s.setBed p b x).coh = s.coh := rfl
@[simp] theorem State.setBed_stk (s : State) (p b : Nat) (x : Bed) : (s.setBed p b x).stk = s.stk := rfl
@[simp] theorem State.setBed_pans (s : State) (p b : Nat) (x : Bed) : (s.setBed p b x).pans = s.pans := rfl
@[simp] theorem State.setBed_rakes (s : State) (p b : Nat) (x : Bed) : (s.setBed p b x).rakes = s.rakes := rfl
@[simp] theorem State.setBed_coreDies (s : State) (p b : Nat) (x : Bed) : (s.setBed p b x).coreDies = s.coreDies := rfl
@[simp] theorem State.setBed_cores (s : State) (p b : Nat) (x : Bed) : (s.setBed p b x).cores = s.cores := rfl
@[simp] theorem State.setBed_ioDies (s : State) (p b : Nat) (x : Bed) : (s.setBed p b x).ioDies = s.ioDies := rfl
@[simp] theorem State.setBed_ports (s : State) (p b : Nat) (x : Bed) : (s.setBed p b x).ports = s.ports := rfl
@[simp] theorem State.setBed_qps (s : State) (p b : Nat) (x : Bed) : (s.setBed p b x).qps = s.qps := rfl
@[simp] theorem State.setBed_boxes (s : State) (p b : Nat) (x : Bed) : (s.setBed p b x).boxes = s.boxes := rfl
@[simp] theorem State.setBed_salter (s : State) (p b : Nat) (x : Bed) : (s.setBed p b x).salter = s.salter := rfl
@[simp] theorem State.setBed_tally (s : State) (p b : Nat) (x : Bed) : (s.setBed p b x).tally = s.tally := rfl
@[simp] theorem State.setBed_pan (s : State) (p b : Nat) (x : Bed) (u : Nat) : (s.setBed p b x).pan u = s.pan u := rfl
@[simp] theorem State.setBed_coreDie (s : State) (p b : Nat) (x : Bed) (u : Nat) : (s.setBed p b x).coreDie u = s.coreDie u := rfl
@[simp] theorem State.setBed_core (s : State) (p b : Nat) (x : Bed) (u : Nat) : (s.setBed p b x).core u = s.core u := rfl
@[simp] theorem State.setBed_ioDie (s : State) (p b : Nat) (x : Bed) (u : Nat) : (s.setBed p b x).ioDie u = s.ioDie u := rfl
@[simp] theorem State.setBed_port (s : State) (p b : Nat) (x : Bed) (u : Nat) : (s.setBed p b x).port u = s.port u := rfl
@[simp] theorem State.setBed_qp (s : State) (p b : Nat) (x : Bed) (u : Nat) : (s.setBed p b x).qp u = s.qp u := rfl
@[simp] theorem State.setBed_box (s : State) (p b : Nat) (x : Bed) (u : Nat) : (s.setBed p b x).box u = s.box u := rfl
@[simp] theorem State.setBed_rake (s : State) (p b : Nat) (x : Bed) (u v w : Nat) : (s.setBed p b x).rake u v w = s.rake u v w := rfl
@[simp] theorem State.updBed_pending (s : State) (p b : Nat) (f : Bed → Bed) : (s.updBed p b f).pending = s.pending := rfl
@[simp] theorem State.updBed_free (s : State) (p b : Nat) (f : Bed → Bed) : (s.updBed p b f).free = s.free := rfl
@[simp] theorem State.updBed_now (s : State) (p b : Nat) (f : Bed → Bed) : (s.updBed p b f).now = s.now := rfl
@[simp] theorem State.updBed_bus (s : State) (p b : Nat) (f : Bed → Bed) : (s.updBed p b f).bus = s.bus := rfl
@[simp] theorem State.updBed_out (s : State) (p b : Nat) (f : Bed → Bed) : (s.updBed p b f).out = s.out := rfl
@[simp] theorem State.updBed_cfg (s : State) (p b : Nat) (f : Bed → Bed) : (s.updBed p b f).cfg = s.cfg := rfl
@[simp] theorem State.updBed_pkg (s : State) (p b : Nat) (f : Bed → Bed) : (s.updBed p b f).pkg = s.pkg := rfl
@[simp] theorem State.updBed_trust (s : State) (p b : Nat) (f : Bed → Bed) : (s.updBed p b f).trust = s.trust := rfl
@[simp] theorem State.updBed_board (s : State) (p b : Nat) (f : Bed → Bed) : (s.updBed p b f).board = s.board := rfl
@[simp] theorem State.updBed_power (s : State) (p b : Nat) (f : Bed → Bed) : (s.updBed p b f).power = s.power := rfl
@[simp] theorem State.updBed_events (s : State) (p b : Nat) (f : Bed → Bed) : (s.updBed p b f).events = s.events := rfl
@[simp] theorem State.updBed_time (s : State) (p b : Nat) (f : Bed → Bed) : (s.updBed p b f).time = s.time := rfl
@[simp] theorem State.updBed_tide (s : State) (p b : Nat) (f : Bed → Bed) : (s.updBed p b f).tide = s.tide := rfl
@[simp] theorem State.updBed_plan0 (s : State) (p b : Nat) (f : Bed → Bed) : (s.updBed p b f).plan0 = s.plan0 := rfl
@[simp] theorem State.updBed_plan1 (s : State) (p b : Nat) (f : Bed → Bed) : (s.updBed p b f).plan1 = s.plan1 := rfl
@[simp] theorem State.updBed_mem (s : State) (p b : Nat) (f : Bed → Bed) : (s.updBed p b f).mem = s.mem := rfl
@[simp] theorem State.updBed_coh (s : State) (p b : Nat) (f : Bed → Bed) : (s.updBed p b f).coh = s.coh := rfl
@[simp] theorem State.updBed_stk (s : State) (p b : Nat) (f : Bed → Bed) : (s.updBed p b f).stk = s.stk := rfl
@[simp] theorem State.updBed_pans (s : State) (p b : Nat) (f : Bed → Bed) : (s.updBed p b f).pans = s.pans := rfl
@[simp] theorem State.updBed_rakes (s : State) (p b : Nat) (f : Bed → Bed) : (s.updBed p b f).rakes = s.rakes := rfl
@[simp] theorem State.updBed_coreDies (s : State) (p b : Nat) (f : Bed → Bed) : (s.updBed p b f).coreDies = s.coreDies := rfl
@[simp] theorem State.updBed_cores (s : State) (p b : Nat) (f : Bed → Bed) : (s.updBed p b f).cores = s.cores := rfl
@[simp] theorem State.updBed_ioDies (s : State) (p b : Nat) (f : Bed → Bed) : (s.updBed p b f).ioDies = s.ioDies := rfl
@[simp] theorem State.updBed_ports (s : State) (p b : Nat) (f : Bed → Bed) : (s.updBed p b f).ports = s.ports := rfl
@[simp] theorem State.updBed_qps (s : State) (p b : Nat) (f : Bed → Bed) : (s.updBed p b f).qps = s.qps := rfl
@[simp] theorem State.updBed_boxes (s : State) (p b : Nat) (f : Bed → Bed) : (s.updBed p b f).boxes = s.boxes := rfl
@[simp] theorem State.updBed_salter (s : State) (p b : Nat) (f : Bed → Bed) : (s.updBed p b f).salter = s.salter := rfl
@[simp] theorem State.updBed_tally (s : State) (p b : Nat) (f : Bed → Bed) : (s.updBed p b f).tally = s.tally := rfl
@[simp] theorem State.updBed_pan (s : State) (p b : Nat) (f : Bed → Bed) (u : Nat) : (s.updBed p b f).pan u = s.pan u := rfl
@[simp] theorem State.updBed_coreDie (s : State) (p b : Nat) (f : Bed → Bed) (u : Nat) : (s.updBed p b f).coreDie u = s.coreDie u := rfl
@[simp] theorem State.updBed_core (s : State) (p b : Nat) (f : Bed → Bed) (u : Nat) : (s.updBed p b f).core u = s.core u := rfl
@[simp] theorem State.updBed_ioDie (s : State) (p b : Nat) (f : Bed → Bed) (u : Nat) : (s.updBed p b f).ioDie u = s.ioDie u := rfl
@[simp] theorem State.updBed_port (s : State) (p b : Nat) (f : Bed → Bed) (u : Nat) : (s.updBed p b f).port u = s.port u := rfl
@[simp] theorem State.updBed_qp (s : State) (p b : Nat) (f : Bed → Bed) (u : Nat) : (s.updBed p b f).qp u = s.qp u := rfl
@[simp] theorem State.updBed_box (s : State) (p b : Nat) (f : Bed → Bed) (u : Nat) : (s.updBed p b f).box u = s.box u := rfl
@[simp] theorem State.updBed_rake (s : State) (p b : Nat) (f : Bed → Bed) (u v w : Nat) : (s.updBed p b f).rake u v w = s.rake u v w := rfl
@[simp] theorem State.setRake_pending (s : State) (p b r : Nat) (x : Rake) : (s.setRake p b r x).pending = s.pending := rfl
@[simp] theorem State.setRake_free (s : State) (p b r : Nat) (x : Rake) : (s.setRake p b r x).free = s.free := rfl
@[simp] theorem State.setRake_now (s : State) (p b r : Nat) (x : Rake) : (s.setRake p b r x).now = s.now := rfl
@[simp] theorem State.setRake_bus (s : State) (p b r : Nat) (x : Rake) : (s.setRake p b r x).bus = s.bus := rfl
@[simp] theorem State.setRake_out (s : State) (p b r : Nat) (x : Rake) : (s.setRake p b r x).out = s.out := rfl
@[simp] theorem State.setRake_cfg (s : State) (p b r : Nat) (x : Rake) : (s.setRake p b r x).cfg = s.cfg := rfl
@[simp] theorem State.setRake_pkg (s : State) (p b r : Nat) (x : Rake) : (s.setRake p b r x).pkg = s.pkg := rfl
@[simp] theorem State.setRake_trust (s : State) (p b r : Nat) (x : Rake) : (s.setRake p b r x).trust = s.trust := rfl
@[simp] theorem State.setRake_board (s : State) (p b r : Nat) (x : Rake) : (s.setRake p b r x).board = s.board := rfl
@[simp] theorem State.setRake_power (s : State) (p b r : Nat) (x : Rake) : (s.setRake p b r x).power = s.power := rfl
@[simp] theorem State.setRake_events (s : State) (p b r : Nat) (x : Rake) : (s.setRake p b r x).events = s.events := rfl
@[simp] theorem State.setRake_time (s : State) (p b r : Nat) (x : Rake) : (s.setRake p b r x).time = s.time := rfl
@[simp] theorem State.setRake_tide (s : State) (p b r : Nat) (x : Rake) : (s.setRake p b r x).tide = s.tide := rfl
@[simp] theorem State.setRake_plan0 (s : State) (p b r : Nat) (x : Rake) : (s.setRake p b r x).plan0 = s.plan0 := rfl
@[simp] theorem State.setRake_plan1 (s : State) (p b r : Nat) (x : Rake) : (s.setRake p b r x).plan1 = s.plan1 := rfl
@[simp] theorem State.setRake_mem (s : State) (p b r : Nat) (x : Rake) : (s.setRake p b r x).mem = s.mem := rfl
@[simp] theorem State.setRake_coh (s : State) (p b r : Nat) (x : Rake) : (s.setRake p b r x).coh = s.coh := rfl
@[simp] theorem State.setRake_stk (s : State) (p b r : Nat) (x : Rake) : (s.setRake p b r x).stk = s.stk := rfl
@[simp] theorem State.setRake_pans (s : State) (p b r : Nat) (x : Rake) : (s.setRake p b r x).pans = s.pans := rfl
@[simp] theorem State.setRake_beds (s : State) (p b r : Nat) (x : Rake) : (s.setRake p b r x).beds = s.beds := rfl
@[simp] theorem State.setRake_coreDies (s : State) (p b r : Nat) (x : Rake) : (s.setRake p b r x).coreDies = s.coreDies := rfl
@[simp] theorem State.setRake_cores (s : State) (p b r : Nat) (x : Rake) : (s.setRake p b r x).cores = s.cores := rfl
@[simp] theorem State.setRake_ioDies (s : State) (p b r : Nat) (x : Rake) : (s.setRake p b r x).ioDies = s.ioDies := rfl
@[simp] theorem State.setRake_ports (s : State) (p b r : Nat) (x : Rake) : (s.setRake p b r x).ports = s.ports := rfl
@[simp] theorem State.setRake_qps (s : State) (p b r : Nat) (x : Rake) : (s.setRake p b r x).qps = s.qps := rfl
@[simp] theorem State.setRake_boxes (s : State) (p b r : Nat) (x : Rake) : (s.setRake p b r x).boxes = s.boxes := rfl
@[simp] theorem State.setRake_salter (s : State) (p b r : Nat) (x : Rake) : (s.setRake p b r x).salter = s.salter := rfl
@[simp] theorem State.setRake_tally (s : State) (p b r : Nat) (x : Rake) : (s.setRake p b r x).tally = s.tally := rfl
@[simp] theorem State.setRake_pan (s : State) (p b r : Nat) (x : Rake) (u : Nat) : (s.setRake p b r x).pan u = s.pan u := rfl
@[simp] theorem State.setRake_coreDie (s : State) (p b r : Nat) (x : Rake) (u : Nat) : (s.setRake p b r x).coreDie u = s.coreDie u := rfl
@[simp] theorem State.setRake_core (s : State) (p b r : Nat) (x : Rake) (u : Nat) : (s.setRake p b r x).core u = s.core u := rfl
@[simp] theorem State.setRake_ioDie (s : State) (p b r : Nat) (x : Rake) (u : Nat) : (s.setRake p b r x).ioDie u = s.ioDie u := rfl
@[simp] theorem State.setRake_port (s : State) (p b r : Nat) (x : Rake) (u : Nat) : (s.setRake p b r x).port u = s.port u := rfl
@[simp] theorem State.setRake_qp (s : State) (p b r : Nat) (x : Rake) (u : Nat) : (s.setRake p b r x).qp u = s.qp u := rfl
@[simp] theorem State.setRake_box (s : State) (p b r : Nat) (x : Rake) (u : Nat) : (s.setRake p b r x).box u = s.box u := rfl
@[simp] theorem State.setRake_bed (s : State) (p b r : Nat) (x : Rake) (u v : Nat) : (s.setRake p b r x).bed u v = s.bed u v := rfl
@[simp] theorem State.updRake_pending (s : State) (p b r : Nat) (f : Rake → Rake) : (s.updRake p b r f).pending = s.pending := rfl
@[simp] theorem State.updRake_free (s : State) (p b r : Nat) (f : Rake → Rake) : (s.updRake p b r f).free = s.free := rfl
@[simp] theorem State.updRake_now (s : State) (p b r : Nat) (f : Rake → Rake) : (s.updRake p b r f).now = s.now := rfl
@[simp] theorem State.updRake_bus (s : State) (p b r : Nat) (f : Rake → Rake) : (s.updRake p b r f).bus = s.bus := rfl
@[simp] theorem State.updRake_out (s : State) (p b r : Nat) (f : Rake → Rake) : (s.updRake p b r f).out = s.out := rfl
@[simp] theorem State.updRake_cfg (s : State) (p b r : Nat) (f : Rake → Rake) : (s.updRake p b r f).cfg = s.cfg := rfl
@[simp] theorem State.updRake_pkg (s : State) (p b r : Nat) (f : Rake → Rake) : (s.updRake p b r f).pkg = s.pkg := rfl
@[simp] theorem State.updRake_trust (s : State) (p b r : Nat) (f : Rake → Rake) : (s.updRake p b r f).trust = s.trust := rfl
@[simp] theorem State.updRake_board (s : State) (p b r : Nat) (f : Rake → Rake) : (s.updRake p b r f).board = s.board := rfl
@[simp] theorem State.updRake_power (s : State) (p b r : Nat) (f : Rake → Rake) : (s.updRake p b r f).power = s.power := rfl
@[simp] theorem State.updRake_events (s : State) (p b r : Nat) (f : Rake → Rake) : (s.updRake p b r f).events = s.events := rfl
@[simp] theorem State.updRake_time (s : State) (p b r : Nat) (f : Rake → Rake) : (s.updRake p b r f).time = s.time := rfl
@[simp] theorem State.updRake_tide (s : State) (p b r : Nat) (f : Rake → Rake) : (s.updRake p b r f).tide = s.tide := rfl
@[simp] theorem State.updRake_plan0 (s : State) (p b r : Nat) (f : Rake → Rake) : (s.updRake p b r f).plan0 = s.plan0 := rfl
@[simp] theorem State.updRake_plan1 (s : State) (p b r : Nat) (f : Rake → Rake) : (s.updRake p b r f).plan1 = s.plan1 := rfl
@[simp] theorem State.updRake_mem (s : State) (p b r : Nat) (f : Rake → Rake) : (s.updRake p b r f).mem = s.mem := rfl
@[simp] theorem State.updRake_coh (s : State) (p b r : Nat) (f : Rake → Rake) : (s.updRake p b r f).coh = s.coh := rfl
@[simp] theorem State.updRake_stk (s : State) (p b r : Nat) (f : Rake → Rake) : (s.updRake p b r f).stk = s.stk := rfl
@[simp] theorem State.updRake_pans (s : State) (p b r : Nat) (f : Rake → Rake) : (s.updRake p b r f).pans = s.pans := rfl
@[simp] theorem State.updRake_beds (s : State) (p b r : Nat) (f : Rake → Rake) : (s.updRake p b r f).beds = s.beds := rfl
@[simp] theorem State.updRake_coreDies (s : State) (p b r : Nat) (f : Rake → Rake) : (s.updRake p b r f).coreDies = s.coreDies := rfl
@[simp] theorem State.updRake_cores (s : State) (p b r : Nat) (f : Rake → Rake) : (s.updRake p b r f).cores = s.cores := rfl
@[simp] theorem State.updRake_ioDies (s : State) (p b r : Nat) (f : Rake → Rake) : (s.updRake p b r f).ioDies = s.ioDies := rfl
@[simp] theorem State.updRake_ports (s : State) (p b r : Nat) (f : Rake → Rake) : (s.updRake p b r f).ports = s.ports := rfl
@[simp] theorem State.updRake_qps (s : State) (p b r : Nat) (f : Rake → Rake) : (s.updRake p b r f).qps = s.qps := rfl
@[simp] theorem State.updRake_boxes (s : State) (p b r : Nat) (f : Rake → Rake) : (s.updRake p b r f).boxes = s.boxes := rfl
@[simp] theorem State.updRake_salter (s : State) (p b r : Nat) (f : Rake → Rake) : (s.updRake p b r f).salter = s.salter := rfl
@[simp] theorem State.updRake_tally (s : State) (p b r : Nat) (f : Rake → Rake) : (s.updRake p b r f).tally = s.tally := rfl
@[simp] theorem State.updRake_pan (s : State) (p b r : Nat) (f : Rake → Rake) (u : Nat) : (s.updRake p b r f).pan u = s.pan u := rfl
@[simp] theorem State.updRake_coreDie (s : State) (p b r : Nat) (f : Rake → Rake) (u : Nat) : (s.updRake p b r f).coreDie u = s.coreDie u := rfl
@[simp] theorem State.updRake_core (s : State) (p b r : Nat) (f : Rake → Rake) (u : Nat) : (s.updRake p b r f).core u = s.core u := rfl
@[simp] theorem State.updRake_ioDie (s : State) (p b r : Nat) (f : Rake → Rake) (u : Nat) : (s.updRake p b r f).ioDie u = s.ioDie u := rfl
@[simp] theorem State.updRake_port (s : State) (p b r : Nat) (f : Rake → Rake) (u : Nat) : (s.updRake p b r f).port u = s.port u := rfl
@[simp] theorem State.updRake_qp (s : State) (p b r : Nat) (f : Rake → Rake) (u : Nat) : (s.updRake p b r f).qp u = s.qp u := rfl
@[simp] theorem State.updRake_box (s : State) (p b r : Nat) (f : Rake → Rake) (u : Nat) : (s.updRake p b r f).box u = s.box u := rfl
@[simp] theorem State.updRake_bed (s : State) (p b r : Nat) (f : Rake → Rake) (u v : Nat) : (s.updRake p b r f).bed u v = s.bed u v := rfl
@[simp] theorem State.updCoreDie_pending (s : State) (d : Nat) (f : CoreDie → CoreDie) : (s.updCoreDie d f).pending = s.pending := rfl
@[simp] theorem State.updCoreDie_free (s : State) (d : Nat) (f : CoreDie → CoreDie) : (s.updCoreDie d f).free = s.free := rfl
@[simp] theorem State.updCoreDie_now (s : State) (d : Nat) (f : CoreDie → CoreDie) : (s.updCoreDie d f).now = s.now := rfl
@[simp] theorem State.updCoreDie_bus (s : State) (d : Nat) (f : CoreDie → CoreDie) : (s.updCoreDie d f).bus = s.bus := rfl
@[simp] theorem State.updCoreDie_out (s : State) (d : Nat) (f : CoreDie → CoreDie) : (s.updCoreDie d f).out = s.out := rfl
@[simp] theorem State.updCoreDie_cfg (s : State) (d : Nat) (f : CoreDie → CoreDie) : (s.updCoreDie d f).cfg = s.cfg := rfl
@[simp] theorem State.updCoreDie_pkg (s : State) (d : Nat) (f : CoreDie → CoreDie) : (s.updCoreDie d f).pkg = s.pkg := rfl
@[simp] theorem State.updCoreDie_trust (s : State) (d : Nat) (f : CoreDie → CoreDie) : (s.updCoreDie d f).trust = s.trust := rfl
@[simp] theorem State.updCoreDie_board (s : State) (d : Nat) (f : CoreDie → CoreDie) : (s.updCoreDie d f).board = s.board := rfl
@[simp] theorem State.updCoreDie_power (s : State) (d : Nat) (f : CoreDie → CoreDie) : (s.updCoreDie d f).power = s.power := rfl
@[simp] theorem State.updCoreDie_events (s : State) (d : Nat) (f : CoreDie → CoreDie) : (s.updCoreDie d f).events = s.events := rfl
@[simp] theorem State.updCoreDie_time (s : State) (d : Nat) (f : CoreDie → CoreDie) : (s.updCoreDie d f).time = s.time := rfl
@[simp] theorem State.updCoreDie_tide (s : State) (d : Nat) (f : CoreDie → CoreDie) : (s.updCoreDie d f).tide = s.tide := rfl
@[simp] theorem State.updCoreDie_plan0 (s : State) (d : Nat) (f : CoreDie → CoreDie) : (s.updCoreDie d f).plan0 = s.plan0 := rfl
@[simp] theorem State.updCoreDie_plan1 (s : State) (d : Nat) (f : CoreDie → CoreDie) : (s.updCoreDie d f).plan1 = s.plan1 := rfl
@[simp] theorem State.updCoreDie_mem (s : State) (d : Nat) (f : CoreDie → CoreDie) : (s.updCoreDie d f).mem = s.mem := rfl
@[simp] theorem State.updCoreDie_coh (s : State) (d : Nat) (f : CoreDie → CoreDie) : (s.updCoreDie d f).coh = s.coh := rfl
@[simp] theorem State.updCoreDie_stk (s : State) (d : Nat) (f : CoreDie → CoreDie) : (s.updCoreDie d f).stk = s.stk := rfl
@[simp] theorem State.updCoreDie_pans (s : State) (d : Nat) (f : CoreDie → CoreDie) : (s.updCoreDie d f).pans = s.pans := rfl
@[simp] theorem State.updCoreDie_beds (s : State) (d : Nat) (f : CoreDie → CoreDie) : (s.updCoreDie d f).beds = s.beds := rfl
@[simp] theorem State.updCoreDie_rakes (s : State) (d : Nat) (f : CoreDie → CoreDie) : (s.updCoreDie d f).rakes = s.rakes := rfl
@[simp] theorem State.updCoreDie_cores (s : State) (d : Nat) (f : CoreDie → CoreDie) : (s.updCoreDie d f).cores = s.cores := rfl
@[simp] theorem State.updCoreDie_ioDies (s : State) (d : Nat) (f : CoreDie → CoreDie) : (s.updCoreDie d f).ioDies = s.ioDies := rfl
@[simp] theorem State.updCoreDie_ports (s : State) (d : Nat) (f : CoreDie → CoreDie) : (s.updCoreDie d f).ports = s.ports := rfl
@[simp] theorem State.updCoreDie_qps (s : State) (d : Nat) (f : CoreDie → CoreDie) : (s.updCoreDie d f).qps = s.qps := rfl
@[simp] theorem State.updCoreDie_boxes (s : State) (d : Nat) (f : CoreDie → CoreDie) : (s.updCoreDie d f).boxes = s.boxes := rfl
@[simp] theorem State.updCoreDie_salter (s : State) (d : Nat) (f : CoreDie → CoreDie) : (s.updCoreDie d f).salter = s.salter := rfl
@[simp] theorem State.updCoreDie_tally (s : State) (d : Nat) (f : CoreDie → CoreDie) : (s.updCoreDie d f).tally = s.tally := rfl
@[simp] theorem State.updCoreDie_pan (s : State) (d : Nat) (f : CoreDie → CoreDie) (u : Nat) : (s.updCoreDie d f).pan u = s.pan u := rfl
@[simp] theorem State.updCoreDie_core (s : State) (d : Nat) (f : CoreDie → CoreDie) (u : Nat) : (s.updCoreDie d f).core u = s.core u := rfl
@[simp] theorem State.updCoreDie_ioDie (s : State) (d : Nat) (f : CoreDie → CoreDie) (u : Nat) : (s.updCoreDie d f).ioDie u = s.ioDie u := rfl
@[simp] theorem State.updCoreDie_port (s : State) (d : Nat) (f : CoreDie → CoreDie) (u : Nat) : (s.updCoreDie d f).port u = s.port u := rfl
@[simp] theorem State.updCoreDie_qp (s : State) (d : Nat) (f : CoreDie → CoreDie) (u : Nat) : (s.updCoreDie d f).qp u = s.qp u := rfl
@[simp] theorem State.updCoreDie_box (s : State) (d : Nat) (f : CoreDie → CoreDie) (u : Nat) : (s.updCoreDie d f).box u = s.box u := rfl
@[simp] theorem State.updCoreDie_bed (s : State) (d : Nat) (f : CoreDie → CoreDie) (u v : Nat) : (s.updCoreDie d f).bed u v = s.bed u v := rfl
@[simp] theorem State.updCoreDie_rake (s : State) (d : Nat) (f : CoreDie → CoreDie) (u v w : Nat) : (s.updCoreDie d f).rake u v w = s.rake u v w := rfl
@[simp] theorem State.setCore_pending (s : State) (n : Nat) (x : Core) : (s.setCore n x).pending = s.pending := rfl
@[simp] theorem State.setCore_free (s : State) (n : Nat) (x : Core) : (s.setCore n x).free = s.free := rfl
@[simp] theorem State.setCore_now (s : State) (n : Nat) (x : Core) : (s.setCore n x).now = s.now := rfl
@[simp] theorem State.setCore_bus (s : State) (n : Nat) (x : Core) : (s.setCore n x).bus = s.bus := rfl
@[simp] theorem State.setCore_out (s : State) (n : Nat) (x : Core) : (s.setCore n x).out = s.out := rfl
@[simp] theorem State.setCore_cfg (s : State) (n : Nat) (x : Core) : (s.setCore n x).cfg = s.cfg := rfl
@[simp] theorem State.setCore_pkg (s : State) (n : Nat) (x : Core) : (s.setCore n x).pkg = s.pkg := rfl
@[simp] theorem State.setCore_trust (s : State) (n : Nat) (x : Core) : (s.setCore n x).trust = s.trust := rfl
@[simp] theorem State.setCore_board (s : State) (n : Nat) (x : Core) : (s.setCore n x).board = s.board := rfl
@[simp] theorem State.setCore_power (s : State) (n : Nat) (x : Core) : (s.setCore n x).power = s.power := rfl
@[simp] theorem State.setCore_events (s : State) (n : Nat) (x : Core) : (s.setCore n x).events = s.events := rfl
@[simp] theorem State.setCore_time (s : State) (n : Nat) (x : Core) : (s.setCore n x).time = s.time := rfl
@[simp] theorem State.setCore_tide (s : State) (n : Nat) (x : Core) : (s.setCore n x).tide = s.tide := rfl
@[simp] theorem State.setCore_plan0 (s : State) (n : Nat) (x : Core) : (s.setCore n x).plan0 = s.plan0 := rfl
@[simp] theorem State.setCore_plan1 (s : State) (n : Nat) (x : Core) : (s.setCore n x).plan1 = s.plan1 := rfl
@[simp] theorem State.setCore_mem (s : State) (n : Nat) (x : Core) : (s.setCore n x).mem = s.mem := rfl
@[simp] theorem State.setCore_coh (s : State) (n : Nat) (x : Core) : (s.setCore n x).coh = s.coh := rfl
@[simp] theorem State.setCore_stk (s : State) (n : Nat) (x : Core) : (s.setCore n x).stk = s.stk := rfl
@[simp] theorem State.setCore_pans (s : State) (n : Nat) (x : Core) : (s.setCore n x).pans = s.pans := rfl
@[simp] theorem State.setCore_beds (s : State) (n : Nat) (x : Core) : (s.setCore n x).beds = s.beds := rfl
@[simp] theorem State.setCore_rakes (s : State) (n : Nat) (x : Core) : (s.setCore n x).rakes = s.rakes := rfl
@[simp] theorem State.setCore_coreDies (s : State) (n : Nat) (x : Core) : (s.setCore n x).coreDies = s.coreDies := rfl
@[simp] theorem State.setCore_ioDies (s : State) (n : Nat) (x : Core) : (s.setCore n x).ioDies = s.ioDies := rfl
@[simp] theorem State.setCore_ports (s : State) (n : Nat) (x : Core) : (s.setCore n x).ports = s.ports := rfl
@[simp] theorem State.setCore_qps (s : State) (n : Nat) (x : Core) : (s.setCore n x).qps = s.qps := rfl
@[simp] theorem State.setCore_boxes (s : State) (n : Nat) (x : Core) : (s.setCore n x).boxes = s.boxes := rfl
@[simp] theorem State.setCore_salter (s : State) (n : Nat) (x : Core) : (s.setCore n x).salter = s.salter := rfl
@[simp] theorem State.setCore_tally (s : State) (n : Nat) (x : Core) : (s.setCore n x).tally = s.tally := rfl
@[simp] theorem State.setCore_pan (s : State) (n : Nat) (x : Core) (u : Nat) : (s.setCore n x).pan u = s.pan u := rfl
@[simp] theorem State.setCore_coreDie (s : State) (n : Nat) (x : Core) (u : Nat) : (s.setCore n x).coreDie u = s.coreDie u := rfl
@[simp] theorem State.setCore_ioDie (s : State) (n : Nat) (x : Core) (u : Nat) : (s.setCore n x).ioDie u = s.ioDie u := rfl
@[simp] theorem State.setCore_port (s : State) (n : Nat) (x : Core) (u : Nat) : (s.setCore n x).port u = s.port u := rfl
@[simp] theorem State.setCore_qp (s : State) (n : Nat) (x : Core) (u : Nat) : (s.setCore n x).qp u = s.qp u := rfl
@[simp] theorem State.setCore_box (s : State) (n : Nat) (x : Core) (u : Nat) : (s.setCore n x).box u = s.box u := rfl
@[simp] theorem State.setCore_bed (s : State) (n : Nat) (x : Core) (u v : Nat) : (s.setCore n x).bed u v = s.bed u v := rfl
@[simp] theorem State.setCore_rake (s : State) (n : Nat) (x : Core) (u v w : Nat) : (s.setCore n x).rake u v w = s.rake u v w := rfl
@[simp] theorem State.updCore_pending (s : State) (n : Nat) (f : Core → Core) : (s.updCore n f).pending = s.pending := rfl
@[simp] theorem State.updCore_free (s : State) (n : Nat) (f : Core → Core) : (s.updCore n f).free = s.free := rfl
@[simp] theorem State.updCore_now (s : State) (n : Nat) (f : Core → Core) : (s.updCore n f).now = s.now := rfl
@[simp] theorem State.updCore_bus (s : State) (n : Nat) (f : Core → Core) : (s.updCore n f).bus = s.bus := rfl
@[simp] theorem State.updCore_out (s : State) (n : Nat) (f : Core → Core) : (s.updCore n f).out = s.out := rfl
@[simp] theorem State.updCore_cfg (s : State) (n : Nat) (f : Core → Core) : (s.updCore n f).cfg = s.cfg := rfl
@[simp] theorem State.updCore_pkg (s : State) (n : Nat) (f : Core → Core) : (s.updCore n f).pkg = s.pkg := rfl
@[simp] theorem State.updCore_trust (s : State) (n : Nat) (f : Core → Core) : (s.updCore n f).trust = s.trust := rfl
@[simp] theorem State.updCore_board (s : State) (n : Nat) (f : Core → Core) : (s.updCore n f).board = s.board := rfl
@[simp] theorem State.updCore_power (s : State) (n : Nat) (f : Core → Core) : (s.updCore n f).power = s.power := rfl
@[simp] theorem State.updCore_events (s : State) (n : Nat) (f : Core → Core) : (s.updCore n f).events = s.events := rfl
@[simp] theorem State.updCore_time (s : State) (n : Nat) (f : Core → Core) : (s.updCore n f).time = s.time := rfl
@[simp] theorem State.updCore_tide (s : State) (n : Nat) (f : Core → Core) : (s.updCore n f).tide = s.tide := rfl
@[simp] theorem State.updCore_plan0 (s : State) (n : Nat) (f : Core → Core) : (s.updCore n f).plan0 = s.plan0 := rfl
@[simp] theorem State.updCore_plan1 (s : State) (n : Nat) (f : Core → Core) : (s.updCore n f).plan1 = s.plan1 := rfl
@[simp] theorem State.updCore_mem (s : State) (n : Nat) (f : Core → Core) : (s.updCore n f).mem = s.mem := rfl
@[simp] theorem State.updCore_coh (s : State) (n : Nat) (f : Core → Core) : (s.updCore n f).coh = s.coh := rfl
@[simp] theorem State.updCore_stk (s : State) (n : Nat) (f : Core → Core) : (s.updCore n f).stk = s.stk := rfl
@[simp] theorem State.updCore_pans (s : State) (n : Nat) (f : Core → Core) : (s.updCore n f).pans = s.pans := rfl
@[simp] theorem State.updCore_beds (s : State) (n : Nat) (f : Core → Core) : (s.updCore n f).beds = s.beds := rfl
@[simp] theorem State.updCore_rakes (s : State) (n : Nat) (f : Core → Core) : (s.updCore n f).rakes = s.rakes := rfl
@[simp] theorem State.updCore_coreDies (s : State) (n : Nat) (f : Core → Core) : (s.updCore n f).coreDies = s.coreDies := rfl
@[simp] theorem State.updCore_ioDies (s : State) (n : Nat) (f : Core → Core) : (s.updCore n f).ioDies = s.ioDies := rfl
@[simp] theorem State.updCore_ports (s : State) (n : Nat) (f : Core → Core) : (s.updCore n f).ports = s.ports := rfl
@[simp] theorem State.updCore_qps (s : State) (n : Nat) (f : Core → Core) : (s.updCore n f).qps = s.qps := rfl
@[simp] theorem State.updCore_boxes (s : State) (n : Nat) (f : Core → Core) : (s.updCore n f).boxes = s.boxes := rfl
@[simp] theorem State.updCore_salter (s : State) (n : Nat) (f : Core → Core) : (s.updCore n f).salter = s.salter := rfl
@[simp] theorem State.updCore_tally (s : State) (n : Nat) (f : Core → Core) : (s.updCore n f).tally = s.tally := rfl
@[simp] theorem State.updCore_pan (s : State) (n : Nat) (f : Core → Core) (u : Nat) : (s.updCore n f).pan u = s.pan u := rfl
@[simp] theorem State.updCore_coreDie (s : State) (n : Nat) (f : Core → Core) (u : Nat) : (s.updCore n f).coreDie u = s.coreDie u := rfl
@[simp] theorem State.updCore_ioDie (s : State) (n : Nat) (f : Core → Core) (u : Nat) : (s.updCore n f).ioDie u = s.ioDie u := rfl
@[simp] theorem State.updCore_port (s : State) (n : Nat) (f : Core → Core) (u : Nat) : (s.updCore n f).port u = s.port u := rfl
@[simp] theorem State.updCore_qp (s : State) (n : Nat) (f : Core → Core) (u : Nat) : (s.updCore n f).qp u = s.qp u := rfl
@[simp] theorem State.updCore_box (s : State) (n : Nat) (f : Core → Core) (u : Nat) : (s.updCore n f).box u = s.box u := rfl
@[simp] theorem State.updCore_bed (s : State) (n : Nat) (f : Core → Core) (u v : Nat) : (s.updCore n f).bed u v = s.bed u v := rfl
@[simp] theorem State.updCore_rake (s : State) (n : Nat) (f : Core → Core) (u v w : Nat) : (s.updCore n f).rake u v w = s.rake u v w := rfl
@[simp] theorem State.updIoDie_pending (s : State) (i : Nat) (f : IoDie → IoDie) : (s.updIoDie i f).pending = s.pending := rfl
@[simp] theorem State.updIoDie_free (s : State) (i : Nat) (f : IoDie → IoDie) : (s.updIoDie i f).free = s.free := rfl
@[simp] theorem State.updIoDie_now (s : State) (i : Nat) (f : IoDie → IoDie) : (s.updIoDie i f).now = s.now := rfl
@[simp] theorem State.updIoDie_bus (s : State) (i : Nat) (f : IoDie → IoDie) : (s.updIoDie i f).bus = s.bus := rfl
@[simp] theorem State.updIoDie_out (s : State) (i : Nat) (f : IoDie → IoDie) : (s.updIoDie i f).out = s.out := rfl
@[simp] theorem State.updIoDie_cfg (s : State) (i : Nat) (f : IoDie → IoDie) : (s.updIoDie i f).cfg = s.cfg := rfl
@[simp] theorem State.updIoDie_pkg (s : State) (i : Nat) (f : IoDie → IoDie) : (s.updIoDie i f).pkg = s.pkg := rfl
@[simp] theorem State.updIoDie_trust (s : State) (i : Nat) (f : IoDie → IoDie) : (s.updIoDie i f).trust = s.trust := rfl
@[simp] theorem State.updIoDie_board (s : State) (i : Nat) (f : IoDie → IoDie) : (s.updIoDie i f).board = s.board := rfl
@[simp] theorem State.updIoDie_power (s : State) (i : Nat) (f : IoDie → IoDie) : (s.updIoDie i f).power = s.power := rfl
@[simp] theorem State.updIoDie_events (s : State) (i : Nat) (f : IoDie → IoDie) : (s.updIoDie i f).events = s.events := rfl
@[simp] theorem State.updIoDie_time (s : State) (i : Nat) (f : IoDie → IoDie) : (s.updIoDie i f).time = s.time := rfl
@[simp] theorem State.updIoDie_tide (s : State) (i : Nat) (f : IoDie → IoDie) : (s.updIoDie i f).tide = s.tide := rfl
@[simp] theorem State.updIoDie_plan0 (s : State) (i : Nat) (f : IoDie → IoDie) : (s.updIoDie i f).plan0 = s.plan0 := rfl
@[simp] theorem State.updIoDie_plan1 (s : State) (i : Nat) (f : IoDie → IoDie) : (s.updIoDie i f).plan1 = s.plan1 := rfl
@[simp] theorem State.updIoDie_mem (s : State) (i : Nat) (f : IoDie → IoDie) : (s.updIoDie i f).mem = s.mem := rfl
@[simp] theorem State.updIoDie_coh (s : State) (i : Nat) (f : IoDie → IoDie) : (s.updIoDie i f).coh = s.coh := rfl
@[simp] theorem State.updIoDie_stk (s : State) (i : Nat) (f : IoDie → IoDie) : (s.updIoDie i f).stk = s.stk := rfl
@[simp] theorem State.updIoDie_pans (s : State) (i : Nat) (f : IoDie → IoDie) : (s.updIoDie i f).pans = s.pans := rfl
@[simp] theorem State.updIoDie_beds (s : State) (i : Nat) (f : IoDie → IoDie) : (s.updIoDie i f).beds = s.beds := rfl
@[simp] theorem State.updIoDie_rakes (s : State) (i : Nat) (f : IoDie → IoDie) : (s.updIoDie i f).rakes = s.rakes := rfl
@[simp] theorem State.updIoDie_coreDies (s : State) (i : Nat) (f : IoDie → IoDie) : (s.updIoDie i f).coreDies = s.coreDies := rfl
@[simp] theorem State.updIoDie_cores (s : State) (i : Nat) (f : IoDie → IoDie) : (s.updIoDie i f).cores = s.cores := rfl
@[simp] theorem State.updIoDie_ports (s : State) (i : Nat) (f : IoDie → IoDie) : (s.updIoDie i f).ports = s.ports := rfl
@[simp] theorem State.updIoDie_qps (s : State) (i : Nat) (f : IoDie → IoDie) : (s.updIoDie i f).qps = s.qps := rfl
@[simp] theorem State.updIoDie_boxes (s : State) (i : Nat) (f : IoDie → IoDie) : (s.updIoDie i f).boxes = s.boxes := rfl
@[simp] theorem State.updIoDie_salter (s : State) (i : Nat) (f : IoDie → IoDie) : (s.updIoDie i f).salter = s.salter := rfl
@[simp] theorem State.updIoDie_tally (s : State) (i : Nat) (f : IoDie → IoDie) : (s.updIoDie i f).tally = s.tally := rfl
@[simp] theorem State.updIoDie_pan (s : State) (i : Nat) (f : IoDie → IoDie) (u : Nat) : (s.updIoDie i f).pan u = s.pan u := rfl
@[simp] theorem State.updIoDie_coreDie (s : State) (i : Nat) (f : IoDie → IoDie) (u : Nat) : (s.updIoDie i f).coreDie u = s.coreDie u := rfl
@[simp] theorem State.updIoDie_core (s : State) (i : Nat) (f : IoDie → IoDie) (u : Nat) : (s.updIoDie i f).core u = s.core u := rfl
@[simp] theorem State.updIoDie_port (s : State) (i : Nat) (f : IoDie → IoDie) (u : Nat) : (s.updIoDie i f).port u = s.port u := rfl
@[simp] theorem State.updIoDie_qp (s : State) (i : Nat) (f : IoDie → IoDie) (u : Nat) : (s.updIoDie i f).qp u = s.qp u := rfl
@[simp] theorem State.updIoDie_box (s : State) (i : Nat) (f : IoDie → IoDie) (u : Nat) : (s.updIoDie i f).box u = s.box u := rfl
@[simp] theorem State.updIoDie_bed (s : State) (i : Nat) (f : IoDie → IoDie) (u v : Nat) : (s.updIoDie i f).bed u v = s.bed u v := rfl
@[simp] theorem State.updIoDie_rake (s : State) (i : Nat) (f : IoDie → IoDie) (u v w : Nat) : (s.updIoDie i f).rake u v w = s.rake u v w := rfl
@[simp] theorem State.updPort_pending (s : State) (j : Nat) (f : Port → Port) : (s.updPort j f).pending = s.pending := rfl
@[simp] theorem State.updPort_free (s : State) (j : Nat) (f : Port → Port) : (s.updPort j f).free = s.free := rfl
@[simp] theorem State.updPort_now (s : State) (j : Nat) (f : Port → Port) : (s.updPort j f).now = s.now := rfl
@[simp] theorem State.updPort_bus (s : State) (j : Nat) (f : Port → Port) : (s.updPort j f).bus = s.bus := rfl
@[simp] theorem State.updPort_out (s : State) (j : Nat) (f : Port → Port) : (s.updPort j f).out = s.out := rfl
@[simp] theorem State.updPort_cfg (s : State) (j : Nat) (f : Port → Port) : (s.updPort j f).cfg = s.cfg := rfl
@[simp] theorem State.updPort_pkg (s : State) (j : Nat) (f : Port → Port) : (s.updPort j f).pkg = s.pkg := rfl
@[simp] theorem State.updPort_trust (s : State) (j : Nat) (f : Port → Port) : (s.updPort j f).trust = s.trust := rfl
@[simp] theorem State.updPort_board (s : State) (j : Nat) (f : Port → Port) : (s.updPort j f).board = s.board := rfl
@[simp] theorem State.updPort_power (s : State) (j : Nat) (f : Port → Port) : (s.updPort j f).power = s.power := rfl
@[simp] theorem State.updPort_events (s : State) (j : Nat) (f : Port → Port) : (s.updPort j f).events = s.events := rfl
@[simp] theorem State.updPort_time (s : State) (j : Nat) (f : Port → Port) : (s.updPort j f).time = s.time := rfl
@[simp] theorem State.updPort_tide (s : State) (j : Nat) (f : Port → Port) : (s.updPort j f).tide = s.tide := rfl
@[simp] theorem State.updPort_plan0 (s : State) (j : Nat) (f : Port → Port) : (s.updPort j f).plan0 = s.plan0 := rfl
@[simp] theorem State.updPort_plan1 (s : State) (j : Nat) (f : Port → Port) : (s.updPort j f).plan1 = s.plan1 := rfl
@[simp] theorem State.updPort_mem (s : State) (j : Nat) (f : Port → Port) : (s.updPort j f).mem = s.mem := rfl
@[simp] theorem State.updPort_coh (s : State) (j : Nat) (f : Port → Port) : (s.updPort j f).coh = s.coh := rfl
@[simp] theorem State.updPort_stk (s : State) (j : Nat) (f : Port → Port) : (s.updPort j f).stk = s.stk := rfl
@[simp] theorem State.updPort_pans (s : State) (j : Nat) (f : Port → Port) : (s.updPort j f).pans = s.pans := rfl
@[simp] theorem State.updPort_beds (s : State) (j : Nat) (f : Port → Port) : (s.updPort j f).beds = s.beds := rfl
@[simp] theorem State.updPort_rakes (s : State) (j : Nat) (f : Port → Port) : (s.updPort j f).rakes = s.rakes := rfl
@[simp] theorem State.updPort_coreDies (s : State) (j : Nat) (f : Port → Port) : (s.updPort j f).coreDies = s.coreDies := rfl
@[simp] theorem State.updPort_cores (s : State) (j : Nat) (f : Port → Port) : (s.updPort j f).cores = s.cores := rfl
@[simp] theorem State.updPort_ioDies (s : State) (j : Nat) (f : Port → Port) : (s.updPort j f).ioDies = s.ioDies := rfl
@[simp] theorem State.updPort_qps (s : State) (j : Nat) (f : Port → Port) : (s.updPort j f).qps = s.qps := rfl
@[simp] theorem State.updPort_boxes (s : State) (j : Nat) (f : Port → Port) : (s.updPort j f).boxes = s.boxes := rfl
@[simp] theorem State.updPort_salter (s : State) (j : Nat) (f : Port → Port) : (s.updPort j f).salter = s.salter := rfl
@[simp] theorem State.updPort_tally (s : State) (j : Nat) (f : Port → Port) : (s.updPort j f).tally = s.tally := rfl
@[simp] theorem State.updPort_pan (s : State) (j : Nat) (f : Port → Port) (u : Nat) : (s.updPort j f).pan u = s.pan u := rfl
@[simp] theorem State.updPort_coreDie (s : State) (j : Nat) (f : Port → Port) (u : Nat) : (s.updPort j f).coreDie u = s.coreDie u := rfl
@[simp] theorem State.updPort_core (s : State) (j : Nat) (f : Port → Port) (u : Nat) : (s.updPort j f).core u = s.core u := rfl
@[simp] theorem State.updPort_ioDie (s : State) (j : Nat) (f : Port → Port) (u : Nat) : (s.updPort j f).ioDie u = s.ioDie u := rfl
@[simp] theorem State.updPort_qp (s : State) (j : Nat) (f : Port → Port) (u : Nat) : (s.updPort j f).qp u = s.qp u := rfl
@[simp] theorem State.updPort_box (s : State) (j : Nat) (f : Port → Port) (u : Nat) : (s.updPort j f).box u = s.box u := rfl
@[simp] theorem State.updPort_bed (s : State) (j : Nat) (f : Port → Port) (u v : Nat) : (s.updPort j f).bed u v = s.bed u v := rfl
@[simp] theorem State.updPort_rake (s : State) (j : Nat) (f : Port → Port) (u v w : Nat) : (s.updPort j f).rake u v w = s.rake u v w := rfl
@[simp] theorem State.setQp_pending (s : State) (q : Nat) (x : Option Qp) : (s.setQp q x).pending = s.pending := rfl
@[simp] theorem State.setQp_free (s : State) (q : Nat) (x : Option Qp) : (s.setQp q x).free = s.free := rfl
@[simp] theorem State.setQp_now (s : State) (q : Nat) (x : Option Qp) : (s.setQp q x).now = s.now := rfl
@[simp] theorem State.setQp_bus (s : State) (q : Nat) (x : Option Qp) : (s.setQp q x).bus = s.bus := rfl
@[simp] theorem State.setQp_out (s : State) (q : Nat) (x : Option Qp) : (s.setQp q x).out = s.out := rfl
@[simp] theorem State.setQp_cfg (s : State) (q : Nat) (x : Option Qp) : (s.setQp q x).cfg = s.cfg := rfl
@[simp] theorem State.setQp_pkg (s : State) (q : Nat) (x : Option Qp) : (s.setQp q x).pkg = s.pkg := rfl
@[simp] theorem State.setQp_trust (s : State) (q : Nat) (x : Option Qp) : (s.setQp q x).trust = s.trust := rfl
@[simp] theorem State.setQp_board (s : State) (q : Nat) (x : Option Qp) : (s.setQp q x).board = s.board := rfl
@[simp] theorem State.setQp_power (s : State) (q : Nat) (x : Option Qp) : (s.setQp q x).power = s.power := rfl
@[simp] theorem State.setQp_events (s : State) (q : Nat) (x : Option Qp) : (s.setQp q x).events = s.events := rfl
@[simp] theorem State.setQp_time (s : State) (q : Nat) (x : Option Qp) : (s.setQp q x).time = s.time := rfl
@[simp] theorem State.setQp_tide (s : State) (q : Nat) (x : Option Qp) : (s.setQp q x).tide = s.tide := rfl
@[simp] theorem State.setQp_plan0 (s : State) (q : Nat) (x : Option Qp) : (s.setQp q x).plan0 = s.plan0 := rfl
@[simp] theorem State.setQp_plan1 (s : State) (q : Nat) (x : Option Qp) : (s.setQp q x).plan1 = s.plan1 := rfl
@[simp] theorem State.setQp_mem (s : State) (q : Nat) (x : Option Qp) : (s.setQp q x).mem = s.mem := rfl
@[simp] theorem State.setQp_coh (s : State) (q : Nat) (x : Option Qp) : (s.setQp q x).coh = s.coh := rfl
@[simp] theorem State.setQp_stk (s : State) (q : Nat) (x : Option Qp) : (s.setQp q x).stk = s.stk := rfl
@[simp] theorem State.setQp_pans (s : State) (q : Nat) (x : Option Qp) : (s.setQp q x).pans = s.pans := rfl
@[simp] theorem State.setQp_beds (s : State) (q : Nat) (x : Option Qp) : (s.setQp q x).beds = s.beds := rfl
@[simp] theorem State.setQp_rakes (s : State) (q : Nat) (x : Option Qp) : (s.setQp q x).rakes = s.rakes := rfl
@[simp] theorem State.setQp_coreDies (s : State) (q : Nat) (x : Option Qp) : (s.setQp q x).coreDies = s.coreDies := rfl
@[simp] theorem State.setQp_cores (s : State) (q : Nat) (x : Option Qp) : (s.setQp q x).cores = s.cores := rfl
@[simp] theorem State.setQp_ioDies (s : State) (q : Nat) (x : Option Qp) : (s.setQp q x).ioDies = s.ioDies := rfl
@[simp] theorem State.setQp_ports (s : State) (q : Nat) (x : Option Qp) : (s.setQp q x).ports = s.ports := rfl
@[simp] theorem State.setQp_boxes (s : State) (q : Nat) (x : Option Qp) : (s.setQp q x).boxes = s.boxes := rfl
@[simp] theorem State.setQp_salter (s : State) (q : Nat) (x : Option Qp) : (s.setQp q x).salter = s.salter := rfl
@[simp] theorem State.setQp_tally (s : State) (q : Nat) (x : Option Qp) : (s.setQp q x).tally = s.tally := rfl
@[simp] theorem State.setQp_pan (s : State) (q : Nat) (x : Option Qp) (u : Nat) : (s.setQp q x).pan u = s.pan u := rfl
@[simp] theorem State.setQp_coreDie (s : State) (q : Nat) (x : Option Qp) (u : Nat) : (s.setQp q x).coreDie u = s.coreDie u := rfl
@[simp] theorem State.setQp_core (s : State) (q : Nat) (x : Option Qp) (u : Nat) : (s.setQp q x).core u = s.core u := rfl
@[simp] theorem State.setQp_ioDie (s : State) (q : Nat) (x : Option Qp) (u : Nat) : (s.setQp q x).ioDie u = s.ioDie u := rfl
@[simp] theorem State.setQp_port (s : State) (q : Nat) (x : Option Qp) (u : Nat) : (s.setQp q x).port u = s.port u := rfl
@[simp] theorem State.setQp_box (s : State) (q : Nat) (x : Option Qp) (u : Nat) : (s.setQp q x).box u = s.box u := rfl
@[simp] theorem State.setQp_bed (s : State) (q : Nat) (x : Option Qp) (u v : Nat) : (s.setQp q x).bed u v = s.bed u v := rfl
@[simp] theorem State.setQp_rake (s : State) (q : Nat) (x : Option Qp) (u v w : Nat) : (s.setQp q x).rake u v w = s.rake u v w := rfl
@[simp] theorem State.updBox_pending (s : State) (m : Nat) (f : Mailbox → Mailbox) : (s.updBox m f).pending = s.pending := rfl
@[simp] theorem State.updBox_free (s : State) (m : Nat) (f : Mailbox → Mailbox) : (s.updBox m f).free = s.free := rfl
@[simp] theorem State.updBox_now (s : State) (m : Nat) (f : Mailbox → Mailbox) : (s.updBox m f).now = s.now := rfl
@[simp] theorem State.updBox_bus (s : State) (m : Nat) (f : Mailbox → Mailbox) : (s.updBox m f).bus = s.bus := rfl
@[simp] theorem State.updBox_out (s : State) (m : Nat) (f : Mailbox → Mailbox) : (s.updBox m f).out = s.out := rfl
@[simp] theorem State.updBox_cfg (s : State) (m : Nat) (f : Mailbox → Mailbox) : (s.updBox m f).cfg = s.cfg := rfl
@[simp] theorem State.updBox_pkg (s : State) (m : Nat) (f : Mailbox → Mailbox) : (s.updBox m f).pkg = s.pkg := rfl
@[simp] theorem State.updBox_trust (s : State) (m : Nat) (f : Mailbox → Mailbox) : (s.updBox m f).trust = s.trust := rfl
@[simp] theorem State.updBox_board (s : State) (m : Nat) (f : Mailbox → Mailbox) : (s.updBox m f).board = s.board := rfl
@[simp] theorem State.updBox_power (s : State) (m : Nat) (f : Mailbox → Mailbox) : (s.updBox m f).power = s.power := rfl
@[simp] theorem State.updBox_events (s : State) (m : Nat) (f : Mailbox → Mailbox) : (s.updBox m f).events = s.events := rfl
@[simp] theorem State.updBox_time (s : State) (m : Nat) (f : Mailbox → Mailbox) : (s.updBox m f).time = s.time := rfl
@[simp] theorem State.updBox_tide (s : State) (m : Nat) (f : Mailbox → Mailbox) : (s.updBox m f).tide = s.tide := rfl
@[simp] theorem State.updBox_plan0 (s : State) (m : Nat) (f : Mailbox → Mailbox) : (s.updBox m f).plan0 = s.plan0 := rfl
@[simp] theorem State.updBox_plan1 (s : State) (m : Nat) (f : Mailbox → Mailbox) : (s.updBox m f).plan1 = s.plan1 := rfl
@[simp] theorem State.updBox_mem (s : State) (m : Nat) (f : Mailbox → Mailbox) : (s.updBox m f).mem = s.mem := rfl
@[simp] theorem State.updBox_coh (s : State) (m : Nat) (f : Mailbox → Mailbox) : (s.updBox m f).coh = s.coh := rfl
@[simp] theorem State.updBox_stk (s : State) (m : Nat) (f : Mailbox → Mailbox) : (s.updBox m f).stk = s.stk := rfl
@[simp] theorem State.updBox_pans (s : State) (m : Nat) (f : Mailbox → Mailbox) : (s.updBox m f).pans = s.pans := rfl
@[simp] theorem State.updBox_beds (s : State) (m : Nat) (f : Mailbox → Mailbox) : (s.updBox m f).beds = s.beds := rfl
@[simp] theorem State.updBox_rakes (s : State) (m : Nat) (f : Mailbox → Mailbox) : (s.updBox m f).rakes = s.rakes := rfl
@[simp] theorem State.updBox_coreDies (s : State) (m : Nat) (f : Mailbox → Mailbox) : (s.updBox m f).coreDies = s.coreDies := rfl
@[simp] theorem State.updBox_cores (s : State) (m : Nat) (f : Mailbox → Mailbox) : (s.updBox m f).cores = s.cores := rfl
@[simp] theorem State.updBox_ioDies (s : State) (m : Nat) (f : Mailbox → Mailbox) : (s.updBox m f).ioDies = s.ioDies := rfl
@[simp] theorem State.updBox_ports (s : State) (m : Nat) (f : Mailbox → Mailbox) : (s.updBox m f).ports = s.ports := rfl
@[simp] theorem State.updBox_qps (s : State) (m : Nat) (f : Mailbox → Mailbox) : (s.updBox m f).qps = s.qps := rfl
@[simp] theorem State.updBox_salter (s : State) (m : Nat) (f : Mailbox → Mailbox) : (s.updBox m f).salter = s.salter := rfl
@[simp] theorem State.updBox_tally (s : State) (m : Nat) (f : Mailbox → Mailbox) : (s.updBox m f).tally = s.tally := rfl
@[simp] theorem State.updBox_pan (s : State) (m : Nat) (f : Mailbox → Mailbox) (u : Nat) : (s.updBox m f).pan u = s.pan u := rfl
@[simp] theorem State.updBox_coreDie (s : State) (m : Nat) (f : Mailbox → Mailbox) (u : Nat) : (s.updBox m f).coreDie u = s.coreDie u := rfl
@[simp] theorem State.updBox_core (s : State) (m : Nat) (f : Mailbox → Mailbox) (u : Nat) : (s.updBox m f).core u = s.core u := rfl
@[simp] theorem State.updBox_ioDie (s : State) (m : Nat) (f : Mailbox → Mailbox) (u : Nat) : (s.updBox m f).ioDie u = s.ioDie u := rfl
@[simp] theorem State.updBox_port (s : State) (m : Nat) (f : Mailbox → Mailbox) (u : Nat) : (s.updBox m f).port u = s.port u := rfl
@[simp] theorem State.updBox_qp (s : State) (m : Nat) (f : Mailbox → Mailbox) (u : Nat) : (s.updBox m f).qp u = s.qp u := rfl
@[simp] theorem State.updBox_bed (s : State) (m : Nat) (f : Mailbox → Mailbox) (u v : Nat) : (s.updBox m f).bed u v = s.bed u v := rfl
@[simp] theorem State.updBox_rake (s : State) (m : Nat) (f : Mailbox → Mailbox) (u v w : Nat) : (s.updBox m f).rake u v w = s.rake u v w := rfl
@[simp] theorem State.updTide_pending (s : State) (f : Tide → Tide) : (s.updTide f).pending = s.pending := rfl
@[simp] theorem State.updTide_free (s : State) (f : Tide → Tide) : (s.updTide f).free = s.free := rfl
@[simp] theorem State.updTide_now (s : State) (f : Tide → Tide) : (s.updTide f).now = s.now := rfl
@[simp] theorem State.updTide_bus (s : State) (f : Tide → Tide) : (s.updTide f).bus = s.bus := rfl
@[simp] theorem State.updTide_out (s : State) (f : Tide → Tide) : (s.updTide f).out = s.out := rfl
@[simp] theorem State.updTide_cfg (s : State) (f : Tide → Tide) : (s.updTide f).cfg = s.cfg := rfl
@[simp] theorem State.updTide_pkg (s : State) (f : Tide → Tide) : (s.updTide f).pkg = s.pkg := rfl
@[simp] theorem State.updTide_trust (s : State) (f : Tide → Tide) : (s.updTide f).trust = s.trust := rfl
@[simp] theorem State.updTide_board (s : State) (f : Tide → Tide) : (s.updTide f).board = s.board := rfl
@[simp] theorem State.updTide_power (s : State) (f : Tide → Tide) : (s.updTide f).power = s.power := rfl
@[simp] theorem State.updTide_events (s : State) (f : Tide → Tide) : (s.updTide f).events = s.events := rfl
@[simp] theorem State.updTide_time (s : State) (f : Tide → Tide) : (s.updTide f).time = s.time := rfl
@[simp] theorem State.updTide_plan0 (s : State) (f : Tide → Tide) : (s.updTide f).plan0 = s.plan0 := rfl
@[simp] theorem State.updTide_plan1 (s : State) (f : Tide → Tide) : (s.updTide f).plan1 = s.plan1 := rfl
@[simp] theorem State.updTide_mem (s : State) (f : Tide → Tide) : (s.updTide f).mem = s.mem := rfl
@[simp] theorem State.updTide_coh (s : State) (f : Tide → Tide) : (s.updTide f).coh = s.coh := rfl
@[simp] theorem State.updTide_stk (s : State) (f : Tide → Tide) : (s.updTide f).stk = s.stk := rfl
@[simp] theorem State.updTide_pans (s : State) (f : Tide → Tide) : (s.updTide f).pans = s.pans := rfl
@[simp] theorem State.updTide_beds (s : State) (f : Tide → Tide) : (s.updTide f).beds = s.beds := rfl
@[simp] theorem State.updTide_rakes (s : State) (f : Tide → Tide) : (s.updTide f).rakes = s.rakes := rfl
@[simp] theorem State.updTide_coreDies (s : State) (f : Tide → Tide) : (s.updTide f).coreDies = s.coreDies := rfl
@[simp] theorem State.updTide_cores (s : State) (f : Tide → Tide) : (s.updTide f).cores = s.cores := rfl
@[simp] theorem State.updTide_ioDies (s : State) (f : Tide → Tide) : (s.updTide f).ioDies = s.ioDies := rfl
@[simp] theorem State.updTide_ports (s : State) (f : Tide → Tide) : (s.updTide f).ports = s.ports := rfl
@[simp] theorem State.updTide_qps (s : State) (f : Tide → Tide) : (s.updTide f).qps = s.qps := rfl
@[simp] theorem State.updTide_boxes (s : State) (f : Tide → Tide) : (s.updTide f).boxes = s.boxes := rfl
@[simp] theorem State.updTide_salter (s : State) (f : Tide → Tide) : (s.updTide f).salter = s.salter := rfl
@[simp] theorem State.updTide_tally (s : State) (f : Tide → Tide) : (s.updTide f).tally = s.tally := rfl
@[simp] theorem State.updTide_pan (s : State) (f : Tide → Tide) (u : Nat) : (s.updTide f).pan u = s.pan u := rfl
@[simp] theorem State.updTide_coreDie (s : State) (f : Tide → Tide) (u : Nat) : (s.updTide f).coreDie u = s.coreDie u := rfl
@[simp] theorem State.updTide_core (s : State) (f : Tide → Tide) (u : Nat) : (s.updTide f).core u = s.core u := rfl
@[simp] theorem State.updTide_ioDie (s : State) (f : Tide → Tide) (u : Nat) : (s.updTide f).ioDie u = s.ioDie u := rfl
@[simp] theorem State.updTide_port (s : State) (f : Tide → Tide) (u : Nat) : (s.updTide f).port u = s.port u := rfl
@[simp] theorem State.updTide_qp (s : State) (f : Tide → Tide) (u : Nat) : (s.updTide f).qp u = s.qp u := rfl
@[simp] theorem State.updTide_box (s : State) (f : Tide → Tide) (u : Nat) : (s.updTide f).box u = s.box u := rfl
@[simp] theorem State.updTide_bed (s : State) (f : Tide → Tide) (u v : Nat) : (s.updTide f).bed u v = s.bed u v := rfl
@[simp] theorem State.updTide_rake (s : State) (f : Tide → Tide) (u v w : Nat) : (s.updTide f).rake u v w = s.rake u v w := rfl
@[simp] theorem State.updTally_pending (s : State) (f : Tally → Tally) : (s.updTally f).pending = s.pending := rfl
@[simp] theorem State.updTally_free (s : State) (f : Tally → Tally) : (s.updTally f).free = s.free := rfl
@[simp] theorem State.updTally_now (s : State) (f : Tally → Tally) : (s.updTally f).now = s.now := rfl
@[simp] theorem State.updTally_bus (s : State) (f : Tally → Tally) : (s.updTally f).bus = s.bus := rfl
@[simp] theorem State.updTally_out (s : State) (f : Tally → Tally) : (s.updTally f).out = s.out := rfl
@[simp] theorem State.updTally_cfg (s : State) (f : Tally → Tally) : (s.updTally f).cfg = s.cfg := rfl
@[simp] theorem State.updTally_pkg (s : State) (f : Tally → Tally) : (s.updTally f).pkg = s.pkg := rfl
@[simp] theorem State.updTally_trust (s : State) (f : Tally → Tally) : (s.updTally f).trust = s.trust := rfl
@[simp] theorem State.updTally_board (s : State) (f : Tally → Tally) : (s.updTally f).board = s.board := rfl
@[simp] theorem State.updTally_power (s : State) (f : Tally → Tally) : (s.updTally f).power = s.power := rfl
@[simp] theorem State.updTally_events (s : State) (f : Tally → Tally) : (s.updTally f).events = s.events := rfl
@[simp] theorem State.updTally_time (s : State) (f : Tally → Tally) : (s.updTally f).time = s.time := rfl
@[simp] theorem State.updTally_tide (s : State) (f : Tally → Tally) : (s.updTally f).tide = s.tide := rfl
@[simp] theorem State.updTally_plan0 (s : State) (f : Tally → Tally) : (s.updTally f).plan0 = s.plan0 := rfl
@[simp] theorem State.updTally_plan1 (s : State) (f : Tally → Tally) : (s.updTally f).plan1 = s.plan1 := rfl
@[simp] theorem State.updTally_mem (s : State) (f : Tally → Tally) : (s.updTally f).mem = s.mem := rfl
@[simp] theorem State.updTally_coh (s : State) (f : Tally → Tally) : (s.updTally f).coh = s.coh := rfl
@[simp] theorem State.updTally_stk (s : State) (f : Tally → Tally) : (s.updTally f).stk = s.stk := rfl
@[simp] theorem State.updTally_pans (s : State) (f : Tally → Tally) : (s.updTally f).pans = s.pans := rfl
@[simp] theorem State.updTally_beds (s : State) (f : Tally → Tally) : (s.updTally f).beds = s.beds := rfl
@[simp] theorem State.updTally_rakes (s : State) (f : Tally → Tally) : (s.updTally f).rakes = s.rakes := rfl
@[simp] theorem State.updTally_coreDies (s : State) (f : Tally → Tally) : (s.updTally f).coreDies = s.coreDies := rfl
@[simp] theorem State.updTally_cores (s : State) (f : Tally → Tally) : (s.updTally f).cores = s.cores := rfl
@[simp] theorem State.updTally_ioDies (s : State) (f : Tally → Tally) : (s.updTally f).ioDies = s.ioDies := rfl
@[simp] theorem State.updTally_ports (s : State) (f : Tally → Tally) : (s.updTally f).ports = s.ports := rfl
@[simp] theorem State.updTally_qps (s : State) (f : Tally → Tally) : (s.updTally f).qps = s.qps := rfl
@[simp] theorem State.updTally_boxes (s : State) (f : Tally → Tally) : (s.updTally f).boxes = s.boxes := rfl
@[simp] theorem State.updTally_salter (s : State) (f : Tally → Tally) : (s.updTally f).salter = s.salter := rfl
@[simp] theorem State.updTally_pan (s : State) (f : Tally → Tally) (u : Nat) : (s.updTally f).pan u = s.pan u := rfl
@[simp] theorem State.updTally_coreDie (s : State) (f : Tally → Tally) (u : Nat) : (s.updTally f).coreDie u = s.coreDie u := rfl
@[simp] theorem State.updTally_core (s : State) (f : Tally → Tally) (u : Nat) : (s.updTally f).core u = s.core u := rfl
@[simp] theorem State.updTally_ioDie (s : State) (f : Tally → Tally) (u : Nat) : (s.updTally f).ioDie u = s.ioDie u := rfl
@[simp] theorem State.updTally_port (s : State) (f : Tally → Tally) (u : Nat) : (s.updTally f).port u = s.port u := rfl
@[simp] theorem State.updTally_qp (s : State) (f : Tally → Tally) (u : Nat) : (s.updTally f).qp u = s.qp u := rfl
@[simp] theorem State.updTally_box (s : State) (f : Tally → Tally) (u : Nat) : (s.updTally f).box u = s.box u := rfl
@[simp] theorem State.updTally_bed (s : State) (f : Tally → Tally) (u v : Nat) : (s.updTally f).bed u v = s.bed u v := rfl
@[simp] theorem State.updTally_rake (s : State) (f : Tally → Tally) (u v w : Nat) : (s.updTally f).rake u v w = s.rake u v w := rfl
@[simp] theorem State.updSalter_pending (s : State) (f : Salter → Salter) : (s.updSalter f).pending = s.pending := rfl
@[simp] theorem State.updSalter_free (s : State) (f : Salter → Salter) : (s.updSalter f).free = s.free := rfl
@[simp] theorem State.updSalter_now (s : State) (f : Salter → Salter) : (s.updSalter f).now = s.now := rfl
@[simp] theorem State.updSalter_bus (s : State) (f : Salter → Salter) : (s.updSalter f).bus = s.bus := rfl
@[simp] theorem State.updSalter_out (s : State) (f : Salter → Salter) : (s.updSalter f).out = s.out := rfl
@[simp] theorem State.updSalter_cfg (s : State) (f : Salter → Salter) : (s.updSalter f).cfg = s.cfg := rfl
@[simp] theorem State.updSalter_pkg (s : State) (f : Salter → Salter) : (s.updSalter f).pkg = s.pkg := rfl
@[simp] theorem State.updSalter_trust (s : State) (f : Salter → Salter) : (s.updSalter f).trust = s.trust := rfl
@[simp] theorem State.updSalter_board (s : State) (f : Salter → Salter) : (s.updSalter f).board = s.board := rfl
@[simp] theorem State.updSalter_power (s : State) (f : Salter → Salter) : (s.updSalter f).power = s.power := rfl
@[simp] theorem State.updSalter_events (s : State) (f : Salter → Salter) : (s.updSalter f).events = s.events := rfl
@[simp] theorem State.updSalter_time (s : State) (f : Salter → Salter) : (s.updSalter f).time = s.time := rfl
@[simp] theorem State.updSalter_tide (s : State) (f : Salter → Salter) : (s.updSalter f).tide = s.tide := rfl
@[simp] theorem State.updSalter_plan0 (s : State) (f : Salter → Salter) : (s.updSalter f).plan0 = s.plan0 := rfl
@[simp] theorem State.updSalter_plan1 (s : State) (f : Salter → Salter) : (s.updSalter f).plan1 = s.plan1 := rfl
@[simp] theorem State.updSalter_mem (s : State) (f : Salter → Salter) : (s.updSalter f).mem = s.mem := rfl
@[simp] theorem State.updSalter_coh (s : State) (f : Salter → Salter) : (s.updSalter f).coh = s.coh := rfl
@[simp] theorem State.updSalter_stk (s : State) (f : Salter → Salter) : (s.updSalter f).stk = s.stk := rfl
@[simp] theorem State.updSalter_pans (s : State) (f : Salter → Salter) : (s.updSalter f).pans = s.pans := rfl
@[simp] theorem State.updSalter_beds (s : State) (f : Salter → Salter) : (s.updSalter f).beds = s.beds := rfl
@[simp] theorem State.updSalter_rakes (s : State) (f : Salter → Salter) : (s.updSalter f).rakes = s.rakes := rfl
@[simp] theorem State.updSalter_coreDies (s : State) (f : Salter → Salter) : (s.updSalter f).coreDies = s.coreDies := rfl
@[simp] theorem State.updSalter_cores (s : State) (f : Salter → Salter) : (s.updSalter f).cores = s.cores := rfl
@[simp] theorem State.updSalter_ioDies (s : State) (f : Salter → Salter) : (s.updSalter f).ioDies = s.ioDies := rfl
@[simp] theorem State.updSalter_ports (s : State) (f : Salter → Salter) : (s.updSalter f).ports = s.ports := rfl
@[simp] theorem State.updSalter_qps (s : State) (f : Salter → Salter) : (s.updSalter f).qps = s.qps := rfl
@[simp] theorem State.updSalter_boxes (s : State) (f : Salter → Salter) : (s.updSalter f).boxes = s.boxes := rfl
@[simp] theorem State.updSalter_tally (s : State) (f : Salter → Salter) : (s.updSalter f).tally = s.tally := rfl
@[simp] theorem State.updSalter_pan (s : State) (f : Salter → Salter) (u : Nat) : (s.updSalter f).pan u = s.pan u := rfl
@[simp] theorem State.updSalter_coreDie (s : State) (f : Salter → Salter) (u : Nat) : (s.updSalter f).coreDie u = s.coreDie u := rfl
@[simp] theorem State.updSalter_core (s : State) (f : Salter → Salter) (u : Nat) : (s.updSalter f).core u = s.core u := rfl
@[simp] theorem State.updSalter_ioDie (s : State) (f : Salter → Salter) (u : Nat) : (s.updSalter f).ioDie u = s.ioDie u := rfl
@[simp] theorem State.updSalter_port (s : State) (f : Salter → Salter) (u : Nat) : (s.updSalter f).port u = s.port u := rfl
@[simp] theorem State.updSalter_qp (s : State) (f : Salter → Salter) (u : Nat) : (s.updSalter f).qp u = s.qp u := rfl
@[simp] theorem State.updSalter_box (s : State) (f : Salter → Salter) (u : Nat) : (s.updSalter f).box u = s.box u := rfl
@[simp] theorem State.updSalter_bed (s : State) (f : Salter → Salter) (u v : Nat) : (s.updSalter f).bed u v = s.bed u v := rfl
@[simp] theorem State.updSalter_rake (s : State) (f : Salter → Salter) (u v w : Nat) : (s.updSalter f).rake u v w = s.rake u v w := rfl
@[simp] theorem State.updPkg_pending (s : State) (f : Package → Package) : (s.updPkg f).pending = s.pending := rfl
@[simp] theorem State.updPkg_free (s : State) (f : Package → Package) : (s.updPkg f).free = s.free := rfl
@[simp] theorem State.updPkg_now (s : State) (f : Package → Package) : (s.updPkg f).now = s.now := rfl
@[simp] theorem State.updPkg_bus (s : State) (f : Package → Package) : (s.updPkg f).bus = s.bus := rfl
@[simp] theorem State.updPkg_out (s : State) (f : Package → Package) : (s.updPkg f).out = s.out := rfl
@[simp] theorem State.updPkg_cfg (s : State) (f : Package → Package) : (s.updPkg f).cfg = s.cfg := rfl
@[simp] theorem State.updPkg_trust (s : State) (f : Package → Package) : (s.updPkg f).trust = s.trust := rfl
@[simp] theorem State.updPkg_board (s : State) (f : Package → Package) : (s.updPkg f).board = s.board := rfl
@[simp] theorem State.updPkg_power (s : State) (f : Package → Package) : (s.updPkg f).power = s.power := rfl
@[simp] theorem State.updPkg_events (s : State) (f : Package → Package) : (s.updPkg f).events = s.events := rfl
@[simp] theorem State.updPkg_time (s : State) (f : Package → Package) : (s.updPkg f).time = s.time := rfl
@[simp] theorem State.updPkg_tide (s : State) (f : Package → Package) : (s.updPkg f).tide = s.tide := rfl
@[simp] theorem State.updPkg_plan0 (s : State) (f : Package → Package) : (s.updPkg f).plan0 = s.plan0 := rfl
@[simp] theorem State.updPkg_plan1 (s : State) (f : Package → Package) : (s.updPkg f).plan1 = s.plan1 := rfl
@[simp] theorem State.updPkg_mem (s : State) (f : Package → Package) : (s.updPkg f).mem = s.mem := rfl
@[simp] theorem State.updPkg_coh (s : State) (f : Package → Package) : (s.updPkg f).coh = s.coh := rfl
@[simp] theorem State.updPkg_stk (s : State) (f : Package → Package) : (s.updPkg f).stk = s.stk := rfl
@[simp] theorem State.updPkg_pans (s : State) (f : Package → Package) : (s.updPkg f).pans = s.pans := rfl
@[simp] theorem State.updPkg_beds (s : State) (f : Package → Package) : (s.updPkg f).beds = s.beds := rfl
@[simp] theorem State.updPkg_rakes (s : State) (f : Package → Package) : (s.updPkg f).rakes = s.rakes := rfl
@[simp] theorem State.updPkg_coreDies (s : State) (f : Package → Package) : (s.updPkg f).coreDies = s.coreDies := rfl
@[simp] theorem State.updPkg_cores (s : State) (f : Package → Package) : (s.updPkg f).cores = s.cores := rfl
@[simp] theorem State.updPkg_ioDies (s : State) (f : Package → Package) : (s.updPkg f).ioDies = s.ioDies := rfl
@[simp] theorem State.updPkg_ports (s : State) (f : Package → Package) : (s.updPkg f).ports = s.ports := rfl
@[simp] theorem State.updPkg_qps (s : State) (f : Package → Package) : (s.updPkg f).qps = s.qps := rfl
@[simp] theorem State.updPkg_boxes (s : State) (f : Package → Package) : (s.updPkg f).boxes = s.boxes := rfl
@[simp] theorem State.updPkg_salter (s : State) (f : Package → Package) : (s.updPkg f).salter = s.salter := rfl
@[simp] theorem State.updPkg_tally (s : State) (f : Package → Package) : (s.updPkg f).tally = s.tally := rfl
@[simp] theorem State.updPkg_pan (s : State) (f : Package → Package) (u : Nat) : (s.updPkg f).pan u = s.pan u := rfl
@[simp] theorem State.updPkg_coreDie (s : State) (f : Package → Package) (u : Nat) : (s.updPkg f).coreDie u = s.coreDie u := rfl
@[simp] theorem State.updPkg_core (s : State) (f : Package → Package) (u : Nat) : (s.updPkg f).core u = s.core u := rfl
@[simp] theorem State.updPkg_ioDie (s : State) (f : Package → Package) (u : Nat) : (s.updPkg f).ioDie u = s.ioDie u := rfl
@[simp] theorem State.updPkg_port (s : State) (f : Package → Package) (u : Nat) : (s.updPkg f).port u = s.port u := rfl
@[simp] theorem State.updPkg_qp (s : State) (f : Package → Package) (u : Nat) : (s.updPkg f).qp u = s.qp u := rfl
@[simp] theorem State.updPkg_box (s : State) (f : Package → Package) (u : Nat) : (s.updPkg f).box u = s.box u := rfl
@[simp] theorem State.updPkg_bed (s : State) (f : Package → Package) (u v : Nat) : (s.updPkg f).bed u v = s.bed u v := rfl
@[simp] theorem State.updPkg_rake (s : State) (f : Package → Package) (u v w : Nat) : (s.updPkg f).rake u v w = s.rake u v w := rfl
@[simp] theorem State.updEvents_pending (s : State) (f : Events → Events) : (s.updEvents f).pending = s.pending := rfl
@[simp] theorem State.updEvents_free (s : State) (f : Events → Events) : (s.updEvents f).free = s.free := rfl
@[simp] theorem State.updEvents_now (s : State) (f : Events → Events) : (s.updEvents f).now = s.now := rfl
@[simp] theorem State.updEvents_bus (s : State) (f : Events → Events) : (s.updEvents f).bus = s.bus := rfl
@[simp] theorem State.updEvents_out (s : State) (f : Events → Events) : (s.updEvents f).out = s.out := rfl
@[simp] theorem State.updEvents_cfg (s : State) (f : Events → Events) : (s.updEvents f).cfg = s.cfg := rfl
@[simp] theorem State.updEvents_pkg (s : State) (f : Events → Events) : (s.updEvents f).pkg = s.pkg := rfl
@[simp] theorem State.updEvents_trust (s : State) (f : Events → Events) : (s.updEvents f).trust = s.trust := rfl
@[simp] theorem State.updEvents_board (s : State) (f : Events → Events) : (s.updEvents f).board = s.board := rfl
@[simp] theorem State.updEvents_power (s : State) (f : Events → Events) : (s.updEvents f).power = s.power := rfl
@[simp] theorem State.updEvents_time (s : State) (f : Events → Events) : (s.updEvents f).time = s.time := rfl
@[simp] theorem State.updEvents_tide (s : State) (f : Events → Events) : (s.updEvents f).tide = s.tide := rfl
@[simp] theorem State.updEvents_plan0 (s : State) (f : Events → Events) : (s.updEvents f).plan0 = s.plan0 := rfl
@[simp] theorem State.updEvents_plan1 (s : State) (f : Events → Events) : (s.updEvents f).plan1 = s.plan1 := rfl
@[simp] theorem State.updEvents_mem (s : State) (f : Events → Events) : (s.updEvents f).mem = s.mem := rfl
@[simp] theorem State.updEvents_coh (s : State) (f : Events → Events) : (s.updEvents f).coh = s.coh := rfl
@[simp] theorem State.updEvents_stk (s : State) (f : Events → Events) : (s.updEvents f).stk = s.stk := rfl
@[simp] theorem State.updEvents_pans (s : State) (f : Events → Events) : (s.updEvents f).pans = s.pans := rfl
@[simp] theorem State.updEvents_beds (s : State) (f : Events → Events) : (s.updEvents f).beds = s.beds := rfl
@[simp] theorem State.updEvents_rakes (s : State) (f : Events → Events) : (s.updEvents f).rakes = s.rakes := rfl
@[simp] theorem State.updEvents_coreDies (s : State) (f : Events → Events) : (s.updEvents f).coreDies = s.coreDies := rfl
@[simp] theorem State.updEvents_cores (s : State) (f : Events → Events) : (s.updEvents f).cores = s.cores := rfl
@[simp] theorem State.updEvents_ioDies (s : State) (f : Events → Events) : (s.updEvents f).ioDies = s.ioDies := rfl
@[simp] theorem State.updEvents_ports (s : State) (f : Events → Events) : (s.updEvents f).ports = s.ports := rfl
@[simp] theorem State.updEvents_qps (s : State) (f : Events → Events) : (s.updEvents f).qps = s.qps := rfl
@[simp] theorem State.updEvents_boxes (s : State) (f : Events → Events) : (s.updEvents f).boxes = s.boxes := rfl
@[simp] theorem State.updEvents_salter (s : State) (f : Events → Events) : (s.updEvents f).salter = s.salter := rfl
@[simp] theorem State.updEvents_tally (s : State) (f : Events → Events) : (s.updEvents f).tally = s.tally := rfl
@[simp] theorem State.updEvents_pan (s : State) (f : Events → Events) (u : Nat) : (s.updEvents f).pan u = s.pan u := rfl
@[simp] theorem State.updEvents_coreDie (s : State) (f : Events → Events) (u : Nat) : (s.updEvents f).coreDie u = s.coreDie u := rfl
@[simp] theorem State.updEvents_core (s : State) (f : Events → Events) (u : Nat) : (s.updEvents f).core u = s.core u := rfl
@[simp] theorem State.updEvents_ioDie (s : State) (f : Events → Events) (u : Nat) : (s.updEvents f).ioDie u = s.ioDie u := rfl
@[simp] theorem State.updEvents_port (s : State) (f : Events → Events) (u : Nat) : (s.updEvents f).port u = s.port u := rfl
@[simp] theorem State.updEvents_qp (s : State) (f : Events → Events) (u : Nat) : (s.updEvents f).qp u = s.qp u := rfl
@[simp] theorem State.updEvents_box (s : State) (f : Events → Events) (u : Nat) : (s.updEvents f).box u = s.box u := rfl
@[simp] theorem State.updEvents_bed (s : State) (f : Events → Events) (u v : Nat) : (s.updEvents f).bed u v = s.bed u v := rfl
@[simp] theorem State.updEvents_rake (s : State) (f : Events → Events) (u v w : Nat) : (s.updEvents f).rake u v w = s.rake u v w := rfl
@[simp] theorem State.updPower_pending (s : State) (f : Power → Power) : (s.updPower f).pending = s.pending := rfl
@[simp] theorem State.updPower_free (s : State) (f : Power → Power) : (s.updPower f).free = s.free := rfl
@[simp] theorem State.updPower_now (s : State) (f : Power → Power) : (s.updPower f).now = s.now := rfl
@[simp] theorem State.updPower_bus (s : State) (f : Power → Power) : (s.updPower f).bus = s.bus := rfl
@[simp] theorem State.updPower_out (s : State) (f : Power → Power) : (s.updPower f).out = s.out := rfl
@[simp] theorem State.updPower_cfg (s : State) (f : Power → Power) : (s.updPower f).cfg = s.cfg := rfl
@[simp] theorem State.updPower_pkg (s : State) (f : Power → Power) : (s.updPower f).pkg = s.pkg := rfl
@[simp] theorem State.updPower_trust (s : State) (f : Power → Power) : (s.updPower f).trust = s.trust := rfl
@[simp] theorem State.updPower_board (s : State) (f : Power → Power) : (s.updPower f).board = s.board := rfl
@[simp] theorem State.updPower_events (s : State) (f : Power → Power) : (s.updPower f).events = s.events := rfl
@[simp] theorem State.updPower_time (s : State) (f : Power → Power) : (s.updPower f).time = s.time := rfl
@[simp] theorem State.updPower_tide (s : State) (f : Power → Power) : (s.updPower f).tide = s.tide := rfl
@[simp] theorem State.updPower_plan0 (s : State) (f : Power → Power) : (s.updPower f).plan0 = s.plan0 := rfl
@[simp] theorem State.updPower_plan1 (s : State) (f : Power → Power) : (s.updPower f).plan1 = s.plan1 := rfl
@[simp] theorem State.updPower_mem (s : State) (f : Power → Power) : (s.updPower f).mem = s.mem := rfl
@[simp] theorem State.updPower_coh (s : State) (f : Power → Power) : (s.updPower f).coh = s.coh := rfl
@[simp] theorem State.updPower_stk (s : State) (f : Power → Power) : (s.updPower f).stk = s.stk := rfl
@[simp] theorem State.updPower_pans (s : State) (f : Power → Power) : (s.updPower f).pans = s.pans := rfl
@[simp] theorem State.updPower_beds (s : State) (f : Power → Power) : (s.updPower f).beds = s.beds := rfl
@[simp] theorem State.updPower_rakes (s : State) (f : Power → Power) : (s.updPower f).rakes = s.rakes := rfl
@[simp] theorem State.updPower_coreDies (s : State) (f : Power → Power) : (s.updPower f).coreDies = s.coreDies := rfl
@[simp] theorem State.updPower_cores (s : State) (f : Power → Power) : (s.updPower f).cores = s.cores := rfl
@[simp] theorem State.updPower_ioDies (s : State) (f : Power → Power) : (s.updPower f).ioDies = s.ioDies := rfl
@[simp] theorem State.updPower_ports (s : State) (f : Power → Power) : (s.updPower f).ports = s.ports := rfl
@[simp] theorem State.updPower_qps (s : State) (f : Power → Power) : (s.updPower f).qps = s.qps := rfl
@[simp] theorem State.updPower_boxes (s : State) (f : Power → Power) : (s.updPower f).boxes = s.boxes := rfl
@[simp] theorem State.updPower_salter (s : State) (f : Power → Power) : (s.updPower f).salter = s.salter := rfl
@[simp] theorem State.updPower_tally (s : State) (f : Power → Power) : (s.updPower f).tally = s.tally := rfl
@[simp] theorem State.updPower_pan (s : State) (f : Power → Power) (u : Nat) : (s.updPower f).pan u = s.pan u := rfl
@[simp] theorem State.updPower_coreDie (s : State) (f : Power → Power) (u : Nat) : (s.updPower f).coreDie u = s.coreDie u := rfl
@[simp] theorem State.updPower_core (s : State) (f : Power → Power) (u : Nat) : (s.updPower f).core u = s.core u := rfl
@[simp] theorem State.updPower_ioDie (s : State) (f : Power → Power) (u : Nat) : (s.updPower f).ioDie u = s.ioDie u := rfl
@[simp] theorem State.updPower_port (s : State) (f : Power → Power) (u : Nat) : (s.updPower f).port u = s.port u := rfl
@[simp] theorem State.updPower_qp (s : State) (f : Power → Power) (u : Nat) : (s.updPower f).qp u = s.qp u := rfl
@[simp] theorem State.updPower_box (s : State) (f : Power → Power) (u : Nat) : (s.updPower f).box u = s.box u := rfl
@[simp] theorem State.updPower_bed (s : State) (f : Power → Power) (u v : Nat) : (s.updPower f).bed u v = s.bed u v := rfl
@[simp] theorem State.updPower_rake (s : State) (f : Power → Power) (u v w : Nat) : (s.updPower f).rake u v w = s.rake u v w := rfl
@[simp] theorem State.updBoard_pending (s : State) (f : Module → Module) : (s.updBoard f).pending = s.pending := rfl
@[simp] theorem State.updBoard_free (s : State) (f : Module → Module) : (s.updBoard f).free = s.free := rfl
@[simp] theorem State.updBoard_now (s : State) (f : Module → Module) : (s.updBoard f).now = s.now := rfl
@[simp] theorem State.updBoard_bus (s : State) (f : Module → Module) : (s.updBoard f).bus = s.bus := rfl
@[simp] theorem State.updBoard_out (s : State) (f : Module → Module) : (s.updBoard f).out = s.out := rfl
@[simp] theorem State.updBoard_cfg (s : State) (f : Module → Module) : (s.updBoard f).cfg = s.cfg := rfl
@[simp] theorem State.updBoard_pkg (s : State) (f : Module → Module) : (s.updBoard f).pkg = s.pkg := rfl
@[simp] theorem State.updBoard_trust (s : State) (f : Module → Module) : (s.updBoard f).trust = s.trust := rfl
@[simp] theorem State.updBoard_power (s : State) (f : Module → Module) : (s.updBoard f).power = s.power := rfl
@[simp] theorem State.updBoard_events (s : State) (f : Module → Module) : (s.updBoard f).events = s.events := rfl
@[simp] theorem State.updBoard_time (s : State) (f : Module → Module) : (s.updBoard f).time = s.time := rfl
@[simp] theorem State.updBoard_tide (s : State) (f : Module → Module) : (s.updBoard f).tide = s.tide := rfl
@[simp] theorem State.updBoard_plan0 (s : State) (f : Module → Module) : (s.updBoard f).plan0 = s.plan0 := rfl
@[simp] theorem State.updBoard_plan1 (s : State) (f : Module → Module) : (s.updBoard f).plan1 = s.plan1 := rfl
@[simp] theorem State.updBoard_mem (s : State) (f : Module → Module) : (s.updBoard f).mem = s.mem := rfl
@[simp] theorem State.updBoard_coh (s : State) (f : Module → Module) : (s.updBoard f).coh = s.coh := rfl
@[simp] theorem State.updBoard_stk (s : State) (f : Module → Module) : (s.updBoard f).stk = s.stk := rfl
@[simp] theorem State.updBoard_pans (s : State) (f : Module → Module) : (s.updBoard f).pans = s.pans := rfl
@[simp] theorem State.updBoard_beds (s : State) (f : Module → Module) : (s.updBoard f).beds = s.beds := rfl
@[simp] theorem State.updBoard_rakes (s : State) (f : Module → Module) : (s.updBoard f).rakes = s.rakes := rfl
@[simp] theorem State.updBoard_coreDies (s : State) (f : Module → Module) : (s.updBoard f).coreDies = s.coreDies := rfl
@[simp] theorem State.updBoard_cores (s : State) (f : Module → Module) : (s.updBoard f).cores = s.cores := rfl
@[simp] theorem State.updBoard_ioDies (s : State) (f : Module → Module) : (s.updBoard f).ioDies = s.ioDies := rfl
@[simp] theorem State.updBoard_ports (s : State) (f : Module → Module) : (s.updBoard f).ports = s.ports := rfl
@[simp] theorem State.updBoard_qps (s : State) (f : Module → Module) : (s.updBoard f).qps = s.qps := rfl
@[simp] theorem State.updBoard_boxes (s : State) (f : Module → Module) : (s.updBoard f).boxes = s.boxes := rfl
@[simp] theorem State.updBoard_salter (s : State) (f : Module → Module) : (s.updBoard f).salter = s.salter := rfl
@[simp] theorem State.updBoard_tally (s : State) (f : Module → Module) : (s.updBoard f).tally = s.tally := rfl
@[simp] theorem State.updBoard_pan (s : State) (f : Module → Module) (u : Nat) : (s.updBoard f).pan u = s.pan u := rfl
@[simp] theorem State.updBoard_coreDie (s : State) (f : Module → Module) (u : Nat) : (s.updBoard f).coreDie u = s.coreDie u := rfl
@[simp] theorem State.updBoard_core (s : State) (f : Module → Module) (u : Nat) : (s.updBoard f).core u = s.core u := rfl
@[simp] theorem State.updBoard_ioDie (s : State) (f : Module → Module) (u : Nat) : (s.updBoard f).ioDie u = s.ioDie u := rfl
@[simp] theorem State.updBoard_port (s : State) (f : Module → Module) (u : Nat) : (s.updBoard f).port u = s.port u := rfl
@[simp] theorem State.updBoard_qp (s : State) (f : Module → Module) (u : Nat) : (s.updBoard f).qp u = s.qp u := rfl
@[simp] theorem State.updBoard_box (s : State) (f : Module → Module) (u : Nat) : (s.updBoard f).box u = s.box u := rfl
@[simp] theorem State.updBoard_bed (s : State) (f : Module → Module) (u v : Nat) : (s.updBoard f).bed u v = s.bed u v := rfl
@[simp] theorem State.updBoard_rake (s : State) (f : Module → Module) (u v w : Nat) : (s.updBoard f).rake u v w = s.rake u v w := rfl
@[simp] theorem State.updTrust_pending (s : State) (f : Trust → Trust) : (s.updTrust f).pending = s.pending := rfl
@[simp] theorem State.updTrust_free (s : State) (f : Trust → Trust) : (s.updTrust f).free = s.free := rfl
@[simp] theorem State.updTrust_now (s : State) (f : Trust → Trust) : (s.updTrust f).now = s.now := rfl
@[simp] theorem State.updTrust_bus (s : State) (f : Trust → Trust) : (s.updTrust f).bus = s.bus := rfl
@[simp] theorem State.updTrust_out (s : State) (f : Trust → Trust) : (s.updTrust f).out = s.out := rfl
@[simp] theorem State.updTrust_cfg (s : State) (f : Trust → Trust) : (s.updTrust f).cfg = s.cfg := rfl
@[simp] theorem State.updTrust_pkg (s : State) (f : Trust → Trust) : (s.updTrust f).pkg = s.pkg := rfl
@[simp] theorem State.updTrust_board (s : State) (f : Trust → Trust) : (s.updTrust f).board = s.board := rfl
@[simp] theorem State.updTrust_power (s : State) (f : Trust → Trust) : (s.updTrust f).power = s.power := rfl
@[simp] theorem State.updTrust_events (s : State) (f : Trust → Trust) : (s.updTrust f).events = s.events := rfl
@[simp] theorem State.updTrust_time (s : State) (f : Trust → Trust) : (s.updTrust f).time = s.time := rfl
@[simp] theorem State.updTrust_tide (s : State) (f : Trust → Trust) : (s.updTrust f).tide = s.tide := rfl
@[simp] theorem State.updTrust_plan0 (s : State) (f : Trust → Trust) : (s.updTrust f).plan0 = s.plan0 := rfl
@[simp] theorem State.updTrust_plan1 (s : State) (f : Trust → Trust) : (s.updTrust f).plan1 = s.plan1 := rfl
@[simp] theorem State.updTrust_mem (s : State) (f : Trust → Trust) : (s.updTrust f).mem = s.mem := rfl
@[simp] theorem State.updTrust_coh (s : State) (f : Trust → Trust) : (s.updTrust f).coh = s.coh := rfl
@[simp] theorem State.updTrust_stk (s : State) (f : Trust → Trust) : (s.updTrust f).stk = s.stk := rfl
@[simp] theorem State.updTrust_pans (s : State) (f : Trust → Trust) : (s.updTrust f).pans = s.pans := rfl
@[simp] theorem State.updTrust_beds (s : State) (f : Trust → Trust) : (s.updTrust f).beds = s.beds := rfl
@[simp] theorem State.updTrust_rakes (s : State) (f : Trust → Trust) : (s.updTrust f).rakes = s.rakes := rfl
@[simp] theorem State.updTrust_coreDies (s : State) (f : Trust → Trust) : (s.updTrust f).coreDies = s.coreDies := rfl
@[simp] theorem State.updTrust_cores (s : State) (f : Trust → Trust) : (s.updTrust f).cores = s.cores := rfl
@[simp] theorem State.updTrust_ioDies (s : State) (f : Trust → Trust) : (s.updTrust f).ioDies = s.ioDies := rfl
@[simp] theorem State.updTrust_ports (s : State) (f : Trust → Trust) : (s.updTrust f).ports = s.ports := rfl
@[simp] theorem State.updTrust_qps (s : State) (f : Trust → Trust) : (s.updTrust f).qps = s.qps := rfl
@[simp] theorem State.updTrust_boxes (s : State) (f : Trust → Trust) : (s.updTrust f).boxes = s.boxes := rfl
@[simp] theorem State.updTrust_salter (s : State) (f : Trust → Trust) : (s.updTrust f).salter = s.salter := rfl
@[simp] theorem State.updTrust_tally (s : State) (f : Trust → Trust) : (s.updTrust f).tally = s.tally := rfl
@[simp] theorem State.updTrust_pan (s : State) (f : Trust → Trust) (u : Nat) : (s.updTrust f).pan u = s.pan u := rfl
@[simp] theorem State.updTrust_coreDie (s : State) (f : Trust → Trust) (u : Nat) : (s.updTrust f).coreDie u = s.coreDie u := rfl
@[simp] theorem State.updTrust_core (s : State) (f : Trust → Trust) (u : Nat) : (s.updTrust f).core u = s.core u := rfl
@[simp] theorem State.updTrust_ioDie (s : State) (f : Trust → Trust) (u : Nat) : (s.updTrust f).ioDie u = s.ioDie u := rfl
@[simp] theorem State.updTrust_port (s : State) (f : Trust → Trust) (u : Nat) : (s.updTrust f).port u = s.port u := rfl
@[simp] theorem State.updTrust_qp (s : State) (f : Trust → Trust) (u : Nat) : (s.updTrust f).qp u = s.qp u := rfl
@[simp] theorem State.updTrust_box (s : State) (f : Trust → Trust) (u : Nat) : (s.updTrust f).box u = s.box u := rfl
@[simp] theorem State.updTrust_bed (s : State) (f : Trust → Trust) (u v : Nat) : (s.updTrust f).bed u v = s.bed u v := rfl
@[simp] theorem State.updTrust_rake (s : State) (f : Trust → Trust) (u v w : Nat) : (s.updTrust f).rake u v w = s.rake u v w := rfl
@[simp] theorem State.updCoh_pending (s : State) (f : Coh → Coh) : (s.updCoh f).pending = s.pending := rfl
@[simp] theorem State.updCoh_free (s : State) (f : Coh → Coh) : (s.updCoh f).free = s.free := rfl
@[simp] theorem State.updCoh_now (s : State) (f : Coh → Coh) : (s.updCoh f).now = s.now := rfl
@[simp] theorem State.updCoh_bus (s : State) (f : Coh → Coh) : (s.updCoh f).bus = s.bus := rfl
@[simp] theorem State.updCoh_out (s : State) (f : Coh → Coh) : (s.updCoh f).out = s.out := rfl
@[simp] theorem State.updCoh_cfg (s : State) (f : Coh → Coh) : (s.updCoh f).cfg = s.cfg := rfl
@[simp] theorem State.updCoh_pkg (s : State) (f : Coh → Coh) : (s.updCoh f).pkg = s.pkg := rfl
@[simp] theorem State.updCoh_trust (s : State) (f : Coh → Coh) : (s.updCoh f).trust = s.trust := rfl
@[simp] theorem State.updCoh_board (s : State) (f : Coh → Coh) : (s.updCoh f).board = s.board := rfl
@[simp] theorem State.updCoh_power (s : State) (f : Coh → Coh) : (s.updCoh f).power = s.power := rfl
@[simp] theorem State.updCoh_events (s : State) (f : Coh → Coh) : (s.updCoh f).events = s.events := rfl
@[simp] theorem State.updCoh_time (s : State) (f : Coh → Coh) : (s.updCoh f).time = s.time := rfl
@[simp] theorem State.updCoh_tide (s : State) (f : Coh → Coh) : (s.updCoh f).tide = s.tide := rfl
@[simp] theorem State.updCoh_plan0 (s : State) (f : Coh → Coh) : (s.updCoh f).plan0 = s.plan0 := rfl
@[simp] theorem State.updCoh_plan1 (s : State) (f : Coh → Coh) : (s.updCoh f).plan1 = s.plan1 := rfl
@[simp] theorem State.updCoh_mem (s : State) (f : Coh → Coh) : (s.updCoh f).mem = s.mem := rfl
@[simp] theorem State.updCoh_stk (s : State) (f : Coh → Coh) : (s.updCoh f).stk = s.stk := rfl
@[simp] theorem State.updCoh_pans (s : State) (f : Coh → Coh) : (s.updCoh f).pans = s.pans := rfl
@[simp] theorem State.updCoh_beds (s : State) (f : Coh → Coh) : (s.updCoh f).beds = s.beds := rfl
@[simp] theorem State.updCoh_rakes (s : State) (f : Coh → Coh) : (s.updCoh f).rakes = s.rakes := rfl
@[simp] theorem State.updCoh_coreDies (s : State) (f : Coh → Coh) : (s.updCoh f).coreDies = s.coreDies := rfl
@[simp] theorem State.updCoh_cores (s : State) (f : Coh → Coh) : (s.updCoh f).cores = s.cores := rfl
@[simp] theorem State.updCoh_ioDies (s : State) (f : Coh → Coh) : (s.updCoh f).ioDies = s.ioDies := rfl
@[simp] theorem State.updCoh_ports (s : State) (f : Coh → Coh) : (s.updCoh f).ports = s.ports := rfl
@[simp] theorem State.updCoh_qps (s : State) (f : Coh → Coh) : (s.updCoh f).qps = s.qps := rfl
@[simp] theorem State.updCoh_boxes (s : State) (f : Coh → Coh) : (s.updCoh f).boxes = s.boxes := rfl
@[simp] theorem State.updCoh_salter (s : State) (f : Coh → Coh) : (s.updCoh f).salter = s.salter := rfl
@[simp] theorem State.updCoh_tally (s : State) (f : Coh → Coh) : (s.updCoh f).tally = s.tally := rfl
@[simp] theorem State.updCoh_pan (s : State) (f : Coh → Coh) (u : Nat) : (s.updCoh f).pan u = s.pan u := rfl
@[simp] theorem State.updCoh_coreDie (s : State) (f : Coh → Coh) (u : Nat) : (s.updCoh f).coreDie u = s.coreDie u := rfl
@[simp] theorem State.updCoh_core (s : State) (f : Coh → Coh) (u : Nat) : (s.updCoh f).core u = s.core u := rfl
@[simp] theorem State.updCoh_ioDie (s : State) (f : Coh → Coh) (u : Nat) : (s.updCoh f).ioDie u = s.ioDie u := rfl
@[simp] theorem State.updCoh_port (s : State) (f : Coh → Coh) (u : Nat) : (s.updCoh f).port u = s.port u := rfl
@[simp] theorem State.updCoh_qp (s : State) (f : Coh → Coh) (u : Nat) : (s.updCoh f).qp u = s.qp u := rfl
@[simp] theorem State.updCoh_box (s : State) (f : Coh → Coh) (u : Nat) : (s.updCoh f).box u = s.box u := rfl
@[simp] theorem State.updCoh_bed (s : State) (f : Coh → Coh) (u v : Nat) : (s.updCoh f).bed u v = s.bed u v := rfl
@[simp] theorem State.updCoh_rake (s : State) (f : Coh → Coh) (u v w : Nat) : (s.updCoh f).rake u v w = s.rake u v w := rfl
@[simp] theorem State.updStk_pending (s : State) (f : Stockpile → Stockpile) : (s.updStk f).pending = s.pending := rfl
@[simp] theorem State.updStk_free (s : State) (f : Stockpile → Stockpile) : (s.updStk f).free = s.free := rfl
@[simp] theorem State.updStk_now (s : State) (f : Stockpile → Stockpile) : (s.updStk f).now = s.now := rfl
@[simp] theorem State.updStk_bus (s : State) (f : Stockpile → Stockpile) : (s.updStk f).bus = s.bus := rfl
@[simp] theorem State.updStk_out (s : State) (f : Stockpile → Stockpile) : (s.updStk f).out = s.out := rfl
@[simp] theorem State.updStk_cfg (s : State) (f : Stockpile → Stockpile) : (s.updStk f).cfg = s.cfg := rfl
@[simp] theorem State.updStk_pkg (s : State) (f : Stockpile → Stockpile) : (s.updStk f).pkg = s.pkg := rfl
@[simp] theorem State.updStk_trust (s : State) (f : Stockpile → Stockpile) : (s.updStk f).trust = s.trust := rfl
@[simp] theorem State.updStk_board (s : State) (f : Stockpile → Stockpile) : (s.updStk f).board = s.board := rfl
@[simp] theorem State.updStk_power (s : State) (f : Stockpile → Stockpile) : (s.updStk f).power = s.power := rfl
@[simp] theorem State.updStk_events (s : State) (f : Stockpile → Stockpile) : (s.updStk f).events = s.events := rfl
@[simp] theorem State.updStk_time (s : State) (f : Stockpile → Stockpile) : (s.updStk f).time = s.time := rfl
@[simp] theorem State.updStk_tide (s : State) (f : Stockpile → Stockpile) : (s.updStk f).tide = s.tide := rfl
@[simp] theorem State.updStk_plan0 (s : State) (f : Stockpile → Stockpile) : (s.updStk f).plan0 = s.plan0 := rfl
@[simp] theorem State.updStk_plan1 (s : State) (f : Stockpile → Stockpile) : (s.updStk f).plan1 = s.plan1 := rfl
@[simp] theorem State.updStk_mem (s : State) (f : Stockpile → Stockpile) : (s.updStk f).mem = s.mem := rfl
@[simp] theorem State.updStk_coh (s : State) (f : Stockpile → Stockpile) : (s.updStk f).coh = s.coh := rfl
@[simp] theorem State.updStk_pans (s : State) (f : Stockpile → Stockpile) : (s.updStk f).pans = s.pans := rfl
@[simp] theorem State.updStk_beds (s : State) (f : Stockpile → Stockpile) : (s.updStk f).beds = s.beds := rfl
@[simp] theorem State.updStk_rakes (s : State) (f : Stockpile → Stockpile) : (s.updStk f).rakes = s.rakes := rfl
@[simp] theorem State.updStk_coreDies (s : State) (f : Stockpile → Stockpile) : (s.updStk f).coreDies = s.coreDies := rfl
@[simp] theorem State.updStk_cores (s : State) (f : Stockpile → Stockpile) : (s.updStk f).cores = s.cores := rfl
@[simp] theorem State.updStk_ioDies (s : State) (f : Stockpile → Stockpile) : (s.updStk f).ioDies = s.ioDies := rfl
@[simp] theorem State.updStk_ports (s : State) (f : Stockpile → Stockpile) : (s.updStk f).ports = s.ports := rfl
@[simp] theorem State.updStk_qps (s : State) (f : Stockpile → Stockpile) : (s.updStk f).qps = s.qps := rfl
@[simp] theorem State.updStk_boxes (s : State) (f : Stockpile → Stockpile) : (s.updStk f).boxes = s.boxes := rfl
@[simp] theorem State.updStk_salter (s : State) (f : Stockpile → Stockpile) : (s.updStk f).salter = s.salter := rfl
@[simp] theorem State.updStk_tally (s : State) (f : Stockpile → Stockpile) : (s.updStk f).tally = s.tally := rfl
@[simp] theorem State.updStk_pan (s : State) (f : Stockpile → Stockpile) (u : Nat) : (s.updStk f).pan u = s.pan u := rfl
@[simp] theorem State.updStk_coreDie (s : State) (f : Stockpile → Stockpile) (u : Nat) : (s.updStk f).coreDie u = s.coreDie u := rfl
@[simp] theorem State.updStk_core (s : State) (f : Stockpile → Stockpile) (u : Nat) : (s.updStk f).core u = s.core u := rfl
@[simp] theorem State.updStk_ioDie (s : State) (f : Stockpile → Stockpile) (u : Nat) : (s.updStk f).ioDie u = s.ioDie u := rfl
@[simp] theorem State.updStk_port (s : State) (f : Stockpile → Stockpile) (u : Nat) : (s.updStk f).port u = s.port u := rfl
@[simp] theorem State.updStk_qp (s : State) (f : Stockpile → Stockpile) (u : Nat) : (s.updStk f).qp u = s.qp u := rfl
@[simp] theorem State.updStk_box (s : State) (f : Stockpile → Stockpile) (u : Nat) : (s.updStk f).box u = s.box u := rfl
@[simp] theorem State.updStk_bed (s : State) (f : Stockpile → Stockpile) (u v : Nat) : (s.updStk f).bed u v = s.bed u v := rfl
@[simp] theorem State.updStk_rake (s : State) (f : Stockpile → Stockpile) (u v w : Nat) : (s.updStk f).rake u v w = s.rake u v w := rfl
@[simp] theorem State.updTime_pending (s : State) (f : TimeBase → TimeBase) : (s.updTime f).pending = s.pending := rfl
@[simp] theorem State.updTime_free (s : State) (f : TimeBase → TimeBase) : (s.updTime f).free = s.free := rfl
@[simp] theorem State.updTime_now (s : State) (f : TimeBase → TimeBase) : (s.updTime f).now = s.now := rfl
@[simp] theorem State.updTime_bus (s : State) (f : TimeBase → TimeBase) : (s.updTime f).bus = s.bus := rfl
@[simp] theorem State.updTime_out (s : State) (f : TimeBase → TimeBase) : (s.updTime f).out = s.out := rfl
@[simp] theorem State.updTime_cfg (s : State) (f : TimeBase → TimeBase) : (s.updTime f).cfg = s.cfg := rfl
@[simp] theorem State.updTime_pkg (s : State) (f : TimeBase → TimeBase) : (s.updTime f).pkg = s.pkg := rfl
@[simp] theorem State.updTime_trust (s : State) (f : TimeBase → TimeBase) : (s.updTime f).trust = s.trust := rfl
@[simp] theorem State.updTime_board (s : State) (f : TimeBase → TimeBase) : (s.updTime f).board = s.board := rfl
@[simp] theorem State.updTime_power (s : State) (f : TimeBase → TimeBase) : (s.updTime f).power = s.power := rfl
@[simp] theorem State.updTime_events (s : State) (f : TimeBase → TimeBase) : (s.updTime f).events = s.events := rfl
@[simp] theorem State.updTime_tide (s : State) (f : TimeBase → TimeBase) : (s.updTime f).tide = s.tide := rfl
@[simp] theorem State.updTime_plan0 (s : State) (f : TimeBase → TimeBase) : (s.updTime f).plan0 = s.plan0 := rfl
@[simp] theorem State.updTime_plan1 (s : State) (f : TimeBase → TimeBase) : (s.updTime f).plan1 = s.plan1 := rfl
@[simp] theorem State.updTime_mem (s : State) (f : TimeBase → TimeBase) : (s.updTime f).mem = s.mem := rfl
@[simp] theorem State.updTime_coh (s : State) (f : TimeBase → TimeBase) : (s.updTime f).coh = s.coh := rfl
@[simp] theorem State.updTime_stk (s : State) (f : TimeBase → TimeBase) : (s.updTime f).stk = s.stk := rfl
@[simp] theorem State.updTime_pans (s : State) (f : TimeBase → TimeBase) : (s.updTime f).pans = s.pans := rfl
@[simp] theorem State.updTime_beds (s : State) (f : TimeBase → TimeBase) : (s.updTime f).beds = s.beds := rfl
@[simp] theorem State.updTime_rakes (s : State) (f : TimeBase → TimeBase) : (s.updTime f).rakes = s.rakes := rfl
@[simp] theorem State.updTime_coreDies (s : State) (f : TimeBase → TimeBase) : (s.updTime f).coreDies = s.coreDies := rfl
@[simp] theorem State.updTime_cores (s : State) (f : TimeBase → TimeBase) : (s.updTime f).cores = s.cores := rfl
@[simp] theorem State.updTime_ioDies (s : State) (f : TimeBase → TimeBase) : (s.updTime f).ioDies = s.ioDies := rfl
@[simp] theorem State.updTime_ports (s : State) (f : TimeBase → TimeBase) : (s.updTime f).ports = s.ports := rfl
@[simp] theorem State.updTime_qps (s : State) (f : TimeBase → TimeBase) : (s.updTime f).qps = s.qps := rfl
@[simp] theorem State.updTime_boxes (s : State) (f : TimeBase → TimeBase) : (s.updTime f).boxes = s.boxes := rfl
@[simp] theorem State.updTime_salter (s : State) (f : TimeBase → TimeBase) : (s.updTime f).salter = s.salter := rfl
@[simp] theorem State.updTime_tally (s : State) (f : TimeBase → TimeBase) : (s.updTime f).tally = s.tally := rfl
@[simp] theorem State.updTime_pan (s : State) (f : TimeBase → TimeBase) (u : Nat) : (s.updTime f).pan u = s.pan u := rfl
@[simp] theorem State.updTime_coreDie (s : State) (f : TimeBase → TimeBase) (u : Nat) : (s.updTime f).coreDie u = s.coreDie u := rfl
@[simp] theorem State.updTime_core (s : State) (f : TimeBase → TimeBase) (u : Nat) : (s.updTime f).core u = s.core u := rfl
@[simp] theorem State.updTime_ioDie (s : State) (f : TimeBase → TimeBase) (u : Nat) : (s.updTime f).ioDie u = s.ioDie u := rfl
@[simp] theorem State.updTime_port (s : State) (f : TimeBase → TimeBase) (u : Nat) : (s.updTime f).port u = s.port u := rfl
@[simp] theorem State.updTime_qp (s : State) (f : TimeBase → TimeBase) (u : Nat) : (s.updTime f).qp u = s.qp u := rfl
@[simp] theorem State.updTime_box (s : State) (f : TimeBase → TimeBase) (u : Nat) : (s.updTime f).box u = s.box u := rfl
@[simp] theorem State.updTime_bed (s : State) (f : TimeBase → TimeBase) (u v : Nat) : (s.updTime f).bed u v = s.bed u v := rfl
@[simp] theorem State.updTime_rake (s : State) (f : TimeBase → TimeBase) (u v w : Nat) : (s.updTime f).rake u v w = s.rake u v w := rfl
@[simp] theorem State.drawn_pending (s : State) : (s.drawn).pending = s.pending := rfl
@[simp] theorem State.drawn_now (s : State) : (s.drawn).now = s.now := rfl
@[simp] theorem State.drawn_bus (s : State) : (s.drawn).bus = s.bus := rfl
@[simp] theorem State.drawn_out (s : State) : (s.drawn).out = s.out := rfl
@[simp] theorem State.drawn_cfg (s : State) : (s.drawn).cfg = s.cfg := rfl
@[simp] theorem State.drawn_pkg (s : State) : (s.drawn).pkg = s.pkg := rfl
@[simp] theorem State.drawn_trust (s : State) : (s.drawn).trust = s.trust := rfl
@[simp] theorem State.drawn_board (s : State) : (s.drawn).board = s.board := rfl
@[simp] theorem State.drawn_power (s : State) : (s.drawn).power = s.power := rfl
@[simp] theorem State.drawn_events (s : State) : (s.drawn).events = s.events := rfl
@[simp] theorem State.drawn_time (s : State) : (s.drawn).time = s.time := rfl
@[simp] theorem State.drawn_tide (s : State) : (s.drawn).tide = s.tide := rfl
@[simp] theorem State.drawn_plan0 (s : State) : (s.drawn).plan0 = s.plan0 := rfl
@[simp] theorem State.drawn_plan1 (s : State) : (s.drawn).plan1 = s.plan1 := rfl
@[simp] theorem State.drawn_mem (s : State) : (s.drawn).mem = s.mem := rfl
@[simp] theorem State.drawn_coh (s : State) : (s.drawn).coh = s.coh := rfl
@[simp] theorem State.drawn_stk (s : State) : (s.drawn).stk = s.stk := rfl
@[simp] theorem State.drawn_pans (s : State) : (s.drawn).pans = s.pans := rfl
@[simp] theorem State.drawn_beds (s : State) : (s.drawn).beds = s.beds := rfl
@[simp] theorem State.drawn_rakes (s : State) : (s.drawn).rakes = s.rakes := rfl
@[simp] theorem State.drawn_coreDies (s : State) : (s.drawn).coreDies = s.coreDies := rfl
@[simp] theorem State.drawn_cores (s : State) : (s.drawn).cores = s.cores := rfl
@[simp] theorem State.drawn_ioDies (s : State) : (s.drawn).ioDies = s.ioDies := rfl
@[simp] theorem State.drawn_ports (s : State) : (s.drawn).ports = s.ports := rfl
@[simp] theorem State.drawn_qps (s : State) : (s.drawn).qps = s.qps := rfl
@[simp] theorem State.drawn_boxes (s : State) : (s.drawn).boxes = s.boxes := rfl
@[simp] theorem State.drawn_salter (s : State) : (s.drawn).salter = s.salter := rfl
@[simp] theorem State.drawn_tally (s : State) : (s.drawn).tally = s.tally := rfl
@[simp] theorem State.drawn_pan (s : State) (u : Nat) : (s.drawn).pan u = s.pan u := rfl
@[simp] theorem State.drawn_coreDie (s : State) (u : Nat) : (s.drawn).coreDie u = s.coreDie u := rfl
@[simp] theorem State.drawn_core (s : State) (u : Nat) : (s.drawn).core u = s.core u := rfl
@[simp] theorem State.drawn_ioDie (s : State) (u : Nat) : (s.drawn).ioDie u = s.ioDie u := rfl
@[simp] theorem State.drawn_port (s : State) (u : Nat) : (s.drawn).port u = s.port u := rfl
@[simp] theorem State.drawn_qp (s : State) (u : Nat) : (s.drawn).qp u = s.qp u := rfl
@[simp] theorem State.drawn_box (s : State) (u : Nat) : (s.drawn).box u = s.box u := rfl
@[simp] theorem State.drawn_bed (s : State) (u v : Nat) : (s.drawn).bed u v = s.bed u v := rfl
@[simp] theorem State.drawn_rake (s : State) (u v w : Nat) : (s.drawn).rake u v w = s.rake u v w := rfl
@[simp] theorem State.emit_pending (s : State) (o : Output) : (s.emit o).pending = s.pending := rfl
@[simp] theorem State.emit_free (s : State) (o : Output) : (s.emit o).free = s.free := rfl
@[simp] theorem State.emit_now (s : State) (o : Output) : (s.emit o).now = s.now := rfl
@[simp] theorem State.emit_bus (s : State) (o : Output) : (s.emit o).bus = s.bus := rfl
@[simp] theorem State.emit_cfg (s : State) (o : Output) : (s.emit o).cfg = s.cfg := rfl
@[simp] theorem State.emit_pkg (s : State) (o : Output) : (s.emit o).pkg = s.pkg := rfl
@[simp] theorem State.emit_trust (s : State) (o : Output) : (s.emit o).trust = s.trust := rfl
@[simp] theorem State.emit_board (s : State) (o : Output) : (s.emit o).board = s.board := rfl
@[simp] theorem State.emit_power (s : State) (o : Output) : (s.emit o).power = s.power := rfl
@[simp] theorem State.emit_events (s : State) (o : Output) : (s.emit o).events = s.events := rfl
@[simp] theorem State.emit_time (s : State) (o : Output) : (s.emit o).time = s.time := rfl
@[simp] theorem State.emit_tide (s : State) (o : Output) : (s.emit o).tide = s.tide := rfl
@[simp] theorem State.emit_plan0 (s : State) (o : Output) : (s.emit o).plan0 = s.plan0 := rfl
@[simp] theorem State.emit_plan1 (s : State) (o : Output) : (s.emit o).plan1 = s.plan1 := rfl
@[simp] theorem State.emit_mem (s : State) (o : Output) : (s.emit o).mem = s.mem := rfl
@[simp] theorem State.emit_coh (s : State) (o : Output) : (s.emit o).coh = s.coh := rfl
@[simp] theorem State.emit_stk (s : State) (o : Output) : (s.emit o).stk = s.stk := rfl
@[simp] theorem State.emit_pans (s : State) (o : Output) : (s.emit o).pans = s.pans := rfl
@[simp] theorem State.emit_beds (s : State) (o : Output) : (s.emit o).beds = s.beds := rfl
@[simp] theorem State.emit_rakes (s : State) (o : Output) : (s.emit o).rakes = s.rakes := rfl
@[simp] theorem State.emit_coreDies (s : State) (o : Output) : (s.emit o).coreDies = s.coreDies := rfl
@[simp] theorem State.emit_cores (s : State) (o : Output) : (s.emit o).cores = s.cores := rfl
@[simp] theorem State.emit_ioDies (s : State) (o : Output) : (s.emit o).ioDies = s.ioDies := rfl
@[simp] theorem State.emit_ports (s : State) (o : Output) : (s.emit o).ports = s.ports := rfl
@[simp] theorem State.emit_qps (s : State) (o : Output) : (s.emit o).qps = s.qps := rfl
@[simp] theorem State.emit_boxes (s : State) (o : Output) : (s.emit o).boxes = s.boxes := rfl
@[simp] theorem State.emit_salter (s : State) (o : Output) : (s.emit o).salter = s.salter := rfl
@[simp] theorem State.emit_tally (s : State) (o : Output) : (s.emit o).tally = s.tally := rfl
@[simp] theorem State.emit_pan (s : State) (o : Output) (u : Nat) : (s.emit o).pan u = s.pan u := rfl
@[simp] theorem State.emit_coreDie (s : State) (o : Output) (u : Nat) : (s.emit o).coreDie u = s.coreDie u := rfl
@[simp] theorem State.emit_core (s : State) (o : Output) (u : Nat) : (s.emit o).core u = s.core u := rfl
@[simp] theorem State.emit_ioDie (s : State) (o : Output) (u : Nat) : (s.emit o).ioDie u = s.ioDie u := rfl
@[simp] theorem State.emit_port (s : State) (o : Output) (u : Nat) : (s.emit o).port u = s.port u := rfl
@[simp] theorem State.emit_qp (s : State) (o : Output) (u : Nat) : (s.emit o).qp u = s.qp u := rfl
@[simp] theorem State.emit_box (s : State) (o : Output) (u : Nat) : (s.emit o).box u = s.box u := rfl
@[simp] theorem State.emit_bed (s : State) (o : Output) (u v : Nat) : (s.emit o).bed u v = s.bed u v := rfl
@[simp] theorem State.emit_rake (s : State) (o : Output) (u v w : Nat) : (s.emit o).rake u v w = s.rake u v w := rfl
@[simp] theorem State.memWrite_pending (s : State) (a : Nat) (bs : List Byte) : (s.memWrite a bs).pending = s.pending := rfl
@[simp] theorem State.memWrite_free (s : State) (a : Nat) (bs : List Byte) : (s.memWrite a bs).free = s.free := rfl
@[simp] theorem State.memWrite_now (s : State) (a : Nat) (bs : List Byte) : (s.memWrite a bs).now = s.now := rfl
@[simp] theorem State.memWrite_bus (s : State) (a : Nat) (bs : List Byte) : (s.memWrite a bs).bus = s.bus := rfl
@[simp] theorem State.memWrite_out (s : State) (a : Nat) (bs : List Byte) : (s.memWrite a bs).out = s.out := rfl
@[simp] theorem State.memWrite_cfg (s : State) (a : Nat) (bs : List Byte) : (s.memWrite a bs).cfg = s.cfg := rfl
@[simp] theorem State.memWrite_pkg (s : State) (a : Nat) (bs : List Byte) : (s.memWrite a bs).pkg = s.pkg := rfl
@[simp] theorem State.memWrite_trust (s : State) (a : Nat) (bs : List Byte) : (s.memWrite a bs).trust = s.trust := rfl
@[simp] theorem State.memWrite_board (s : State) (a : Nat) (bs : List Byte) : (s.memWrite a bs).board = s.board := rfl
@[simp] theorem State.memWrite_power (s : State) (a : Nat) (bs : List Byte) : (s.memWrite a bs).power = s.power := rfl
@[simp] theorem State.memWrite_events (s : State) (a : Nat) (bs : List Byte) : (s.memWrite a bs).events = s.events := rfl
@[simp] theorem State.memWrite_time (s : State) (a : Nat) (bs : List Byte) : (s.memWrite a bs).time = s.time := rfl
@[simp] theorem State.memWrite_tide (s : State) (a : Nat) (bs : List Byte) : (s.memWrite a bs).tide = s.tide := rfl
@[simp] theorem State.memWrite_plan0 (s : State) (a : Nat) (bs : List Byte) : (s.memWrite a bs).plan0 = s.plan0 := rfl
@[simp] theorem State.memWrite_plan1 (s : State) (a : Nat) (bs : List Byte) : (s.memWrite a bs).plan1 = s.plan1 := rfl
@[simp] theorem State.memWrite_coh (s : State) (a : Nat) (bs : List Byte) : (s.memWrite a bs).coh = s.coh := rfl
@[simp] theorem State.memWrite_stk (s : State) (a : Nat) (bs : List Byte) : (s.memWrite a bs).stk = s.stk := rfl
@[simp] theorem State.memWrite_pans (s : State) (a : Nat) (bs : List Byte) : (s.memWrite a bs).pans = s.pans := rfl
@[simp] theorem State.memWrite_beds (s : State) (a : Nat) (bs : List Byte) : (s.memWrite a bs).beds = s.beds := rfl
@[simp] theorem State.memWrite_rakes (s : State) (a : Nat) (bs : List Byte) : (s.memWrite a bs).rakes = s.rakes := rfl
@[simp] theorem State.memWrite_coreDies (s : State) (a : Nat) (bs : List Byte) : (s.memWrite a bs).coreDies = s.coreDies := rfl
@[simp] theorem State.memWrite_cores (s : State) (a : Nat) (bs : List Byte) : (s.memWrite a bs).cores = s.cores := rfl
@[simp] theorem State.memWrite_ioDies (s : State) (a : Nat) (bs : List Byte) : (s.memWrite a bs).ioDies = s.ioDies := rfl
@[simp] theorem State.memWrite_ports (s : State) (a : Nat) (bs : List Byte) : (s.memWrite a bs).ports = s.ports := rfl
@[simp] theorem State.memWrite_qps (s : State) (a : Nat) (bs : List Byte) : (s.memWrite a bs).qps = s.qps := rfl
@[simp] theorem State.memWrite_boxes (s : State) (a : Nat) (bs : List Byte) : (s.memWrite a bs).boxes = s.boxes := rfl
@[simp] theorem State.memWrite_salter (s : State) (a : Nat) (bs : List Byte) : (s.memWrite a bs).salter = s.salter := rfl
@[simp] theorem State.memWrite_tally (s : State) (a : Nat) (bs : List Byte) : (s.memWrite a bs).tally = s.tally := rfl
@[simp] theorem State.memWrite_pan (s : State) (a : Nat) (bs : List Byte) (u : Nat) : (s.memWrite a bs).pan u = s.pan u := rfl
@[simp] theorem State.memWrite_coreDie (s : State) (a : Nat) (bs : List Byte) (u : Nat) : (s.memWrite a bs).coreDie u = s.coreDie u := rfl
@[simp] theorem State.memWrite_core (s : State) (a : Nat) (bs : List Byte) (u : Nat) : (s.memWrite a bs).core u = s.core u := rfl
@[simp] theorem State.memWrite_ioDie (s : State) (a : Nat) (bs : List Byte) (u : Nat) : (s.memWrite a bs).ioDie u = s.ioDie u := rfl
@[simp] theorem State.memWrite_port (s : State) (a : Nat) (bs : List Byte) (u : Nat) : (s.memWrite a bs).port u = s.port u := rfl
@[simp] theorem State.memWrite_qp (s : State) (a : Nat) (bs : List Byte) (u : Nat) : (s.memWrite a bs).qp u = s.qp u := rfl
@[simp] theorem State.memWrite_box (s : State) (a : Nat) (bs : List Byte) (u : Nat) : (s.memWrite a bs).box u = s.box u := rfl
@[simp] theorem State.memWrite_bed (s : State) (a : Nat) (bs : List Byte) (u v : Nat) : (s.memWrite a bs).bed u v = s.bed u v := rfl
@[simp] theorem State.memWrite_rake (s : State) (a : Nat) (bs : List Byte) (u v w : Nat) : (s.memWrite a bs).rake u v w = s.rake u v w := rfl
@[simp] theorem State.updTide_tide (s : State) (f : Tide → Tide) : (s.updTide f).tide = f s.tide := rfl
@[simp] theorem State.updTally_tally (s : State) (f : Tally → Tally) : (s.updTally f).tally = f s.tally := rfl
@[simp] theorem State.updSalter_salter (s : State) (f : Salter → Salter) : (s.updSalter f).salter = f s.salter := rfl
@[simp] theorem State.updPkg_pkg (s : State) (f : Package → Package) : (s.updPkg f).pkg = f s.pkg := rfl
@[simp] theorem State.updEvents_events (s : State) (f : Events → Events) : (s.updEvents f).events = f s.events := rfl
@[simp] theorem State.updPower_power (s : State) (f : Power → Power) : (s.updPower f).power = f s.power := rfl
@[simp] theorem State.updBoard_board (s : State) (f : Module → Module) : (s.updBoard f).board = f s.board := rfl
@[simp] theorem State.updTrust_trust (s : State) (f : Trust → Trust) : (s.updTrust f).trust = f s.trust := rfl
@[simp] theorem State.updCoh_coh (s : State) (f : Coh → Coh) : (s.updCoh f).coh = f s.coh := rfl
@[simp] theorem State.updStk_stk (s : State) (f : Stockpile → Stockpile) : (s.updStk f).stk = f s.stk := rfl
@[simp] theorem State.updTime_time (s : State) (f : TimeBase → TimeBase) : (s.updTime f).time = f s.time := rfl
@[simp] theorem State.drawn_free (s : State) : s.drawn.free = s.free + 1 := rfl
@[simp] theorem State.emit_out (s : State) (o : Output) : (s.emit o).out = o :: s.out := rfl

@[simp] theorem State.setPan_pan_same (s : State) (p : Nat) (x : Pan) : (s.setPan p x).pan p = x := by
  simp [State.setPan, State.pan]
@[simp] theorem State.updPan_pan_same (s : State) (p : Nat) (f : Pan → Pan) : (s.updPan p f).pan p = f (s.pan p) := by
  simp [State.updPan, State.pan, State.setPan]
@[simp] theorem State.setBed_bed_same (s : State) (p b : Nat) (x : Bed) : (s.setBed p b x).bed p b = x := by
  simp [State.setBed, State.bed]
@[simp] theorem State.updBed_bed_same (s : State) (p b : Nat) (f : Bed → Bed) : (s.updBed p b f).bed p b = f (s.bed p b) := by
  simp [State.updBed, State.bed, State.setBed]
@[simp] theorem State.setRake_rake_same (s : State) (p b r : Nat) (x : Rake) : (s.setRake p b r x).rake p b r = x := by
  simp [State.setRake, State.rake]
@[simp] theorem State.updRake_rake_same (s : State) (p b r : Nat) (f : Rake → Rake) : (s.updRake p b r f).rake p b r = f (s.rake p b r) := by
  simp [State.updRake, State.rake, State.setRake]
@[simp] theorem State.updCoreDie_coreDie_same (s : State) (d : Nat) (f : CoreDie → CoreDie) : (s.updCoreDie d f).coreDie d = f (s.coreDie d) := by
  simp [State.updCoreDie, State.coreDie]
@[simp] theorem State.setCore_core_same (s : State) (n : Nat) (x : Core) : (s.setCore n x).core n = x := by
  simp [State.setCore, State.core]
@[simp] theorem State.updCore_core_same (s : State) (n : Nat) (f : Core → Core) : (s.updCore n f).core n = f (s.core n) := by
  simp [State.updCore, State.core, State.setCore]
@[simp] theorem State.updIoDie_ioDie_same (s : State) (i : Nat) (f : IoDie → IoDie) : (s.updIoDie i f).ioDie i = f (s.ioDie i) := by
  simp [State.updIoDie, State.ioDie]
@[simp] theorem State.updPort_port_same (s : State) (j : Nat) (f : Port → Port) : (s.updPort j f).port j = f (s.port j) := by
  simp [State.updPort, State.port]
@[simp] theorem State.setQp_qp_same (s : State) (q : Nat) (x : Option Qp) : (s.setQp q x).qp q = x := by
  simp [State.setQp, State.qp]
@[simp] theorem State.updBox_box_same (s : State) (m : Nat) (f : Mailbox → Mailbox) : (s.updBox m f).box m = f (s.box m) := by
  simp [State.updBox, State.box]
theorem State.setPan_pan_other (s : State) {p q : Nat} (x : Pan) (h : q ≠ p) : (s.setPan p x).pan q = s.pan q := by
  simp [State.setPan, State.pan, tget_tput_other _ _ h]
theorem State.updPan_pan_other (s : State) {p q : Nat} (f : Pan → Pan) (h : q ≠ p) : (s.updPan p f).pan q = s.pan q := by
  simp [State.updPan, State.pan, State.setPan, tget_tput_other _ _ h]
theorem State.updCoreDie_coreDie_other (s : State) {d q : Nat} (f : CoreDie → CoreDie) (h : q ≠ d) : (s.updCoreDie d f).coreDie q = s.coreDie q := by
  simp [State.updCoreDie, State.coreDie, tget_tput_other _ _ h]
theorem State.setCore_core_other (s : State) {n q : Nat} (x : Core) (h : q ≠ n) : (s.setCore n x).core q = s.core q := by
  simp [State.setCore, State.core, tget_tput_other _ _ h]
theorem State.updCore_core_other (s : State) {n q : Nat} (f : Core → Core) (h : q ≠ n) : (s.updCore n f).core q = s.core q := by
  simp [State.updCore, State.core, State.setCore, tget_tput_other _ _ h]
theorem State.updIoDie_ioDie_other (s : State) {i q : Nat} (f : IoDie → IoDie) (h : q ≠ i) : (s.updIoDie i f).ioDie q = s.ioDie q := by
  simp [State.updIoDie, State.ioDie, tget_tput_other _ _ h]
theorem State.updPort_port_other (s : State) {j q : Nat} (f : Port → Port) (h : q ≠ j) : (s.updPort j f).port q = s.port q := by
  simp [State.updPort, State.port, tget_tput_other _ _ h]
theorem State.setQp_qp_other (s : State) {q k : Nat} (x : Option Qp) (h : k ≠ q) : (s.setQp q x).qp k = s.qp k := by
  simp [State.setQp, State.qp, tget_tput_other _ _ h]
theorem State.updBox_box_other (s : State) {m q : Nat} (f : Mailbox → Mailbox) (h : q ≠ m) : (s.updBox m f).box q = s.box q := by
  simp [State.updBox, State.box, tget_tput_other _ _ h]

/-- A bed other than the one updated is as before. -/
theorem State.updBed_bed_other (s : State) {p b q c : Nat} (f : Bed → Bed) (h : bedKey q c ≠ bedKey p b) :
    (s.updBed p b f).bed q c = s.bed q c := by
  simp [State.updBed, State.setBed, State.bed, tget_tput_other _ _ h]

/-- A rake slot other than the one updated is as before. -/
theorem State.setRake_rake_other (s : State) {p b r q c k : Nat} (x : Rake) (h : rakeKey q c k ≠ rakeKey p b r) :
    (s.setRake p b r x).rake q c k = s.rake q c k := by
  simp [State.setRake, State.rake, tget_tput_other _ _ h]

/-- An event that is not held for its second joins the records that wait to be written (R483). -/
theorem State.raise_queued (s : State) (e : Event) (h : evClass e.code e.detail ≠ 1) (h2 : e.code ≠ evBedFault) :
    s.raise e = s.updEvents (fun v => { v with queue := v.queue ++ [{ e with time := s.now, cls := evClass e.code e.detail }] }) := by
  simp [State.raise, h, h2]

/-- An event that is held joins the held records (R483). -/
theorem State.raise_held (s : State) (e : Event) (h : evClass e.code e.detail = 1 ∨ e.code = evBedFault) :
    s.raise e = s.updEvents (fun v => { v with held := holdEvent v.held { e with time := s.now, cls := evClass e.code e.detail } }) := by
  simp [State.raise, h]

/-- Raising an event changes the event state alone. -/
theorem State.raise_frame (s : State) (e : Event) : s.raise e = { s with events := (s.raise e).events } := by
  simp only [State.raise]
  split <;> rfl

@[simp] theorem State.raise_pending (s : State) (e : Event) : (s.raise e).pending = s.pending := by rw [State.raise_frame]
@[simp] theorem State.raise_free (s : State) (e : Event) : (s.raise e).free = s.free := by rw [State.raise_frame]
@[simp] theorem State.raise_now (s : State) (e : Event) : (s.raise e).now = s.now := by rw [State.raise_frame]
@[simp] theorem State.raise_bus (s : State) (e : Event) : (s.raise e).bus = s.bus := by rw [State.raise_frame]
@[simp] theorem State.raise_out (s : State) (e : Event) : (s.raise e).out = s.out := by rw [State.raise_frame]
@[simp] theorem State.raise_cfg (s : State) (e : Event) : (s.raise e).cfg = s.cfg := by rw [State.raise_frame]
@[simp] theorem State.raise_pkg (s : State) (e : Event) : (s.raise e).pkg = s.pkg := by rw [State.raise_frame]
@[simp] theorem State.raise_trust (s : State) (e : Event) : (s.raise e).trust = s.trust := by rw [State.raise_frame]
@[simp] theorem State.raise_board (s : State) (e : Event) : (s.raise e).board = s.board := by rw [State.raise_frame]
@[simp] theorem State.raise_power (s : State) (e : Event) : (s.raise e).power = s.power := by rw [State.raise_frame]
@[simp] theorem State.raise_time (s : State) (e : Event) : (s.raise e).time = s.time := by rw [State.raise_frame]
@[simp] theorem State.raise_tide (s : State) (e : Event) : (s.raise e).tide = s.tide := by rw [State.raise_frame]
@[simp] theorem State.raise_plan0 (s : State) (e : Event) : (s.raise e).plan0 = s.plan0 := by rw [State.raise_frame]
@[simp] theorem State.raise_plan1 (s : State) (e : Event) : (s.raise e).plan1 = s.plan1 := by rw [State.raise_frame]
@[simp] theorem State.raise_mem (s : State) (e : Event) : (s.raise e).mem = s.mem := by rw [State.raise_frame]
@[simp] theorem State.raise_coh (s : State) (e : Event) : (s.raise e).coh = s.coh := by rw [State.raise_frame]
@[simp] theorem State.raise_stk (s : State) (e : Event) : (s.raise e).stk = s.stk := by rw [State.raise_frame]
@[simp] theorem State.raise_pans (s : State) (e : Event) : (s.raise e).pans = s.pans := by rw [State.raise_frame]
@[simp] theorem State.raise_beds (s : State) (e : Event) : (s.raise e).beds = s.beds := by rw [State.raise_frame]
@[simp] theorem State.raise_rakes (s : State) (e : Event) : (s.raise e).rakes = s.rakes := by rw [State.raise_frame]
@[simp] theorem State.raise_coreDies (s : State) (e : Event) : (s.raise e).coreDies = s.coreDies := by rw [State.raise_frame]
@[simp] theorem State.raise_cores (s : State) (e : Event) : (s.raise e).cores = s.cores := by rw [State.raise_frame]
@[simp] theorem State.raise_ioDies (s : State) (e : Event) : (s.raise e).ioDies = s.ioDies := by rw [State.raise_frame]
@[simp] theorem State.raise_ports (s : State) (e : Event) : (s.raise e).ports = s.ports := by rw [State.raise_frame]
@[simp] theorem State.raise_qps (s : State) (e : Event) : (s.raise e).qps = s.qps := by rw [State.raise_frame]
@[simp] theorem State.raise_boxes (s : State) (e : Event) : (s.raise e).boxes = s.boxes := by rw [State.raise_frame]
@[simp] theorem State.raise_salter (s : State) (e : Event) : (s.raise e).salter = s.salter := by rw [State.raise_frame]
@[simp] theorem State.raise_tally (s : State) (e : Event) : (s.raise e).tally = s.tally := by rw [State.raise_frame]
@[simp] theorem State.raise_pan (s : State) (e : Event) (u : Nat) : (s.raise e).pan u = s.pan u := by rw [State.raise_frame]; rfl
@[simp] theorem State.raise_coreDie (s : State) (e : Event) (u : Nat) : (s.raise e).coreDie u = s.coreDie u := by rw [State.raise_frame]; rfl
@[simp] theorem State.raise_core (s : State) (e : Event) (u : Nat) : (s.raise e).core u = s.core u := by rw [State.raise_frame]; rfl
@[simp] theorem State.raise_ioDie (s : State) (e : Event) (u : Nat) : (s.raise e).ioDie u = s.ioDie u := by rw [State.raise_frame]; rfl
@[simp] theorem State.raise_port (s : State) (e : Event) (u : Nat) : (s.raise e).port u = s.port u := by rw [State.raise_frame]; rfl
@[simp] theorem State.raise_qp (s : State) (e : Event) (u : Nat) : (s.raise e).qp u = s.qp u := by rw [State.raise_frame]; rfl
@[simp] theorem State.raise_box (s : State) (e : Event) (u : Nat) : (s.raise e).box u = s.box u := by rw [State.raise_frame]; rfl
@[simp] theorem State.raise_bed (s : State) (e : Event) (u v : Nat) : (s.raise e).bed u v = s.bed u v := by rw [State.raise_frame]; rfl
@[simp] theorem State.raise_rake (s : State) (e : Event) (u v w : Nat) : (s.raise e).rake u v w = s.rake u v w := by rw [State.raise_frame]; rfl
@[simp] theorem State.note_pending (s : State) (c d p i a : Nat) : (s.note c d p i a).pending = s.pending := State.raise_pending s _
@[simp] theorem State.note_free (s : State) (c d p i a : Nat) : (s.note c d p i a).free = s.free := State.raise_free s _
@[simp] theorem State.note_now (s : State) (c d p i a : Nat) : (s.note c d p i a).now = s.now := State.raise_now s _
@[simp] theorem State.note_bus (s : State) (c d p i a : Nat) : (s.note c d p i a).bus = s.bus := State.raise_bus s _
@[simp] theorem State.note_out (s : State) (c d p i a : Nat) : (s.note c d p i a).out = s.out := State.raise_out s _
@[simp] theorem State.note_cfg (s : State) (c d p i a : Nat) : (s.note c d p i a).cfg = s.cfg := State.raise_cfg s _
@[simp] theorem State.note_pkg (s : State) (c d p i a : Nat) : (s.note c d p i a).pkg = s.pkg := State.raise_pkg s _
@[simp] theorem State.note_trust (s : State) (c d p i a : Nat) : (s.note c d p i a).trust = s.trust := State.raise_trust s _
@[simp] theorem State.note_board (s : State) (c d p i a : Nat) : (s.note c d p i a).board = s.board := State.raise_board s _
@[simp] theorem State.note_power (s : State) (c d p i a : Nat) : (s.note c d p i a).power = s.power := State.raise_power s _
@[simp] theorem State.note_time (s : State) (c d p i a : Nat) : (s.note c d p i a).time = s.time := State.raise_time s _
@[simp] theorem State.note_tide (s : State) (c d p i a : Nat) : (s.note c d p i a).tide = s.tide := State.raise_tide s _
@[simp] theorem State.note_plan0 (s : State) (c d p i a : Nat) : (s.note c d p i a).plan0 = s.plan0 := State.raise_plan0 s _
@[simp] theorem State.note_plan1 (s : State) (c d p i a : Nat) : (s.note c d p i a).plan1 = s.plan1 := State.raise_plan1 s _
@[simp] theorem State.note_mem (s : State) (c d p i a : Nat) : (s.note c d p i a).mem = s.mem := State.raise_mem s _
@[simp] theorem State.note_coh (s : State) (c d p i a : Nat) : (s.note c d p i a).coh = s.coh := State.raise_coh s _
@[simp] theorem State.note_stk (s : State) (c d p i a : Nat) : (s.note c d p i a).stk = s.stk := State.raise_stk s _
@[simp] theorem State.note_pans (s : State) (c d p i a : Nat) : (s.note c d p i a).pans = s.pans := State.raise_pans s _
@[simp] theorem State.note_beds (s : State) (c d p i a : Nat) : (s.note c d p i a).beds = s.beds := State.raise_beds s _
@[simp] theorem State.note_rakes (s : State) (c d p i a : Nat) : (s.note c d p i a).rakes = s.rakes := State.raise_rakes s _
@[simp] theorem State.note_coreDies (s : State) (c d p i a : Nat) : (s.note c d p i a).coreDies = s.coreDies := State.raise_coreDies s _
@[simp] theorem State.note_cores (s : State) (c d p i a : Nat) : (s.note c d p i a).cores = s.cores := State.raise_cores s _
@[simp] theorem State.note_ioDies (s : State) (c d p i a : Nat) : (s.note c d p i a).ioDies = s.ioDies := State.raise_ioDies s _
@[simp] theorem State.note_ports (s : State) (c d p i a : Nat) : (s.note c d p i a).ports = s.ports := State.raise_ports s _
@[simp] theorem State.note_qps (s : State) (c d p i a : Nat) : (s.note c d p i a).qps = s.qps := State.raise_qps s _
@[simp] theorem State.note_boxes (s : State) (c d p i a : Nat) : (s.note c d p i a).boxes = s.boxes := State.raise_boxes s _
@[simp] theorem State.note_salter (s : State) (c d p i a : Nat) : (s.note c d p i a).salter = s.salter := State.raise_salter s _
@[simp] theorem State.note_tally (s : State) (c d p i a : Nat) : (s.note c d p i a).tally = s.tally := State.raise_tally s _
@[simp] theorem State.note_pan (s : State) (c d p i a : Nat) (u : Nat) : (s.note c d p i a).pan u = s.pan u := by exact State.raise_pan s _ u
@[simp] theorem State.note_coreDie (s : State) (c d p i a : Nat) (u : Nat) : (s.note c d p i a).coreDie u = s.coreDie u := by exact State.raise_coreDie s _ u
@[simp] theorem State.note_core (s : State) (c d p i a : Nat) (u : Nat) : (s.note c d p i a).core u = s.core u := by exact State.raise_core s _ u
@[simp] theorem State.note_ioDie (s : State) (c d p i a : Nat) (u : Nat) : (s.note c d p i a).ioDie u = s.ioDie u := by exact State.raise_ioDie s _ u
@[simp] theorem State.note_port (s : State) (c d p i a : Nat) (u : Nat) : (s.note c d p i a).port u = s.port u := by exact State.raise_port s _ u
@[simp] theorem State.note_qp (s : State) (c d p i a : Nat) (u : Nat) : (s.note c d p i a).qp u = s.qp u := by exact State.raise_qp s _ u
@[simp] theorem State.note_box (s : State) (c d p i a : Nat) (u : Nat) : (s.note c d p i a).box u = s.box u := by exact State.raise_box s _ u
@[simp] theorem State.note_bed (s : State) (c d p i a : Nat) (u v : Nat) : (s.note c d p i a).bed u v = s.bed u v := by exact State.raise_bed s _ u v
@[simp] theorem State.note_rake (s : State) (c d p i a : Nat) (u v w : Nat) : (s.note c d p i a).rake u v w = s.rake u v w := by exact State.raise_rake s _ u v w
@[simp] theorem State.noteD_pending (s : State) (c d a x y : Nat) : (s.noteD c d a x y).pending = s.pending := State.raise_pending s _
@[simp] theorem State.noteD_free (s : State) (c d a x y : Nat) : (s.noteD c d a x y).free = s.free := State.raise_free s _
@[simp] theorem State.noteD_now (s : State) (c d a x y : Nat) : (s.noteD c d a x y).now = s.now := State.raise_now s _
@[simp] theorem State.noteD_bus (s : State) (c d a x y : Nat) : (s.noteD c d a x y).bus = s.bus := State.raise_bus s _
@[simp] theorem State.noteD_out (s : State) (c d a x y : Nat) : (s.noteD c d a x y).out = s.out := State.raise_out s _
@[simp] theorem State.noteD_cfg (s : State) (c d a x y : Nat) : (s.noteD c d a x y).cfg = s.cfg := State.raise_cfg s _
@[simp] theorem State.noteD_pkg (s : State) (c d a x y : Nat) : (s.noteD c d a x y).pkg = s.pkg := State.raise_pkg s _
@[simp] theorem State.noteD_trust (s : State) (c d a x y : Nat) : (s.noteD c d a x y).trust = s.trust := State.raise_trust s _
@[simp] theorem State.noteD_board (s : State) (c d a x y : Nat) : (s.noteD c d a x y).board = s.board := State.raise_board s _
@[simp] theorem State.noteD_power (s : State) (c d a x y : Nat) : (s.noteD c d a x y).power = s.power := State.raise_power s _
@[simp] theorem State.noteD_time (s : State) (c d a x y : Nat) : (s.noteD c d a x y).time = s.time := State.raise_time s _
@[simp] theorem State.noteD_tide (s : State) (c d a x y : Nat) : (s.noteD c d a x y).tide = s.tide := State.raise_tide s _
@[simp] theorem State.noteD_plan0 (s : State) (c d a x y : Nat) : (s.noteD c d a x y).plan0 = s.plan0 := State.raise_plan0 s _
@[simp] theorem State.noteD_plan1 (s : State) (c d a x y : Nat) : (s.noteD c d a x y).plan1 = s.plan1 := State.raise_plan1 s _
@[simp] theorem State.noteD_mem (s : State) (c d a x y : Nat) : (s.noteD c d a x y).mem = s.mem := State.raise_mem s _
@[simp] theorem State.noteD_coh (s : State) (c d a x y : Nat) : (s.noteD c d a x y).coh = s.coh := State.raise_coh s _
@[simp] theorem State.noteD_stk (s : State) (c d a x y : Nat) : (s.noteD c d a x y).stk = s.stk := State.raise_stk s _
@[simp] theorem State.noteD_pans (s : State) (c d a x y : Nat) : (s.noteD c d a x y).pans = s.pans := State.raise_pans s _
@[simp] theorem State.noteD_beds (s : State) (c d a x y : Nat) : (s.noteD c d a x y).beds = s.beds := State.raise_beds s _
@[simp] theorem State.noteD_rakes (s : State) (c d a x y : Nat) : (s.noteD c d a x y).rakes = s.rakes := State.raise_rakes s _
@[simp] theorem State.noteD_coreDies (s : State) (c d a x y : Nat) : (s.noteD c d a x y).coreDies = s.coreDies := State.raise_coreDies s _
@[simp] theorem State.noteD_cores (s : State) (c d a x y : Nat) : (s.noteD c d a x y).cores = s.cores := State.raise_cores s _
@[simp] theorem State.noteD_ioDies (s : State) (c d a x y : Nat) : (s.noteD c d a x y).ioDies = s.ioDies := State.raise_ioDies s _
@[simp] theorem State.noteD_ports (s : State) (c d a x y : Nat) : (s.noteD c d a x y).ports = s.ports := State.raise_ports s _
@[simp] theorem State.noteD_qps (s : State) (c d a x y : Nat) : (s.noteD c d a x y).qps = s.qps := State.raise_qps s _
@[simp] theorem State.noteD_boxes (s : State) (c d a x y : Nat) : (s.noteD c d a x y).boxes = s.boxes := State.raise_boxes s _
@[simp] theorem State.noteD_salter (s : State) (c d a x y : Nat) : (s.noteD c d a x y).salter = s.salter := State.raise_salter s _
@[simp] theorem State.noteD_tally (s : State) (c d a x y : Nat) : (s.noteD c d a x y).tally = s.tally := State.raise_tally s _
@[simp] theorem State.noteD_pan (s : State) (c d a x y : Nat) (u : Nat) : (s.noteD c d a x y).pan u = s.pan u := by exact State.raise_pan s _ u
@[simp] theorem State.noteD_coreDie (s : State) (c d a x y : Nat) (u : Nat) : (s.noteD c d a x y).coreDie u = s.coreDie u := by exact State.raise_coreDie s _ u
@[simp] theorem State.noteD_core (s : State) (c d a x y : Nat) (u : Nat) : (s.noteD c d a x y).core u = s.core u := by exact State.raise_core s _ u
@[simp] theorem State.noteD_ioDie (s : State) (c d a x y : Nat) (u : Nat) : (s.noteD c d a x y).ioDie u = s.ioDie u := by exact State.raise_ioDie s _ u
@[simp] theorem State.noteD_port (s : State) (c d a x y : Nat) (u : Nat) : (s.noteD c d a x y).port u = s.port u := by exact State.raise_port s _ u
@[simp] theorem State.noteD_qp (s : State) (c d a x y : Nat) (u : Nat) : (s.noteD c d a x y).qp u = s.qp u := by exact State.raise_qp s _ u
@[simp] theorem State.noteD_box (s : State) (c d a x y : Nat) (u : Nat) : (s.noteD c d a x y).box u = s.box u := by exact State.raise_box s _ u
@[simp] theorem State.noteD_bed (s : State) (c d a x y : Nat) (u v : Nat) : (s.noteD c d a x y).bed u v = s.bed u v := by exact State.raise_bed s _ u v
@[simp] theorem State.noteD_rake (s : State) (c d a x y : Nat) (u v w : Nat) : (s.noteD c d a x y).rake u v w = s.rake u v w := by exact State.raise_rake s _ u v w

end Sys2Proof.Machine
end

