-- ==== Sys2Proof/Laws/Bed.lean ====
section
/-!
SUPPORT. What the shared operations of bed instructions do: register reads after writes, the issue of a ready group, the write of
vector lanes and of a scalar. -/

namespace Sys2Proof.Laws

open Sys2Proof.Machine Sys2Proof.Safety

/-! ### Lanes -/

theorem mem_lanesOf {m : Word} {l : Nat} : l ∈ lanesOf m ↔ l < 32 ∧ lane m l = true := by
  simp [lanesOf, laneList]

theorem lanesOf_nodup (m : Word) : (lanesOf m).Nodup := by
  unfold lanesOf laneList
  exact List.Nodup.filter _ List.nodup_range

/-! ### Registers -/

theorem vget_vset_same (r : Rake) (reg l : Nat) (w : Word) : (r.vset reg l w).vget reg l = w := by
  simp [Rake.vget, Rake.vset]

theorem vget_vset_other (r : Rake) {reg l reg' l' : Nat} (w : Word) (hl : l < 32) (hl' : l' < 32) (h : reg' ≠ reg ∨ l' ≠ l) :
    (r.vset reg l w).vget reg' l' = r.vget reg' l' := by
  simp only [Rake.vget, Rake.vset]
  rw [tget_tput_other]
  omega

theorem setWide_frame (n : Nat) (r : Rake) (reg l v : Nat) : r.setWide reg n l v = { r with v := (r.setWide reg n l v).v } := by
  induction n generalizing r reg v with
  | zero => rfl
  | succ k ih => rw [Rake.setWide, ih]; rfl

theorem vget_setWide_other (n : Nat) (r : Rake) {reg l reg' l' v : Nat} (hl : l < 32) (hl' : l' < 32)
    (h : l' ≠ l ∨ reg' < reg ∨ reg + n ≤ reg') : (r.setWide reg n l v).vget reg' l' = r.vget reg' l' := by
  induction n generalizing r reg v with
  | zero => rfl
  | succ k ih => rw [Rake.setWide, ih _ (by omega), vget_vset_other _ _ hl hl' (by omega)]

theorem wide_congr (n : Nat) {r r' : Rake} {reg l : Nat} (h : ∀ k, reg ≤ k → k < reg + n → r.vget k l = r'.vget k l) :
    r.wide reg n l = r'.wide reg n l := by
  induction n generalizing reg with
  | zero => rfl
  | succ k ih =>
    rw [Rake.wide, Rake.wide, h reg (by omega) (by omega), ih (fun j hj hj' => h j (by omega) (by omega))]

/-- A wide register just written holds the value, cut to its width. -/
theorem wide_setWide_same (n : Nat) (r : Rake) (reg l v : Nat) (hl : l < 32) :
    (r.setWide reg n l v).wide reg n l = v % 2 ^ (32 * n) := by
  induction n generalizing r reg v with
  | zero => simp [Rake.wide, Nat.mod_one]
  | succ k ih =>
    rw [Rake.wide, Rake.setWide, ih, vget_setWide_other k _ hl hl (by omega), vget_vset_same]
    have h : 2 ^ (32 * (k + 1)) = 2 ^ 32 * 2 ^ (32 * k) := by rw [← Nat.pow_add]; congr 1; omega
    rw [h, Nat.mod_mul, BitVec.toNat_ofNat]

/-- The fold that writes each lane of a list. -/
theorem foldl_setWide (ls : List Nat) (r : Rake) (reg n : Nat) (val : Nat → Nat) (hls : ∀ l ∈ ls, l < 32) (hn : ls.Nodup) :
    let r' := ls.foldl (fun r t => r.setWide reg n t (val t)) r
    (∀ l ∈ ls, r'.wide reg n l = val l % 2 ^ (32 * n))
      ∧ (∀ k l, l < 32 → (l ∉ ls ∨ k < reg ∨ reg + n ≤ k) → r'.vget k l = r.vget k l)
      ∧ r' = { r with v := r'.v } := by
  induction ls generalizing r with
  | nil => exact ⟨fun _ h => absurd h List.not_mem_nil, fun _ _ _ _ => rfl, rfl⟩
  | cons a ls ih =>
    have ha : a < 32 := hls a (List.mem_cons_self ..)
    have hna : a ∉ ls := (List.nodup_cons.mp hn).1
    obtain ⟨h1, h2, h3⟩ := ih (r.setWide reg n a (val a)) (fun l hl => hls l (List.mem_cons_of_mem _ hl)) (List.nodup_cons.mp hn).2
    refine ⟨?_, ?_, ?_⟩
    · intro l hl
      rcases List.mem_cons.mp hl with rfl | hl'
      · rw [List.foldl_cons, ← wide_setWide_same n r reg l (val l) ha]
        exact wide_congr n (fun k _ _ => h2 k l ha (Or.inl hna))
      · exact h1 l hl'
    · intro k l hl h
      rw [List.foldl_cons, h2 k l hl, vget_setWide_other n r ha hl]
      · by_cases e : l = a
        · rcases h with h | h
          · exact absurd (e ▸ List.mem_cons_self ..) h
          · exact Or.inr h
        · exact Or.inl e
      · rcases h with h | h
        · exact Or.inl (fun hm => h (List.mem_cons_of_mem _ hm))
        · exact Or.inr h
    · rw [List.foldl_cons, h3, setWide_frame]

theorem sget_sset_same (r : Rake) (n : Nat) (w : Dword) : (r.sset n w).sget n = w := by simp [Rake.sget, Rake.sset]

theorem sget_sset_other (r : Rake) {n k : Nat} (w : Dword) (h : k ≠ n) : (r.sset n w).sget k = r.sget k := by
  simp [Rake.sget, Rake.sset, tget_tput_other _ _ h]

theorem pget_pset (r : Rake) (n k : Nat) (m : Word) : (r.pset n m).pget k = if k = n ∧ n ≠ 7 then m else r.pget k := by
  unfold Rake.pset Rake.pget
  by_cases h7 : n = 7
  · simp [h7]
  · by_cases hk : k = 7
    · simp [h7, hk, Ne.symm h7]
    · by_cases hn : k = n
      · subst hn
        simp [h7]
      · simp [h7, hk, hn, tget_tput_other _ _ hn]

theorem pset_frame (r : Rake) (n : Nat) (m : Word) : r.pset n m = { r with p := (r.pset n m).p } := by
  unfold Rake.pset
  split <;> rfl

/-- A mask built from a test holds exactly the lanes that pass it. -/
theorem lane_maskOf (p : Nat → Bool) (l : Nat) (h : l < 32) : lane (maskOf p) l = p l := by
  have step : ∀ (ls : List Nat) (m : Word), (∀ x ∈ ls, x < 32) →
      lane (ls.foldl (fun m t => if p t then m ||| (1#32 <<< t) else m) m) l = (lane m l || (decide (l ∈ ls) && p l)) := by
    intro ls
    induction ls with
    | nil => intro m _; simp
    | cons a ls ih =>
      intro m hx
      rw [List.foldl_cons, ih _ (fun x hm => hx x (List.mem_cons_of_mem _ hm))]
      have ha : a < 32 := hx a (List.mem_cons_self ..)
      by_cases hp : p a = true
      · rw [if_pos hp]
        by_cases e : l = a
        · subst e
          simp [lane, hp, h]
        · have : lane (m ||| 1#32 <<< a) l = lane m l := by
            simp only [lane, BitVec.getLsbD_or, BitVec.getLsbD_shiftLeft, BitVec.getLsbD_one]
            have : ¬ (l - a = 0 ∧ ¬ l < a) := by omega
            by_cases hlt : l < a
            · simp [hlt]
            · have : l - a ≠ 0 := by omega
              simp [this]
          rw [this]
          simp [e]
      · rw [if_neg hp]
        by_cases e : l = a
        · subst e
          have : p l = false := by simpa using hp
          simp [this]
        · simp [e]
  unfold maskOf laneList
  rw [step _ _ (fun x hx => List.mem_range.mp hx)]
  simp [lane, h]

/-! ### Program counters -/

theorem jump_frame (r : Rake) (m : Word) (pc : Dword) : r.jump m pc = { r with pcs := (r.jump m pc).pcs } := by
  unfold Rake.jump
  generalize lanesOf m = ls
  induction ls generalizing r with
  | nil => rfl
  | cons a ls ih => rw [List.foldl_cons, ih]; rfl

theorem pc_jump (r : Rake) (m : Word) (pc : Dword) (l : Nat) (h : l < 32) :
    (r.jump m pc).pc l = if lane m l then pc else r.pc l := by
  have step : ∀ (ls : List Nat) (r : Rake),
      (ls.foldl (fun r t => r.setPc t pc) r).pc l = if l ∈ ls then pc else r.pc l := by
    intro ls
    induction ls with
    | nil => intro r; simp
    | cons a ls ih =>
      intro r
      rw [List.foldl_cons, ih]
      by_cases e : l = a
      · subst e
        simp [Rake.pc, Rake.setPc]
      · simp [e, Rake.pc, Rake.setPc, tget_tput_other _ _ e]
  unfold Rake.jump
  rw [step]
  simp [mem_lanesOf, h]

/-! ### Issue -/

theorem issueOf_rake {a : At} {s : State} {c : Issue} (h : issueOf a s = some c) : c.a = a ∧ c.rake = rakeAt a s := by
  unfold issueOf at h
  simp only at h
  split at h
  · obtain rfl := Option.some.inj h
    exact ⟨rfl, rfl⟩
  · exact absurd h (by simp)

/-- Translating for a fetch touches the pan's translation state, and nothing else when it succeeds. -/
theorem fetchCheck_ok {c : Issue} {s s1 : State} (h : fetchCheck c s = (s1, none)) : s1 = { s with pans := s1.pans } := by
  unfold fetchCheck panXlat at h
  split at h
  · rename_i heq
    split at heq
    · exact absurd heq (by simp)
    · simp only at heq
      split at heq
      · exact absurd heq (by simp)
      · split at heq
        · obtain ⟨h1, -⟩ := Prod.mk.inj heq
          obtain ⟨h2, -⟩ := Prod.mk.inj h
          rw [← h2, ← h1]
          rfl
        · exact absurd heq (by simp)
  · exact absurd h (by simp)

theorem ready_rake {a : At} {s s1 : State} {c : Issue} (h : Ready a s c s1) : c.a = a ∧ c.rake = rakeAt a s1 := by
  obtain ⟨h1, h2⟩ := h
  obtain ⟨e1, e2⟩ := issueOf_rake h1
  refine ⟨e1, ?_⟩
  rw [e2, fetchCheck_ok h2]
  rfl

theorem bedIssue_ok {a : At} {s s1 s2 : State} {c : Issue} {f : Issue → State → Except BedFault State} (h : Ready a s c s1)
    (hf : f c s1 = .ok s2) : bedIssue a s f = s2.drawn := by
  unfold bedIssue
  rw [h.1]
  simp only [h.2, hf]

/-- An instruction of a ready group whose effect is s2 leaves the group at the next one. -/
theorem bedNext_ok {a : At} {s s1 s2 : State} {c : Issue} {f : Issue → State → Except BedFault State} (h : Ready a s c s1)
    (hf : f c s1 = .ok s2) : bedNext a s f = (advance c s2).drawn := by
  apply bedIssue_ok h
  rw [hf]
  rfl

theorem rake_put (c : Issue) (s : State) (r : Rake) (h : c.a = a) : rakeAt a (c.put s r) = r := by
  subst h
  simp [rakeAt, Issue.put]

/-- Putting a rake back and going on changes that rake alone. -/
theorem advance_put {a : At} {s : State} {c : Issue} (r : Rake) (h : c.a = a) :
    rakeAt a (advance c (c.put s r)).drawn = r.jump c.active (c.pc + 8) ∧ OnlyRake a s (advance c (c.put s r)).drawn := by
  subst h
  refine ⟨?_, rfl, ?_⟩
  · simp [rakeAt, advance, Issue.put]
  · intro p b k hk
    simp only [State.drawn_rake, advance, State.updRake, Issue.put]
    rw [State.setRake_rake_other _ _ hk, State.setRake_rake_other _ _ hk]

/-- Going on alone changes the program counters of the group. -/
theorem advance_only {a : At} {s : State} {c : Issue} (h : c.a = a) (hr : c.rake = rakeAt a s) :
    rakeAt a (advance c s).drawn = c.rake.jump c.active (c.pc + 8) ∧ OnlyRake a s (advance c s).drawn := by
  subst h
  refine ⟨?_, rfl, ?_⟩
  · simp [rakeAt, advance, hr]
  · intro p b k hk
    simp only [State.drawn_rake, advance, State.updRake]
    rw [State.setRake_rake_other _ _ hk]

theorem nextPc_jump (c : Issue) (r : Rake) (h : r.pcs = c.rake.pcs) : NextPc c (r.jump c.active (c.pc + 8)) := by
  intro l hl
  rw [pc_jump _ _ _ _ hl]
  simp [Rake.pc, h]

/-! ### Vector writes -/

/-- What vecWrite writes, when a thread is guarded and the instruction is legal. -/
theorem vecWrite_ok {c : Issue} {s : State} {f : VFmt} {legal : Bool} {n : Nat} {val : Nat → Nat} (hm : c.guarded f.gd ≠ 0)
    (hl : legal = true) (hr : c.rake.regOk f.vd.toNat n = true) :
    vecWrite c s f legal n val
      = .ok (c.put s ((lanesOf (c.guarded f.gd)).foldl (fun r t => r.setWide f.vd.toNat n t (val t)) c.rake)) := by
  unfold vecWrite
  rw [if_neg hm]
  simp [hl, hr]

theorem writesLanes_fold (c : Issue) (m : Word) (vd n : Nat) (val : Nat → Nat) (k : Word) (pc : Dword) :
    WritesLanes c (((lanesOf m).foldl (fun r t => r.setWide vd n t (val t)) c.rake).jump k pc) m vd n val := by
  obtain ⟨h1, h2, h3⟩ := foldl_setWide (lanesOf m) c.rake vd n val (fun l hl => (mem_lanesOf.mp hl).1) (lanesOf_nodup m)
  rw [jump_frame]
  refine ⟨?_, ?_, ?_⟩
  · intro l hl hm
    rw [← h1 l (mem_lanesOf.mpr ⟨hl, hm⟩)]
    exact wide_congr n (fun _ _ _ => rfl)
  · intro reg l hl h
    refine h2 reg l hl ?_
    rcases h with h | h
    · exact Or.inl (fun hm => by rw [(mem_lanesOf.mp hm).2] at h; exact absurd h (by simp))
    · exact Or.inr h
  · rw [h3]

/-- A format V instruction that writes vd: its result, its frame and that it completes. -/
theorem vecNext_result {a : At} {f : VFmt} {s s1 : State} {c : Issue} (legal : Issue → Bool) (n : Nat) (val : Issue → State → Nat → Nat)
    (h : VecRuns a f s c s1 (legal c && c.rake.regOk f.vd.toNat n)) :
    VecResult a f c s1 (vecNext a f s (fun c s => vecWrite c s f (legal c) n (val c s))) n (val c s1) := by
  obtain ⟨hr, hg, hl, hw⟩ := h
  rw [Bool.and_eq_true] at hl
  obtain ⟨ea, er⟩ := ready_rake hr
  have key : vecNext a f s (fun c s => vecWrite c s f (legal c) n (val c s)) = (advance c (c.put s1
      ((lanesOf (c.guarded f.gd)).foldl (fun r t => r.setWide f.vd.toNat n t (val c s1 t)) c.rake))).drawn := by
    apply bedNext_ok hr
    rw [if_neg]
    · exact vecWrite_ok hg hl.1 hl.2
    rintro ⟨hb, -, ho⟩
    rw [hw hb] at ho
    exact absurd ho (by simp)
  rw [key]
  obtain ⟨e1, e2⟩ := advance_put (s := s1) ((lanesOf (c.guarded f.gd)).foldl (fun r t => r.setWide f.vd.toNat n t (val c s1 t)) c.rake) ea
  refine ⟨?_, ?_, e2⟩
  · rw [e1]
    exact writesLanes_fold ..
  · rw [e1]
    apply nextPc_jump
    obtain ⟨-, -, h3⟩ := foldl_setWide (lanesOf (c.guarded f.gd)) c.rake f.vd.toNat n (val c s1)
      (fun l hl => (mem_lanesOf.mp hl).1) (lanesOf_nodup _)
    rw [h3]

/-! ### Scalar writes -/

/-- A scalar instruction that acts and goes on. -/
theorem scalarOp_ok {a : At} {f : SFmt} {s s1 s2 : State} {c : Issue} {op : Issue → State → Except BedFault State}
    (h : Ready a s c s1) (hg : c.guarded f.gd ≠ 0)
    (hw : operandWait a s1 ([f.sa.toNat, f.sd.toNat] ++ if f.imm = 1 then [] else [f.sb.toNat]) = false)
    (ho : op c s1 = .ok s2) : scalarOp a f s op = (advance c s2).drawn := by
  apply bedNext_ok h
  rw [if_neg hg, hw]
  exact ho

end Sys2Proof.Laws
end

