-- ==== Sys2Proof/Laws/Memory.lean ====
section
/-!
SUPPORT. What the operations on physical memory do: a read after a write, the bytes a write leaves alone, and the canonical form
kept. -/

namespace Sys2Proof.Laws

open Sys2Proof.Machine Sys2Proof.Safety

/-- A write of bytes changes the memory and nothing else. -/
theorem memWrite_only (s : State) (pa : Nat) (bs : List Byte) : s.memWrite pa bs = { s with mem := (s.memWrite pa bs).mem } := rfl

/-- A write keeps the canonical form of memory. -/
theorem memoryOk_memWrite (s : State) (pa : Nat) (bs : List Byte) (h : memoryOk s = true) : memoryOk (s.memWrite pa bs) = true :=
  tableOk_tputs bs s.mem pa h

/-- Memory at reset has the canonical form. -/
theorem memoryOk_reset : memoryOk State.reset = true := rfl

/-- Two states with one memory are alike in its canonical form. -/
theorem memoryOk_congr {s t : State} (h : t.mem = s.mem) : memoryOk t = memoryOk s := by
  unfold memoryOk
  rw [h]

/-- Bytes outside a write read as before. -/
theorem memByte_outside (s : State) (pa a : Nat) (bs : List Byte) (h : a < pa ∨ pa + bs.length ≤ a) :
    tget 0 (s.memWrite pa bs).mem a = tget 0 s.mem a :=
  tget_tputs_outside bs s.mem pa a h

/-- A read of what was just written gives the bytes written. -/
theorem memBytes_memWrite_same (s : State) (pa : Nat) (bs : List Byte) : (s.memWrite pa bs).memBytes pa bs.length = bs := by
  apply List.ext_getElem
  · simp [State.memBytes, tgets]
  · intro i _ h2
    simp only [State.memBytes, tgets, List.getElem_map, List.getElem_range, State.memWrite]
    exact tget_tputs_inside bs s.mem pa i h2

/-- A read apart from a write gives what it gave before. -/
theorem memBytes_memWrite_other (s : State) (pa a n : Nat) (bs : List Byte) (h : a + n ≤ pa ∨ pa + bs.length ≤ a) :
    (s.memWrite pa bs).memBytes a n = s.memBytes a n := by
  simp only [State.memBytes, tgets]
  apply List.map_congr_left
  intro i hi
  have hi' : i < n := List.mem_range.mp hi
  exact memByte_outside s pa (a + i) bs (by omega)

end Sys2Proof.Laws
end

