-- ==== Sys2Proof/Laws/Ops.lean ====
section
/-!
SUPPORT. What the named operations over units, events and outputs do: a unit just written reads back, every other unit is as
before, and an event changes the event log alone. -/

namespace Sys2Proof.Laws

open Sys2Proof.Machine Sys2Proof.Safety

/-! ### Units -/

theorem pan_setPan (s : State) (p q : Nat) (x : Pan) : (s.setPan p x).pan q = if q = p then x else s.pan q := tget_tput _ _ _ _
theorem pan_updPan (s : State) (p q : Nat) (f : Pan → Pan) : (s.updPan p f).pan q = if q = p then f (s.pan p) else s.pan q :=
  tget_tput _ _ _ _
theorem updPan_only (s : State) (p : Nat) (f : Pan → Pan) : s.updPan p f = { s with pans := (s.updPan p f).pans } := rfl

theorem bed_setBed_same (s : State) (p b : Nat) (x : Bed) : (s.setBed p b x).bed p b = x := tget_tput_same _ _ _
theorem bed_setBed_other (s : State) {p b q c : Nat} (x : Bed) (h : bedKey q c ≠ bedKey p b) : (s.setBed p b x).bed q c = s.bed q c :=
  tget_tput_other _ _ h
theorem bedKey_inj {p b q c : Nat} (hb : b < 16) (hc : c < 16) (h : bedKey p b = bedKey q c) : p = q ∧ b = c := by
  unfold bedKey at h
  omega

theorem rake_setRake_same (s : State) (p b r : Nat) (x : Rake) : (s.setRake p b r x).rake p b r = x := tget_tput_same _ _ _
theorem rake_setRake_other (s : State) {p b r q c k : Nat} (x : Rake) (h : rakeKey q c k ≠ rakeKey p b r) :
    (s.setRake p b r x).rake q c k = s.rake q c k :=
  tget_tput_other _ _ h
theorem rakeKey_inj {p b r q c k : Nat} (hb : b < 16) (hc : c < 16) (hr : r < 48) (hk : k < 48) (h : rakeKey p b r = rakeKey q c k) :
    p = q ∧ b = c ∧ r = k := by
  unfold rakeKey at h
  omega

theorem core_setCore (s : State) (n m : Nat) (x : Core) : (s.setCore n x).core m = if m = n then x else s.core m := tget_tput _ _ _ _
theorem core_updCore (s : State) (n m : Nat) (f : Core → Core) : (s.updCore n f).core m = if m = n then f (s.core n) else s.core m :=
  tget_tput _ _ _ _
theorem coreDie_updCoreDie (s : State) (d e : Nat) (f : CoreDie → CoreDie) :
    (s.updCoreDie d f).coreDie e = if e = d then f (s.coreDie d) else s.coreDie e :=
  tget_tput _ _ _ _
theorem ioDie_updIoDie (s : State) (i k : Nat) (f : IoDie → IoDie) :
    (s.updIoDie i f).ioDie k = if k = i then f (s.ioDie i) else s.ioDie k :=
  tget_tput _ _ _ _
theorem port_updPort (s : State) (j k : Nat) (f : Port → Port) : (s.updPort j f).port k = if k = j then f (s.port j) else s.port k :=
  tget_tput _ _ _ _
theorem qp_setQp (s : State) (q r : Nat) (x : Option Qp) : (s.setQp q x).qp r = if r = q then x else s.qp r := tget_tput _ _ _ _
theorem box_updBox (s : State) (m n : Nat) (f : Mailbox → Mailbox) : (s.updBox m f).box n = if n = m then f (s.box m) else s.box n :=
  tget_tput _ _ _ _

/-! ### Events and outputs -/

/-- An event that arises changes the event log and nothing else. -/
theorem raise_only (s : State) (e : Event) : s.raise e = { s with events := (s.raise e).events } := by
  simp only [State.raise]
  split <;> rfl

/-- A NOTE or UE, other than a bed fault, joins the records that wait to be written with the package time of its state. -/
theorem raise_logs (s : State) (e : Event) (hc : evClass e.code e.detail ≠ 1) (hb : e.code ≠ evBedFault) : Logs s (s.raise e) e.code := by
  refine ⟨{ e with time := s.now, cls := evClass e.code e.detail }, ?_, rfl, rfl⟩
  simp [State.raise, hc, hb, State.updEvents]

/-- A CE or a bed fault is held for its second. -/
theorem raise_holds (s : State) (e : Event) (h : evClass e.code e.detail = 1 ∨ e.code = evBedFault) :
    s.raise e = { s with events := { s.events with
      held := holdEvent s.events.held { e with time := s.now, cls := evClass e.code e.detail } } } := by
  simp only [State.raise]
  rw [if_pos h]
  rfl

theorem note_only (s : State) (code die part partIndex action : Nat) :
    s.note code die part partIndex action = { s with events := (s.note code die part partIndex action).events } :=
  raise_only _ _
theorem noteD_only (s : State) (code die action detail detail2 : Nat) :
    s.noteD code die action detail detail2 = { s with events := (s.noteD code die action detail detail2).events } :=
  raise_only _ _

/-- An output joins those that have left and changes nothing else. -/
theorem emit_only (s : State) (o : Output) : s.emit o = { s with out := o :: s.out } := rfl

/-- The step's free values are drawn: nothing changes but their counter. -/
theorem drawn_only (s : State) : s.drawn = { s with free := s.free + 1 } := rfl

end Sys2Proof.Laws
end

