-- ==== Sys2Proof/Tests/Slice0.lean ====
section
/-!
SUPPORT. Tests: ill-formed commands refused, words of bed instructions, and a witness for the hypotheses of every statement. -/

open Sys2Proof Sys2Proof.Machine Sys2Proof.Safety

set_option maxRecDepth 100000
namespace Sys2Proof.Tests
/-- A package in READY, with everything else as at reset. -/
def ready : State := { State.reset with pkg := { st := .ready } }
/-- A command that completes with P, found by evaluation. -/
def check (c : Instr) (s : State) (P : State → Prop) [DecidablePred P] : Bool :=
  match exec c s with
  | .next t => decide (P t)
  | .fault _ => false
  | .refused _ => false
theorem ran {c : Instr} {s : State} {P : State → Prop} [DecidablePred P] (h : check c s P = true) : Completes c s P := by
  unfold check at h
  split at h
  · next t e => exact ⟨t, e, of_decide_eq_true h⟩
  · cases h
  · cases h
end Sys2Proof.Tests
open Sys2Proof.Tests
/-! ### Ill-formed commands -/

namespace Sys2Proof.Tests

/-- A message, a frame and an access with every field in range; the tests below spoil one field each. -/
def goodControl : ControlMsg :=
  { port := 0, pcp := 6, magic := 0, version := 1, type := 0, length := 64, keyIndex := 0, mailbox := 0, reserved := false, sender := 0,
    sequence := 0, planId := 0, body := [], tagOk := true }
def goodRoce : RoceMsg :=
  { port := 0, qpn := 1, psn := 0, va := 0, rkey := 0, len := 8, data := [], imm := 0, icrcOk := true, ecnCe := false, opOk := true }
def goodFrame : RawFrame := { port := 0, pcp := 0, fcsOk := true, etherType := 0, udpPort := none, destQpn := none, bytes := [] }
def goodMgmt : MgmtFrame := { tag := 0, address := 0, length := 8, reserved := false, data := [] }
def goodAccess : CoreAcc := { core := 0, ctx := { root := none, asid := 0, priv := .user }, va := 0, size := 8 }
def goodPtp : PtpMsg :=
  { port := 0, kind := .sync, domain := 0, arb := false, authOk := true, master := 0, rank := 0, offsetNs := 0 }
def goodTelemetry : Telemetry :=
  { pans := [], cores := [], other := ⟨0, 0⟩, input := ⟨0, 0⟩, loss := 0, avg10ms := 0, avg1ms := 0, inputMv := 48000 }
def fmtC : CFmt := { gd := { g := 7, gn := 0 }, body := 0 }

/-- Commands in range, one for most of the checks. -/
theorem test_wellFormed_accepts : (
  [ .caps 72, .panCutOver 19, .verify 0 256 0x10, .kernelStart 19 15, .nop ⟨19, 15, 47, 0⟩ fmtC, .coreLoad goodAccess,
    .mirrorAck goodControl, .rdmaReadReceived goodRoce, .rawFrameReceived goodFrame, .regRead goodMgmt, .ptpMessage goodPtp,
    .powerControllerRun goodTelemetry, .registerWrite (.tide 19 8) 0, .scrubLine (.brine 0 64) .clean, .setdasa 8, .qpCreate 3 65535 ]
  : List Instr).all Instr.wellFormed = true := by decide

/-- One command out of range for each check of a unit, an index or a size. -/
theorem test_wellFormed_refuses_units : (
  [ .panCutOver 20, .kernelStart 20 0, .kernelStart 0 16, .registerWrite (.lpd 8 0) 0, .fenceR 192, .keyload 4, .portLinkUp 16, .caps 73,
    .localAckTimeout 65536, .drain 0 256 0, .tideTick (2 ^ 64), .sqDoorbell 0 65536, .verify (2 ^ 48) 256 0x10, .moduleReset 65536,
    .brineSensorRead 0 [256], .roceAckReceived 0 0 (2 ^ 24), .nop ⟨0, 0, 48, 0⟩ fmtC, .droopTrip (.core 8), .droopTrip (.pan 20),
    .phaseRetired (.vcore 8), .phaseRetired (.vpan 20), .sensorFail (.pan 20), .sensorFail (.core 8), .setdasa 7, .entdaa 126,
    .stopAll (.mailbox 73) ]
  : List Instr).all (fun i => !i.wellFormed) = true := by decide

/-- One command out of range for each check of a field. -/
theorem test_wellFormed_refuses_fields : (
  [ .coreLoad { goodAccess with size := 3 }, .coreLoad { goodAccess with vec := true, size := 64 },
    .coreLoad { goodAccess with ctx := { root := none, asid := 65536, priv := .user } },
    .coreLoad { goodAccess with ctx := { root := some (2 ^ 48), asid := 0, priv := .user } }, .coreStore goodAccess [0],
    .powerControllerRun { goodTelemetry with inputMv := 65536 }, .ptpMessage { goodPtp with domain := 128 },
    .mirrorAck { goodControl with pcp := 8 }, .stopAll (.engine { goodControl with port := 16 }), .rdmaReadReceived { goodRoce with qpn := 2 ^ 24 },
    .rawFrameReceived { goodFrame with etherType := 65536 }, .regRead { goodMgmt with address := 2 ^ 48 },
    .registerWrite (.evt 4) 0, .registerWrite (.core 0 24 0) 0, .scrubLine (.brine 0 32) .clean, .scrubLine (.lpd 1) .clean,
    .mboxRequesterWrite 0 0x1000 0, .mboxRequesterWrite 0 4 0, .extend 8 [], .report [], .random 65536, .repair [], .linkReplay 0 256,
    .roceNakReceived 0 0 0 (.rnr 32), .pwrCapWrite 65536, .converterLost 4, .pfcPauseReceived 0 7 true,
    .flashOperationEnd false (List.replicate 257 0), .tlbInvalidate 0 (some 65536) none, .floodFetch 0 0 4 ]
  : List Instr).all (fun i => !i.wellFormed) = true := by decide

end Sys2Proof.Tests

/-! ### Step -/

/-- Witness of StepRunsTheFrontCommand: a queue that is empty. -/
theorem Sys2Proof.Tests.witness_idle : State.reset.pending = [] := by decide
/-- 20 ns still to be slewed: the last of 100,000 ns is two long, the first is one. -/
theorem Sys2Proof.Tests.test_slew : let s := { ready with time := { slew := 20, slewAcc := 99999 } }
    (passTime s).now = 2 ∧ (passTime s).time.slew = 19 ∧ (passTime (passTime s)).now = 3 ∧ (passTime (passTime s)).time.slewAcc = 1 := by decide

/-! ### Time -/

/-- Witnesses of LockStateMovesByTheTable, clause by clause. -/
theorem Sys2Proof.Tests.witness_ptp_locked : let s := { ready with time := { lock := .holdover, goodSyncs := 16 } }
    s.time.goodSyncs = 16 ∧ (s.time.lock = .acquiring ∨ s.time.lock = .holdover) := by decide
theorem Sys2Proof.Tests.witness_sync_timeout : timeUp { ready with time := { lock := .locked } } = true
    ∧ timeUp { ready with time := { lock := .acquiring } } = true ∧ timeUp { ready with time := { lock := .holdover } } = true := by decide
def Sys2Proof.Tests.msg : PtpMsg := { port := 0, kind := .sync, domain := 0, arb := false, authOk := true, master := 7, rank := 1, offsetNs := 10 }
def Sys2Proof.Tests.ptp (l : Lock) : State :=
  { ready with time := { lock := l, master := some 7, masters := [⟨7, 1, 0⟩] }, ports := [(0, { link := true })] }
theorem Sys2Proof.Tests.witness_ptp_sync : let s := ptp .free
    (s.port 0).link = true ∧ timeUp s = true ∧ msg.domain = s.cfg.ptpDomain ∧ (s.cfg.ptpPorts.take 4).contains 0 = true
      ∧ s.time.master = some msg.master ∧ s.time.lock = .free ∧ msg.twoStep = false ∧ msg.transport ≠ .other ∧ -7 ≤ msg.logSync ∧ msg.logSync ≤ 0
      ∧ ({ s with time := { s.time with syncOpen := some (0, 7, 0) } } : State).time.syncOpen = some (msg.port, msg.master, msg.seq)
      ∧ s.cfg.ptpPeer.contains 0 = false ∧ ({ s with cfg := { ptpPeer := [0] } } : State).cfg.ptpPeer.contains 0 = true := by decide
theorem Sys2Proof.Tests.witness_ptp_announce : let s := ptp .locked
    s.time.master.isSome = true ∧ (bestMaster (hearMaster s.time.masters ⟨8, 0, 0⟩)).map Master.id ≠ s.time.master
      ∧ (s.port 0).macsec = false := by decide
/-- An Announce of a better master takes LOCKED to HOLDOVER; ten ns off in FREE is one good interval. -/
theorem Sys2Proof.Tests.test_ptp_announce : Completes (.ptpMessage { msg with kind := .announce, master := 8, rank := 0 }) (ptp .locked)
    (fun t => t.time.lock = .holdover ∧ t.time.master = some 8) := ⟨_, rfl, by decide⟩
theorem Sys2Proof.Tests.test_ptp_sync : Completes (.ptpMessage msg) (ptp .free)
    (fun t => t.time.lock = .acquiring ∧ t.time.goodSyncs = 1) := ⟨_, rfl, by decide⟩
/-- Witnesses of TideInEdgesSteerTheTicks: ticks of a plan with P = 250 µs from E = 0, number 4 fired at 1,000,000 ns. -/
def Sys2Proof.Tests.tideIn (src : Bool) (t : TimeBase) : State :=
  { ready with cfg := { tideIn := true }, time := { t with tideIn := src }, tide := { running := some 0, periodUs := 250, number := 4 } }
theorem Sys2Proof.Tests.witness_edge : timeUp (tideIn true {}) = true ∧ edgeTickOf (tideIn true {}) 1002000 = some 4
    ∧ edgeTickOf (tideIn true {}) 998000 = some 4 ∧ edgeTickOf (tideIn false {}) 1002001 = none := by decide
theorem Sys2Proof.Tests.witness_missing : let s := tideIn true { missing := 3, edgeTick := some 3 }
    s.cfg.tideIn = true ∧ s.tide.running.isSome = true ∧ s.time.edgeTick ≠ some s.tide.number ∧ s.time.tideIn = true := by decide
theorem Sys2Proof.Tests.witness_fallback : let s := tideIn true { missing := 4, lock := .locked }
    s.time.tideIn = true ∧ s.time.missing = 4 ∧ s.time.lock = .locked ∧ (tideIn true { missing := 4 }).time.lock ≠ .locked := by decide
theorem Sys2Proof.Tests.witness_return : let s := tideIn false { goodEdges := 16 }
    s.cfg.tideIn = true ∧ s.time.tideIn = false ∧ s.time.goodEdges = 16 := by decide
theorem Sys2Proof.Tests.witness_time_sync : timeUp ready = true ∧ tget 0 ready.time.drift 3 = 0 ∧ 2000 < (-2001 : Int).natAbs
    ∧ tget 0 { ready with time := { drift := [(3, -2001)] } }.time.drift 3 ≠ 0 := by decide

/-! ### Tide -/

/-- A plan of one pan and one bed with a kernel, in slot 0, and the package that runs it: tide 4 has fired. -/
def Sys2Proof.Tests.kern : Kernel :=
  { entry := 0x1000, args := 0x55, blocks := 1, blockRakes := 1, vregGroups := 2, resident := 1, keyed := false,
    scratchBase := 0, scratchPer := 64, slots := 0, watchdog := 0 }
def Sys2Proof.Tests.plan (ks : List Kernel) : Plan :=
  { planId := 9, periodUs := 250, reserve := 0, statusVa := 0, stockpileBytes := 0,
    pans := [{ brineBytes := 0, brineTraffic := 0, flumeIn := 0, flumeOut := 0, energyUj := 0,
               beds := [{ worstCycles := 0, rakes := 1, blockRakes := 1, regfile := 65536, scratch := 4096, accum := 0, kernels := ks }] }],
    slots := [], binding := [0], root := 0, asid := 0, floorPower := 0, stockpileBase := 0, stockpileLen := 0, absentPans := [] }
def Sys2Proof.Tests.serving (t : Tide) : State :=
  { State.reset with pkg := { st := .serving }, plan0 := some (plan [kern]),
                     tide := { t with running := some 0, periodUs := 250, number := 4 } }
def Sys2Proof.Tests.done : StepRun := { slot := 0, step := 3, tide := 4, complete := true }
def Sys2Proof.Tests.open_ : StepRun := { done with complete := false }
/-- Witnesses and first instances of TideTickExecutesSkipsOrStops. -/
theorem Sys2Proof.Tests.test_tick_executes : let s := serving { cur := some done, nextStep := 4 }
    s.afterLate 5 = false ∧ s.tide.declared.find? (fun k => k.tide = s.tide.number + 1) = none
      ∧ Completes (.tideTick 5) s (fun t => t.tide.number = 5 ∧ t.tide.step = 4 ∧ t.tide.nextStep = 5 ∧ t.tide.pulses = 1
          ∧ t.now = 1250000) := ⟨by decide, by decide, _, rfl, by decide⟩
theorem Sys2Proof.Tests.test_tick_skips : let s := serving { cur := some done, nextStep := 4, declared := [⟨5, 2, 1, false, false⟩] }
    s.tide.declared.find? (fun k => k.tide = s.tide.number + 1) = some ⟨5, 2, 1, false, false⟩
      ∧ Completes (.tideTick 5) s (fun t => t.tide.number = 5 ∧ t.tide.skipping = true ∧ t.tide.nextStep = 4 ∧ t.tide.skips = 1
          ∧ t.tally.steps.getLast? = some ⟨2, 4, 5, 1, 2, 0⟩) := ⟨by decide, _, rfl, by decide⟩
theorem Sys2Proof.Tests.test_tick_stops : let s := serving { cur := some done, nextStep := 4, stopping := true }
    s.stepOpen = false ∧ s.pkg.st = .serving
      ∧ Completes (.tideTick 5) s (fun t => t.tide.running = none ∧ t.pkg.st = .ready) := ⟨by decide, by decide, _, rfl, by decide⟩
theorem Sys2Proof.Tests.test_tick_starts :
    let s := { ready with plan0 := some (plan []), tide := { start := some ⟨0, 7, 1, 0, 0, []⟩ } }
    s.plan 0 = some (plan []) ∧ s.tide.declared.find? (fun k => k.tide = 7) = none
      ∧ Completes (.tideTick 7) s (fun t => t.tide.running = some 0 ∧ t.pkg.st = .serving ∧ t.tide.step = 0 ∧ t.tide.nextStep = 1
          ∧ t.tide.periodUs = 250) := ⟨by decide, by decide, _, rfl, by decide⟩
/-- Witnesses and first instances of WatchPointDeclaresSkips. -/
theorem Sys2Proof.Tests.test_watch_clean : let s := serving { cur := some done, nextStep := 4 }
    nextRun s 4 = some (plan [kern], 4) ∧ (checkInputs (s.reach (watchTime s.tide 4)) (plan [kern]) 4).2.1 = true
      ∧ Completes (.watchPoint 4) s (fun t => t.tide.declared = []) := ⟨by decide, by decide, _, rfl, by decide⟩
def Sys2Proof.Tests.needy : Plan := { plan [kern] with slots := [⟨0, false, false, 64, 0x8000, 0x9000⟩] }
theorem Sys2Proof.Tests.test_watch_input_late :
    let s := { serving { cur := some done, nextStep := 4 } with plan0 := some needy }
    nextRun s 4 = some (needy, 4) ∧ (checkInputs (s.reach (watchTime s.tide 4)) needy 4).2.1 = false
      ∧ Completes (.watchPoint 4) s (fun t => t.tide.declared = [⟨5, 2, 0, true, false⟩]) := ⟨by decide, by decide, _, rfl, by decide⟩
theorem Sys2Proof.Tests.test_watch_overrun : let s := serving { cur := some open_, nextStep := 4 }
    s.afterLate 5 = true ∧ (s.plan 0).isSome ∧ nextRun s 4 = some (plan [kern], 4)
      ∧ Completes (.watchPoint 4) s (fun t => t.tide.declared = [⟨5, 1, 0, true, false⟩]) := ⟨by decide, by decide, by decide, _, rfl, by decide⟩
/-- A package with one control key, which the key list lets carry every type, and the skip notice of the member at position 1. -/
def Sys2Proof.Tests.keyed (s : State) : State :=
  { s with cfg := { controlKeys := [⟨[1, 2, 3, 4, 5], 0xFF⟩] }, trust := { keysLoaded := 1 }, ports := [(0, { link := true })] }
def Sys2Proof.Tests.control (type : Half) (body : List Byte) : ControlMsg :=
  { port := 0, pcp := 7, magic := 0x54435747, version := 1, type := type, length := body.length, keyIndex := 0, mailbox := 0,
    reserved := true, sender := 0x77, sequence := 5, planId := 0, body := body, tagOk := true }
def Sys2Proof.Tests.notice (n : Byte) : ControlMsg :=
  { control 1 [n, 0, 0, 0, 0, 0, 0, 0, 1, 1, 0, 0, 0, 0, 0, 0] with planId := 9 }
def Sys2Proof.Tests.inString : State :=
  keyed (serving { cur := some done, members := [⟨1, 0, 0, false⟩, ⟨0x77, 0, 0, false⟩] })
theorem Sys2Proof.Tests.test_skip_notice : controlOk inString (notice 6) = true ∧ noticeOk inString (notice 6) = true
    ∧ tideToCome inString (leField (notice 6).body 0 8) = true
    ∧ Completes (.skipNotice (notice 6)) inString (fun t => t.tide.declared = [⟨6, 1, 1, false, false⟩]) :=
  ⟨by decide, by decide, by decide, _, rfl, by decide⟩
theorem Sys2Proof.Tests.test_late_notice : controlOk inString (notice 4) = true ∧ noticeOk inString (notice 4) = true
    ∧ tideToCome inString (leField (notice 4).body 0 8) = false
    ∧ Completes (.skipNotice (notice 4)) inString (fun t => t.tide.stopping = true) := ⟨by decide, by decide, by decide, _, rfl, by decide⟩
theorem Sys2Proof.Tests.test_plan_stalled : let s := serving { cur := some open_, stallRun := 8 }
    s.tide.running.isSome = true ∧ 8 ≤ s.tide.stallRun ∧ Completes .planStalled s (fun t => t.tide.running = none ∧ t.pkg.st = .ready) :=
  ⟨by decide, by decide, _, rfl, by decide⟩
theorem Sys2Proof.Tests.test_drain_rerun :
    let s := { serving { cur := some open_ } with pkg := { st := .serving, rerun := true } }
    s.pkg.rerun = true ∧ s.plan 0 = some (plan [kern])
      ∧ Completes .drainRerun s (fun t => t.pkg.rerun = false ∧ t.tide.cur.map StepRun.step = some 3) := ⟨by decide, by decide, _, rfl, by decide⟩

/-! ### Kernels -/

/-- Witnesses and first instances of KernelsAndBlocksStartAndEnd. -/
def Sys2Proof.Tests.bedRuns : State :=
  { serving { cur := some open_ } with beds := [(0, { run := 1, cur := some kern })] }
theorem Sys2Proof.Tests.test_kernel_start : let s := serving { cur := some open_ }
    s.panRuns 0 = true ∧ s.stepOpen = true ∧ (s.bed 0 0).cur = none ∧ (s.kernelsOf 0 0)[(s.bed 0 0).retired]? = some kern
      ∧ Completes (.kernelStart 0 0) s (fun t => (t.bed 0 0).cur = some kern ∧ (t.bed 0 0).run = 1) :=
  ⟨by decide, by decide, by decide, by decide, _, rfl, by decide⟩
theorem Sys2Proof.Tests.test_block_start : bedRuns.panRuns 0 = true ∧ blockDue (bedRuns.bed 0 0) kern 0 = true
    ∧ 0 % kern.resident * kern.blockRakes + 0 < 48
    ∧ Completes (.blockStart 0 0 0) bedRuns (fun t => (t.rake 0 0 0).home = some (0, 0) ∧ (t.rake 0 0 0).pc 31 = 0x1000
        ∧ (t.rake 0 0 0).sget 0 = 0x55 ∧ (t.rake 0 0 0).sget 5 = 3 ∧ (t.rake 0 0 0).sget 6 = 4 ∧ (t.rake 0 0 0).vregGroups = 2) :=
  ⟨by decide, by decide, by decide, _, rfl, by decide⟩
def Sys2Proof.Tests.block : Block := { index := 0, position := 0, slots := [0], scratchAddr := 0, scratchLen := 64 }
theorem Sys2Proof.Tests.test_block_end : let s := { serving { cur := some open_ } with beds := [(0, { run := 1, cur := some kern, blocks := [block] })] }
    (s.bed 0 0).block? 0 = some block ∧ (s.rake 0 0 0).live = 0 ∧ blockBusy s 0 0 block = false ∧ s.panRuns 0 = true
      ∧ Completes (.blockEnd 0 0 0) s (fun t => (t.bed 0 0).blocks = [] ∧ (t.bed 0 0).retired = 1 ∧ t.tide.cur.map StepRun.complete = some true) :=
  ⟨by decide, by decide, by decide, by decide, _, rfl, by decide⟩
theorem Sys2Proof.Tests.test_barrier_orphan :
    let x : Block := { block with waitFrom := some 10 }
    let s := { serving { cur := some open_, } with now := 2000000, beds := [(0, { run := 1, cur := some kern, blocks := [x] })] }
    (s.bed 0 0).block? 0 = some x ∧ firstWait s 0 0 x = some (10, none) ∧ orphanDue s kern.watchdog (some 10) = true ∧ (s.bed 0 0).fValid = false
      ∧ (∀ r ∈ x.slots, ∀ l, l < 32 → tget none (s.rake 0 0 r).syncFrom l ≠ none → False)
      ∧ Completes (.barrierOrphan 0 0 0) s (fun t => (t.bed 0 0).failed = true ∧ (t.bed 0 0).fCode = 5) :=
  ⟨by decide, by decide, by decide, by decide, fun _ _ _ _ h => h rfl, _, rfl, by decide⟩
theorem Sys2Proof.Tests.test_reseed_refused : (bedRuns.bed 0 0).cur.isSome = true ∧ 0 < bedRuns.cfg.variant.pans
    ∧ Completes (.grainReseed 0) bedRuns (fun t => (t.pan 0).grainRefused = true) := ⟨by decide, by decide, _, rfl, by decide⟩
theorem Sys2Proof.Tests.witness_reseed : (∀ b, b < 16 → (ready.bed 0 b).cur = none) ∧ 0 < ready.cfg.variant.pans := by
  refine ⟨fun _ _ => rfl, by decide⟩
theorem Sys2Proof.Tests.test_reseed_complete : let s := { ready with pans := [(0, { grainBusy := true })] }
    (s.pan 0).grainBusy = true ∧ Completes (.reseedComplete 0) s (fun t => (t.pan 0).grainBusy = false) := ⟨by decide, _, rfl, by decide⟩

/-! ### Vector -/

/-- A rake with all threads running at 0x200000, sixteen vector registers and a few values. -/
def Sys2Proof.Tests.rake : Rake :=
  { home := some (0, 0)
    threads := tputs .absent [] 0 (laneList.map (fun _ => .running))
    pcs := tputs 0 [] 0 (laneList.map (fun _ => 0x200000))
    v := [(1 * 32 + 5, 7), (2 * 32 + 5, 0xFFFFFFFE), (3 * 32 + 5, 3)]
    s := [(1, 40), (2, 2)]
    vregGroups := 2 }
def Sys2Proof.Tests.at0 : At := { pan := 0, bed := 0, slot := 0, group := 0 }
/-- A bed that runs one rake, whose pan translates through a page table at 0x1000: its first entry names the table at 0x2000, whose
first entry is a leaf of 1 GiB at address 0 with every right and B. -/
def Sys2Proof.Tests.issuing (r : Rake) : State :=
  { serving { cur := some open_ } with
    beds := [(0, { run := 1, cur := some kern, blocks := [{ index := 0, position := 0, slots := [0], scratchAddr := 0, scratchLen := 64 }] })]
    rakes := [(0, r)]
    pans := [(0, { root0 := some (0x1000, 1) })]
    mem := tputs 0 (tputs 0 [] 0x1000 (leBytes 8 0x2001)) 0x2000 (leBytes 8 0xFFF) }
def Sys2Proof.Tests.issue (r : Rake) : Issue := { a := at0, rake := r, active := 0xFFFFFFFF, pc := 0x200000 }
def Sys2Proof.Tests.always : Guard := { g := 7, gn := 0 }
/-- The witness of the hypotheses about bed instructions: the group issues and its fetch translates. -/
theorem Sys2Proof.Tests.witness_ready : ∃ c s1, Ready at0 (issuing Tests.rake) c s1 ∧ c = issue Tests.rake ∧ c.guarded always ≠ 0
    ∧ operandWait at0 s1 [1, 2] = false ∧ c.rake.regOk 4 1 = true ∧ c.rake.regOk 8 4 = true :=
  ⟨_, _, ⟨rfl, rfl⟩, rfl, by decide, by decide, by decide, by decide⟩
def Sys2Proof.Tests.vf : VFmt :=
  { gd := always, vd := 4, va := 1, vb := 2, vc := 3, type := 0, bmode := 0, pd := 0, pw := 1, rnd := 0, sat := 0, na := 0, nb := 0,
    nc := 0, sub := 0 }
theorem Sys2Proof.Tests.witness_vector : (vfieldsOk vf false && vsrcOk (issue Tests.rake) vf 1 true true true
    && (issue Tests.rake).rake.regOk vf.vd.toNat 1) = true ∧ (vfieldsOk { vf with sub := 4, type := 5, rnd := 2 } true = true)
    ∧ (vfieldsOk { vf with type := 8, vd := 8, va := 0, vb := 4, vc := 0 } false
        && vsrcOk (issue Tests.rake) { vf with type := 8, vd := 8, va := 0, vb := 4, vc := 0 } 4 true true false) = true
    ∧ cvtIsPair { vf with sub := 4, type := 5, rnd := 2 } = true := by decide
/-- The state after a command on the rake, where one is answered. -/
def Sys2Proof.Tests.after (i : Instr) : State :=
  match exec i (issuing Tests.rake) with
  | .next t => t
  | _ => State.reset
def Sys2Proof.Tests.v4 (i : Instr) : Word := (rakeAt at0 (Tests.after i)).vget 4 5
/-- Lane 5 of v1, v2, v3 holds 7, −2 and 3. -/
theorem Sys2Proof.Tests.test_vector_arithmetic : v4 (.vadd at0 vf) = 5 ∧ v4 (.vsub at0 vf) = 9 ∧ v4 (.vmul at0 vf) = 0xFFFFFFF2
    ∧ v4 (.vfma at0 vf) = 0xFFFFFFF5 ∧ v4 (.vmin at0 vf) = 0xFFFFFFFE ∧ v4 (.vmax at0 vf) = 7 := by decide
theorem Sys2Proof.Tests.test_vector_logic : v4 (.vand at0 vf) = 6 ∧ v4 (.vor at0 vf) = 0xFFFFFFFF ∧ v4 (.vxor at0 vf) = 0xFFFFFFF9
    ∧ v4 (.vmov at0 vf) = 0xFFFFFFFE ∧ v4 (.vsel at0 vf) = 0xFFFFFFFE ∧ v4 (.vlane at0 vf) = 5 ∧ v4 (.vbits at0 vf) = 3 := by decide
theorem Sys2Proof.Tests.test_vector_shifts : v4 (.vshl at0 { vf with vb := 3 }) = 56 ∧ v4 (.vshl at0 vf) = 0
    ∧ v4 (.vshr at0 { vf with va := 2, vb := 3 }) = 0x1FFFFFFF ∧ v4 (.vshr at0 { vf with va := 2, vb := 3, sub := 1 }) = 0xFFFFFFFF := by decide
/-- A compare writes p0, immediates and broadcast scalars reach b, U32 to FP32 is exact. -/
theorem Sys2Proof.Tests.test_vector_forms : (rakeAt at0 (Tests.after (.vcmp at0 { vf with sub := 2 }))).pget 0 = 0
    ∧ lane ((rakeAt at0 (Tests.after (.vcmp at0 { vf with sub := 4 }))).pget 0) 5 = true
    ∧ v4 (.vadd at0 { vf with bmode := 2, vb := 0xFF, vc := 0xFF }) = 6 ∧ v4 (.vadd at0 { vf with bmode := 1, vb := 1 }) = 47
    ∧ v4 (.vcvt at0 { vf with type := 4, sub := 0 }) = 0x40E00000 ∧ v4 (.vadd at0 { vf with nb := 1 }) = 9 := by decide
/-- The RAW96 value in v0 to v3 doubled: tags 3 and 3 combine to 3. -/
theorem Sys2Proof.Tests.test_vadd96 : (rakeAt at0 (Tests.after (.vadd96 at0 { vf with type := 8, vd := 8, va := 0, vb := 0 }))).wide 8 4 5
    = 2 * (7 * 2 ^ 32 + 0xFFFFFFFE * 2 ^ 64) % 2 ^ 96 + 3 * 2 ^ 96 := by decide
/-- No thread guarded: only the program counters move. Beyond the allocation: the bed records ILLEGAL_INSTRUCTION. -/
theorem Sys2Proof.Tests.test_vector_guard : v4 (.vadd at0 { vf with gd := ⟨7, 1⟩ }) = 0
    ∧ (rakeAt at0 (Tests.after (.vadd at0 { vf with gd := ⟨7, 1⟩ }))).pc 5 = 0x200008
    ∧ ((Tests.after (.vadd at0 { vf with vd := 16 })).bed 0 0).fCode = 1 := by decide

/-! ### Scalar -/

def Sys2Proof.Tests.sf : SFmt := { gd := always, sd := 9, sa := 1, sb := 2, imm := 0, rsv := 0, imm32 := 0 }
theorem Sys2Proof.Tests.witness_scalar : ∃ c s1, ScalarRuns at0 sf (issuing Tests.rake) c s1 :=
  ⟨_, _, ⟨rfl, rfl⟩, by decide, by decide⟩
theorem Sys2Proof.Tests.witness_scalar_guard : ∃ c s1, Ready at0 (issuing Tests.rake) c s1 ∧ c.guarded ⟨7, 1⟩ = 0 :=
  ⟨_, _, ⟨rfl, rfl⟩, by decide⟩
def Sys2Proof.Tests.s9 (i : Instr) : Dword := (rakeAt at0 (Tests.after i)).sget 9
/-- s1 holds 40 and s2 holds 2. -/
theorem Sys2Proof.Tests.test_scalar_arithmetic : s9 (.sadd at0 sf) = 42 ∧ s9 (.ssub at0 sf) = 38 ∧ s9 (.smul at0 sf) = 80
    ∧ s9 (.sand at0 sf) = 0 ∧ s9 (.sor at0 sf) = 42 ∧ s9 (.sxor at0 sf) = 42 ∧ s9 (.sshl at0 sf) = 160 ∧ s9 (.sshr at0 sf) = 10 := by decide
theorem Sys2Proof.Tests.test_scalar_forms : s9 (.sadd at0 { sf with imm := 1, imm32 := 0xFFFFFFFF }) = 39
    ∧ s9 (.smov at0 sf) = 2 ∧ s9 (.smovh at0 sf) = 0x200000000 ∧ s9 (.scmp at0 { sf with imm32 := 4 }) = 1
    ∧ s9 (.sread at0 { sf with imm32 := 5 }) = 0xFFFFFFFF ∧ s9 (.sfromv at0 { sf with imm32 := 5 }) = 7 := by decide
/-- Condition 7 of SCMP is reserved. -/
theorem Sys2Proof.Tests.test_scalar_reserved : ((Tests.after (.scmp at0 { sf with imm32 := 7 })).bed 0 0).fCode = 1 := by decide

/-! ### Control -/

def Sys2Proof.Tests.cf (b : BitVec 52) : CFmt := { gd := always, body := b }
/-- Threads 0 to 15 run at 0x200000 in group 0, the others at 0x300000 in group 1. -/
def Sys2Proof.Tests.split : Rake :=
  { Tests.rake with
    pcs := tputs 0 [] 0 (laneList.map (fun l => if l < 16 then 0x200000 else 0x300000))
    groups := tputs 0 [] 16 ((List.range 16).map (fun _ => 1))
    p := [(0, 0xFF)] }
def Sys2Proof.Tests.afterSplit (i : Instr) : Rake :=
  match exec i (issuing split) with
  | .next t => rakeAt at0 t
  | _ => {}
/-- BRA of eight threads by three instructions back: they form group 2; SBRA with s1 = 40 takes the whole group along. -/
theorem Sys2Proof.Tests.test_branches :
    (let r := afterSplit (.bra at0 { gd := ⟨0, 0⟩, body := 0xFFFFFFFD }); r.pc 7 = 0x1FFFF0 ∧ r.pc 8 = 0x200008 ∧ r.pc 16 = 0x300000 ∧ r.groupOf 7 = 2 ∧ r.groupOf 8 = 0)
    ∧ (afterSplit (.sbra at0 (cf (0x10000000004)))).pc 15 = 0x200028
    ∧ (let r := afterSplit (.call at0 (cf 0x400000000001)); r.pc 0 = 0x200010 ∧ r.wide 4 2 15 = 0x200008 ∧ r.wide 4 2 16 = 0)
    ∧ (let r := afterSplit (.brx at0 (cf 0x2000000000)); r.pc 5 = 0x3FFFFFFFE ∧ r.pc 4 = 0 ∧ r.groupOf 5 ≠ r.groupOf 4) := by decide
theorem Sys2Proof.Tests.witness_control : (∃ c s1, Ready at0 (issuing split) c s1 ∧ c.guarded always ≠ 0
      ∧ c.pmask 0x40 = some 0xFFFFFFFF ∧ c.guarded always &&& ~~~0xFFFFFFFF = 0 ∧ operandWait at0 s1 [0x40] = false
      ∧ (∀ l, l < 32 → lane c.active l = true → c.rake.pc l = c.pc) ∧ lane (c.rake.live &&& 0xFFFFFFFF) 16 = true
      ∧ c.rake.thread 16 = .running)
    ∧ (∃ c s1, Ready at0 (issuing Tests.rake) c s1 ∧ c.rake.live &&& 0xFFFFFFFF = c.guarded always ∧ rakeBusy at0 s1 = false
      ∧ (s1.bed 0 0).block? c.block = some { index := 0, position := 0, slots := [0], scratchAddr := 0, scratchLen := 64 }
      ∧ ∀ l, l < 32 → lane (c.guarded always) l = true) :=
  ⟨⟨_, _, ⟨rfl, rfl⟩, by decide, by decide, by decide, by decide, by decide, by decide, by decide⟩,
    _, _, ⟨rfl, rfl⟩, by decide, by decide, by decide, by decide⟩
/-- A group whose guard holds for threads 0 to 7, and no wait in the rake. -/
theorem Sys2Proof.Tests.witness_control_guard : ∃ c s1, Ready at0 (issuing split) c s1 ∧ c.guarded ⟨0, 0⟩ = 0xFF ∧ c.guarded ⟨7, 1⟩ = 0
    ∧ ∀ l, l < 32 → c.rake.thread l = .running := ⟨_, _, ⟨rfl, rfl⟩, by decide, by decide, by decide⟩
/-- Work of the rake in the matrix queue: a fence of kind 2 waits. -/
theorem Sys2Proof.Tests.test_fence_waits : let w : Work := { op := .mma { gd := always, pm := 0x40, sbase := 0, body := 0 }, at_ := at0, block := 0, pc := 0, active := 1, pm := 1, ops := [] }
    let s := (issuing Tests.rake).updBed 0 0 (fun d => { d with mq := [w] })
    rakeBusy at0 s = true ∧ Completes (.fence at0 (cf 8)) s (fun t => (rakeAt at0 t).pc 0 = 0x200000) := ⟨by decide, _, rfl, by decide⟩
/-- The half of a rake waits, the whole rake goes on. -/
theorem Sys2Proof.Tests.test_sync_and_barrier :
    (afterSplit (.syncRake at0 (cf (0x40 * 2 ^ 45)))).thread 3 = .atSync 0xFFFFFFFF
    ∧ (rakeAt at0 (Tests.after (.syncRake at0 (cf (0x40 * 2 ^ 45))))).pc 3 = 0x200008
    ∧ (afterSplit (.barBlock at0 (cf 0))).thread 3 = .atBarrier
    ∧ (rakeAt at0 (Tests.after (.barBlock at0 (cf 0)))).pc 3 = 0x200008 := by decide
theorem Sys2Proof.Tests.test_exit_trap_nop :
    (afterSplit (.exit at0 { gd := ⟨0, 0⟩, body := 0 })).thread 7 = .exited
    ∧ (afterSplit (.exit at0 { gd := ⟨0, 0⟩, body := 0 })).pc 8 = 0x200008
    ∧ ((Tests.after (.trap at0 (cf 0xBEEF))).bed 0 0).fAddr = 0xBEEF ∧ ((Tests.after (.trap at0 (cf 0xBEEF))).bed 0 0).fCode = 8
    ∧ (afterSplit (.nop at0 (cf 0))).pc 15 = 0x200008 ∧ (afterSplit (.fence at0 (cf 0))).pc 15 = 0x200008 := by decide

/-! ### Bedmem -/

def Sys2Proof.Tests.mf : MFmt := { gd := always, vd := 4, va := 6, vb := 2, size := 2, space := 0, order := 0, scope := 0, aop := 0, offset := 0 }
def Sys2Proof.Tests.inScratch : State :=
  { issuing Tests.rake with beds := [(0, { ((issuing Tests.rake).bed 0 0) with scratch := [(0, 0x11), (3, 0x44)] })] }
/-- v6 and v7 hold zero, so every thread names address 0. -/
theorem Sys2Proof.Tests.witness_ld : ∃ c s1, MemRuns at0 mf inScratch c s1 4 (memRegs c mf 1 [4]) ∧ ScratchOk c mf s1 4 true :=
  ⟨_, _, ⟨⟨rfl, rfl⟩, by decide, rfl, by decide⟩, by decide⟩
theorem Sys2Proof.Tests.witness_release : Released at0 { mf with order := 2 } inScratch
    ∧ (let w : Work := { op := .mma { gd := always, pm := 0x40, sbase := 0, body := 0 }, at_ := at0, block := 0, pc := 0, active := 1, pm := 1, ops := [] }
      rakeBusy at0 (inScratch.updBed 0 0 (fun d => { d with mq := [w] })) = true) := by decide
/-- A store whose old byte a later load of another thread, which races, may still find. -/
theorem Sys2Proof.Tests.test_race : Completes (.st at0 { mf with size := 0, gd := ⟨0, 0⟩ })
    { inScratch with rakes := [(0, { Tests.rake with p := [(0, 0x20)] })] }
    (fun t => (t.bed 0 0).kept.map (fun r => (r.old, racing { lane := some 6 } r, racing { lane := some 5 } r)) = [([(0, 0x11)], true, false)]) :=
  ⟨_, rfl, by decide⟩
theorem Sys2Proof.Tests.test_ld_scratch : Completes (.ld at0 mf) inScratch (fun t => (rakeAt at0 t).vget 4 9 = 0x44000011
    ∧ (rakeAt at0 t).pc 9 = 0x200008) := ⟨_, rfl, by decide⟩
theorem Sys2Proof.Tests.test_st_scratch : Completes (.st at0 { mf with size := 1, gd := ⟨0, 0⟩ })
    { inScratch with rakes := [(0, { Tests.rake with p := [(0, 0x20)] })] }
    (fun t => scratchByte at0 t 0 = 0xFE ∧ scratchByte at0 t 1 = 0xFF ∧ scratchByte at0 t 2 = 0 ∧ scratchByte at0 t 3 = 0x44) :=
  ⟨_, rfl, by decide⟩
/-- Lane 5 alone adds −2 to zero and finds zero. -/
theorem Sys2Proof.Tests.test_atom_scratch : Completes (.atom at0 { mf with vb := 2 })
    { inScratch with beds := [(0, { ((issuing Tests.rake).bed 0 0) with scratch := [(0, 3)] })] }
    (fun t => scratchByte at0 t 0 = 1 ∧ (rakeAt at0 t).vget 4 5 = 3 ∧ (rakeAt at0 t).vget 4 6 = 1) := ⟨_, rfl, by decide⟩
theorem Sys2Proof.Tests.test_cas_scratch : Completes (.atomCas at0 { mf with vb := 2 })
    { inScratch with beds := [(0, { ((issuing Tests.rake).bed 0 0) with scratch := tputs 0 [] 0 (leBytes 4 0xFFFFFFFE) })] }
    (fun t => scratchByte at0 t 0 = 3 ∧ scratchByte at0 t 3 = 0 ∧ (rakeAt at0 t).vget 4 5 = 0xFFFFFFFE ∧ (rakeAt at0 t).vget 4 6 = 3) :=
  ⟨_, rfl, by decide⟩
/-- The data page at 0 is another than the instruction's; thread 5 alone is guarded. The pan's cache holds line 0 for writing. -/
def Sys2Proof.Tests.paged (leaf : Nat) : State :=
  { issuing { Tests.rake with p := [(0, 0x20)] } with
    mem := tputs 0 (tputs 0 (tputs 0 [] 0x1000 (leBytes 8 0x2001)) 0x2000 (leBytes 8 0x3001)) 0x3000 (leBytes 8 leaf ++ leBytes 8 0x200FFF) }
def Sys2Proof.Tests.holding : State :=
  { paged 0xFFF with coh := { State.reset.coh with lines := [(agentKey (panAgent 0) 0, some { st := .m, data := padTo 64 [9, 8, 7, 6], stamp := 0 })] } }
def Sys2Proof.Tests.vm : MFmt := { mf with space := 1, gd := ⟨0, 0⟩ }
theorem Sys2Proof.Tests.witness_ld_held : ∃ c s1 s2 ts, MemRuns at0 vm holding c s1 4 (memRegs c vm 1 [4])
    ∧ targets c vm 4 .r kLoad true s1 = .ok (s2, ts)
    ∧ (∀ u ∈ ts, u.cacheable = true ∧ u.pa = 0) ∧ linesOf 0 4 = [0] ∧ (s2.cached (panAgent 0) 0).isSome = true :=
  ⟨_, _, _, _, ⟨⟨rfl, rfl⟩, by decide, rfl, by decide⟩, rfl, by decide, by decide, by decide⟩
theorem Sys2Proof.Tests.witness_st_held : ∃ c s1 s2 ts, MemRuns at0 vm holding c s1 4 (memRegs c vm 1 [2])
    ∧ targets c vm 4 .w kStore false s1 = .ok (s2, ts) ∧ (∀ u ∈ ts, u.cacheable = true ∧ u.pa = 0) ∧ HeldM at0 s2 0
    ∧ s2.cohBytes 0 4 = (List.range 4).map (fun j => heldByte at0 s2 (0 + j)) ∧ (s2.holders 0).length = 1 :=
  ⟨_, _, _, _, ⟨⟨rfl, rfl⟩, by decide, rfl, by decide⟩, rfl, by decide, by decide, by decide, by decide⟩
theorem Sys2Proof.Tests.test_ld_held : Completes (.ld at0 vm) holding (fun t => (rakeAt at0 t).vget 4 5 = 0x06070809) := ⟨_, rfl, by decide⟩
theorem Sys2Proof.Tests.test_st_held : Completes (.st at0 vm) holding
    (fun t => heldByte at0 t 0 = 0xFE ∧ heldByte at0 t 3 = 0xFF ∧ heldByte at0 t 4 = 0 ∧ memByte t 0 = 0) := ⟨_, rfl, by decide⟩
theorem Sys2Proof.Tests.test_atom_held : Completes (.atom at0 vm) holding
    (fun t => heldByte at0 t 0 = 7 ∧ (rakeAt at0 t).vget 4 5 = 0x06070809) := ⟨_, rfl, by decide⟩
theorem Sys2Proof.Tests.witness_st_home : ∃ c s1 s2 ts, MemRuns at0 vm (paged 0xF7F) c s1 4 (memRegs c vm 1 [2])
    ∧ targets c vm 4 .w kStore false s1 = .ok (s2, ts) ∧ (∀ u ∈ ts, u.cacheable = false ∧ u.pa = 0) ∧ AtHome s2 0 :=
  ⟨_, _, _, _, ⟨⟨rfl, rfl⟩, by decide, rfl, by decide⟩, rfl, by decide, by decide⟩
theorem Sys2Proof.Tests.test_st_home : Completes (.st at0 vm) (paged 0xF7F)
    (fun t => memByte t 0 = 0xFE ∧ memByte t 3 = 0xFF ∧ memByte t 4 = 0 ∧ memByte t 0x1000 = 1) := ⟨_, rfl, by decide⟩

/-! ### Collect -/

def Sys2Proof.Tests.lf : LFmt := { gd := always, pm := 0x40, sbase := 1, vd := 4, va := 1, vb := 0, type := 1, sub := 0, imm10 := 5 }
theorem Sys2Proof.Tests.witness_collective : ∃ c s1, WideRuns at0 lf.gd lf.pm lf.sbase 0 (issuing Tests.rake) c s1
    (decide (lf.sub.toNat < 3) && (vtype lf.type.toNat).isSome && c.rake.regOk lf.va.toNat 1 && c.rake.regOk lf.vd.toNat 1) :=
  ⟨_, _, ⟨rfl, rfl⟩, rfl, by decide, by decide, by decide⟩
/-- v1 is 7 in lane 5 and zero elsewhere. -/
theorem Sys2Proof.Tests.test_shfl : v4 (.shfl at0 lf) = 7 ∧ v4 (.shfl at0 { lf with sub := 1, imm10 := 0 }) = 7
    ∧ v4 (.shfl at0 { lf with sub := 2, imm10 := 31 }) = 0 ∧ v4 (.shfl at0 { lf with sub := 3, imm10 := 1 }) = 0
    ∧ v4 (.bcast at0 lf) = 7 := by decide
theorem Sys2Proof.Tests.test_vote_reduce : v4 (.vote at0 lf) = 0 ∧ v4 (.vote at0 { lf with sub := 1 }) = 1
    ∧ v4 (.vote at0 { lf with sub := 2 }) = 0x20 ∧ v4 (.reduce at0 lf) = 7 ∧ v4 (.reduce at0 { lf with sub := 1 }) = 0
    ∧ v4 (.scan at0 lf) = 7 ∧ v4 (.scan at0 { lf with sub := 1 }) = 0 ∧ v4 (.scan at0 { lf with sub := 2 }) = 7 := by decide
/-- s8 to s15 hold the scalar operands: two FP32 logits at address 0, 1.0 and 2.0. -/
def Sys2Proof.Tests.logits : State :=
  { issuing { Tests.rake with s := [(9, 2)] } with
    beds := [(0, { ((issuing Tests.rake).bed 0 0) with scratch := tputs 0 (tputs 0 [] 0 (leBytes 4 0x3F800000)) 4 (leBytes 4 0x40000000) })] }
theorem Sys2Proof.Tests.test_sample : let f : LFmt := { lf with type := 4 }
    (∃ c s1, WideRuns at0 f.gd f.pm f.sbase 8 logits c s1 (decide (f.sub = 0) && (decide (f.type = 4) || decide (f.type = 5)) && c.rake.regOk f.vd.toNat 1))
      ∧ Completes (.sample at0 f) logits (fun t => (rakeAt at0 t).vget 4 5 = 1 ∧ (t.pan 0).grainKeys = 0) :=
  ⟨⟨_, _, ⟨rfl, rfl⟩, rfl, by decide, by decide, by decide⟩, _, rfl, by decide⟩

/-! ### Matrix -/

def Sys2Proof.Tests.xfmt (body : BitVec 42) : XFmt := { gd := always, pm := 0x40, sbase := 1, body := body }
/-- INT8 times INT8 with init into slot 2, shape 0, four rows, the operands at address 0 with stride 32 and at 0x1000. -/
def Sys2Proof.Tests.mul8 : XFmt := xfmt (BitVec.ofNat 42 (10 * 2 ^ 36 + 10 * 2 ^ 32 + 2 * 2 ^ 28 + 2 ^ 27 + 3 * 2 ^ 18))
def Sys2Proof.Tests.mulRake : State := issuing { Tests.rake with s := [(9, 32), (11, 0x1000), (12, 32)] }
theorem Sys2Proof.Tests.witness_mma : ∃ c s1, WideRuns at0 mul8.gd mul8.pm mul8.sbase 7 mulRake c s1 (mmaLegal mul8)
    ∧ mmaFault (s1.bed 0 0) mul8 (mmaArgs (c.sop mul8.sbase) mul8) = none ∧ (s1.bed 0 0).full (.mma mul8) = false :=
  ⟨_, _, ⟨⟨rfl, rfl⟩, rfl, by decide, by decide, by decide⟩, by decide, by decide⟩
theorem Sys2Proof.Tests.test_mma : Completes (.mma at0 mul8) mulRake (fun t =>
    (t.bed 0 0).mq.map (fun w => (w.op, w.pc, w.sop 3)) = [(.mma mul8, 0x200000, 0x1000)] ∧ (rakeAt at0 t).pc 0 = 0x200008) := ⟨_, rfl, by decide⟩
def Sys2Proof.Tests.queued (o : WorkOp) (ops : List Nat) (d : Bed) : State :=
  { issuing Tests.rake with beds := [(0, { d with run := 1, mq := [{ op := o, at_ := at0, block := 0, pc := 0, active := 1, pm := 1, ops := ops }] })] }
/-- The engine's turn at it: the tile is formed and counts 32 products. -/
theorem Sys2Proof.Tests.test_mma_turn : let s := Tests.queued (.mma mul8) [0, 32, 0, 0x1000, 32] {}
    turns s = [.matrix 0 0 0] ∧ mmaFits (s.bed 0 0) mul8 = true ∧ ((runTurn s (.matrix 0 0 0)).bed 0 0).mq = []
      ∧ (((runTurn s (.matrix 0 0 0)).bed 0 0).slot 2).kind = .integer ∧ (((runTurn s (.matrix 0 0 0)).bed 0 0).slot 2).kCount = 32 := by decide
theorem Sys2Proof.Tests.witness_matrix_head : let s := Tests.queued (.mma mul8) [0, 32, 0, 0x1000, 32] {}
    ∃ w, MatrixHead s 0 0 0 w ∧ w.op = .mma mul8 ∧ firstError (s.bed 0 0) (mmaReads mul8 (mmaArgs w.sop mul8)) = none :=
  ⟨_, ⟨rfl, rfl, rfl, by decide, by decide⟩, rfl, by decide⟩
/-- Without init an MMA to an empty slot is an MMA_STATE fault. -/
theorem Sys2Proof.Tests.test_mma_state : Completes (.mma at0 (xfmt (BitVec.ofNat 42 (10 * 2 ^ 36 + 10 * 2 ^ 32 + 2 * 2 ^ 28 + 3 * 2 ^ 18))))
    mulRake (fun t => (t.bed 0 0).fCode = 3) := ⟨_, rfl, by decide⟩
/-- An integer tile at slot 2 whose first element is 7, drained as one INT32 to address 0, and reported. -/
def Sys2Proof.Tests.tiled : Bed := { slots := [(2, { kind := .integer, base := 2, vals := [(0, 7)], kCount := 32 })] }
def Sys2Proof.Tests.drain11 : XFmt := xfmt (BitVec.ofNat 42 (11 * 2 ^ 36 + 2 * 2 ^ 28 + 2 ^ 26 + 9 * 2 ^ 12))
theorem Sys2Proof.Tests.test_drain : let s := Tests.queued (.mmaDrain drain11) [0, 4, 0, 1, 1] Tests.tiled
    let t := runTurn s (.matrix 0 0 0)
    drainFits (s.bed 0 0) drain11 1 1 = true ∧ scratchByte at0 t 0 = 7 ∧ scratchByte at0 t 1 = 0 ∧ ((t.bed 0 0).slot 2).kind = .empty := by decide
theorem Sys2Proof.Tests.test_stat :
    (rakeAt at0 (runTurn (Tests.queued (.mmaStat drain11) [] Tests.tiled) (.matrix 0 0 0))).sget 9 = 0x2000080003
      ∧ (Tests.tiled.slot 2).shape < 3 ∧ (Tests.tiled.slot 2).kCount < 2 ^ 32 := by decide
/-- The three issue; a drain of an empty slot is an MMA_STATE fault. -/
def Sys2Proof.Tests.tiledRake : State :=
  { issuing { Tests.rake with s := [(9, 4), (11, 1), (12, 1)] } with
    beds := [(0, { ((issuing Tests.rake).bed 0 0) with slots := Tests.tiled.slots })] }
theorem Sys2Proof.Tests.test_drain_issues : ∃ c s1, WideRuns at0 drain11.gd drain11.pm drain11.sbase 6 tiledRake c s1 true
    ∧ mmaDrainFault (s1.bed 0 0) drain11 (c.sop drain11.sbase) = none ∧ (s1.bed 0 0).full (.mmaDrain drain11) = false
    ∧ check (.mmaDrain at0 drain11) tiledRake (fun t => (t.bed 0 0).mq.length = 1) = true
    ∧ check (.mmaDrain at0 drain11) mulRake (fun t => (t.bed 0 0).fCode = 3) = true
    ∧ check (.mmaStat at0 drain11) tiledRake (fun t => (t.bed 0 0).mq.length = 1) = true :=
  ⟨_, _, ⟨⟨rfl, rfl⟩, rfl, by decide, by decide, by decide⟩, by decide, by decide, by decide, by decide, by decide⟩
/-- MMA.LOAD of FP32 words, shape 1, into slot 5. -/
def Sys2Proof.Tests.load7 : XFmt := xfmt (BitVec.ofNat 42 (2 ^ 40 + 7 * 2 ^ 36 + 5 * 2 ^ 28))
def Sys2Proof.Tests.loadState : State := issuing { Tests.rake with s := [(9, 2048)] }
theorem Sys2Proof.Tests.test_load : (∃ c s1, WideRuns at0 load7.gd load7.pm load7.sbase 3 loadState c s1 (loadLegal load7)
      ∧ mmaLoadFault (s1.bed 0 0) load7 (c.sop load7.sbase) = none)
    ∧ Completes (.mmaLoad at0 load7) loadState (fun t => (t.bed 0 0).mq.length = 1) :=
  ⟨⟨_, _, ⟨⟨rfl, rfl⟩, rfl, by decide, by decide, by decide⟩, by decide⟩, _, rfl, by decide⟩
theorem Sys2Proof.Tests.test_load_turn : let s := Tests.queued (.mmaLoad load7) [0, 2048] {}
    let t := runTurn s (.matrix 0 0 0)
    loadFits (s.bed 0 0) load7 0 = true ∧ ((t.bed 0 0).slot 5).kind = .fast ∧ ((t.bed 0 0).slot 5).shape = 1 := by decide

/-! ### Grains -/

def Sys2Proof.Tests.rf : RFmt := { gd := always, pm := 0x40, sbase := 1, sd := 20, sub := 0, imm32 := 0 }
theorem Sys2Proof.Tests.witness_rakewide : ∃ c s1, WideRuns at0 rf.gd rf.pm rf.sbase 3 (issuing Tests.rake) c s1 true :=
  ⟨_, _, ⟨rfl, rfl⟩, rfl, by decide, by decide, by decide⟩
theorem Sys2Proof.Tests.test_grain_key : Completes (.grainKeyDrain at0 rf) (issuing { Tests.rake with s := [(8, 5), (9, 6)] })
      (fun t => (rakeAt at0 t).drainKey.map GrainKey.seed = some 5 ∧ (rakeAt at0 t).drainKey.map GrainKey.stream = some 6) := ⟨_, rfl, by decide⟩
theorem Sys2Proof.Tests.test_grain_key_lane : Completes (.grainKeyLane at0 rf) (issuing { Tests.rake with s := [(8, 5), (9, 6), (10, 7)] })
      (fun t => (rakeAt at0 t).laneKey.block = 7 ∧ (t.pan 0).grainKeys = 1) := ⟨_, rfl, by decide⟩
/-- Lane 5 holds the state of R149. -/
def Sys2Proof.Tests.grained : State := issuing { Tests.rake with lanes := [(5, 0x00000004000000030000000200000001)] }
theorem Sys2Proof.Tests.test_grain_draw : Completes (.grainDraw at0 { vf with type := 1 }) grained (fun t =>
    (rakeAt at0 t).vget 4 5 = 0x281 ∧ (rakeAt at0 t).laneState 5 = 0x00003000000004020000000000000007) := ⟨_, rfl, by decide⟩
theorem Sys2Proof.Tests.witness_draw : (vfieldsOk { vf with type := 1 } false && drawLegal { vf with type := 1 }
    && (issue Tests.rake).rake.regOk 4 1) = true ∧ (vfieldsOk { vf with type := 4 } false && vsrcOk (issue Tests.rake) { vf with type := 4 } 1 true true true) = true := by decide
/-- The word 0x281 lies below b = −2 as U32, and above 3. -/
theorem Sys2Proof.Tests.test_dropmask : Completes (.dropmask at0 { vf with type := 4, pd := 1 }) grained (fun t =>
      lane ((rakeAt at0 t).pget 1) 5 = false ∧ (rakeAt at0 t).vget 4 5 = 0)
    ∧ Completes (.dropmask at0 { vf with type := 4, pd := 1, vb := 3 }) grained (fun t => lane ((rakeAt at0 t).pget 1) 5 = true) :=
  ⟨⟨_, rfl, by decide⟩, _, rfl, by decide⟩

/-! ### Kv -/

/-- Agent 0 is RESIDENT on pan 0 with its header at the pan's brine base: one stream of 64-byte entries, 4,096 to a page, fill 2, C 1, one
granted page 1. -/
def Sys2Proof.Tests.kvState (kvs : Table Dword) : State :=
  let h := brineBase 0
  let s := issuing { Tests.rake with s := kvs }
  { s with
    salter := { s.salter with dirPa := 0x4000 }
    mem := tputs 0 (tputs 0 (tputs 0 (tputs 0 s.mem 0x4000 (leBytes 8 1))
      h (leBytes 4 0 ++ [0, 1, 7, 0] ++ leBytes 8 1 ++ leBytes 8 0 ++ leBytes 4 0 ++ leBytes 4 1))
      (h + 0x100) (leBytes 4 64 ++ leBytes 4 4096 ++ leBytes 8 2 ++ leBytes 4 0x4100 ++ leBytes 4 1))
      (h + 0x4100) (leBytes 4 0x40000001) }
def Sys2Proof.Tests.kvs : Table Dword := [(9, 0x700), (10, 2), (11, 1)]
/-- The state with one instruction at the head of bed 0's queue, its operands those of s8 on. -/
def Sys2Proof.Tests.kvWork (o : WorkOp) (ops : List Nat) : Work := { op := o, at_ := at0, block := 0, pc := 0, active := 1, pm := 1, ops := ops }
def Sys2Proof.Tests.kvQueue (o : WorkOp) (ops : List Nat) : State := (kvState []).updBed 0 0 (fun d => { d with dq := [kvWork o ops] })
theorem Sys2Proof.Tests.witness_kv : let s := kvQueue (.kvAppend rf) [0, 0x700, 2, 1, 0]; let h := brineBase 0; let r := streamRec s h 0
    (∃ c s1, WideRuns at0 rf.gd rf.pm rf.sbase 5 (kvState []) c s1 (kvLegal rf) ∧ (s1.bed 0 0).full (.kvAppend rf) = false)
      ∧ DmaHead s 0 0 (kvWork (.kvAppend rf) [0, 0x700, 2, 1, 0]) [] ∧ turns s = [.dma 0 0]
      ∧ kvCheck s 0 (s.agentDir 0) 7 = none ∧ (s.agentDir 0).header = h
      ∧ appendCheck s (s.bed 0 0) h 0 2 1 0 = none ∧ hStreams s h = 1 ∧ hC s h = 1 ∧ r.fill = 2 ∧ WordsInside s h 0 ∧ AllHome s :=
  ⟨⟨_, _, ⟨⟨rfl, rfl⟩, rfl, by decide, by decide, by decide⟩, by decide⟩, ⟨rfl, rfl, rfl, by decide⟩, by decide⟩
theorem Sys2Proof.Tests.witness_kv_clear : let s := kvState []; let h := brineBase 0
    h + 65536 ≤ positionPa s 0 h (streamRec s h 0) 2 ∧ h + 65536 ≤ positionPa s 0 h (streamRec s h 0) 1 := by decide
theorem Sys2Proof.Tests.test_kv_issues : check (.kvAppend at0 rf) (kvState []) (fun t => (t.bed 0 0).dq.length = 1) = true
    ∧ check (.kvCommit at0 rf) (kvState []) (fun t => (t.bed 0 0).dq.length = 1) = true
    ∧ check (.kvDiscard at0 rf) (kvState []) (fun t => (t.bed 0 0).dq.length = 1) = true := by decide
theorem Sys2Proof.Tests.test_kv_append : let t := runTurn (kvQueue (.kvAppend rf) [0, 0x700, 2, 1, 0]) (.dma 0 0)
    (rakeAt at0 t).sget 20 = 0x3070000 ∧ (t.pan 0).kvDone = 1 ∧ pageWord t (brineBase 0) (streamRec t (brineBase 0) 0) 0 = 0xC0000001 := by decide
theorem Sys2Proof.Tests.test_kv_commit : let t := runTurn (kvQueue (.kvCommit rf) [0, 0x700, 1]) (.dma 0 0)
    (rakeAt at0 t).sget 20 = 0x2080000 ∧ hC t (brineBase 0) = 2 ∧ hGen t (brineBase 0) = 8 := by decide
theorem Sys2Proof.Tests.test_kv_discard : let t := runTurn (kvQueue (.kvDiscard rf) [0, 0x700, 1]) (.dma 0 0)
    (rakeAt at0 t).sget 20 = 0x1080000 ∧ hC t (brineBase 0) = 1 ∧ (streamRec t (brineBase 0) 0).fill = 1 := by decide
/-- A stale generation: WRONG_STATE. -/
theorem Sys2Proof.Tests.test_kv_refused : let t := runTurn (kvQueue (.kvCommit rf) [0, 0x600, 1]) (.dma 0 0)
    (rakeAt at0 t).sget 20 = 0x1070103 ∧ (t.pan 0).kvRefused = 1 ∧ hC t (brineBase 0) = 1 := by decide

/-! ### Dma -/

/-- DMA.Q of 4 bytes from scratch 0 to scratch 16. -/
def Sys2Proof.Tests.dmaBed : Bed := { run := 1, cur := some kern, scratch := [(0, 0x11), (3, 0x44)] }
def Sys2Proof.Tests.dmaQueue (o : WorkOp) (ops : List Nat) (s : State) : State := s.updBed 0 0 (fun d => { d with dq := [kvWork o ops] })
def Sys2Proof.Tests.dmaState : State := { issuing Tests.rake with beds := [(0, dmaBed)] }
theorem Sys2Proof.Tests.witness_dma : let s := Tests.dmaQueue (.copy rf) [0, 16, 4, 3] dmaState; let u := s.updBed 0 0 (fun d => { d with dq := [] })
    DmaHead s 0 0 (kvWork (.copy rf) [0, 16, 4, 3]) [] ∧ turns s = [.dma 0 0]
      ∧ sideOf 0 true 0 4 0 .r u = (u, .ok ⟨true, 0, []⟩) ∧ sideBad u (u.bed 0 0) ⟨true, 0, []⟩ 4 = none :=
  ⟨⟨rfl, rfl, rfl, by decide⟩, by decide, rfl, by decide⟩
theorem Sys2Proof.Tests.witness_dma_issues : ∃ c s1, WideRuns at0 rf.gd rf.pm rf.sbase 4 dmaState c s1 (decide (rf.imm32 = 0) && decide (rf.sub = 0))
    ∧ (s1.bed 0 0).full (.copy rf) = false ∧ (s1.bed 0 0).full (.flood rf) = false :=
  ⟨_, _, ⟨⟨rfl, rfl⟩, rfl, by decide, by decide, by decide⟩, by decide, by decide⟩
theorem Sys2Proof.Tests.test_dma_issues : check (.dmaCopy at0 rf) dmaState (fun t => (t.bed 0 0).dq.length = 1) = true
    ∧ check (.dmaAgentFetch at0 rf) dmaState (fun t => (t.bed 0 0).dq.length = 1) = true
    ∧ check (.dmaAgentSpill at0 rf) dmaState (fun t => (t.bed 0 0).dq.length = 1) = true
    ∧ check (.floodQ at0 rf) dmaState (fun t => (t.bed 0 0).dq.length = 1) = true := by decide
theorem Sys2Proof.Tests.test_dma_copy : let t := runTurn (Tests.dmaQueue (.copy rf) [0, 16, 4, 3] dmaState) (.dma 0 0)
    scratchByte at0 t 16 = 0x11 ∧ scratchByte at0 t 19 = 0x44 ∧ scratchByte at0 t 0 = 0x11 ∧ (t.bed 0 0).dq = [] := by decide
theorem Sys2Proof.Tests.test_dma_bad : (rakeAt at0 (runTurn (Tests.dmaQueue (.copy rf) [0, 16, 0, 3] dmaState) (.dma 0 0))).sget 20 = 0x0101 := by decide
/-- The destination page is VA 0 at PA 0. -/
def Sys2Proof.Tests.dmaPaged : State := Tests.dmaQueue (.copy rf) [0, 0, 4, 1] { paged 0xFFF with beds := [(0, dmaBed)] }
theorem Sys2Proof.Tests.test_dma_memory : let t := runTurn dmaPaged (.dma 0 0)
    memByte t 0 = 0x11 ∧ memByte t 3 = 0x44 ∧ memByte t 4 = 0 ∧ memByte t 0x1000 = 1 := by decide
theorem Sys2Proof.Tests.witness_dma_memory : ∃ s2 s3 x y, DmaHead dmaPaged 0 0 (kvWork (.copy rf) [0, 0, 4, 1]) []
    ∧ sideOf 0 true 0 4 0 .r (dmaPaged.updBed 0 0 (fun d => { d with dq := [] })) = (s2, .ok x)
    ∧ sideOf 0 false 0 4 (pageFuel 4) .w s2 = (s3, .ok y) ∧ heldPa s3 y.pages 0 = some 0 ∧ AllHome s3 :=
  ⟨_, _, _, _, ⟨rfl, rfl, rfl, by decide⟩, rfl, rfl, by decide, by decide⟩
/-- Agent 3 does not exist: BAD_ARGUMENT. -/
theorem Sys2Proof.Tests.test_dma_refused :
    (rakeAt at0 (runTurn (Tests.dmaQueue (.agentFetch rf) [3, 0xFFFF] dmaState) (.dma 0 0))).sget 20 = 0x0101
      ∧ (rakeAt at0 (runTurn (Tests.dmaQueue (.agentSpill rf) [3] dmaState) (.dma 0 0))).sget 20 = 0x0101 := by decide
/-- Agent 0 is RESIDENT with everything committed: its SPILL queues; agent 1 is COLD with an image at 1 MiB: its PREFETCH queues. -/
def Sys2Proof.Tests.movable (ss : Table Dword) : State :=
  let s := kvState ss
  { s with mem := tputs 0 (tputs 0 (tputs 0 s.mem (brineBase 0 + 0x108) [1]) 0x4008 (leBytes 8 (3 + 16 * 65536))) 0x100000 (leBytes 4 1 ++ [1, 0, 3, 0]) }
theorem Sys2Proof.Tests.test_dma_spill : (spillCheck (movable []) 0 0x200000 0x1000000).toOption = some 0
    ∧ ((runTurn (Tests.dmaQueue (.agentSpill rf) [0, 0x200000, 0x1000000] (movable [])) (.dma 0 0)).mover 0).map Migration.agent = [0] := by decide
theorem Sys2Proof.Tests.test_dma_fetch : (prefetchCheck (movable []) 1 0).toOption = some 0
    ∧ ((runTurn (Tests.dmaQueue (.agentFetch rf) [1, 0] (movable [])) (.dma 0 0)).mover 0).map Migration.agent = [1] := by decide
/-- The data page at VA 0 is brine of pan 0: 64 bytes are queued, then fetched. -/
def Sys2Proof.Tests.floodState (ops : List Nat) : State := Tests.dmaQueue (.flood rf) ops (paged (brineBase 0 + 0xFFF))
theorem Sys2Proof.Tests.test_flood_q : (let t := runTurn (floodState [2, 0, 64]) (.dma 0 0)
      ((t.bed 0 0).queue 2).descs.map FloodDesc.left = [64] ∧ (rakeAt at0 t).sget 20 = 0)
    ∧ (rakeAt at0 (runTurn (floodState [4, 0, 64]) (.dma 0 0))).sget 20 = 0x0101 := by decide
theorem Sys2Proof.Tests.witness_flood : ∃ s2 x, DmaHead (floodState [2, 0, 64]) 0 0 (kvWork (.flood rf) [2, 0, 64]) []
    ∧ sideOf 0 false 0 64 0 .r ((floodState [2, 0, 64]).updBed 0 0 (fun d => { d with dq := [] })) = (s2, .ok x) ∧ rangeInBrine s2 0 x 64 = true :=
  ⟨_, _, ⟨rfl, rfl, rfl, by decide⟩, rfl, by decide⟩
theorem Sys2Proof.Tests.test_flood_fetch :
    let d : FloodDesc := { va := 0, left := 64, pages := [(0, 4096, brineBase 0)], slot := 0 }
    let s := { issuing Tests.rake with beds := [(0, { run := 1, flood := [(2, { descs := [d], buf := [] })] })] }
    heldPa s [(0, 4096, brineBase 0)] 0 = some (brineBase 0) ∧ brineHeld s 0 = false ∧ d.waits s = false
      ∧ Completes (.floodFetch 0 0 2) s (fun t => ((t.bed 0 0).queue 2).buf.length = 64 ∧ ((t.bed 0 0).queue 2).descs = []) :=
  ⟨by decide, by decide, by decide, _, rfl, by decide⟩

/-! ### Ctx -/

theorem Sys2Proof.Tests.witness_ctx : let s := issuing Tests.rake
    (∃ c s1, WideRuns at0 rf.gd rf.pm rf.sbase 2 s c s1 true ∧ c.rake.live = c.active) ∧ Tests.rake.home = some (0, 0)
      ∧ ((s.bed 0 0).block? 0).map Block.slots = some [0] :=
  ⟨⟨_, _, ⟨⟨rfl, rfl⟩, rfl, by decide, by decide, by decide⟩, by decide⟩, rfl, by decide⟩
/-- The block's one rake waits at a context instruction. -/
def Sys2Proof.Tests.ctxRake : Rake := { Tests.rake with threads := tputs .absent [] 0 (laneList.map (fun _ => .atBarrier)) }
def Sys2Proof.Tests.ctxState (load : Bool) (leaf : Nat) : State :=
  { paged leaf with
    beds := [(0, { run := 1, cur := some kern, blocks := [{ index := 0, position := 0, slots := [0], scratchAddr := 0, scratchLen := 64, ctxWait := [(0, rf, load)], ctxMet := true }] })]
    rakes := [(0, ctxRake)] }
theorem Sys2Proof.Tests.witness_ctx_turn : turns (ctxState false 0xFFF) = [.context 0 0 0] ∧ ctxRake.live ≠ 0
    ∧ (∀ l, l < 32 → (ctxRake.thread l).live = true → ctxRake.thread l = .atBarrier)
    ∧ ((ctxState true 0xFFF).bed 0 0).block? 0 = some { index := 0, position := 0, slots := [0], scratchAddr := 0, scratchLen := 64, ctxWait := [(0, rf, true)], ctxMet := true } := by decide
theorem Sys2Proof.Tests.test_ctx_save_issues : Completes (.ctxSave at0 rf) (issuing Tests.rake) (fun t =>
    (rakeAt at0 t).pc 5 = 0x200000 ∧ (rakeAt at0 t).thread 5 = .atBarrier ∧ turns t = [.context 0 0 0]) := ⟨_, rfl, by decide⟩
theorem Sys2Proof.Tests.test_ctx_load_issues : Completes (.ctxLoad at0 rf) (issuing Tests.rake) (fun t => turns t = [.context 0 0 0]) :=
  ⟨_, rfl, by decide⟩
/-- A capacity of zero: NO_FIT, and the rake goes on. -/
theorem Sys2Proof.Tests.test_ctx_save : let t := runTurn (ctxState false 0xFFF) (.context 0 0 0)
    (rakeAt at0 t).sget 20 = 0x0104 ∧ (rakeAt at0 t).pc 5 = 0x200008 ∧ (rakeAt at0 t).thread 5 = .running := by decide
/-- Address 0 does not translate: a fault. -/
theorem Sys2Proof.Tests.test_ctx_fault : let t := runTurn (ctxState true 0) (.context 0 0 0)
    (t.bed 0 0).fCode = 6 ∧ (t.bed 0 0).failed = true ∧ (rakeAt at0 t).live = 0 := by decide
def Sys2Proof.Tests.twoRakes : State :=
  { issuing Tests.rake with
    beds := [(0, { run := 1, cur := some kern, blocks := [{ index := 0, position := 0, slots := [0, 1], scratchAddr := 0, scratchLen := 64 }] })]
    rakes := [(0, Tests.rake), (1, { Tests.rake with home := some (0, 1) })] }
theorem Sys2Proof.Tests.test_ctx_waits : Completes (.ctxSave at0 rf) twoRakes (fun t => (rakeAt at0 t).thread 5 = .atBarrier
      ∧ (rakeAt at0 t).pc 5 = 0x200000 ∧ ((t.bed 0 0).block? 0).map (fun x => x.ctxWait.length) = some 1 ∧ turns t = [])
    ∧ ((twoRakes.rake 0 0 1).thread 0).live = true ∧ (twoRakes.rake 0 0 1).thread 0 ≠ .atBarrier := ⟨⟨_, rfl, by decide⟩, by decide, by decide⟩

/-! ### Faults -/

/-- Opcode 0xFF stands in no row. -/
theorem Sys2Proof.Tests.test_illegal : decodeBed at0 0xFF00000000000000 = none ∧ Completes (.illegalInstruction at0 0xFF00000000000000) (issuing Tests.rake) (fun t =>
    (t.bed 0 0).fCode = 1 ∧ (t.bed 0 0).fPc = 0x200000 ∧ ((t.rake 0 0 0).thread 5).live = false ∧ t.events.held.length = 1
      ∧ (t.bed 0 0).failed = true ∧ (t.rake 0 0 0).vget 1 5 = 7) := ⟨by decide, _, rfl, by decide⟩
/-- pm in s8 is zero, and the active mask is all threads: COLLECTIVE_MASK. A guard other than p7: ILLEGAL_INSTRUCTION. -/
theorem Sys2Proof.Tests.test_mask : Completes (.grainKeyLane at0 { rf with pm := 8 }) (issuing Tests.rake) (fun t => (t.bed 0 0).fCode = 2)
    ∧ (∃ c s1, Ready at0 (issuing Tests.rake) c s1 ∧ c.pmask 8 = some 0 ∧ operandWait at0 s1 [8, 8, 9, 10, 11, 12, 13, 14, 15] = false)
    ∧ Completes (.shfl at0 { lf with gd := ⟨0, 0⟩ }) (issuing Tests.rake) (fun t => (t.bed 0 0).fCode = 1)
    ∧ Completes (.shfl at0 { lf with pm := 0x41 }) (issuing Tests.rake) (fun t => (t.bed 0 0).fCode = 1) :=
  ⟨⟨_, rfl, by decide⟩, ⟨_, _, ⟨rfl, rfl⟩, rfl, by decide⟩, ⟨_, rfl, by decide⟩, _, rfl, by decide⟩
/-- Thread 5 names address 3 for four bytes. -/
theorem Sys2Proof.Tests.test_misaligned : Completes (.ld at0 { mf with va := 3 }) (issuing Tests.rake) (fun t =>
    (t.bed 0 0).fCode = 4 ∧ (t.bed 0 0).fAddr = 3) := ⟨_, rfl, by decide⟩
/-- With no table the fetch does not translate. -/
theorem Sys2Proof.Tests.test_fetch_fault : let s := { issuing Tests.rake with pans := [] }
    (∃ c s1 e, issueOf at0 s = some c ∧ fetchCheck c s = (s1, some e))
      ∧ Completes (.nop at0 (cf 0)) s (fun t => (t.bed 0 0).fCode = 6 ∧ (t.pan 0).xValid = true ∧ (t.pan 0).xVa = 0x200000) :=
  ⟨⟨_, _, _, rfl, rfl⟩, _, rfl, by decide⟩
theorem Sys2Proof.Tests.test_none_issues : issueOf at0 ready = none ∧ exec (.nop at0 (cf 0)) ready = .next ready := ⟨by decide, rfl⟩

/-! ### Coremem -/

/-- Core 0 runs on a die that is ONLINE; its accesses are physical. -/
def Sys2Proof.Tests.coreState : State := { ready with cores := [(0, { released := true })] }
def Sys2Proof.Tests.acc (va : Dword) (n : Nat) : CoreAcc := { core := 0, ctx := ⟨none, none, 0, .supervisor⟩, va := va, size := n }
def Sys2Proof.Tests.fed : State := { coreState with mem := [(0x1000, 0x11), (0x1003, 0x44)] }
theorem Sys2Proof.Tests.witness_core_load : let s := fed
    Quiet s 0 ∧ AllHome s ∧ (∃ s1, coreSegs (begun (.coreLoad (acc 0x1000 4)) 0 s) 0 (acc 0x1000 4).ctx .r 0x1000 4 = (s1, .ok [⟨0x1000, 4, true⟩]) ∧ s1.poisoned 0x1000 4 = false
      ∧ NotCombining s1 0 [lineOf 0x1000] ∧ lineHeld s1 0 (lineOf 0x1000) = false ∧ NoRaces s1 0) ∧ InLine ⟨0x1000, 4, true⟩ :=
  ⟨by decide, by decide, ⟨_, rfl, by decide⟩, by decide⟩
theorem Sys2Proof.Tests.test_core_load : Completes (.coreLoad (acc 0x1000 4)) fed (fun t => (t.core 0).result = 0x44000011)
    ∧ Completes (.loadAcq (acc 0x1000 2)) fed (fun t => (t.core 0).result = 0x11)
    ∧ Completes (.pairedLoad (acc 0x1000 8)) fed (fun t => (t.core 0).result = 0x44000011) :=
  ⟨⟨_, rfl, by decide⟩, ⟨_, rfl, by decide⟩, _, rfl, by decide⟩
/-- Address 0x9000_0000_0000 is unpopulated. -/
theorem Sys2Proof.Tests.test_core_load_abort : (∃ s1, coreSegs (begun (.coreLoad (acc 0x900000000000 4)) 0 fed) 0 (acc 0x900000000000 4).ctx .r 0x900000000000 4 = (s1, .error (.translation 5, 0x900000000000)))
    ∧ Completes (.coreLoad (acc 0x900000000000 4)) fed (fun t => (t.core 0).abort = some ⟨.translation 5, 0x900000000000⟩) :=
  ⟨⟨_, rfl⟩, _, rfl, by decide⟩
theorem Sys2Proof.Tests.witness_core_store : Quiet fed 0 ∧ fed.cfg.variant ≠ .a12
    ∧ ∃ s1 g, coreSegs (begun (.coreStore (acc 0x1000 4) [1, 2, 3, 4]) 0 fed) 0 (acc 0x1000 4).ctx .w 0x1000 4 = (s1, .ok [g]) ∧ g.device = false ∧ InLine g ∧ NotCombining s1 0 (segLines [g])
      ∧ (s1.core 0).wc = [] ∧ (s1.core 0).fifo.length + (storeEntries [g] [1, 2, 3, 4] false false).length ≤ 96 :=
  ⟨by decide, by decide, _, _, rfl, by decide, by decide, by decide, by decide, by decide⟩
theorem Sys2Proof.Tests.test_core_store : Completes (.coreStore (acc 0x1000 4) [1, 2, 3, 4]) fed (fun t =>
      (t.core 0).fifo = [{ pa := 0x1000, data := [1, 2, 3, 4] }] ∧ memByte t 0x1000 = 0x11)
    ∧ Completes (.storeRel (acc 0x1000 4) [1, 2, 3, 4]) fed (fun t => (t.core 0).fifo.map FifoEntry.release = [true])
    ∧ Completes (.pairedStore (acc 0x1008 8) 1 2) fed (fun t => (t.core 0).fifo.map FifoEntry.pa = [0x1008, 0x1010])
    ∧ Completes (.nonTemporalStore (acc 0x1000 2) [1, 2]) fed (fun t => (t.core 0).wc.map WcLine.line = [0x40] ∧ (t.core 0).fifo = []) :=
  ⟨⟨_, rfl, by decide⟩, ⟨_, rfl, by decide⟩, ⟨_, rfl, by decide⟩, _, rfl, by decide⟩
theorem Sys2Proof.Tests.test_core_store_a12 : Completes (.nonTemporalStore (acc 0x1000 2) [1, 2])
    { fed with cfg := { fed.cfg with variant := .a12 } } (fun t => (t.core 0).fifo.map FifoEntry.direct = [true]) := ⟨_, rfl, by decide⟩
theorem Sys2Proof.Tests.test_wc_timeout : let s := { fed with cores := [(0, { released := true, wc := [⟨0x40, [(1, 0x105)]⟩] })] }
    coreRuns s 0 = true ∧ Completes (.wcLineTimeout 0 0x40) s (fun t => memByte t 0x1000 = 0x11 ∧ memByte t 0x1001 = 5 ∧ memByte t 0x1003 = 0x44
      ∧ (t.core 0).wc = []) := ⟨by decide, _, rfl, by decide⟩
def Sys2Proof.Tests.waitingOne : State :=
  { fed with cores := [(0, { released := true, fifo := [{ pa := 0x1001, data := [5, 6], direct := true }] })] }
theorem Sys2Proof.Tests.witness_fence : coreRuns waitingOne 0 = true ∧ coreWaits waitingOne 0 = false
    ∧ (∀ k ∈ waitingOne.cores, k.1 ≠ 0 → waitingStores waitingOne k.1 = false) ∧ AllHome waitingOne ∧ invalPending waitingOne 0 = false
    ∧ ∀ l ∈ [0x40], ownHeld waitingOne 0 l = false := by decide
/-- What a FENCE.RW itself does with the waiting store; a FENCE.W leaves it and marks the next store, which waits for it. -/
theorem Sys2Proof.Tests.test_fence_stores : ((storesDone waitingOne 0).map (fun t => (memByte t 0x1001, memByte t 0x1002, memByte t 0x1000, (t.core 0).fifo)))
      = some (5, 6, 0x11, [])
    ∧ ((fenceW waitingOne 0).core 0).fenced = true
    ∧ (let t := (storeTo (acc 0x2000 4) [1, 2, 3, 4] false false false (fenceW waitingOne 0)).getD waitingOne
      (t.core 0).fifo.map FifoEntry.fence = [false, true] ∧ writables t 0 = [0]) := by decide

/-! ### Coreatom -/

/-- The L2 of core 0 owns the line at 0x1000. -/
def Sys2Proof.Tests.owned : CacheLine := { st := .m, data := padTo 64 [0x21], stamp := 0 }
def Sys2Proof.Tests.owning (c : Core) : State :=
  { fed with cores := [(0, { c with released := true, l1d := [0x40] })], coh := { fed.coh with lines := [(agentKey 0 0x40, some owned)] } }
theorem Sys2Proof.Tests.witness_atm : let i := Instr.atm (acc 0x1000 4) .add 3 1
    Quiet fed 0 ∧ Performed fed 0 ∧ AllHome fed ∧ tableOk none fed.coh.dir = true
      ∧ ∃ s1, coreSegs (begunOrdered true i 0 fed) 0 (acc 0x1000 4).ctx .a 0x1000 4 = (s1, .ok [⟨0x1000, 4, true⟩]) ∧ s1.poisoned 0x1000 4 = false
        ∧ NotCombining s1 0 [0x40] ∧ ownHeld s1 0 0x40 = false :=
  ⟨by decide, by decide, by decide, by decide, _, rfl, by decide, by decide, by decide⟩
theorem Sys2Proof.Tests.witness_atm_owned : let i := Instr.atm (acc 0x1000 4) .add 3 1
    Quiet (owning {}) 0 ∧ Performed (owning {}) 0 ∧ ∃ s1, coreSegs (begunOrdered true i 0 (owning {})) 0 (acc 0x1000 4).ctx .a 0x1000 4 = (s1, .ok [⟨0x1000, 4, true⟩])
      ∧ OwnedLine s1 0 0x40 owned ∧ ownHeld s1 0 0x40 = false :=
  ⟨by decide, by decide, _, rfl, by decide, by decide⟩
theorem Sys2Proof.Tests.test_atm : Completes (.atm (acc 0x1000 4) .add 3 1) fed (fun t => (t.core 0).result = 0x44000011
      ∧ l2Byte 0 t 0x1000 = 0x12 ∧ l2Byte 0 t 0x1003 = 0x44 ∧ memByte t 0x1000 = 0x11)
    ∧ Completes (.casP (acc 0x1000 16) 0 0x44000011 7) fed (fun t => (t.core 0).result = 0x44000011 ∧ l2Byte 0 t 0x1000 = 7 ∧ l2Byte 0 t 0x1003 = 0) :=
  ⟨⟨_, rfl, by decide⟩, _, rfl, by decide⟩
theorem Sys2Proof.Tests.test_atm_abort : Completes (.atm (acc 0x1001 4) .add 0 1) fed (fun t => (t.core 0).abort = some ⟨.alignment, 0x1001⟩)
    ∧ Completes (.casP (acc 0xF10000000000 16) 0 0 7) fed (fun t => (t.core 0).abort = some ⟨.memoryType, 0xF10000000000⟩) :=
  ⟨⟨_, rfl, by decide⟩, _, rfl, by decide⟩
theorem Sys2Proof.Tests.witness_load_rsv : ∃ s1, coreSegs ((begun (.loadRsv (acc 0x1000 4)) 0 fed).updCore 0 (fun c => { c with rsv := none, deferral := none })) 0
      (acc 0x1000 4).ctx .a 0x1000 4 = (s1, .ok [⟨0x1000, 4, true⟩]) ∧ AllHome s1 ∧ NotCombining s1 0 [0x40] ∧ ownHeld s1 0 0x40 = false :=
  ⟨_, rfl, by decide, by decide, by decide⟩
theorem Sys2Proof.Tests.test_load_rsv : Completes (.loadRsv (acc 0x1000 4)) fed (fun t => (t.core 0).rsv = some ⟨0x40, 0x1000, 4⟩
      ∧ (t.core 0).result = 0x44000011 ∧ (t.core 0).deferral = none)
    ∧ Completes (.loadRsv (acc 0x1000 4)) (owning {}) (fun t => (t.core 0).deferral = some 0x40 ∧ (t.core 0).result = 0x21) :=
  ⟨⟨_, rfl, by decide⟩, _, rfl, by decide⟩
/-- No reservation: STORE.CND fails. With it, in a constrained loop, it succeeds. -/
theorem Sys2Proof.Tests.test_store_cnd : Completes (.storeCnd (acc 0x1000 4) 9) fed (fun t => (t.core 0).scFail = true ∧ memByte t 0x1000 = 0x11
      ∧ t.coh.lines = [])
    ∧ Completes (.storeCnd (acc 0x1000 4) 9) (owning { rsv := some ⟨0x40, 0x1000, 4⟩, deferral := some 0x40, inLoop := true }) (fun t =>
      (t.core 0).scFail = false ∧ l2Byte 0 t 0x1000 = 9 ∧ (t.core 0).rsv = none) := ⟨⟨_, rfl, by decide⟩, _, rfl, by decide⟩
def Sys2Proof.Tests.reserved : State := { fed with cores := [(0, { released := true, rsv := some ⟨0x40, 0x1000, 4⟩, deferral := some 0x40, priv := .user })] }
theorem Sys2Proof.Tests.test_exceptions : coreRuns reserved 0 = true ∧ coreWaits reserved 0 = false
    ∧ Completes (.deferralTimeout 0) reserved (fun t => (t.core 0).deferral = none ∧ (t.core 0).rsv = some ⟨0x40, 0x1000, 4⟩)
    ∧ Completes (.exceptionEntry 0) reserved (fun t => (t.core 0).rsv = none ∧ (t.core 0).priv = .supervisor)
    ∧ Completes (.exceptionReturn 0) reserved (fun t => (t.core 0).rsv = none) :=
  ⟨by decide, by decide, ⟨_, rfl, by decide⟩, ⟨_, rfl, by decide⟩, _, rfl, by decide⟩

/-! ### Coredev -/

/-- Address 0xF100_00F0_0000 is a hole of core die 0's window, 0xF200_00F0_0000 a register of pan 0. -/
theorem Sys2Proof.Tests.witness_device_store : Quiet coreState 0 ∧ ∃ s1 g, coreSegs (begun (.deviceStore (acc 0xF10000F00000 8) 5) 0 coreState) 0 (acc 0xF10000F00000 8).ctx .w 0xF10000F00000 8 = (s1, .ok [g])
    ∧ g.device = true ∧ g.pa / 65536 ∉ (s1.core 0).pendingErr ∧ (s1.core 0).outstanding = [] ∧ (s1.core 0).fifo = [] :=
  ⟨by decide, _, _, rfl, by decide, by decide, by decide, by decide⟩
theorem Sys2Proof.Tests.test_device_store : Completes (.deviceStore (acc 0xF10000F00000 8) 5) coreState (fun t =>
      (t.core 0).outstanding = [{ pa := 0xF10000F00000, data := [5, 0, 0, 0, 0, 0, 0, 0], device := true }])
    ∧ Completes (.deviceStore { acc 0xF10000F00000 8 with vec := true } 5) coreState (fun t => (t.core 0).abort = some ⟨.memoryType, 0xF10000F00000⟩)
    ∧ Completes (.deviceLoad { acc 0xF10000F00000 8 with vec := true }) coreState (fun t => (t.core 0).abort = some ⟨.memoryType, 0xF10000F00000⟩) :=
  ⟨⟨_, rfl, by decide⟩, ⟨_, rfl, by decide⟩, _, rfl, by decide⟩
/-- An error pending on the page, and an unpopulated window. -/
theorem Sys2Proof.Tests.test_device_load : let s := { coreState with cores := [(0, { released := true, pendingErr := [0xF10000F0], abtCause := 1 })] }
    Completes (.deviceLoad (acc 0xF10000F00000 8)) s (fun t => (t.core 0).abort = some ⟨.external 1, 0xF10000F00000⟩ ∧ (t.core 0).pendingErr = []) :=
  ⟨_, rfl, by decide⟩
def Sys2Proof.Tests.sent : State :=
  { coreState with cores := [(0, { released := true, outstanding := [{ pa := 0xF10000F00004, data := [1, 2, 3, 4], device := true }] })] }
theorem Sys2Proof.Tests.witness_sent : (sentStore sent 0 0xF10000F0).isSome = true ∧ coreWaits sent 0 = false
    ∧ (let u := devWrite (forgetSent sent 0 0xF10000F0) 0xF10000F00004 [1, 2, 3, 4]; (u.core 0).fifo = [] ∧ coreWaits u 0 = false) := by decide
theorem Sys2Proof.Tests.test_device_ack : Completes (.deviceAck 0 0xF10000F0) sent (fun t => (t.core 0).outstanding = [])
    ∧ Completes (.deviceErrorResponse 0 0xF10000F0) sent (fun t => (t.core 0).pendingErr = [0xF10000F0] ∧ (t.core 0).abtCause = 2
      ∧ (t.core 0).abtAddr = 0xF10000F00004 ∧ t.events.queue.map Event.code = [evDeviceAbort]) := ⟨⟨_, rfl, by decide⟩, _, rfl, by decide⟩
def Sys2Proof.Tests.sentLoading : State := { coreState with cores := [(0, { released := true, devSent := some (0xF10000F00004, 4), devLoad := some { todo := [] } })] }
theorem Sys2Proof.Tests.test_device_load_end : sentStore sentLoading 0 0xF10000F0 = none
    ∧ ((devRead sentLoading 0xF10000F00004 4).1.core 0).devLoad = some { todo := [] } ∧ ((devRead sentLoading 0xF10000F00004 4).1.core 0).fifo = []
    ∧ Completes (.deviceAck 0 0xF10000F0) sentLoading (fun t => (t.core 0).devSent = none ∧ (t.core 0).result = 0)
    ∧ Completes (.deviceAccessTimeout 0 0xF10000F0) sentLoading (fun t => (t.core 0).abort = some ⟨.external 1, 0xF10000F00004⟩) :=
  ⟨by decide, by decide, by decide, ⟨_, rfl, by decide⟩, _, rfl, by decide⟩
theorem Sys2Proof.Tests.witness_reg : targetOf coreState 0xF20000F00000 = .reg (.tide 0 0) ∧ regUp coreState (.tide 0 0) = true := ⟨by decide, by decide⟩

/-! ### Coreline -/

theorem Sys2Proof.Tests.witness_fences : Quiet coreState 0 ∧ (coreState.core 0).wc = [] ∧ invalPending coreState 0 = false := by decide
/-- A core that has read a store of thread 5 that happens after that thread's store 3. -/
def Sys2Proof.Tests.learning : State :=
  { coreState with cores := [(0, { released := true, reads := [{ pan := 0, bed := 0, slot := 0, block := 0, scope := 3, view := [(5, 3)] }] })] }
theorem Sys2Proof.Tests.test_fences : Completes (.fenceR 0) learning (fun t => (t.core 0).view = [(5, 3)] ∧ (t.core 0).reads = [])
    ∧ Completes (.fenceW 0) learning (fun t => t = learning.drawn)
    ∧ Completes (.fenceRw 0) coreState (fun t => t = coreState.drawn) ∧ Completes (.fenceIo 0) coreState (fun t => t = coreState.drawn)
    ∧ Completes (.fenceFetch 0) coreState (fun t => (t.core 0).discards = 1) :=
  ⟨⟨_, rfl, by decide⟩, ⟨_, rfl, rfl⟩, ⟨_, rfl, rfl⟩, ⟨_, rfl, rfl⟩, _, rfl, by decide⟩
theorem Sys2Proof.Tests.test_core_fence_waits : Quiet sent 0 ∧ Completes (.fenceIo 0) sent (fun t => (t.core 0).stall = some (.fenceIo 0))
    ∧ (let s := { coreState with beds := [(0, { flood := [(0, { descs := [{ va := 0, left := 64, pages := [], slot := 0, heldBy := [0] }], buf := [] })] })] }
      invalPending s 0 = true ∧ Completes (.fenceRw 0) s (fun t => (t.core 0).stall = some (.fenceRw 0))) :=
  ⟨by decide, ⟨_, rfl, by decide⟩, by decide, _, rfl, by decide⟩
def Sys2Proof.Tests.dirtyLine : State :=
  { fed with coh := { fed.coh with lines := [(agentKey 5 0x40, some { st := .m, data := padTo 64 [9, 8], stamp := 0 })] } }
theorem Sys2Proof.Tests.witness_lines : Quiet dirtyLine 0 ∧ (∃ s1, coreSegs (begun (.lineClean (acc 0x1008 8)) 0 dirtyLine) 0 (acc 0x1008 8).ctx .r 0x1000 64 = (s1, .ok [⟨0x1000, 64, true⟩])
      ∧ s1.coh.lines = [(agentKey 5 0x40, some { st := .m, data := padTo 64 [9, 8], stamp := 0 })] ∧ s1.coh.part = [] ∧ NotCombining s1 0 [0x40] ∧ ownHeld s1 0 0x40 = false)
    ∧ (fed.core 0).engaged = false ∧ tableOk none fed.coh.dir = true :=
  ⟨by decide, ⟨_, rfl, by decide, by decide, by decide, by decide⟩, by decide, by decide⟩
theorem Sys2Proof.Tests.test_lines : Completes (.lineClean (acc 0x1008 8)) dirtyLine (fun t => memByte t 0x1000 = 9 ∧ memByte t 0x1003 = 0)
    ∧ Completes (.lineFlush (acc 0x1008 8)) dirtyLine (fun t => memByte t 0x1001 = 8 ∧ t.holders 0x40 = [])
    ∧ Completes (.lineInval (acc 0x1008 8)) dirtyLine (fun t => memByte t 0x1000 = 0x11 ∧ t.coh.lines = [])
    ∧ Completes (.lineZero (acc 0x1008 8)) fed (fun t => l2Byte 0 t 0x1000 = 0 ∧ memByte t 0x1000 = 0x11)
    ∧ Completes (.lineClean (acc 0xF10000F00000 8)) fed (fun t => (t.core 0).abort = some ⟨.memoryType, 0xF10000F00000⟩) :=
  ⟨⟨_, rfl, by decide⟩, ⟨_, rfl, by decide⟩, ⟨_, rfl, by decide⟩, ⟨_, rfl, by decide⟩, _, rfl, by decide⟩
theorem Sys2Proof.Tests.test_tlb_invalidate : Completes (.tlbInvalidate 0 (some 3) none)
    { coreState with cores := [(0, { released := true, tlb := [⟨3, 0, 4096, 0⟩, ⟨4, 0, 4096, 0⟩] })] } (fun t =>
    (t.core 0).tlb.map TlbEntry.asid = [4] ∧ (t.pan 3).invals = 1) := ⟨_, rfl, by decide⟩
theorem Sys2Proof.Tests.test_prefetch_fill : let s := { fed with cores := [(0, { released := true, inflight := [(0x40, false)] })] }
    coreRuns s 0 = true ∧ s.coh.dir.length < 16 ∧ Completes (.prefetchFill 0) s (fun t => (t.core 0).side = [0x40] ∧ (t.core 0).inflight = [])
      ∧ Completes (.prefetchFill 0) { fed with cores := [(0, { released := true, inflight := [(0x40, true)] })] } (fun t => (t.core 0).side = []) :=
  ⟨by decide, by decide, ⟨_, rfl, by decide⟩, _, rfl, by decide⟩

/-! ### Drain -/

/-- Module 1 of pan 3 joins stockpile die 4; module 2 of stockpile die 4 joins die 1 and is named by the die of higher index. -/
theorem Sys2Proof.Tests.test_links : Completes (.linkReplay 0 3) ready (fun t => t = ready) ∧ linkHere ready 3 1 = true ∧ sparedLanes ready 3 1 true = 0
    ∧ Completes (.laneSpared 3 ⟨1, true⟩) ready (fun t => t.trust.repair = [(1, [8, 3, 1, 1])] ∧ t.events.queue.map Event.code = [evLaneSpared])
    ∧ linkFar ready 3 1 = some 4 ∧ Completes (.linkOutageTimeout ⟨3, 1⟩) ready (fun t => t.coh.declared = [(4, 0xFF, 3)] ∧ t.events.queue.map Event.code = [evLinkDead])
    ∧ linkFar ready 97 8 = some 4 ∧ Completes (.linkOutageTimeout ⟨97, 8⟩) ready (fun t => t.coh.declared = [(4, 0xFF, 100)])
    ∧ linkHere ready 128 0 = true ∧ Completes (.linkOutageTimeout ⟨128, 0⟩) ready (fun t => t.ctlState 0 = .failed ∧ t.salter.active = 1 ∧ t.coh.declared = [])
    ∧ agentHere ready 5 = true ∧ Completes (.coherenceTimeout 5) ready (fun t => t.coh.declared = [(3, 5, 0xFF)]) :=
  ⟨⟨_, rfl, rfl⟩, by decide, by decide, ⟨_, rfl, by decide⟩, by decide, ⟨_, rfl, by decide⟩, by decide, ⟨_, rfl, by decide⟩, by decide, ⟨_, rfl, by decide⟩,
    by decide, _, rfl, by decide⟩
theorem Sys2Proof.Tests.test_lane_none_left : let s := { ready with trust := { ready.trust with repair := [(1, [8, 3, 1, 0]), (2, [8, 3, 1, 0])] } }
    2 ≤ sparedLanes s 3 1 false ∧ sparedLanes s 3 1 true = 0 ∧ Completes (.laneSpared 3 ⟨1, false⟩) s (fun t => t = s) := ⟨by decide, by decide, _, rfl, rfl⟩
theorem Sys2Proof.Tests.witness_drain_domain : drainCause ready 1 0xFF 0xFF = true ∧ canDrain ready = true ∧ fifthDrain ready = false
    ∧ ready.agentIds = [] ∧ ready.pkg.rerun = false ∧ earlyCause ready = false
    ∧ fifthDrain { ready with coh := { ready.coh with drainTimes := [0, 0, 0, 0] } } = true := by decide
theorem Sys2Proof.Tests.test_drain_begins : Completes (.drain 1 0xFF 0xFF) ready (fun t => t.pkg.st = .draining ∧ t.pkg.back = .ready
    ∧ turns t = [.drain] ∧ t.coh.declared = [(1, 0xFF, 0xFF)]) := ⟨_, rfl, by decide⟩
def Sys2Proof.Tests.crust : State := { State.reset with pkg := { st := .crust } }
theorem Sys2Proof.Tests.test_drain_early : earlyCause crust = true ∧ drainCause crust 4 0xFF 33 = true ∧ Completes (.drain 4 0xFF 33) crust (fun t =>
    t.isLost 33 = true ∧ (t.coreDie 1).state = .failed ∧ t.pkg.st = .crust) := ⟨by decide, by decide, _, rfl, by decide⟩
theorem Sys2Proof.Tests.test_reserve : (List.range 20).all (fun p => (ready.pan p).service) = true
    ∧ Completes .reserveRestore ready (fun t => t.salter.single = []) := ⟨by decide, _, rfl, by decide⟩
theorem Sys2Proof.Tests.test_pan_failure : let s := { ready with pans := [(2, { state := .offline, stopFrom := some 5 })] }
    canFail s 2 = true ∧ s.onlinePan 2 = false ∧ Completes (.panFailure 2) s (fun t => (t.pan 2).state = .failed ∧ t.events.queue.map Event.code = [evPanState])
      ∧ Completes (.panStopTimeout 2) s (fun t => (t.pan 2).state = .failed ∧ t.now = 10000000005) :=
  ⟨by decide, by decide, ⟨_, rfl, by decide⟩, _, rfl, by decide⟩

/-! ### Memory -/

theorem Sys2Proof.Tests.witness_scrub : ready.hasPan 3 = true ∧ (ready.pan 3).service = true
    ∧ Completes (.scrubLine (.brine 3 0x1047) .clean) ready (fun t => t = ready)
    ∧ place ready 0x12345 = .lpd 0 0x12345 := ⟨by decide, by decide, ⟨_, rfl, rfl⟩, by decide⟩
theorem Sys2Proof.Tests.test_lpd_errors :
    Completes (.scrubLine (.lpd 0x12345) .corrected) ready (fun t => (t.coreDie 0).lpdCe = 1 ∧ (t.coreDie 0).lpdOff = 0x12340)
    ∧ Completes (.scrubLine (.lpd 0x12345) .uncorrectable) ready (fun t => t.coh.poison = [(0x48d, true)] ∧ (t.coreDie 0).lpdUe = 1) :=
  ⟨⟨_, rfl, by decide⟩, _, rfl, by decide⟩
theorem Sys2Proof.Tests.test_brine_corrected :
    Completes (.scrubLine (.brine 3 0x1047) .corrected) ready (fun t => (t.pan 3).ce = 1 ∧ (t.pan 3).lastOff = 0x1040) :=
  ⟨_, rfl, by decide⟩
theorem Sys2Proof.Tests.test_bands :
    Completes (.brineSensorRead 3 [50, 96, 40, 40, 40, 40, 40, 40, 40, 40, 40, 40]) ready (fun t => (t.pan 3).band = 2 ∧ (t.pan 3).dramTemp = 96)
    ∧ Completes (.brineSensorRead 3 [50, 106, 40, 40, 40, 40, 40, 40, 40, 40, 40, 40]) ready (fun t => (t.pan 3).stopFrom = some 0)
    ∧ Completes (.brineSensorRead 3 [93, 93, 93, 93, 93, 93, 93, 93, 93, 93, 93, 93]) { ready with pans := [(3, { band := 2 })] } (fun t =>
        (t.pan 3).band = 2 ∧ tget none (t.pan 3).bandBelow 1 = some 0 ∧ tget none (t.pan 3).bandBelow 0 = none)
    ∧ Completes (.brineBandFall 3) { ready with pans := [(3, { band := 2, dramTemp := 93, bandBelow := [(1, some 0)] })] } (fun t =>
        (t.pan 3).band = 1 ∧ t.now = 10000000) :=
  ⟨⟨_, rfl, by decide⟩, ⟨_, rfl, by decide⟩, ⟨_, rfl, by decide⟩, _, rfl, by decide⟩
def Sys2Proof.Tests.stkState : State := { ready with
  pkg := { ready.pkg with bootStep := 10 }
  stk := { ready.stk with parts := [{ kind := 1, units := 1 }], regs := [(0, { rate := 6, burst := 1 })], tokens := [(0, 64)], waiting := [(0, 9)], dies := 0x3F } }
theorem Sys2Proof.Tests.test_tokens : 7 ≤ stkState.pkg.bootStep ∧ stkState.stk.parts.length ≤ 16
    ∧ Completes .tokenRefill stkState (fun t => tget 0 t.stk.tokens 0 = 36 ∧ tget 0 t.stk.waiting 0 = 7) := ⟨by decide, by decide, _, rfl, by decide⟩
def Sys2Proof.Tests.moving (m : Migration) : State := { ready with salter := { ready.salter with movers := [(2, [m])] } }
theorem Sys2Proof.Tests.test_migration_none : ready.mover 2 = [] ∧ Completes (.migrationTest 2) ready (fun t => t = ready) := ⟨by decide, _, rfl, rfl⟩
theorem Sys2Proof.Tests.test_migration_busy : let m : Migration := { agent := 5, spill := true, pan := 2, tests := 8, origin := .rake 1 0 3 20 }
    (moving m).mover 2 = [m] ∧ AllHome (moving m) ∧ Completes (.migrationBusy 2) (moving m) (fun t =>
      t.salter.movers = [] ∧ (t.rake 1 0 3).sget 20 = BitVec.ofNat 64 stBusyRetry) := ⟨by decide, by decide, _, rfl, by decide⟩

/-! ### Ports -/

def Sys2Proof.Tests.netState (x : Qp) : State := { ready with
  pkg := { ready.pkg with bootStep := 11 }
  ports := [(0, { link := true })]
  qps := [(4, some x)]
  salter := { ready.salter with regions := [(3, some { key := 3, rights := 0x1F, start := 0x1000, len := 0x1000, pages := [(0x1000, 0x1000, 0x5000)] })] }
  mem := tputs 0 [] 0x6000 (leBytes 8 77 ++ leBytes 8 0x1040 ++ leBytes 4 3 ++ leBytes 4 16 ++ leBytes 8 0) }
def Sys2Proof.Tests.rawQp : Qp := { raw := true, state := .rts, rqPi := 1, rqBase := 0x6000, cqBase := 0x7000 }
def Sys2Proof.Tests.aFrame : RawFrame :=
  { port := 0, pcp := 0, fcsOk := true, etherType := 0x800, udpPort := none, destQpn := none, bytes := [1, 2, 3] }
theorem Sys2Proof.Tests.test_ports : let s := netState rawQp; portHere s 0 = true
    ∧ Completes (.portLinkDown 0) s (fun t => (t.port 0).link = false)
    ∧ Completes (.portLinkUp 1) s (fun t => (t.port 1).link = true ∧ (t.port 1).retrains = 1)
    ∧ Completes (.serdesSpared 0) s (fun t => (t.port 0).spare = true ∧ t.trust.repair = [(1, [7, 0])] ∧ t.events.queue.map Event.code = [evSerdesSpared])
    ∧ Completes (.serdesSpared 0) { s with ports := [(0, { spare := true })] } (fun t => (t.port 0).dead = true) :=
  ⟨by decide, ⟨_, rfl, by decide⟩, ⟨_, rfl, by decide⟩, ⟨_, rfl, by decide⟩, _, rfl, by decide⟩
theorem Sys2Proof.Tests.test_mka_pause : let s := { netState rawQp with cfg := { ready.cfg with macsecPorts := 1, pfc := 4 } }
    s.cfg.variant.full = true ∧ Completes (.mkaFrameReceived 0 true) s (fun t => (t.port 0).macsec = true ∧ (t.port 0).rx = 1)
    ∧ Completes (.pfcPauseReceived 0 2 true) s (fun t => (t.port 0).paused = 4)
    ∧ Completes (.pfcPauseReceived 0 3 true) s (fun t => (t.port 0).paused = 0) :=
  ⟨by decide, ⟨_, rfl, by decide⟩, ⟨_, rfl, by decide⟩, _, rfl, by decide⟩
theorem Sys2Proof.Tests.test_raw_frame : let s := netState rawQp
    rawFor s aFrame = some (4, rawQp) ∧ recvEntry s rawQp = (77, 0x1040, 3, 16) ∧ AllHome s ∧ CqRoom rawQp
    ∧ Completes (.rawFrameReceived aFrame) s (fun t => (t.qp 4).map Qp.cqPi = some 1 ∧ tgets 0 t.mem 0x5040 4 = [1, 2, 3, 0]
      ∧ tgets 0 t.mem 0x7000 21 = leBytes 8 77 ++ leBytes 4 3 ++ leBytes 4 0 ++ [4, 0, 0x20, 0, 1]) :=
  ⟨by decide, by decide, by decide, by decide, _, rfl, by decide⟩
theorem Sys2Proof.Tests.test_raw_drops : let s := netState rawQp
    Completes (.rawFrameReceived { aFrame with fcsOk := false }) s (fun t => (t.port 0).dropFcs = 1)
    ∧ Completes (.rawFrameReceived { aFrame with pcp := 7 }) s (fun t => (t.port 0).dropCtl = 1)
    ∧ rawFor ready aFrame = none ∧ Completes (.rawFrameReceived aFrame) { s with qps := [] } (fun t => (t.port 0).dropQp = 1)
    ∧ Completes (.rawFrameReceived { aFrame with bytes := List.replicate 17 0 }) s (fun t => tgets 0 t.mem 0x7013 2 = [1, 1]) :=
  ⟨⟨_, rfl, by decide⟩, ⟨_, rfl, by decide⟩, by decide, ⟨_, rfl, by decide⟩, _, rfl, by decide⟩

/-! ### Roce -/

def Sys2Proof.Tests.rcQp : Qp := { state := .rts, rqPi := 1, rqBase := 0x6000, cqBase := 0x7000, rqPsn := 9 }
def Sys2Proof.Tests.aMsg : RoceMsg :=
  { port := 0, qpn := 0x10004, psn := 9, va := 0x1100, rkey := 3, len := 8, data := [1, 2, 3], imm := 5, icrcOk := true, ecnCe := false, opOk := true }
theorem Sys2Proof.Tests.test_roce_write : let s := netState rcQp
    Arrives aMsg s 4 rcQp ∧ netHeld s = false ∧ AllHome s ∧ NoNetRaces s ∧ psnAhead aMsg.psn rcQp.rqPsn = 0
    ∧ (regionFor s 3 rRemoteWrite 0x1100 3).map (fun r => (regionProtect s r 0x1100 3 false, heldPa s r.pages 0x1100)) = some (true, some 0x5100)
    ∧ Completes (.rdmaWriteReceived aMsg) s (fun t => tgets 0 t.mem 0x5100 3 = [1, 2, 3] ∧ t.out = [.roceAck 0 4 9] ∧ (t.qp 4).map Qp.rqPsn = some 10) :=
  ⟨by decide, by decide, by decide, by decide, by decide, by decide, ran (by decide)⟩
theorem Sys2Proof.Tests.test_roce_send : let s := netState rcQp
    recvEntry s rcQp = (77, 0x1040, 3, 16) ∧ CqRoom rcQp
    ∧ Completes (.sendReceived aMsg true) s (fun t => tgets 0 t.mem 0x5040 3 = [1, 2, 3]
        ∧ tgets 0 t.mem 0x7000 21 = leBytes 8 77 ++ leBytes 4 3 ++ leBytes 4 5 ++ [4, 0, 1, 0, 1])
    ∧ Completes (.rdmaWriteImmReceived aMsg) s (fun t => tgets 0 t.mem 0x5100 3 = [1, 2, 3]
        ∧ tgets 0 t.mem 0x7000 21 = leBytes 8 77 ++ leBytes 4 3 ++ leBytes 4 5 ++ [4, 0, 9, 0, 1]) :=
  ⟨by decide, by decide, ran (by decide), ran (by decide)⟩
theorem Sys2Proof.Tests.test_roce_read_atomic : let s := netState rcQp; let s2 := { s with mem := tputs 0 s.mem 0x5100 [7] }
    (regionFor s2 3 rRemoteAtomic 0x1100 8).map (fun r => (regionCacheable r 0x1100, regionBad s2 r 0x1100 8)) = some (true, false)
    ∧ Completes (.rdmaReadReceived aMsg) s2 (fun t => t.out = [.roceRead 0 4 9 [7, 0, 0, 0, 0, 0, 0, 0]])
    ∧ Completes (.fetchAddReceived aMsg 5) s2 (fun t => t.out = [.roceAtomic 0 4 9 7] ∧ tgets 0 t.mem 0x5100 1 = [12]
        ∧ (t.qp 4).map Qp.saved = some [(9, 7)])
    ∧ Completes (.compareSwapReceived aMsg 7 0x55) s2 (fun t => t.out = [.roceAtomic 0 4 9 7] ∧ tgets 0 t.mem 0x5100 1 = [0x55]) :=
  ⟨by decide, ran (by decide), ran (by decide), ran (by decide)⟩
theorem Sys2Proof.Tests.test_roce_refused : let s := netState rcQp; let x := { rcQp with saved := [(8, 66)] }
    Completes (.rdmaWriteReceived { aMsg with psn := 11 }) s (fun t => t.out = [.roceNak 0 4 9 .sequence])
    ∧ Completes (.rdmaWriteReceived { aMsg with psn := 8 }) s (fun t => t.out = [.roceAck 0 4 8] ∧ t.mem = s.mem)
    ∧ Arrives { aMsg with psn := 8 } (netState x) 4 x
    ∧ Completes (.fetchAddReceived { aMsg with psn := 8 } 5) (netState x) (fun t => t.out = [.roceAtomic 0 4 8 66])
    ∧ Completes (.rdmaWriteReceived { aMsg with icrcOk := false }) s (fun t => (t.port 0).dropIcrc = 1)
    ∧ rcFor s { aMsg with qpn := 1 } = none
    ∧ Completes (.rdmaWriteReceived { aMsg with rkey := 4 }) s (fun t => t.out = [.roceNak 0 4 9 .remoteAccess] ∧ (t.qp 4).map Qp.state = some .error)
    ∧ netHeld { s with salter := { s.salter with heldPorts := true } } = true :=
  ⟨ran (by decide), ran (by decide), by decide, ran (by decide), ran (by decide), by decide, ran (by decide), by decide⟩

/-! ### Sender -/

def Sys2Proof.Tests.sentRead : Sent := { index := 0, opcode := 0x10, psn := 5, last := 5, signaled := true, wrId := 9, len := 4, lva := 0x1200, lkey := 3, rva := 0, rkey := 0, imm := 0 }
def Sys2Proof.Tests.sentWrite : Sent := { sentRead with opcode := 8, lva := 0x1800 }
def Sys2Proof.Tests.sender (e : Sent) : Qp := { state := .rts, cqBase := 0x7000, sent := [e], retryCnt := 1, rnrRetry := 1 }
theorem Sys2Proof.Tests.test_ack : let s := netState (sender sentWrite)
    psnAhead 6 5 < 2 ^ 23 ∧ AllHome s ∧ NoNetRaces s ∧ CqRoom (sender sentWrite)
    ∧ Completes (.roceAckReceived 0 4 6) s (fun t => (t.qp 4).map Qp.sent = some [] ∧ tgets 0 t.mem 0x7000 21 = leBytes 8 9 ++ leBytes 4 4 ++ leBytes 4 0 ++ [4, 0, 8, 0, 1])
    ∧ Completes (.roceAckReceived 0 4 6) (netState (sender { sentWrite with signaled := false })) (fun t => (t.qp 4).map Qp.sent = some [])
    ∧ 2 ^ 23 ≤ psnAhead 3 5 ∧ Completes (.roceAckReceived 0 4 3) s (fun t => (t.qp 4).map (fun x => x.sent.length) = some 1)
    ∧ Completes (.roceAckReceived 0 6 3) s (fun t => (t.port 0).dropQp = 1) :=
  ⟨by decide, by decide, by decide, by decide, ran (by decide), ran (by decide), by decide, ran (by decide), ran (by decide)⟩
theorem Sys2Proof.Tests.test_nak : let s := netState (sender sentWrite)
    2 ^ 23 ≤ psnAhead (4 + 2 ^ 24 - 1) 5 ∧ netStopped s = false
    ∧ (regionFor s 3 rLocalRead 0x1800 4).map (fun r => heldPa s r.pages 0x1800) = some (some 0x5800)
    ∧ Completes (.roceNakReceived 0 4 4 .sequence) s (fun t => t.out = [.roceRequest 0 4 8 5 4 [0, 0, 0, 0]])
    ∧ Completes (.roceNakReceived 0 4 4 (.rnr 7)) s (fun t => (t.qp 4).map Qp.rnrWait = some (some 7))
    ∧ Completes (.roceNakReceived 0 4 4 .remoteAccess) s (fun t => (t.qp 4).map Qp.state = some .error ∧ tgets 0 t.mem 0x7013 2 = [3, 1])
    ∧ Completes (.roceNakReceived 0 4 4 (.rnr 7)) (netState { (sender sentWrite) with rnrRetries := 1 }) (fun t => tgets 0 t.mem 0x7013 2 = [6, 1]) :=
  ⟨by decide, by decide, by decide, ran (by decide), ran (by decide), ran (by decide), ran (by decide)⟩
theorem Sys2Proof.Tests.test_timers : let s := netState (sender sentRead)
    Completes (.localAckTimeout 4) s (fun t => t.out = [.roceRequest 0 4 0x10 5 4 []] ∧ (t.qp 4).map Qp.retries = some 1)
    ∧ Completes (.localAckTimeout 4) (netState { (sender sentRead) with retries := 1 }) (fun t => tgets 0 t.mem 0x7013 2 = [5, 1])
    ∧ Completes (.rnrTimerExpiry 4) (netState { (sender sentRead) with rnrWait := some 7 }) (fun t => t.out = [.roceRequest 0 4 0x10 5 4 []])
    ∧ Completes (.rdmaReadResponseReceived 0 4 5 [1, 2, 3, 4]) s (fun t => tgets 0 t.mem 0x5200 4 = [1, 2, 3, 4] ∧ tgets 0 t.mem 0x7013 2 = [0, 1])
    ∧ netStopped { s with pkg := { s.pkg with st := .draining } } = true :=
  ⟨ran (by decide), ran (by decide), ran (by decide), ran (by decide), by decide⟩
theorem Sys2Proof.Tests.test_rates : let s := netState (sender sentRead)
    Completes (.cnpReceived 0 4) s (fun t => (t.qp 4).map (fun x => (x.rc, x.rt)) = some (1200000, 1600000) ∧ (t.port 0).cnpRx = 1)
    ∧ Completes (.rateIncreaseTimer 4) (netState { (sender sentRead) with rc := 1200000 }) (fun t => (t.qp 4).map (fun x => (x.rc, x.rises)) = some (1400000, 1)) :=
  ⟨ran (by decide), ran (by decide)⟩

/-! ### Qps -/

def Sys2Proof.Tests.ctxAt (st : Nat) (x : Option Qp) : State :=
  let b := leBytes 2 4 ++ [0, BitVec.ofNat 8 st, 0, 1, 0, 1, 0, 1, 0, 0, 0] ++ leBytes 3 0 ++ leBytes 4 0x10009 ++ leBytes 4 0x21 ++ leBytes 4 0x31 ++ leBytes 4 0
    ++ leBytes 16 0 ++ leBytes 6 0 ++ [4, 4] ++ leBytes 8 0x8000 ++ leBytes 8 0x9000 ++ leBytes 8 0xA000
  { netState {} with qps := tput none [] 4 x, mem := tputs 0 [] 0x2000 b, ioDies := [(0, { qpCtx := 0x2000 })] }
theorem Sys2Proof.Tests.witness_qp : ioUp (ctxAt 0 none) 0 = true ∧ qpCtxStatus (ctxAt 0 none) 0 4 (ctxBytes (ctxAt 0 none) 0) = stOk
    ∧ qpCtxStatus (ctxAt 0 none) 0 5 (ctxBytes (ctxAt 0 none) 0) = stBadArgument ∧ AllHome (ctxAt 0 none)
    ∧ pagesAll (ctxAt 0 none) 0x2000 128 Place.normal = true := by decide
theorem Sys2Proof.Tests.test_qp_create : Completes (.qpCreate 0 4) (ctxAt 0 none) (fun t => (t.qp 4).map (fun x => (x.state, x.sqBase)) = some (.reset, 0x8000)
      ∧ (t.ioDie 0).status = BitVec.ofNat 16 stOk)
    ∧ Completes (.qpCreate 0 4) (ctxAt 0 (some {})) (fun t => (t.ioDie 0).status = BitVec.ofNat 16 stWrongState)
    ∧ Completes (.qpCreate 0 5) (ctxAt 0 none) (fun t => (t.ioDie 0).status = BitVec.ofNat 16 stBadArgument) :=
  ⟨ran (by decide), ran (by decide), ran (by decide)⟩
theorem Sys2Proof.Tests.test_qp_modify : Completes (.qpModify 0 4) (ctxAt 1 (some {})) (fun t => (t.qp 4).map Qp.state = some .init)
    ∧ Completes (.qpModify 0 4) (ctxAt 2 (some { state := .init })) (fun t => (t.qp 4).map (fun x => (x.state, x.rqPsn)) = some (.rtr, 0x31))
    ∧ Completes (.qpModify 0 4) (ctxAt 3 (some { state := .rtr })) (fun t => (t.qp 4).map (fun x => (x.state, x.sqPsn)) = some (.rts, 0x21))
    ∧ Completes (.qpModify 0 4) (ctxAt 0 (some { state := .error })) (fun t => (t.qp 4).map Qp.state = some .reset)
    ∧ Completes (.qpModify 0 4) (ctxAt 4 (some {})) (fun t => (t.qp 4).map Qp.state = some .error)
    ∧ Completes (.qpModify 0 4) (ctxAt 3 (some {})) (fun t => (t.ioDie 0).status = BitVec.ofNat 16 stWrongState ∧ (t.qp 4).map Qp.state = some .reset) :=
  ⟨ran (by decide), ran (by decide), ran (by decide), ran (by decide), ran (by decide), ran (by decide)⟩
theorem Sys2Proof.Tests.test_qp_destroy_query : Completes (.qpDestroy 0 4) (ctxAt 0 (some {})) (fun t => (t.qp 4).isNone = true)
    ∧ Completes (.qpQuery 0 4) (ctxAt 0 (some { state := .rts, sqPsn := 0x77 })) (fun t => tgets 0 t.mem 0x2000 4 = [4, 0, 0, 3] ∧ tgets 0 t.mem 0x2014 1 = [0x77])
    ∧ Completes (.qpQuery 0 5) (ctxAt 0 none) (fun t => (t.ioDie 0).status = BitVec.ofNat 16 stWrongState) :=
  ⟨ran (by decide), ran (by decide), ran (by decide)⟩
def Sys2Proof.Tests.belled : State := { netState { state := .rts, sqBase := 0x6000, sqPsn := 9 } with
  mem := tputs 0 [] 0x6000 ([8, 1, 0, 0] ++ leBytes 4 0 ++ leBytes 8 77 ++ leBytes 8 0x1100 ++ leBytes 4 3 ++ leBytes 4 4 ++ leBytes 8 0x9999 ++ leBytes 4 6) }
theorem Sys2Proof.Tests.test_doorbells : takesDoorbell belled 4 = true ∧ netStopped belled = false ∧ AllHome belled ∧ NoNetRaces belled
    ∧ (regionFor belled 3 rLocalRead 0x1100 4).map (fun r => (regionBad belled r 0x1100 4, heldPa belled r.pages 0x1100)) = some (false, some 0x5100)
    ∧ Completes (.sqDoorbell 4 1) belled (fun t => t.out = [.roceRequest 0 4 8 9 4 [0, 0, 0, 0]] ∧ (t.qp 4).map Qp.sqPsn = some 10)
    ∧ Completes (.sqDoorbell 4 0) belled (fun t => t.out = [])
    ∧ Completes (.rqDoorbell 4 7) belled (fun t => (t.qp 4).map Qp.rqPi = some 7)
    ∧ Completes (.cqConsumerUpdate 4 7) belled (fun t => (t.qp 4).map Qp.cqCi = some 7)
    ∧ Completes (.rqDoorbell 4 7) (netState {}) (fun t => (t.ioDie 0).ignored = 1) :=
  ⟨by decide, by decide, by decide, by decide, by decide, ran (by decide), ran (by decide), ran (by decide), ran (by decide), ran (by decide)⟩

/-! ### Control -/

def Sys2Proof.Tests.paired : State := { inString with
  cfg := { inString.cfg with partner := 0x77, paired := true, destinations := [⟨0x77, 0, 1⟩], controlKeys := [⟨[1, 2, 3, 4, 5], 0xFF⟩] } }
def Sys2Proof.Tests.request : ControlMsg := control 2 (leBytes 8 (1 + 4 * 2 + 0x10 * 65536) ++ List.replicate 56 0)
theorem Sys2Proof.Tests.test_mbox_request : controlOk paired request = true ∧ bodyCommand request.body ≠ 0xF0
    ∧ Completes (.mboxRequest request) paired (fun t => (t.box 64).owner = true ∧ t.salter.latched = [64] ∧ (t.port 0).ctlAccepted = 1)
    ∧ Completes (.mboxRequest { request with pcp := 6 }) paired (fun t => (t.port 0).dropCtl = 1)
    ∧ Completes (.mboxRequest request) (paired.updBox 64 (fun b => { b with owner := true })) (fun t => t.salter.latched = [] ∧ t.out.length = 1)
    ∧ Completes (.mboxRequest request) (paired.updBox 64 (fun b => { b with lastSeq := some (BitVec.ofNat 15 (bodySeq request.body)) })) (fun t => t.salter.latched = []) :=
  ⟨by decide, by decide, ran (by decide), ran (by decide), ran (by decide), ran (by decide)⟩
def Sys2Proof.Tests.anEntry : Entry := { agent := 7, seq := 1, units := 1, bytes := 0, tag := 9, number := 3, time := 4, payload := [] }
def Sys2Proof.Tests.mirrorMsgOf (op : Nat) (d : List Byte) : ControlMsg := control 4 (mirrorBody op 0 12 d.length d)
theorem Sys2Proof.Tests.test_mirror_round :
    (let m := mirrorMsgOf 1 (entryBytes anEntry 0 ++ leBytes 8 5 ++ leBytes 8 1)
     controlOk paired m = true ∧ mirrorUp paired = true ∧ mTotal m + 24 = m.body.length ∧ Completes (.mirrorRound m) paired (fun t => t.tally.mirror = [anEntry] ∧ t.out = [.mirrorAck 0x77 12 80 0]))
    ∧ (let m := mirrorMsgOf 1 (recordBytes { ring := 0, pa := [], units := 1, status := 0, kind := 2, agent := 7, seq := 1 } ++ leBytes 8 5 ++ leBytes 8 1)
       Completes (.mirrorRound m) { paired with tally := { mirror := [anEntry] } } (fun t => t.tally.mirror = [] ∧ t.tally.mirrorSeqs = [(7, { d := 1 })])) :=
  ⟨⟨by decide, by decide, by decide, ran (by decide)⟩, ran (by decide)⟩
theorem Sys2Proof.Tests.test_mirror_sync : let d := tallyStream [anEntry] [(7, { a := 1 })]
    Completes (.mirrorSync (mirrorMsgOf 4 d)) paired (fun t => t.tally.mirror = [anEntry] ∧ t.tally.mirrorSeqs = [(7, { a := 1 })])
    ∧ Completes (.mirrorRestore (mirrorMsgOf 3 d)) { paired with tally := { restoring := true } } (fun t => t.tally.entries = [anEntry] ∧ t.tally.cause = 5)
    ∧ Completes (.mirrorFetch (mirrorMsgOf 2 [])) { paired with tally := { mirror := [anEntry], mirrorSeqs := [(7, { a := 1 })] } } (fun t =>
        t.out = [.mirror 0x77 3 12 (mirrorBody 3 0 12 d.length d)])
    ∧ Completes (.mirrorSync (mirrorMsgOf 4 d)) { paired with cfg := { paired.cfg with partner := 0x88 } } (fun t => t.out = [.mirrorAck 0x77 12 0 2]) :=
  ⟨ran (by decide), ran (by decide), ran (by decide), ran (by decide)⟩
theorem Sys2Proof.Tests.test_mirror_ack : let m := control 5 (leBytes 8 6 ++ leBytes 4 16 ++ leBytes 4 0)
    Completes (.mirrorAck m) { paired with tally := { paired := true, voids := 2, open_ := some { number := 6, started := 0, answers := [] } } } (fun t =>
      t.tally.open_.isNone ∧ t.tally.round = 6 ∧ t.tally.voids = 0)
    ∧ Completes (.mirrorAck m) { paired with tally := { pairDown := true, syncNo := some 6 } } (fun t => t.tally.paired = true ∧ t.tally.pairDown = false)
    ∧ Completes (.mirrorAck m) paired (fun t => t.tally.paired = false) := ⟨ran (by decide), ran (by decide), ran (by decide)⟩

/-! ### Tally -/

def Sys2Proof.Tests.recBytes (kind seq : Nat) : List Byte := leBytes 4 7 ++ leBytes 4 seq ++ leBytes 1 kind ++ leBytes 1 0 ++ leBytes 2 1 ++ leBytes 52 0
def Sys2Proof.Tests.ringState (b : List Byte) (t : Tally) : State :=
  { ready with tally := { t with rings := [(2, { enable := true, size := 6, base := 0x10, producer := 4, consumer := 3 })] }, mem := tputs 0 [] 0x100C0 b }
theorem Sys2Proof.Tests.witness_round : let s := ringState (recBytes 1 1) {}
    roundsRun s = true ∧ ringOk s (tget {} s.tally.rings 2) = true ∧ recordAt s (tget {} s.tally.rings 2) 3 1 = recBytes 1 1 ∧ recordOk (recBytes 1 1) = true
      ∧ tallyHeld s = false ∧ AllHome s ∧ entriesBytes s.tally.entries + 1 * 64 + mib ≤ logCapacity := by decide
theorem Sys2Proof.Tests.test_round_open : Completes .tallyRound (ringState (recBytes 1 1) {}) (fun t => t.tally.seqs = [(7, { a := 1 })] ∧ t.tally.entries.map Entry.number = [1]
      ∧ (tget {} t.tally.rings 2).consumer = 4 ∧ tgets 0 t.mem 0x100D8 9 = [0, 0, 0, 0, 0, 0, 0, 0, 1])
    ∧ Completes .tallyRound (ringState (recBytes 1 1) { seqs := [(7, { a := 1 })], entries := [anEntry] }) (fun t => t.tally.dups = 1 ∧ tgets 0 t.mem 0x100DA 7 = [1, 0, 0, 0, 0, 0, 3])
    ∧ Completes .tallyRound (ringState (recBytes 1 3) {}) (fun t => t.tally.bad = 1 ∧ t.tally.seqs = [])
    ∧ Completes .tallyRound (ringState (recBytes 4 1) {}) (fun t => t.tally.bad = 1 ∧ t.tally.seqs = [])
    ∧ Completes .tallyRound (ringState (recBytes 1 1) { restoring := true }) (fun t => t.tally.busyCount = 1 ∧ t.tally.seqs = []) :=
  ⟨ran (by decide), ran (by decide), ran (by decide), ran (by decide), ran (by decide)⟩
theorem Sys2Proof.Tests.test_round_complete :
    Completes .tallyRound (ringState (recBytes 2 1) { seqs := [(7, { a := 1 })], entries := [anEntry] }) (fun t => t.tally.entries = [] ∧ t.tally.seqs = [(7, { a := 1, d := 1 })])
    ∧ Completes .tallyRound (ringState (recBytes 3 0) { seqs := [(7, { a := 1, d := 1 })] }) (fun t => t.tally.seqs = [])
    ∧ Completes .tallyRound (ringState (recBytes 3 0) { seqs := [(7, { a := 1 })] }) (fun t => t.tally.seqs = [(7, { a := 1 })] ∧ tgets 0 t.mem 0x100D8 2 = leBytes 2 stWrongState)
    ∧ Completes .tallyRound (ringState (recBytes 2 1) {}) (fun t => t.tally.bad = 1)
    ∧ Completes .tallyRound (ringState (recBytes 1 1) { paired := true }) (fun t => t.tally.open_.isSome ∧ t.tally.seqs = []) :=
  ⟨ran (by decide), ran (by decide), ran (by decide), ran (by decide), ran (by decide)⟩
def Sys2Proof.Tests.openRound : State := { ready with
  tally := { paired := true, voids := 2, open_ := some { number := 1, started := 0, answers := [{ ring := 2, pa := [0x100C0], units := 1, status := 0, held := true }] } } }
theorem Sys2Proof.Tests.test_void : AllHome openRound ∧ Completes .roundVoid openRound (fun t => t.tally.voids = 3 ∧ t.tally.busyCount = 1 ∧ tgets 0 t.mem 0x100D8 2 = leBytes 2 stBusyRetry)
    ∧ Completes .supplyRoundDeadline { openRound with board := { openRound.board with warn := true } } (fun t => t.tally.voids = 3 ∧ t.now = 200000)
    ∧ Completes .pairDown { ready with tally := { paired := true, voids := 3 }, cfg := { ready.cfg with degrade := true } } (fun t => t.tally.pairDown = true ∧ t.tally.paired = false) :=
  ⟨by decide, ran (by decide), ran (by decide), ran (by decide)⟩
theorem Sys2Proof.Tests.test_sync_replay :
    Completes .pairDownSync { paired with tally := { pairDown := true } } (fun t => t.tally.syncNo = some 1 ∧ t.out = [.mirror 0x77 4 1 (mirrorBody 4 0 1 16 (tallyStream [] []))])
    ∧ (let s := { ready with tally := { entries := [anEntry, { anEntry with agent := 3 }], replay := true, replayBase := 0x4000, replayLen := 150 } }
       pagesAll s 0x4000 150 Place.normal = true ∧ Completes (.tallyReplayGo 0) s (fun t => t.tally.written = 1 ∧ t.tally.replay = true ∧ tgets 0 t.mem 0x4040 1 = [3])) :=
  ⟨ran (by decide), by decide, ran (by decide)⟩

/-! ### Events -/

def Sys2Proof.Tests.anEvent : Event := { code := evSkip, cls := 0, detail := 7 }
def Sys2Proof.Tests.ledger (v : Events) : State := { ready with
  pkg := { ready.pkg with bootStep := 11 }
  salter := { ready.salter with winBase := 0x5000, winLen := 0x1000, winMode := 2 }
  events := { v with linkUp := true } }
theorem Sys2Proof.Tests.test_event_write : let v : Events := { queue := [anEvent], last := 4, enable := true, size := 6, base := 0x10, producer := 3, consumer := 3 }
    let s := ledger v
    logServed s = true ∧ mgmtServed s = true ∧ eventRingOk s = true ∧ AllHome s ∧ ringTakes v anEvent = true
    ∧ Completes .eventRecordWrite s (fun t => t.events.last = 5 ∧ t.events.log.map Event.number = [5] ∧ t.out = [.events 5 1] ∧ t.events.producer = 4
        ∧ tgets 0 t.mem 0x100C0 8 = [5, 0, 0, 0, 0, 0, 0, 0])
    ∧ Completes .eventRecordWrite (ledger { v with producer := 67 }) (fun t => t.events.lost = 1 ∧ t.events.last = 5)
    ∧ Completes .eventRecordWrite (ledger { v with enable := false }) (fun t => t.mem = [] ∧ t.events.last = 5)
    ∧ Completes .eventRecordWrite (ledger { v with size := 3 }) (fun t => t.events.queue.map Event.code = [evEventRing])
    ∧ Completes .eventRecordWrite { s with pkg := { s.pkg with st := .draining } } (fun t => t.events.waiting.map Event.number = [5] ∧ t.mem = []) :=
  ⟨by decide, by decide, by decide, by decide, by decide, ran (by decide), ran (by decide), ran (by decide), ran (by decide), ran (by decide)⟩
def Sys2Proof.Tests.frameTo (a : Nat) (d : List Byte) : MgmtFrame := { tag := 6, address := a, length := 8, reserved := false, data := d }
theorem Sys2Proof.Tests.test_delivery : let v : Events := { log := [{ anEvent with number := 3 }, { anEvent with number := 4 }], last := 4, acked := 2, sent := 4 }
    Completes (.eventAck (frameTo 3 [])) (ledger v) (fun t => t.events.acked = 3)
    ∧ Completes (.eventAck { frameTo 3 [] with reserved := true }) (ledger v) (fun t => t.out = [.mgmt 0x11 3 6 []])
    ∧ Completes .eventResend (ledger v) (fun t => t.out = [.events 3 2])
    ∧ Completes .eventResend (ledger { v with acked := 0 }) (fun t => t.out = [.events 3 2] ∧ t.events.queue.map Event.detail = [2] ∧ t.events.acked = 2)
    ∧ Completes .mgmtLinkUp { ledger v with events := v } (fun t => t.out = [.events 3 2] ∧ t.events.linkUp = true)
    ∧ Completes .mgmtLinkUp { ready with pkg := { st := .crust, bootStep := 3 } } (fun t => t.out = [] ∧ t.events.linkUp = true)
    ∧ Completes .mgmtLinkDown (ledger v) (fun t => t.events.linkUp = false)
    ∧ Completes (.ceCoalesceExpiry 0) (ledger { held := [anEvent] }) (fun t => t.events.queue = [anEvent] ∧ t.now = 1000000000) :=
  ⟨ran (by decide), ran (by decide), ran (by decide), ran (by decide), ran (by decide), ran (by decide), ran (by decide), ran (by decide)⟩
theorem Sys2Proof.Tests.test_window : let s := { ledger {} with mem := tputs 0 [] 0x5040 [9, 8] }
    frameOk (frameTo 0x40 []) = true ∧ frameOk (frameTo 4 []) = false ∧ windowRefused s (frameTo 0x40 []) false = none
    ∧ pagesAll s 0x5040 8 Place.normal = true ∧ canon s 0x5040 = 0x5040
    ∧ Completes (.windowRead (frameTo 0x40 [])) s (fun t => t.out = [.mgmt 1 0 6 [9, 8, 0, 0, 0, 0, 0, 0]])
    ∧ Completes (.windowWrite (frameTo 0x40 [1, 2, 3])) s (fun t => t.out = [.mgmt 2 0 6 []] ∧ tgets 0 t.mem 0x5040 4 = [1, 2, 3, 0])
    ∧ Completes (.windowRead (frameTo 0x1000 [])) s (fun t => t.out = [.mgmt 1 1 6 []])
    ∧ Completes (.windowRead (frameTo 4 [])) s (fun t => t.out = [.mgmt 1 3 6 []])
    ∧ Completes (.windowRead (frameTo 0x40 [])) { s with pkg := { s.pkg with st := .draining } } (fun t => t.out = [.mgmt 1 2 6 []]) :=
  ⟨by decide, by decide, by decide, by decide, by decide, ran (by decide), ran (by decide), ran (by decide), ran (by decide), ran (by decide)⟩
theorem Sys2Proof.Tests.test_frames : let s := ledger {}
    Completes (.regRead (frameTo 0 [])) s (fun t => t.out = [.mgmt 3 0 6 (leBytes 8 3600)])
    ∧ Completes (.regRead (frameTo 0x10 [])) s (fun t => t.power.minMv = 0xFFFF)
    ∧ Completes (.regWrite (frameTo 0x28 [33])) s (fun t => t.power.droopMv = 33)
    ∧ Completes (.regRead (frameTo 0 [])) { s with pkg := { s.pkg with bootStep := 4 } } (fun t => t.out = [.mgmt 3 2 6 []])
    ∧ Completes (.mboxWrite (frameTo 0x40 [5])) s (fun t => tget 0 (t.box 72).payload 0 = 5)
    ∧ Completes (.mboxWrite (frameTo 0 [1, 0, 0x10, 0])) s (fun t => t.salter.latched = [72] ∧ (t.box 72).command = 0x10)
    ∧ Completes (.mboxWrite (frameTo 0 [1])) (s.updBox 72 (fun b => { b with held := true })) (fun t => t.salter.ignored = 1)
    ∧ Completes (.mboxRead (frameTo 0 [])) s (fun t => t.out = [.mgmt 5 0 6 [0, 0, 0, 0, 0, 0, 0, 0]]) :=
  ⟨ran (by decide), ran (by decide), ran (by decide), ran (by decide), ran (by decide), ran (by decide), ran (by decide), ran (by decide)⟩

/-! ### Registers -/

def Sys2Proof.Tests.regState : State := { ready with
  beds := [(bedKey 2 3, { fCode := 5, fRake := 2, fKernel := 1, fBlock := 9, fValid := true, fLost := 4, fPc := 0x88, run := 1, kernel := 6 })]
  pans := [(2, { ce := 3, retries := 4, grainKeys := 7, xInfo := 0x1234, xValid := true })]
  ports := [(5, { rx := 8, tx := 9 })] }
theorem Sys2Proof.Tests.test_bed_registers : regUp regState (.bed 2 3 8) = true
    ∧ Completes (.bedFaultInfoRead 2 3) regState (fun t => t.bus = 0x8000000900010205 ∧ (t.bed 2 3).fValid = false)
    ∧ Completes (.rcRegisterRead (.bed 2 3 0x28)) regState (fun t => t.bus = 4 ∧ (t.bed 2 3).fLost = 0)
    ∧ Completes (.rcRegisterRead (.bed 2 3 0)) regState (fun t => t.bus = 0x601)
    ∧ Completes (.xlatFaultInfoRead 2) regState (fun t => t.bus = 0x8000000000001234 ∧ (t.pan 2).xValid = false)
    ∧ regUp State.reset (.bed 2 3 8) = false ∧ regUp regState (.pwr 0) = false :=
  ⟨by decide, ran (by decide), ran (by decide), ran (by decide), ran (by decide), by decide, by decide⟩
theorem Sys2Proof.Tests.test_other_registers :
    Completes (.rcRegisterRead (.brine 2 8)) regState (fun t => t.bus = 0x400000003 ∧ (t.pan 2).ce = 0)
    ∧ Completes (.rcRegisterRead (.netPort 1 1 8)) regState (fun t => t.bus = 0x900000008 ∧ (t.port 5).rx = 0)
    ∧ Completes (.rcRegisterRead (.sysIdent 25)) regState (fun t => t.bus.toNat % 65536 = 0x4757 ∧ t.bus.toNat / 2 ^ 32 % 256 = 25)
    ∧ Completes (.registerWrite (.grain 2 0) 0x77) regState (fun t => (t.pan 2).freeSeed = 0x77)
    ∧ Completes (.registerWrite (.coh 0x48) 0x1003) regState (fun t => t.coh.warmEntry = 0x400)
    ∧ Completes (.registerWrite (.core 1 1 0) 0xB) regState (fun t => (t.core 25).pfEnable = true ∧ (t.core 25).pfDistance = 2)
    ∧ Completes (.rcRegisterRead (.sysAbtAddr 25)) { regState with cores := [(25, { priv := .user })] } (fun t => t.bus = 0)
    ∧ regUp regState (.netQp 1 0) = true ∧ regUp regState (.sysIdent 25) = true ∧ regUp regState (.core 1 1 0) = true :=
  ⟨ran (by decide), ran (by decide), ran (by decide), ran (by decide), ran (by decide), ran (by decide), ran (by decide), by decide, by decide, by decide⟩

/-! ### Clocks -/

def Sys2Proof.Tests.clockState (c : Clocked) : State := { ready with
  pkg := { ready.pkg with bootStep := 11 }
  board := { ready.board with rails := true }
  trust := { ready.trust with running := [(2, some {})] }
  power := { pans := [(2, c)], cores := [(1, c)] } }
theorem Sys2Proof.Tests.test_cap : let s := clockState {}
    pwrReachable s = true ∧ Completes (.pwrCapWrite 3000) s (fun t => t.power.cap = 3000) ∧ Completes (.pwrCapWrite 2399) s (fun t => t.power.cap = 3600 ∧ t.power.refused = true) :=
  ⟨by decide, ran (by decide), ran (by decide)⟩
theorem Sys2Proof.Tests.test_controller : let s := clockState { clock := 40, target := 40 }
    liquorUp s = true ∧ unitUp s (.pan 2) = true ∧ boundPan s 2 = false
    ∧ Completes (.powerControllerRun { pans := [], cores := [], other := { measured := 0, estimate := 0 }, input := { measured := 0, estimate := 0 }, loss := 0, inputMv := 56000, avg1ms := 3000, avg10ms := 3000 }) s (fun t =>
        (clocked t (.pan 2)).target = 32 ∧ (clocked t (.pan 2)).clock = 40 ∧ t.power.mv = 56000 ∧ t.power.minMv = 56000) :=
  ⟨by decide, by decide, by decide, ran (by decide)⟩
theorem Sys2Proof.Tests.test_sensors : let s := clockState {}
    Completes (.sensorFail (.pan 2)) s (fun t => t.power.failPans = 4 ∧ t.events.queue.map Event.code = [evSensorFail])
    ∧ Completes (.sensorRecover .input) { s with power := { failInput := true } } (fun t => t.power.failInput = false) := ⟨ran (by decide), ran (by decide)⟩
theorem Sys2Proof.Tests.test_steps : stepsAllowed (clockState { clock := 40, target := 41, volts := 200 }) (.core 1) = true
    ∧ Completes (.frequencyStep (.core 1)) (clockState { clock := 40, target := 41, volts := 200 }) (fun t => (clocked t (.core 1)).clock = 41)
    ∧ Completes (.frequencyStep (.core 1)) (clockState { clock := 40, target := 41, volts := 199 }) (fun t => (clocked t (.core 1)).clock = 40)
    ∧ Completes (.voltageStep (.core 1)) (clockState { clock := 40, target := 41, volts := 199 }) (fun t => (clocked t (.core 1)).volts = 200)
    ∧ Completes (.frequencyStep (.pan 2)) (clockState { clock := 40, target := 32, volts := 180 }) (fun t => (clocked t (.pan 2)).clock = 39)
    ∧ Completes (.voltageStep (.pan 2)) (clockState { clock := 32, target := 32, volts := 180 }) (fun t => (clocked t (.pan 2)).volts = 179) :=
  ⟨by decide, ran (by decide), ran (by decide), ran (by decide), ran (by decide), ran (by decide)⟩
theorem Sys2Proof.Tests.test_droops : Completes (.droopTrip (.pan 2)) (clockState {}) (fun t => (clocked t (.pan 2)).droops = 1 ∧ (clocked t (.pan 2)).paused = true)
    ∧ Completes (.droopClear (.pan 2)) (clockState { droop := true, paused := true }) (fun t => (clocked t (.pan 2)).droop = false ∧ (clocked t (.pan 2)).paused = true)
    ∧ Completes (.sequencerResume (.pan 2)) (clockState { paused := true }) (fun t => (clocked t (.pan 2)).paused = false) := ⟨ran (by decide), ran (by decide), ran (by decide)⟩
theorem Sys2Proof.Tests.test_heat : Completes (.junctionSensorRead (.pan 2) 105) (clockState {}) (fun t => (clocked t (.pan 2)).thermal = .stop ∧ (t.pan 2).stopFrom = some 0)
    ∧ Completes (.junctionSensorRead (.pan 2) 93) (clockState { thermal := .throttle }) (fun t => (clocked t (.pan 2)).fallFrom = some 0)
    ∧ Completes (.junctionSensorRead (.pan 2) 94) (clockState { thermal := .throttle, fallFrom := some 0 }) (fun t => (clocked t (.pan 2)).fallFrom = none)
    ∧ Completes (.thermalFall (.pan 2)) (clockState { thermal := .throttle, temp := 93, fallFrom := some 0 }) (fun t => (clocked t (.pan 2)).thermal = .normal ∧ t.now = 10000000)
    ∧ Completes (.thermalFall (.pan 2)) (clockState { thermal := .stop, temp := 93, fallFrom := some 0 }) (fun t => (clocked t (.pan 2)).thermal = .emergency) :=
  ⟨ran (by decide), ran (by decide), ran (by decide), ran (by decide), ran (by decide)⟩
theorem Sys2Proof.Tests.test_supply : Completes (.supplyWarn 46999) (clockState {}) (fun t => t.board.warn = true ∧ t.tally.supply = true ∧ (clocked t (.core 1)).target = 48)
    ∧ Completes (.supplyWarnRelease 48000) { clockState {} with board := { rails := true, warn := true }, tally := { supply := true } } (fun t =>
      t.board.warn = false ∧ t.tally.supply = false) := ⟨ran (by decide), ran (by decide)⟩

/-! ### Power -/

theorem Sys2Proof.Tests.test_rails_go : let s := { ready with board := { rails := true, pwrEn := true, seq := .on } }
    Completes .powerDown s (fun t => t.pkg.st = .off ∧ t.board.pwrEn = false ∧ t.board.rails = false)
    ∧ Completes .thermtrip s (fun t => t.pkg.st = .off ∧ t.board.seq = .thermtrip ∧ t.board.trip = true)
    ∧ Completes .coolantLoss s (fun t => t.pkg.st = .off)
    ∧ Completes (.inputOvervoltage 63001) s (fun t => t.pkg.st = .off) ∧ Completes (.inputOvervoltage 63000) s (fun t => t.pkg.st = .ready)
    ∧ Completes (.moduleReset 42999) s (fun t => t.pkg.st = .off) ∧ Completes (.moduleReset 43000) s (fun t => t.pkg.st = .ready) :=
  ⟨ran (by decide), ran (by decide), ran (by decide), ran (by decide), ran (by decide), ran (by decide), ran (by decide)⟩
theorem Sys2Proof.Tests.test_power_spares : let s := { ready with board := { rails := true, pwrEn := true, seq := .on } }
    Completes (.converterLost 2) s (fun t => t.power.converters = 3 ∧ t.trust.repair = [(1, [10, 2])])
    ∧ Completes (.converterLost 1) { s with power := { converters := 3 } } (fun t => t.board.seq = .railFault ∧ t.board.rail = 36)
    ∧ railFitted s (.vpan 3) = true ∧ Completes (.phaseRetired (.vpan 3)) s (fun t => t.power.phases = [(19, 1)] ∧ t.trust.repair = [(1, [7, 19])])
    ∧ Completes (.phaseRetired (.vpan 3)) { s with power := { phases := [(19, 2)] } } (fun t => t.power.railsOff = [19] ∧ t.coh.declared = [(6, 0xFF, 3)])
    ∧ Completes (.phaseRetired .vio) { s with power := { phases := [(3, 2)] } } (fun t => t.board.seq = .railFault ∧ t.board.rail = 3) :=
  ⟨ran (by decide), ran (by decide), by decide, ran (by decide), ran (by decide), ran (by decide)⟩
/-- The part as the flash holds it boots; without a PUF, or without a liquor, it does not. -/
theorem Sys2Proof.Tests.witness_boot : (∀ k ∈ [1, 0x10, 0x12, 2], (goodImage State.reset k 0).isSome = true) ∧ State.reset.trust.puf0 = true
    ∧ goodImage { State.reset with trust := { State.reset.trust with flash := [] } } 3 0 = none ∧ State.reset.board.pwrEn = false ∧ State.reset.board.seq = .off := by decide
theorem Sys2Proof.Tests.test_power_up : Completes (.powerUp 56000 true false) State.reset (fun t => t.pkg.st = .crust ∧ t.board.rails = true ∧ t.now = 10000000)
    ∧ Completes (.powerUp 49999 true true) State.reset (fun t => t.pkg.st = .off ∧ t.board.pwrEn = true)
    ∧ Completes (.powerUp 56000 true true) { State.reset with board := { flashOp := some (1, 0) } } (fun t => t.board.powerWait = some (56000, true, true))
    ∧ Completes (.railPowerGoodTimeout (.vcore 2)) State.reset (fun t => t.board.rail = 10 ∧ t.board.railCause = 1 ∧ t.board.seq = .railFault) :=
  ⟨ran (by decide), ran (by decide), ran (by decide), ran (by decide)⟩
theorem Sys2Proof.Tests.test_boot_fails : let dead : Trust := { State.reset.trust with puf0 := false, puf1 := false }
    Completes (.powerUp 56000 true true) { State.reset with trust := dead } (fun t => t.pkg.st = .fault ∧ t.board.bootFail = true ∧ t.trust.boots = 1)
    ∧ Completes (.inputRestored 56000) { State.reset with trust := dead, board := { pwrEn := true, coolantOk := true } } (fun t => t.pkg.st = .fault)
    ∧ Completes .pkgResetRelease { State.reset with trust := dead, board := { rails := true, resetN := false } } (fun t => t.pkg.st = .fault ∧ t.board.resetN = true)
    ∧ Completes .warmReset { State.reset with trust := dead, board := { rails := true }, pkg := { st := .ready } } (fun t => t.pkg.st = .fault ∧ t.trust.boots = 0) :=
  ⟨ran (by decide), ran (by decide), ran (by decide), ran (by decide)⟩

/-! ### Board -/

def Sys2Proof.Tests.boardState (b : Module) : State := { State.reset with board := { b with hkOn := true } }
theorem Sys2Proof.Tests.test_flash_start : let b : Module := { flashAddr := 0x10234 }
    Completes .flashRead (boardState b) (fun t => t.board.flashOp = some (1, 0x10234)) ∧ Completes .flashErase (boardState b) (fun t => t.board.flashOp = some (3, 0x10234))
    ∧ Completes .flashProgram { boardState b with cfg := { State.reset.cfg with protectedFlash := [(0x10200, 16)] } } (fun t => t.board.flashRefused = true ∧ t.board.flashOp = none)
    ∧ Completes .flashRead (boardState { b with seq := .on }) (fun t => t.board.flashRefused = true) ∧ Completes .flashRead State.reset (fun t => t.board.flashOp = none) :=
  ⟨ran (by decide), ran (by decide), ran (by decide), ran (by decide), ran (by decide)⟩
theorem Sys2Proof.Tests.test_flash_end :
    Completes (.flashOperationEnd true [6]) (boardState { flashOp := some (1, 0x1E3), flashData := [(0, 7)] }) (fun t => t.board.flashData = [(0, 6)] ∧ t.board.flashError = true)
    ∧ Completes (.flashOperationEnd false []) (boardState { flashOp := some (3, 0x1E3), flash := [(0x200, 9), (0x10000, 3)] }) (fun t => t.board.flash = [(0x10000, 3)])
    ∧ Completes (.flashOperationEnd true []) (boardState { flashOp := some (3, 0x1E3), flash := [(0x200, 9)] }) (fun t => t.board.flashError = true) :=
  ⟨ran (by decide), ran (by decide), ran (by decide)⟩
/-- Witnesses of a read's and a program's end, whose 256 bytes are too long to evaluate here. -/
theorem Sys2Proof.Tests.witness_flash_end : (boardState { flashOp := some (1, 0x1E3) }).board.flashOp = some (1, 0x1E3)
    ∧ (boardState { flashOp := some (2, 0x1E3) }).board.powerWait = none := by decide
theorem Sys2Proof.Tests.test_board : Completes (.setdasa 0x21) (boardState {}) (fun t => t.board.dynAddr = some 0x21)
    ∧ Completes (.registerWrite (.hk 0x20 4) 0x1234) (boardState {}) (fun t => t.board.flashAddr = 0x1234)
    ∧ Completes (.rcRegisterRead (.hk 0xC 4)) (boardState { mv := 51000 }) (fun t => t.bus = 51000)
    ∧ Completes (.entdaa 0x22) (boardState { dynAddr := some 0x21 }) (fun t => t.board.dynAddr = some 0x21)
    ∧ Completes (.housekeepingSupplyOn 40000) State.reset (fun t => t.board.hkOn = true ∧ t.board.mv = 40000)
    ∧ Completes (.housekeepingSupplyOff 39999) (boardState { flashOp := some (3, 0), flash := [(1, 2)] }) (fun t => t.board.flashOp = none ∧ t.board.flash = [(1, 2)] ∧ t.board.hkOn = false)
    ∧ Completes (.jtagTapInstruction 3 .extest) { ready with board := { rails := true, resetN := false } } (fun t => t.board.taps = [(3, .extest)] ∧ t.board.extest = true)
    ∧ Completes (.jtagTapInstruction 3 .extest) { ready with board := { rails := true } } (fun t => t.board.extest = false) :=
  ⟨ran (by decide), ran (by decide), ran (by decide), ran (by decide), ran (by decide), ran (by decide), ran (by decide), ran (by decide)⟩

/-! ### Commands -/

/-- A state in which a mailbox's request stands in front. -/
def Sys2Proof.Tests.asked (p : PkgState) (box code len : Nat) (payload : Table Byte) : State :=
  { State.reset with
    pkg := { st := p, bootStep := 11 },
    boxes := [(box, { owner := true, seq := 7, command := BitVec.ofNat 16 code, length := BitVec.ofNat 16 len, payload := payload })],
    salter := { latched := [box] } }
/-- The status of a mailbox. -/
def Sys2Proof.Tests.status (t : State) (box : Nat) : Nat := (t.box box).status.toNat
theorem Sys2Proof.Tests.test_caps : Completes (.caps 3) (asked .ready 3 1 0 []) (fun t => status t 3 = 0 ∧ (t.box 3).length = 128
    ∧ (t.box 3).field 0 5 = 0x0206040814 ∧ (t.box 3).field 5 1 = 7 ∧ (t.box 3).field 6 2 = 192) := ran (by decide)
theorem Sys2Proof.Tests.test_command_checks :
    Completes (.caps 3) (asked .crust 3 1 0 []) (fun t => status t 3 = 0x200)
    ∧ Completes (.planLoad 72) (asked .ready 72 0x10 24 []) (fun t => status t 72 = 0x105)
    ∧ Completes (.windowSet 64) (asked .ready 64 0x80 16 []) (fun t => status t 64 = 0x105)
    ∧ Completes (.bistRun 5) (asked .ready 5 0x50 8 [(0, 1)]) (fun t => status t 5 = 0x105)
    ∧ Completes (.tideStop 5) (asked .maint 5 0x13 0 []) (fun t => status t 5 = 0x103 ∧ (t.box 5).detail = 6)
    ∧ Completes (.planUnload 5) (asked .maint 5 0x11 7 []) (fun t => status t 5 = 0x101 ∧ (t.box 5).detail = 0xFFFFFFFF)
    ∧ Completes (.planUnload 5) (asked .maint 5 0x11 8 [(3, 1)]) (fun t => status t 5 = 0x101 ∧ (t.box 5).detail = 1)
    ∧ Completes (.agentEvict 5) (asked .ready 5 0x31 8 []) (fun t => (t.box 5).owner = true)
    ∧ Completes (.badCommand 5) (asked .ready 5 0x99 8 []) (fun t => status t 5 = 0x100 ∧ t.salter.latched = [])
    ∧ Completes (.badCommand 5) (asked .ready 5 0xF0 8 []) (fun t => (t.box 5).owner = true) :=
  ⟨ran (by decide), ran (by decide), ran (by decide), ran (by decide), ran (by decide), ran (by decide), ran (by decide), ran (by decide), ran (by decide), ran (by decide)⟩
theorem Sys2Proof.Tests.test_requester_write :
    Completes (.mboxRequesterWrite 4 0 0x0000001800100005) ready (fun t => t.salter.latched = [4] ∧ (t.box 4).command = 0x10 ∧ (t.box 4).seq = 2 ∧ (t.box 4).length = 24)
    ∧ Completes (.mboxRequesterWrite 4 0xFF8 0x0123) ready (fun t => (t.box 4).payload = [(4024, 0x23), (4025, 0x01)])
    ∧ Completes (.mboxRequesterWrite 4 0x10 9) ready (fun t => (t.box 4).tag = 9) ∧ Completes (.mboxRequesterWrite 4 0x44 9) ready (fun t => t.boxes = [])
    ∧ Completes (.mboxRequesterWrite 64 0 9) ready (fun t => t.boxes = [])
    ∧ Completes (.mboxRequesterWrite 5 0 8) (asked .ready 5 1 0 []) (fun t => t.salter.ignored = 1 ∧ (t.box 5).seq = 7) :=
  ⟨ran (by decide), ran (by decide), ran (by decide), ran (by decide), ran (by decide), ran (by decide)⟩
theorem Sys2Proof.Tests.test_state_commands :
    Completes (.stateQuery 3) (asked .crust 3 2 8 []) (fun t => status t 3 = 0 ∧ (t.box 3).field 0 3 = 0xFF0001)
    ∧ Completes (.stateQuery 3) (asked .ready 3 2 8 [(0, 4)]) (fun t => status t 3 = 0x101 ∧ (t.box 3).detail = 0)
    ∧ Completes (.stateEnterMaint 3) (asked .ready 3 2 8 [(0, 1)]) (fun t => t.pkg.st = .maint ∧ (t.box 3).field 0 1 = 6)
    ∧ Completes (.stateEnterMaint 3) (asked .maint 3 2 8 [(0, 1)]) (fun t => status t 3 = 0x103)
    ∧ Completes (.stateLeaveMaint 3) (asked .maint 3 2 8 [(0, 2)]) (fun t => t.pkg.st = .ready)
    ∧ Completes (.stateLeaveMaint 3) { asked .maint 3 2 8 [(0, 2)] with salter := { latched := [3], deferred := [(4, .bistRun 0 0 1 .test)] } } (fun t => status t 3 = 0x200)
    ∧ Completes (.stateReleasePortHold 3) (asked .ready 3 2 8 [(0, 3)]) (fun t => status t 3 = 0)
    ∧ Completes (.stateReleasePortHold 3) { asked .ready 3 2 8 [(0, 3)] with salter := { latched := [3], heldPorts := true } } (fun t => t.salter.heldPorts = false ∧ (t.box 3).field 3 1 = 0)
    ∧ Completes (.attest 72) (asked .crust 72 0x70 32 []) (fun t => t.salter.latched = []) :=
  ⟨ran (by decide), ran (by decide), ran (by decide), ran (by decide), ran (by decide), ran (by decide), ran (by decide), ran (by decide), ran (by decide)⟩
/-- A WINDOW_SET of 64 KiB of a core die's memory, with a policy that permits reads there. -/
def Sys2Proof.Tests.windowing (mode : Byte) (high : Table Byte) : State :=
  let s := asked .ready 72 0x80 16 ([(2, 1)] ++ high ++ [(10, 1)] ++ if mode = 0 then [] else [(12, mode)])
  { s with cfg := { s.cfg with windowPolicy := [{ base := 0x10000, len := 65536, write := false }] } }
theorem Sys2Proof.Tests.test_windowSet : Completes (.windowSet 72) (windowing 1 []) (fun t => status t 72 = 0 ∧ t.salter.winBase = 0x10000 ∧ t.salter.winMode = 1)
    ∧ Completes (.windowSet 72) (windowing 2 []) (fun t => status t 72 = 0x105 ∧ t.salter.winLen = 0)
    ∧ Completes (.windowSet 72) (windowing 1 [(5, 0xF0)]) (fun t => status t 72 = 0x101) :=
  ⟨ran (by decide), ran (by decide), ran (by decide)⟩
/-- A STOP_ALL message. -/
def Sys2Proof.Tests.stopMsg : ControlMsg := control 2 (leBytes 2 1 ++ leBytes 2 0xF0 ++ leBytes 2 8 ++ leBytes 58 0 ++ [1, 0, 0, 0, 0, 0, 0, 0])
theorem Sys2Proof.Tests.test_stop_all :
    Completes (.stopAll (.mailbox 3)) { asked .serving 3 0xF0 8 [(0, 1)] with tide := { running := some 0, lastTide := 9, lastStep := 8 } } (fun t =>
      t.pkg.st = .ready ∧ t.tide.running = none ∧ t.salter.heldPorts = true ∧ t.salter.stops = 1 ∧ (t.box 3).field 0 13 = 9 + 8 * 2 ^ 64 + 2 ^ 96)
    ∧ Completes (.stopAll (.mailbox 3)) { asked .draining 3 0xF0 8 [] with salter := { latched := [5, 3] } } (fun t => t.pkg.stopInDrain = true ∧ t.salter.latched = [5] ∧ t.pkg.st = .draining)
    ∧ Completes (.stopAll (.mailbox 3)) { asked .ready 3 0xF0 8 [] with salter := { latched := [3], deferred := [(6, .tideStop)] } } (fun t => t.salter.deferred = []) :=
  ⟨ran (by decide), ran (by decide), ran (by decide)⟩
theorem Sys2Proof.Tests.test_stop_engine : let s := { keyed (asked .maint 64 1 0 []) with boxes := [] }
    controlOk s stopMsg = true ∧ bodyCommand stopMsg.body = 0xF0 ∧ bodyLength stopMsg.body = 8 ∧ leField stopMsg.body 0x40 1 = 1
    ∧ Completes (.stopAll (.engine stopMsg)) s (fun t => t.salter.stops = 1 ∧ t.salter.heldPorts = true ∧ status t 64 = 0 ∧ (t.box 64).length = 13)
    ∧ Completes (.mboxRequest stopMsg) { s with boxes := [(64, { owner := true })] } (fun t => t.salter.stops = 1 ∧ t.boxes = [(64, { owner := true })] ∧ t.out.length = 1) :=
  ⟨by decide, by decide, by decide, by decide, ran (by decide), ran (by decide)⟩

/-! ### Plans -/

/-- A payload from (offset, bytes) pieces, its zero bytes not listed. -/
def Sys2Proof.Tests.pieces (l : List (Nat × List Byte)) : Table Byte :=
  l.flatMap (fun e => ((List.range e.2.length).map (fun i => (e.1 + i, e.2.getD i 0))).filter (fun x => x.2 ≠ 0))
/-- An image of one pan whose beds run nothing, at 0x10000 of core die 0's memory. -/
def Sys2Proof.Tests.anImage : Table Byte := pieces [(0x10000, leBytes 4 0x4E414C50 ++ [1, 0, 1, 0, 9]), (0x10010, leBytes 2 250), (0x10020, [0, 1]),
  (0x10028, leBytes 2 832), (0x100FC, leBytes 4 2637332851), (0x10124, [0x40, 1])]
def Sys2Proof.Tests.planBox : Table Byte := pieces [(0, [1, 0, 7]), (4, leBytes 2 832), (10, [1]), (18, [2])]
theorem Sys2Proof.Tests.test_plan_load :
    Completes (.planLoad 3) (asked .ready 3 0x10 24 planBox) (fun t => status t 3 = 1 ∧ (t.box 3).held = true ∧ t.salter.deferred = [(3, .planLoad 1 7 832 0x10000 0x20000)])
    ∧ Completes (.planLoad 3) { asked .ready 3 0x10 24 planBox with plan1 := some (plan []) } (fun t => status t 3 = 0x103)
    ∧ Completes (.planLoad 3) { asked .ready 3 0x10 24 planBox with salter := { latched := [3], deferred := [(4, .planLoad 1 0 0 0 0)] } } (fun t => status t 3 = 0x200)
    ∧ Completes (.planLoad 3) (asked .ready 3 0x10 24 (pieces [(0, [1]), (4, [64]), (13, [0xF0])])) (fun t => status t 3 = 0x101 ∧ (t.box 3).detail = 8)
    ∧ Completes (.planLoad 3) (asked .ready 3 0x10 24 (pieces [(0, [1]), (4, [64]), (16, [8])])) (fun t => status t 3 = 0x101 ∧ (t.box 3).detail = 0x10) :=
  ⟨ran (by decide), ran (by decide), ran (by decide), ran (by decide), ran (by decide)⟩
/-- A PLAN_LOAD of slot 1 in progress. -/
def Sys2Proof.Tests.loading (mem : Table Byte) : State :=
  { asked .ready 3 0x10 24 [] with mem := mem, salter := { deferred := [(3, .planLoad 1 7 832 0x10000 0x20000)] } }
theorem Sys2Proof.Tests.test_plan_bad : Completes (.planLoadFinal 3) (loading []) (fun t => status t 3 = 0x101 ∧ (t.box 3).image = true ∧ (t.box 3).detail = 0) := ran (by decide)
theorem Sys2Proof.Tests.test_plan_final :
    Completes (.planLoadFinal 3) (loading anImage) (fun t => t.plan1.map Plan.binding = some [0] ∧ (t.pan 0).root1 = some (0x20000, 7) ∧ status t 3 = 0 ∧ t.plan0 = none) :=
  ran (by decide)
/-- The same image under a cap of 100 W: a plan of one pan fails at the POWER check. -/
theorem Sys2Proof.Tests.test_plan_no_fit :
    (match admission { loading anImage with power := { cap := 100 } } 1 { plan [] with binding := [] } with
      | .error f => f
      | .ok _ => { code := 0, required := 0, available := 0 }) = { code := 12, required := 940000 + 18000 * 19, available := 100000 } := by decide
theorem Sys2Proof.Tests.test_plan_unload :
    Completes (.planUnload 3) { asked .maint 3 0x11 8 [] with plan0 := some { plan [] with binding := [2] }, pans := [(2, { root0 := some (1, 2), root1 := some (3, 4) })] } (fun t =>
      t.plan0.isNone = true ∧ (t.pan 2).root0 = none ∧ (t.pan 2).root1 = some (3, 4) ∧ status t 3 = 0)
    ∧ Completes (.planUnload 3) { asked .serving 3 0x11 8 [] with plan0 := some (plan []), tide := { running := some 0 } } (fun t => status t 3 = 0x103) :=
  ⟨ran (by decide), ran (by decide)⟩
/-- TIDE_START of slot 0 at 3 s, tick 4, alone in its string, from a package of identity 0x55. -/
def Sys2Proof.Tests.starting (st : PkgState) (own : Byte) (tide : Tide) : State :=
  let s := asked st 3 0x12 64 (pieces [(1, [1]), (2, [own]), (8, [3]), (0x18, [4]), (0x20, [0x55])])
  { s with plan0 := some (plan []), tide := tide, cfg := { s.cfg with identity := 0x55 } }
theorem Sys2Proof.Tests.test_tide_start :
    Completes (.tideStart 3) (starting .ready 0 {}) (fun t => t.tide.start = some { slot := 0, n0 := 4, sec := 3, ns := 0, own := 0, members := [⟨0x55, 0, 0, false⟩] } ∧ status t 3 = 0)
    ∧ Completes (.tideStart 3) (starting .ready 1 {}) (fun t => status t 3 = 0x101 ∧ (t.box 3).detail = 2)
    ∧ Completes (.tideStart 3) { starting .ready 0 {} with now := 10000000000 } (fun t => status t 3 = 0x101 ∧ (t.box 3).detail = 0x18)
    ∧ Completes (.tideStart 3) (starting .serving 0 { running := some 1, periodUs := 1000, epochNs := 2 }) (fun t => status t 3 = 0x101 ∧ (t.box 3).detail = 0x18)
    ∧ Completes (.tideStart 3) (starting .serving 0 { running := some 1, periodUs := 1000, epochNs := 1 }) (fun t => status t 3 = 0)
    ∧ Completes (.tideStart 3) (starting .serving 0 { running := some 0 }) (fun t => status t 3 = 0x103) :=
  ⟨ran (by decide), ran (by decide), ran (by decide), ran (by decide), ran (by decide), ran (by decide)⟩
theorem Sys2Proof.Tests.test_tide_stop :
    Completes (.tideStop 3) (asked .ready 3 0x13 0 []) (fun t => status t 3 = 0x103)
    ∧ Completes (.tideStop 3) { asked .ready 3 0x13 0 [] with tide := { lastTide := 8, start := some { slot := 0, n0 := 4, sec := 3, ns := 0, own := 0, members := [] } } }
        (fun t => status t 3 = 0 ∧ t.tide.start = none ∧ (t.box 3).field 0 12 = 8)
    ∧ Completes (.tideStop 3) { asked .serving 3 0x13 0 [] with tide := { running := some 0 } } (fun t => status t 3 = 1 ∧ t.tide.stopping = true) :=
  ⟨ran (by decide), ran (by decide), ran (by decide)⟩

/-! ### Agents -/

/-- A request of mailbox 3 in READY, agent 0's directory word d at 0x4000, its image or header at brine 0: one stream of 64-byte entries with
the given fill, C 1, one granted page 1, word w. -/
def Sys2Proof.Tests.agentBed (code len : Nat) (payload : List (Nat × List Byte)) (d fill : Byte) (w : List Byte) : State :=
  let h := brineBase 0
  let s := asked .ready 3 code len (pieces payload)
  { s with
    salter := { s.salter with dirPa := 0x4000 }
    pans := [(0, { taken := [(0, 65536), (262144, 262144)] })]
    mem := pieces [(0x4000, [d]), (h + 5, [1, 7, 0, 1]), (h + 28, [1]), (h + 0x100, [64, 0, 0, 0, 0, 16]), (h + 0x108, [fill]), (h + 0x111, [16, 0, 0, 1]), (h + 0x1000, w)] }
theorem Sys2Proof.Tests.placed (s : State) (p n align i : Nat) (h1 : (s.pan p).taken = []) (h2 : (s.pan p).relocated = []) (hn : n ≤ align)
    (h0 : 0 < brineLimit s p / align) : placeBrine s p n align i ≠ none := by
  intro h
  unfold placeBrine at h
  obtain ⟨f, hf⟩ := Nat.exists_eq_succ_of_ne_zero (Nat.pos_iff_ne_zero.mp h0)
  simp only [hf] at h
  unfold fitFrom at h
  have hb : ∀ k, brineRangeFree s p (k % (f + 1) * align) n = true := by
    intro k
    simp only [brineRangeFree, h1, h2, List.all_nil, Bool.and_true, decide_eq_true_eq]
    have hk : k % (f + 1) + 1 ≤ brineLimit s p / align := by rw [hf]; exact Nat.mod_lt _ (Nat.succ_pos f)
    calc k % (f + 1) * align + n ≤ (k % (f + 1) + 1) * align := by rw [Nat.add_mul]; omega
      _ ≤ brineLimit s p / align * align := Nat.mul_le_mul_right _ hk
      _ ≤ brineLimit s p := Nat.div_mul_le_self _ _
  simp [hb] at h
theorem Sys2Proof.Tests.grants (s : State) (p : Nat) (h : placeBrine s p 65536 65536 0 ≠ none) : grantAll s p 0 [(65536, 65536), (0, 65536)] ≠ none := by
  cases hq : placeBrine s p 65536 65536 0 with
  | none => exact absurd hq h
  | some off => simp [grantAll, hq]
/-- An AGENT_ADMIT of one stream without pages, whose header finds a place. -/
def Sys2Proof.Tests.admitting : State := asked .ready 3 0x20 32 [(0, 5), (6, 1), (16, 64), (20, 9)]
theorem Sys2Proof.Tests.witness_admit : admitting.onlinePan 0 = true ∧ 65536 ≤ freeBrine admitting 0 ∧ agentBusy admitting 5 = false
    ∧ (admitting.agentDir 5).valid = false ∧ AllHome admitting := by decide
theorem Sys2Proof.Tests.witness_admit_place : grantAll (popped admitting) 0 0 [(65536, 65536), (0, 65536)] ≠ none :=
  grants _ _ (placed _ _ _ _ _ (by decide) (by decide) (by decide) (by decide))
theorem Sys2Proof.Tests.test_admit_refused : let ask (id owner : Byte) : Table Byte := pieces [(0, [id, 0, 0, 0, owner]), (6, [1]), (16, [64])]
    Completes (.agentAdmit 3) { asked .ready 3 0x20 32 (ask 5 19) with cfg := { variant := .a12 } } (fun t => status t 3 = 0x102)
    ∧ Completes (.agentAdmit 3) { asked .ready 3 0x20 32 (ask 0 2) with mem := [(0x1011F0000000, 1)] } (fun t => status t 3 = 0x101)
    ∧ Completes (.agentAdmit 3) { asked .ready 3 0x20 32 (ask 5 2) with pans := [(2, { state := .test })] } (fun t => status t 3 = 0x103)
    ∧ Completes (.agentAdmit 3) { asked .ready 3 0x20 32 (ask 5 2) with pans := [(2, { held := true })] } (fun t => status t 3 = 0x200)
    ∧ Completes (.agentAdmit 3) { asked .ready 3 0x20 32 (ask 5 2) with pans := [(2, { taken := [(0, 72 * 2 ^ 30)] })] } (fun t => status t 3 = 0x104)
    ∧ Completes (.agentAdmit 3) (asked .ready 3 0x20 32 (pieces [(6, [1]), (16, [65])])) (fun t => status t 3 = 0x101 ∧ (t.box 3).detail = 0x10) :=
  ⟨ran (by decide), ran (by decide), ran (by decide), ran (by decide), ran (by decide), ran (by decide)⟩
theorem Sys2Proof.Tests.test_evict :
    Completes (.agentEvict 3) (agentBed 0x21 8 [] 1 1 [1, 0, 0, 0x40]) (fun t => status t 3 = 0 ∧ (t.pan 0).taken = [])
    ∧ Completes (.agentEvict 3) (agentBed 0x21 8 [] 3 1 []) (fun t => (t.agentDir 0).valid = false ∧ (t.pan 0).taken.length = 2)
    ∧ Completes (.agentEvict 3) (agentBed 0x21 8 [] 5 1 []) (fun t => status t 3 = 0x200) ∧ Completes (.agentEvict 3) (agentBed 0x21 8 [] 0 1 []) (fun t => status t 3 = 0x101) :=
  ⟨ran (by decide), ran (by decide), ran (by decide), ran (by decide)⟩
theorem Sys2Proof.Tests.test_prefetch :
    Completes (.agentPrefetch 3) (agentBed 0x22 8 [(4, [2])] 3 1 []) (fun t => status t 3 = 1 ∧ t.mover 2 = [{ agent := 0, spill := false, pan := 2, origin := .mailbox 3 }])
    ∧ Completes (.agentPrefetch 3) (agentBed 0x22 8 [(4, [2])] 1 1 []) (fun t => status t 3 = 0x103) := ⟨ran (by decide), ran (by decide)⟩
theorem Sys2Proof.Tests.test_advise :
    Completes (.agentAdviseSpill 3) (agentBed 0x23 24 [(10, [0x10]), (18, [1])] 1 1 []) (fun t => status t 3 = 1 ∧ t.mover 0 = [{ agent := 0, spill := true, pan := 0, pa := 0x100000, capacity := 65536, origin := .mailbox 3 }])
    ∧ Completes (.agentAdviseSpill 3) (agentBed 0x23 24 [(10, [0x10]), (18, [1])] 1 2 []) (fun t => status t 3 = 0x103)
    ∧ Completes (.agentAdviseSpill 3) (agentBed 0x23 24 [(10, [0x10])] 1 1 []) (fun t => status t 3 = 0x104)
    ∧ Completes (.agentAdviseSpill 3) (agentBed 0x23 24 [(4, [3])] 1 1 []) (fun t => status t 3 = 0x101 ∧ (t.box 3).detail = 4)
    ∧ Completes (.agentAdviseGrow 3) (agentBed 0x23 24 [(4, [1]), (8, [1])] 1 1 []) (fun t => status t 3 = 0x101 ∧ (t.box 3).detail = 8)
    ∧ Completes (.agentAdviseGrow 3) (agentBed 0x23 24 [(4, [1]), (16, [1])] 1 1 [1, 0, 0, 0x40]) (fun t => status t 3 = 0x104)
    ∧ Completes (.agentAdviseGrow 3) (agentBed 0x23 24 [(4, [1])] 1 1 []) (fun t => status t 3 = 0)
    ∧ Completes (.agentAdviseRelease 3) (agentBed 0x23 24 [(4, [2])] 1 1 [1, 0, 0, 0x40]) (fun t => status t 3 = 0 ∧ hGranted t (brineBase 0) = 0
        ∧ (t.pan 0).taken = [(0, 65536)] ∧ pageWord t (brineBase 0) (streamRec t (brineBase 0) 0) 0 = 0) :=
  ⟨ran (by decide), ran (by decide), ran (by decide), ran (by decide), ran (by decide), ran (by decide), ran (by decide), ran (by decide)⟩
theorem Sys2Proof.Tests.witness_stream : let s := agentBed 0x23 24 [(4, [1])] 1 1 [1, 0, 0, 0x40]
    AllHome s ∧ WordsInside s (brineBase 0) 0 ∧ (s.agentDir 0).header = brineBase 0 ∧ grantedWords s (brineBase 0) = [(0, 0, 0x40000001)] := by decide
/-- A page table at 0x20000 that maps the first GiB readable and cacheable onto core die 0's memory. -/
def Sys2Proof.Tests.mapped (s : State) : State := { s with mem := pieces [(0x20000, [1, 0x10, 2]), (0x21000, [0xC3])] }
theorem Sys2Proof.Tests.test_region_register : let ask (r : Byte) : Table Byte := pieces [(2, [2]), (10, [r]), (0x11, [16]), (0x19, [16])]
    Completes (.regionRegister 3) (asked .ready 3 0x30 32 (ask 1)) (fun t => status t 3 = 1 ∧ t.salter.deferred = [(3, .regionRegister 0x20000 0 1 0x1000 0x1000)])
    ∧ Completes (.regionRegister 3) (asked .ready 3 0x30 32 (ask 8)) (fun t => status t 3 = 0x101 ∧ (t.box 3).detail = 10)
    ∧ Completes (.regionRegister 3) (asked .ready 3 0x30 32 (pieces [(1, [1]), (0x19, [16])])) (fun t => status t 3 = 0x101 ∧ (t.box 3).detail = 0) :=
  ⟨ran (by decide), ran (by decide), ran (by decide)⟩
/-- A registration of 0x1000 bytes at 0x1000 being walked. -/
def Sys2Proof.Tests.walking (r : BitVec 5) : State :=
  mapped { asked .ready 3 0x30 32 [] with salter := { deferred := [(3, .regionRegister 0x20000 0 r 0x1000 0x1000)] } }
theorem Sys2Proof.Tests.test_region_final :
    (walkRegion (walking 1) 0x20000 1 3 0x1000 0x2000 [] []).toOption = some ([(0, 2 ^ 30, 0)], [])
    ∧ Completes (.regionRegisterFinal 3) (walking 1) (fun t => status t 3 = 0 ∧ t.salter.deferred = [])
    ∧ Completes (.regionRegisterFinal 3) (walking 2) (fun t => status t 3 = 0x105 ∧ t.salter.regions = [])
    ∧ Completes (.regionRegisterFinal 3) { walking 1 with mem := [] } (fun t => status t 3 = 0x101) :=
  ⟨by decide, ran (by decide), ran (by decide), ran (by decide)⟩
/-- A package with region 5 of generation 2. -/
def Sys2Proof.Tests.region5 (ending : Bool) (s : State) : State :=
  { s with salter := { s.salter with regions := [(5, some { key := 0x200005, rights := 1, start := 0, len := 1, pages := [], ending := ending })] } }
theorem Sys2Proof.Tests.test_region_deregister :
    Completes (.regionDeregister 3) (region5 false (asked .fault 3 0x31 8 (pieces [(0, [5, 0, 0x20])]))) (fun t => status t 3 = 1 ∧ (tget none t.salter.regions 5).map Region.ending = some true)
    ∧ Completes (.regionDeregister 3) (region5 false (asked .ready 3 0x31 8 (pieces [(0, [5, 0, 0x10])]))) (fun t => status t 3 = 0x101)
    ∧ Completes (.regionDeregister 3) (region5 true (asked .ready 3 0x31 8 (pieces [(0, [5, 0, 0x20])]))) (fun t => status t 3 = 0x200)
    ∧ (let s := region5 true (asked .ready 3 0x31 8 [])
       Completes (.regionDeregisterFinal 3) { s with salter := { s.salter with deferred := [(3, .regionDeregister 0x200005)] } } (fun t => status t 3 = 0 ∧ t.salter.regions = [])) :=
  ⟨ran (by decide), ran (by decide), ran (by decide), ran (by decide)⟩

/-! ### Pans -/

/-- A pan command for unit bytes a, b, c in mailbox 64. -/
def Sys2Proof.Tests.unitAsk (st : PkgState) (code : Nat) (a b c : Byte) (pans : Table Pan) : State :=
  { asked st 64 code 8 (pieces [(0, [a, b, c])]) with pans := pans }
theorem Sys2Proof.Tests.test_pan_offline :
    Completes (.panOffline 64) (unitAsk .maint 0x40 3 1 0 []) (fun t => status t 64 = 1 ∧ t.salter.deferred = [(64, .panOffline 3 true none)])
    ∧ Completes (.panOffline 64) { unitAsk .ready 0x40 3 0 0 [(2, { state := .test })] with plan0 := some { plan [] with binding := [3, 0, 1] } } (fun t =>
        (t.pan 3).held = true ∧ (t.pan 4).held = true ∧ status t 64 = 1 ∧ t.salter.repl = some { p := 3, r := 4, test := false, box := some 64 })
    ∧ Completes (.panOffline 64) { unitAsk .ready 0x40 3 0 0 [] with plan0 := some { plan [] with binding := List.range 20 } } (fun t => status t 64 = 0x104)
    ∧ Completes (.panOffline 64) (unitAsk .ready 0x40 3 0 0 [(3, { state := .offline })]) (fun t => status t 64 = 0x103)
    ∧ Completes (.panOffline 64) (unitAsk .ready 0x40 3 0 0 [(3, { held := true })]) (fun t => status t 64 = 0x200)
    ∧ Completes (.panOffline 64) { unitAsk .ready 0x40 13 0 0 [] with cfg := { variant := .a12 } } (fun t => status t 64 = 0x102) :=
  ⟨ran (by decide), ran (by decide), ran (by decide), ran (by decide), ran (by decide), ran (by decide)⟩
/-- A deferred command of mailbox 64. -/
def Sys2Proof.Tests.running (d : Deferred) (pans : Table Pan) : State :=
  { asked .maint 64 0 0 [] with salter := { deferred := [(64, d)] }, pans := pans }
theorem Sys2Proof.Tests.test_pan_offline_complete :
    Completes (.panOfflineComplete 64) (running (.panOffline 3 true none) []) (fun t => (t.pan 3).state = .test ∧ status t 64 = 0 ∧ t.salter.deferred = [])
    ∧ Completes (.panOfflineComplete 64) (running (.panOffline 3 true none) [(3, { state := .failed })]) (fun t => status t 64 = 0x300) :=
  ⟨ran (by decide), ran (by decide)⟩
/-- A replacement of pan 3 by pan 5 whose copy has ended. -/
def Sys2Proof.Tests.replacing (st : UnitState) : State :=
  let s := running (.panOffline 3 true (some 5)) [(3, { state := st, held := true }), (5, { held := true })]
  { s with
    salter := { s.salter with repl := some { p := 3, r := 5, test := true, box := some 64 } }
    beds := [(48, { scratch := [(7, 9)] })]
    mem := [(brineBase 3 + 5, 1), (brineBase 5 + 5, 2)] }
theorem Sys2Proof.Tests.test_cut_over :
    Completes (.panCutOver 3) { replacing .online with pkg := { st := .draining } } (fun t => t.salter.repl.isSome = true)
    ∧ Completes (.panCutOver 4) (replacing .online) (fun t => t.salter.repl.isSome = true)
    ∧ (replacing .online).stepOpen = false ∧ ((replacing .online).pan 3).service = true ∧ AllHome (replacing .online) := ⟨ran (by decide), ran (by decide), by decide⟩
theorem Sys2Proof.Tests.test_pan_online :
    Completes (.panOnline 64) (unitAsk .ready 0x41 3 0 0 [(3, { state := .offline })]) (fun t => status t 64 = 1 ∧ (t.pan 3).state = .test)
    ∧ Completes (.panOnline 64) (unitAsk .ready 0x41 3 0 0 [(3, { state := .test })]) (fun t => status t 64 = 1)
    ∧ Completes (.panOnline 64) (unitAsk .ready 0x41 3 0 0 []) (fun t => status t 64 = 0x103)
    ∧ Completes (.panOnlineComplete 64 1 2) (running (.panOnline 3) [(3, { state := .test })]) (fun t => status t 64 = 0x300 ∧ (t.pan 3).state = .failed)
    ∧ Completes (.panOnlineComplete 64 0 2) (running (.panOnline 3) [(3, { state := .failed })]) (fun t => status t 64 = 0x300) :=
  ⟨ran (by decide), ran (by decide), ran (by decide), ran (by decide), ran (by decide)⟩
theorem Sys2Proof.Tests.test_bist_run :
    Completes (.bistRun 64) (unitAsk .ready 0x50 0 3 2 [(3, { state := .offline })]) (fun t => status t 64 = 1 ∧ (t.pan 3).state = .test ∧ t.salter.deferred = [(64, .bistRun 0 3 2 .offline)])
    ∧ Completes (.bistRun 64) (unitAsk .maint 0x50 3 1 3 []) (fun t => status t 64 = 1 ∧ t.stkState 1 = .test)
    ∧ Completes (.bistRun 64) (unitAsk .ready 0x50 3 1 3 []) (fun t => status t 64 = 0x103)
    ∧ Completes (.bistRun 64) (unitAsk .ready 0x50 4 1 3 []) (fun t => status t 64 = 0x101 ∧ (t.box 64).detail = 0)
    ∧ Completes (.bistRun 64) (unitAsk .ready 0x50 2 4 3 []) (fun t => status t 64 = 0x102)
    ∧ Completes (.bistRun 64) { unitAsk .maint 0x50 2 3 3 [] with cfg := { variant := .a12 } } (fun t => status t 64 = 0x102) :=
  ⟨ran (by decide), ran (by decide), ran (by decide), ran (by decide), ran (by decide), ran (by decide)⟩
theorem Sys2Proof.Tests.test_bist_complete :
    Completes (.bistComplete 64 0 5 0 0) (running (.bistRun 2 3 3 .online) []) (fun t => status t 64 = 0 ∧ t.events.queue.map Event.code = [evBistResult]
        ∧ t.trust.repair.length = 1 ∧ (t.box 64).length = 32)
    ∧ Completes (.bistComplete 64 1 0 2 0) (running (.bistRun 1 3 1 .online) []) (fun t => status t 64 = 0x300 ∧ (t.coreDie 3).state = .failed
        ∧ t.coh.declared = [(6, 0xFF, 35)] ∧ (t.box 64).field 0 8 = 2) := ⟨ran (by decide), ran (by decide)⟩

/-! ### Crust -/

/-- A package in READY whose liquor, of header [7], runs. -/
def Sys2Proof.Tests.liquor (t : Trust) : State :=
  { State.reset with pkg := { st := .ready, bootStep := 11 }, trust := { t with running := [(2, some { header := [7], version := 3 })] } }
theorem Sys2Proof.Tests.test_crust_calls :
    Completes (.verify 0x1000 300 2) (liquor {}) (fun t => t.trust.callStatus = 0x106 ∧ t.trust.callData = [])
    ∧ Completes (.verify 0x1000 300 4) (liquor {}) (fun t => t.trust.callStatus = 0x101)
    ∧ Completes (.verify 0x1000 300 2) { liquor {} with coh := { poison := [(0x41, true)] } } (fun t => t.trust.callStatus = 0x300)
    ∧ Completes (.extend 4 [1]) (liquor {}) (fun t => t.trust.callStatus = 0x105) ∧ Completes (.extend 7 [1]) (liquor {}) (fun t => t.trust.callStatus = 0)
    ∧ Completes (.extend 8 [1]) (liquor {}) (fun t => t.trust.callStatus = 0x101)
    ∧ Completes (.report (List.replicate 32 3)) (liquor {}) (fun t => t.trust.callStatus = 0) ∧ Completes (.report []) (liquor {}) (fun t => t.trust.callStatus = 0x101)
    ∧ Completes (.random 4) (liquor {}) (fun t => t.trust.callData.length = 4 ∧ t.trust.drbgCount = 1) ∧ Completes (.random 257) (liquor {}) (fun t => t.trust.callStatus = 0x101)
    ∧ Completes (.random 4) (liquor { drbgFailed := true }) (fun t => t.trust.callStatus = 0x300) ∧ Completes (.random 4) (liquor { drbgCount := 2 ^ 20 }) (fun t => t.free = 0)
    ∧ Completes (.random 4) State.reset (fun t => t.trust.callData = []) :=
  ⟨ran (by decide), ran (by decide), ran (by decide), ran (by decide), ran (by decide), ran (by decide), ran (by decide), ran (by decide), ran (by decide), ran (by decide), ran (by decide),
    ran (by decide), ran (by decide)⟩
theorem Sys2Proof.Tests.test_crust_settings :
    Completes (.protect .mailbox) (liquor {}) (fun t => t.trust.callStatus = 0) ∧ Completes (.protect .other) (liquor {}) (fun t => t.trust.callStatus = 0x105)
    ∧ Completes (.protect (.granule 63 false)) (liquor {}) (fun t => t.trust.protectDone = [63] ∧ t.trust.callStatus = 0)
    ∧ Completes (.protect (.granule 64 false)) (liquor {}) (fun t => t.trust.callStatus = 0x105)
    ∧ Completes (.keyload 2) (liquor {}) (fun t => t.trust.keysLoaded = 4 ∧ t.trust.callStatus = 0) ∧ Completes (.keyload 4) (liquor {}) (fun t => t.trust.callStatus = 0x102)
    ∧ Completes (.keyload 2) { liquor {} with ioDies := [(2, { state := .failed })] } (fun t => t.trust.callStatus = 0x300)
    ∧ Completes (.drbgReseed true) (liquor { drbgCount := 2 ^ 20 }) (fun t => t.trust.drbgCount = 0 ∧ t.trust.drbgSeeds = 1)
    ∧ Completes (.drbgReseed false) (liquor { drbgCount := 2 ^ 20 }) (fun t => t.trust.drbgFailed = true ∧ t.events.queue.map Event.code = [evRngFail]) :=
  ⟨ran (by decide), ran (by decide), ran (by decide), ran (by decide), ran (by decide), ran (by decide), ran (by decide), ran (by decide), ran (by decide)⟩
theorem Sys2Proof.Tests.test_liquor_restart :
    Completes .heartbeatMiss (liquor { restarts := [4, 3, 2] }) (fun t => t.trust.restarts = [0, 4, 3] ∧ t.events.queue.map Event.code = [evLiquorRestart])
    ∧ Completes (.mpuFault .keys) (liquor {}) (fun t => t.events.queue.map Event.code = [evMpuFault, evLiquorRestart])
    ∧ Completes .liquorRestartLimit (liquor { restarts := [4, 3, 2] }) (fun t => t.salter.active = 1 ∧ t.tally.cause = 3 ∧ t.ctlState 0 = .failed ∧ t.trust.restarts = [])
    ∧ Completes .liquorRestartLimit (liquor { restarts := [4, 3] }) (fun t => t.salter.active = 0)
    ∧ Completes .liquorRestartLimit { liquor { restarts := [4, 3, 2] } with now := 70000000000 } (fun t => t.salter.active = 0)
    ∧ Completes .controlDieSwitchover { liquor {} with salter := { dies := [(1, .failed)] } } (fun t => t.salter.active = 0 ∧ t.ctlState 0 = .failed) :=
  ⟨ran (by decide), ran (by decide), ran (by decide), ran (by decide), ran (by decide), ran (by decide)⟩
/-- A switch in a phase, asked for by mailbox 64, to an image in flash slot 1 of the liquor. -/
def Sys2Proof.Tests.switching (phase : Nat) (im : Image) : State :=
  let s := liquor { switchPhase := phase, staged := some 1, flash := [(5, some im)], ctrLiquor := 4 }
  { s with salter := { s.salter with switching := true, deferred := [(64, .fwSwitch)] } }
theorem Sys2Proof.Tests.test_switch :
    Completes .fwSwitchCutOver (switching 1 { secVersion := 5, version := 9 }) (fun t => t.trust.ctrLiquor = 5 ∧ t.salter.active = 1 ∧ t.trust.switchPhase = 2 ∧ tget 0 t.trust.slotOf 2 = 1)
    ∧ Completes .fwSwitchCutOver (switching 1 { good := false }) (fun t => status t 64 = 0x106 ∧ t.trust.switchPhase = 0)
    ∧ Completes .fwSwitchCutOver (switching 1 { secVersion := 3 }) (fun t => status t 64 = 0x107 ∧ t.salter.active = 0)
    ∧ Completes .fwSwitchCutOver (switching 2 {}) (fun t => t.trust.switchPhase = 2)
    ∧ Completes .fwSwitchComplete (switching 2 {}) (fun t => status t 64 = 0 ∧ t.trust.switchPhase = 0 ∧ t.salter.deferred = [])
    ∧ Completes .standbyControlDieLost (switching 1 {}) (fun t => status t 64 = 0x300 ∧ t.ctlState 1 = .failed ∧ t.trust.staged = some 1)
    ∧ Completes .controlDieSwitchover (switching 1 { secVersion := 5 }) (fun t => status t 64 = 0 ∧ t.salter.active = 1 ∧ t.trust.ctrLiquor = 5)
    ∧ Completes .controlDieSwitchover (switching 2 {}) (fun t => status t 64 = 0 ∧ t.salter.active = 1) :=
  ⟨ran (by decide), ran (by decide), ran (by decide), ran (by decide), ran (by decide), ran (by decide), ran (by decide), ran (by decide)⟩
theorem Sys2Proof.Tests.test_fw_commands : let trust : Trust := { staged := some 1 }
    Completes (.fwSwitch 64) { asked .ready 64 0x61 0 [] with trust := trust } (fun t => status t 64 = 1 ∧ t.trust.switchPhase = 1 ∧ t.salter.switching = true)
    ∧ Completes (.fwSwitch 64) { asked .ready 64 0x61 0 [] with trust := { staged := none } } (fun t => status t 64 = 0x103)
    ∧ Completes (.fwSwitch 64) { asked .ready 64 0x61 0 [] with trust := { staged := some 1, switchPhase := 2 } } (fun t => status t 64 = 0x200)
    ∧ Completes (.fwStage 64) (asked .fault 64 0x60 16 (pieces [(2, [1]), (8, [0, 1])])) (fun t => status t 64 = 1 ∧ t.salter.deferred = [(64, .fwStage 0x10000 256 false)])
    ∧ Completes (.fwStage 64) (asked .fault 64 0x60 16 (pieces [(5, [0xF0]), (8, [0, 1])])) (fun t => status t 64 = 0x101)
    ∧ Completes (.fwStage 64) { asked .fault 64 0x60 16 (pieces [(8, [0, 1])]) with trust := { switchPhase := 1 } } (fun t => status t 64 = 0x200)
    ∧ Completes (.fwStageComplete 64) (running (.fwStage 0x10000 256 false) []) (fun t => status t 64 = 0x106 ∧ t.salter.deferred = [])
    ∧ Completes (.fwStageComplete 64) { running (.fwStage 0x10000 256 true) [] with coh := { poison := [(0x400, true)] } } (fun t => status t 64 = 0x300) :=
  ⟨ran (by decide), ran (by decide), ran (by decide), ran (by decide), ran (by decide), ran (by decide), ran (by decide), ran (by decide)⟩

/-! ### Memory -/

/-- The hypotheses of MemoryStaysCanonical are met by reset with a command that waits. -/
theorem witness_memoryStaysCanonical :
    ∃ s t : State, memoryOk s = true ∧ step s = .next t ∧ s.pending ≠ [] :=
  ⟨{ State.reset with pending := [.timeSyncMessage 0 0] }, { State.reset with pending := [] }, by decide, rfl, by decide⟩

/-! ### Words -/

/-- A format V word written from R116. -/
theorem test_decode_vfma : decodeBed ⟨0, 0, 0, 0⟩ 0b0000001101010001000100100010001100110100010001000110110111011001#64 =
    some (.vfma ⟨0, 0, 0, 0⟩ { gd := { g := 2, gn := 1 }, vd := 0x11, va := 0x22, vb := 0x33, vc := 0x44, type := 4, bmode := 1, pd := 5, pw := 1,
                                        rnd := 1, sat := 1, na := 1, nb := 0, nc := 1, sub := 9 }) := by decide
/-- A format S word written from R117. -/
theorem test_decode_sadd : decodeBed ⟨0, 0, 0, 0⟩ 0b0100000011100101010010110000001010000000000000000000000000001101#64 =
    some (.sadd ⟨0, 0, 0, 0⟩ { gd := { g := 7, gn := 0 }, sd := 21, sa := 11, sb := 0, imm := 1, rsv := 0, imm32 := 0x8000000D }) := by decide
/-- A format C word written from R118: BRA one instruction back. -/
theorem test_decode_bra : decodeBed ⟨0, 0, 0, 0⟩ 0b0101000011100000000000000000000011111111111111111111111111111110#64 =
    some (.bra ⟨0, 0, 0, 0⟩ { gd := { g := 7, gn := 0 }, body := 0xFFFFFFFE }) := by decide
/-- A format M word written from R119: an acquiring 64-bit load of virtual space at scope device. -/
theorem test_decode_ld : decodeBed ⟨0, 0, 0, 0⟩ 0b0110000011100000010000000110000000000011010110000011111111111000#64 =
    some (.ld ⟨0, 0, 0, 0⟩ { gd := { g := 7, gn := 0 }, vd := 4, va := 6, vb := 0, size := 3, space := 1, order := 1, scope := 2, aop := 0,
                                        offset := 0x3FF8 }) := by decide
/-- A format L word written from R120: REDUCE over all threads. -/
theorem test_decode_reduce : decodeBed ⟨0, 0, 0, 0⟩ 0b0111001011101000000010000000110000010000000000010000010000000101#64 =
    some (.reduce ⟨0, 0, 0, 0⟩ { gd := { g := 7, gn := 0 }, pm := 0x40, sbase := 2, vd := 3, va := 4, vb := 0, type := 4, sub := 1, imm10 := 5 }) := by decide
/-- A format X word written from R121: MMA into slot 5 of 128 rows. -/
theorem test_decode_mma : decodeBed ⟨0, 0, 0, 0⟩ 0b0111100011101000000001010010000111010101111111000000000000000000#64 =
    some (.mma ⟨0, 0, 0, 0⟩ { gd := { g := 7, gn := 0 }, pm := 0x40, sbase := 1, body := 0x121d5fc0000 }) := by decide
/-- A format R word written from R120 and R158. -/
theorem test_decode_grainKey : decodeBed ⟨0, 0, 0, 0⟩ 0b1000000011101000000011000000000100000000000000000000000000000000#64 =
    some (.grainKeyDrain ⟨0, 0, 0, 0⟩ { gd := { g := 7, gn := 0 }, pm := 0x40, sbase := 3, sd := 0, sub := 1, imm32 := 0 }) := by decide
/-- KV.APPEND, DMA.Q with sub 2 and CTX.LOAD: the opcodes of R147. -/
theorem test_decode_engines :
    decodeBed ⟨0, 0, 0, 0⟩ 0b1000100011101000000000000101000000000000000000000000000000000000#64
        = some (.kvAppend ⟨0, 0, 0, 0⟩ { gd := { g := 7, gn := 0 }, pm := 0x40, sbase := 0, sd := 5, sub := 0, imm32 := 0 })
      ∧ decodeBed ⟨0, 0, 0, 0⟩ 0b1001000011101000000000000101001000000000000000000000000000000000#64
        = some (.dmaAgentSpill ⟨0, 0, 0, 0⟩ { gd := { g := 7, gn := 0 }, pm := 0x40, sbase := 0, sd := 5, sub := 2, imm32 := 0 })
      ∧ decodeBed ⟨0, 0, 0, 0⟩ 0b1001100111101000000000000101000000000000000000000000000000000000#64
        = some (.ctxLoad ⟨0, 0, 0, 0⟩ { gd := { g := 7, gn := 0 }, pm := 0x40, sbase := 0, sd := 5, sub := 0, imm32 := 0 }) := by decide
/-- A reserved opcode, and DMA.Q with a sub field the manual does not list, are no instruction; a field value meets the sub of each
of the five. -/
theorem test_decode_none : decodeBed ⟨0, 0, 0, 0⟩ 0xA000000000000000#64 = none ∧ decodeBed ⟨0, 0, 0, 0⟩ 0x9000000300000000#64 = none
    ∧ ({ gd := { g := 0, gn := 0 }, pm := 0, sbase := 0, sd := 0, sub := 2, imm32 := 0 } : RFmt).sub = 2 := by decide
end

section
/-!
PROOFS. The board's side (O49): flash operations, the housekeeping registers, the controller's supply and address, the TAPs. -/

namespace Sys2Proof.Board

open Sys2Proof.Machine Sys2Proof.Safety

/-- A command whose meaning goes on to t completes with what holds of t. -/
theorem completes_of_go {c : Instr} {s t : State} {P : State → Prop} (h : exec c s = go t) (hP : P t) : Completes c s P :=
  ⟨t, h, hP⟩

/-! ### The commands -/

theorem exec_flashProgram (s : State) : exec .flashProgram s = go (flashCmd s 2) := rfl
theorem exec_flashErase (s : State) : exec .flashErase s = go (flashCmd s 3) := rfl
theorem exec_hkWrite (off n : Nat) (v : Dword) (s : State) :
    exec (.registerWrite (.hk off n) v) s = if s.board.hkOn then go (if n = 4 then hkWrite s off v else s) else go s := rfl

theorem exec_hkRead (off n : Nat) (s : State) :
    exec (.rcRegisterRead (.hk off n)) s =
      if s.board.hkOn then go { s with bus := if n = 4 then hkValue s off else 0, free := s.free + 1 } else go s := by
  have hbar : readBarred s (.hk off n) = false := rfl
  change execRcRegisterRead (.hk off n) s = _
  rw [execRcRegisterRead, hbar, Bool.not_false, Bool.and_true]
  rfl

/-! ### Flash operations (R508, R509) -/

/-- The sequencer's states in which a flash operation starts. -/
def seqAllows (q : Seq) : Prop := q = .off ∨ q = .railFault ∨ q = .thermtrip

theorem flashCmd_off {s : State} (op : Nat) (h : s.board.hkOn = false) : flashCmd s op = s := by simp [flashCmd, h]

theorem flashCmd_refused {s : State} {op : Nat} (hk : s.board.hkOn = true) (h : flashRefuses s op = true) :
    flashCmd s op = { s with board := { s.board with flashRefused := true } } := by
  simp [flashCmd, hk, h, State.updBoard]

theorem flashCmd_starts {s : State} {op : Nat} (hk : s.board.hkOn = true) (h : flashRefuses s op = false) :
    flashCmd s op = { s with board := { s.board with flashOp := some (op, s.board.flashAddr) } } := by
  simp [flashCmd, hk, h, State.updBoard]

/-- An idle controller refuses only a program or an erase that meets a protected range. -/
theorem flashRefuses_idle {s : State} {op : Nat} (hq : seqAllows s.board.seq) (hf : s.board.flashOp = none)
    (h : op = 1 ∨ s.cfg.protectedFlash = []) : flashRefuses s op = false := by
  have hseq : (decide (s.board.seq = .off) || decide (s.board.seq = .railFault) || decide (s.board.seq = .thermtrip)) = true := by
    simpa [seqAllows, or_assoc] using hq
  rcases h with rfl | h
  · simp [flashRefuses, hseq, hf]
  · simp [flashRefuses, hseq, hf, h]

theorem flashRefuses_busy {s : State} {op : Nat} (h : s.board.seq = .on ∨ s.board.flashOp ≠ none) : flashRefuses s op = true := by
  rcases h with h | h
  · simp [flashRefuses, h]
  · simp [flashRefuses, Option.isSome_iff_ne_none.mpr h]

/-- A program or an erase whose range holds a protected byte is refused. -/
theorem flashRefuses_protected {s : State} {op a n x : Nat} (hop : op ≠ 1) (hm : (a, n) ∈ s.cfg.protectedFlash) (ha : a ≤ x)
    (hx : x < a + n) (hl : (flashRange op s.board.flashAddr).1 ≤ x)
    (hr : x < (flashRange op s.board.flashAddr).1 + (flashRange op s.board.flashAddr).2) : flashRefuses s op = true := by
  have hmeets : meets (flashRange op s.board.flashAddr).1 (flashRange op s.board.flashAddr).2 a n = true := by
    simp only [meets, Bool.and_eq_true, decide_eq_true_eq]
    omega
  have hany : s.cfg.protectedFlash.any
      (fun y => meets (flashRange op s.board.flashAddr).1 (flashRange op s.board.flashAddr).2 y.1 y.2) = true :=
    List.any_eq_true.mpr ⟨_, hm, hmeets⟩
  simp [flashRefuses, hop, hany]

/-- The end of an operation for which no power-up waits. -/
theorem exec_flashOperationEnd {s : State} {op a : Nat} (failed : Bool) (bytes : List Byte) (h : s.board.flashOp = some (op, a))
    (hw : s.board.powerWait = none) :
    exec (.flashOperationEnd failed bytes) s = go { s with board :=
      { flashEffect s.board op a failed bytes with flashOp := none, flashError := s.board.flashError || failed } } := by
  change execFlashOperationEnd failed bytes s = _
  simp only [execFlashOperationEnd, h, hw, State.updBoard]

/-! ### Runs of bytes -/

/-- A byte inside a written copy of another table is the copied byte. -/
theorem tget_tputs_tgets {d e : Byte} (t u : Table Byte) {k j n x : Nat} (hk : k ≤ x) (hx : x < k + n) :
    tget d (tputs d t k (tgets e u j n)) x = tget e u (j + (x - k)) := by
  have hlen : x - k < (tgets e u j n).length := by
    simp only [tgets, List.length_map, List.length_range]
    omega
  have h := tget_tputs_inside (d := d) (tgets e u j n) t k (x - k) hlen
  rw [Nat.add_sub_cancel' hk] at h
  simpa [tgets] using h

theorem length_tgets {α : Type} (d : α) (t : Table α) (k n : Nat) : (tgets d t k n).length = n := by simp [tgets]

/-- A table without the entries of some keys reads the default there and as before elsewhere. -/
theorem tget_filter_key {α : Type} (d : α) (t : Table α) (p : Nat → Bool) (x : Nat) :
    tget d (t.filter (fun e => p e.1)) x = if p x then tget d t x else d := by
  induction t with
  | nil => simp [tget]
  | cons e r ih =>
    obtain ⟨a, b⟩ := e
    by_cases hax : a = x
    · subst hax
      cases hp : p a <;> simp [tget, hp, ih]
    · cases hp : p a <;> simp [tget, hp, ih, hax]

/-! ### What an operation leaves -/

/-- An operation touches the flash and the buffer alone. -/
theorem flashEffect_frame (b : Module) (op a : Nat) (failed : Bool) (bytes : List Byte) :
    flashEffect b op a failed bytes =
      { b with flash := (flashEffect b op a failed bytes).flash, flashData := (flashEffect b op a failed bytes).flashData } := by
  simp only [flashEffect]
  split_ifs <;> dsimp only

/-- A read leaves the flash alone. -/
theorem flash_flashEffect_read (b : Module) (a : Nat) (failed : Bool) (bytes : List Byte) :
    (flashEffect b 1 a failed bytes).flash = b.flash := by
  simp only [flashEffect, if_true]

theorem flashData_flashEffect_read (b : Module) (a : Nat) : (flashEffect b 1 a false []).flashData
    = tputs 0 b.flashData 0 (tgets 0xFF b.flash (a / 256 * 256) 256) := by
  simp [flashEffect, flashRange]

/-- A program or an erase leaves the buffer alone. -/
theorem flashData_flashEffect_write (b : Module) {op : Nat} (a : Nat) (failed : Bool) (bytes : List Byte) (h : op ≠ 1) :
    (flashEffect b op a failed bytes).flashData = b.flashData := by
  simp only [flashEffect, if_neg h, apply_ite Module.flashData, ite_self]

theorem flash_flashEffect_program (b : Module) (a : Nat) :
    (flashEffect b 2 a false []).flash = tputs 0xFF b.flash (a / 256 * 256) (tgets 0 b.flashData 0 256) := by
  simp [flashEffect, flashRange]

theorem flash_flashEffect_erase (b : Module) (a : Nat) : (flashEffect b 3 a false []).flash
    = b.flash.filter (fun e => !(decide (a / 65536 * 65536 ≤ e.1) && decide (e.1 < a / 65536 * 65536 + 65536))) := by
  simp [flashEffect, flashRange]

theorem flash_flashEffect_failed (b : Module) {op : Nat} (a : Nat) (bytes : List Byte) (h : op ≠ 1) :
    (flashEffect b op a true bytes).flash = tputs 0xFF b.flash (flashRange op a).1 (bytes.take (flashRange op a).2) := by
  simp [flashEffect, h]

theorem flashByte_program (b : Module) (a x : Nat) :
    tget 0xFF (flashEffect b 2 a false []).flash x =
      if x / 256 = a / 256 then tget 0 b.flashData (x % 256) else tget 0xFF b.flash x := by
  rw [flash_flashEffect_program]
  split
  · next h =>
    have hoff : 0 + (x - a / 256 * 256) = x % 256 := by omega
    rw [tget_tputs_tgets _ _ (by omega) (by omega), hoff]
  · next h => exact tget_tputs_outside _ _ _ _ (by rw [length_tgets]; omega)

theorem flashByte_erase (b : Module) (a x : Nat) :
    tget 0xFF (flashEffect b 3 a false []).flash x = if x / 65536 = a / 65536 then 0xFF else tget 0xFF b.flash x := by
  rw [flash_flashEffect_erase,
    tget_filter_key 0xFF b.flash (fun k => !(decide (a / 65536 * 65536 ≤ k) && decide (k < a / 65536 * 65536 + 65536)))]
  have hin : (a / 65536 * 65536 ≤ x ∧ x < a / 65536 * 65536 + 65536) ↔ x / 65536 = a / 65536 := by omega
  by_cases h : x / 65536 = a / 65536
  · simp [h, hin.mpr h]
  · simp [h, -not_and, mt hin.mp h]

theorem dataByte_read (b : Module) (a : Nat) {o : Nat} (ho : o < 256) :
    tget 0 (flashEffect b 1 a false []).flashData o = tget 0xFF b.flash (a / 256 * 256 + o) := by
  rw [flashData_flashEffect_read, tget_tputs_tgets _ _ (Nat.zero_le o) (by omega), Nat.sub_zero]

/-- A failed operation leaves every byte of the flash outside its range. -/
theorem flashByte_failed (b : Module) {op a x : Nat} (bytes : List Byte) (hop : op = 1 ∨ op = 2 ∨ op = 3)
    (h : if op = 1 then True else if op = 2 then x / 256 ≠ a / 256 else x / 65536 ≠ a / 65536) :
    tget 0xFF (flashEffect b op a true bytes).flash x = tget 0xFF b.flash x := by
  have hlen (n : Nat) : (bytes.take n).length ≤ n := List.length_take_le ..
  rcases hop with rfl | rfl | rfl
  · rw [flash_flashEffect_read]
  · rw [flash_flashEffect_failed _ _ _ (by decide)]
    have hx : x / 256 ≠ a / 256 := h
    have := hlen 256
    exact tget_tputs_outside _ _ _ _ (by simp only [flashRange, Nat.reduceEqDiff, if_false]; omega)
  · rw [flash_flashEffect_failed _ _ _ (by decide)]
    have hx : x / 65536 ≠ a / 65536 := h
    have := hlen 65536
    exact tget_tputs_outside _ _ _ _ (by simp only [flashRange, if_true]; omega)

/-- A successful operation ends: busy clears, a read has filled the buffer, a program or an erase has changed the flash. -/
theorem exec_flashOperationEnd_ok {s : State} {op a : Nat} (h : s.board.flashOp = some (op, a)) (hw : s.board.powerWait = none) :
    ∃ fl fd : Table Byte,
      exec (.flashOperationEnd false []) s = go { s with board := { s.board with flashOp := none, flash := fl, flashData := fd } }
      ∧ (op = 1 → fl = s.board.flash ∧ ∀ o, o < 256 → tget 0 fd o = tget 0xFF s.board.flash (a / 256 * 256 + o))
      ∧ (op = 2 → fd = s.board.flashData ∧ ∀ x, tget 0xFF fl x =
          if x / 256 = a / 256 then tget 0 s.board.flashData (x % 256) else tget 0xFF s.board.flash x)
      ∧ (op = 3 → fd = s.board.flashData ∧ ∀ x, tget 0xFF fl x =
          if x / 65536 = a / 65536 then 0xFF else tget 0xFF s.board.flash x) := by
  refine ⟨(flashEffect s.board op a false []).flash, (flashEffect s.board op a false []).flashData, ?_, ?_, ?_, ?_⟩
  · rw [exec_flashOperationEnd false [] h hw, Bool.or_false]
    conv_lhs => rw [flashEffect_frame]
  · rintro rfl
    exact ⟨flash_flashEffect_read .., fun _ ho => dataByte_read _ _ ho⟩
  · rintro rfl
    exact ⟨flashData_flashEffect_write _ _ _ _ (by decide), flashByte_program _ _⟩
  · rintro rfl
    exact ⟨flashData_flashEffect_write _ _ _ _ (by decide), flashByte_erase _ _⟩

/-! ### Registers of the housekeeping controller (R508) -/

theorem hkWrite_flashAddr (s : State) (v : Dword) :
    hkWrite s 0x20 v = { s with board := { s.board with flashAddr := v.toNat % 2 ^ 32 } } := by
  simp [hkWrite, wfld, fld, State.updBoard]

theorem hkValue_flashAddr (s : State) : hkValue s 0x20 = BitVec.ofNat 64 (s.board.flashAddr % 2 ^ 32) := by
  simp [hkValue, regAt, packF]

theorem hkValue_input (s : State) : hkValue s 0xC = BitVec.ofNat 64 (s.board.mv % 65536) := by
  simp [hkValue, regAt, packF]

/-! ### Supply, address and TAPs (R505, R507, R514) -/

theorem giveAddr_free {s : State} (b : BitVec 7) (h : s.board.hkOn = true) (hd : s.board.dynAddr = none) :
    giveAddr s b = { s with board := { s.board with dynAddr := some b } } := by
  simp [giveAddr, h, hd, State.updBoard]

theorem giveAddr_taken {s : State} (b : BitVec 7) (h : s.board.hkOn = false ∨ s.board.dynAddr ≠ none) : giveAddr s b = s := by
  rcases h with h | h <;> simp [giveAddr, h]

theorem exec_housekeepingSupplyOn {s : State} {mv : Nat} (hmv : 40000 ≤ mv) (h : s.board.hkOn = false) :
    exec (.housekeepingSupplyOn mv) s = go { s with board := { s.board with hkOn := true, mv := mv % 65536 } } := by
  have hmv' : ¬ mv < 40000 := by omega
  simp [exec, execHousekeepingSupplyOn, hmv', h, State.updBoard]

/-- What the controller's supply leaves of the board as it goes: the flash and the signals it samples. -/
def boardAfterSupply (b : Module) : Module :=
  { flash := b.flash, resetN := b.resetN, pwrEn := b.pwrEn, coolantOk := b.coolantOk, fellAt := b.fellAt }

theorem exec_housekeepingSupplyOff {s : State} {mv : Nat} (hmv : mv < 40000) (h : s.board.hkOn = true) :
    exec (.housekeepingSupplyOff mv) s =
      go { (if s.board.rails then railsGone s .off else s) with board := boardAfterSupply s.board } := by
  have hmv' : ¬ 40000 ≤ mv := by omega
  have hb : boardAfterSupply (if s.board.rails then railsGone s .off else s).board = boardAfterSupply s.board := by split <;> rfl
  rw [← hb]
  simp [exec, execHousekeepingSupplyOff, hmv', h, boardAfterSupply]

theorem exec_jtagTapInstruction_held {s : State} {k : Nat} (x : TapInstr) (hr : s.board.rails = true) (hn : s.board.resetN = false)
    (hk : k < tapCount s.cfg.variant) :
    exec (.jtagTapInstruction k x) s = go { s with board := { s.board with
      taps := tput .bypass s.board.taps k x, extest := s.board.extest || decide (x = .extest) } } := by
  have hk' : ¬ tapCount s.cfg.variant ≤ k := by omega
  simp [exec, execJtagTapInstruction, hr, hn, hk', State.updBoard]

theorem exec_jtagTapInstruction_silent {s : State} {k : Nat} (x : TapInstr)
    (h : s.board.rails = false ∨ s.board.resetN = true ∨ tapCount s.cfg.variant ≤ k) : exec (.jtagTapInstruction k x) s = go s := by
  have hc : (!s.board.rails) = true ∨ s.board.resetN = true ∨ tapCount s.cfg.variant ≤ k := by simpa using h
  change execJtagTapInstruction k x s = _
  rw [execJtagTapInstruction, if_pos hc]

/-! ### The obligation -/

/-- A flash command is its operation's flashCmd. -/
theorem exec_flashOps {i : Instr × Nat} (hi : i ∈ [(Instr.flashRead, 1), (.flashProgram, 2), (.flashErase, 3)]) (s : State) :
    exec i.1 s = go (flashCmd s i.2) := by
  simp only [List.mem_cons, List.not_mem_nil, or_false] at hi
  rcases hi with rfl | rfl | rfl <;> rfl

theorem exec_giveAddr {i : Instr} {b : BitVec 7} (hi : i ∈ [Instr.setdasa b, .entdaa b]) (s : State) : exec i s = go (giveAddr s b) := by
  simp only [List.mem_cons, List.not_mem_nil, or_false] at hi
  rcases hi with rfl | rfl <;> rfl

/-- Settles O49, command by command: each meaning's equation in its cases, and for the flash the bytes a run of writes leaves. -/
theorem theBoardServesFlashBusAndTaps : Obligations.TheBoardServesFlashBusAndTaps := by
  unfold Obligations.TheBoardServesFlashBusAndTaps
  refine ⟨?starts, ?protects, ?ends, ?registers, ?address, ?supply, ?taps⟩
  case starts =>
    intro s i hi
    refine ⟨fun hk => ?_, fun ⟨hk, hq, hf⟩ hop => ?_, fun hk hb => ?_⟩
    · exact completes_of_go (exec_flashOps hi s) (flashCmd_off _ hk)
    · exact completes_of_go (exec_flashOps hi s) (flashCmd_starts hk (flashRefuses_idle hq hf hop))
    · exact completes_of_go (exec_flashOps hi s) (flashCmd_refused hk (flashRefuses_busy hb))
  case protects =>
    intro s a n x ⟨hk, _, _⟩ hm ha hx
    refine ⟨fun hr => ?_, fun hr => ?_⟩
    · refine completes_of_go (exec_flashProgram s) (flashCmd_refused hk (flashRefuses_protected (by decide) hm ha hx ?_ ?_)) <;>
        simp only [flashRange, Nat.reduceEqDiff, if_false] <;> omega
    · refine completes_of_go (exec_flashErase s) (flashCmd_refused hk (flashRefuses_protected (by decide) hm ha hx ?_ ?_)) <;>
        simp only [flashRange, if_true] <;> omega
  case ends =>
    intro s op a hf hw
    obtain ⟨fl, fd, hend, hread, hprogram, herase⟩ := exec_flashOperationEnd_ok hf hw
    refine ⟨fun hop => ?_, fun hop => ?_, fun hop _ => ?_, ?_⟩
    · obtain ⟨hfl, hfd⟩ := hread hop
      exact completes_of_go hend ⟨⟨rfl, rfl, rfl⟩, hfl, hfd⟩
    · obtain ⟨hfd, hfl⟩ := hprogram hop
      exact completes_of_go hend ⟨⟨rfl, rfl, rfl⟩, hfd, hfl⟩
    · obtain ⟨hfd, hfl⟩ := herase hop
      exact completes_of_go hend ⟨⟨rfl, rfl, rfl⟩, hfd, hfl⟩
    · intro bytes hop
      exact completes_of_go (exec_flashOperationEnd true bytes hf hw) ⟨Bool.or_true _, rfl, fun x hx => flashByte_failed s.board bytes hop hx⟩
  case registers =>
    intro off n v s
    refine ⟨fun hk i hi => ?_, fun hk => ⟨fun hn => ⟨?_, ?_⟩, ?_, ?_, ?_⟩⟩
    · simp only [List.mem_cons, List.not_mem_nil, or_false] at hi
      rcases hi with rfl | rfl
      · exact completes_of_go (by rw [exec_hkWrite, hk]; rfl) rfl
      · exact completes_of_go (by rw [exec_hkRead, hk]; rfl) rfl
    · exact completes_of_go (by rw [exec_hkWrite, if_pos hk, if_neg hn]) rfl
    · exact completes_of_go (by rw [exec_hkRead, if_pos hk, if_neg hn]) rfl
    · exact completes_of_go (by rw [exec_hkWrite, if_pos hk, if_pos rfl]) (hkWrite_flashAddr s v)
    · exact completes_of_go (by rw [exec_hkRead, if_pos hk, if_pos rfl, hkValue_flashAddr]) rfl
    · exact completes_of_go (by rw [exec_hkRead, if_pos hk, if_pos rfl, hkValue_input]) rfl
  case address =>
    intro s b i hi
    exact ⟨fun hk hd => completes_of_go (exec_giveAddr hi s) (giveAddr_free b hk hd),
      fun h => completes_of_go (exec_giveAddr hi s) (giveAddr_taken b h)⟩
  case supply =>
    intro s mv
    refine ⟨fun hmv hk => completes_of_go (exec_housekeepingSupplyOn hmv hk) rfl, fun hmv hk => ?_⟩
    refine completes_of_go (exec_housekeepingSupplyOff hmv hk) ⟨rfl, rfl, rfl, rfl, rfl, rfl, rfl, fun hr => ?_, fun hr => ?_⟩
    · rw [if_pos hr]; rfl
    · simp [hr]
  case taps =>
    intro s k x
    refine ⟨fun hr hn hk => ?_, fun h => completes_of_go (exec_jtagTapInstruction_silent x h) rfl⟩
    exact completes_of_go (exec_jtagTapInstruction_held x hr hn hk)
      ⟨tget_tput_same _ _ _, fun j hj => tget_tput_other _ _ hj, rfl, rfl⟩

end Sys2Proof.Board
end

section
/-!
PROOFS. The register blocks (O46): why a read of a bed's register need not leave the table of beds as it was. -/

namespace Sys2Proof.Registers

open Sys2Proof.Machine Sys2Proof.Safety

/-- A package in READY whose table of beds lists bed 0 of pan 0 with the values every unlisted bed has: not the canonical form. -/
def listsResetBed : State := { State.reset with pkg := { st := .ready }, beds := [(0, {})] }

/-- A read of a bed's register writes the bed back, at every offset. -/
theorem exec_bedRead {s : State} {p b off : Nat} (h : regUp s (.bed p b off) = true) :
    exec (.rcRegisterRead (.bed p b off)) s = go (readReg s (.bed p b off)) := by
  have hbar : readBarred s (.bed p b off) = false := rfl
  change execRcRegisterRead (.bed p b off) s = _
  rw [execRcRegisterRead, hbar, h]
  rfl

theorem beds_readReg_bed (s : State) (p b off : Nat) :
    (readReg s (.bed p b off)).beds = tput {} s.beds (bedKey p b) ((s.bed p b).readClear off) := rfl

/-- Refutes O46: the statement quantifies over states whose tables are not canonical. Reading offset 0x30 of a bed, where no register
is, writes the bed back unchanged, and writing a table's default value back drops the entry that listed it: the table of beds differs
although every bed reads as before. -/
theorem not_registersReadClearAndTakeWrites : ¬ Obligations.RegistersReadClearAndTakeWrites := by
  unfold Obligations.RegistersReadClearAndTakeWrites
  rintro ⟨-, hbed, -⟩
  have hup : regUp listsResetBed (.bed 0 0 8) = true := by decide
  obtain ⟨-, -, -, -, -, t, hread, -, hsame⟩ := hbed 0 0 listsResetBed hup (by decide) (by decide) (by decide) (by decide)
  have hup' : regUp listsResetBed (.bed 0 0 0x30) = true := hup
  have ht : readReg listsResetBed (.bed 0 0 0x30) = t := Host.Outcome.next.inj ((exec_bedRead hup').symm.trans hread)
  rw [← ht, beds_readReg_bed] at hsame
  exact absurd hsame (by decide)

end Sys2Proof.Registers
end

section
/-!
PROOFS. Device accesses of cores (O31): updates of one core, a core's command when nothing waits, the parts of a device access, and
what a sent access leaves at its acknowledgement, its timeout and its error response. -/

namespace Sys2Proof.Device

open Sys2Proof.Machine Sys2Proof.Safety Sys2Proof.Laws Sys2Proof.Board

/-! ### Two writes of one key -/

section
variable {α : Type} {d : α}

theorem tins_tins (t : Table α) (k : Nat) (v w : α) : tins (tins t k v) k w = tins t k w := by
  induction t with
  | nil => simp [tins]
  | cons e r ih =>
    obtain ⟨a, b⟩ := e
    rcases Nat.lt_trichotomy k a with h | h | h
    · simp [tins, h]
    · simp [tins, h]
    · have h1 : ¬ k < a := by omega
      have h2 : k ≠ a := by omega
      simp [tins, h1, h2, ih]

theorem tdel_tins (t : Table α) (k : Nat) (v : α) : tdel (tins t k v) k = tdel t k := by
  induction t with
  | nil => simp [tins, tdel]
  | cons e r ih =>
    obtain ⟨a, b⟩ := e
    rcases Nat.lt_trichotomy k a with h | h | h
    · simp [tins, tdel, h]
    · simp [tins, tdel, h]
    · have h1 : ¬ k < a := by omega
      have h2 : k ≠ a := by omega
      simp [tins, tdel, h1, h2, ih, Ne.symm h2]

/-- The second write of a key is the one that counts. Where the first wrote the default this needs the canonical form. -/
theorem tput_tput [DecidableEq α] (t : Table α) (k : Nat) {v : α} (w : α) (h : v ≠ d) : tput d (tput d t k v) k w = tput d t k w := by
  simp only [tput, if_neg h]
  split
  · exact tdel_tins t k v
  · exact tins_tins t k v w
end

/-! ### Updates of one core -/

@[simp] theorem core_updCore_self (s : State) (n : Nat) (f : Core → Core) : (s.updCore n f).core n = f (s.core n) := by
  rw [core_updCore, if_pos rfl]

theorem updCore_updCore (s : State) (n : Nat) (f g : Core → Core) (h : f (s.core n) ≠ {}) :
    (s.updCore n f).updCore n g = s.updCore n (fun c => g (f c)) := by
  have hcore := core_updCore_self s n f
  simp only [State.updCore, State.setCore] at hcore ⊢
  rw [hcore, tput_tput _ _ _ h]

theorem ne_default_of_devLoad {c : Core} {d : DevLoad} (h : c.devLoad = some d) : c ≠ {} := by
  rintro rfl
  exact absurd h (by simp)

/-- From s to t nothing changes but one core. -/
def TouchesCore (n : Nat) (s t : State) : Prop := t = { s with cores := t.cores } ∧ ∀ k, k ≠ n → t.core k = s.core k

theorem TouchesCore.refl (n : Nat) (s : State) : TouchesCore n s s := ⟨rfl, fun _ _ => rfl⟩

theorem TouchesCore.updCore {n : Nat} {s t : State} (h : TouchesCore n s t) (f : Core → Core) : TouchesCore n s (t.updCore n f) := by
  obtain ⟨ht, hk⟩ := h
  refine ⟨congrArg (fun z : State => { z with cores := (t.updCore n f).cores }) ht, fun k hne => ?_⟩
  rw [core_updCore, if_neg hne, hk k hne]

theorem TouchesCore.onlyCore {n : Nat} {s t : State} (h : TouchesCore n s t) : OnlyCore n s t.drawn :=
  ⟨congrArg State.drawn h.1, h.2⟩

/-- From s to t nothing changes but cores and the event log. -/
def CoresAndEvents (s t : State) : Prop := t = { s with cores := t.cores, events := t.events }

theorem CoresAndEvents.updCore {s t : State} (h : CoresAndEvents s t) (n : Nat) (f : Core → Core) : CoresAndEvents s (t.updCore n f) := by
  unfold CoresAndEvents
  exact congrArg (fun z : State => { z with cores := (t.updCore n f).cores }) h

theorem CoresAndEvents.drawn {s t : State} (h : CoresAndEvents s t) :
    t.drawn = { s with cores := t.drawn.cores, events := t.drawn.events, free := s.free + 1 } := by
  unfold CoresAndEvents at h
  exact congrArg State.drawn h

theorem CoresAndEvents.raise {s t : State} (h : CoresAndEvents s t) (e : Event) : CoresAndEvents s (t.raise e) := by
  have h1 : t.raise e = { s with cores := t.cores, events := (t.raise e).events } :=
    (raise_only t e).trans (congrArg (fun z : State => { z with events := (t.raise e).events }) h)
  rw [CoresAndEvents, State.raise_cores]
  exact h1

/-! ### Commands -/

theorem exec_deviceLoad (a : CoreAcc) (s : State) : exec (.deviceLoad a) s = coreCmd a.core (.deviceLoad a) s := rfl
theorem exec_deviceStore (a : CoreAcc) (x : Dword) (s : State) : exec (.deviceStore a x) s = coreCmd a.core (.deviceStore a x) s := rfl

theorem exec_deviceAck_store {s : State} {n page : Nat} {e : FifoEntry} (h : sentStore s n page = some e) :
    exec (.deviceAck n page) s = go (resume (devWrite (forgetSent s n page) e.pa e.data) n) := by
  change execDeviceAck n page s = _
  simp only [execDeviceAck, h]

theorem exec_deviceErrorResponse_store {s : State} {n page : Nat} {e : FifoEntry} (h : sentStore s n page = some e) :
    exec (.deviceErrorResponse n page) s = go (resume (failStore (forgetSent s n page) n e 2) n) := by
  change execDeviceErrorResponse n page s = _
  simp only [execDeviceErrorResponse, h]

/-- A store that timed out was performed or not. -/
theorem exec_deviceAccessTimeout_store {s : State} {n page : Nat} {e : FifoEntry} (h : sentStore s n page = some e) :
    ∃ u, (u = forgetSent s n page ∨ u = devWrite (forgetSent s n page) e.pa e.data)
      ∧ exec (.deviceAccessTimeout n page) s = go (resume (failStore u n e 1) n) := by
  refine ⟨if s.draw 3501 % 2 = 1 then devWrite (forgetSent s n page) e.pa e.data else forgetSent s n page, ?_, ?_⟩
  · split
    · exact Or.inr rfl
    · exact Or.inl rfl
  · change execDeviceAccessTimeout n page s = _
    simp only [execDeviceAccessTimeout, h]

theorem sentLoad_page {s : State} {n pa size : Nat} (h : (s.core n).devSent = some (pa, size)) :
    sentLoad s n (pa / 65536) = some (pa, size) := by
  simp [sentLoad, h]

section
variable {s : State} {n pa size : Nat} (hsent : (s.core n).devSent = some (pa, size)) (hstore : sentStore s n (pa / 65536) = none)
include hsent hstore

theorem exec_deviceAck_load : exec (.deviceAck n (pa / 65536)) s = go (resume (answerPart s n pa size) n) := by
  change execDeviceAck n (pa / 65536) s = _
  simp only [execDeviceAck, hstore, sentLoad_page hsent]

theorem exec_deviceAccessTimeout_load : exec (.deviceAccessTimeout n (pa / 65536)) s = go (resume (failLoad s n pa 1) n) := by
  change execDeviceAccessTimeout n (pa / 65536) s = _
  simp only [execDeviceAccessTimeout, hstore, sentLoad_page hsent]

theorem exec_deviceErrorResponse_load : exec (.deviceErrorResponse n (pa / 65536)) s = go (resume (failLoad s n pa 2) n) := by
  change execDeviceErrorResponse n (pa / 65536) s = _
  simp only [execDeviceErrorResponse, hstore, sentLoad_page hsent]
end

/-! ### A core at which nothing waits -/

theorem coreWaits_false_iff {s : State} {n : Nat} :
    coreWaits s n = false ↔ (s.core n).stall = none ∧ (s.core n).devSent = none ∧ (s.core n).devLoad = none := by
  simp [coreWaits, and_assoc]

theorem retry_idle {s : State} {n : Nat} (h : coreWaits s n = false) : retry s n = s := by
  obtain ⟨hstall, hsent, hload⟩ := coreWaits_false_iff.mp h
  simp [retry, hstall, hsent, hload]

theorem sendable_nil {c : Core} (h : c.fifo = []) : sendable c = none := by simp [sendable, h]

theorem sendDevice_nil {s : State} {n : Nat} (fuel : Nat) (h : (s.core n).fifo = []) : sendDevice fuel s n = s := by
  cases fuel with
  | zero => rfl
  | succ k => simp only [sendDevice, sendable_nil h]

theorem resume_idle {s : State} {n : Nat} (hf : (s.core n).fifo = []) (hw : coreWaits s n = false) : resume s n = s.drawn := by
  rw [resume, sendDevice_nil _ hf, retry_idle hw]

/-- FIFOs without stores to normal memory have nothing to drain. -/
theorem drainSome_none {s : State} (h : ∀ e ∈ s.cores, waitingStores s e.1 = false) : drainSome s = s := by
  unfold drainSome
  have hkeys : ∀ n ∈ s.cores.map Prod.fst, waitingStores s n = false := by simpa using h
  generalize s.cores.map Prod.fst = ks at hkeys
  induction ks with
  | nil => rfl
  | cons k ks ih =>
    rw [List.foldl_cons, if_neg (by simp [hkeys k])]
    exact ih (fun n hn => hkeys n (List.mem_cons_of_mem _ hn))

/-- An instruction of a quiet core that need not wait. -/
theorem coreCmd_quiet {s t : State} {n : Nat} {i : Instr} (hq : Quiet s n) (ht : tryInstr i (issued i (begun i n s)) = some t) :
    coreCmd n i s = go t.drawn := by
  obtain ⟨hruns, hdrained, -, hidle, -⟩ := hq
  simp only [coreCmd, hruns, drainSome_none hdrained, retry_idle hidle, hidle]
  simp only [begun] at ht
  simp [ht]

/-! ### Translation leaves a core but for its TLB -/

theorem core_coreXlat (s : State) (n : Nat) (ctx : CoreCtx) (need : Need) (va i : Nat) :
    ∃ tlb, (coreXlat s n ctx need va i).1.core n = { s.core n with tlb := tlb } := by
  unfold coreXlat
  split
  · refine ⟨(s.core n).tlb, ?_⟩
    simp only
    split_ifs <;> simp
  · next root hroot =>
    refine ⟨(lookup s (s.core n).tlb root ctx.root2 ctx.asid va i).tlb, ?_⟩
    simp only
    split
    · simp
    · split
      · simp
      · split_ifs <;> simp

theorem core_coreSeg (s : State) (n : Nat) (ctx : CoreCtx) (need : Need) (va len i : Nat) :
    ∃ tlb, (coreSeg s n ctx need va len i).1.core n = { s.core n with tlb := tlb } := by
  obtain ⟨tlb, h⟩ := core_coreXlat s n ctx need va i
  refine ⟨tlb, ?_⟩
  unfold coreSeg
  split
  · next s1 c heq => rwa [heq] at h
  · next s1 pa c heq =>
    rw [heq] at h
    split_ifs <;> simpa using h

theorem core_coreSegs (s : State) (n : Nat) (ctx : CoreCtx) (need : Need) (va size : Nat) (pair : Bool) :
    ∃ tlb, (coreSegs s n ctx need va size pair).1.core n = { s.core n with tlb := tlb } := by
  obtain ⟨tlb, h⟩ := core_coreSeg s n ctx need va (min size (4096 - va % 4096)) 3700
  unfold coreSegs
  simp only
  split
  · next s1 e heq =>
    rw [heq] at h
    exact ⟨tlb, h⟩
  · next s1 g heq =>
    rw [heq] at h
    split
    · exact ⟨tlb, h⟩
    · obtain ⟨tlb', h'⟩ := core_coreSeg s1 n ctx need (va + min size (4096 - va % 4096)) (size - min size (4096 - va % 4096)) 3701
      rw [h] at h'
      split
      · next s2 e heq' =>
        rw [heq'] at h'
        exact ⟨tlb', h'⟩
      · next s2 g' heq' =>
        rw [heq'] at h'
        exact ⟨tlb', h'⟩

/-- A core that is quiet has no device load under way once its next access is translated. -/
theorem devSent_coreSegs {s s1 : State} {i : Instr} {n va size : Nat} {ctx : CoreCtx} {need : Need} {r : Except (AbortCause × Nat) (List Seg)}
    (hq : Quiet s n) (h : coreSegs (begun i n s) n ctx need va size = (s1, r)) : (s1.core n).devSent = none := by
  obtain ⟨-, -, -, hidle, -⟩ := hq
  obtain ⟨tlb, hcore⟩ := core_coreSegs (begun i n s) n ctx need va size false
  rw [h, core_updCore_self] at hcore
  rw [hcore]
  exact (coreWaits_false_iff.mp hidle).2.1

/-! ### The parts of a device access (R262) -/

/-- A scalar device access has one part, of the whole size. -/
theorem len_of_device_part {gs : List Seg} {g : Seg} {size : Nat} (hg : g.device = true)
    (h : (if !gs.any Seg.device then gs else wholeWord size gs) = [g]) : g.len = size := by
  cases gs with
  | nil => exact absurd h (by simp)
  | cons f r =>
    cases hf : f.device with
    | true =>
      have h' : [{ f with len := size }] = [g] := by simpa [hf, wholeWord] using h
      rw [← List.head_eq_of_cons_eq h']
    | false =>
      have h' : f :: r = [g] := by simpa [hf, wholeWord] using h
      rw [List.head_eq_of_cons_eq h', hg] at hf
      exact absurd hf (by simp)

theorem len_of_coreSegs {s s1 : State} {n va size : Nat} {ctx : CoreCtx} {need : Need} {g : Seg} (hg : g.device = true)
    (h : coreSegs s n ctx need va size = (s1, .ok [g])) : g.len = size := by
  simp only [coreSegs, Bool.false_eq_true, if_false] at h
  split at h
  · exact absurd (Prod.mk.inj h).2 (by simp)
  · split at h
    · exact len_of_device_part hg (Except.ok.inj (Prod.mk.inj h).2)
    · split at h
      · exact absurd (Prod.mk.inj h).2 (by simp)
      · exact len_of_device_part hg (Except.ok.inj (Prod.mk.inj h).2)

theorem length_leBytes (n v : Nat) : (leBytes n v).length = n := by
  induction n generalizing v with
  | zero => rfl
  | succ k ih => simp [leBytes, ih]

theorem leNat_leBytes (n v : Nat) : leNat (leBytes n v) = v % 256 ^ n := by
  induction n generalizing v with
  | zero => simp [leBytes, leNat, Nat.mod_one]
  | succ k ih =>
    rw [leBytes, leNat, ih, Nat.pow_succ', Nat.mod_mul]
    simp

theorem ofNat_leNat_leBytes (v : Dword) : BitVec.ofNat 64 (leNat (leBytes 8 v.toNat)) = v := by
  have hlt : v.toNat < 256 ^ 8 := v.isLt
  rw [leNat_leBytes, Nat.mod_eq_of_lt hlt, BitVec.ofNat_toNat, BitVec.setWidth_eq]

/-! ### An access at its target (R12) -/

theorem wholeAccess_false {pa n : Nat} (h : n ≠ 8 ∨ pa % 8 ≠ 0) : wholeAccess pa n = false := by
  rcases h with h | h <;> simp [wholeAccess, h]

theorem devRead_partial {s : State} {pa n : Nat} (h : n ≠ 8 ∨ pa % 8 ≠ 0) : devRead s pa n = (s, 0) := by
  simp [devRead, wholeAccess_false h]

theorem devWrite_partial {s : State} {pa : Nat} {bs : List Byte} (h : bs.length ≠ 8 ∨ pa % 8 ≠ 0) : devWrite s pa bs = s := by
  simp [devWrite, wholeAccess_false h]

theorem devRead_reg {s : State} {pa : Nat} {r : Reg} (ha : pa % 8 = 0) (ht : targetOf s pa = .reg r) (hup : regUp s r = true) :
    devRead s pa 8 = (readReg s r, (regValue s r).toNat) := by
  simp [devRead, wholeAccess, ha, ht, hup]

theorem devWrite_reg {s : State} {pa : Nat} {r : Reg} (v : Dword) (ha : pa % 8 = 0) (ht : targetOf s pa = .reg r)
    (hup : regUp s r = true) : devWrite s pa (leBytes 8 v.toNat) = writeReg s r v := by
  have hw : wholeAccess pa (leBytes 8 v.toNat).length = true := by simp [wholeAccess, length_leBytes, ha]
  simp only [devWrite, hw, ht, hup, ofNat_leNat_leBytes]
  rfl

/-- What an address names does not depend on the cores. -/
theorem targetOf_updCore (s : State) (n : Nat) (f : Core → Core) (pa : Nat) : targetOf (s.updCore n f) pa = targetOf s pa := rfl

/-- A read clears registers of one core block alone, and no core's device load. -/
theorem devLoad_regClear (s : State) (r : Reg) (k : Nat) : ((regClear s r).core k).devLoad = (s.core k).devLoad := by
  have clear (c : Core) (off : Nat) : (c.readClear off).devLoad = c.devLoad := by
    unfold Core.readClear
    split_ifs <;> rfl
  cases r with
  | core d c off =>
    change ((s.updCore (24 * d + c) _).core k).devLoad = _
    rw [core_updCore]
    split
    · next h => rw [clear, h]
    · rfl
  | stk off =>
    simp only [regClear, stkClear]
    split <;> rfl
  | evt off =>
    simp only [regClear]
    split <;> rfl
  | netQp i off =>
    simp only [regClear]
    split <;> rfl
  | mboxCtl off =>
    simp only [regClear]
    split <;> rfl
  | pwr off =>
    simp only [regClear, pwrClear, updClocked]
    split_ifs <;> rfl
  | _ => rfl

theorem devLoad_devRead (s : State) (pa size k : Nat) : ((devRead s pa size).1.core k).devLoad = (s.core k).devLoad := by
  unfold devRead
  split
  · rfl
  · split
    · next r _ =>
      split
      · exact devLoad_regClear s r k
      · rfl
    · rfl
    · rfl
    · rfl

/-! ### Aborts and pending errors -/

theorem TouchesCore.takeAbort {n : Nat} {s t : State} (h : TouchesCore n s t) (c : AbortCause) (addr : Nat) :
    TouchesCore n s (takeAbort t n c addr) :=
  h.updCore _

theorem TouchesCore.takePending {n : Nat} {s t : State} (h : TouchesCore n s t) (pa : Nat) : TouchesCore n s (takePending t n pa) :=
  (h.updCore _).takeAbort _ _

theorem core_takeAbort (s : State) (n : Nat) (c : AbortCause) (addr : Nat) : (takeAbort s n c addr).core n =
    { s.core n with abort := some { cause := c, addr := addr }, rsv := none, deferral := none, stall := none } :=
  core_updCore_self ..

theorem core_takePending (s : State) (n pa : Nat) : (takePending s n pa).core n = { s.core n with
    pendingErr := (s.core n).pendingErr.filter (fun p => p ≠ pa / 65536)
    abort := some { cause := .external (s.core n).abtCause, addr := pa }, rsv := none, deferral := none, stall := none } := by
  rw [takePending, core_takeAbort, core_updCore_self]

/-! ### Device stores (R261, R271, R273) -/

/-- A device store of one part: the entry it sends. -/
theorem tryInstr_deviceStore {a : CoreAcc} {x : Dword} {s s1 : State} {g : Seg} (hg : g.device = true)
    (h : coreSegs s a.core a.ctx .w a.va.toNat a.size = (s1, .ok [g])) :
    tryInstr (.deviceStore a x) s = if a.vec then some (takeAbort s1 a.core .memoryType a.va.toNat)
      else deviceStores s1 a.core [{ pa := g.pa, data := leBytes a.size x.toNat, device := true }] := by
  have hentries : storeEntries [g] (leBytes a.size x.toNat) false false =
      [{ pa := g.pa, data := leBytes a.size x.toNat, device := true }] := by
    have htake : (leBytes a.size x.toNat).take g.len = leBytes a.size x.toNat :=
      List.take_of_length_le (by rw [length_leBytes, len_of_coreSegs hg h])
    simp [storeEntries, hg, htake]
  change storeTo a (leBytes a.size x.toNat) false false false s = _
  simp only [storeTo, length_leBytes, h, hentries]
  simp [hg, flushWcLines, segLines]

theorem deviceStores_pending {s : State} {n : Nat} {e : FifoEntry} (h : e.page ∈ (s.core n).pendingErr) :
    deviceStores s n [e] = some (takePending s n e.pa) := by
  simp [deviceStores, h]

/-- The only store of a FIFO leaves when none is sent and its target is there. -/
theorem sendDevice_single {s : State} {n : Nat} {e : FifoEntry} (fuel : Nat) (hf : (s.core n).fifo = [e])
    (ho : (s.core n).outstanding = []) (hd : e.device = true) (hr : e.release = false) (ht : targetOf s e.pa ≠ .absent) :
    ∃ t, sendDevice (fuel + 1) s n = t ∧ t.core n = { s.core n with fifo := [], outstanding := [e] } ∧ TouchesCore n s t := by
  have hsend : sendable (s.core n) = some 0 := by simp [sendable, hf, ho, hd, hr]
  have hget : (s.core n).fifo[0]? = some e := by simp [hf]
  refine ⟨(s.updCore n (fun c => { c with fifo := c.fifo.eraseIdx 0 })).updCore n
    (fun c => { c with outstanding := c.outstanding ++ [e] }), ?_, ?_, ((TouchesCore.refl n s).updCore _).updCore _⟩
  · rw [sendDevice, hsend]
    simp only [hget]
    rw [if_neg ht, sendDevice_nil]
    simp [hf]
  · simp [hf, ho]

/-- With no device store before it and none sent, a device store leaves at once. -/
theorem deviceStores_sent {s : State} {n : Nat} {e : FifoEntry} (hp : e.page ∉ (s.core n).pendingErr) (hf : (s.core n).fifo = [])
    (ho : (s.core n).outstanding = []) (hd : e.device = true) (hr : e.release = false) (ht : targetOf s e.pa ≠ .absent) :
    ∃ t, deviceStores s n [e] = some t ∧ t.core n = { s.core n with outstanding := [e] } ∧ TouchesCore n s t := by
  have hpush : pushFifo s n [e] = some (s.updCore n (fun c => { c with fifo := c.fifo ++ [e] })) := by
    simp [pushFifo, makeRoom, hf, hd, fifoSize]
  obtain ⟨t, hsent, hcore, ht1, ht2⟩ := sendDevice_single (s := s.updCore n (fun c => { c with fifo := c.fifo ++ [e] })) (n := n) 95
    (by simp [hf]) (by simpa using ho) hd hr ht
  have hpushed := (TouchesCore.refl n s).updCore (fun c => { c with fifo := c.fifo ++ [e] })
  refine ⟨t, ?_, ?_, ht1, fun k hk => (ht2 k hk).trans (hpushed.2 k hk)⟩
  · simp only [deviceStores, List.find?_cons, List.find?_nil, List.contains_eq_mem, hp, decide_false, hpush, Option.map_some]
    exact congrArg some hsent
  · rw [hcore, core_updCore_self, ← hf]

end Sys2Proof.Device
end

section
/-!
PROOFS. Device loads of cores, failed device accesses, and what a core does after a sent access (O31). -/

namespace Sys2Proof.Device

open Sys2Proof.Machine Sys2Proof.Safety Sys2Proof.Laws Sys2Proof.Board

/-! ### Device loads (R262, R271, R272) -/

/-- A device load under way, with parts to send. -/
def loading (s : State) (n : Nat) (todo : List (Nat × Nat)) : State := s.updCore n (fun c => { c with devLoad := some { todo := todo } })

/-- The core's last device access is answered: the load is over. -/
def loadOver (s : State) (n : Nat) : State := s.updCore n (fun c => { c with devSent := none, devLoad := none })

theorem core_loading (s : State) (n : Nat) (todo : List (Nat × Nat)) :
    (loading s n todo).core n = { s.core n with devLoad := some { todo := todo } } :=
  core_updCore_self ..

theorem tryInstr_deviceLoad {a : CoreAcc} {s s1 : State} {g : Seg} (hg : g.device = true)
    (h : coreSegs s a.core a.ctx .r a.va.toNat a.size = (s1, .ok [g])) :
    tryInstr (.deviceLoad a) s = if a.vec then some (takeAbort s1 a.core .memoryType a.va.toNat)
      else some (pumpLoad 5 (loading s1 a.core [(g.pa, a.size)]) a.core) := by
  change tryLoad a false s = _
  simp only [tryLoad, h]
  simp [hg, loading, len_of_coreSegs hg h]

/-- The last part's answer ends the load: its bytes join those before it. -/
theorem pumpLoad_gotPart {u : State} {n v size : Nat} {d : DevLoad} (fuel : Nat) (hd : (u.core n).devLoad = some d) (ht : d.todo = []) :
    pumpLoad (fuel + 1) (gotPart u n v size) n = setResult (loadOver u n) n (d.value + 2 ^ (8 * d.bytes) * v) := by
  have hcore : (gotPart u n v size).core n = { u.core n with
      devSent := none
      devLoad := some { d with value := d.value + 2 ^ (8 * d.bytes) * v, bytes := d.bytes + size } } := by
    simp [gotPart, hd]
  have hover : (gotPart u n v size).updCore n (fun c => { c with devLoad := none }) = loadOver u n := by
    refine updCore_updCore u n _ _ (ne_default_of_devLoad (d := ?_) ?_)
    · exact { d with value := d.value + 2 ^ (8 * d.bytes) * v, bytes := d.bytes + size }
    · simp [hd]
  rw [pumpLoad, hcore]
  simp only [ht, hover]

/-- The parts a load has still to send are replaced as it sends one. -/
theorem updCore_loading (s : State) (n : Nat) (todo rest : List (Nat × Nat)) :
    (loading s n todo).updCore n (fun c => { c with devLoad := c.devLoad.map (fun d => { d with todo := rest }) }) = loading s n rest :=
  updCore_updCore s n _ _ (ne_default_of_devLoad rfl)

section
variable {s : State} {n pa size : Nat}

/-- A load of one part goes on as its part does. -/
theorem pumpLoad_loading (fuel : Nat) (hs : (s.core n).devSent = none) (hd : isDevice pa = true) :
    pumpLoad (fuel + 1) (loading s n [(pa, size)]) n =
      let x := pumpPart (loading s n [(pa, size)]) n pa size []
      if x.2 then pumpLoad fuel x.1 n else x.1 := by
  rw [pumpLoad, core_loading]
  simp only [hs, hd, if_true]

/-- A load of a page with a pending error takes it. -/
theorem pumpLoad_pending (fuel : Nat) (hs : (s.core n).devSent = none) (hd : isDevice pa = true)
    (h : pa / 65536 ∈ (s.core n).pendingErr) :
    pumpLoad (fuel + 1) (loading s n [(pa, size)]) n =
      takePending ((loading s n [(pa, size)]).updCore n (fun c => { c with devLoad := none })) n pa := by
  have hpart : pumpPart (loading s n [(pa, size)]) n pa size [] =
      (takePending ((loading s n [(pa, size)]).updCore n (fun c => { c with devLoad := none })) n pa, false) := by
    simp [pumpPart, core_loading, h]
  rw [pumpLoad_loading _ hs hd, hpart]
  rfl

variable (hp : pa / 65536 ∉ (s.core n).pendingErr) (hf : (s.core n).fifo = []) (ho : (s.core n).outstanding = [])
include hp hf ho

/-- A load of an unpopulated window fails at once (R309). -/
theorem pumpLoad_absent (fuel : Nat) (hs : (s.core n).devSent = none) (hd : isDevice pa = true) (ht : targetOf s pa = .absent) :
    pumpLoad (fuel + 1) (loading s n [(pa, size)]) n = failLoad (loading s n [(pa, size)]) n pa 2 := by
  have ht' : targetOf (loading s n [(pa, size)]) pa = .absent := (targetOf_updCore ..).trans ht
  have hpart : pumpPart (loading s n [(pa, size)]) n pa size [] = (failLoad (loading s n [(pa, size)]) n pa 2, false) := by
    simp [pumpPart, core_loading, hp, hf, ho, ht']
  rw [pumpLoad_loading _ hs hd, hpart]
  rfl

/-- A part with no store of its page before it is answered at once, or stays sent. -/
theorem pumpPart_sent (ht : targetOf s pa ≠ .absent) :
    pumpPart (loading s n [(pa, size)]) n pa size [] = (answerPart (loading s n []) n pa size, true)
      ∨ pumpPart (loading s n [(pa, size)]) n pa size [] =
          ((loading s n []).updCore n (fun c => { c with devSent := some (pa, size) }), false) := by
  have ht' : targetOf (loading s n [(pa, size)]) pa ≠ .absent := fun h => ht ((targetOf_updCore ..).symm.trans h)
  simp only [pumpPart, updCore_loading]
  rw [if_neg (by simp [core_loading, hp]), if_neg (by simp [core_loading, hf, ho]), if_neg ht']
  split
  · exact Or.inl rfl
  · exact Or.inr rfl

/-- A device load of one part: sent and not yet answered, or over with the register's value. -/
theorem pumpLoad_sent (fuel : Nat) (hs : (s.core n).devSent = none) (hd : isDevice pa = true) (ht : targetOf s pa ≠ .absent) :
    let u := devRead (loading s n []) pa size
    pumpLoad (fuel + 2) (loading s n [(pa, size)]) n = (loading s n []).updCore n (fun c => { c with devSent := some (pa, size) })
      ∨ pumpLoad (fuel + 2) (loading s n [(pa, size)]) n = setResult (loadOver u.1 n) n u.2 := by
  intro u
  rw [pumpLoad_loading _ hs hd]
  rcases pumpPart_sent (size := size) hp hf ho ht with h | h
  · right
    rw [h]
    have hload : (u.1.core n).devLoad = some { todo := [] } := by rw [devLoad_devRead, core_loading]
    have hend := pumpLoad_gotPart (v := u.2) (size := size) fuel hload rfl
    simpa [answerPart] using hend
  · left
    rw [h]
    rfl
end

/-! ### Failures (R271 to R274) -/

theorem logs_deviceEvent (s : State) (n pa : Nat) : Logs s (deviceEvent s n pa) evDeviceAbort := by
  have hclass : evClass evDeviceAbort 0 ≠ 1 := by decide
  have hcode : evDeviceAbort ≠ evBedFault := by decide
  exact raise_logs s _ hclass hcode

/-- The record of a failure: SYS.ABT_ADDR and SYS.ABT_INFO, unless a record is held. -/
def abortRecord (c : Core) (pa cause : Nat) (store : Bool) (discarded : Nat) : Core :=
  if c.abtValid then c
  else { c with
    abtAddr := pa, abtCause := cause, abtStore := store, abtDeferred := store, abtDiscarded := min discarded 255, abtValid := true }

theorem core_recordDevice (s : State) (n pa cause : Nat) (store : Bool) (discarded : Nat) :
    (recordDevice s n pa cause store discarded).core n = abortRecord (s.core n) pa cause store discarded := by
  rw [recordDevice, core_updCore_self, deviceEvent, State.raise_core]
  rfl

theorem abtValid_abortRecord (c : Core) (pa cause : Nat) (store : Bool) (k : Nat) : (abortRecord c pa cause store k).abtValid = true := by
  unfold abortRecord
  split
  · assumption
  · rfl

/-- A record changes nothing of the core but SYS.ABT_ADDR and SYS.ABT_INFO. -/
theorem abortRecord_frame (c : Core) (pa cause : Nat) (store : Bool) (k : Nat) :
    let r := abortRecord c pa cause store k
    r = { c with abtAddr := r.abtAddr, abtCause := r.abtCause, abtStore := r.abtStore, abtDeferred := r.abtDeferred,
                 abtDiscarded := r.abtDiscarded, abtValid := r.abtValid } := by
  unfold abortRecord
  split <;> rfl

/-- The core as a failed device store leaves it where no FIFO entry follows it. -/
def storeFailed (c : Core) (e : FifoEntry) (cause : Nat) : Core :=
  abortRecord { c with pendingErr := (c.pendingErr ++ [e.page]).eraseDups } e.pa cause true 0

/-- The page's error is pending, nothing sent changes, and the failure is recorded where no record is held. -/
theorem storeFailed_spec (c : Core) (e : FifoEntry) (cause : Nat) :
    let r := storeFailed c e cause
    e.page ∈ r.pendingErr ∧ r.outstanding = c.outstanding
      ∧ (c.abtValid = false → r.abtValid = true ∧ r.abtCause = cause ∧ r.abtAddr = e.pa ∧ r.abtStore = true ∧ r.abtDeferred = true
          ∧ r.abtDiscarded = 0)
      ∧ (c.abtValid = true → r.abtCause = c.abtCause ∧ r.abtAddr = c.abtAddr) := by
  have hmem : e.page ∈ (c.pendingErr ++ [e.page]).eraseDups := by simp
  cases hv : c.abtValid with
  | true => simp only [storeFailed, abortRecord, hv, if_true]; exact ⟨hmem, by simp⟩
  | false => simp only [storeFailed, abortRecord, hv, Bool.false_eq_true, if_false]; exact ⟨hmem, by simp⟩

theorem core_failStore {s : State} {n : Nat} {e : FifoEntry} {cause : Nat} (hf : (s.core n).fifo = []) :
    (failStore s n e cause).core n = storeFailed (s.core n) e cause := by
  have hkeeps (p : FifoEntry → Bool) : (s.core n).fifo.filter p = (s.core n).fifo := by rw [hf, List.filter_nil]
  have hlen : (s.core n).fifo.length = 0 := by rw [hf, List.length_nil]
  rw [failStore, core_recordDevice, core_updCore_self, hkeeps, hkeeps, hlen, storeFailed]

/-- What a failed device store leaves of its core (R271, R274). -/
theorem failStore_spec {s : State} {n : Nat} {e : FifoEntry} {cause : Nat} (hf : (s.core n).fifo = []) :
    let r := (failStore s n e cause).core n
    e.page ∈ r.pendingErr ∧ r.outstanding = (s.core n).outstanding
      ∧ ((s.core n).abtValid = false → r.abtValid = true ∧ r.abtCause = cause ∧ r.abtAddr = e.pa ∧ r.abtStore = true
          ∧ r.abtDeferred = true ∧ r.abtDiscarded = 0)
      ∧ ((s.core n).abtValid = true → r.abtCause = (s.core n).abtCause ∧ r.abtAddr = (s.core n).abtAddr) := by
  rw [core_failStore hf]
  exact storeFailed_spec ..

theorem CoresAndEvents.takeAbort {s t : State} (h : CoresAndEvents s t) (n : Nat) (c : AbortCause) (addr : Nat) :
    CoresAndEvents s (takeAbort t n c addr) :=
  h.updCore n _

theorem CoresAndEvents.recordDevice {s t : State} (h : CoresAndEvents s t) (n pa cause : Nat) (store : Bool) (k : Nat) :
    CoresAndEvents s (recordDevice t n pa cause store k) :=
  (h.raise _).updCore n _

theorem CoresAndEvents.failStore {s t : State} (h : CoresAndEvents s t) (n : Nat) (e : FifoEntry) (cause : Nat) :
    CoresAndEvents s (failStore t n e cause) :=
  (h.updCore n _).recordDevice n _ _ _ _

theorem CoresAndEvents.failLoad {s t : State} (h : CoresAndEvents s t) (n pa cause : Nat) : CoresAndEvents s (failLoad t n pa cause) :=
  ((h.recordDevice n pa cause false 0).updCore n _).takeAbort n _ _

theorem logs_failStore (s : State) (n : Nat) (e : FifoEntry) (cause : Nat) : Logs s (failStore s n e cause) evDeviceAbort :=
  logs_deviceEvent (s.updCore n _) n e.pa

theorem logs_failLoad (s : State) (n pa cause : Nat) : Logs s (failLoad s n pa cause) evDeviceAbort :=
  logs_deviceEvent s n pa

theorem core_failLoad (s : State) (n pa cause : Nat) : (failLoad s n pa cause).core n =
    { abortRecord (s.core n) pa cause false 0 with
      devSent := none, devLoad := none, abort := some { cause := .external cause, addr := pa }, rsv := none, deferral := none
      stall := none } := by
  rw [failLoad, core_takeAbort, core_updCore_self, core_recordDevice]

/-! ### After a sent access -/

theorem coreWaits_congr {s t : State} {n : Nat} (hstall : (t.core n).stall = (s.core n).stall)
    (hsent : (t.core n).devSent = (s.core n).devSent) (hload : (t.core n).devLoad = (s.core n).devLoad) : coreWaits t n = coreWaits s n := by
  simp only [coreWaits, hstall, hsent, hload]

theorem core_forgetSent (s : State) (n page : Nat) : (forgetSent s n page).core n =
    { s.core n with outstanding := (s.core n).outstanding.filter (fun e => e.page ≠ page) } :=
  core_updCore_self ..

/-- A failed store resumes a core at which nothing waits and whose FIFO is empty: nothing more happens. -/
theorem resume_failStore {s : State} {n : Nat} {e : FifoEntry} {cause : Nat} (hf : (s.core n).fifo = []) (hw : coreWaits s n = false) :
    resume (failStore s n e cause) n = (failStore s n e cause).drawn := by
  have hframe := abortRecord_frame { s.core n with pendingErr := ((s.core n).pendingErr ++ [e.page]).eraseDups } e.pa cause true 0
  apply resume_idle
  · rw [core_failStore hf, storeFailed, hframe]
    exact hf
  · rw [← hw]
    apply coreWaits_congr <;> rw [core_failStore hf, storeFailed, hframe]

theorem resume_failLoad {s : State} {n pa cause : Nat} (hf : (s.core n).fifo = []) :
    resume (failLoad s n pa cause) n = (failLoad s n pa cause).drawn := by
  apply resume_idle
  · rw [core_failLoad, abortRecord_frame]
    exact hf
  · rw [coreWaits_false_iff, core_failLoad]
    exact ⟨rfl, rfl, rfl⟩

/-- The answer to the last part of a load resumes a core with an empty FIFO: the load ends. -/
theorem resume_gotPart {u : State} {n v size : Nat} {d : DevLoad} (hf : (u.core n).fifo = []) (hd : (u.core n).devLoad = some d)
    (ht : d.todo = []) : resume (gotPart u n v size) n = (setResult (loadOver u n) n (d.value + 2 ^ (8 * d.bytes) * v)).drawn := by
  have hfifo : ((gotPart u n v size).core n).fifo = [] := by simp [gotPart, hf]
  have hsent : ((gotPart u n v size).core n).devSent.isSome = false := by simp [gotPart]
  have hload : ((gotPart u n v size).core n).devLoad.isSome = true := by simp [gotPart, hd]
  rw [resume, sendDevice_nil _ hfifo, retry, if_neg (by simp [hsent]), if_pos hload, pumpLoad_gotPart 4 hd ht]

/-! ### The obligation -/

/-- A device store of a quiet core (R261, R273). -/
theorem deviceStore_quiet {a : CoreAcc} {x : Dword} {s s1 : State} {g : Seg} (hq : Quiet s a.core) (hg : g.device = true)
    (h : coreSegs (begun (.deviceStore a x) a.core s) a.core a.ctx .w a.va.toNat a.size = (s1, .ok [g])) {t : State}
    (ht : (if a.vec then some (takeAbort s1 a.core .memoryType a.va.toNat)
      else deviceStores s1 a.core [{ pa := g.pa, data := leBytes a.size x.toNat, device := true }]) = some t) :
    exec (.deviceStore a x) s = go t.drawn :=
  (exec_deviceStore a x s).trans (coreCmd_quiet hq ((tryInstr_deviceStore hg h).trans ht))

/-- A device load of a quiet core (R262, R272). -/
theorem deviceLoad_quiet {a : CoreAcc} {s s1 : State} {g : Seg} (hq : Quiet s a.core) (hg : g.device = true)
    (h : coreSegs (begun (.deviceLoad a) a.core s) a.core a.ctx .r a.va.toNat a.size = (s1, .ok [g])) {t : State}
    (ht : (if a.vec then takeAbort s1 a.core .memoryType a.va.toNat
      else pumpLoad 5 (loading s1 a.core [(g.pa, a.size)]) a.core) = t) :
    exec (.deviceLoad a) s = go t.drawn := by
  refine (exec_deviceLoad a s).trans (coreCmd_quiet hq ((tryInstr_deviceLoad hg h).trans ?_))
  rw [← ht]
  split <;> rfl

/-- Settles O31: the core's command reduces to its parts (a pending error, a send, an answer), the sent access to its answer or its
failure, after each of which the core, with an empty FIFO, resumes with nothing to do. -/
theorem deviceAccessesAreSentAnsweredAndFail : Obligations.DeviceAccessesAreSentAnsweredAndFail := by
  unfold Obligations.DeviceAccessesAreSentAnsweredAndFail
  refine ⟨?stores, ?loads, ?targets, ?sentStores, ?sentLoads⟩
  case stores =>
    intro a x s s1 g hq hg hsegs
    refine ⟨fun hv => ?_, fun hv hp => ?_, fun hv hp hf ho ht => ?_⟩
    · have hend := deviceStore_quiet hq hg hsegs (t := takeAbort s1 a.core .memoryType a.va.toNat) (by rw [if_pos hv])
      exact completes_of_go hend ⟨congrArg Core.abort (core_takeAbort ..), ((TouchesCore.refl _ s1).takeAbort _ _).onlyCore⟩
    · have hend := deviceStore_quiet hq hg hsegs (t := takePending s1 a.core g.pa)
        (by rw [hv, if_neg (by decide)]; exact deviceStores_pending hp)
      refine completes_of_go hend ?_
      rw [State.drawn_core, core_takePending]
      exact ⟨rfl, by simp, rfl, ((TouchesCore.refl _ s1).takePending _).onlyCore⟩
    · obtain ⟨t, hsent, hcore, honly⟩ := deviceStores_sent (e := { pa := g.pa, data := leBytes a.size x.toNat, device := true })
        hp hf ho rfl rfl ht
      exact completes_of_go (deviceStore_quiet hq hg hsegs (by rw [hv, if_neg (by decide)]; exact hsent)) ⟨hcore, honly.onlyCore⟩
  case loads =>
    intro a s s1 g hq hg hsegs
    have hidle := devSent_coreSegs hq hsegs
    have hend (hv : a.vec = false) {t : State} (ht : pumpLoad 5 (loading s1 a.core [(g.pa, a.size)]) a.core = t) :
        exec (.deviceLoad a) s = go t.drawn :=
      deviceLoad_quiet hq hg hsegs (by rw [hv, if_neg (by decide)]; exact ht)
    refine ⟨fun hv => ?_, fun hv hp => ?_, fun hv hp hf ho => ⟨fun ht => ?_, fun ht => ?_⟩⟩
    · have hend := deviceLoad_quiet hq hg hsegs (t := takeAbort s1 a.core .memoryType a.va.toNat) (by rw [if_pos hv])
      exact completes_of_go hend ⟨congrArg Core.abort (core_takeAbort ..), ((TouchesCore.refl _ s1).takeAbort _ _).onlyCore⟩
    · refine completes_of_go (hend hv (pumpLoad_pending 4 hidle hg hp)) ⟨?_, ?_⟩
      · rw [State.drawn_core, core_takePending]
        simp [core_loading]
      · exact ((((TouchesCore.refl _ s1).updCore _).updCore _).takePending _).onlyCore
    · refine completes_of_go (hend hv (pumpLoad_absent hp hf ho 4 hidle hg ht)) ?_
      rw [State.drawn_core, core_failLoad]
      exact ⟨rfl, abtValid_abortRecord ..⟩
    · rcases pumpLoad_sent (size := a.size) hp hf ho 3 hidle hg ht with h | h
      · exact completes_of_go (hend hv h) (Or.inl rfl)
      · exact completes_of_go (hend hv h) (Or.inr rfl)
  case targets =>
    intro s pa
    exact ⟨fun n h => ⟨devRead_partial h, fun bs hbs => devWrite_partial (hbs ▸ h)⟩,
      fun r ha ht hup => ⟨devRead_reg ha ht hup, fun v => devWrite_reg v ha ht hup⟩⟩
  case sentStores =>
    intro s n page e hsent hf hw s0
    have hcore : s0.core n = _ := core_forgetSent s n page
    have hf0 : (s0.core n).fifo = [] := by rw [hcore]; exact hf
    have hw0 : coreWaits s0 n = false := by rw [← hw]; apply coreWaits_congr <;> rw [hcore]
    have hvalid0 : (s0.core n).abtValid = (s.core n).abtValid := by rw [hcore]
    have hcause0 : (s0.core n).abtCause = (s.core n).abtCause := by rw [hcore]
    have haddr0 : (s0.core n).abtAddr = (s.core n).abtAddr := by rw [hcore]
    have hs0 : CoresAndEvents s s0 := CoresAndEvents.updCore (t := s) rfl n _
    refine ⟨⟨congrArg Core.outstanding hcore, rfl⟩, fun ⟨hfu, hwu⟩ => ?_, fun i cause ⟨hi, hcause⟩ => ?_, fun ⟨hfu, hwu⟩ => ?_⟩
    · exact completes_of_go (exec_deviceAck_store hsent) (resume_idle hfu hwu)
    · subst hi hcause
      refine completes_of_go ((exec_deviceErrorResponse_store hsent).trans (congrArg go (resume_failStore hf0 hw0))) ?_
      obtain ⟨hpend, hout, hnew, hheld⟩ := failStore_spec (e := e) (cause := 2) hf0
      rw [hvalid0, hcause0, haddr0] at hheld
      rw [hvalid0] at hnew
      exact ⟨(hs0.failStore n e 2).drawn, hpend, hout.trans (congrArg Core.outstanding hcore), logs_failStore s0 n e 2,
        hnew, hheld⟩
    · obtain ⟨u, hu, hexec⟩ := exec_deviceAccessTimeout_store hsent
      obtain ⟨hfu', hwu'⟩ : (u.core n).fifo = [] ∧ coreWaits u n = false := by
        rcases hu with rfl | rfl
        · exact ⟨hf0, hw0⟩
        · exact ⟨hfu, hwu⟩
      refine completes_of_go (hexec.trans (congrArg go (resume_failStore hfu' hwu'))) ?_
      obtain ⟨hpend, -, hnew, -⟩ := failStore_spec (e := e) (cause := 1) hfu'
      refine ⟨hpend, u, hu, (CoresAndEvents.failStore (t := u) rfl n e 1).drawn, fun hv => ?_⟩
      obtain ⟨hvalid, hcause, haddr, -⟩ := hnew hv
      exact ⟨hvalid, hcause, haddr⟩
  case sentLoads =>
    intro s n pa size hsent hstore hf
    refine ⟨fun d hd hdone => ?_, fun i cause hi => ?_⟩
    · intro u hfu hdu
      exact completes_of_go (exec_deviceAck_load hsent hstore) (resume_gotPart hfu hdu hdone)
    · have hexec : exec i s = go (failLoad s n pa cause).drawn := by
        rw [← resume_failLoad hf]
        rcases hi with ⟨rfl, rfl⟩ | ⟨rfl, rfl⟩
        · exact exec_deviceAccessTimeout_load hsent hstore
        · exact exec_deviceErrorResponse_load hsent hstore
      refine completes_of_go hexec ?_
      rw [State.drawn_core, core_failLoad, abortRecord_frame]
      exact ⟨rfl, rfl, rfl, logs_failLoad s n pa cause, (CoresAndEvents.failLoad (t := s) rfl n pa cause).drawn⟩

end Sys2Proof.Device
end

section
/-!
PROOFS. Links and agents that fall silent (O33): what each command leaves, and the package on which the outage of a control die's
module does not leave that die FAILED. -/

namespace Sys2Proof.Links

open Sys2Proof.Machine Sys2Proof.Safety Sys2Proof.Laws Sys2Proof.Board

/-! ### The commands -/

theorem poweredUp_of_ne_off {s : State} (h : s.pkg.st ≠ .off) : poweredUp s = true := decide_eq_true h

theorem exec_laneSpared {s : State} {die link : Nat} (out : Bool) (hup : s.pkg.st ≠ .off) (hlink : linkHere s die link = true) :
    exec (.laneSpared die ⟨link, out⟩) s =
      if sparedLanes s die link out < 2 then
        go (repairEntry (s.note evLaneSpared (linkName die link).1 6 (linkName die link).2 4)
          (laneEntry (linkName die link).1 (linkName die link).2 out))
      else go s := by
  change execLaneSpared die ⟨link, out⟩ s = _
  simp only [execLaneSpared, poweredUp_of_ne_off hup, hlink, Bool.and_self, Bool.true_and, decide_eq_true_eq]

theorem exec_linkOutageTimeout {s : State} {die link : Nat} (hup : s.pkg.st ≠ .off) (hlink : linkHere s die link = true) :
    exec (.linkOutageTimeout ⟨die, link⟩) s =
      go (declareDie (s.note evLinkDead (linkDead die link) 6 (linkName die link).2 0) (linkDead die link)) := by
  change execLinkOutageTimeout ⟨die, link⟩ s = _
  simp only [execLinkOutageTimeout, poweredUp_of_ne_off hup, hlink, Bool.and_self, if_true]

theorem exec_coherenceTimeout {s : State} {agent : Nat} (hup : s.pkg.st ≠ .off) (hagent : agentHere s agent = true) :
    exec (.coherenceTimeout agent) s = go (declareCause s 3 agent 0xFF) := by
  change execCoherenceTimeout agent s = _
  simp only [execCoherenceTimeout, poweredUp_of_ne_off hup, hagent, Bool.and_self, if_true]

/-! ### The die that an outage names (R22, R291) -/

theorem stk_of_linkFar {s : State} {die link k : Nat} (hdie : die / 32 = 3) (h : linkFar s die link = some k) : k = link / 2 := by
  simp only [linkFar, if_pos hdie, Option.ite_none_right_eq_some] at h
  exact (Option.some.inj h.2).symm

/-- Of two stockpile dies the outage names the one of higher index, of any other pair the die that is not the stockpile die. -/
theorem linkDead_eq {s : State} {die link k : Nat} (h : linkFar s die link = some k) :
    linkDead die link = if die / 32 = 3 then dieOfStk (max k (die % 32)) else die := by
  by_cases hdie : die / 32 = 3
  · rw [stk_of_linkFar hdie h]
    simp only [linkDead, linkName, hdie, true_and, if_true, dieOfStk]
    split <;> omega
  · simp [linkDead, linkName, hdie]

/-- The module's far end is a stockpile die, so only a control die's own module names a control die. -/
theorem linkDead_eq_of_ctl {s : State} {die link k : Nat} (h : linkFar s die link = some k) (hctl : linkDead die link / 32 = 4) :
    linkDead die link = die := by
  have hcount : s.cfg.variant.stkDies ≤ 6 := by cases s.cfg.variant <;> decide
  rw [linkDead_eq h] at hctl ⊢
  split at hctl
  case isTrue hdie =>
    have hk : k < s.cfg.variant.stkDies := by
      rw [stk_of_linkFar hdie h]
      simp only [linkFar, if_pos hdie, Option.ite_none_right_eq_some] at h
      exact h.1.1
    unfold dieOfStk at hctl
    omega
  case isFalse hdie => exact if_neg hdie

/-- A control die in service is one of the two. -/
theorem ctl_lt_two_of_linkHere {s : State} {die link : Nat} (h : linkHere s die link = true) (hctl : die / 32 = 4) : die % 32 < 2 := by
  simp only [linkHere, dieHere, if_pos hctl, Bool.and_eq_true, decide_eq_true_eq] at h
  exact h.1.1

/-! ### What the loss of a control die leaves (R409, R480) -/

/-- From s to t the coherence state, the package's state and the states of the control dies stay, and what was logged stays logged. -/
structure KeepsDomain (s t : State) : Prop where
  coh : t.coh = s.coh
  pkg : t.pkg = s.pkg
  dies : t.salter.dies = s.salter.dies
  logged : s.events.queue <+: t.events.queue

namespace KeepsDomain

theorem refl (s : State) : KeepsDomain s s := ⟨rfl, rfl, rfl, List.prefix_rfl⟩

theorem trans {s t u : State} (h : KeepsDomain s t) (g : KeepsDomain t u) : KeepsDomain s u :=
  ⟨g.coh.trans h.coh, g.pkg.trans h.pkg, g.dies.trans h.dies, h.logged.trans g.logged⟩

/-- Transitivity with the later part first, which fixes the state in the middle. -/
theorem after {s t u : State} (g : KeepsDomain t u) (h : KeepsDomain s t) : KeepsDomain s u := h.trans g

theorem updTrust (s : State) (f : Trust → Trust) : KeepsDomain s (s.updTrust f) := ⟨rfl, rfl, rfl, List.prefix_rfl⟩
theorem updTally (s : State) (f : Tally → Tally) : KeepsDomain s (s.updTally f) := ⟨rfl, rfl, rfl, List.prefix_rfl⟩
theorem updBox (s : State) (m : Nat) (f : Mailbox → Mailbox) : KeepsDomain s (s.updBox m f) := ⟨rfl, rfl, rfl, List.prefix_rfl⟩
theorem updPort (s : State) (j : Nat) (f : Port → Port) : KeepsDomain s (s.updPort j f) := ⟨rfl, rfl, rfl, List.prefix_rfl⟩
theorem emit (s : State) (o : Output) : KeepsDomain s (s.emit o) := ⟨rfl, rfl, rfl, List.prefix_rfl⟩

theorem updSalter {s : State} {f : Salter → Salter} (h : (f s.salter).dies = s.salter.dies) : KeepsDomain s (s.updSalter f) :=
  ⟨rfl, rfl, h, List.prefix_rfl⟩

theorem raise (s : State) (e : Event) : KeepsDomain s (s.raise e) := by
  refine ⟨State.raise_coh s e, State.raise_pkg s e, congrArg Salter.dies (State.raise_salter s e), ?_⟩
  simp only [State.raise]
  split
  · exact List.prefix_rfl
  · exact List.prefix_append _ _

theorem note (s : State) (code die part partIndex action : Nat) : KeepsDomain s (s.note code die part partIndex action) := raise s _

theorem extendM (s : State) (i : Nat) (item : List Byte) : KeepsDomain s (extendM s i item) := ⟨rfl, rfl, rfl, List.prefix_rfl⟩

theorem repairEntry (s : State) (body : List Byte) : KeepsDomain s (repairEntry s body) := (extendM _ _ _).after (updTrust s _)

theorem newLiquor (s : State) (slot : Nat) (im : Image) : KeepsDomain s (newLiquor s slot im) :=
  (note _ _ _ _ _ _).after ((extendM _ _ _).after (updTrust s _))

theorem sendControl (s : State) (ident : Dword) (o : Output) : KeepsDomain s (sendControl s ident o) := by
  have hports (ports : List Nat) (f : Port → Port) (s : State) : KeepsDomain s (ports.foldl (fun s j => s.updPort j f) s) := by
    induction ports generalizing s with
    | nil => exact refl s
    | cons j ports ih => exact (ih _).after (updPort s j f)
  unfold Sys2Proof.Machine.sendControl
  split
  · exact refl s
  · dsimp only
    split
    · exact refl s
    · exact (emit _ o).after (hports _ _ s)

theorem replyTo (s : State) (box key : Nat) (ident : Dword) (port : Nat) (image : List Byte) :
    KeepsDomain s (replyTo s box key ident port image) := by
  unfold Sys2Proof.Machine.replyTo
  dsimp only
  split
  · exact (sendControl _ _ _).after (updSalter rfl)
  split
  · exact (emit _ _).after ((updPort _ _ _).after (updSalter rfl))
  · exact updSalter rfl

theorem respond (s : State) (box : Nat) : KeepsDomain s (respond s box) := by
  have hreply : KeepsDomain s (sendReply s box (s.box box).imageBytes) := by
    unfold sendReply
    split
    · exact refl s
    · exact replyTo _ _ _ _ _ _
  unfold Sys2Proof.Machine.respond
  split
  · exact refl s
  · exact (updBox _ _ _).after hreply

theorem finish (s : State) (box status : Nat) (resp : List Byte) : KeepsDomain s (finish s box status resp) :=
  (respond _ _).after ((updBox _ _ _).after (updSalter rfl))

theorem endSwitch (s : State) (status : Nat) : KeepsDomain s (endSwitch s status) := by
  unfold Sys2Proof.Machine.endSwitch
  dsimp only
  split
  · exact (finish _ _ _ _).after ((updSalter rfl).after (updTrust s _))
  · exact (updSalter rfl).after (updTrust s _)

end KeepsDomain

/-- The control die c is FAILED. -/
def failCtl (s : State) (c : Nat) : State := s.updSalter (fun k => { k with dies := tput .online k.dies c .failed })

theorem ctlState_failCtl (s : State) (c d : Nat) : (failCtl s c).ctlState d = if d = c then .failed else s.ctlState d := by
  change tget .online (tput .online s.salter.dies c .failed) d = _
  exact tget_tput _ _ _ _

theorem KeepsDomain.ctlState {s t : State} (h : KeepsDomain s t) (c : Nat) : t.ctlState c = s.ctlState c := by
  rw [State.ctlState, State.ctlState, h.dies]

theorem keepsDomain_standbyLoss (s : State) : KeepsDomain (failCtl s (1 - s.salter.active)) (standbyLoss s) := by
  change KeepsDomain _ (abandonSwitch (failCtl s (1 - s.salter.active)) stUnitFailed)
  unfold abandonSwitch
  split
  · exact KeepsDomain.endSwitch _ _
  · exact KeepsDomain.refl _

theorem keepsDomain_controlDieLoss (s : State) : KeepsDomain (failCtl s s.salter.active) (controlDieLoss s) := by
  unfold controlDieLoss
  extract_lets a s1 s2 s3 s4
  have hover : KeepsDomain s1 s4 := by
    have hlogged : KeepsDomain s1 s2 := (KeepsDomain.repairEntry _ _).after (KeepsDomain.note _ _ _ _ _ _)
    have hactive : KeepsDomain s1 s3 := (KeepsDomain.updTally _ _).after ((KeepsDomain.updSalter rfl).after hlogged)
    exact (KeepsDomain.updTrust _ _).after ((KeepsDomain.updTally _ _).after hactive)
  change KeepsDomain s1 _
  split
  · exact KeepsDomain.refl _
  split
  · split
    · exact (KeepsDomain.endSwitch _ _).after ((KeepsDomain.newLiquor _ _ _).after hover)
    · exact hover
  split
  · exact (KeepsDomain.endSwitch _ _).after hover
  · exact hover

/-- The control die that the model marks FAILED at the loss of die c: the active one, or else the one that is not active. -/
def failedCtl (s : State) (c : Nat) : Nat := if c = s.salter.active then s.salter.active else 1 - s.salter.active

theorem keepsDomain_declareDie {s : State} {die : Nat} (h : die / 32 = 4) :
    KeepsDomain (failCtl s (failedCtl s (die % 32))) (declareDie s die) := by
  rw [declareDie, if_pos h, failedCtl]
  split
  · exact keepsDomain_controlDieLoss s
  · exact keepsDomain_standbyLoss s

/-! ### Events, repair entries and declarations -/

theorem logs_note (s : State) {code : Nat} (die part partIndex action : Nat) (hc : evClass code 0 ≠ 1) (hb : code ≠ evBedFault) :
    Logs s (s.note code die part partIndex action) code :=
  raise_logs s _ hc hb

theorem coh_declareCause (s : State) (cause agent die : Nat) :
    (declareCause s cause agent die).coh = { s.coh with declared := s.coh.declared ++ [(cause, agent, die)] } := rfl

theorem repair_repairEntry (s : State) (body : List Byte) : (repairEntry s body).trust.repair =
    s.trust.repair ++ [((s.trust.repair.getLast?.map Prod.fst).getD 0 + 1, body)] := rfl

theorem events_repairEntry (s : State) (body : List Byte) : (repairEntry s body).events = s.events := rfl

/-- After an event a repair entry changes the records of the crust alone. -/
theorem repairEntry_only {s u : State} (h : u = { s with events := u.events }) (body : List Byte) :
    repairEntry u body = { s with trust := (repairEntry u body).trust, events := u.events } :=
  congrArg (fun v : State => { v with trust := (repairEntry u body).trust }) h

/-- After an event a declaration changes the coherence state alone. -/
theorem declareCause_only {s u : State} (h : u = { s with events := u.events }) (cause agent die : Nat) :
    declareCause u cause agent die = { s with coh := (declareCause u cause agent die).coh, events := u.events } :=
  congrArg (fun v : State => { v with coh := (declareCause u cause agent die).coh }) h

theorem note_linkDead_logged (s : State) (die part : Nat) :
    ∃ e ∈ (s.note evLinkDead die 6 part 0).events.queue, e.code = evLinkDead ∧ e.die = die :=
  ⟨_, List.mem_append_right _ (List.mem_singleton_self _), rfl, rfl⟩

/-! ### Each command by its case -/

/-- After the outage of a control die's module the coherence state and the package's state are as before, the record is logged, and
one control die is FAILED: the one that `failedCtl` says. -/
theorem completes_linkOutage_ctl {s : State} {die link k : Nat} (hup : s.pkg.st ≠ .off) (hlink : linkHere s die link = true)
    (hfar : linkFar s die link = some k) (hctl : linkDead die link / 32 = 4) :
    Completes (.linkOutageTimeout ⟨die, link⟩) s (fun t => t.coh = s.coh ∧ t.pkg = s.pkg
      ∧ (∀ c, t.ctlState c = if c = failedCtl s (die % 32) then .failed else s.ctlState c)
      ∧ ∃ e ∈ t.events.queue, e.code = evLinkDead ∧ e.die = die) := by
  have hdead := linkDead_eq_of_ctl hfar hctl
  refine completes_of_go (exec_linkOutageTimeout hup hlink) ?_
  rw [hdead] at hctl ⊢
  have hkeep := keepsDomain_declareDie (s := s.note evLinkDead die 6 (linkName die link).2 0) hctl
  obtain ⟨e, he, hcode, hdie⟩ := note_linkDead_logged s die (linkName die link).2
  refine ⟨hkeep.coh.trans (State.note_coh ..), hkeep.pkg.trans (State.note_pkg ..), fun c => ?_, e, hkeep.logged.subset he, hcode, hdie⟩
  rw [hkeep.ctlState, ctlState_failCtl, failedCtl, failedCtl, State.ctlState, State.note_salter, ← State.ctlState]

theorem completes_linkReplay (die link : Nat) (s : State) : Completes (.linkReplay die link) s (fun t => t = s) := ⟨s, rfl, rfl⟩

theorem laneEntry_eq (die link : Nat) (out : Bool) :
    laneEntry die link out = leBytes 1 8 ++ leBytes 1 die ++ leBytes 1 link ++ leBytes 1 (if out then 1 else 0) := by
  cases out <;> rfl

/-- A lane with a spare left is recorded and logged, and nothing else changes (R21, R477, R478). -/
theorem completes_laneSpared {s : State} {die link : Nat} {out : Bool} (hup : s.pkg.st ≠ .off) (hlink : linkHere s die link = true)
    (hleft : sparedLanes s die link out < 2) :
    let x := linkName die link
    Completes (.laneSpared die ⟨link, out⟩) s (fun t =>
      t.trust.repair = s.trust.repair ++ [((s.trust.repair.getLast?.map Prod.fst).getD 0 + 1,
          leBytes 1 8 ++ leBytes 1 x.1 ++ leBytes 1 x.2 ++ leBytes 1 (if out then 1 else 0))]
        ∧ Logs s t evLaneSpared ∧ t = { s with trust := t.trust, events := t.events }) := by
  intro x
  refine completes_of_go ((exec_laneSpared out hup hlink).trans (if_pos hleft)) ⟨?_, ?_, ?_⟩
  · rw [← laneEntry_eq, repair_repairEntry, State.note_trust]
  · rw [Logs, events_repairEntry]
    exact logs_note s _ _ _ _ (by decide) (by decide)
  · exact repairEntry_only (note_only s _ _ _ _ _) _

theorem completes_laneSpared_none_left {s : State} {die link : Nat} {out : Bool} (hup : s.pkg.st ≠ .off)
    (hlink : linkHere s die link = true) (hleft : 2 ≤ sparedLanes s die link out) :
    Completes (.laneSpared die ⟨link, out⟩) s (fun t => t = s) :=
  completes_of_go ((exec_laneSpared out hup hlink).trans (if_neg (Nat.not_lt.mpr hleft))) rfl

/-- The outage of a module whose dead die is no control die declares that die dead (R291). -/
theorem completes_linkOutage_die {s : State} {die link : Nat} (hup : s.pkg.st ≠ .off) (hlink : linkHere s die link = true)
    (hdead : linkDead die link / 32 ≠ 4) :
    Completes (.linkOutageTimeout ⟨die, link⟩) s (fun t =>
      t.coh = { s.coh with declared := s.coh.declared ++ [(4, 0xFF, linkDead die link)] } ∧ Logs s t evLinkDead
        ∧ t = { s with coh := t.coh, events := t.events }) := by
  refine completes_of_go ((exec_linkOutageTimeout hup hlink).trans (congrArg go (if_neg hdead))) ⟨?_, ?_, ?_⟩
  · rw [coh_declareCause, State.note_coh]
  · exact logs_note s _ _ _ _ (by decide) (by decide)
  · exact declareCause_only (note_only s _ _ _ _ _) _ _ _

/-- Where the active control die is one of the two (R399), the die whose module fails is the one that is FAILED. -/
theorem completes_linkOutage_failsDie {s : State} {die link k : Nat} (hup : s.pkg.st ≠ .off) (hlink : linkHere s die link = true)
    (hfar : linkFar s die link = some k) (hctl : linkDead die link / 32 = 4) (hactive : s.salter.active < 2) :
    Completes (.linkOutageTimeout ⟨die, link⟩) s (fun t => t.coh = s.coh ∧ t.ctlState (linkDead die link % 32) = .failed
      ∧ t.pkg.st = s.pkg.st ∧ ∃ e ∈ t.events.queue, e.code = evLinkDead ∧ e.die = linkDead die link) := by
  obtain ⟨t, ht, hcoh, hpkg, hstate, hlog⟩ := completes_linkOutage_ctl hup hlink hfar hctl
  have hdead := linkDead_eq_of_ctl hfar hctl
  have hfailed : die % 32 = failedCtl s (die % 32) := by
    have hlt := ctl_lt_two_of_linkHere hlink (hdead ▸ hctl)
    unfold failedCtl
    split <;> omega
  rw [hdead]
  exact ⟨t, ht, hcoh, (hstate _).trans (if_pos hfailed), congrArg Package.st hpkg, hlog⟩

theorem completes_coherenceTimeout {s : State} {agent : Nat} (hup : s.pkg.st ≠ .off) (hagent : agentHere s agent = true) :
    Completes (.coherenceTimeout agent) s (fun t =>
      t = { s with coh := { s.coh with declared := s.coh.declared ++ [(3, agent, 0xFF)] } }) :=
  completes_of_go (exec_coherenceTimeout hup hagent) rfl

/-! ### The obligation -/

/-- A package in READY whose register of the active control die reads 2, a number that no control die has. -/
def activeTwo : State := { State.reset with pkg := { st := .ready }, salter := { active := 2 } }

/-- Refutes O33: the statement puts no bound on the number of the active control die, which R399 holds in one bit and the model in a
natural number. With the number 2 the outage of control die 1's module takes die 1 for the standby, the standby is die 1 - 2 = 0, and so
die 0 is FAILED in its place and die 1 stays ONLINE. This is the only fault: for an active die 0 or 1 the clause holds
(`completes_linkOutage_failsDie`), and the other clauses hold in every state (`completes_linkReplay`, `completes_laneSpared`,
`completes_laneSpared_none_left`, `completes_linkOutage_die` with `linkDead_eq`, `completes_coherenceTimeout`). -/
theorem not_linksReplaySpareAndDeclareDeadUnits : ¬ Obligations.LinksReplaySpareAndDeclareDeadUnits := by
  unfold Obligations.LinksReplaySpareAndDeclareDeadUnits
  rintro ⟨-, -, houtage, -⟩
  have hup : activeTwo.pkg.st ≠ .off := by decide
  have hlink : linkHere activeTwo 129 0 = true := by decide
  have hfar : linkFar activeTwo 129 0 = some 3 := by decide
  obtain ⟨t, ht, -, hfailed, -⟩ := (houtage 129 0 3 activeTwo hup hlink hfar).2 (by decide)
  obtain ⟨u, hu, -, -, hstate, -⟩ := completes_linkOutage_ctl hup hlink hfar (by decide)
  have hut : u = t := Host.Outcome.next.inj (hu.symm.trans ht)
  have honline : u.ctlState 1 = .online := hstate 1
  rw [hut] at honline
  exact absurd (honline.symm.trans hfailed) (by decide)

end Sys2Proof.Links
end

section
/-!
PROOFS. One step of the block (O1) and what reset leaves (O2). -/

namespace Sys2Proof.Stepping

open Sys2Proof.Machine Sys2Proof.Safety

/-! ### Package time passes (R33, R35) -/

theorem passTime_steady {s : State} (h : s.time.slew = 0) : passTime s = { s with now := s.now + 1 } := by
  simp [passTime, h]

theorem passTime_between {s : State} (h : s.time.slew ≠ 0) (hacc : s.time.slewAcc < 99999) :
    passTime s = { s with now := s.now + 1, time := { s.time with slewAcc := s.time.slewAcc + 1 } } := by
  simp [passTime, h, hacc]

/-- The last of 100,000 ns is two long, or none, by the sign of what is to be slewed. -/
theorem passTime_corrects {s : State} (h : s.time.slew ≠ 0) (hacc : 99999 ≤ s.time.slewAcc) :
    ((passTime s).now : Int) = s.now + 1 + s.time.slew.sign
      ∧ passTime s = { s with now := (passTime s).now, time := { s.time with slewAcc := 0, slew := s.time.slew - s.time.slew.sign } } := by
  have hfull : ¬ s.time.slewAcc < 99999 := Nat.not_lt.mpr hacc
  rcases Int.lt_or_gt_of_ne h with hneg | hpos
  · simp [passTime, h, hfull, hneg, Int.sign_eq_neg_one_of_neg hneg]
  · simp only [passTime, h, hfull, Int.not_lt.mpr (Int.le_of_lt hpos), Int.sign_eq_one_of_pos hpos, if_false]
    exact ⟨by push_cast; omega, trivial⟩

/-! ### The block idle -/

theorem turns_of_drainOver {s : State} (h : drainOver s = true) : turns s = [.drain] := by
  simp only [drainOver, Bool.and_eq_true, decide_eq_true_eq] at h
  simp [turns, h.1]

theorem pkg_passTime (s : State) : (passTime s).pkg = s.pkg := by
  simp only [passTime]
  split
  · rfl
  split
  · rfl
  split <;> rfl

/-- What a step on an empty queue does once its nanosecond has passed. -/
theorem idle_cases (s : State) :
    idle s = (passTime s).drawn ∨ (∃ u ∈ turns (passTime s), idle s = (runTurn (passTime s) u).drawn)
      ∨ (s.pkg.st ≠ .off ∧ ∃ c, idle s = (runChance (passTime s) c).drawn) := by
  unfold idle
  extract_lets s1 ts
  split
  case isTrue hover => exact .inr (.inl ⟨.drain, by simp [s1, turns_of_drainOver hover], rfl⟩)
  case isFalse =>
    split
    · exact .inl rfl
    · split
      case h_1 u hu => exact .inr (.inl ⟨u, List.mem_of_getElem? hu, rfl⟩)
      case h_2 => exact .inl rfl
    · split
      case isTrue hup =>
        have hoff : s.pkg.st ≠ .off := by
          rw [← pkg_passTime s]
          exact of_decide_eq_true hup
        exact .inr (.inr ⟨hoff, _, rfl⟩)
      case isFalse => exact .inl rfl

/-- Settles O1: the equations of a step on each queue, with the cases of the idle block and of the servo's slew. -/
theorem stepRunsTheFrontCommand : Obligations.StepRunsTheFrontCommand := by
  unfold Obligations.StepRunsTheFrontCommand
  refine ⟨fun c rest s => rfl, fun s hempty => ⟨idle s, ?_, idle_cases s⟩, fun s => passTime_steady, fun s => passTime_between,
    fun s => passTime_corrects⟩
  simp [step, hempty]

/-! ### Reset -/

/-- Settles O2: no table of the reset state lists a unit, so each reads as its type's default. -/
theorem resetLeavesTheManualsValues : Obligations.ResetLeavesTheManualsValues := by
  unfold Obligations.ResetLeavesTheManualsValues
  have hpan (p : Nat) : State.reset.pan p = {} := rfl
  have hcore (n : Nat) : State.reset.core n = {} := rfl
  have hdie (d : Nat) : State.reset.coreDie d = {} := rfl
  have hbox (m : Nat) : State.reset.box m = {} := rfl
  refine ⟨rfl, rfl, rfl, rfl, fun p => ?_, fun n => ?_, fun d => ?_, rfl, rfl, rfl, fun m => ?_, rfl, rfl, rfl, rfl, rfl, rfl, rfl⟩
  · rw [hpan p]
    exact ⟨rfl, rfl, rfl, rfl⟩
  · rw [hcore n]
    exact ⟨rfl, rfl, rfl, rfl⟩
  · rw [hdie d]
  · rw [hbox m]
    exact ⟨rfl, rfl, rfl⟩

end Sys2Proof.Stepping
end

section
/-!
PROOFS. The time base: the lock states and the messages that move them (O3), TIDE_IN and the copies of package time (O4). -/

namespace Sys2Proof.Clock

open Sys2Proof.Machine Sys2Proof.Safety Sys2Proof.Laws Sys2Proof.Board Sys2Proof.Links

/-! ### The lock states (R32, R33, R36) -/

/-- A note of the time base joins the records that wait to be written and changes the event log alone. -/
theorem note_clock (s : State) (code die : Nat) (hc : evClass code 0 ≠ 1) (hb : code ≠ evBedFault) :
    ∃ e : Event, e.code = code ∧ e.time = s.now
      ∧ s.note code die 0 0 0 = { s with events := { s.events with queue := s.events.queue ++ [e] } } := by
  obtain ⟨e, he, hcode, htime⟩ := logs_note s die 0 0 0 hc hb
  refine ⟨e, hcode, htime, ?_⟩
  rw [← he]
  exact note_only s _ _ _ _ _

/-- A command that writes the time base and logs one note completes with what holds of the state it leaves. -/
theorem completes_of_note {c : Instr} {s u : State} {code die : Nat} {P : State → Prop} (h : exec c s = go (u.note code die 0 0 0))
    (hc : evClass code 0 ≠ 1) (hb : code ≠ evBedFault)
    (hP : ∀ e : Event, e.code = code → e.time = u.now → P { u with events := { u.events with queue := u.events.queue ++ [e] } }) :
    Completes c s P := by
  obtain ⟨e, hcode, htime, hnote⟩ := note_clock u code die hc hb
  exact completes_of_go (hnote ▸ h) (hP e hcode htime)

/-- The end of three Sync intervals after the last valid Sync. -/
def syncDue (s : State) : Nat := s.time.lastSync + 3 * syncInterval s.time.syncLog

theorem exec_syncTimeout {s : State} (hup : timeUp s = true) :
    exec .syncTimeout s =
      match s.time.lock with
      | .locked => go (enterHoldover (s.reach (syncDue s)))
      | .acquiring => go (enterFree (s.reach (syncDue s)))
      | .holdover => go ((s.reach (syncDue s)).updTime (fun t => { t with goodSyncs := 0 }))
      | .free => go s := by
  change execSyncTimeout s = _
  cases hlock : s.time.lock <;> simp only [execSyncTimeout, hup, hlock, syncDue] <;> rfl

theorem exec_holdoverLimit {s : State} (h : s.time.lock = .holdover) :
    exec .holdoverLimit s = go (enterFree (s.reach (s.time.holdoverAt + s.cfg.holdoverMs * 1000000))) := by
  change execHoldoverLimit s = _
  rw [execHoldoverLimit, if_pos h]

/-! ### PTP messages (R30, R31) -/

/-- The frame that carried a message is counted. -/
def heard (m : PtpMsg) (s : State) : State := s.updPort m.port (fun p => { p with rx := satAdd 32 p.rx 1 })

theorem heard_only (m : PtpMsg) (s : State) : heard m s = { s with ports := (heard m s).ports } := rfl

/-- An authenticated message of the package's domain, on a candidate port, over a supported transport. -/
abbrev Accepts (m : PtpMsg) (s : State) : Prop :=
  (s.port m.port).link = true ∧ timeUp s = true ∧ m.authOk = true ∧ m.domain = s.cfg.ptpDomain
    ∧ (s.cfg.ptpPorts.take 4).contains m.port = true ∧ m.transport ≠ .other

theorem exec_ptpMessage {m : PtpMsg} {s : State} (h : Accepts m s) : exec (.ptpMessage m) s = go (takePtp (heard m s) m) := by
  obtain ⟨hlink, hup, hauth, hdom, hport, htr⟩ := h
  change execPtpMessage m s = _
  rw [execPtpMessage, if_neg (by simp [hlink, hup]), if_neg (by simp [hauth]), if_neg]
  · rfl
  · rintro (h | h | h)
    · exact h hdom
    · rw [hport] at h
      exact absurd h (by decide)
    · exact htr h

/-- A message that is not for this package's time base leaves with its frame counted; an ARB Announce is ignored wherever it arrives. -/
theorem exec_ptpMessage_arb {m : PtpMsg} {s : State} (hlink : (s.port m.port).link = true) (hup : timeUp s = true)
    (hauth : m.authOk = true) (hkind : m.kind = .announce) (harb : m.arb = true) : exec (.ptpMessage m) s = go (heard m s) := by
  change execPtpMessage m s = _
  have htake (u : State) : takePtp u m = u := by simp only [takePtp, hkind, harb, if_true]
  rw [execPtpMessage, if_neg (by simp [hlink, hup]), if_neg (by simp [hauth])]
  simp only [htake, ite_self]
  rfl

theorem exec_ptpMessage_dropped {m : PtpMsg} {s : State} (hlink : (s.port m.port).link = true) (hup : timeUp s = true)
    (hauth : m.authOk = false) (hsec : (s.port m.port).macsec = false) :
    exec (.ptpMessage m) s = go ((heard m s).updPort m.port (fun p => { p with dropCtl := satAdd 16 p.dropCtl 1 })) := by
  change execPtpMessage m s = _
  rw [execPtpMessage, if_neg (by simp [hlink, hup]), if_pos (by simp [hauth, hsec])]
  rfl

/-- The servo takes an offset into the register; beside it only the slew or package time changes. -/
theorem steer_frame (s : State) (off : Int) :
    steer s off = { s with now := (steer s off).now, time := { s.time with offset := BitVec.ofInt 32 off, slew := (steer s off).time.slew } } := by
  simp only [steer]
  split
  · rfl
  split <;> rfl

/-- What a valid Sync of the selected master leaves (R32, R33). -/
theorem takeSync_spec (m : PtpMsg) (s : State) (hfree : s.time.lock = .free) :
    let t := takeSync s m
    t.time.lock = .acquiring ∧ t.time.lastSync = s.now ∧ t.time.offset = BitVec.ofInt 32 (m.offsetNs - tget 0 s.time.pathDelay m.port)
      ∧ t.out = .ptpDelayRequest m.port (s.cfg.ptpPeer.contains m.port) :: s.out
      ∧ t = { s with time := t.time, now := t.now, out := t.out } := by
  simp only [takeSync, askDelay]
  rw [steer_frame]
  refine ⟨?_, rfl, rfl, rfl, rfl⟩
  change (if s.time.lock = .free then Lock.acquiring else s.time.lock) = .acquiring
  rw [if_pos hfree]

/-- A one-step Sync of the selected master, or the Follow_Up that its two-step Sync waits for, is a valid Sync. -/
theorem takePtp_valid {m : PtpMsg} {s : State} (hmaster : s.time.master = some m.master)
    (h : m.kind = .sync ∧ m.twoStep = false ∧ -7 ≤ m.logSync ∧ m.logSync ≤ 0
      ∨ m.kind = .followUp ∧ s.time.syncOpen = some (m.port, m.master, m.seq)) :
    ∃ log, takePtp s m = takeSync s { m with logSync := log } := by
  rcases h with ⟨hkind, htwo, hlo, hhi⟩ | ⟨hkind, hopen⟩
  · refine ⟨m.logSync, ?_⟩
    change _ = takeSync s m
    simp [takePtp, hkind, hmaster, htwo, Int.not_lt.mpr hlo, Int.not_lt.mpr hhi]
  · exact ⟨s.time.syncLog, by simp [takePtp, hkind, hmaster, hopen]⟩

theorem takePtp_twoStep {m : PtpMsg} {s : State} (hmaster : s.time.master = some m.master) (hkind : m.kind = .sync)
    (htwo : m.twoStep = true) (hlo : -7 ≤ m.logSync) (hhi : m.logSync ≤ 0) :
    takePtp s m = { s with time := { s.time with syncOpen := some (m.port, m.master, m.seq), syncLog := m.logSync } } := by
  simp [takePtp, hkind, hmaster, htwo, Int.not_lt.mpr hlo, Int.not_lt.mpr hhi, State.updTime]

/-- A delay response of the port's own mechanism sets the port's path delay (R30). -/
theorem takePtp_delay {m : PtpMsg} {s : State} (hmaster : s.time.master = some m.master)
    (hkind : m.kind = if s.cfg.ptpPeer.contains m.port then .pdelayResp else .delayResp) :
    takePtp s m = { s with time := { s.time with pathDelay := tput 0 s.time.pathDelay m.port m.offsetNs } } := by
  cases hpeer : s.cfg.ptpPeer.contains m.port
  all_goals
    rw [hpeer] at hkind
    simp only [Bool.false_eq_true, if_false, if_true] at hkind
    simp only [takePtp, hkind, hmaster, hpeer, decide_true, Bool.not_false, Bool.and_self, if_true, State.updTime]

/-- The masters heard once a message is. -/
abbrev mastersAfter (m : PtpMsg) (s : State) : List Master := hearMaster s.time.masters ⟨m.master, m.rank, m.port⟩

/-- Another master than the selected one is the best of those heard: what its selection does to the lock state (R33). -/
theorem selectMaster_other {s : State} (hhad : s.time.master.isSome = true)
    (hbest : (bestMaster s.time.masters).map Master.id ≠ s.time.master) :
    let t := selectMaster s
    t.time.master = (bestMaster s.time.masters).map Master.id
      ∧ (s.time.lock = .locked → t.time.lock = .holdover ∧ Logs s t evHoldover)
      ∧ (s.time.lock = .acquiring → t.time.lock = .acquiring ∧ t.time.goodSyncs = 0)
      ∧ t = { s with time := t.time, events := t.events } := by
  have hhad' : ¬ (!s.time.master.isSome) = true := by simp [hhad]
  simp only [selectMaster, if_neg hbest, if_neg hhad']
  cases hlock : s.time.lock
  case locked =>
    have hlogs := logs_note (s.updTime (fun t =>
      { t with master := (bestMaster s.time.masters).map Master.id, lock := .holdover, holdoverAt := s.now, goodSyncs := 0 }))
      (code := evHoldover) 0xFF 0 0 0 (by decide) (by decide)
    refine ⟨by simp [enterHoldover], fun _ => ⟨by simp [enterHoldover], hlogs⟩, fun h => absurd h (by decide), ?_⟩
    rw [enterHoldover, note_only]
    rfl
  case acquiring => exact ⟨rfl, fun h => absurd h (by decide), fun _ => ⟨hlock, rfl⟩, rfl⟩
  case holdover => exact ⟨rfl, fun h => absurd h (by decide), fun h => absurd h (by decide), rfl⟩
  case free => exact ⟨rfl, fun h => absurd h (by decide), fun h => absurd h (by decide), rfl⟩

/-- The state in which the master of an Announce is heard. -/
def announced (m : PtpMsg) (s : State) : State := (heard m s).updTime (fun t => { t with masters := mastersAfter m s })

theorem takePtp_announce {m : PtpMsg} (s : State) (hkind : m.kind = .announce) (harb : m.arb = false) :
    takePtp (heard m s) m = selectMaster (announced m s) := by
  simp only [takePtp, hkind, harb, Bool.false_eq_true, if_false]
  rfl

/-- Settles O3: each command's equation in the case its clause names. -/
theorem lockStateMovesByTheTable : Obligations.LockStateMovesByTheTable := by
  unfold Obligations.LockStateMovesByTheTable
  refine ⟨?_, ?_, ?_, ?_, ?_, ?_, ?_, ?_, ?_, ?_⟩
  · intro s hgood hlock
    change execPtpLocked s = _
    rw [execPtpLocked, if_pos ⟨hgood, hlock⟩]
    rfl
  · intro s hup hlock
    have hexec := exec_syncTimeout hup
    rw [hlock] at hexec
    exact completes_of_note hexec (by decide) (by decide) (fun e hcode htime => ⟨rfl, rfl, ⟨e, rfl, hcode, htime⟩, rfl⟩)
  · intro s hup hlock
    have hexec := exec_syncTimeout hup
    rw [hlock] at hexec
    exact completes_of_note hexec (by decide) (by decide) (fun e hcode htime => ⟨rfl, rfl, ⟨e, rfl, hcode, htime⟩, rfl⟩)
  · intro s hup hlock
    have hexec := exec_syncTimeout hup
    rw [hlock] at hexec
    exact hexec
  · intro s hlock
    refine completes_of_note (exec_holdoverLimit hlock) (by decide) (by decide) (fun e hcode htime => ?_)
    exact ⟨rfl, rfl, by simp [State.updTime, State.reach], by simp [hcode], rfl⟩
  · intro m s hlink hup hauth hdom hport htr hsync hmaster hfree
    obtain ⟨log, htake⟩ := takePtp_valid (m := m) (s := heard m s) hmaster hsync
    obtain ⟨hlock, hlast, hoff, hout, honly⟩ := takeSync_spec { m with logSync := log } (heard m s) hfree
    refine completes_of_go (exec_ptpMessage ⟨hlink, hup, hauth, hdom, hport, htr⟩) ?_
    rw [htake]
    refine ⟨hlock, hlast, hoff, hout, honly.trans ?_⟩
    rw [honly]
    rfl
  · intro m s hlink hup hauth hdom hport htr hmaster
    have hexec := exec_ptpMessage ⟨hlink, hup, hauth, hdom, hport, htr⟩
    refine ⟨fun hkind htwo hlo hhi => ?_, fun hkind => ?_⟩
    · rw [takePtp_twoStep (s := heard m s) hmaster hkind htwo hlo hhi] at hexec
      exact completes_of_go hexec rfl
    · rw [takePtp_delay (s := heard m s) hmaster hkind] at hexec
      exact completes_of_go hexec rfl
  · intro m s hlink hup hauth hdom hport htr hkind harb hhad hbest
    have hexec := exec_ptpMessage ⟨hlink, hup, hauth, hdom, hport, htr⟩
    rw [takePtp_announce s hkind harb] at hexec
    obtain ⟨hmaster, hlocked, hacq, honly⟩ := selectMaster_other (s := announced m s) hhad hbest
    refine completes_of_go hexec ⟨hmaster, hlocked, hacq, honly.trans ?_⟩
    rw [honly]
    rfl
  · intro m s hlink hup hauth hkind harb
    exact completes_of_go (exec_ptpMessage_arb hlink hup hauth hkind harb) (heard_only m s)
  · intro m s hlink hup hauth hsec
    refine completes_of_go (exec_ptpMessage_dropped hlink hup hauth hsec) ⟨?_, rfl⟩
    simp [heard]

/-! ### TIDE_IN (R38, R39) and the copies of package time (R37) -/

theorem exec_tideInEdge {s : State} (e : Nat) (hup : timeUp s = true) (hcfg : s.cfg.tideIn = true) :
    exec (.tideInEdge e) s =
      match edgeTickOf s e with
      | none => go (if s.time.tideIn then s.reach e else (s.reach e).updTime (fun t => { t with goodEdges := 0 }))
      | some n =>
        if s.time.tideIn then
          go ((s.reach e).updTime (fun t => { t with edgeTick := some n, missing := 0, slew := (tickTime s.tide n : Int) - (e : Int) }))
        else go ((s.reach e).updTime (fun t => { t with edgeTick := some n, goodEdges := min 16 (t.goodEdges + 1) })) := by
  change execTideInEdge e s = _
  simp only [execTideInEdge, hup, hcfg]
  rfl

theorem exec_tideInMissing {s : State} (hcfg : s.cfg.tideIn = true) (hrun : s.tide.running.isSome = true)
    (htick : s.time.edgeTick ≠ some s.tide.number) (hsrc : s.time.tideIn = true) :
    exec .tideInMissing s = go (((s.reach (tickTime s.tide s.tide.number + 2000)).updTime (fun t =>
      { t with edgeTick := some s.tide.number, missing := min 4 (t.missing + 1) })).note evTideInMissing 0xFF 0 0 0) := by
  change execTideInMissing s = _
  have hnone : s.tide.running.isNone = false := by rw [← Option.not_isSome, hrun]; rfl
  simp only [execTideInMissing, hcfg, hnone, htick, hsrc]
  rfl

/-- The state in which PTP is the source again, before the lock state moves. -/
def fellBack (s : State) : State := s.updTime (fun t => { t with tideIn := false, missing := 0, goodEdges := 0 })

theorem exec_tideInFallback {s : State} (hsrc : s.time.tideIn = true) (hmiss : s.time.missing = 4) :
    exec .tideInFallback s =
      if s.time.lock = .locked ∨ s.time.lock = .free then go ((fellBack s).note evSourceChange 0xFF 0 0 0)
      else go (enterFree ((fellBack s).note evSourceChange 0xFF 0 0 0)) := by
  change execTideInFallback s = _
  simp only [execTideInFallback, hsrc, hmiss]
  rfl

theorem exec_sourceChange {s : State} (hcfg : s.cfg.tideIn = true) (hsrc : s.time.tideIn = false) (hgood : s.time.goodEdges = 16) :
    exec .sourceChange s =
      go ((s.updTime (fun t => { t with tideIn := true, missing := 0, goodEdges := 0 })).note evSourceChange 0xFF 0 0 0) := by
  change execSourceChange s = _
  simp only [execSourceChange, hcfg, hsrc, hgood]
  rfl

theorem exec_timeSyncMessage {s : State} (stop : Nat) (d : Int) (hup : timeUp s = true) :
    exec (.timeSyncMessage stop d) s =
      if tget 0 s.time.drift stop ≠ 0 then go (s.updTime (fun t => { t with drift := tput 0 t.drift stop 0 }))
      else if 2000 < d.natAbs then
        go ((s.updTime (fun t => { t with drift := tput 0 t.drift stop d })).note evSluiceTiming stop 0 0 0)
      else go s := by
  change execTimeSyncMessage stop d s = _
  simp only [execTimeSyncMessage, hup]
  rfl

/-- Settles O4: each command's equation in the case its clause names. -/
theorem tideInEdgesSteerTheTicks : Obligations.TideInEdgesSteerTheTicks := by
  unfold Obligations.TideInEdgesSteerTheTicks
  refine ⟨?_, ?_, ?_, ?_, ?_, ?_, ?_, ?_, ?_, ?_⟩
  · intro e n s hup hcfg hsrc htick
    rw [exec_tideInEdge e hup hcfg, htick]
    exact if_pos hsrc
  · intro e s hup hcfg hsrc htick
    rw [exec_tideInEdge e hup hcfg, htick]
    exact congrArg go (if_pos hsrc)
  · intro e n s hup hcfg hsrc htick
    rw [exec_tideInEdge e hup hcfg, htick]
    exact if_neg (Bool.not_eq_true _ ▸ hsrc)
  · intro e s hup hcfg hsrc htick
    rw [exec_tideInEdge e hup hcfg, htick]
    exact congrArg go (if_neg (Bool.not_eq_true _ ▸ hsrc))
  · intro s hcfg hrun htick hsrc
    refine completes_of_note (exec_tideInMissing hcfg hrun htick hsrc) (by decide) (by decide) (fun e hcode htime => ?_)
    exact ⟨rfl, by simp [State.updTime, State.reach], by simp [hcode], rfl⟩
  · intro s hsrc hmiss hlock
    have hexec := exec_tideInFallback hsrc hmiss
    rw [if_pos (.inl hlock)] at hexec
    exact completes_of_note hexec (by decide) (by decide) (fun e hcode htime => ⟨rfl, ⟨e, rfl, hcode, htime⟩, rfl⟩)
  · intro s hsrc hmiss hlock
    have hexec := exec_tideInFallback hsrc hmiss
    split at hexec
    case isTrue h =>
      have hfree : s.time.lock = .free := h.resolve_left hlock
      exact completes_of_note hexec (by decide) (by decide) (fun e hcode htime => ⟨rfl, hfree, rfl⟩)
    case isFalse =>
      obtain ⟨e, -, -, hnote⟩ := note_clock (fellBack s) evSourceChange 0xFF (by decide) (by decide)
      rw [hnote] at hexec
      exact completes_of_note hexec (by decide) (by decide) (fun e hcode htime => ⟨rfl, rfl, rfl⟩)
  · intro s hcfg hsrc hgood
    exact completes_of_note (exec_sourceChange hcfg hsrc hgood) (by decide) (by decide)
      (fun e hcode htime => ⟨rfl, ⟨e, rfl, hcode, htime⟩, rfl⟩)
  · intro stop d s hup hdrift hfar
    have hexec := exec_timeSyncMessage (s := s) stop d hup
    rw [if_neg (not_not.mpr hdrift), if_pos hfar] at hexec
    exact completes_of_note hexec (by decide) (by decide)
      (fun e hcode htime => ⟨tget_tput_same _ _ _, ⟨e, rfl, hcode, htime⟩, rfl⟩)
  · intro stop d s hup hdrift
    rw [exec_timeSyncMessage stop d hup, if_pos hdrift]
    rfl

end Sys2Proof.Clock
end

section
/-!
PROOFS. What the operations of the coherent domain leave unchanged: they touch memory, the caches, the directory, the stockpile's
tokens and what the cores lose, and nothing else. -/

namespace Sys2Proof.Frames

open Sys2Proof.Machine Sys2Proof.Safety Sys2Proof.Laws

/-- From s to t nothing changes but the stockpile's tokens, its requests that wait and the regulators' counts. -/
def TokensOnly (s t : State) : Prop :=
  t = { s with stk := { s.stk with regs := t.stk.regs, tokens := t.stk.tokens, waiting := t.stk.waiting } }

namespace TokensOnly

theorem refl (s : State) : TokensOnly s s := rfl

theorem trans {s t u : State} (h : TokensOnly s t) (g : TokensOnly t u) : TokensOnly s u :=
  Eq.trans g (congrArg (fun z : State =>
    { z with stk := { z.stk with regs := u.stk.regs, tokens := u.stk.tokens, waiting := u.stk.waiting } }) h)

theorem foldl {β : Type} {f : State → β → State} (h : ∀ s x, TokensOnly s (f s x)) (l : List β) (s : State) :
    TokensOnly s (l.foldl f s) :=
  List.foldlRecOn l f (refl s) (fun t ht x _ => ht.trans (h t x))

theorem spendLine (s : State) (l cls : Nat) : TokensOnly s (spendLine s l cls) := by
  unfold Sys2Proof.Machine.spendLine
  split
  · exact refl s
  dsimp only
  split
  · exact refl s
  split
  · rfl
  split <;> rfl

theorem spendRange (s : State) (pa n cls : Nat) : TokensOnly s (spendRange s pa n cls) := foldl (fun t l => spendLine t l cls) _ s

theorem physSpend (s : State) (pa n cls : Nat) : TokensOnly s (physSpend s pa n cls) := foldl (fun t _ => spendRange t _ _ cls) _ s

theorem regionSpend (s : State) (r : Region) (va n : Nat) : TokensOnly s (regionSpend s r va n) :=
  foldl (fun t _ => spendRange t _ _ 2) _ s

end TokensOnly

/-- From s to t nothing changes but memory, the coherence state, the stockpile and the cores. -/
def MemoryOnly (s t : State) : Prop := t = { s with mem := t.mem, coh := t.coh, stk := t.stk, cores := t.cores }

theorem TokensOnly.memory {s t : State} (h : TokensOnly s t) : MemoryOnly s t := by
  unfold TokensOnly at h
  rw [MemoryOnly, h]

namespace MemoryOnly

theorem refl (s : State) : MemoryOnly s s := rfl

theorem trans {s t u : State} (h : MemoryOnly s t) (g : MemoryOnly t u) : MemoryOnly s u :=
  Eq.trans g (congrArg (fun z : State => { z with mem := u.mem, coh := u.coh, stk := u.stk, cores := u.cores }) h)

/-- Transitivity with the later part first, which fixes the state in the middle. -/
theorem after {s t u : State} (g : MemoryOnly t u) (h : MemoryOnly s t) : MemoryOnly s u := h.trans g

theorem foldl {β : Type} {f : State → β → State} (h : ∀ s x, MemoryOnly s (f s x)) (l : List β) (s : State) :
    MemoryOnly s (l.foldl f s) :=
  List.foldlRecOn l f (refl s) (fun t ht x _ => ht.trans (h t x))

theorem updCoh (s : State) (f : Coh → Coh) : MemoryOnly s (s.updCoh f) := rfl
theorem updCore (s : State) (n : Nat) (f : Core → Core) : MemoryOnly s (s.updCore n f) := rfl
theorem setPoison (s : State) (l : Nat) (b : Bool) : MemoryOnly s (s.setPoison l b) := rfl
theorem setPart (s : State) (l : Nat) (x : Option PartLine) : MemoryOnly s (s.setPart l x) := rfl
theorem setCached (s : State) (a l : Nat) (x : Option CacheLine) : MemoryOnly s (s.setCached a l x) := rfl
theorem setDir (s : State) (l : Nat) (e : Option DirEntry) : MemoryOnly s (s.setDir l e) := rfl
theorem stamp (s : State) : MemoryOnly s s.stamp := rfl
theorem unkeep (s : State) (a n : Nat) : MemoryOnly s (s.unkeep a n) := rfl
theorem memWrite (s : State) (pa : Nat) (bs : List Byte) : MemoryOnly s (s.memWrite pa bs) := rfl

theorem noteHome (s : State) (pa n : Nat) : MemoryOnly s (s.noteHome pa n) := by
  unfold State.noteHome
  split
  · exact updCoh s _
  · exact refl s

theorem dramLine (s : State) (l : Nat) (d : List Byte) (poison : Bool) : MemoryOnly s (s.dramLine l d poison) :=
  (setPoison _ _ _).after ((memWrite _ _ _).after (noteHome s _ _))

theorem partDrop (s : State) (l : Nat) : MemoryOnly s (partDrop s l) := by
  unfold Sys2Proof.Machine.partDrop
  split
  · exact refl s
  · dsimp only
    split
    · exact (dramLine _ _ _ _).after (setPart s _ _)
    · exact setPart s _ _

theorem partRoom (s : State) (i l : Nat) : MemoryOnly s (partRoom s i l) := by
  unfold Sys2Proof.Machine.partRoom
  dsimp only
  split
  · exact refl s
  split
  · exact refl s
  · exact partDrop s _

theorem partTake (s : State) (i l : Nat) (d : List Byte) (dirty poison : Bool) : MemoryOnly s (partTake s i l d dirty poison) :=
  (setPart _ _ _).after ((stamp _).after (partRoom s i l))

theorem homeWrite (s : State) (l : Nat) (d : List Byte) (poison : Bool) (alloc : Option Nat) :
    MemoryOnly s (s.homeWrite l d poison alloc) := by
  unfold State.homeWrite
  dsimp only
  split
  · exact dramLine s l d poison
  split
  · exact partTake s _ l d true poison
  · exact (dramLine _ l d poison).after (partTake s _ l d false poison)

theorem writeBack (s : State) (a l : Nat) (d : List Byte) (poison : Bool) : MemoryOnly s (s.writeBack a l d poison) :=
  (homeWrite _ _ _ _ _).after (TokensOnly.spendLine s l _).memory

theorem partClean (s : State) (l : Nat) : MemoryOnly s (s.partClean l) := by
  unfold State.partClean
  split
  · exact refl s
  · split
    · exact (dramLine _ _ _ _).after (updCoh s _)
    · exact refl s

theorem countInval (s : State) (l : Nat) (keep : Option Nat) : MemoryOnly s (countInval s l keep) := by
  unfold Sys2Proof.Machine.countInval
  split
  · exact refl s
  · exact updCoh s _

theorem coresLose (s : State) (l : Nat) (keep : Option Nat) : MemoryOnly s (coresLose s l keep) := by
  refine foldl (fun t n => ?_) _ s
  split
  · exact refl t
  · exact updCore t n _

theorem invalidate (s : State) (l : Nat) (keep : Option Nat) (discard : Bool) : MemoryOnly s (invalidate s l keep discard) := by
  unfold Sys2Proof.Machine.invalidate
  extract_lets hs s1 s2 s3
  have hcount : MemoryOnly s s1 := countInval s l keep
  have hback : MemoryOnly s s2 := by
    unfold s2
    split
    · split
      · exact hcount
      · exact hcount.trans (writeBack _ _ _ _ _)
    · exact hcount
  have hgone : MemoryOnly s2 s3 := by
    refine foldl (fun t h => ?_) _ s2
    exact setCached t h.1 l none
  clear_value s3
  exact ((hback.trans hgone).trans (coresLose s3 l keep)).trans (setDir _ l none)

theorem cachelessLine (s : State) (cls l off : Nat) (bs : List Byte) : MemoryOnly s (cachelessLine s cls l off bs) := by
  have hspent : MemoryOnly s ((spendLine s l cls).unkeep (l * 64 + off) bs.length) :=
    (unkeep _ _ _).after (TokensOnly.spendLine s l cls).memory
  unfold Sys2Proof.Machine.cachelessLine
  dsimp only
  split
  · exact (homeWrite _ _ _ _ _).after ((invalidate _ _ _ _).after hspent)
  · exact (homeWrite _ _ _ _ _).after ((invalidate _ _ _ _).after hspent)

theorem cachelessBy (cls : Nat) (s : State) (pa : Nat) (bs : List Byte) : MemoryOnly s (cachelessBy cls s pa bs) := by
  unfold Sys2Proof.Machine.cachelessBy
  exact foldl (fun t (x : Nat × Nat × List Byte) => cachelessLine t cls x.1 x.2.1 x.2.2) _ s

theorem cachelessWrite (s : State) (pa : Nat) (bs : List Byte) : MemoryOnly s (cachelessWrite s pa bs) := cachelessBy 3 s pa bs

theorem cleanLine (s : State) (l : Nat) : MemoryOnly s (cleanLine s l) := by
  unfold Sys2Proof.Machine.cleanLine
  split
  · exact refl s
  · exact (partClean _ l).after (homeWrite _ _ _ _ _)

theorem zeroRange (s : State) (pa n : Nat) : MemoryOnly s (zeroRange s pa n) :=
  foldl (fun t l => (homeWrite _ _ _ _ _).after (invalidate t l none true)) _ s

/-- The cutting of an agent's streams writes words of its state alone (R191). -/
theorem cutAgent (s : State) (owner h keep : Nat) : MemoryOnly s (cutAgent s owner h keep).1 := by
  have hzero (t : State) (r : StreamRec) (lo hi : Nat) : MemoryOnly t (zeroPositions t owner h r lo hi) :=
    foldl (fun u _ => cachelessWrite u _ _) _ t
  have hwords (t : State) (r : StreamRec) : MemoryOnly t (clearWords t h r keep).1 := by
    refine List.foldlRecOn (motive := fun x : State × Nat => MemoryOnly t x.1) _ _ (refl t) (fun x hx k _ => ?_)
    dsimp only
    split
    · exact hx.trans (cachelessWrite _ _ _)
    · exact hx
  refine List.foldlRecOn (motive := fun x : State × Nat × Nat => MemoryOnly s x.1) _ _ (refl s) (fun x hx st _ => ?_)
  dsimp only
  split
  · exact hx.trans ((hzero _ _ _ _).trans (hwords _ _))
  · exact hx

end MemoryOnly

end Sys2Proof.Frames
end

section
/-!
PROOFS. Messages and mailboxes: a message changes ports, outputs and sequence numbers alone; what a final hand-back (R383, R386) and
an ACCEPTED one (R387) leave; a command whose checks pass answers by its body (R393). -/

namespace Sys2Proof.Boxes

open Sys2Proof.Machine Sys2Proof.Safety Sys2Proof.Laws Sys2Proof.Board

/-! ### Messages (R356 to R360) -/

/-- From s to t nothing changes but the ports, what has left and the sequence numbers of the keys. -/
def MessagesOnly (s t : State) : Prop :=
  t = { s with ports := t.ports, out := t.out, salter := { s.salter with sendSeq := t.salter.sendSeq } }

namespace MessagesOnly

theorem refl (s : State) : MessagesOnly s s := rfl

theorem trans {s t u : State} (h : MessagesOnly s t) (g : MessagesOnly t u) : MessagesOnly s u :=
  Eq.trans g (congrArg (fun z : State =>
    { z with ports := u.ports, out := u.out, salter := { z.salter with sendSeq := u.salter.sendSeq } }) h)

theorem foldl {β : Type} {f : State → β → State} (h : ∀ s x, MessagesOnly s (f s x)) (l : List β) (s : State) :
    MessagesOnly s (l.foldl f s) :=
  List.foldlRecOn l f (refl s) (fun t ht x _ => ht.trans (h t x))

theorem updPort (s : State) (j : Nat) (f : Port → Port) : MessagesOnly s (s.updPort j f) := rfl
theorem emit (s : State) (o : Output) : MessagesOnly s (s.emit o) := rfl
theorem sendSeq (s : State) (key seq : Nat) : MessagesOnly s (s.updSalter (fun x => { x with sendSeq := tput 0 x.sendSeq key seq })) := rfl

theorem sendFrames (s : State) (j n : Nat) (o : Output) : MessagesOnly s (sendFrames s j n o) := by
  unfold Sys2Proof.Machine.sendFrames
  split
  · exact (updPort s j _).trans (emit _ o)
  · exact refl s

theorem sendControl (s : State) (ident : Dword) (o : Output) : MessagesOnly s (sendControl s ident o) := by
  unfold Sys2Proof.Machine.sendControl
  split
  · exact refl s
  · dsimp only
    split
    · exact refl s
    · refine (foldl (fun t j => ?_) _ s).trans (emit _ o)
      exact updPort t j _

theorem replyTo (s : State) (box key : Nat) (ident : Dword) (port : Nat) (image : List Byte) :
    MessagesOnly s (replyTo s box key ident port image) := by
  unfold Sys2Proof.Machine.replyTo
  dsimp only
  split
  · exact (sendSeq s key _).trans (sendControl _ ident _)
  split
  · exact (sendSeq s key _).trans ((updPort _ port _).trans (emit _ _))
  · exact sendSeq s key _

theorem sendReply (s : State) (box : Nat) (image : List Byte) : MessagesOnly s (sendReply s box image) := by
  unfold Sys2Proof.Machine.sendReply
  split
  · exact refl s
  · exact replyTo s box _ _ _ image

theorem sendNotices (s : State) (planId : Dword) (members : List Member) (own tide cause : Nat) :
    MessagesOnly s (sendNotices s planId members own tide cause) := by
  unfold Sys2Proof.Machine.sendNotices
  refine foldl (fun t e => ?_) _ s
  exact (sendSeq t e.2.keyIndex _).trans (sendControl _ _ _)

theorem boxes {s t : State} (h : MessagesOnly s t) : t.boxes = s.boxes := by
  unfold MessagesOnly at h
  rw [h]

theorem tide {s t : State} (h : MessagesOnly s t) : t.tide = s.tide := by
  unfold MessagesOnly at h
  rw [h]

end MessagesOnly

/-- The port a request came by carries the answer to a party outside the destination list. -/
theorem out_sendReply {s : State} {box key port : Nat} {ident : Dword} (image : List Byte)
    (hreq : (s.box box).requester = some (key, ident, port)) (hdest : s.cfg.destinations.any (fun d => d.ident = ident) = false)
    (hlink : (s.port port).link = true) :
    ∃ n, (sendReply s box image).out = .mboxResponse box ident key n image :: s.out := by
  refine ⟨tget 0 s.salter.sendSeq key + 1, ?_⟩
  have hlink' (f : Salter → Salter) : ((s.updSalter f).port port).link = true := hlink
  simp only [sendReply, hreq, replyTo, hdest, Bool.false_eq_true, if_false, hlink, if_true]
  rfl

/-! ### Bytes of a mailbox -/

/-- Reading back a run of bytes just written gives the run. -/
theorem tgets_tputs {α : Type} [DecidableEq α] {d : α} (t : Table α) (k : Nat) (vs : List α) :
    tgets d (tputs d t k vs) k vs.length = vs := by
  apply List.ext_getElem (length_tgets d _ k _)
  intro i _ hi
  simp only [tgets, List.getElem_map, List.getElem_range]
  exact tget_tputs_inside vs t k i hi

theorem tget_tputs_zero {α : Type} [DecidableEq α] {d : α} (t : Table α) (vs : List α) (o : Nat) :
    tget d (tputs d t 0 vs) o = if o < vs.length then vs.getD o d else tget d t o := by
  split
  case isTrue h =>
    have hin := tget_tputs_inside (d := d) vs t 0 o h
    rw [Nat.zero_add] at hin
    rw [hin, List.getD_eq_getElem _ _ h]
  case isFalse h => exact tget_tputs_outside vs t 0 o (.inr (by omega))

theorem toNat_length {resp : List Byte} (h : resp.length < 65536) : (BitVec.ofNat 16 resp.length).toNat = resp.length := by
  rw [BitVec.toNat_ofNat]
  exact Nat.mod_eq_of_lt h

/-! ### Hand-backs (R383, R386, R387) -/

/-- From s to t nothing changes but the mailboxes, the ports, what has left and the sequence numbers of the keys. -/
def BoxesOnly (s t : State) : Prop :=
  t = { s with boxes := t.boxes, ports := t.ports, out := t.out, salter := { s.salter with sendSeq := t.salter.sendSeq } }

namespace BoxesOnly

theorem refl (s : State) : BoxesOnly s s := rfl

theorem trans {s t u : State} (h : BoxesOnly s t) (g : BoxesOnly t u) : BoxesOnly s u :=
  Eq.trans g (congrArg (fun z : State =>
    { z with boxes := u.boxes, ports := u.ports, out := u.out, salter := { z.salter with sendSeq := u.salter.sendSeq } }) h)

theorem updBox (s : State) (m : Nat) (f : Mailbox → Mailbox) : BoxesOnly s (s.updBox m f) := rfl

theorem free {s t : State} (h : BoxesOnly s t) : t.free = s.free := by
  unfold BoxesOnly at h
  rw [h]

end BoxesOnly

theorem MessagesOnly.boxesOnly {s t : State} (h : MessagesOnly s t) : BoxesOnly s t := by
  unfold MessagesOnly at h
  rw [BoxesOnly, h]

/-- What the answer of a mailbox to its requester leaves: nothing where it is not remote, else the response kept and sent (R360). -/
structure Responded (box : Nat) (u t : State) : Prop where
  only : BoxesOnly u t
  self : t.box box = { u.box box with lastResponse := (t.box box).lastResponse }
  other : ∀ j, j ≠ box → t.box j = u.box j
  local_ : isRemote box = false → t = u
  last : isRemote box = true → (t.box box).lastResponse = some (u.box box).imageBytes
  sent : isRemote box = true → ∀ key ident port, (u.box box).requester = some (key, ident, port) →
    u.cfg.destinations.any (fun d => d.ident = ident) = false → (u.port port).link = true →
    ∃ n, t.out = .mboxResponse box ident key n (u.box box).imageBytes :: u.out

theorem responded (u : State) (box : Nat) : Responded box u (respond u box) := by
  cases hremote : isRemote box
  case false =>
    have hsame : respond u box = u := by simp [respond, hremote]
    rw [hsame]
    exact ⟨BoxesOnly.refl u, rfl, fun _ _ => rfl, fun _ => rfl, fun h => absurd (hremote.symm.trans h) (by decide),
      fun h => absurd (hremote.symm.trans h) (by decide)⟩
  case true =>
    have hsent := MessagesOnly.sendReply u box (u.box box).imageBytes
    have hresp : respond u box = (sendReply u box (u.box box).imageBytes).updBox box
        (fun b => { b with lastResponse := some (u.box box).imageBytes }) := by simp [respond, hremote]
    have hbox (j : Nat) : (sendReply u box (u.box box).imageBytes).box j = u.box j := by rw [State.box, hsent.boxes]; rfl
    rw [hresp]
    refine ⟨hsent.boxesOnly.trans (BoxesOnly.updBox _ _ _), ?_, fun j hj => ?_, fun h => absurd (hremote.symm.trans h) (by decide),
      fun _ => ?_, fun _ key ident port hreq hdest hlink => out_sendReply _ hreq hdest hlink⟩
    · rw [State.updBox_box_same, hbox]
    · rw [State.updBox_box_other _ _ hj, hbox]
    · rw [State.updBox_box_same]

/-- A mailbox handed back. -/
def handedBox (u : State) (status detail : Nat) (image : Bool) (resp : List Byte) (b : Mailbox) : Mailbox :=
  { b with owner := false, held := false, image := image && decide (status = stBadArgument),
           detail := BitVec.ofNat 32 (infoDetail u status detail), status := BitVec.ofNat 16 status,
           length := BitVec.ofNat 16 resp.length, time := BitVec.ofNat 64 u.now, payload := tputs 0 b.payload 0 resp }

theorem handBackAt_eq (u : State) (box status detail : Nat) (image : Bool) (resp : List Byte) :
    handBackAt u box status detail image resp = respond (u.updBox box (handedBox u status detail image resp)) box := rfl

/-- The image of a mailbox handed back: its header and the response. -/
theorem imageBytes_handedBox (u : State) (status detail : Nat) (image : Bool) {resp : List Byte} (hlen : resp.length < 65536)
    (b : Mailbox) : (handedBox u status detail image resp b).imageBytes = (handedBox u status detail image resp b).header ++ resp := by
  have hbytes : (handedBox u status detail image resp b).bytes 0 (BitVec.ofNat 16 resp.length).toNat = resp := by
    rw [toNat_length hlen]
    exact tgets_tputs _ 0 resp
  exact congrArg (Mailbox.header _ ++ ·) hbytes

theorem boxesOnly_handBackAt (u : State) (box status detail : Nat) (image : Bool) (resp : List Byte) :
    BoxesOnly u (handBackAt u box status detail image resp) :=
  (BoxesOnly.updBox u box _).trans (responded _ box).only

/-- What a final hand-back leaves (R383, R386). -/
theorem handed_handBackAt (u : State) (box status detail : Nat) (image : Bool) {resp : List Byte} (hlen : resp.length < 65536) :
    Handed u (handBackAt u box status detail image resp) box status (infoDetail u status detail)
      (image && decide (status = stBadArgument)) resp := by
  have hframe := boxesOnly_handBackAt u box status detail image resp
  have hresp := responded (u.updBox box (handedBox u status detail image resp)) box
  rw [handBackAt_eq] at hframe ⊢
  generalize respond (u.updBox box (handedBox u status detail image resp)) box = t at hframe hresp
  obtain ⟨-, hself, hother, hlocal, hlast, hsent⟩ := hresp
  rw [State.updBox_box_same] at hself hlast hsent
  have hpayload : (t.box box).payload = tputs 0 (u.box box).payload 0 resp := congrArg Mailbox.payload hself
  have hheader : (t.box box).header = (handedBox u status detail image resp (u.box box)).header := by
    rw [hself]
    rfl
  refine ⟨hself.trans ?_, fun o => ?_, fun j hj => ?_, ?_, fun h => ?_, fun h => ⟨?_, fun key ident port hreq hdest hlink => ?_⟩⟩
  · rw [hpayload]
    rfl
  · rw [hpayload]
    exact tget_tputs_zero _ resp o
  · rw [hother j hj, State.updBox_box_other _ _ hj]
  · rw [hframe.free]
    exact hframe
  · rw [hlocal h, State.updBox_box_same]
    exact ⟨rfl, rfl, rfl, rfl⟩
  · rw [hlast h, hheader, imageBytes_handedBox u _ _ _ hlen]
  · rw [hheader, ← imageBytes_handedBox u _ _ _ hlen]
    exact hsent h key ident port hreq hdest hlink

/-- The step's free values are drawn after a hand-back. -/
theorem handed_drawn {u t : State} {box status detail : Nat} {image : Bool} {resp : List Byte}
    (h : Handed u t box status detail image resp) : Handed u t.drawn box status detail image resp := by
  obtain ⟨hself, hpayload, hother, honly, hlocal, hremote⟩ := h
  exact ⟨hself, hpayload, hother, congrArg (fun z : State => { z with free := t.free + 1 }) honly, hlocal, hremote⟩

/-- What an ACCEPTED hand-back leaves (R387). -/
theorem accepted_accept (u : State) (box : Nat) (d : Deferred) : Accepted u (accept u box d).drawn box d := by
  have hresp := responded ((u.updBox box (fun b => { b with
    owner := false, held := true, image := false, detail := 0, status := BitVec.ofNat 16 stAccepted, length := 0,
    time := BitVec.ofNat 64 u.now })).updSalter (fun x => { x with deferred := x.deferred ++ [(box, d)] })) box
  change Responded box _ (accept u box d) at hresp
  generalize accept u box d = t at hresp
  obtain ⟨hframe, hself, hother, hlocal, -, -⟩ := hresp
  rw [State.updSalter_box, State.updBox_box_same] at hself
  refine ⟨hself, fun j hj => ?_, ?_, fun h => ?_⟩
  · rw [State.drawn_box, hother j hj, State.updSalter_box, State.updBox_box_other _ _ hj]
  · exact congrArg (fun z : State => { z with free := t.free + 1 }) hframe
  · rw [hlocal h]
    exact ⟨rfl, rfl, rfl, by rw [State.drawn_box, State.updSalter_box, State.updBox_box_same]⟩

end Sys2Proof.Boxes
end

section
/-!
PROOFS. What the parts of a tide leave unchanged: package time, the package, the plans and the tide's numbers, whatever the step's
accesses, kernels, releases and records do. -/

namespace Sys2Proof.Tides

open Sys2Proof.Machine Sys2Proof.Safety Sys2Proof.Laws Sys2Proof.Frames Sys2Proof.Boxes

/-- From s to t package time, the configuration, the package's state and the plans stay, and what was logged stays logged. -/
structure KeepsPackage (s t : State) : Prop where
  now : t.now = s.now
  cfg : t.cfg = s.cfg
  pkg : t.pkg = s.pkg
  plan0 : t.plan0 = s.plan0
  plan1 : t.plan1 = s.plan1
  logged : s.events.queue <+: t.events.queue

/-- From s to t, beside the above, the tide stays but for the READY_FAULTs that the step has logged. -/
structure KeepsTide (s t : State) : Prop extends KeepsPackage s t where
  tide : t.tide = { s.tide with readyFaults := t.tide.readyFaults }

namespace KeepsPackage

theorem refl (s : State) : KeepsPackage s s := ⟨rfl, rfl, rfl, rfl, rfl, List.prefix_rfl⟩

theorem trans {s t u : State} (h : KeepsPackage s t) (g : KeepsPackage t u) : KeepsPackage s u :=
  ⟨g.now.trans h.now, g.cfg.trans h.cfg, g.pkg.trans h.pkg, g.plan0.trans h.plan0, g.plan1.trans h.plan1, h.logged.trans g.logged⟩

/-- Transitivity with the later part first, which fixes the state in the middle. -/
theorem after {s t u : State} (g : KeepsPackage t u) (h : KeepsPackage s t) : KeepsPackage s u := h.trans g

theorem foldl {β : Type} {f : State → β → State} (h : ∀ s x, KeepsPackage s (f s x)) (l : List β) (s : State) :
    KeepsPackage s (l.foldl f s) :=
  List.foldlRecOn l f (refl s) (fun t ht x _ => ht.trans (h t x))

theorem plan {s t : State} (h : KeepsPackage s t) (slot : Nat) : t.plan slot = s.plan slot := by
  simp only [State.plan, h.plan0, h.plan1]

theorem updTide (s : State) (f : Tide → Tide) : KeepsPackage s (s.updTide f) := ⟨rfl, rfl, rfl, rfl, rfl, List.prefix_rfl⟩
theorem updTally (s : State) (f : Tally → Tally) : KeepsPackage s (s.updTally f) := ⟨rfl, rfl, rfl, rfl, rfl, List.prefix_rfl⟩
theorem updBed (s : State) (p b : Nat) (f : Bed → Bed) : KeepsPackage s (s.updBed p b f) := ⟨rfl, rfl, rfl, rfl, rfl, List.prefix_rfl⟩
theorem updRake (s : State) (p b r : Nat) (f : Rake → Rake) : KeepsPackage s (s.updRake p b r f) :=
  ⟨rfl, rfl, rfl, rfl, rfl, List.prefix_rfl⟩

end KeepsPackage

namespace KeepsTide

theorem refl (s : State) : KeepsTide s s := ⟨KeepsPackage.refl s, rfl⟩

theorem trans {s t u : State} (h : KeepsTide s t) (g : KeepsTide t u) : KeepsTide s u :=
  ⟨h.toKeepsPackage.trans g.toKeepsPackage, g.tide.trans (congrArg (fun x : Tide => { x with readyFaults := u.tide.readyFaults }) h.tide)⟩

theorem after {s t u : State} (g : KeepsTide t u) (h : KeepsTide s t) : KeepsTide s u := h.trans g

theorem foldl {β : Type} {f : State → β → State} (h : ∀ s x, KeepsTide s (f s x)) (l : List β) (s : State) : KeepsTide s (l.foldl f s) :=
  List.foldlRecOn l f (refl s) (fun t ht x _ => ht.trans (h t x))

theorem cur {s t : State} (h : KeepsTide s t) : t.tide.cur = s.tide.cur := by rw [h.tide]

theorem running {s t : State} (h : KeepsTide s t) : t.tide.running = s.tide.running := by rw [h.tide]

theorem memory {s t : State} (h : MemoryOnly s t) : KeepsTide s t := by
  unfold MemoryOnly at h
  rw [h]
  exact ⟨⟨rfl, rfl, rfl, rfl, rfl, List.prefix_rfl⟩, rfl⟩

theorem boxes {s t : State} (h : BoxesOnly s t) : KeepsTide s t := by
  unfold BoxesOnly at h
  rw [h]
  exact ⟨⟨rfl, rfl, rfl, rfl, rfl, List.prefix_rfl⟩, rfl⟩

theorem messages {s t : State} (h : MessagesOnly s t) : KeepsTide s t := boxes h.boxesOnly

theorem raise (s : State) (e : Event) : KeepsTide s (s.raise e) := by
  refine ⟨⟨State.raise_now s e, State.raise_cfg s e, State.raise_pkg s e, State.raise_plan0 s e, State.raise_plan1 s e, ?_⟩, ?_⟩
  · simp only [State.raise]
    split
    · exact List.prefix_rfl
    · exact List.prefix_append _ _
  · rw [State.raise_tide]

theorem noteD (s : State) (code die action detail detail2 : Nat) : KeepsTide s (s.noteD code die action detail detail2) := raise s _

theorem updTally (s : State) (f : Tally → Tally) : KeepsTide s (s.updTally f) := ⟨KeepsPackage.updTally s f, rfl⟩
theorem updSalter (s : State) (f : Salter → Salter) : KeepsTide s (s.updSalter f) := ⟨⟨rfl, rfl, rfl, rfl, rfl, List.prefix_rfl⟩, rfl⟩
theorem updPan (s : State) (p : Nat) (f : Pan → Pan) : KeepsTide s (s.updPan p f) := ⟨⟨rfl, rfl, rfl, rfl, rfl, List.prefix_rfl⟩, rfl⟩
theorem updBed (s : State) (p b : Nat) (f : Bed → Bed) : KeepsTide s (s.updBed p b f) := ⟨KeepsPackage.updBed s p b f, rfl⟩

theorem updQp (s : State) (q : Nat) (f : Qp → Qp) : KeepsTide s (s.updQp q f) := by
  unfold State.updQp
  split
  · exact refl s
  · exact ⟨⟨rfl, rfl, rfl, rfl, rfl, List.prefix_rfl⟩, rfl⟩

/-! ### The tide logic's accesses (R57, R58) -/

theorem readyFault (s : State) (slot : Nat) (write : Bool) : KeepsTide s (readyFault s slot write) := by
  unfold Sys2Proof.Machine.readyFault
  dsimp only
  split
  · exact refl s
  · exact (noteD s _ _ _ _ _).trans ⟨KeepsPackage.updTide _ _, rfl⟩

theorem inputReady (s : State) (pl : Plan) (k : IoSlot) (step : Nat) : KeepsTide s (inputReady s pl k step).1 := by
  unfold Sys2Proof.Machine.inputReady
  split
  · exact readyFault s _ _
  · exact refl s

theorem checkInputs (s : State) (pl : Plan) (step : Nat) : KeepsTide s (checkInputs s pl step).1 := by
  refine List.foldlRecOn (motive := fun x : State × Bool × List Nat => KeepsTide s x.1) _ _ (refl s) (fun x hx k _ => ?_)
  have hstep := hx.trans (inputReady x.1 pl k step)
  dsimp only
  split
  · exact hstep
  split <;> exact hstep

theorem writeStatus (s : State) (pl : Plan) : KeepsTide s (writeStatus s pl) := by
  unfold Sys2Proof.Machine.writeStatus
  split
  · exact refl s
  split
  · exact readyFault s _ _
  · exact memory (MemoryOnly.cachelessWrite s _ _)

/-! ### Releases (R59, R373, R406) -/

theorem handOff (s : State) (pl : Plan) (k : IoSlot) (step : Nat) : KeepsTide s (handOff s pl k step) := by
  unfold Sys2Proof.Machine.handOff
  split
  · exact readyFault s _ _
  · exact memory (MemoryOnly.cachelessWrite s _ _)

theorem releaseFailed (s : State) (q : Nat) : KeepsTide s (releaseFailed s q) := by
  unfold Sys2Proof.Machine.releaseFailed
  split
  · exact refl s
  · exact (updQp s q _).trans (updTally _ _)

theorem transmit (s : State) (q : Nat) (x : Qp) (e : Sent) : KeepsTide s (transmit s q x e) := by
  unfold Sys2Proof.Machine.transmit
  extract_lets data s1
  have hspent : KeepsTide s s1 := by
    unfold s1
    split
    · exact refl s
    split
    · exact memory (TokensOnly.regionSpend s _ _ _).memory
    · exact refl s
  exact hspent.trans (messages (MessagesOnly.sendFrames s1 _ _ _))

theorem sendRelease (s : State) (q : Nat) (r : Release) (e : RelEntry) : KeepsTide s (sendRelease s q r e) := by
  unfold Sys2Proof.Machine.sendRelease
  split
  · exact refl s
  · dsimp only
    split
    · exact (updQp s q _).trans (releaseFailed _ q)
    · have hclean (l : List (Nat × Nat × Nat)) :
          KeepsTide s (l.foldl (fun s y => (linesOf y.2.2 y.2.1).foldl cleanLine s) s) :=
        memory (MemoryOnly.foldl (fun t y => MemoryOnly.foldl MemoryOnly.cleanLine _ t) l s)
      split
      · exact (hclean _).trans (updQp _ q _)
      · exact ((hclean _).trans (updQp _ q _)).trans (transmit _ q _ _)

theorem startRelease (s : State) (slot k bytes step : Nat) (e : RelEntry) : KeepsTide s (startRelease s slot k bytes step e) := by
  unfold Sys2Proof.Machine.startRelease
  dsimp only
  split
  · exact updTally s _
  · split
    · exact ((updQp s e.q _).trans (updQp _ e.q _)).trans (updTally _ _)
    · exact (updQp s e.q _).trans (sendRelease _ e.q _ e)

/-! ### Beds and records -/

theorem dropFlood (s : State) (p : Nat) : KeepsTide s (dropFlood s p) := by
  refine foldl (fun t b => ?_) _ s
  dsimp only
  split
  · exact (raise t _).trans (updBed _ p b _)
  · exact updBed t p b _

theorem dropPlanFlood (s : State) (pl : Plan) : KeepsTide s (dropPlanFlood s pl) := foldl dropFlood _ s

theorem stepRecord (s : State) (result : Nat) (c : StepRun) : KeepsTide s (stepRecord s result c) := updTally s _

theorem resetBeds (s : State) (pl : Plan) : KeepsTide s (resetBeds s pl) := by
  refine foldl (fun t p => ?_) _ s
  refine foldl (fun u b => ?_) _ t
  exact updBed u p b _

theorem performAll (s : State) : KeepsTide s (performAll s) := ⟨⟨rfl, rfl, rfl, rfl, rfl, List.prefix_rfl⟩, rfl⟩

theorem markLate (s : State) (pl : Plan) : KeepsTide s (markLate s pl) := by
  refine foldl (fun t p => ?_) _ s
  split
  · exact refl t
  · exact updPan t p _

theorem finish (s : State) (box status : Nat) (resp : List Byte) : KeepsTide s (finish s box status resp) :=
  (updSalter s _).trans (boxes (boxesOnly_handBackAt _ box status 0 false resp))

end KeepsTide

/-! ### A step ends without release (R66) -/

namespace KeepsPackage

theorem abortPan (s : State) (p : Nat) : KeepsPackage s (abortPan s p) := by
  refine foldl (fun t b => ?_) _ s
  dsimp only
  split
  · exact refl t
  · have hvacate : KeepsPackage t (vacateBed t p b) := by
      have hforget : KeepsPackage t (forgetOrigins t p b) := (KeepsTide.updSalter t _).toKeepsPackage
      unfold vacateBed
      refine (updBed _ p b _).after (KeepsPackage.after ?_ hforget)
      refine foldl (fun u x => ?_) _ _
      refine foldl (fun v r => ?_) _ u
      exact updRake v p b r _
    exact (updTide _ _).after ((updBed _ p b _).after hvacate)

theorem cutTo (s : State) (owner h keep c : Nat) : KeepsPackage s (cutTo s owner h keep c) := by
  unfold Sys2Proof.Machine.cutTo
  extract_lets used gen x s1 s2
  have hcut : MemoryOnly s s1 := (MemoryOnly.cutAgent s owner h keep).trans (MemoryOnly.cachelessWrite _ h _)
  have hfill : MemoryOnly s1 s2 := by
    refine MemoryOnly.foldl (fun t st => ?_) _ s1
    exact MemoryOnly.cachelessWrite t _ _
  exact (KeepsTide.memory (hcut.trans hfill)).toKeepsPackage.trans (KeepsTide.updPan s2 owner _).toKeepsPackage

theorem rewindStep (s : State) : KeepsPackage s (rewindStep s) := by
  refine foldl (fun t p => ?_) _ s
  split
  · exact refl t
  · refine (KeepsTide.updPan _ p _).toKeepsPackage.after (foldl (fun u e => ?_) _ t)
    dsimp only
    split
    · exact cutTo u p _ _ _
    · exact refl u

theorem rewind (s : State) : KeepsPackage s (rewind s) := by
  unfold Sys2Proof.Machine.rewind
  split
  · exact refl s
  · split
    · exact refl s
    · exact (updTally _ _).after ((updTally _ _).after (rewindStep s))

theorem stopStep (s : State) : KeepsPackage s (stopStep s) := by
  unfold Sys2Proof.Machine.stopStep
  split
  · split
    · exact updTide s _
    · exact (updTide _ _).after ((rewind _).after ((updTally _ _).after (foldl abortPan _ s)))
  · exact refl s

end KeepsPackage

end Sys2Proof.Tides
end

section
/-!
PROOFS. Ticks (O5) and watch points (O6). -/

namespace Sys2Proof.Tides

open Sys2Proof.Machine Sys2Proof.Safety Sys2Proof.Laws Sys2Proof.Board Sys2Proof.Links Sys2Proof.Frames Sys2Proof.Boxes

/-! ### The step of the last executed tide -/

/-- The state with another step in progress or last executed. -/
def withCur (s : State) (c : Option StepRun) : State := s.updTide (fun t => { t with cur := c })

theorem KeepsTide.withCur {s t : State} (h : KeepsTide s t) (c : Option StepRun) : KeepsTide (withCur s c) (withCur t c) :=
  ⟨⟨h.now, h.cfg, h.pkg, h.plan0, h.plan1, h.logged⟩, congrArg (fun x : Tide => { x with cur := c }) h.tide⟩

/-- The outputs of a step may have been released, and nothing else of it has changed. -/
def ReleasedFrom (o o' : Option StepRun) : Prop := o' = o ∨ ∃ c, o = some c ∧ o' = some { c with released := true }

/-- The release of outputs marks the step and leaves the rest of the tide. -/
theorem releaseOutputs_keeps (s : State) :
    ∃ c', ReleasedFrom s.tide.cur c' ∧ KeepsTide (withCur s c') (releaseOutputs s) := by
  unfold releaseOutputs
  split
  case h_1 => exact ⟨_, .inl rfl, KeepsTide.refl s⟩
  case h_2 c hcur =>
    split
    · exact ⟨_, .inl rfl, KeepsTide.refl s⟩
    split
    · exact ⟨_, .inl rfl, KeepsTide.refl s⟩
    case h_2 pl hplan =>
      refine ⟨some { c with released := true }, .inr ⟨c, hcur, rfl⟩, ?_⟩
      extract_lets s1
      have hstarted : KeepsTide s s1 := by
        refine KeepsTide.foldl (fun t k => ?_) _ s
        split
        · exact KeepsTide.startRelease t _ _ _ _ _
        · exact KeepsTide.handOff t _ _ _
      clear_value s1
      exact (hstarted.withCur _).trans (KeepsTide.updTally (withCur s1 _) _)

/-- Whether the tide after tick n must be skipped depends on the package's state and on the step alone. -/
theorem afterLate_congr {s t : State} (hpkg : t.pkg = s.pkg) (hcur : t.tide.cur = s.tide.cur) (n : Nat) : t.afterLate n = s.afterLate n := by
  simp only [State.afterLate, State.stepOpen, hpkg, hcur]

theorem stepOpen_congr {s t : State} (hcur : t.tide.cur = s.tide.cur) : t.stepOpen = s.stepOpen := by
  simp only [State.stepOpen, hcur]

/-- The release of its outputs neither opens a step nor makes it late. -/
theorem afterLate_released {s : State} {c' : Option StepRun} (h : ReleasedFrom s.tide.cur c') (n : Nat) :
    (withCur s c').afterLate n = s.afterLate n ∧ (withCur s c').stepOpen = s.stepOpen := by
  rcases h with rfl | ⟨c, hcur, rfl⟩
  · exact ⟨rfl, rfl⟩
  · simp only [State.afterLate, State.stepOpen, hcur]
    exact ⟨rfl, rfl⟩

/-- A tide after which the next is not skipped leaves no step open. -/
theorem not_stepOpen_of_afterLate {s : State} {n : Nat} (h : s.afterLate n = false) : s.stepOpen = false := by
  simp only [State.afterLate, Bool.or_eq_false_iff] at h
  exact h.1.2

/-- A plan's step that is not late completes without a release or an end of the plan. -/
theorem tideCheck_keeps {s : State} (hlate : ∀ c, s.tide.cur = some c → c.late = false) :
    ∃ c', KeepsTide (withCur s c') (tideCheck s) := by
  unfold tideCheck
  split
  case h_2 => exact ⟨s.tide.cur, KeepsTide.refl s⟩
  case h_1 c pl hcur hplan =>
    split
    · exact ⟨s.tide.cur, KeepsTide.refl s⟩
    · extract_lets c1 s1 s2
      rw [if_neg (by simp [hlate c hcur])]
      exact ⟨some c1, (KeepsTide.dropPlanFlood _ pl).trans (KeepsTide.stepRecord _ _ _)⟩

/-! ### The end of a plan (R55, R65, R66) -/

/-- The state in which the plan no longer runs, before the TIDE_STOPs that wait are handed back. -/
def unplanned (s : State) : State :=
  (s.updTide (fun t => { t with
    running := none, start := none, stopping := false, members := [], declared := [], skipping := false, absentNext := [] })).updPkg
    (fun k => { k with
      st := if k.st = .serving then .ready else k.st
      back := if k.back = .serving then .ready else k.back
      rerun := false })

theorem endPlan_keeps (s : State) : ∃ u, KeepsTide s u ∧ KeepsTide (unplanned u) (endPlan s) := by
  have hends (u : State) (l : List (Nat × Deferred)) : KeepsTide u (l.foldl (fun s e => finish s e.1 stOk (stopBytes s)) u) :=
    KeepsTide.foldl (fun t e => KeepsTide.finish t e.1 stOk _) l u
  unfold endPlan
  split
  case h_1 pl _ => exact ⟨_, KeepsTide.dropPlanFlood s pl, hends _ _⟩
  case h_2 => exact ⟨s, KeepsTide.refl s, hends _ _⟩

/-! ### A tide executes the next step (R28, R29) -/

/-- The tide's numbers as a step begins. -/
def begun (s : State) (n : Nat) (c : Option StepRun) : State :=
  s.updTide (fun t => { t with
    number := n, step := t.nextStep, nextStep := t.nextStep + 1, skipping := false, skipRun := 0, stallRun := 0,
    absent := t.absentNext, absentNext := [], readyFaults := [], lastTide := n, lastStep := t.nextStep,
    declared := t.skipsAfter n, cur := c })

theorem executeTide_keeps {s : State} {slot : Nat} {pl : Plan} (n : Nat) (hplan : s.plan slot = some pl) :
    ∃ c, KeepsTide (begun s n c) (executeTide s slot n) := by
  unfold executeTide
  split
  case h_1 hnone => exact absurd (hplan.symm.trans hnone) (by simp)
  case h_2 pl' _ =>
    extract_lets step s1 s2 s3
    have hpans : KeepsTide s1 s2 := by
      refine (KeepsTide.performAll s1).trans (KeepsTide.foldl (fun t p => ?_) _ _)
      exact KeepsTide.updPan t p _
    have hqps : KeepsTide s2 s3 := ⟨⟨rfl, rfl, rfl, rfl, rfl, List.prefix_rfl⟩, rfl⟩
    have hstarted : KeepsTide s1 (resetBeds (writeStatus s3 pl') pl') :=
      ((hpans.trans hqps).trans (KeepsTide.writeStatus s3 pl')).trans (KeepsTide.resetBeds _ pl')
    have hnew (x : StepRun) (hx : (resetBeds (writeStatus s3 pl') pl').tide.cur = some x) : x.late = false := by
      rw [hstarted.cur] at hx
      rw [← Option.some.inj hx]
    obtain ⟨c', hchecked⟩ := tideCheck_keeps hnew
    exact ⟨c', (hstarted.withCur c').trans hchecked⟩

/-! ### The tick (R27, R55, R63) -/

/-- The state once tick n of the running plan has come: its pulse has left, the outputs of the step before are released where they
may be, and a step still open is late. -/
def ticked (s : State) (n : Nat) : State := endTide (releaseOutputs (tidePulse (s.reach (tickTime s.tide n)) n))

theorem endTide_keeps (s : State) : ∃ c, KeepsTide (withCur s c) (endTide s) := by
  unfold endTide
  split
  · exact ⟨_, KeepsTide.refl _⟩
  · exact ⟨s.tide.cur, KeepsTide.refl s⟩

theorem endTide_closed {s : State} (h : s.stepOpen = false) : endTide s = s := by simp [endTide, h]

/-- A tick leaves the tide's numbers to what follows it, but for its pulse. -/
theorem ticked_keeps (s : State) (n : Nat) :
    ∃ c r, (ticked s n).tide = { s.tide with cur := c, readyFaults := r, pulses := s.tide.pulses + 1 }
      ∧ KeepsPackage (s.reach (tickTime s.tide n)) (ticked s n) := by
  obtain ⟨c1, -, hrel⟩ := releaseOutputs_keeps (tidePulse (s.reach (tickTime s.tide n)) n)
  obtain ⟨c2, hend⟩ := endTide_keeps (releaseOutputs (tidePulse (s.reach (tickTime s.tide n)) n))
  have hall := (hrel.withCur c2).trans hend
  exact ⟨c2, (ticked s n).tide.readyFaults, hall.tide, ⟨hall.now, hall.cfg, hall.pkg, hall.plan0, hall.plan1, hall.logged⟩⟩

/-- A tick that finds the step complete leaves it so, and no later than it was. -/
theorem ticked_closed {s : State} (h : s.stepOpen = false) (n m : Nat) :
    (ticked s n).afterLate m = s.afterLate m ∧ (ticked s n).stepOpen = false := by
  obtain ⟨c, hc, hrel⟩ := releaseOutputs_keeps (tidePulse (s.reach (tickTime s.tide n)) n)
  obtain ⟨hlate, hopen⟩ := afterLate_released (s := tidePulse (s.reach (tickTime s.tide n)) n) hc m
  have hclosed : (releaseOutputs (tidePulse (s.reach (tickTime s.tide n)) n)).stepOpen = false := by
    rw [stepOpen_congr hrel.cur, hopen]
    exact h
  rw [ticked, endTide_closed hclosed]
  exact ⟨(afterLate_congr hrel.pkg hrel.cur m).trans hlate, hclosed⟩

section
variable {s : State} {slot : Nat}

theorem tideBegin_executes {n : Nat} (hrun : s.tide.running = some slot) (hskip : skipFor s n n = none) :
    tideBegin s n = executeTide s slot n := by
  simp only [tideBegin, hrun, hskip]

theorem tideBegin_skips {n : Nat} {k : Skip} (hrun : s.tide.running = some slot) (hskip : skipFor s n n = some k) :
    tideBegin s n = skipTide s n k := by
  simp only [tideBegin, hrun, hskip]

/-- No skip stands for a tide of which none is declared and which comes after no late one. -/
theorem skipFor_none {n old : Nat} (hdeclared : s.tide.declared.find? (fun k => k.tide = n) = none) (hlate : s.afterLate old = false) :
    skipFor s n old = none := by
  simp only [skipFor, hdeclared, hlate, Bool.false_eq_true, if_false]

/-- A declared skip stands. -/
theorem skipFor_declared {n old : Nat} {k : Skip} (hdeclared : s.tide.declared.find? (fun k => k.tide = n) = some k) :
    skipFor s n old = some k := by
  simp only [skipFor, hdeclared]

/-- A tick of the running plan with no stop and no start waiting begins the plan's next tide. -/
theorem exec_tideTick_begins (hrun : s.tide.running = some slot) (hstop : s.tide.stopping = false) (hstart : s.tide.start = none) :
    exec (.tideTick (s.tide.number + 1)) s = go (tideBegin (ticked s (s.tide.number + 1)) (s.tide.number + 1)) := by
  obtain ⟨c, r, htide, -⟩ := ticked_keeps s (s.tide.number + 1)
  have hstop' : (ticked s (s.tide.number + 1)).tide.stopping = false := by rw [htide]; exact hstop
  have hstart' : (ticked s (s.tide.number + 1)).tide.start = none := by rw [htide]; exact hstart
  have hswitch : switchAt (ticked s (s.tide.number + 1)) (s.tide.number + 1) = none := by rw [switchAt, hstart']
  change execTideTick _ s = _
  unfold execTideTick
  rw [hrun]
  change (if s.tide.number + 1 ≠ s.tide.number + 1 then go s else if (ticked s (s.tide.number + 1)).tide.stopping then _ else
    match switchAt (ticked s (s.tide.number + 1)) (s.tide.number + 1) with
    | some x => _
    | none => go (tideBegin (ticked s (s.tide.number + 1)) (s.tide.number + 1))) = _
  rw [if_neg (not_not.mpr rfl), if_neg (Bool.not_eq_true _ ▸ hstop'), hswitch]

/-- A tick of the running plan at which a TIDE_STOP waits and the step is complete ends the plan. -/
theorem exec_tideTick_stops (hrun : s.tide.running = some slot) (hstop : s.tide.stopping = true) (hclosed : s.stepOpen = false) :
    exec (.tideTick (s.tide.number + 1)) s =
      go (endPlan ((ticked s (s.tide.number + 1)).updTide (fun t => { t with number := s.tide.number + 1 }))) := by
  obtain ⟨c, r, htide, -⟩ := ticked_keeps s (s.tide.number + 1)
  have hstop' : (ticked s (s.tide.number + 1)).tide.stopping = true := by rw [htide]; exact hstop
  have hclosed' := (ticked_closed hclosed (s.tide.number + 1) 0).2
  change execTideTick _ s = _
  unfold execTideTick
  rw [hrun]
  change (if s.tide.number + 1 ≠ s.tide.number + 1 then go s else if (ticked s (s.tide.number + 1)).tide.stopping then
    go (if (ticked s (s.tide.number + 1)).stepOpen then _ else endPlan _) else _) = _
  rw [if_neg (not_not.mpr rfl), if_pos hstop', if_neg (Bool.not_eq_true _ ▸ hclosed')]
  rfl

end

/-- The state once the first tick of a start has come: its pulse has left. -/
def startTicked (s : State) (x : Start) : State := tidePulse (s.reach (startTime s x x.n0)) x.n0

/-- The first tick of a start in READY begins the plan's tide n0. -/
theorem exec_tideTick_starts {s : State} {x : Start} (hrun : s.tide.running = none) (hstart : s.tide.start = some x)
    (hready : s.pkg.st = .ready) (hskip : s.tide.declared.find? (fun k => k.tide = x.n0) = none) :
    exec (.tideTick x.n0) s = go (executeTide (enterPlan (startTicked s x) x) x.slot x.n0) := by
  have hnone : skipFor { startTicked s x with tide := { (startTicked s x).tide with cur := none } } x.n0 x.n0 = none := by
    have hdeclared : (startTicked s x).tide.declared.find? (fun k => k.tide = x.n0) = none := hskip
    have hst : (startTicked s x).pkg.st = .ready := hready
    exact skipFor_none hdeclared (by simp [State.afterLate, State.stepOpen, hst])
  change execTideTick _ s = _
  unfold execTideTick
  rw [hrun, hstart]
  change (if x.n0 ≠ x.n0 ∨ _ then go s else go (match skipFor
      { startTicked s x with tide := { (startTicked s x).tide with cur := none } } x.n0 x.n0 with
    | some k => _
    | none => executeTide (enterPlan (startTicked s x) x) x.slot x.n0)) = _
  rw [if_neg (by simp [hready]), hnone]

/-- A plan that starts while none runs: it is the running one, the package serves, and its step 0 comes next (R53). -/
def entered (s : State) (x : Start) : State :=
  (s.updTide (fun t => { t with
    running := some x.slot, periodUs := ((s.plan x.slot).map Plan.periodUs).getD 0, epochSec := x.sec, epochNs := x.ns,
    nextStep := 0, skips := 0, skipRun := 0, stallRun := 0, members := x.members, own := x.own, start := none, declared := [],
    cur := none })).updPkg (fun k => { k with st := .serving })

theorem enterPlan_keeps {s : State} (x : Start) (hrun : s.tide.running = none) (hst : s.pkg.st = .ready) :
    KeepsTide (entered s x) (enterPlan s x) := by
  have hplan : s.runningPlan = none := by simp [State.runningPlan, hrun]
  unfold enterPlan
  rw [hplan]
  extract_lets s1 s2 s3
  have hpans : KeepsTide s2 s3 := KeepsTide.foldl (fun t p => KeepsTide.updPan t p _) _ s2
  have hst3 : s3.pkg.st = .ready := by rw [hpans.pkg]; exact hst
  have hpkg : (if s3.pkg.st = .draining then { s3.pkg with back := .serving } else { s3.pkg with st := PkgState.serving })
      = { s.pkg with st := .serving } := by
    rw [if_neg (by rw [hst3]; decide), hpans.pkg]
    rfl
  have htide : s2.tide = (entered s x).tide := by simp [s2, s1, entered, hrun]
  refine ⟨⟨hpans.now, hpans.cfg, hpkg, hpans.plan0, hpans.plan1, hpans.logged⟩, ?_⟩
  rw [← htide]
  exact hpans.tide

theorem tide_skipTide (s : State) (n : Nat) (k : Skip) :
    (skipTide s n k).tide = { s.tide with
      number := n, skipping := true, skips := satAdd 32 s.tide.skips 1, skipRun := satAdd 16 s.tide.skipRun 1,
      stallRun := (skipTide s n k).tide.stallRun, lastSkip := n, declared := s.tide.skipsAfter n } := by
  simp only [skipTide, State.updTally_tide, State.raise_tide]
  rfl

theorem steps_skipTide (s : State) (n : Nat) (k : Skip) :
    (skipTide s n k).tally.steps.getLast? = some ⟨2, s.tide.nextStep, n, k.position, k.cause, 0⟩ := by
  simp [skipTide, State.updTally]

/-! ### The obligation -/

/-- Settles O5: each tick's equation, then what the tide that it begins keeps. -/
theorem tideTickExecutesSkipsOrStops : Obligations.TideTickExecutesSkipsOrStops := by
  unfold Obligations.TideTickExecutesSkipsOrStops
  refine ⟨?_, ?_, ?_, ?_⟩
  · intro s slot pl hrun hplan hstop hstart hlate hdeclared
    obtain ⟨c, r, htick, hpkg⟩ := ticked_keeps s (s.tide.number + 1)
    have hlate' := ((ticked_closed (not_stepOpen_of_afterLate hlate) (s.tide.number + 1) (s.tide.number + 1)).1).trans hlate
    have hexec := exec_tideTick_begins hrun hstop hstart
    generalize ticked s (s.tide.number + 1) = u at htick hpkg hlate' hexec
    have hrun' : u.tide.running = some slot := by rw [htick]; exact hrun
    have hskip : skipFor u (s.tide.number + 1) (s.tide.number + 1) = none := skipFor_none (by rw [htick]; exact hdeclared) hlate'
    rw [tideBegin_executes hrun' hskip] at hexec
    obtain ⟨c', hrest⟩ := executeTide_keeps (slot := slot) (pl := pl) (s := u) (s.tide.number + 1) ((hpkg.plan slot).trans hplan)
    refine completes_of_go hexec ?_
    have hnow := hrest.now.trans hpkg.now
    generalize executeTide u slot (s.tide.number + 1) = t at hrest hnow ⊢
    rw [hrest.tide]
    simp [begun, State.updTide, htick, hrun, hnow, State.reach]
  · intro s slot k hrun hstop hstart hdeclared
    obtain ⟨c, r, htick, hpkg⟩ := ticked_keeps s (s.tide.number + 1)
    have hexec := exec_tideTick_begins hrun hstop hstart
    generalize ticked s (s.tide.number + 1) = u at htick hexec
    have hskip : skipFor u (s.tide.number + 1) (s.tide.number + 1) = some k := skipFor_declared (by rw [htick]; exact hdeclared)
    rw [tideBegin_skips (by rw [htick]; exact hrun) hskip] at hexec
    refine completes_of_go hexec ?_
    rw [steps_skipTide, tide_skipTide, htick]
    exact ⟨rfl, rfl, rfl, rfl, rfl, rfl, rfl, rfl, rfl⟩
  · intro s slot hrun hstop hclosed hserving
    obtain ⟨c, r, htick, hpkg⟩ := ticked_keeps s (s.tide.number + 1)
    refine completes_of_go (exec_tideTick_stops hrun hstop hclosed) ?_
    obtain ⟨v, hdropped, hended⟩ := endPlan_keeps ((ticked s (s.tide.number + 1)).updTide (fun t => { t with number := s.tide.number + 1 }))
    generalize endPlan _ = t at hended
    have hst : v.pkg.st = .serving := by rw [hdropped.pkg]; exact (congrArg Package.st hpkg.pkg).trans hserving
    have hplan : t.plan0 = s.plan0 := hended.plan0.trans (hdropped.plan0.trans hpkg.plan0)
    rw [hended.tide, hended.pkg, hplan]
    simp only [unplanned, State.updTide, State.updPkg, hst, if_true]
    rw [hdropped.tide]
    simp [State.updTide, htick]
  · intro s x pl hrun hstart hready hplan hdeclared
    have hentered := enterPlan_keeps (s := startTicked s x) x hrun hready
    have hplan' : (enterPlan (startTicked s x) x).plan x.slot = some pl := (hentered.plan x.slot).trans hplan
    obtain ⟨c, hrest⟩ := executeTide_keeps x.n0 hplan'
    refine completes_of_go (exec_tideTick_starts hrun hstart hready hdeclared) ?_
    generalize executeTide (enterPlan (startTicked s x) x) x.slot x.n0 = t at hrest
    have hperiod : (((startTicked s x).plan x.slot).map Plan.periodUs).getD 0 = pl.periodUs := by
      change ((s.plan x.slot).map Plan.periodUs).getD 0 = _
      rw [hplan]
      rfl
    have hpkg : t.pkg = { s.pkg with st := .serving } := hrest.pkg.trans hentered.pkg
    rw [hrest.tide, hpkg]
    simp only [begun, State.updTide]
    rw [hentered.tide]
    simp [entered, State.updTide, State.updPkg, hperiod]

end Sys2Proof.Tides
end

section
/-!
PROOFS. Watch points, skips and stalls (O6): what each declares, and what a stall and a re-run leave. -/

namespace Sys2Proof.Tides

open Sys2Proof.Machine Sys2Proof.Safety Sys2Proof.Laws Sys2Proof.Board Sys2Proof.Links Sys2Proof.Frames Sys2Proof.Boxes

/-! ### Watch points (R60, R61) -/

/-- The state at a watch point of the running plan: its time has come, and the beds that are late are marked. -/
def watched (s : State) : State :=
  let u := s.reach (watchTime s.tide s.tide.number)
  if u.stepOpen then (match u.curPlan with
    | some pl => markLate u pl
    | none => u) else u

theorem watched_keeps (s : State) : KeepsTide (s.reach (watchTime s.tide s.tide.number)) (watched s) := by
  unfold watched
  extract_lets u
  split
  · split
    · exact KeepsTide.markLate u _
    · exact KeepsTide.refl u
  · exact KeepsTide.refl u

theorem watched_closed {s : State} (h : s.stepOpen = false) : watched s = s.reach (watchTime s.tide s.tide.number) := by
  have h' : (s.reach (watchTime s.tide s.tide.number)).stepOpen = false := h
  simp only [watched, h', Bool.false_eq_true, if_false]

/-- The state in which the inputs of the next step have been checked: which optional ones are absent is noted. -/
def checked (s : State) (pl : Plan) (step : Nat) : State :=
  (checkInputs s pl step).1.updTide (fun t => { t with absentNext := (checkInputs s pl step).2.2 })

theorem exec_watchPoint {s : State} {slot step : Nat} {pl : Plan} (hrun : s.tide.running = some slot)
    (hnext : nextRun s s.tide.number = some (pl, step)) :
    exec (.watchPoint s.tide.number) s =
      if (watched s).tide.stopping then
        go (if (watched s).afterLate (s.tide.number + 1) then declareSkip (watched s) (nextTide s s.tide.number) 1 else watched s)
      else
        go (if (watched s).afterLate (s.tide.number + 1) then declareSkip (checked (watched s) pl step) (nextTide s s.tide.number) 1
          else if (checkInputs (watched s) pl step).2.1 then checked (watched s) pl step
          else declareSkip (checked (watched s) pl step) (nextTide s s.tide.number) 2) := by
  change execWatchPoint s.tide.number s = _
  unfold execWatchPoint
  rw [hnext]
  simp only [hrun, decide_true, Bool.not_true, Bool.false_eq_true, if_false, Option.isSome_some, if_true]
  rfl

/-- A declared skip of the running plan joins those that stand, with the plan's own position (R61). -/
theorem declareSkip_declares {s : State} (tide cause : Nat) (hplan : s.runningPlan.isSome = true) :
    (declareSkip s tide cause).tide =
      { s.tide with declared := s.tide.declared ++ [⟨tide, cause, s.tide.own, true, s.inDrain⟩] } := by
  unfold declareSkip
  extract_lets running start planId members own k
  have hown : own = s.tide.own := if_pos hplan
  rw [(MessagesOnly.sendNotices _ planId members own tide cause).tide]
  change { s.tide with declared := s.tide.declared ++ [({ tide := tide, cause := cause, position := own, own := true, exempt := s.inDrain } : Skip)] } = _
  rw [hown]

theorem runningPlan_congr {s t : State} (h : KeepsPackage s t) (hrun : t.tide.running = s.tide.running) :
    t.runningPlan = s.runningPlan := by
  have hplan : t.plan = s.plan := funext h.plan
  rw [State.runningPlan, State.runningPlan, hrun, hplan]

/-- What a skip declared at a watch point leaves among the declared ones. -/
theorem declareSkip_from {s u : State} {slot : Nat} (tide cause : Nat) (hrun : s.tide.running = some slot) (hplan : (s.plan slot).isSome)
    (hkeeps : KeepsPackage (s.reach (watchTime s.tide s.tide.number)) u) (htide : u.tide = { s.tide with
      readyFaults := u.tide.readyFaults, absentNext := u.tide.absentNext }) :
    ∃ k : Skip, (declareSkip u tide cause).tide.declared = s.tide.declared ++ [k] ∧ k.tide = tide ∧ k.cause = cause ∧ k.own = true
      ∧ k.position = s.tide.own := by
  have hrun' : u.tide.running = (s.reach (watchTime s.tide s.tide.number)).tide.running := by rw [htide]; rfl
  have hsome : u.runningPlan.isSome = true := by
    rw [runningPlan_congr hkeeps hrun']
    change (s.tide.running.bind s.plan).isSome = true
    rw [hrun]
    exact hplan
  refine ⟨⟨tide, cause, s.tide.own, true, u.inDrain⟩, ?_, rfl, rfl, rfl, rfl⟩
  rw [declareSkip_declares tide cause hsome, htide]

theorem checked_keeps (s : State) (pl : Plan) (step : Nat) :
    KeepsPackage s (checked s pl step) ∧ (checked s pl step).tide = { s.tide with
      readyFaults := (checked s pl step).tide.readyFaults, absentNext := (checkInputs s pl step).2.2 } := by
  have hchecked := KeepsTide.checkInputs s pl step
  refine ⟨hchecked.toKeepsPackage.trans (KeepsPackage.updTide _ _), ?_⟩
  exact congrArg (fun t : Tide => { t with absentNext := (checkInputs s pl step).2.2 }) hchecked.tide

/-- At a watch point the inputs checked are those of the state whose late beds are marked. -/
theorem checked_watched_keeps (s : State) (pl : Plan) (step : Nat) :
    KeepsPackage (s.reach (watchTime s.tide s.tide.number)) (checked (watched s) pl step)
      ∧ (checked (watched s) pl step).tide = { s.tide with
          readyFaults := (checked (watched s) pl step).tide.readyFaults, absentNext := (checkInputs (watched s) pl step).2.2 } := by
  obtain ⟨hpkg, htide⟩ := checked_keeps (watched s) pl step
  refine ⟨(watched_keeps s).toKeepsPackage.trans hpkg, htide.trans ?_⟩
  generalize (checked (watched s) pl step).tide.readyFaults = r
  rw [(watched_keeps s).tide]
  rfl

theorem afterLate_watched (s : State) (n : Nat) : (watched s).afterLate n = s.afterLate n :=
  afterLate_congr (watched_keeps s).pkg (watched_keeps s).cur n

theorem stopping_watched (s : State) : (watched s).tide.stopping = s.tide.stopping := by rw [(watched_keeps s).tide]; rfl

/-! ### Skip notices (R62, R65) -/

/-- A control message accepted: its frame and itself counted, its sequence taken. -/
def noticed (m : ControlMsg) (s : State) : State :=
  (seqTake (s.updPort m.port (fun p => { p with rx := satAdd 32 p.rx 1 })) m).updPort m.port
    (fun p => { p with ctlAccepted := satAdd 32 p.ctlAccepted 1 })

theorem noticed_only (m : ControlMsg) (s : State) :
    noticed m s = { s with ports := (noticed m s).ports, salter := (noticed m s).salter } := by
  unfold noticed seqTake State.updPort State.updSalter
  rfl

theorem noticed_tide (m : ControlMsg) (s : State) : (noticed m s).tide = s.tide := by rw [noticed_only]
theorem noticed_events (m : ControlMsg) (s : State) : (noticed m s).events = s.events := by rw [noticed_only]
theorem noticed_now (m : ControlMsg) (s : State) : (noticed m s).now = s.now := by rw [noticed_only]
theorem noticed_plan (m : ControlMsg) (s : State) : (noticed m s).plan = s.plan := by
  funext slot
  rw [noticed_only]
  simp only [State.plan]

theorem ctlAccepted_noticed (m : ControlMsg) (s : State) :
    ((noticed m s).port m.port).ctlAccepted = satAdd 32 (s.port m.port).ctlAccepted 1 := by
  simp [noticed, seqTake]

theorem exec_skipNotice {m : ControlMsg} {s : State} (hlink : (s.port m.port).link = true) (htype : m.type = 1)
    (hok : controlOk s m = true) (hnotice : noticeOk s m = true) :
    exec (.skipNotice m) s = go (
      if tideToCome s (leField m.body 0 8) then
        (noticed m s).updTide (fun t => { t with declared := t.declared ++
          [{ tide := leField m.body 0 8, cause := leField m.body 9 1, position := leField m.body 8 1, own := false }] })
      else ((noticed m s).updTide (fun t => { t with stopping := true, start := none })).raise
        { code := evStringDesync, cls := 0, detail := s.tide.number % 2 ^ 32, detail2 := leField m.body 0 8 }) := by
  change execSkipNotice m s = _
  have hnotice' : noticeOk (noticed m s) m = true := by
    rw [← hnotice]
    simp only [noticeOk, State.runningPlan, noticed_tide, noticed_plan]
  have htype' : m.type.toNat = 1 := by rw [htype]; rfl
  simp only [execSkipNotice, controlMsg, hlink, Bool.not_true, Bool.false_eq_true, if_false, htype', hok, and_self, if_true]
  change go (takeNotice (noticed m s) m) = _
  have hcome : tideToCome (noticed m s) (leField m.body 0 8) = tideToCome s (leField m.body 0 8) := by
    simp only [tideToCome, noticed_tide]
  simp only [takeNotice, hnotice', Bool.not_true, Bool.false_eq_true, if_false, hcome, noticed_tide]

theorem evClass_stringDesync (detail : Nat) : evClass evStringDesync detail = 0 := by
  have hbed : ¬ (evStringDesync = evBedFault ∧ detail % 256 = 0x07) := fun h => absurd h.1 (by decide)
  rw [evClass, if_neg (by decide), if_neg (by decide), if_neg hbed]

/-- A notice for a tide whose tick has passed: the plan stops at the end of the tide, and STRING_DESYNC is logged (R65). -/
theorem lateNotice_spec (u : State) (detail detail2 : Nat) :
    let t := (u.updTide (fun t => { t with stopping := true, start := none })).raise
      { code := evStringDesync, cls := 0, detail := detail, detail2 := detail2 }
    t.tide = { u.tide with stopping := true, start := none } ∧ Logs u t evStringDesync := by
  refine ⟨by rw [State.raise_tide]; rfl, ?_⟩
  exact raise_logs (u.updTide _) { code := evStringDesync, cls := 0, detail := detail, detail2 := detail2 }
    (by rw [evClass_stringDesync]; decide) (by change evStringDesync ≠ evBedFault; decide)

/-! ### Stalls and re-runs (R66, R296) -/

theorem exec_planStalled {s : State} (hrun : s.tide.running.isSome = true) (hstall : 8 ≤ s.tide.stallRun) :
    exec .planStalled s = go (endPlan ((stopStep s).note evPlanStalled 0xFF 0 0 0)) := by
  change execPlanStalled s = _
  have hnone : s.tide.running.isNone = false := by rw [← Option.not_isSome, hrun]; rfl
  simp only [execPlanStalled, hnone, Nat.not_lt.mpr hstall, Bool.false_eq_true, or_self, if_false]

/-- From s to t the step in progress is the same step of the same tide, and no re-run begins to be waited for. -/
structure SameStep (s t : State) : Prop where
  rerun : s.pkg.rerun = false → t.pkg.rerun = false
  step : t.tide.cur.map StepRun.step = s.tide.cur.map StepRun.step
  tide : t.tide.cur.map StepRun.tide = s.tide.cur.map StepRun.tide

namespace SameStep

theorem trans {s t u : State} (h : SameStep s t) (g : SameStep t u) : SameStep s u :=
  ⟨fun hs => g.rerun (h.rerun hs), g.step.trans h.step, g.tide.trans h.tide⟩

theorem keeps {s t : State} (h : KeepsTide s t) : SameStep s t :=
  ⟨fun hs => (congrArg Package.rerun h.pkg).trans hs, by rw [h.cur], by rw [h.cur]⟩

theorem refl (s : State) : SameStep s s := keeps (KeepsTide.refl s)

theorem releaseOutputs (s : State) : SameStep s (releaseOutputs s) := by
  obtain ⟨c', hc, hrel⟩ := releaseOutputs_keeps s
  refine SameStep.trans ?_ (keeps hrel)
  rcases hc with rfl | ⟨c, hcur, rfl⟩
  · exact refl s
  · exact ⟨id, by rw [hcur]; rfl, by rw [hcur]; rfl⟩

theorem endPlan (s : State) : SameStep s (endPlan s) := by
  obtain ⟨u, hdropped, hended⟩ := endPlan_keeps s
  have hunplanned : SameStep u (unplanned u) := ⟨fun _ => rfl, rfl, rfl⟩
  exact ((keeps hdropped).trans hunplanned).trans (keeps hended)

/-- The end of a step changes neither which step it is nor its tide. -/
theorem tideCheck (s : State) : SameStep s (tideCheck s) := by
  unfold Sys2Proof.Machine.tideCheck
  split
  case h_2 => exact refl s
  case h_1 c pl hcur hplan =>
    split
    · exact refl s
    · extract_lets c1 s1 s2 s3
      have hcompletes : SameStep s (withCur s (some c1)) := ⟨id, by rw [hcur]; rfl, by rw [hcur]; rfl⟩
      have hdone : SameStep s s2 :=
        hcompletes.trans (keeps ((KeepsTide.dropPlanFlood (withCur s (some c1)) pl).trans (KeepsTide.stepRecord _ _ _)))
      split
      · have hreleased : SameStep s s3 := hdone.trans (releaseOutputs s2)
        split
        · exact hreleased.trans (endPlan s3)
        · exact hreleased
      · exact hdone

end SameStep

/-! ### The obligation -/

/-- Settles O6: each command's equation in the case its clause names, then what declaring a skip, ending the plan or running the step
again keeps. -/
theorem watchPointDeclaresSkips : Obligations.WatchPointDeclaresSkips := by
  unfold Obligations.WatchPointDeclaresSkips
  refine ⟨?_, ?_, ?_, ?_, ?_, ?_, ?_⟩
  · intro s slot step pl hrun hnext hlate hstop hready
    have hexec := exec_watchPoint hrun hnext
    have htide := (checked_watched_keeps s pl step).2
    rw [stopping_watched, afterLate_watched, hstop, hlate, watched_closed (not_stepOpen_of_afterLate hlate), hready] at hexec
    simp only [Bool.false_eq_true, if_false, if_true] at hexec
    rw [watched_closed (not_stepOpen_of_afterLate hlate)] at htide
    refine completes_of_go hexec ?_
    rw [htide]
    exact ⟨rfl, rfl⟩
  · intro s slot step pl hrun hnext hplan hlate hstop hready
    have hexec := exec_watchPoint hrun hnext
    obtain ⟨hkeeps, htide⟩ := checked_watched_keeps s pl step
    rw [stopping_watched, afterLate_watched, hstop, hlate, watched_closed (not_stepOpen_of_afterLate hlate), hready] at hexec
    simp only [Bool.false_eq_true, if_false] at hexec
    rw [watched_closed (not_stepOpen_of_afterLate hlate)] at hkeeps htide
    exact completes_of_go hexec (declareSkip_from _ 2 hrun hplan hkeeps (htide.trans (by rw [htide])))
  · intro s slot step pl hrun hnext hplan hlate
    have hexec := exec_watchPoint hrun hnext
    rw [stopping_watched, afterLate_watched, hlate] at hexec
    cases hstop : s.tide.stopping
    case true =>
      simp only [hstop, if_true] at hexec
      have hkeeps := watched_keeps s
      exact completes_of_go hexec (declareSkip_from _ 1 hrun hplan hkeeps.toKeepsPackage (hkeeps.tide.trans (by rw [hkeeps.tide]; rfl)))
    case false =>
      simp only [hstop, Bool.false_eq_true, if_false, if_true] at hexec
      obtain ⟨hkeeps, htide⟩ := checked_watched_keeps s pl step
      exact completes_of_go hexec (declareSkip_from _ 1 hrun hplan hkeeps (htide.trans (by rw [htide])))
  · intro s m hlink htype hok hnotice hcome
    have hexec := exec_skipNotice hlink htype hok hnotice
    rw [if_pos hcome] at hexec
    have honly := noticed_only m s
    have haccepted := ctlAccepted_noticed m s
    have htide := noticed_tide m s
    generalize noticed m s = u at hexec honly haccepted htide
    refine completes_of_go hexec ⟨?_, (congrArg Port.ctlAccepted (State.updTide_port u _ m.port)).trans haccepted, ?_⟩
    · rw [State.updTide, htide]
    · rw [honly]
      rfl
  · intro s m hlink htype hok hnotice hcome
    have hexec := exec_skipNotice hlink htype hok hnotice
    rw [if_neg (Bool.not_eq_true _ ▸ hcome)] at hexec
    obtain ⟨hstop, hlogs⟩ := lateNotice_spec (noticed m s) (s.tide.number % 2 ^ 32) (leField m.body 0 8)
    rw [noticed_tide] at hstop
    rw [Logs, noticed_events, noticed_now] at hlogs
    exact completes_of_go hexec ⟨hstop, hlogs⟩
  · intro s hrun hstall
    refine completes_of_go (exec_planStalled hrun hstall) ?_
    obtain ⟨u, hdropped, hended⟩ := endPlan_keeps ((stopStep s).note evPlanStalled 0xFF 0 0 0)
    generalize endPlan _ = t at hended
    have hpkg : u.pkg = s.pkg := hdropped.pkg.trans ((State.note_pkg _ _ _ _ _ _).trans (KeepsPackage.stopStep s).pkg)
    obtain ⟨e, hqueue, hcode, -⟩ := logs_note (stopStep s) (code := evPlanStalled) 0xFF 0 0 0 (by decide) (by decide)
    refine ⟨?_, ?_, e, ?_, hcode⟩
    · rw [hended.tide]
      rfl
    · rw [hended.pkg]
      change (if u.pkg.st = .serving then PkgState.ready else u.pkg.st) = _
      rw [hpkg]
    · refine (hdropped.logged.trans hended.logged).subset ?_
      rw [hqueue]
      simp
  · intro s c pl hrerun hserving hcur hplan
    have hcurPlan : s.curPlan = some pl := by simp [State.curPlan, hcur, hplan]
    generalize hs1 : ((s.updTide (fun t => { t with
      cur := some { c with complete := false, failed := pl.absentFails, withheld := false } })).updPkg
        (fun k => { k with rerun := false })) = u
    have hexec : exec .drainRerun s = go (tideCheck (resetBeds (writeStatus u pl) pl)) := by
      change execDrainRerun s = _
      simp only [execDrainRerun, hrerun, hserving, hcur, hcurPlan, hs1]
      rfl
    have hsame := (SameStep.keeps ((KeepsTide.writeStatus u pl).trans (KeepsTide.resetBeds _ pl))).trans (SameStep.tideCheck _)
    obtain ⟨hno, hstep, htide⟩ := hsame
    refine completes_of_go hexec ⟨hno (by rw [← hs1]; rfl), hstep.trans ?_, htide.trans ?_⟩
    · rw [← hs1]
      rfl
    · rw [← hs1]
      rfl

end Sys2Proof.Tides
end

section
/-!
PROOFS. Mailbox commands: one whose checks pass answers by its body, which may refuse (R393, R394, R396). -/

namespace Sys2Proof.Boxes

open Sys2Proof.Machine Sys2Proof.Safety Sys2Proof.Laws Sys2Proof.Board

/-! ### The checks of R393 -/

/-- The mailbox's request is a command's, and it passes the command's checks of source, state, length, reserved bytes and fields. -/
structure Passes (s : State) (box : Nat) (c : Cmd) (reserved : List (Nat × Nat)) (fields : Mailbox → List (Nat × Bool)) : Prop where
  asked : Asked s box c.code
  source : (if isTray box then c.tray else c.hostRemote) = true
  verdict : verdictOf c.pat s.pkg.st = .taken
  length : c.lenOk (s.box box) = true
  zero : ∀ r ∈ reserved, ∀ x ∈ (s.box box).bytes r.1 r.2, x = 0
  ranges : ∀ f ∈ fields (s.box box), f.2 = true

/-- Host and remote mailboxes may issue a command that is theirs (R394). -/
theorem source_of_lt {box : Nat} (c : Cmd) (h : box < 72) (hc : c.hostRemote = true) :
    (if isTray box then c.tray else c.hostRemote) = true := by
  rw [if_neg (by simp [isTray]; omega), hc]

section
variable {s : State} {box : Nat} {c : Cmd} {reserved : List (Nat × Nat)} {fields : Mailbox → List (Nat × Bool)}
  {body : Mailbox → State → Except Refuse State} {i : Instr}

theorem Passes.commonChecks (h : Passes s box c reserved fields) :
    commonChecks s box (s.box box) c reserved (fields (s.box box)) = .ok () := by
  have hzero : nonZero (s.box box) reserved = [] := by
    simp only [nonZero, List.map_eq_nil_iff, List.filter_eq_nil_iff, List.any_eq_true, not_exists, not_and]
    exact fun r hr x hx => by simp [h.zero r hr x hx]
  have hfields : (fields (s.box box)).filter (fun f => !f.2) = [] := by
    simp only [List.filter_eq_nil_iff]
    exact fun f hf => by simp [h.ranges f hf]
  simp only [Machine.commonChecks, h.source, h.verdict, h.length, hzero, hfields]
  rfl

theorem Passes.requestAt (h : Passes s box c reserved fields) : requestAt s box c = some (s.box box) := by
  rw [Machine.requestAt, if_pos h.asked]

/-- A command whose body goes on to t. -/
theorem completes_of_body {t : State} {P : State → Prop} (hexec : exec i s = go (command s box c reserved fields body))
    (h : Passes s box c reserved fields) (hbody : body (s.box box) (popped s) = .ok t) (hP : P t.drawn) : Completes i s P := by
  refine completes_of_go (hexec.trans (congrArg go ?_)) hP
  change (match requestAt s box c with
    | none => s
    | some b => match (do commonChecks s box b c reserved (fields b); body b (popped s)) with
      | .ok u => u.drawn
      | .error e => handBackAt (popped s) box e.1 e.2 false []) = _
  rw [h.requestAt]
  simp only [h.commonChecks, hbody]
  rfl

/-- A command whose body refuses: handed back with the status, and nothing else changes. -/
theorem completes_refused {status off : Nat} (hexec : exec i s = go (command s box c reserved fields body))
    (h : Passes s box c reserved fields) (hbody : body (s.box box) (popped s) = .error (status, off)) :
    Completes i s (fun t => Refused s t box status off) := by
  refine completes_of_go (hexec.trans (congrArg go (a₂ := handBackAt (popped s) box status off false []) ?_))
    (handed_handBackAt (popped s) box status off false (by decide))
  change (match requestAt s box c with
    | none => s
    | some b => match (do commonChecks s box b c reserved (fields b); body b (popped s)) with
      | .ok u => u.drawn
      | .error e => handBackAt (popped s) box e.1 e.2 false []) = _
  rw [h.requestAt]
  simp only [h.commonChecks, hbody]
  rfl

end

end Sys2Proof.Boxes
end

section
/-!
PROOFS. PLAN_LOAD's acceptance, PLAN_UNLOAD, TIDE_START and TIDE_STOP (O53). -/

namespace Sys2Proof.Plans

open Sys2Proof.Machine Sys2Proof.Safety Sys2Proof.Laws Sys2Proof.Board Sys2Proof.Boxes

/-! ### Conditions of the commands, as the statement has them -/

/-- A deferred PLAN_LOAD for a slot still runs. -/
theorem slotBusy_iff (s : State) (slot : Nat) :
    slotBusy s slot = true ↔ ∃ e ∈ s.salter.deferred, ∃ a l p r, e.2 = .planLoad slot a l p r := by
  rw [slotBusy, List.any_eq_true]
  constructor
  · rintro ⟨e, he, h⟩
    split at h
    case h_1 k a l p r hload => exact ⟨e, he, a, l, p, r, of_decide_eq_true h ▸ hload⟩
    case h_2 => exact absurd h (by decide)
  · rintro ⟨e, he, a, l, p, r, hload⟩
    exact ⟨e, he, by rw [hload]; exact decide_eq_true rfl⟩

/-! Not by `rfl`: as rewriting steps of their own they keep the kernel from comparing the times of TIDE_START by evaluation. -/

theorem need_true_bind {α : Type} (status off : Nat) (f : Unit → Except Refuse α) : (need true status off >>= f) = f () := by
  rw [need, if_pos rfl]
  rfl

theorem need_false_bind {α : Type} (status off : Nat) (f : Unit → Except Refuse α) :
    (need false status off >>= f) = .error (status, off) := by
  rw [need, if_neg Bool.false_ne_true]
  rfl

theorem slotBusy_eq_false {s : State} {slot : Nat} (h : ¬ ∃ e ∈ s.salter.deferred, ∃ a l p r, e.2 = .planLoad slot a l p r) :
    slotBusy s slot = false :=
  Bool.eq_false_iff.mpr (fun hbusy => h ((slotBusy_iff s slot).mp hbusy))

/-- The pages of a range are those whose first byte lies below its end. -/
theorem lt_pages_iff (pa n i : Nat) (hn : 0 < n) : i < ceilDiv (pa % 4096 + n) 4096 ↔ (pa / 4096 + i) * 4096 < pa + n := by
  unfold ceilDiv
  omega

theorem pagesAll_iff (s : State) (pa n : Nat) (f : Place → Bool) (hn : 0 < n) :
    pagesAll s pa n f = true ↔ pa + n ≤ 2 ^ 48 ∧ ∀ x, pa / 4096 ≤ x → x * 4096 < pa + n → f (place s (x * 4096)) = true := by
  simp only [pagesAll, Bool.and_eq_true, decide_eq_true_eq, List.all_eq_true, List.mem_range, lt_pages_iff pa n _ hn]
  refine and_congr_right fun _ => ⟨fun h x hlo hx => ?_, fun h i hi => h _ (Nat.le_add_right _ _) hi⟩
  obtain ⟨i, rfl⟩ := Nat.exists_eq_add_of_le hlo
  exact h i hx

theorem taken_patPlan {s : State} (h : s.pkg.st = .ready ∨ s.pkg.st = .serving) : verdictOf patPlan s.pkg.st = .taken := by
  rcases h with h | h <;> rw [h] <;> rfl

theorem lenIs_of {b : Mailbox} {n : Nat} (h : b.length.toNat = n) : lenIs n b = true := decide_eq_true h

/-! ### PLAN_LOAD (R41, R395) -/

section
variable {s : State} {box : Nat}

/-- The request's range is not empty, lies in the map, and every page of it in populated LPDDR6 or brine. -/
def Fitting (s : State) (len pa : Nat) : Prop :=
  0 < len ∧ pa + len ≤ 2 ^ 48 ∧ ∀ x, pa / 4096 ≤ x → x * 4096 < pa + len → (place s (x * 4096)).dram = true

theorem fitting_iff (s : State) (len pa : Nat) : (decide (0 < len) && pagesAll s pa len Place.dram) = true ↔ Fitting s len pa := by
  rw [Bool.and_eq_true, decide_eq_true_eq, Fitting]
  exact and_congr_right fun h => pagesAll_iff s pa len Place.dram h

theorem passes_planLoad (hbox : box < 72) (hwhole : Whole s box 0x10 24 [(1, 1)]) (hst : s.pkg.st = .ready ∨ s.pkg.st = .serving)
    (hslot : (s.box box).field 0 1 ≤ 1) (hlen : (s.box box).field 4 4 ≤ 64 * 2 ^ 20) (hpa : (s.box box).field 8 8 % 64 = 0) :
    Passes s box cmdPlanLoad [(1, 1)]
      (fun b => [(0, decide (b.field 0 1 ≤ 1)), (4, decide (b.field 4 4 ≤ 64 * mib)), (8, decide (b.field 8 8 % 64 = 0))]) := by
  obtain ⟨hasked, hlength, hzero⟩ := hwhole
  refine ⟨hasked, source_of_lt _ hbox rfl, taken_patPlan hst, lenIs_of hlength, hzero, ?_⟩
  have hlen' : (s.box box).field 4 4 ≤ 64 * mib := hlen
  simp [hslot, hlen', hpa]

variable (hbox : box < 72) (hwhole : Whole s box 0x10 24 [(1, 1)]) (hst : s.pkg.st = .ready ∨ s.pkg.st = .serving)
  (hslot : (s.box box).field 0 1 ≤ 1) (hlen : (s.box box).field 4 4 ≤ 64 * 2 ^ 20) (hpa : (s.box box).field 8 8 % 64 = 0)
include hbox hwhole hst hslot hlen hpa

theorem planLoad_busy (hbusy : slotBusy s ((s.box box).field 0 1) = true) :
    Completes (.planLoad box) s (fun t => Refused s t box 0x200 0) := by
  replace hbusy : slotBusy (popped s) ((s.box box).field 0 1) = true := hbusy
  refine completes_refused rfl (passes_planLoad hbox hwhole hst hslot hlen hpa) ?_
  simp only [hbusy]
  rfl

variable (hbusy : slotBusy s ((s.box box).field 0 1) = false)
include hbusy

theorem planLoad_loaded (hplan : s.plan ((s.box box).field 0 1) ≠ none) :
    Completes (.planLoad box) s (fun t => Refused s t box 0x103 0) := by
  replace hbusy : slotBusy (popped s) ((s.box box).field 0 1) = false := hbusy
  have hisNone : ((popped s).plan ((s.box box).field 0 1)).isNone = false := Option.isNone_eq_false_iff.mpr (Option.isSome_iff_ne_none.mpr hplan)
  refine completes_refused rfl (passes_planLoad hbox hwhole hst hslot hlen hpa) ?_
  simp only [hbusy, hisNone]
  rfl

variable (hplan : s.plan ((s.box box).field 0 1) = none)
include hplan

theorem planLoad_unfit (hfit : ¬ Fitting s ((s.box box).field 4 4) ((s.box box).field 8 8)) :
    Completes (.planLoad box) s (fun t => Refused s t box 0x101 8) := by
  replace hbusy : slotBusy (popped s) ((s.box box).field 0 1) = false := hbusy
  replace hplan : (popped s).plan ((s.box box).field 0 1) = none := hplan
  have hrange : (decide (0 < (s.box box).field 4 4) && pagesAll (popped s) ((s.box box).field 8 8) ((s.box box).field 4 4) Place.dram)
      = false := Bool.eq_false_iff.mpr (fun h => hfit ((fitting_iff s _ _).mp h))
  refine completes_refused rfl (passes_planLoad hbox hwhole hst hslot hlen hpa) ?_
  simp only [hbusy, hplan, hrange]
  rfl

variable (hfit : Fitting s ((s.box box).field 4 4) ((s.box box).field 8 8))
include hfit

theorem planLoad_badRoot (hroot : rootOk s ((s.box box).field 16 8) = false) :
    Completes (.planLoad box) s (fun t => Refused s t box 0x101 0x10) := by
  replace hbusy : slotBusy (popped s) ((s.box box).field 0 1) = false := hbusy
  replace hplan : (popped s).plan ((s.box box).field 0 1) = none := hplan
  have hrange : (decide (0 < (s.box box).field 4 4) && pagesAll (popped s) ((s.box box).field 8 8) ((s.box box).field 4 4) Place.dram)
      = true := (fitting_iff s _ _).mpr hfit
  replace hroot : rootOk (popped s) ((s.box box).field 16 8) = false := hroot
  refine completes_refused rfl (passes_planLoad hbox hwhole hst hslot hlen hpa) ?_
  simp only [hbusy, hplan, hrange, hroot]
  rfl

theorem planLoad_accepted (hroot : rootOk s ((s.box box).field 16 8) = true) :
    Completes (.planLoad box) s (fun t => Accepted (popped s) t box
      (.planLoad ((s.box box).field 0 1) ((s.box box).field 2 2) ((s.box box).field 4 4) ((s.box box).field 8 8) ((s.box box).field 16 8))) := by
  replace hbusy : slotBusy (popped s) ((s.box box).field 0 1) = false := hbusy
  replace hplan : (popped s).plan ((s.box box).field 0 1) = none := hplan
  have hrange : (decide (0 < (s.box box).field 4 4) && pagesAll (popped s) ((s.box box).field 8 8) ((s.box box).field 4 4) Place.dram)
      = true := (fitting_iff s _ _).mpr hfit
  replace hroot : rootOk (popped s) ((s.box box).field 16 8) = true := hroot
  refine completes_of_body rfl (passes_planLoad hbox hwhole hst hslot hlen hpa) ?_ (accepted_accept (popped s) box _)
  simp only [hbusy, hplan, hrange, hroot]
  rfl

end

/-! ### PLAN_UNLOAD (R333, R350, R395) -/

/-- XLAT.ROOT_s of a pan. -/
def rootOf (s : State) (slot p : Nat) : Option (Nat × Nat) := if slot = 0 then (s.pan p).root0 else (s.pan p).root1

/-- A pan with the root of a slot set. -/
def withRoot (slot : Nat) (v : Option (Nat × Nat)) (x : Pan) : Pan := if slot = 0 then { x with root0 := v } else { x with root1 := v }

theorem withRoot_withRoot (slot : Nat) (v : Option (Nat × Nat)) (x : Pan) : withRoot slot v (withRoot slot v x) = withRoot slot v x := by
  by_cases h : slot = 0 <;> simp [withRoot, h]

theorem setRoots_cons (s : State) (slot q : Nat) (ps : List Nat) (v : Option (Nat × Nat)) :
    setRoots s slot (q :: ps) v = setRoots (s.updPan q (withRoot slot v)) slot ps v := rfl

theorem pan_setRoots (slot p : Nat) (ps : List Nat) (v : Option (Nat × Nat)) :
    ∀ s : State, (setRoots s slot ps v).pan p = if p ∈ ps then withRoot slot v (s.pan p) else s.pan p := by
  induction ps with
  | nil => exact fun s => by simp [setRoots]
  | cons q ps ih =>
    intro s
    rw [setRoots_cons, ih]
    by_cases hq : p = q
    case pos =>
      subst hq
      simp [withRoot_withRoot]
    case neg => simp [State.updPan_pan_other s (withRoot slot v) hq, hq]

theorem setRoots_only (slot : Nat) (ps : List Nat) (v : Option (Nat × Nat)) (s : State) :
    setRoots s slot ps v = { s with pans := (setRoots s slot ps v).pans } := by
  unfold setRoots
  refine List.foldlRecOn (motive := fun t => t = { s with pans := t.pans }) ps _ ?_
    (fun t ht p _ => congrArg (fun z : State => z.updPan p (withRoot slot v)) ht)
  rfl

theorem rootOf_setRoots_mem {slot p : Nat} {ps : List Nat} (h : p ∈ ps) (v : Option (Nat × Nat)) (s : State) :
    rootOf (setRoots s slot ps v) slot p = v := by
  rw [rootOf, pan_setRoots, if_pos h]
  by_cases hslot : slot = 0 <;> simp [withRoot, hslot]

theorem rootOf_setRoots_not_mem {slot p : Nat} {ps : List Nat} (h : p ∉ ps) (v : Option (Nat × Nat)) (s : State) :
    rootOf (setRoots s slot ps v) slot p = rootOf s slot p := by
  rw [rootOf, pan_setRoots, if_neg h, rootOf]

theorem rootOf_setRoots_other {slot : Nat} (hslot : slot ≤ 1) (p : Nat) (ps : List Nat) (v : Option (Nat × Nat)) (s : State) :
    rootOf (setRoots s slot ps v) (1 - slot) p = rootOf s (1 - slot) p := by
  rw [rootOf, pan_setRoots, rootOf]
  obtain rfl | rfl : slot = 0 ∨ slot = 1 := by omega
  all_goals by_cases h : p ∈ ps <;> simp [h, withRoot]

/-- The slot's plan runs, is about to start, or a step of it does. -/
theorem slotHeld_iff (s : State) (slot : Nat) : (!slotRuns s slot && !slotStarts s slot) = false ↔
    s.tide.running = some slot ∨ (∃ x, s.tide.start = some x ∧ x.slot = slot)
      ∨ (s.stepOpen = true ∧ ∃ c, s.tide.cur = some c ∧ c.slot = slot) := by
  have hstarts : slotStarts s slot = true ↔ ∃ x, s.tide.start = some x ∧ x.slot = slot := by
    rw [slotStarts]
    cases s.tide.start <;> simp
  have hruns : slotRuns s slot = true ↔ s.tide.running = some slot ∨ (s.stepOpen = true ∧ ∃ c, s.tide.cur = some c ∧ c.slot = slot) := by
    simp [slotRuns]
  rw [← Bool.not_or, Bool.not_eq_false', Bool.or_eq_true, hruns, hstarts, or_assoc,
    or_comm (a := s.stepOpen = true ∧ _)]

/-- The pans, the slots and the raised mark that PLAN_UNLOAD leaves. -/
def unloaded (s : State) (slot : Nat) (pl : Plan) : State := settleCap ((setRoots s slot pl.binding none).setPlan slot none)

theorem unloaded_only (s : State) (slot : Nat) (pl : Plan) : unloaded s slot pl =
    { s with plan0 := if slot = 0 then none else s.plan0, plan1 := if slot = 0 then s.plan1 else none,
             pans := (setRoots s slot pl.binding none).pans, power := { s.power with raised := (unloaded s slot pl).power.raised } } := by
  have hroots : unloaded s slot pl = settleCap ({ s with pans := (setRoots s slot pl.binding none).pans }.setPlan slot none) :=
    congrArg (fun z : State => settleCap (z.setPlan slot none)) (setRoots_only slot pl.binding none s)
  rw [hroots]
  by_cases hslot : slot = 0
  all_goals
    simp only [State.setPlan, hslot, if_true, if_false]
    rfl

section
variable {s : State} {box : Nat} (hbox : box < 72) (hwhole : Whole s box 0x11 8 [(1, 7)])
  (hst : s.pkg.st ∈ [PkgState.ready, .serving, .maint]) (hslot : (s.box box).field 0 1 ≤ 1)
include hbox hwhole hst hslot

theorem passes_planUnload : Passes s box cmdPlanUnload [(1, 7)] (fun b => [(0, decide (b.field 0 1 ≤ 1))]) := by
  obtain ⟨hasked, hlength, hzero⟩ := hwhole
  refine ⟨hasked, source_of_lt _ hbox rfl, ?_, lenIs_of hlength, hzero, by simp [hslot]⟩
  simp only [List.mem_cons, List.not_mem_nil, or_false] at hst
  rcases hst with h | h | h <;> rw [h] <;> rfl

theorem planUnload_busy (hbusy : slotBusy s ((s.box box).field 0 1) = true) :
    Completes (.planUnload box) s (fun t => Refused s t box 0x200 0) := by
  replace hbusy : slotBusy (popped s) ((s.box box).field 0 1) = true := hbusy
  refine completes_refused rfl (passes_planUnload hbox hwhole hst hslot) ?_
  simp only [hbusy]
  rfl

variable (hbusy : slotBusy s ((s.box box).field 0 1) = false)
include hbusy

theorem planUnload_empty (hplan : s.plan ((s.box box).field 0 1) = none) :
    Completes (.planUnload box) s (fun t => Refused s t box 0x103 0) := by
  replace hbusy : slotBusy (popped s) ((s.box box).field 0 1) = false := hbusy
  replace hplan : (popped s).plan ((s.box box).field 0 1) = none := hplan
  refine completes_refused rfl (passes_planUnload hbox hwhole hst hslot) ?_
  simp only [hbusy, hplan]
  rfl

variable {pl : Plan} (hplan : s.plan ((s.box box).field 0 1) = some pl)
include hplan

theorem planUnload_held (hheld : (!slotRuns s ((s.box box).field 0 1) && !slotStarts s ((s.box box).field 0 1)) = false) :
    Completes (.planUnload box) s (fun t => Refused s t box 0x103 0) := by
  replace hbusy : slotBusy (popped s) ((s.box box).field 0 1) = false := hbusy
  replace hplan : (popped s).plan ((s.box box).field 0 1) = some pl := hplan
  replace hheld : (!slotRuns (popped s) ((s.box box).field 0 1) && !slotStarts (popped s) ((s.box box).field 0 1)) = false := hheld
  refine completes_refused rfl (passes_planUnload hbox hwhole hst hslot) ?_
  simp only [hbusy, hplan, hheld]
  rfl

theorem planUnload_empties (hheld : (!slotRuns s ((s.box box).field 0 1) && !slotStarts s ((s.box box).field 0 1)) = true) {P : State → Prop}
    (hP : ∀ t, Handed (unloaded (popped s) ((s.box box).field 0 1) pl) t box 0 0 false [] → P t) : Completes (.planUnload box) s P := by
  replace hbusy : slotBusy (popped s) ((s.box box).field 0 1) = false := hbusy
  replace hplan : (popped s).plan ((s.box box).field 0 1) = some pl := hplan
  replace hheld : (!slotRuns (popped s) ((s.box box).field 0 1) && !slotStarts (popped s) ((s.box box).field 0 1)) = true := hheld
  refine completes_of_body (t := handBack (unloaded (popped s) ((s.box box).field 0 1) pl) box stOk []) rfl
    (passes_planUnload hbox hwhole hst hslot) ?_ (hP _ (handed_drawn (handed_handBackAt _ box stOk 0 false (by decide))))
  simp only [hbusy, hplan, hheld]
  rfl

end

/-- What PLAN_UNLOAD leaves, as the statement has it. -/
theorem handed_unloaded {s t : State} {box slot : Nat} {pl : Plan} (hslot : slot ≤ 1)
    (h : Handed (unloaded s slot pl) t box 0 0 false []) :
    t.plan slot = none ∧ (∀ p ∈ pl.binding, rootOf t slot p = none) ∧ (∀ p, p ∉ pl.binding → t.pan p = s.pan p)
      ∧ (∀ p, rootOf t (1 - slot) p = rootOf s (1 - slot) p)
      ∧ Handed { s with plan0 := if slot = 0 then none else s.plan0, plan1 := if slot = 0 then s.plan1 else none, pans := t.pans,
                        power := { s.power with raised := t.power.raised } } t box 0 0 false [] := by
  obtain ⟨-, -, -, honly, -, -⟩ := id h
  rw [unloaded_only] at h
  have hpans : t.pans = (setRoots s slot pl.binding none).pans :=
    ((congrArg State.pans honly :).trans (congrArg State.pans (unloaded_only s slot pl) :))
  have hpower : t.power = (unloaded s slot pl).power := (congrArg State.power honly :)
  have hpan (p : Nat) : t.pan p = (setRoots s slot pl.binding none).pan p := congrArg (fun x : Table Pan => tget ({} : Pan) x p) hpans
  have hroot (k p : Nat) : rootOf t k p = rootOf (setRoots s slot pl.binding none) k p := by simp only [rootOf, hpan]
  refine ⟨?_, fun p hp => ?_, fun p hp => ?_, fun p => ?_, ?_⟩
  · have hplan : t.plan slot = (unloaded s slot pl).plan slot := (congrArg (fun z : State => z.plan slot) honly :)
    rw [hplan, unloaded_only]
    by_cases hzero : slot = 0 <;> simp [State.plan, hzero]
  · rw [hroot, rootOf_setRoots_mem hp]
  · rw [hpan, pan_setRoots, if_neg hp]
  · rw [hroot, rootOf_setRoots_other hslot]
  · rw [hpans, hpower]
    exact h

/-! ### TIDE_START (R53, R54) -/

/-- A member record of the request, as the statement has it. -/
def memberOf (b : Mailbox) (i : Nat) : Member :=
  { ident := BitVec.ofNat 64 (b.field (0x20 + 32 * i) 8), ip := BitVec.ofNat 128 (b.field (0x20 + 32 * i + 8) 16),
    keyIndex := b.field (0x20 + 32 * i + 0x18) 1, ipv6 := decide (b.field (0x20 + 32 * i + 0x19) 1 = 1) }

/-- The start a request asks for. -/
def startOf (b : Mailbox) : Start :=
  { slot := b.field 0 1, n0 := b.field 0x18 8, sec := b.field 8 8, ns := b.field 0x10 4, own := b.field 2 1,
    members := (List.range (b.field 1 1)).map (memberOf b) }

/-- The time of the tick a start asks for. -/
def startNs (b : Mailbox) (pl : Plan) : Nat := b.field 8 8 * 10 ^ 9 + b.field 0x10 4 + b.field 0x18 8 * pl.periodUs * 1000

/-- The checks of TIDE_START that follow those of its slot and its fields, and its effect. -/
def startTail (s : State) (box : Nat) (b : Mailbox) : Except Refuse State := do
  let ms := (startOf b).members
  let t := startTime s (startOf b) (b.field 0x18 8)
  need (decide (s.now + 1000000 ≤ t) && decide (t ≤ s.now + 60000000000)) stBadArgument 0x18
  need (s.tide.running.isNone || onTick s.tide t) stBadArgument 0x18
  need (decide (b.field 2 1 < ms.length)) stBadArgument 2
  need (decide ((ms[b.field 2 1]?).map Member.ident = some s.cfg.identity)) stBadArgument (0x20 + 32 * b.field 2 1)
  match (List.range ms.length).find? (fun i => decide (i ≠ b.field 2 1) &&
      !s.cfg.destinations.any (fun d => decide ((ms[i]?).map Member.ident = some d.ident))) with
  | some i => badField (0x20 + 32 * i)
  | none => .ok (handBack (s.updTide (fun k => { k with start := some (startOf b) })) box stOk [])

theorem bitN_zero_of_le {x : Nat} (h : x ≤ 1) : bitN x 0 = decide (x = 1) := by
  obtain rfl | rfl : x = 0 ∨ x = 1 := by omega
  all_goals rfl

/-- A point is within one of a multiple of p past e. -/
theorem near_multiple_iff {e a p : Nat} (hp : 0 < p) :
    (e ≤ a + 1 ∧ (a < e ∨ (a - e) % p ≤ 1 ∨ p ≤ (a - e) % p + 1)) ↔ ∃ k, e + k * p ≤ a + 1 ∧ a ≤ e + k * p + 1 := by
  have hdiv := Nat.div_add_mod' (a - e) p
  have hlt := Nat.mod_lt (a - e) hp
  constructor
  · rintro ⟨hlo, hbefore | hafter | hnext⟩
    · exact ⟨0, by omega⟩
    · by_cases hbefore : a < e
      · exact ⟨0, by omega⟩
      · exact ⟨(a - e) / p, by omega⟩
    · by_cases hbefore : a < e
      · exact ⟨0, by omega⟩
      · exact ⟨(a - e) / p + 1, by rw [Nat.add_mul, Nat.one_mul]; omega⟩
  · rintro ⟨k, hlo, hhi⟩
    refine ⟨by omega, ?_⟩
    rcases Nat.lt_or_ge a e with hbefore | hafter
    · exact .inl hbefore
    rcases Nat.lt_or_ge (a - e) (k * p) with hless | hmore
    · obtain ⟨j, rfl⟩ : ∃ j, k = j + 1 := Nat.exists_eq_succ_of_ne_zero (by rintro rfl; omega)
      have hsplit : a - e = p - 1 + j * p := by rw [Nat.add_mul, Nat.one_mul] at *; omega
      refine .inr (.inr ?_)
      rw [hsplit, Nat.add_mul_mod_self_right, Nat.mod_eq_of_lt (by omega)]
      omega
    · obtain ⟨d, hd⟩ := Nat.exists_eq_add_of_le hmore
      refine .inr (.inl ?_)
      rw [hd, Nat.mul_add_mod_self_right]
      exact (Nat.mod_le d p).trans (by omega)

theorem onTick_iff {t : Tide} (a : Nat) (hp : 0 < t.periodUs) : onTick t a = true ↔
    ∃ k, t.epochSec * 10 ^ 9 + t.epochNs + k * (t.periodUs * 1000) ≤ a + 1 ∧ a ≤ t.epochSec * 10 ^ 9 + t.epochNs + k * (t.periodUs * 1000) + 1 := by
  rw [← near_multiple_iff (by omega)]
  simp only [onTick, Bool.and_eq_true, Bool.or_eq_true, decide_eq_true_eq, or_assoc]
  rfl

section
variable {s : State} {box : Nat}

theorem memberCount_eq (hn : (s.box box).field 1 1 ≤ 64) : memberCount (s.box box) = (s.box box).field 1 1 := Nat.min_eq_right hn

variable (hbox : box < 72) (hwhole : Whole s box 0x12 (0x20 + 32 * (s.box box).field 1 1) [(3, 5), (0x14, 4)])
  (hst : s.pkg.st = .ready ∨ s.pkg.st = .serving) (hslot : (s.box box).field 0 1 ≤ 1) (hone : 1 ≤ (s.box box).field 1 1)
  (hmax : (s.box box).field 1 1 ≤ 64) (hsec : (s.box box).field 8 8 < 2 ^ 48) (hns : (s.box box).field 0x10 4 < 10 ^ 9)
  (hmembers : ∀ i, i < (s.box box).field 1 1 → (s.box box).field (0x20 + 32 * i + 0x18) 1 ≤ 15
    ∧ (s.box box).field (0x20 + 32 * i + 0x19) 1 ≤ 1 ∧ (s.box box).field (0x20 + 32 * i + 0x1A) 6 = 0)
include hbox hwhole hst hslot hone hmax hsec hmembers

theorem passes_tideStart : Passes s box cmdTideStart [(3, 5), (0x14, 4)] startFields := by
  obtain ⟨hasked, hlength, hzero⟩ := hwhole
  refine ⟨hasked, source_of_lt _ hbox rfl, taken_patPlan hst, lenIs_of hlength, hzero, fun f hf => ?_⟩
  rw [startFields, List.mem_append, memberCount_eq hmax] at hf
  rcases hf with hf | hf
  · simp only [List.mem_cons, List.not_mem_nil, or_false] at hf
    rcases hf with rfl | rfl | rfl
    · simpa only [decide_eq_true_eq] using hslot
    · simp [hone, hmax]
    · simpa only [decide_eq_true_eq] using hsec
  · obtain ⟨i, hi, hf⟩ := List.mem_flatMap.mp hf
    obtain ⟨hkey, hfamily, hpad⟩ := hmembers i (List.mem_range.mp hi)
    simp only [List.mem_cons, List.not_mem_nil, or_false] at hf
    rcases hf with rfl | rfl | rfl <;> simp [hkey, hfamily, hpad]


theorem tideStart_busy (hbusy : slotBusy s ((s.box box).field 0 1) = true) :
    Completes (.tideStart box) s (fun t => Refused s t box 0x200 0) := by
  replace hbusy : slotBusy (popped s) ((s.box box).field 0 1) = true := hbusy
  refine completes_refused rfl (passes_tideStart hbox hwhole hst hslot hone hmax hsec hmembers) ?_
  simp only [hbusy]
  rfl

variable (hbusy : slotBusy s ((s.box box).field 0 1) = false)
include hbusy

theorem tideStart_wrong (hwrong : s.plan ((s.box box).field 0 1) = none ∨ s.tide.running = some ((s.box box).field 0 1) ∨ s.tide.start ≠ none) :
    Completes (.tideStart box) s (fun t => Refused s t box 0x103 0) := by
  replace hbusy : slotBusy (popped s) ((s.box box).field 0 1) = false := hbusy
  have hfree : (((popped s).plan ((s.box box).field 0 1)).isSome && decide ((popped s).tide.running ≠ some ((s.box box).field 0 1))
      && (popped s).tide.start.isNone) = false := by
    change ((s.plan ((s.box box).field 0 1)).isSome && decide (s.tide.running ≠ some ((s.box box).field 0 1)) && s.tide.start.isNone) = false
    rcases hwrong with h | h | h
    · simp [h]
    · simp [h]
    · simp [Option.isNone_eq_false_iff.mpr (Option.isSome_iff_ne_none.mpr h)]
  refine completes_refused rfl (passes_tideStart hbox hwhole hst hslot hone hmax hsec hmembers) ?_
  simp only [hbusy, hfree]
  rfl

variable {pl : Plan} (hplan : s.plan ((s.box box).field 0 1) = some pl) (hrun : s.tide.running ≠ some ((s.box box).field 0 1))
  (hstart : s.tide.start = none)
include hplan hrun hstart hns

omit hbox hwhole hst hslot hone hsec in
/-- The checks of its slot and fields pass. -/
theorem tideStart_checks : slotBusy (popped s) ((s.box box).field 0 1) = false
    ∧ (((popped s).plan ((s.box box).field 0 1)).isSome && decide ((popped s).tide.running ≠ some ((s.box box).field 0 1))
      && (popped s).tide.start.isNone) = true
    ∧ decide ((s.box box).field 0x10 4 < 1000000000) = true
    ∧ (List.range (memberCount (s.box box))).map (memberAt (s.box box)) = (List.range ((s.box box).field 1 1)).map (memberOf (s.box box)) := by
  refine ⟨hbusy, ?_, decide_eq_true hns, ?_⟩
  · change ((s.plan ((s.box box).field 0 1)).isSome && decide (s.tide.running ≠ some ((s.box box).field 0 1)) && s.tide.start.isNone) = true
    simp [hplan, hrun, hstart]
  · rw [memberCount_eq hmax]
    refine List.map_congr_left (fun i hi => ?_)
    simp only [memberAt, memberOf, bitN_zero_of_le (hmembers i (List.mem_range.mp hi)).2.1]

theorem tideStart_of_tail {t : State} (htail : startTail (popped s) box (s.box box) = .ok t) {P : State → Prop} (hP : P t.drawn) :
    Completes (.tideStart box) s P := by
  obtain ⟨hbusy', hfree, hnanos, hrecords⟩ := tideStart_checks hmax hns hmembers hbusy hplan hrun hstart
  refine completes_of_body rfl (passes_tideStart hbox hwhole hst hslot hone hmax hsec hmembers) ?_ hP
  simp only [hbusy', hfree, hnanos, hrecords, Bool.not_false, need_true_bind]
  simp only [startTail, startOf] at htail
  exact htail

theorem tideStart_of_tail_refused {status off : Nat} (htail : startTail (popped s) box (s.box box) = .error (status, off)) :
    Completes (.tideStart box) s (fun t => Refused s t box status off) := by
  obtain ⟨hbusy', hfree, hnanos, hrecords⟩ := tideStart_checks hmax hns hmembers hbusy hplan hrun hstart
  refine completes_refused rfl (passes_tideStart hbox hwhole hst hslot hone hmax hsec hmembers) ?_
  simp only [hbusy', hfree, hnanos, hrecords, Bool.not_false, need_true_bind]
  simp only [startTail, startOf] at htail
  exact htail


end

/-- The tick of a start whose slot holds a plan. -/
theorem startTime_startOf {s : State} {box : Nat} {pl : Plan} (hplan : s.plan ((s.box box).field 0 1) = some pl) :
    startTime (popped s) (startOf (s.box box)) ((s.box box).field 0x18 8) = startNs (s.box box) pl := by
  have hperiod : (((popped s).plan (startOf (s.box box)).slot).map Plan.periodUs).getD 0 = pl.periodUs :=
    congrArg (fun x : Option Plan => (x.map Plan.periodUs).getD 0) hplan
  rw [startTime, hperiod]
  rfl

theorem getElem?_members (b : Mailbox) {i : Nat} (hi : i < b.field 1 1) : (startOf b).members[i]? = some (memberOf b i) := by
  simp [startOf, hi]

theorem length_members (b : Mailbox) : (startOf b).members.length = b.field 1 1 := by simp [startOf]

theorem find?_unknown_eq_none {s : State} {box : Nat}
    (hknown : ∀ i, i < (s.box box).field 1 1 → i ≠ (s.box box).field 2 1 → ∃ d ∈ s.cfg.destinations, d.ident = (memberOf (s.box box) i).ident) :
    (List.range (startOf (s.box box)).members.length).find? (fun i => decide (i ≠ (s.box box).field 2 1) &&
      !(popped s).cfg.destinations.any (fun d => decide (((startOf (s.box box)).members[i]?).map Member.ident = some d.ident))) = none := by
  rw [List.find?_eq_none]
  intro i hi
  rw [length_members, List.mem_range] at hi
  rw [getElem?_members _ hi, Bool.and_eq_true, decide_eq_true_eq, Bool.not_eq_true', List.any_eq_false]
  rintro ⟨hother, hunknown⟩
  obtain ⟨d, hd, hident⟩ := hknown i hi hother
  refine hunknown d hd ?_
  rw [Option.map_some, hident, decide_eq_true_eq]

/-- The start falls in its window of 1 ms to 60 s. -/
def InWindow (s : State) (a : Nat) : Prop := s.now + 10 ^ 6 ≤ a ∧ a ≤ s.now + 60 * 10 ^ 9

section
variable {s : State} {box : Nat} {pl : Plan} (hplan : s.plan ((s.box box).field 0 1) = some pl)
include hplan

theorem startTail_offWindow (h : ¬ InWindow s (startNs (s.box box) pl)) : startTail (popped s) box (s.box box) = .error (0x101, 0x18) := by
  have hwindow : (decide ((popped s).now + 1000000 ≤ startNs (s.box box) pl) && decide (startNs (s.box box) pl ≤ (popped s).now + 60000000000)) = false := by
    rw [Bool.eq_false_iff, ne_eq, Bool.and_eq_true, decide_eq_true_eq, decide_eq_true_eq]
    exact h
  simp only [startTail, startTime_startOf hplan, hwindow, need_false_bind]
  rfl

variable (h : InWindow s (startNs (s.box box) pl))
include h

omit hplan in
theorem inWindow_checked : (decide ((popped s).now + 1000000 ≤ startNs (s.box box) pl) && decide (startNs (s.box box) pl ≤ (popped s).now + 60000000000)) = true := by
  rw [Bool.and_eq_true, decide_eq_true_eq, decide_eq_true_eq]
  exact h

theorem startTail_offTick (htick : (s.tide.running.isNone || onTick s.tide (startNs (s.box box) pl)) = false) :
    startTail (popped s) box (s.box box) = .error (0x101, 0x18) := by
  replace htick : ((popped s).tide.running.isNone || onTick (popped s).tide (startNs (s.box box) pl)) = false := htick
  simp only [startTail, startTime_startOf hplan, inWindow_checked h, htick, need_true_bind, need_false_bind]
  rfl

variable (htick : (s.tide.running.isNone || onTick s.tide (startNs (s.box box) pl)) = true)
include htick

theorem startTail_noMember (hown : (s.box box).field 1 1 ≤ (s.box box).field 2 1) :
    startTail (popped s) box (s.box box) = .error (0x101, 2) := by
  replace htick : ((popped s).tide.running.isNone || onTick (popped s).tide (startNs (s.box box) pl)) = true := htick
  have hmember : decide ((s.box box).field 2 1 < (startOf (s.box box)).members.length) = false := by simp [length_members, hown]
  simp only [startTail, startTime_startOf hplan, inWindow_checked h, htick, hmember, need_true_bind, need_false_bind]
  rfl

variable (hown : (s.box box).field 2 1 < (s.box box).field 1 1)
include hown

theorem startTail_notSelf (hself : (memberOf (s.box box) ((s.box box).field 2 1)).ident ≠ s.cfg.identity) :
    startTail (popped s) box (s.box box) = .error (0x101, 0x20 + 32 * (s.box box).field 2 1) := by
  replace htick : ((popped s).tide.running.isNone || onTick (popped s).tide (startNs (s.box box) pl)) = true := htick
  have hmember : decide ((s.box box).field 2 1 < (startOf (s.box box)).members.length) = true := by simp [length_members, hown]
  have hident : decide ((some (memberOf (s.box box) ((s.box box).field 2 1))).map Member.ident = some (popped s).cfg.identity) = false :=
    decide_eq_false (fun heq => hself (Option.some.inj heq))
  simp only [startTail, startTime_startOf hplan, inWindow_checked h, htick, hmember, getElem?_members _ hown, hident, need_true_bind, need_false_bind]
  rfl

theorem startTail_starts (hself : (memberOf (s.box box) ((s.box box).field 2 1)).ident = s.cfg.identity)
    (hknown : ∀ i, i < (s.box box).field 1 1 → i ≠ (s.box box).field 2 1 → ∃ d ∈ s.cfg.destinations, d.ident = (memberOf (s.box box) i).ident) :
    startTail (popped s) box (s.box box) = .ok (handBack { popped s with tide := { s.tide with start := some (startOf (s.box box)) } } box 0 []) := by
  replace htick : ((popped s).tide.running.isNone || onTick (popped s).tide (startNs (s.box box) pl)) = true := htick
  have hmember : decide ((s.box box).field 2 1 < (startOf (s.box box)).members.length) = true := by simp [length_members, hown]
  have hident : decide ((some (memberOf (s.box box) ((s.box box).field 2 1))).map Member.ident = some (popped s).cfg.identity) = true :=
    decide_eq_true (congrArg some hself)
  have hall := find?_unknown_eq_none hknown
  simp only [startTail, startTime_startOf hplan, inWindow_checked h, htick, hmember, getElem?_members _ hown, hident, hall, need_true_bind]
  rfl

end

/-! ### TIDE_STOP (R55) -/

section
variable {s : State} {box : Nat} (hbox : box < 72) (hwhole : Whole s box 0x13 0 []) (hst : s.pkg.st = .ready ∨ s.pkg.st = .serving)
include hbox hwhole hst

theorem passes_tideStop : Passes s box cmdTideStop [] noFields := by
  obtain ⟨hasked, hlength, hzero⟩ := hwhole
  exact ⟨hasked, source_of_lt _ hbox rfl, taken_patPlan hst, lenIs_of hlength, hzero, fun f hf => absurd hf (List.not_mem_nil)⟩

theorem tideStop_idle (hrun : s.tide.running = none) (hstart : s.tide.start = none) :
    Completes (.tideStop box) s (fun t => Refused s t box 0x103 0) := by
  have hidle : ((popped s).tide.running.isSome || (popped s).tide.start.isSome) = false := by
    change (s.tide.running.isSome || s.tide.start.isSome) = false
    rw [hrun, hstart]
    rfl
  refine completes_refused rfl (passes_tideStop hbox hwhole hst) ?_
  simp only [hidle, need_false_bind]
  rfl

theorem tideStop_cancels (hrun : s.tide.running = none) (hstart : s.tide.start ≠ none) :
    Completes (.tideStop box) s (fun t => Handed { popped s with tide := { s.tide with start := none, declared := [] } } t box 0 0 false
      (leBytes 8 s.tide.lastTide ++ leBytes 4 s.tide.lastStep)) := by
  have hrun' : (popped s).tide.running = none := hrun
  have hstart' : (popped s).tide.start.isSome = true := Option.isSome_iff_ne_none.mpr hstart
  have hlen : (stopBytes s).length = 12 := by simp [stopBytes, Device.length_leBytes]
  refine completes_of_body rfl (passes_tideStop hbox hwhole hst) ?_
    (handed_drawn (handed_handBackAt { popped s with tide := { s.tide with start := none, declared := [] } } box 0 0 false
      (resp := stopBytes s) (by rw [hlen]; decide)))
  simp only [hrun', hstart', Option.isSome_none, Option.isNone_none, Bool.false_or, need_true_bind, if_true]
  rfl

theorem tideStop_stops (hrun : s.tide.running ≠ none) :
    Completes (.tideStop box) s (fun t => Accepted { popped s with tide := { s.tide with stopping := true, start := none } } t box .tideStop) := by
  have hsome : (popped s).tide.running.isSome = true := Option.isSome_iff_ne_none.mpr hrun
  have hnone : (popped s).tide.running.isNone = false := Option.isNone_eq_false_iff.mpr hsome
  refine completes_of_body rfl (passes_tideStop hbox hwhole hst) ?_
    (accepted_accept { popped s with tide := { s.tide with stopping := true, start := none } } box .tideStop)
  simp only [hsome, hnone, Bool.true_or, need_true_bind, Bool.false_eq_true, if_false]
  rfl

end

end Sys2Proof.Plans
end

section
/-!
PROOFS. What the admission of R46 to R51 guarantees of a plan it admits (O53). -/

namespace Sys2Proof.Plans

open Sys2Proof.Machine Sys2Proof.Safety Sys2Proof.Laws

/-! ### Checks that all pass -/

theorem fits_ok_iff {ok : Bool} {f : NoFit} {u : Unit} : fits ok f = .ok u ↔ ok = true := by
  cases ok <;> simp [fits]

/-- A check and what follows it. -/
theorem bind_ok_iff {β : Type} {x : Except NoFit Unit} {k : Unit → Except NoFit β} {b : β} :
    (x >>= k) = .ok b ↔ x = .ok () ∧ k () = .ok b := by
  cases x
  case error e => exact ⟨nofun, nofun⟩
  case ok a => exact ⟨fun h => ⟨rfl, h⟩, fun h => h.2⟩

theorem checkEach_ok_iff {α : Type} {f : α → Except NoFit Unit} {l : List α} : checkEach l f = .ok () ↔ ∀ x ∈ l, f x = .ok () := by
  induction l with
  | nil => simp [checkEach]
  | cons a l ih => simp [checkEach, bind_ok_iff, ih]

/-- A plan's pans bound in the order of R46. -/
def boundPans (s : State) (slot : Nat) (pl : Plan) : List Nat := (bindOrder s slot).take pl.pans.length

/-- Pans that the two plans leave over. -/
def sparePans (s : State) (slot : Nat) (pl : Plan) : Nat :=
  ((eligiblePans s).filter (fun p => !(boundPans s slot pl).contains p
    && !(((otherPlan s slot).map Plan.binding).getD []).contains p)).length

/-- The largest free range of the pool. -/
def largestRange (rs : List (Nat × Nat)) : Nat := rs.foldl (fun m r => max m r.2) 0

/-- The checks of R50, all passed, and the plan admitted. -/
structure Admitted (s : State) (slot : Nat) (pl q : Plan) : Prop where
  pans : pl.pans.length ≤ (eligiblePans s).length
  spare : max pl.reserve (((otherPlan s slot).map Plan.reserve).getD 0) ≤ sparePans s slot pl
  times : ∀ x ∈ pl.bedList, bedTimeCheck pl x = .ok ()
  spaces : ∀ x ∈ pl.bedList, bedSpaceCheck x = .ok ()
  brine : ∀ x ∈ panList pl, panCheck s pl (boundPans s slot pl) x = .ok ()
  stock : stockLen pl ≤ largestRange (poolRanges s slot)
  network : ∀ out, networkCheck s pl out = .ok ()
  power : ceilDiv (floorPowerP s pl (boundPans s slot pl)) pl.periodUs ≤ s.power.cap * 1000
  eq : q = { pl with
    binding := boundPans s slot pl, floorPower := ceilDiv (floorPowerP s pl (boundPans s slot pl)) pl.periodUs,
    stockpileBase := if stockLen pl = 0 then 0 else
      (((poolRanges s slot).find? (fun r => decide (stockLen pl ≤ r.2))).map Prod.fst).getD 0,
    stockpileLen := stockLen pl }

theorem admitted_of_admission {s : State} {slot : Nat} {pl q : Plan} (h : admission s slot pl = .ok q) : Admitted s slot pl q := by
  simp only [admission, bind_ok_iff, fits_ok_iff, decide_eq_true_eq] at h
  obtain ⟨hpans, hspare, htimes, hspaces, hbrine, hstock, hin, hout, hpower, heq⟩ := h
  exact ⟨hpans, hspare, checkEach_ok_iff.mp htimes, checkEach_ok_iff.mp hspaces, checkEach_ok_iff.mp hbrine, hstock,
    Bool.rec hin hout, hpower, (Except.ok.inj heq).symm⟩

/-! ### The binding (R46, R47) -/

section
variable {s : State} {slot : Nat} {pl : Plan}

theorem bindOrder_perm (s : State) (slot : Nat) : (bindOrder s slot).Perm (eligiblePans s) := List.filter_append_perm _ _

theorem nodup_eligiblePans (s : State) : (eligiblePans s).Nodup := List.nodup_range.filter _

theorem mem_eligiblePans {p : Nat} : p ∈ eligiblePans s ↔ p < s.cfg.variant.pans ∧ (s.onlinePan p && !(s.pan p).held) = true := by
  rw [eligiblePans, List.mem_filter, List.mem_range]

theorem nodup_boundPans (s : State) (slot : Nat) (pl : Plan) : (boundPans s slot pl).Nodup :=
  ((bindOrder_perm s slot).nodup_iff.mpr (nodup_eligiblePans s)).sublist (List.take_sublist _ _)

theorem mem_eligible_of_bound {p : Nat} (h : p ∈ boundPans s slot pl) : p ∈ eligiblePans s :=
  (bindOrder_perm s slot).mem_iff.mp (List.mem_of_mem_take h)

theorem length_boundPans (h : pl.pans.length ≤ (eligiblePans s).length) : (boundPans s slot pl).length = pl.pans.length := by
  rw [boundPans, List.length_take, (bindOrder_perm s slot).length_eq, Nat.min_eq_left h]

theorem sparePans_eq (s : State) (slot : Nat) (pl : Plan) : sparePans s slot pl =
    ((List.range s.cfg.variant.pans).filter (fun p => s.onlinePan p && !(s.pan p).held && !(boundPans s slot pl).contains p
      && !(((s.plan (1 - slot)).map Plan.binding).getD []).contains p)).length := by
  rw [sparePans, eligiblePans, List.filter_filter, otherPlan]
  refine congrArg List.length (List.filter_congr fun p _ => ?_)
  rw [Bool.and_comm, Bool.and_assoc, Bool.and_assoc, Bool.and_assoc]

/-! ### Pans, beds and slots (R47, R48) -/

theorem mem_zip_range {α : Type} {l : List α} {j : Nat} {x : α} (h : l[j]? = some x) : (j, x) ∈ (List.range l.length).zip l := by
  obtain ⟨hj, rfl⟩ := List.getElem?_eq_some_iff.mp h
  exact List.mem_iff_getElem.mpr ⟨j, by simpa using hj, by simp⟩

theorem exists_mem_bedList {x : PanPlan} {b : BedPlan} (hx : x ∈ pl.pans) (hb : b ∈ x.beds) : ∃ j k, (j, k, b) ∈ pl.bedList := by
  obtain ⟨j, hj⟩ := List.mem_iff_getElem?.mp hx
  obtain ⟨k, hk⟩ := List.mem_iff_getElem?.mp hb
  exact ⟨j, k, List.mem_flatMap.mpr ⟨(j, x), mem_zip_range hj, List.mem_map.mpr ⟨(k, b), mem_zip_range hk, rfl⟩⟩⟩

theorem bedTime_iff {x : Nat × Nat × BedPlan} : bedTimeCheck pl x = .ok () ↔ x.2.2.worstCycles * 5 ≤ budgetNs pl * 8 := by
  rw [bedTimeCheck, fits_ok_iff, decide_eq_true_eq]

theorem bedSpace_iff {x : Nat × Nat × BedPlan} : bedSpaceCheck x = .ok () ↔
    x.2.2.rakes ≤ 48 ∧ x.2.2.blockRakes ≤ 32 ∧ x.2.2.regfile ≤ 256 * 2 ^ 10 ∧ x.2.2.scratch ≤ 4 * 2 ^ 20 ∧ x.2.2.accum ≤ 512 * 2 ^ 10 := by
  simp [bedSpaceCheck, bind_ok_iff, fits_ok_iff]

theorem panCheck_iff {binding : List Nat} {x : Nat × PanPlan} : panCheck s pl binding x = .ok () ↔
    x.2.brineBytes ≤ freeBrine s (binding.getD x.1 0) ∧ x.2.brineTraffic ≤ budgetNs pl * 3200
      ∧ x.2.flumeIn ≤ budgetNs pl * 1000 ∧ x.2.flumeOut ≤ budgetNs pl * 1000 := by
  simp [panCheck, bind_ok_iff, fits_ok_iff]

theorem ioBytes_eq (pl : Plan) (out : Bool) : ioBytes pl out = ((pl.slots.filter (fun k => k.output = out)).map IoSlot.bytes).sum := by
  rw [ioBytes, List.sum_eq_foldl, List.foldl_map]

theorem network_iff {out : Bool} : networkCheck s pl out = .ok () ↔
    ((pl.slots.filter (fun k => k.output = out)).map IoSlot.bytes).sum ≤ s.cfg.variant.ports * 200 * budgetNs pl := by
  rw [networkCheck, fits_ok_iff, decide_eq_true_eq, ioBytes_eq]

/-! ### The stockpile range (R319) -/

theorem stockLen_bounds (pl : Plan) : pl.stockpileBytes ≤ stockLen pl ∧ stockLen pl < pl.stockpileBytes + 2 * 2 ^ 20
    ∧ stockLen pl % (2 * 2 ^ 20) = 0 := by
  rw [stockLen, ceilDiv, mib]
  omega

theorem exists_of_le_largest {n : Nat} (hn : n ≠ 0) {rs : List (Nat × Nat)} (h : n ≤ largestRange rs) : ∃ r ∈ rs, n ≤ r.2 := by
  have hgen : ∀ (rs : List (Nat × Nat)) (m : Nat), n ≤ rs.foldl (fun m r => max m r.2) m → n ≤ m ∨ ∃ r ∈ rs, n ≤ r.2 := by
    intro rs
    induction rs with
    | nil => exact fun m h => .inl h
    | cons r rs ih =>
      intro m h
      rcases ih (max m r.2) h with hmax | ⟨x, hx, hle⟩
      · rcases le_max_iff.mp hmax with hm | hr
        · exact .inl hm
        · exact .inr ⟨r, List.mem_cons_self, hr⟩
      · exact .inr ⟨x, List.mem_cons_of_mem r hx, hle⟩
  rcases hgen rs 0 h with hzero | hfound
  · omega
  · exact hfound

theorem exists_base {n : Nat} {rs : List (Nat × Nat)} (h : ∃ r ∈ rs, n ≤ r.2) :
    ∃ x ∈ rs, ((rs.find? (fun r => decide (n ≤ r.2))).map Prod.fst).getD 0 = x.1 ∧ n ≤ x.2 := by
  obtain ⟨r, hr, hle⟩ := h
  cases hfind : rs.find? (fun r => decide (n ≤ r.2))
  case none => exact absurd hle (by simpa using List.find?_eq_none.mp hfind r hr)
  case some x => exact ⟨x, List.mem_of_find?_eq_some hfind, rfl, by simpa using List.find?_some hfind⟩

end

/-! ### What admission guarantees -/

theorem admission_guarantees (s : State) (slot : Nat) (pl q : Plan) (h : admission s slot pl = .ok q) :
    let eligible (p : Nat) : Bool := s.onlinePan p && !(s.pan p).held
    let other := ((s.plan (1 - slot)).map Plan.binding).getD []
    let spare := ((List.range s.cfg.variant.pans).filter (fun p => eligible p && !q.binding.contains p && !other.contains p)).length
    let ns := pl.periodUs * 950
    q = { pl with binding := q.binding, floorPower := q.floorPower, stockpileBase := q.stockpileBase, stockpileLen := q.stockpileLen }
      ∧ q.binding.length = pl.pans.length ∧ q.binding.Nodup ∧ (∀ p ∈ q.binding, p < s.cfg.variant.pans ∧ eligible p = true)
      ∧ pl.reserve ≤ spare ∧ (∀ o, s.plan (1 - slot) = some o → o.reserve ≤ spare)
      ∧ (∀ x ∈ pl.pans, ∀ b ∈ x.beds, b.worstCycles * 10 ≤ ns * 16 ∧ b.rakes ≤ 48 ∧ b.blockRakes ≤ 32 ∧ b.regfile ≤ 256 * 2 ^ 10
          ∧ b.scratch ≤ 4 * 2 ^ 20 ∧ b.accum ≤ 512 * 2 ^ 10)
      ∧ (∀ j x, pl.pans[j]? = some x → x.brineBytes ≤ freeBrine s (q.binding.getD j 0) ∧ x.brineTraffic ≤ ns * 3200 ∧ x.flumeIn ≤ ns * 1000 ∧ x.flumeOut ≤ ns * 1000)
      ∧ (∀ out, ((pl.slots.filter (fun k => k.output = out)).map IoSlot.bytes).sum ≤ s.cfg.variant.ports * 200 * ns)
      ∧ pl.stockpileBytes ≤ q.stockpileLen ∧ q.stockpileLen < pl.stockpileBytes + 2 * 2 ^ 20 ∧ q.stockpileLen % (2 * 2 ^ 20) = 0
      ∧ (q.stockpileLen = 0 → q.stockpileBase = 0) ∧ (q.stockpileLen ≠ 0 → ∃ x ∈ poolRanges s slot, q.stockpileBase = x.1 ∧ q.stockpileLen ≤ x.2)
      ∧ q.floorPower ≤ s.power.cap * 1000 := by
  obtain ⟨hpans, hspare, htimes, hspaces, hbrine, hstock, hnetwork, hpower, rfl⟩ := admitted_of_admission h
  rw [sparePans_eq] at hspare
  obtain ⟨hlen, hnear, hunit⟩ := stockLen_bounds pl
  refine ⟨rfl, length_boundPans hpans, nodup_boundPans s slot pl, fun p hp => mem_eligiblePans.mp (mem_eligible_of_bound hp),
    (le_max_left _ _).trans hspare, fun o ho => ?_, fun x hx b hb => ?_, fun j x hj => panCheck_iff.mp (hbrine (j, x) (mem_zip_range hj)),
    fun out => network_iff.mp (hnetwork out), hlen, hnear, hunit, fun hzero => if_pos hzero, fun hne => ?_, hpower⟩
  · have hother : ((otherPlan s slot).map Plan.reserve).getD 0 = o.reserve := by
      rw [otherPlan, ho]
      rfl
    exact hother.symm.le.trans ((le_max_right _ _).trans hspare)
  · obtain ⟨j, k, hbed⟩ := exists_mem_bedList hx hb
    have htime : b.worstCycles * 5 ≤ pl.periodUs * 950 * 8 := bedTime_iff.mp (htimes _ hbed)
    exact ⟨by omega, bedSpace_iff.mp (hspaces _ hbed)⟩
  · exact (if_neg hne).symm ▸ exists_base (exists_of_le_largest hne hstock)

end Sys2Proof.Plans
end

section
/-!
PROOFS. The measurement registers (R472): SHA-384 gives 48 bytes, and extending a register puts the hash of its bytes and the item's
hash into it and leaves the others. -/

namespace Sys2Proof.Measurement

open Sys2Proof.Machine Sys2Proof.Safety Sys2Proof.Laws

/-! ### The length of a hash -/

/-- There are sixteen primes to take the initial hash from. -/
theorem sixteen_le_primes : 16 ≤ shaPrimes.length := by
  have hfirst : ((List.range 54).filter isPrime).length = 16 := by decide
  rw [← hfirst]
  exact ((List.range_sublist.mpr (by decide)).filter isPrime).length_le

theorem length_shaStart : shaStart.length = 8 := by
  have hprimes := sixteen_le_primes
  simp only [shaStart, List.length_map, List.length_take, List.length_drop]
  omega

/-- A round keeps the two histories at four words each. -/
theorem length_shaRound {r : ShaWork} (h : r.1.length = 4 ∧ r.2.length = 4) (kw : Dword) :
    (shaRound r kw).1.length = 4 ∧ (shaRound r kw).2.length = 4 := by
  obtain ⟨a, e⟩ := r
  unfold shaRound
  split
  · exact ⟨rfl, rfl⟩
  · exact h

theorem length_shaRun (ks : List Dword) : ∀ (w : List Dword) {r : ShaWork}, r.1.length = 4 ∧ r.2.length = 4 →
    (shaRun ks w r).1.length = 4 ∧ (shaRun ks w r).2.length = 4 := by
  induction ks with
  | nil => exact fun w r h => h
  | cons k rest ih => exact fun w r h => ih _ (length_shaRound h _)

theorem length_shaBlock {h : List Dword} (hlen : h.length = 8) (block : List Byte) : (shaBlock h block).length = 8 := by
  obtain ⟨hfirst, hsecond⟩ := length_shaRun shaK (beDwords 16 block) (r := (h.take 4, h.drop 4)) ⟨by simp [hlen], by simp [hlen]⟩
  simp only [shaBlock, List.length_zipWith, List.length_append, hfirst, hsecond, hlen]
  rfl

theorem length_shaBlocks (n : Nat) : ∀ {h : List Dword} (bs : List Byte), h.length = 8 → (shaBlocks n h bs).length = 8 := by
  induction n with
  | zero => exact fun bs h => h
  | succ n ih => exact fun bs h => ih _ (length_shaBlock h _)

theorem length_flatMap_dwords (ws : List Dword) : (ws.flatMap (fun w => (leBytes 8 w.toNat).reverse)).length = 8 * ws.length := by
  induction ws with
  | nil => rfl
  | cons w ws ih =>
    rw [List.flatMap_cons, List.length_append, ih, List.length_reverse, Device.length_leBytes, List.length_cons]
    omega

theorem length_sha384 (bs : List Byte) : (sha384 bs).length = 48 := by
  rw [sha384, length_flatMap_dwords, List.length_take, length_shaBlocks _ _ length_shaStart]
  rfl

/-! ### A register's bytes -/

/-- The word that bytes spell, the first of them highest. -/
def wordOf (bs : List Byte) : BitVec 384 := bs.foldl (fun a b => (a <<< 8) ||| b.setWidth 384) 0

theorem extract_last (a : BitVec 384) (b : Byte) : ((a <<< 8) ||| b.setWidth 384).extractLsb' 0 8 = b := by
  ext i hi
  have hin : i < 384 := by omega
  simp [hi, hin]

theorem extract_earlier (a : BitVec 384) (b : Byte) {j : Nat} (hj : j < 47) :
    ((a <<< 8) ||| b.setWidth 384).extractLsb' (8 * (j + 1)) 8 = a.extractLsb' (8 * j) 8 := by
  ext i hi
  have hpos : 8 * (j + 1) + i - 8 = 8 * j + i := by omega
  have hin : 8 * (j + 1) + i < 384 := by omega
  have hin' : 8 * j + i < 384 := by omega
  have hlow : ¬ 8 * (j + 1) + i < 8 := by omega
  have hbeyond : b.getLsbD (8 * (j + 1) + i) = false := BitVec.getLsbD_of_ge b _ (by omega)
  simp [hpos, hin, hlow, hbeyond, BitVec.getLsbD_eq_getElem hin']

theorem extract_wordOf (bs : List Byte) (hlen : bs.length ≤ 48) : ∀ k, k < bs.length →
    (wordOf bs).extractLsb' (8 * (bs.length - 1 - k)) 8 = bs.getD k 0 := by
  induction bs using List.reverseRecOn with
  | nil => exact fun k hk => absurd hk (Nat.not_lt_zero k)
  | append_singleton bs b ih =>
    intro k hk
    rw [List.length_append, List.length_singleton] at hlen hk ⊢
    have hstep : wordOf (bs ++ [b]) = (wordOf bs <<< 8) ||| b.setWidth 384 := by simp [wordOf]
    rw [hstep]
    rcases Nat.lt_or_ge k bs.length with hin | hlast
    · obtain ⟨j, hj⟩ : ∃ j, bs.length + 1 - 1 - k = j + 1 := ⟨bs.length - 1 - k, by omega⟩
      have hj' : bs.length - 1 - k = j := by omega
      rw [hj, extract_earlier _ _ (by omega), ← hj', ih (by omega) k hin, List.getD_append _ _ _ _ hin]
    · have hk' : k = bs.length := by omega
      subst hk'
      rw [Nat.add_sub_cancel, Nat.sub_self, Nat.mul_zero, extract_last]
      simp

theorem map_extract_wordOf {bs : List Byte} (hlen : bs.length = 48) :
    (List.range 48).map (fun k => (wordOf bs).extractLsb' (8 * (47 - k)) 8) = bs := by
  refine List.ext_getElem (by simp [hlen]) (fun k hk hk' => ?_)
  have hbyte := extract_wordOf bs (by omega) k hk'
  rw [hlen] at hbyte
  rw [List.getElem_map, List.getElem_range, hbyte, List.getD_eq_getElem _ _ hk']

/-! ### Extending a register -/

theorem extendM_only (s : State) (i : Nat) (item : List Byte) :
    extendM s i item = { s with trust := { s.trust with m := (extendM s i item).trust.m } } := rfl

theorem mBytes_extendM_same (s : State) (i : Nat) (item : List Byte) :
    mBytes (extendM s i item) i = sha384 (mBytes s i ++ sha384 item) := by
  have hm : tget 0 (extendM s i item).trust.m i = wordOf (sha384 (mBytes s i ++ sha384 item)) := by simp [extendM, wordOf]
  rw [mBytes, hm, map_extract_wordOf (length_sha384 _)]

theorem mBytes_extendM_other (s : State) {i k : Nat} (item : List Byte) (h : k ≠ i) : mBytes (extendM s i item) k = mBytes s k := by
  have hm : tget 0 (extendM s i item).trust.m k = tget 0 s.trust.m k := by simp [extendM, tget_tput_other _ _ h]
  simp only [mBytes, hm]

end Sys2Proof.Measurement
end

section
/-!
PROOFS. Zeroing by the salter (R288): where no cache and no partition holds a line, a range of whole lines reads zero from then on and
every other byte as before. -/

namespace Sys2Proof.Zeroing

open Sys2Proof.Machine Sys2Proof.Safety Sys2Proof.Laws

/-- From s to t memory and the lines that caches and partitions hold stay. -/
def SameLines (s t : State) : Prop := t.mem = s.mem ∧ t.coh.lines = s.coh.lines ∧ t.coh.part = s.coh.part

namespace SameLines

theorem refl (s : State) : SameLines s s := ⟨rfl, rfl, rfl⟩

theorem trans {s t u : State} (h : SameLines s t) (g : SameLines t u) : SameLines s u :=
  ⟨g.1.trans h.1, g.2.1.trans h.2.1, g.2.2.trans h.2.2⟩

theorem setDir (s : State) (l : Nat) (e : Option DirEntry) : SameLines s (s.setDir l e) := ⟨rfl, rfl, rfl⟩

theorem setPoison (s : State) (l : Nat) (b : Bool) : SameLines s (s.setPoison l b) := ⟨rfl, rfl, rfl⟩

theorem noteHome (s : State) (pa n : Nat) : SameLines s (s.noteHome pa n) := by
  unfold State.noteHome
  split
  · exact ⟨rfl, rfl, rfl⟩
  · exact refl s

theorem countInval (s : State) (l : Nat) (keep : Option Nat) : SameLines s (countInval s l keep) := by
  unfold Sys2Proof.Machine.countInval
  split
  · exact refl s
  · exact ⟨rfl, rfl, rfl⟩

theorem coresLose (s : State) (l : Nat) (keep : Option Nat) : SameLines s (coresLose s l keep) := by
  refine List.foldlRecOn _ _ (refl s) (fun t ht n _ => ?_)
  split
  · exact ht
  · exact ht.trans ⟨rfl, rfl, rfl⟩

theorem allHome {s t : State} (h : SameLines s t) (hs : AllHome s) : AllHome t := ⟨h.2.1.trans hs.1, h.2.2.trans hs.2⟩

end SameLines

/-- Where no cache holds a line, its invalidation moves no data. -/
theorem sameLines_invalidate {s : State} (h : AllHome s) (l : Nat) (keep : Option Nat) (discard : Bool) :
    SameLines s (invalidate s l keep discard) := by
  have hholders : s.holders l = [] := by rw [State.holders, h.1]; rfl
  have hpassed : s.passedTags l = [] := by rw [State.passedTags, h.1]; rfl
  have heq : invalidate s l keep discard = (coresLose (countInval s l keep) l keep).setDir l none := by
    simp only [invalidate, hholders, hpassed]
    rfl
  rw [heq]
  exact ((SameLines.countInval s l keep).trans (SameLines.coresLose _ l keep)).trans (SameLines.setDir _ l none)

theorem dramLine_mem (s : State) (l : Nat) (d : List Byte) (poison : Bool) : (s.dramLine l d poison).mem = tputs 0 s.mem (l * 64) d := by
  have hnoted : (s.dramLine l d poison).mem = tputs 0 (s.noteHome (l * 64) d.length).mem (l * 64) d := rfl
  rw [hnoted, (SameLines.noteHome s (l * 64) d.length).1]

theorem allHome_dramLine {s : State} (h : AllHome s) (l : Nat) (d : List Byte) (poison : Bool) : AllHome (s.dramLine l d poison) :=
  (SameLines.noteHome s (l * 64) d.length).allHome h

/-- A line zeroed at its home. -/
def zeroLine (s : State) (l : Nat) : State := (invalidate s l none true).homeWrite l (List.replicate 64 0) false none

theorem allHome_zeroLine {s : State} (h : AllHome s) (l : Nat) :
    AllHome (zeroLine s l) ∧ (zeroLine s l).mem = tputs 0 s.mem (l * 64) (List.replicate 64 0) := by
  have hsame := sameLines_invalidate h l none true
  have hhome := hsame.allHome h
  rw [zeroLine]
  generalize invalidate s l none true = t at hsame hhome
  have hpart : t.partLine l = none := by rw [State.partLine, hhome.2]; rfl
  have hwrite : t.homeWrite l (List.replicate 64 0) false none = t.dramLine l (List.replicate 64 0) false := by
    simp only [State.homeWrite, hpart]
  rw [hwrite, dramLine_mem, hsame.1]
  exact ⟨allHome_dramLine hhome l _ false, rfl⟩

theorem memByte_zeroLine {s : State} (h : AllHome s) (l x : Nat) :
    memByte (zeroLine s l) x = if x / 64 = l then 0 else memByte s x := by
  rw [memByte, (allHome_zeroLine h l).2]
  split
  case isTrue hx =>
    have hin := tget_tputs_inside (d := (0 : Byte)) (List.replicate 64 0) s.mem (l * 64) (x % 64) (by simp; omega)
    rw [List.getElem_replicate, show l * 64 + x % 64 = x by omega] at hin
    exact hin
  case isFalse hx => exact tget_tputs_outside _ _ _ _ (by simp only [List.length_replicate]; omega)

theorem memByte_zeroLines (ls : List Nat) : ∀ {s : State}, AllHome s →
    AllHome (ls.foldl zeroLine s) ∧ ∀ x, memByte (ls.foldl zeroLine s) x = if x / 64 ∈ ls then 0 else memByte s x := by
  induction ls with
  | nil => exact fun h => ⟨h, fun x => by simp⟩
  | cons l ls ih =>
    intro s h
    obtain ⟨hhome, hbytes⟩ := ih (allHome_zeroLine h l).1
    refine ⟨hhome, fun x => ?_⟩
    rw [List.foldl_cons, hbytes, memByte_zeroLine h]
    by_cases hl : x / 64 = l <;> simp [hl]

theorem tget_of_unlisted {α : Type} {d : α} {t : Table α} {x : Nat} (h : ∀ e ∈ t, e.1 ≠ x) : tget d t x = d := by
  induction t with
  | nil => rfl
  | cons e r ih =>
    obtain ⟨a, b⟩ := e
    rw [tget, if_neg (h (a, b) List.mem_cons_self), ih (fun e he => h e (List.mem_cons_of_mem _ he))]

theorem mem_touchedLines_of_listed {s : State} {pa n x : Nat} {e : Nat × Byte} (he : e ∈ s.mem) (hx : e.1 / 64 = x / 64) (hlo : pa ≤ x)
    (hhi : x < pa + n) : x / 64 ∈ touchedLines s pa n := by
  simp only [touchedLines, List.mem_eraseDups, List.mem_filter, List.mem_append, Bool.and_eq_true, decide_eq_true_eq]
  exact ⟨.inl (.inl (.inl (.inl (List.mem_map.mpr ⟨e, he, hx⟩)))), by omega, by omega⟩

theorem within_of_mem_touchedLines {s : State} {pa n l : Nat} (h : l ∈ touchedLines s pa n) : pa / 64 ≤ l ∧ l < (pa + n + 63) / 64 := by
  simp only [touchedLines, List.mem_eraseDups, List.mem_filter, Bool.and_eq_true, decide_eq_true_eq] at h
  exact h.2

/-- A range of whole lines zeroed. -/
theorem memByte_zeroRange {s : State} (h : AllHome s) {pa n : Nat} (hpa : pa % 64 = 0) (hn : n % 64 = 0) (x : Nat) :
    memByte (zeroRange s pa n) x = if pa ≤ x ∧ x < pa + n then 0 else memByte s x := by
  have hbytes := (memByte_zeroLines (touchedLines s pa n) h).2 x
  change memByte (zeroRange s pa n) x = _ at hbytes
  rw [hbytes]
  by_cases hin : pa ≤ x ∧ x < pa + n
  case pos =>
    obtain ⟨hlo, hhi⟩ := id hin
    rw [if_pos hin]
    split
    case isTrue => rfl
    case isFalse hl =>
      exact tget_of_unlisted (fun e he hx => hl (mem_touchedLines_of_listed he (hx ▸ rfl) hlo hhi))
  case neg =>
    rw [if_neg hin, if_neg]
    intro hl
    have hwithin := within_of_mem_touchedLines hl
    omega

end Sys2Proof.Zeroing
end

section
/-!
PROOFS. PLAN_LOAD_FINAL (R41, R47, R51): a poisoned, an ill-formed and an unfit image end the load with nothing changed, and an
admitted plan enters its slot. -/

namespace Sys2Proof.Plans

open Sys2Proof.Machine Sys2Proof.Safety Sys2Proof.Laws Sys2Proof.Board Sys2Proof.Boxes Sys2Proof.Frames Sys2Proof.Measurement Sys2Proof.Zeroing

/-! ### The copy spends tokens alone -/

section
variable {s u : State}

theorem physBytes_of_tokensOnly (h : TokensOnly s u) (pa n : Nat) : physBytes u pa n = physBytes s pa n := by
  unfold TokensOnly at h
  rw [h]
  rfl

theorem admission_of_tokensOnly (h : TokensOnly s u) (slot : Nat) (pl : Plan) : admission u slot pl = admission s slot pl := by
  unfold TokensOnly at h
  rw [h]
  rfl

theorem eq_with_stk_of_tokensOnly (h : TokensOnly s u) : u = { s with stk := u.stk } := by
  unfold TokensOnly at h
  rw [h]

end

/-- A load that ends by a refusal leaves the state as it was, but for the tokens its copy spent. -/
theorem handed_finishAt {s u : State} (h : TokensOnly s u) (box status off : Nat) (image : Bool) {resp : List Byte}
    (hlen : resp.length < 65536) : Handed { ended s box with stk := (finishAt u box status off image resp).stk }
      (finishAt u box status off image resp) box status (infoDetail u status off) (image && decide (status = stBadArgument)) resp := by
  have hhanded := handed_handBackAt (u.updSalter (fun x => { x with deferred := x.deferred.filter (fun e => e.1 ≠ box) })) box status off image hlen
  change Handed _ (finishAt u box status off image resp) box status (infoDetail u status off) _ resp at hhanded
  obtain ⟨-, -, -, honly, -, -⟩ := id hhanded
  have hstk : (finishAt u box status off image resp).stk = u.stk := (congrArg State.stk honly :)
  have hstart : u.updSalter (fun x => { x with deferred := x.deferred.filter (fun e => e.1 ≠ box) }) = { ended s box with stk := u.stk } :=
    congrArg (fun z : State => z.updSalter (fun x => { x with deferred := x.deferred.filter (fun e => e.1 ≠ box) })) (eq_with_stk_of_tokensOnly h)
  rw [hstart] at hhanded
  rw [hstk]
  exact hhanded

/-! ### The cases of PLAN_LOAD_FINAL -/

section
variable {s : State} {box slot asid len pa r : Nat} (hload : deferredOf s box = some (.planLoad slot asid len pa r))
include hload

theorem exec_planLoadFinal_poisoned (hpoison : physPoisoned s pa len = true) :
    exec (.planLoadFinal box) s = go (finish s box stUnitFailed []) := by
  change execPlanLoadFinal box s = _
  simp only [execPlanLoadFinal, hload, hpoison, if_true]

variable (hpoison : physPoisoned s pa len = false)
include hpoison

theorem exec_planLoadFinal_fault {o : Nat} (hfault : imageFault (physBytes s pa len) len = some o) :
    exec (.planLoadFinal box) s = go (finishAt (physSpend s pa len 3) box stBadArgument o true []) := by
  change execPlanLoadFinal box s = _
  simp only [execPlanLoadFinal, hload, hpoison, Bool.false_eq_true, if_false, physBytes_of_tokensOnly (TokensOnly.physSpend s pa len 3), hfault]

variable (hfault : imageFault (physBytes s pa len) len = none)
include hfault

theorem exec_planLoadFinal_noFit {f : NoFit} (hadmit : admission s slot (planOf (physBytes s pa len) r asid) = .error f) :
    exec (.planLoadFinal box) s = go (finish (physSpend s pa len 3) box stNoFit f.bytes) := by
  have hspent := TokensOnly.physSpend s pa len 3
  change execPlanLoadFinal box s = _
  simp only [execPlanLoadFinal, hload, hpoison, Bool.false_eq_true, if_false, physBytes_of_tokensOnly hspent, hfault,
    admission_of_tokensOnly hspent, hadmit]

theorem exec_planLoadFinal_admitted {pl : Plan} (hadmit : admission s slot (planOf (physBytes s pa len) r asid) = .ok pl) :
    exec (.planLoadFinal box) s
      = go (finish (installPlan (physSpend s pa len 3) slot pl (physBytes s pa len)) box stOk (loadResp pl)) := by
  have hspent := TokensOnly.physSpend s pa len 3
  change execPlanLoadFinal box s = _
  simp only [execPlanLoadFinal, hload, hpoison, Bool.false_eq_true, if_false, physBytes_of_tokensOnly hspent, hfault,
    admission_of_tokensOnly hspent, hadmit]

end

/-! ### A well-formed image's header (R41) -/

theorem firstOf_eq_none {a : Option Nat} {f : Unit → Option Nat} : firstOf a f = none ↔ a = none ∧ f () = none := by
  cases a <;> simp [firstOf]

theorem firstFail_eq_none {cs : Checks} : firstFail cs = none ↔ ∀ c ∈ cs, c.2 = true := by
  simp [firstFail]

theorem imageFault_magic {b : List Byte} (len : Nat) (h : leField b 0 4 ≠ 0x4E414C50) : imageFault b len = some 0 := by
  simp [imageFault, firstFail, frameChecks, firstOf, h]

theorem header_of_wellFormed {b : List Byte} {len : Nat} (h : imageFault b len = none) :
    leField b 0 4 = 0x4E414C50 ∧ leField b 4 2 = 1 ∧ leField b 0x28 8 = len ∧ leField b 0xFC 4 = crc32c (overlay b 0xFC [0, 0, 0, 0])
      ∧ 250 ≤ leField b 0x10 4 ∧ leField b 0x10 4 ≤ 20000 ∧ 1 ≤ leField b 6 2 ∧ leField b 6 2 ≤ 20 := by
  simp only [imageFault, firstOf_eq_none, firstFail_eq_none] at h
  obtain ⟨hframe, -, -, -, hrange, -⟩ := h
  simp only [frameChecks, List.forall_mem_cons, decide_eq_true_eq] at hframe
  simp only [rangeChecks, List.forall_mem_append, List.forall_mem_cons, Bool.and_eq_true, decide_eq_true_eq] at hrange
  obtain ⟨hmagic, hversion, hlength, hcrc, -⟩ := hframe
  obtain ⟨⟨⟨⟨⟨hlow, hhigh⟩, ⟨hone, hmax⟩, -⟩, -⟩, -⟩, -⟩ := hrange
  exact ⟨hmagic, hversion, hlength, hcrc, hlow, hhigh, hone, hmax⟩

/-! ### The response of a load that succeeds -/

/-- A field of a response handed back reads as the response has it. -/
theorem handed_field {u t : State} {box status detail : Nat} {image : Bool} {resp : List Byte}
    (h : Handed u t box status detail image resp) {o n : Nat} (hin : o + n ≤ resp.length) : (t.box box).field o n = leField resp o n := by
  obtain ⟨-, hpayload, -⟩ := h
  refine congrArg leNat (List.ext_getElem (by simp [Mailbox.bytes, tgets]; omega) (fun i hi hi' => ?_))
  have hi : i < n := by simpa [Mailbox.bytes, tgets] using hi
  simp only [Mailbox.bytes, tgets, List.getElem_map, List.getElem_range, hpayload, List.getElem_take, List.getElem_drop]
  rw [if_pos (by omega), List.getD_eq_getElem]

theorem leField_append_left {a b : List Byte} {o n : Nat} (h : o + n ≤ a.length) : leField (a ++ b) o n = leField a o n := by
  rw [leField, leField, List.drop_append_of_le_length (by omega), List.take_append_of_le_length (by rw [List.length_drop]; omega)]

theorem leField_append_right {a : List Byte} (b : List Byte) {k : Nat} (o n : Nat) (h : a.length = k) :
    leField (a ++ b) (k + o) n = leField b o n := by
  rw [leField, leField, ← h, List.drop_append, List.drop_eq_nil_of_le (Nat.le_add_right _ _), List.nil_append, Nat.add_sub_cancel_left]

theorem leField_leBytes (n v : Nat) : leField (leBytes n v) 0 n = v % 256 ^ n := by
  rw [leField, List.drop_zero, List.take_of_length_le (Device.length_leBytes n v).le, Device.leNat_leBytes]

theorem length_noFitBytes (f : NoFit) : f.bytes.length = 24 := by simp [NoFit.bytes, Device.length_leBytes]

/-- The pans of a plan's binding, one byte each. -/
def bindingBytes (pl : Plan) : List Byte := (List.range 20).flatMap (fun j => leBytes 1 (pl.binding.getD j 0xFF))

theorem bindingBytes_eq (pl : Plan) : bindingBytes pl = (List.range 20).map (fun j => BitVec.ofNat 8 (pl.binding.getD j 0xFF)) :=
  List.map_eq_flatMap.symm

theorem length_bindingBytes (pl : Plan) : (bindingBytes pl).length = 20 := by rw [bindingBytes_eq, List.length_map, List.length_range]

theorem leField_bindingBytes (pl : Plan) {j : Nat} (hj : j < 20) : leField (bindingBytes pl) j 1 = pl.binding.getD j 0xFF % 256 := by
  have hlen := length_bindingBytes pl
  have hbyte : ((bindingBytes pl).drop j).take 1 = [BitVec.ofNat 8 (pl.binding.getD j 0xFF)] := by
    rw [List.drop_eq_getElem_cons (by omega), List.take_succ_cons, List.take_zero]
    simp [bindingBytes_eq]
  rw [leField, hbyte]
  simp [leNat]

theorem loadResp_eq (pl : Plan) : loadResp pl = ({ code := 0, required := 0, available := 0 } : NoFit).bytes
    ++ (bindingBytes pl ++ (leBytes 4 pl.floorPower ++ leBytes 8 pl.stockpileBase)) := by
  simp only [loadResp, bindingBytes, List.append_assoc]

theorem length_loadResp (pl : Plan) : (loadResp pl).length = 56 := by
  rw [loadResp_eq]
  simp [length_noFitBytes, length_bindingBytes, Device.length_leBytes]

/-- The fields of the response (R51): no failing resource, the binding, the floor power and the stockpile range. -/
theorem loadResp_fields (pl : Plan) : leField (loadResp pl) 0 2 = 0 ∧ leField (loadResp pl) 2 4 = 0xFFFFFFFF
    ∧ (∀ j, j < 20 → leField (loadResp pl) (0x18 + j) 1 = pl.binding.getD j 0xFF % 256)
    ∧ leField (loadResp pl) 0x2C 4 = pl.floorPower % 2 ^ 32 ∧ leField (loadResp pl) 0x30 8 = pl.stockpileBase % 2 ^ 64 := by
  have hrecord := length_noFitBytes { code := 0, required := 0, available := 0 }
  have hbinding := length_bindingBytes pl
  have hpower := Device.length_leBytes 4 pl.floorPower
  rw [loadResp_eq]
  refine ⟨?_, ?_, fun j hj => ?_, ?_, ?_⟩
  · rw [leField_append_left (by rw [hrecord]; decide)]
    decide
  · rw [leField_append_left (by rw [hrecord]; decide)]
    decide
  · rw [leField_append_right _ j 1 hrecord, leField_append_left (by omega), leField_bindingBytes pl hj]
  · rw [leField_append_right _ 20 4 hrecord, leField_append_right _ 0 4 hbinding, leField_append_left (by omega), leField_leBytes]
    rfl
  · rw [leField_append_right _ 24 8 hrecord, leField_append_right _ 4 8 hbinding, leField_append_right _ 0 8 hpower, leField_leBytes]
    rfl

/-! ### The plan in its slot (R41, R47, R333, R472) -/

/-- The plan in its slot and its roots set. -/
def rooted (s : State) (slot : Nat) (pl : Plan) : State :=
  setRoots (s.setPlan slot (some pl)) slot pl.binding (some (pl.root, pl.asid))

/-- The plan in its slot, its roots set and its stockpile range zero. -/
def stocked (s : State) (slot : Nat) (pl : Plan) : State :=
  if pl.stockpileLen = 0 then rooted s slot pl else zeroRange (rooted s slot pl) pl.stockpileBase pl.stockpileLen

section
variable (s : State) (slot : Nat) (pl : Plan) (image : List Byte)

theorem setPlan_eq : s.setPlan slot (some pl)
    = { s with plan0 := if slot = 0 then some pl else s.plan0, plan1 := if slot = 0 then s.plan1 else some pl } := by
  unfold State.setPlan
  split <;> rfl

theorem rooted_only : rooted s slot pl = { s with
    plan0 := if slot = 0 then some pl else s.plan0, plan1 := if slot = 0 then s.plan1 else some pl, pans := (rooted s slot pl).pans } :=
  (setRoots_only slot pl.binding _ _).trans (congrArg (fun z : State => { z with pans := (rooted s slot pl).pans }) (setPlan_eq s slot pl))

theorem memoryOnly_stocked : MemoryOnly (rooted s slot pl) (stocked s slot pl) := by
  unfold stocked
  split
  · exact MemoryOnly.refl _
  · exact MemoryOnly.zeroRange _ _ _

theorem stocked_only : stocked s slot pl = { s with
    plan0 := if slot = 0 then some pl else s.plan0, plan1 := if slot = 0 then s.plan1 else some pl, pans := (rooted s slot pl).pans,
    mem := (stocked s slot pl).mem, coh := (stocked s slot pl).coh, stk := (stocked s slot pl).stk, cores := (stocked s slot pl).cores } :=
  Eq.trans (memoryOnly_stocked s slot pl) (congrArg (fun z : State =>
    { z with mem := (stocked s slot pl).mem, coh := (stocked s slot pl).coh, stk := (stocked s slot pl).stk,
             cores := (stocked s slot pl).cores }) (rooted_only s slot pl))

theorem installPlan_eq : installPlan s slot pl image = extendM (stocked s slot pl) 6 (image.take 256) := rfl

theorem installPlan_plan : (installPlan s slot pl image).plan slot = some pl := by
  rw [installPlan_eq, extendM_only, stocked_only]
  by_cases h : slot = 0 <;> simp [State.plan, h]

theorem installPlan_plan_other (h : slot ≤ 1) : (installPlan s slot pl image).plan (1 - slot) = s.plan (1 - slot) := by
  rw [installPlan_eq, extendM_only, stocked_only]
  obtain rfl | rfl : slot = 0 ∨ slot = 1 := by omega
  all_goals simp [State.plan]

theorem installPlan_rootOf (k p : Nat) : rootOf (installPlan s slot pl image) k p = rootOf (rooted s slot pl) k p := by
  rw [installPlan_eq, extendM_only, stocked_only]
  rfl

theorem rootOf_setPlan (k p : Nat) : rootOf (s.setPlan slot (some pl)) k p = rootOf s k p := by
  rw [setPlan_eq]
  rfl

theorem installPlan_root_bound {p : Nat} (hp : p ∈ pl.binding) : rootOf (installPlan s slot pl image) slot p = some (pl.root, pl.asid) := by
  rw [installPlan_rootOf, rooted, rootOf_setRoots_mem hp]

theorem installPlan_root_unbound {p : Nat} (hp : p ∉ pl.binding) : rootOf (installPlan s slot pl image) slot p = rootOf s slot p := by
  rw [installPlan_rootOf, rooted, rootOf_setRoots_not_mem hp, rootOf_setPlan]

theorem installPlan_root_other (h : slot ≤ 1) (p : Nat) :
    rootOf (installPlan s slot pl image) (1 - slot) p = rootOf s (1 - slot) p := by
  rw [installPlan_rootOf, rooted, rootOf_setRoots_other h, rootOf_setPlan]

theorem mBytes_stocked (k : Nat) : mBytes (stocked s slot pl) k = mBytes s k := by
  rw [stocked_only]
  rfl

theorem installPlan_measured : mBytes (installPlan s slot pl image) 6 = sha384 (mBytes s 6 ++ sha384 (image.take 256)) := by
  rw [installPlan_eq, mBytes_extendM_same, mBytes_stocked]

theorem installPlan_mBytes_other {k : Nat} (h : k ≠ 6) : mBytes (installPlan s slot pl image) k = mBytes s k := by
  rw [installPlan_eq, mBytes_extendM_other _ _ h, mBytes_stocked]

theorem installPlan_salter : (installPlan s slot pl image).salter = s.salter := by
  rw [installPlan_eq, extendM_only, stocked_only]

/-- The stockpile range reads zero and every other byte as before. -/
theorem installPlan_memByte (hhome : AllHome s) (hbase : pl.stockpileBase % 64 = 0) (hlen : pl.stockpileLen % 64 = 0) (x : Nat) :
    memByte (installPlan s slot pl image) x
      = if pl.stockpileBase ≤ x ∧ x < pl.stockpileBase + pl.stockpileLen then 0 else memByte s x := by
  have hcoh : (rooted s slot pl).coh = s.coh := by rw [rooted_only]
  have hmem : memByte (rooted s slot pl) x = memByte s x := by rw [rooted_only]; rfl
  have hhome' : AllHome (rooted s slot pl) := by
    rw [AllHome, hcoh]
    exact hhome
  change memByte (stocked s slot pl) x = _
  rw [stocked]
  split
  case isTrue hzero => rw [hmem, if_neg (by omega)]
  case isFalse => rw [memByte_zeroRange hhome' hbase hlen, hmem]

end

end Sys2Proof.Plans
end

section
/-!
PROOFS. Plans are loaded, admitted, started and stopped (R41, R46 to R55): O53 from its clauses. -/

namespace Sys2Proof.Plans

open Sys2Proof.Machine Sys2Proof.Safety Sys2Proof.Laws Sys2Proof.Board Sys2Proof.Boxes Sys2Proof.Frames

/-! ### PLAN_LOAD_FINAL, its clauses -/

section
variable {s : State} {box slot asid len pa r : Nat} (hload : deferredOf s box = some (.planLoad slot asid len pa r))
include hload

/-- A load refused with a status, an offset and a response, as the statement has it. -/
def LoadFails (s : State) (box st off : Nat) (im : Bool) (resp : List Byte) : Prop :=
  Completes (.planLoadFinal box) s (fun t => Handed { ended s box with stk := t.stk } t box st off im resp)

theorem loadFails_poisoned (hpoison : physPoisoned s pa len = true) : LoadFails s box 0x300 0 false [] :=
  completes_of_go (exec_planLoadFinal_poisoned hload hpoison)
    (handed_finishAt (TokensOnly.refl s) box stUnitFailed 0 false (by decide))

variable (hpoison : physPoisoned s pa len = false)
include hpoison

theorem loadFails_fault {o : Nat} (hfault : imageFault (physBytes s pa len) len = some o) : LoadFails s box 0x101 o true [] :=
  completes_of_go (exec_planLoadFinal_fault hload hpoison hfault)
    (handed_finishAt (TokensOnly.physSpend s pa len 3) box stBadArgument o true (by decide))

variable (hfault : imageFault (physBytes s pa len) len = none)
include hfault

theorem loadFails_noFit {f : NoFit} (hadmit : admission s slot (planOf (physBytes s pa len) r asid) = .error f) :
    LoadFails s box 0x104 0 false f.bytes :=
  completes_of_go (exec_planLoadFinal_noFit hload hpoison hfault hadmit)
    (handed_finishAt (TokensOnly.physSpend s pa len 3) box stNoFit 0 false (by rw [length_noFitBytes]; decide))

end

/-- What a hand-back keeps of the state before it. -/
theorem handed_keeps {u t : State} {box status detail : Nat} {image : Bool} {resp : List Byte} (h : Handed u t box status detail image resp) :
    (∀ k, t.plan k = u.plan k) ∧ (∀ k p, rootOf t k p = rootOf u k p) ∧ (∀ k, mBytes t k = mBytes u k)
      ∧ t.salter.deferred = u.salter.deferred ∧ ∀ x, memByte t x = memByte u x := by
  obtain ⟨-, -, -, honly, -, -⟩ := h
  exact ⟨fun k => (congrArg (fun z : State => z.plan k) honly :), fun k p => (congrArg (fun z : State => rootOf z k p) honly :),
    fun k => (congrArg (fun z : State => mBytes z k) honly :), (congrArg (fun z : State => z.salter.deferred) honly :),
    fun x => (congrArg (fun z : State => memByte z x) honly :)⟩

/-- What the tokens a copy spends leave of the state. -/
theorem tokensOnly_keeps {s u : State} (h : TokensOnly s u) :
    (∀ k, u.plan k = s.plan k) ∧ (∀ k p, rootOf u k p = rootOf s k p) ∧ (∀ k, mBytes u k = mBytes s k)
      ∧ u.salter = s.salter ∧ (AllHome s → AllHome u) ∧ ∀ x, memByte u x = memByte s x := by
  have heq := eq_with_stk_of_tokensOnly h
  rw [heq]
  exact ⟨fun _ => rfl, fun _ _ => rfl, fun _ => rfl, rfl, id, fun _ => rfl⟩

/-- An admitted plan takes its slot, and the command reports its binding, floor power and stockpile range. -/
theorem planLoadFinal_admitted {s : State} {box slot asid len pa r : Nat} (hload : deferredOf s box = some (.planLoad slot asid len pa r))
    (hslot : slot ≤ 1) (hpoison : physPoisoned s pa len = false) (hfault : imageFault (physBytes s pa len) len = none) {pl : Plan}
    (hadmit : admission s slot (planOf (physBytes s pa len) r asid) = .ok pl) :
    Completes (.planLoadFinal box) s (fun t =>
      t.plan slot = some pl ∧ t.plan (1 - slot) = s.plan (1 - slot) ∧ (∀ p ∈ pl.binding, rootOf t slot p = some (r, asid))
        ∧ (∀ p, p ∉ pl.binding → rootOf t slot p = rootOf s slot p) ∧ (∀ p, rootOf t (1 - slot) p = rootOf s (1 - slot) p)
        ∧ mBytes t 6 = sha384 (mBytes s 6 ++ sha384 ((physBytes s pa len).take 256)) ∧ (∀ m, m ≠ 6 → mBytes t m = mBytes s m)
        ∧ (t.box box).status = 0 ∧ (t.box box).held = false ∧ (t.box box).length = 56 ∧ (t.box box).field 0 2 = 0
        ∧ (t.box box).field 2 4 = 0xFFFFFFFF ∧ (∀ j, j < 20 → (t.box box).field (0x18 + j) 1 = pl.binding.getD j 0xFF % 256)
        ∧ (t.box box).field 0x2C 4 = pl.floorPower % 2 ^ 32 ∧ (t.box box).field 0x30 8 = pl.stockpileBase % 2 ^ 64
        ∧ t.salter.deferred = s.salter.deferred.filter (fun e => decide (e.1 ≠ box))
        ∧ (AllHome s → pl.stockpileBase % 64 = 0 → ∀ x, memByte t x =
            if pl.stockpileBase ≤ x ∧ x < pl.stockpileBase + pl.stockpileLen then 0 else memByte s x)) := by
  refine completes_of_go (exec_planLoadFinal_admitted hload hpoison hfault hadmit) ?_
  generalize hu : physSpend s pa len 3 = u
  have htokens : TokensOnly s u := hu ▸ TokensOnly.physSpend s pa len 3
  obtain ⟨hplan, hroot, hmeasure, hsalter, hhome, hmem⟩ := tokensOnly_keeps htokens
  have hhanded := handed_handBackAt
    ((installPlan u slot pl (physBytes s pa len)).updSalter (fun x => { x with deferred := x.deferred.filter (fun e => e.1 ≠ box) }))
    box stOk 0 false (resp := loadResp pl) (by rw [length_loadResp]; decide)
  change Handed _ (finish (installPlan u slot pl (physBytes s pa len)) box stOk (loadResp pl)) box 0 0 false _ at hhanded
  generalize finish (installPlan u slot pl (physBytes s pa len)) box stOk (loadResp pl) = t at hhanded
  obtain ⟨hplan', hroot', hmeasure', hdeferred', hmem'⟩ := handed_keeps hhanded
  change ∀ k, t.plan k = (installPlan u slot pl (physBytes s pa len)).plan k at hplan'
  change ∀ k p, rootOf t k p = rootOf (installPlan u slot pl (physBytes s pa len)) k p at hroot'
  change ∀ k, mBytes t k = mBytes (installPlan u slot pl (physBytes s pa len)) k at hmeasure'
  change t.salter.deferred = (installPlan u slot pl (physBytes s pa len)).salter.deferred.filter (fun e => decide (e.1 ≠ box)) at hdeferred'
  change ∀ x, memByte t x = memByte (installPlan u slot pl (physBytes s pa len)) x at hmem'
  obtain ⟨hself, -⟩ := id hhanded
  have hlength := length_loadResp pl
  obtain ⟨hcode, hnone, hbinding, hpower, hbase⟩ := loadResp_fields pl
  obtain ⟨-, -, -, -, -, -, -, -, -, -, -, hunit, -⟩ := admission_guarantees s slot _ pl hadmit
  obtain ⟨-, -, -, -, -, -, -, -, heq⟩ := admitted_of_admission hadmit
  have hroots : (pl.root, pl.asid) = (r, asid) := Prod.ext (congrArg Plan.root heq :) (congrArg Plan.asid heq :)
  refine ⟨?_, ?_, fun p hp => ?_, fun p hp => ?_, fun p => ?_, ?_, fun m hm => ?_, ?_, ?_, ?_, ?_, ?_, fun j hj => ?_, ?_, ?_, ?_,
    fun hall haligned x => ?_⟩
  · rw [hplan', installPlan_plan]
  · rw [hplan', installPlan_plan_other _ _ _ _ hslot, hplan]
  · rw [hroot', installPlan_root_bound _ _ _ _ hp, hroots]
  · rw [hroot', installPlan_root_unbound _ _ _ _ hp, hroot]
  · rw [hroot', installPlan_root_other _ _ _ _ hslot, hroot]
  · rw [hmeasure', installPlan_measured, hmeasure]
  · rw [hmeasure', installPlan_mBytes_other _ _ _ _ hm, hmeasure]
  · exact (congrArg Mailbox.status hself :)
  · exact (congrArg Mailbox.held hself :)
  · exact (congrArg Mailbox.length hself :).trans (by rw [hlength]; rfl)
  · rw [handed_field hhanded (by omega), hcode]
  · rw [handed_field hhanded (by omega), hnone]
  · rw [handed_field hhanded (by omega), hbinding j hj]
  · rw [handed_field hhanded (by omega), hpower]
  · rw [handed_field hhanded (by omega), hbase]
  · rw [hdeferred', installPlan_salter, hsalter]
  · rw [hmem', installPlan_memByte _ _ _ _ (hhome hall) haligned (by omega), hmem]

/-! ### PLAN_LOAD, PLAN_UNLOAD, TIDE_START and TIDE_STOP, their clauses -/

/-- A deferred PLAN_LOAD for the slot, as the statement has it. -/
def Loading (s : State) (slot : Nat) : Prop := ∃ e ∈ s.salter.deferred, ∃ a l p r, e.2 = .planLoad slot a l p r

theorem planLoad_clauses (s : State) (box : Nat) (hbox : box < 72) (hwhole : Whole s box 0x10 24 [(1, 1)])
    (hst : s.pkg.st = .ready ∨ s.pkg.st = .serving) (hslot : (s.box box).field 0 1 ≤ 1) (hlen : (s.box box).field 4 4 ≤ 64 * 2 ^ 20)
    (hpa : (s.box box).field 8 8 % 64 = 0) :
    let b := s.box box
    let slot := b.field 0 1
    let fitting : Prop := Fitting s (b.field 4 4) (b.field 8 8)
    (Loading s slot → Completes (.planLoad box) s (fun t => Refused s t box 0x200 0))
    ∧ (¬ Loading s slot → s.plan slot ≠ none → Completes (.planLoad box) s (fun t => Refused s t box 0x103 0))
    ∧ (¬ Loading s slot → s.plan slot = none → ¬ fitting → Completes (.planLoad box) s (fun t => Refused s t box 0x101 8))
    ∧ (¬ Loading s slot → s.plan slot = none → fitting → rootOk s (b.field 16 8) = false →
        Completes (.planLoad box) s (fun t => Refused s t box 0x101 0x10))
    ∧ (¬ Loading s slot → s.plan slot = none → fitting → rootOk s (b.field 16 8) = true → Completes (.planLoad box) s (fun t =>
        Accepted (popped s) t box (.planLoad slot (b.field 2 2) (b.field 4 4) (b.field 8 8) (b.field 16 8)))) :=
  ⟨fun h => planLoad_busy hbox hwhole hst hslot hlen hpa ((slotBusy_iff s _).mpr h),
    fun h => planLoad_loaded hbox hwhole hst hslot hlen hpa (slotBusy_eq_false h),
    fun h => planLoad_unfit hbox hwhole hst hslot hlen hpa (slotBusy_eq_false h),
    fun h => planLoad_badRoot hbox hwhole hst hslot hlen hpa (slotBusy_eq_false h),
    fun h => planLoad_accepted hbox hwhole hst hslot hlen hpa (slotBusy_eq_false h)⟩

/-- The start falls on a tick of the running plan, as the statement has it. -/
def OnTick (s : State) (a : Nat) : Prop :=
  ∃ k, s.tide.epochSec * 10 ^ 9 + s.tide.epochNs + k * (s.tide.periodUs * 1000) ≤ a + 1
    ∧ a ≤ s.tide.epochSec * 10 ^ 9 + s.tide.epochNs + k * (s.tide.periodUs * 1000) + 1

theorem tick_true_iff {s : State} {a : Nat} (hperiod : s.tide.running ≠ none → 0 < s.tide.periodUs) :
    (s.tide.running.isNone || onTick s.tide a) = true ↔ (s.tide.running ≠ none → OnTick s a) := by
  cases hrun : s.tide.running
  case none => simp
  case some k =>
    have hpos := hperiod (by simp [hrun])
    simp only [Option.isNone_some, Bool.false_or, onTick_iff a hpos, OnTick, ne_eq, reduceCtorEq, not_false_eq_true, forall_const]

/-- Settles O53, clause by clause: each command's checks in their order, then its effect; the admission by its checks, all passed. -/
theorem plansAreLoadedAdmittedStartedAndStopped : Obligations.PlansAreLoadedAdmittedStartedAndStopped := by
  refine ⟨planLoad_clauses, fun s box slot asid len pa r hload hslot => ⟨loadFails_poisoned hload, fun hpoison => ⟨fun hmagic => ?_,
      fun o => loadFails_fault hload hpoison, header_of_wellFormed, fun hfault f => loadFails_noFit hload hpoison hfault,
      fun hfault pl => planLoadFinal_admitted hload hslot hpoison hfault⟩⟩,
    admission_guarantees, fun s box hbox hwhole hst => ?_, fun s box pl hbox => ?_, fun s box hbox hwhole hst => ?_⟩
  · exact loadFails_fault hload hpoison (imageFault_magic len hmagic)
  · intro slot waits hslot
    refine ⟨fun h => planUnload_busy hbox hwhole hst hslot ((slotBusy_iff s slot).mpr h), fun h hwrong => ?_, fun h pl hplan hfree => ?_⟩
    · cases hplan : s.plan slot
      case none => exact planUnload_empty hbox hwhole hst hslot (slotBusy_eq_false h) hplan
      case some pl =>
        have hwaits : waits := hwrong.resolve_left (fun hnone => Option.some_ne_none pl (hplan.symm.trans hnone))
        exact planUnload_held hbox hwhole hst hslot (slotBusy_eq_false h) hplan ((slotHeld_iff s slot).mpr hwaits)
    · exact planUnload_empties hbox hwhole hst hslot (slotBusy_eq_false h) hplan
        (Bool.not_eq_false _ ▸ mt (slotHeld_iff s slot).mp hfree) (fun t => handed_unloaded hslot)
  · intro b n hwhole hst slot own o member at0 e hslot hone hmax hsec hns hmembers window ticks known
    refine ⟨fun h => tideStart_busy hbox hwhole hst hslot hone hmax hsec hmembers ((slotBusy_iff s slot).mpr h),
      fun h => tideStart_wrong hbox hwhole hst hslot hone hmax hsec hmembers (slotBusy_eq_false h), fun h hplan hrun hstart hperiod => ?_⟩
    have hrefused {off : Nat} : startTail (popped s) box b = .error (0x101, off) → Completes (.tideStart box) s (fun t => Refused s t box 0x101 off) :=
      tideStart_of_tail_refused hbox hwhole hst hslot hone hmax hsec hns hmembers (slotBusy_eq_false h) hplan hrun hstart
    have hticks := tick_true_iff (a := startNs b pl) hperiod
    refine ⟨fun hoff => ?_, fun hwindow htick hown => hrefused (startTail_noMember hplan hwindow (hticks.mpr htick) hown),
      fun hwindow htick hown hself => hrefused (startTail_notSelf hplan hwindow (hticks.mpr htick) hown hself), fun hwindow htick hknown => ?_⟩
    · by_cases hwindow : window
      · obtain ⟨hruns, hnone⟩ := hoff.resolve_left (not_not_intro hwindow)
        exact hrefused (startTail_offTick hplan hwindow (Bool.eq_false_iff.mpr (fun htick => hnone (hticks.mp htick hruns))))
      · exact hrefused (startTail_offWindow hplan hwindow)
    · obtain ⟨hown, hself, hothers⟩ := hknown
      exact tideStart_of_tail hbox hwhole hst hslot hone hmax hsec hns hmembers (slotBusy_eq_false h) hplan hrun hstart
        (startTail_starts hplan hwindow (hticks.mpr htick) hown hself hothers) (handed_drawn (handed_handBackAt _ box 0 0 false (by decide)))
  · exact ⟨tideStop_idle hbox hwhole hst, tideStop_cancels hbox hwhole hst, tideStop_stops hbox hwhole hst⟩

end Sys2Proof.Plans
end

section
/-!
PROOFS. Instructions that go to an engine's queue (R81, R124): a rake-wide instruction of a ready group, the queue that takes it or is
full, and an engine's reads where no store races with them. -/

namespace Sys2Proof.Queueing

open Sys2Proof.Machine Sys2Proof.Safety Sys2Proof.Laws

variable {a : At} {gd : Guard} {pm : BitVec 7} {sbase : BitVec 3} {n : Nat} {s s1 s2 : State} {c : Issue} {legal : Issue → Bool}
  {f : Issue → Word → State → Except BedFault State} {o : WorkOp} {i : Instr}

/-- A rake-wide instruction that runs has the effect f has under the active mask, and its group goes on (R130, R131). -/
theorem rakeWide_ok (h : WideRuns a gd pm sbase n s c s1 (legal c)) (hf : f c c.active s1 = .ok s2) :
    rakeWide a gd pm sbase n legal s f = (advance c s2).drawn := by
  obtain ⟨hready, hpm, hgd, hlegal, hwait⟩ := h
  apply bedNext_ok hready
  simp [hpm, hgd, hlegal, hwait, hf]

/-- Where f waits under the active mask, the group stands where it stood. -/
theorem rakeWide_waits (h : WideRuns a gd pm sbase n s c s1 (legal c)) (hf : f c c.active s1 = waits) :
    rakeWide a gd pm sbase n legal s f = s1.drawn := by
  obtain ⟨⟨hissue, hfetch⟩, hpm, hgd, hlegal, hwait⟩ := h
  simp [rakeWide, bedNext, bedIssue, hissue, hfetch, hpm, hgd, hlegal, hwait, hf, waits, Except.map]

/-- The entry of a queue that an instruction makes under the active mask. -/
def queuedWork (c : Issue) (sbase : BitVec 3) (o : WorkOp) (s : State) : Work :=
  { op := o, at_ := c.a, block := c.block, pc := c.pc, active := c.active, pm := c.active, ops := (List.range 8).map (c.sop sbase),
    key := c.rake.drainKey, view := c.rake.work, issued := s.coh.homeNo }

/-- The bed with one more entry at the end of the queue the instruction goes to. -/
def queuedBed (d : Bed) (o : WorkOp) (w : Work) : Bed :=
  if o.isMatrix then { d with mq := d.mq ++ [w] } else { d with dq := d.dq ++ [w] }

theorem enqueue_full (h : (s.bed c.a.pan c.a.bed).full o = true) : enqueue c c.active sbase o s = waits := by simp [enqueue, h]

theorem enqueue_room (h : (s.bed c.a.pan c.a.bed).full o = false) : enqueue c c.active sbase o s
    = .ok (s.setBed c.a.pan c.a.bed (queuedBed (s.bed c.a.pan c.a.bed) o (queuedWork c sbase o s))) := by
  simp [enqueue, h, queuedBed, queuedWork]

/-- The group goes on after a change of its bed: the bed is the one put there, and of the rakes only the group's own moves on. -/
theorem onlyBed_advance (hready : Ready a s c s1) (x : Bed) : OnlyBed a c s1 (advance c (s1.setBed a.pan a.bed x)).drawn := by
  obtain ⟨ha, hrake⟩ := ready_rake hready
  subst ha
  obtain ⟨hr, -, hother⟩ := advance_only (s := s1.setBed c.a.pan c.a.bed x) rfl hrake
  refine ⟨rfl, fun p b k hk => hother p b k hk, fun p b hb => bed_setBed_other s1 x hb, ?_, ?_⟩
  · rw [hr]; exact jump_frame ..
  · rw [hr]; exact nextPc_jump c _ rfl

/-- An instruction whose effect is to go to its queue issues there (R124). -/
theorem issues_of_enqueue (hx : exec i s = go (rakeWide a gd pm sbase n legal s f)) (h : WideRuns a gd pm sbase n s c s1 (legal c))
    (hf : f c c.active s1 = enqueue c c.active sbase o s1) : Issues a sbase o i s c s1 := by
  obtain ⟨ha, -⟩ := ready_rake h.1
  constructor
  · intro hroom
    rw [← ha] at hroom
    refine ⟨_, hx.trans (congrArg go (rakeWide_ok h (hf.trans (enqueue_room hroom)))), queuedWork c sbase o s1, rfl, ha, rfl, rfl, rfl,
      rfl, fun j hj => ?_, rfl, rfl, rfl, ?_, ?_⟩
    · simp [Work.sop, queuedWork, hj]
    · rw [ha]; exact bed_setBed_same ..
    · rw [ha]; exact onlyBed_advance h.1 _
  · intro hfull
    rw [← ha] at hfull
    rw [hx, rakeWide_waits h (hf.trans (enqueue_full hfull))]
    rfl

/-! ### What an engine's reads find (R207, R221) -/

/-- A reader with whom no store races misses none. -/
theorem missed_of_no_race {v : Viewer} (free : Nat → Bool) {ks : List StoreRec} (h : ∀ r ∈ ks, racing v r = false) (j : Nat)
    (cover : List Nat) : missed v free j cover ks = [] := by
  induction ks generalizing j cover with
  | nil => rfl
  | cons r rest ih =>
    rw [missed, h r List.mem_cons_self]
    exact ih (fun x hx => h x (List.mem_cons_of_mem _ hx)) _ _

theorem seen_of_no_race {d : Bed} {v : Viewer} (free : Nat → Bool) (h : ∀ r ∈ d.kept, racing v r = false) : d.seen v free = d := by
  simp [Bed.seen, missed_of_no_race free h]

end Sys2Proof.Queueing
end

section
/-!
PROOFS. The accumulator slots (R71): what setting, ending and forming tiles leaves in each slot, and that nothing else of the bed
changes; the tables and operand elements an MMA reads. -/

namespace Sys2Proof.Tiles

open Sys2Proof.Machine Sys2Proof.Safety Sys2Proof.Laws

/-! ### Setting slots -/

theorem slot_setSlot (d : Bed) (i n : Nat) (x : AccSlot) : (d.setSlot i x).slot n = if n = i then x else d.slot n := tget_tput _ _ _ _

/-- From one bed to the other the slots alone change. -/
def OnlySlots (d e : Bed) : Prop := e = { d with slots := e.slots }

theorem OnlySlots.trans {d e g : Bed} (h : OnlySlots d e) (h' : OnlySlots e g) : OnlySlots d g := by
  unfold OnlySlots at h h' ⊢
  rw [h', h]

theorem onlySlots_setSlot (d : Bed) (i : Nat) (x : AccSlot) : OnlySlots d (d.setSlot i x) := rfl

/-- Slots written one after the other, each with a value of its own. -/
def putEach (d : Bed) (js : List Nat) (g : Nat → AccSlot) : Bed := js.foldl (fun d j => d.setSlot j (g j)) d

theorem slot_putEach (js : List Nat) (g : Nat → AccSlot) (d : Bed) (n : Nat) :
    (putEach d js g).slot n = if n ∈ js then g n else d.slot n := by
  induction js generalizing d with
  | nil => rfl
  | cons j js ih =>
    change (putEach (d.setSlot j (g j)) js g).slot n = _
    rw [ih, slot_setSlot]
    by_cases hn : n = j
    · subst hn; simp
    · simp [hn]

theorem onlySlots_putEach (js : List Nat) (g : Nat → AccSlot) (d : Bed) : OnlySlots d (putEach d js g) := by
  induction js generalizing d with
  | nil => rfl
  | cons j js ih => exact (onlySlots_setSlot d j (g j)).trans (ih (d.setSlot j (g j)))

/-! ### Ending tiles (R71) -/

/-- The slots that become empty where a tile comes to occupy slot i. -/
def endedAt (d : Bed) (i : Nat) : List Nat :=
  if (d.slot i).kind = .exact then [(d.slot i).base, (d.slot i).base + 1, (d.slot i).base + 2] else [i]

theorem endTiles_cons (d : Bed) (i : Nat) (ss : List Nat) :
    d.endTiles (i :: ss) = (putEach d (endedAt d i) (fun _ => {})).endTiles ss := by
  unfold endedAt
  split
  · next hk => simp [Bed.endTiles, hk, putEach]
  · next hk => simp [Bed.endTiles, hk, putEach]

theorem onlySlots_endTiles (ss : List Nat) (d : Bed) : OnlySlots d (d.endTiles ss) := by
  induction ss generalizing d with
  | nil => rfl
  | cons i ss ih => rw [endTiles_cons]; exact (onlySlots_putEach ..).trans (ih _)

/-- An empty slot stays so. -/
theorem slot_endTiles_empty (ss : List Nat) {d : Bed} {n : Nat} (h : d.slot n = {}) : (d.endTiles ss).slot n = {} := by
  induction ss generalizing d with
  | nil => exact h
  | cons i ss ih =>
    rw [endTiles_cons]
    apply ih
    rw [slot_putEach, h, ite_self]

/-- A slot of the tile at the first slot named is empty in the end. -/
theorem slot_endTiles_ended {d : Bed} {i n : Nat} (ss : List Nat) (h : n ∈ endedAt d i) : (d.endTiles (i :: ss)).slot n = {} := by
  rw [endTiles_cons]
  apply slot_endTiles_empty
  rw [slot_putEach, if_pos h]

/-- A slot that is not named and belongs to no tile that is ended is as before. -/
theorem slot_endTiles_kept (ss : List Nat) {d : Bed} {n : Nat} (hn : n ∉ ss) (h : ∀ y ∈ ss, n ∉ endedAt d y) :
    (d.endTiles ss).slot n = d.slot n := by
  induction ss generalizing d with
  | nil => rfl
  | cons i ss ih =>
    rw [List.mem_cons, not_or] at hn
    have hi : n ∉ endedAt d i := h i List.mem_cons_self
    rw [endTiles_cons, ih hn.2 (fun y hy => ?_), slot_putEach, if_neg hi]
    by_cases hy' : y ∈ endedAt d i
    · have hempty : (putEach d (endedAt d i) (fun _ => {})).slot y = {} := by rw [slot_putEach, if_pos hy']
      have hne : n ≠ y := fun e => hn.2 (e ▸ hy)
      rw [endedAt, hempty]
      simpa using hne
    · have hold : (putEach d (endedAt d i) (fun _ => {})).slot y = d.slot y := by rw [slot_putEach, if_neg hy']
      rw [endedAt, hold]
      exact h y (List.mem_cons_of_mem _ hy)

/-! ### Forming a tile (R80, R84) -/

theorem mem_tileSlots (k : SlotKind) (s : Nat) : s ∈ tileSlots k s := by
  unfold tileSlots
  split <;> simp

/-- What a tile formed at s leaves in a slot of its own. -/
def formed (s : Nat) (x : AccSlot) (i : Nat) : AccSlot :=
  if i = s then { x with base := s } else { kind := x.kind, shape := x.shape, base := s, anchor := x.anchor }

theorem form_eq (d : Bed) (s : Nat) (x : AccSlot) :
    d.form s x = putEach (d.endTiles (tileSlots x.kind s)) (tileSlots x.kind s) (formed s x) := rfl

theorem onlySlots_form (d : Bed) (s : Nat) (x : AccSlot) : OnlySlots d (d.form s x) :=
  (onlySlots_endTiles ..).trans (onlySlots_putEach ..)

theorem slot_form_same (d : Bed) (s : Nat) (x : AccSlot) : (d.form s x).slot s = { x with base := s } := by
  rw [form_eq, slot_putEach, if_pos (mem_tileSlots _ _), formed, if_pos rfl]

theorem slot_form_kept {d : Bed} {s n : Nat} {x : AccSlot} (hn : n ∉ tileSlots x.kind s) (h : ∀ y ∈ tileSlots x.kind s, n ∉ endedAt d y) :
    (d.form s x).slot n = d.slot n := by
  rw [form_eq, slot_putEach, if_neg hn, slot_endTiles_kept _ hn h]

/-! ### Tables of values -/

theorem tget_filterMap_pairs {α : Type} [DecidableEq α] (d : α) (g : Nat → α) (ks : List Nat) (i : Nat) :
    tget d (ks.filterMap (fun k => if g k = d then none else some (k, g k))) i = if i ∈ ks then g i else d := by
  induction ks with
  | nil => rfl
  | cons k ks ih =>
    by_cases hk : g k = d <;> by_cases hi : i = k
    · subst hi; simp [hk, ih]
    · simp [hk, ih, hi]
    · subst hi; simp [hk, tget]
    · simp [hk, tget, ih, hi, Ne.symm hi]

/-- A tabulated function reads back below its bound. -/
theorem tget_tabulate {w : Nat} (n : Nat) (g : Nat → BitVec w) (i : Nat) : tget 0 (tabulate n g) i = if i < n then g i else 0 := by
  exact (tget_filterMap_pairs 0 g (List.range n) i).trans (by simp only [List.mem_range])

/-- An element of an operand's table: the packed slice's where the row is one of the operand's, zero in a row it does not have. -/
theorem opElem_elemTable {rows k : Nat} (bits : Nat) (src : Nat → List Byte) (hk : k ≤ 64) (m : Nat) {j : Nat} (hj : j < k) :
    opElem (elemTable rows k bits src) m j = if m < rows then sliceElem (src m) bits j % 2 ^ 16 else 0 := by
  have hdiv : (m * 64 + j) / 64 = m := by omega
  have hmod : (m * 64 + j) % 64 = j := by omega
  rw [opElem, elemTable, tget_tabulate, hdiv, hmod, if_pos hj]
  by_cases hm : m < rows
  · rw [if_pos (by omega), if_pos hm, BitVec.toNat_ofNat]
  · rw [if_neg (by omega), if_neg hm]; rfl

end Sys2Proof.Tiles
end

section
/-!
PROOFS. The matrix product (O19): the matrix engine's turn at a queued MMA, the flood bytes it takes, and the tile it leaves. -/

namespace Sys2Proof.Matrix

open Sys2Proof.Machine Sys2Proof.Safety Sys2Proof.Laws Sys2Proof.Queueing Sys2Proof.Tiles

/-! ### The turn at an entry of the matrix queue -/

/-- The state in which the engine runs entry i: the entry has left the queue. -/
def dequeued (s : State) (p k i : Nat) : State := s.updBed p k (fun d => { d with mq := d.mq.eraseIdx i })

section Turn

variable {s : State} {p k i : Nat} {w : Work} {f : XFmt}

theorem bed_dequeued (s : State) (p k i : Nat) : (dequeued s p k i).bed p k = { s.bed p k with mq := (s.bed p k).mq.eraseIdx i } :=
  bed_setBed_same ..

/-- The engine's turn at an MMA that completes. -/
theorem runTurn_mma_done {t : State} (hget : (s.bed p k).mq[i]? = some w) (hop : w.op = .mma f)
    (hrun : mmaRun w f (dequeued s p k i) = (t, none)) : runTurn s (.matrix p k i) = t := by
  unfold dequeued at hrun
  simp only [runTurn, runMatrix, hget, hop, hrun]

/-- The engine's turn at an MMA that stays: it is back at its place. -/
theorem runTurn_mma_stays {t : State} {w1 : Work} (hget : (s.bed p k).mq[i]? = some w) (hop : w.op = .mma f)
    (hrun : mmaRun w f (dequeued s p k i) = (t, some w1)) :
    runTurn s (.matrix p k i) = t.updBed p k (fun d => { d with mq := d.mq.take i ++ w1 :: d.mq.drop i }) := by
  unfold dequeued at hrun
  simp only [runTurn, runMatrix, hget, hop, hrun]

theorem runTurn_drain (hget : (s.bed p k).mq[i]? = some w) (hop : w.op = .mmaDrain f) :
    runTurn s (.matrix p k i) = drainRun w f (dequeued s p k i) := by
  simp only [runTurn, runMatrix, hget, hop, dequeued]

theorem runTurn_load (hget : (s.bed p k).mq[i]? = some w) (hop : w.op = .mmaLoad f) :
    runTurn s (.matrix p k i) = loadRun w f (dequeued s p k i) := by
  simp only [runTurn, runMatrix, hget, hop, dequeued]

theorem runTurn_stat (hget : (s.bed p k).mq[i]? = some w) (hop : w.op = .mmaStat f) :
    runTurn s (.matrix p k i) = statRun w f (dequeued s p k i) := by
  simp only [runTurn, runMatrix, hget, hop, dequeued]

/-- An entry taken out and put back at its place. -/
theorem insert_eraseIdx {l : List Work} {v : Work} (hget : l[i]? = some v) (w1 : Work) :
    (l.eraseIdx i).take i ++ w1 :: (l.eraseIdx i).drop i = l.set i w1 := by
  obtain ⟨hi, -⟩ := List.getElem?_eq_some_iff.mp hget
  rw [List.eraseIdx_eq_take_drop_succ, List.set_eq_take_append_cons_drop, if_pos hi, List.take_append_of_le_length (by simp; omega),
    List.take_take, Nat.min_self, List.drop_append_of_le_length (by simp; omega), List.drop_take_self, List.nil_append]

end Turn

/-! ### The tile an MMA leaves (R81, R92) -/

/-- The slot an MMA adds to: the one it finds, or under init one formed anew (R80). -/
def addedTo (d : Bed) (f : XFmt) (x : MmaArgs) : AccSlot :=
  if xBit27 f then { kind := mmaKind f, shape := xShape f, base := xSlot f, anchor := if xBit31 f then x.anchor else 0 }
  else d.slot (xSlot f)

/-- The bed in which an MMA's product is added: under init, with its tile formed. -/
def formedBed (d : Bed) (f : XFmt) (x : MmaArgs) : Bed :=
  if xBit27 f then d.form (xSlot f) { kind := mmaKind f, shape := xShape f, anchor := if xBit31 f then x.anchor else 0 } else d

theorem slot_formedBed_same (d : Bed) (f : XFmt) (x : MmaArgs) : (formedBed d f x).slot (xSlot f) = addedTo d f x := by
  unfold formedBed addedTo
  split
  · exact slot_form_same ..
  · rfl

theorem onlySlots_formedBed (d : Bed) (f : XFmt) (x : MmaArgs) : OnlySlots d (formedBed d f x) := by
  unfold formedBed
  split
  · exact onlySlots_form ..
  · rfl

theorem mmaInto_eq (d seen : Bed) (f : XFmt) (x : MmaArgs) (b : HeldB) (free : Nat → Nat) : mmaInto d seen f x b free
    = { (formedBed d f x).setSlot (xSlot f) (mmaTile seen x b (addedTo d f x) free) with heldB := some b } := by
  rw [← slot_formedBed_same]
  rfl

theorem slot_mmaInto_same (d seen : Bed) (f : XFmt) (x : MmaArgs) (b : HeldB) (free : Nat → Nat) :
    (mmaInto d seen f x b free).slot (xSlot f) = mmaTile seen x b (addedTo d f x) free := by
  rw [mmaInto_eq]
  exact tget_tput_same ..

theorem mmaInto_frame (d seen : Bed) (f : XFmt) (x : MmaArgs) (b : HeldB) (free : Nat → Nat) :
    mmaInto d seen f x b free = { d with slots := (mmaInto d seen f x b free).slots, heldB := some b } := by
  rw [mmaInto_eq, show formedBed d f x = _ from onlySlots_formedBed d f x]
  rfl

/-- Slots that the tile does not occupy, and that belong to no exact tile it ends, are as before (R71). -/
theorem slot_mmaInto_kept {d : Bed} {f : XFmt} {x : MmaArgs} {n : Nat} (seen : Bed) (b : HeldB) (free : Nat → Nat)
    (hn : n ∉ tileSlots (addedTo d f x).kind (xSlot f))
    (hend : xBit27 f = true → ∀ y ∈ tileSlots (addedTo d f x).kind (xSlot f), (d.slot y).kind = .exact →
      n ∉ [(d.slot y).base, (d.slot y).base + 1, (d.slot y).base + 2]) :
    (mmaInto d seen f x b free).slot n = d.slot n := by
  have hne : n ≠ xSlot f := fun e => hn (e ▸ mem_tileSlots _ _)
  have hset : (mmaInto d seen f x b free).slot n = (formedBed d f x).slot n := by
    rw [mmaInto_eq]
    exact tget_tput_other _ _ hne
  rw [hset]
  unfold formedBed addedTo at *
  split at hn
  · next hinit =>
    rw [if_pos hinit] at hend ⊢
    refine slot_form_kept hn (fun y hy => ?_)
    unfold endedAt
    split
    · next hexact => exact hend hinit y hy hexact
    · exact fun hm => hn (List.mem_singleton.mp hm ▸ hy)
  · next hinit => rw [if_neg hinit]

theorem mmaTile_keeps (d : Bed) (x : MmaArgs) (b : HeldB) (old : AccSlot) (free : Nat → Nat) :
    let z := mmaTile d x b old free
    z.kind = old.kind ∧ z.shape = old.shape ∧ z.base = old.base ∧ z.anchor = old.anchor ∧ z.kCount = satAdd 32 old.kCount x.k := by
  obtain ⟨kind⟩ := old
  cases kind <;> exact ⟨rfl, rfl, rfl, rfl, rfl⟩

/-- A held operand of the MMA's own K gives its own elements. -/
theorem elem_of_same_k {b : HeldB} {x : MmaArgs} (hk : x.k = b.k) (free : Nat → Nat) (n : Nat) {j : Nat} (hj : j < x.k) :
    b.elem x free n j = opElem b.elems n j := by
  simp [HeldB.elem, hk, hk ▸ hj]

/-- The element of A that an MMA of an integer pair multiplies. -/
def aElem (d : Bed) (x : MmaArgs) (m j : Nat) : Nat :=
  if m < x.rows then sliceElem (d.scratchBytes (x.aAddr + m * x.aStride) x.aLen) x.fa.bits j % 2 ^ 16 else 0

/-- An element of an integer tile grows by the sum of the products of its row and column (R74, R92). -/
theorem vals_mmaTile_integer {d : Bed} {x : MmaArgs} {b : HeldB} {old : AccSlot} (free : Nat → Nat) (hkind : old.kind = .integer)
    (hmx : x.fa.isMx = false) (hk64 : x.k ≤ 64) (hk : x.k = b.k) {e : Nat} (he : e < 16384) :
    tget 0 (mmaTile d x b old free).vals e = BitVec.ofNat 96 (intAcc (tget 0 old.vals e).toNat ((List.range x.k).map (fun j =>
      (elemFl x.fa (aElem d x (e / x.n) j)).mul (elemFl x.fb (opElem b.elems (e % x.n) j))))) := by
  simp only [mmaTile, hkind, tget_tabulate, if_pos he, contributions, hmx, Bool.false_eq_true, if_false, products, Nat.zero_add]
  congr 2
  refine List.map_congr_left (fun j hj => ?_)
  have hj' : j < x.k := List.mem_range.mp hj
  rw [opElem_elemTable _ _ hk64 _ hj', elem_of_same_k hk free _ hj', aElem]

theorem integer_args {f : XFmt} (op : Nat → Nat) (h : mmaKind f = .integer) :
    (mmaArgs op f).fa.isMx = false ∧ (mmaArgs op f).k ≤ 64 := by
  have ha : xFa f = 10 := by
    unfold mmaKind at h
    split at h
    · exact absurd h (by decide)
    · split at h
      · assumption
      · exact absurd h (by decide)
  simp [mmaArgs, ha, matFmt, MFmt8.isMx, tileK]

/-! ### The MMA with its bytes -/

theorem find?_bad_eq_none {ys : List FloodByte} (h : ∀ y ∈ ys, y.bad = false ∧ y.stopped = false) :
    ys.find? FloodByte.bad = none ∧ ys.find? FloodByte.stopped = none := by
  simp only [List.find?_eq_none]
  exact ⟨fun y hy => by simp [(h y hy).1], fun y hy => by simp [(h y hy).2]⟩

/-- The operand B an MMA uses is b: the held one, the one its flood bytes hold, or the one in scratch (R82, R87). -/
def UsesB (d : Bed) (f : XFmt) (x : MmaArgs) (got : List FloodByte) (b : HeldB) : Prop :=
  if xBit26 f then d.heldB = some b else if xBsrc f then b = bFlood (got.map FloodByte.val) f x else b = bScratch d f x

/-- An MMA that has its bytes, fits its slot and meets no error puts its product into the slot. -/
theorem mmaDone_ok {w : Work} {f : XFmt} {s : State} {b : HeldB} {d : Bed} (hd : s.bed w.at_.pan w.at_.bed = d)
    (hrace : ∀ r ∈ d.kept, racing w.viewer r = false) (hgot : w.got.find? FloodByte.bad = none)
    (hfits : mmaFits d f = true) (herr : firstError d (mmaReads f (mmaArgs w.sop f)) = none)
    (hbad : xBit27 f = false → (d.slot (xSlot f)).bad = []) (hb : UsesB d f (mmaArgs w.sop f) w.got b) :
    mmaDone w f s = s.setBed w.at_.pan w.at_.bed (mmaInto d d f (mmaArgs w.sop f) b (fun i => s.draw (8192 + i))) := by
  have hseen : w.seen s = d := by rw [Work.seen, hd]; exact seen_of_no_race _ hrace
  have hsound : (!xBit27 f && !(d.slot (xSlot f)).bad.isEmpty) = false := by
    cases hinit : xBit27 f
    · simp [hbad hinit]
    · rfl
  have hop : (if xBit26 f then d.heldB.getD ⟨0, 0, 0, [], []⟩ else if xBsrc f then bFlood (w.got.map FloodByte.val) f (mmaArgs w.sop f)
      else bScratch d f (mmaArgs w.sop f)) = b := by
    unfold UsesB at hb
    split at hb
    · next hold => rw [if_pos hold, hb, Option.getD_some]
    · next hold =>
      rw [if_neg hold]
      split at hb
      · next hflood => rw [if_pos hflood, hb]
      · next hflood => rw [if_neg hflood, hb]
  simp only [mmaDone, hd, hseen, hfits, herr, hgot, hsound, hop, Bool.not_true, Bool.false_eq_true, if_false]

/-! ### The flood bytes (R89, R180) -/

/-- The MMA takes its B from a flood queue. -/
def fromFlood (f : XFmt) : Bool := !xBit26 f && xBsrc f

theorem fromFlood_eq (f : XFmt) : (xBit26 f || !xBsrc f) = !fromFlood f := by simp [fromFlood]

/-- The bytes an MMA takes in this turn. -/
def taken (d : Bed) (f : XFmt) (x : MmaArgs) (got : List FloodByte) : List FloodByte :=
  if fromFlood f then (tget {} d.flood (floodOf x)).buf.take (floodNeed x - got.length) else []

/-- The state in which an MMA's bytes have been taken and counted. -/
def afterTaking (u : State) (p k q n : Nat) : State :=
  (u.setBed p k ((u.bed p k).takeFlood q n)).updPan p (fun x => { x with floodBytes := wrapAdd 64 x.floodBytes n })

theorem bed_afterTaking (u : State) (p k q n : Nat) : (afterTaking u p k q n).bed p k = (u.bed p k).takeFlood q n := by
  rw [afterTaking, State.updPan_bed]
  exact bed_setBed_same ..

theorem filter_sound {ys : List FloodByte} (h : ∀ y ∈ ys, y.stopped = false ∧ y.bad = false) : ys.filter (fun y => !y.stopped) = ys :=
  List.filter_eq_self.mpr (fun y hy => by simp [(h y hy).1])

theorem mmaRun_noFlood {w : Work} {f : XFmt} (u : State) (h : fromFlood f = false) : mmaRun w f u = (mmaDone w f u, none) := by
  rw [mmaRun, if_pos (by rw [fromFlood_eq, h]; rfl)]

section Flood

variable {u : State} {w : Work} {f : XFmt} {p k : Nat} {new : List FloodByte}

/-- The turn of an MMA that takes sound bytes from its flood queue. -/
theorem mmaRun_flood (hflood : fromFlood f = true) (hp : w.at_.pan = p) (hk : w.at_.bed = k)
    (hgot : ∀ y ∈ w.got, y.bad = false ∧ y.stopped = false)
    (htaken : taken (u.bed p k) f (mmaArgs w.sop f) w.got = new) (hnew : ∀ y ∈ new, y.stopped = false ∧ y.bad = false) :
    mmaRun w f u = if (w.got ++ new).length < floodNeed (mmaArgs w.sop f) then
        ((afterTaking u p k (floodOf (mmaArgs w.sop f)) new.length).updPan p
          (fun y => { y with starved := satAdd 32 y.starved (u.draw 2400) }), some { w with got := w.got ++ new })
      else (mmaDone { w with got := w.got ++ new } f (afterTaking u p k (floodOf (mmaArgs w.sop f)) new.length), none) := by
  have hcond : ¬ (xBit26 f || !xBsrc f) = true := by simp [fromFlood_eq, hflood]
  have hall : ∀ y ∈ w.got ++ new, y.bad = false ∧ y.stopped = false := fun y hy =>
    (List.mem_append.mp hy).elim (hgot y) (fun h => (hnew y h).symm)
  rw [taken, if_pos hflood] at htaken
  subst hp hk
  simp only [mmaRun, if_neg hcond, htaken, filter_sound hnew, (find?_bad_eq_none hall).2, afterTaking]

end Flood

theorem buf_takeFlood (d : Bed) (q n j : Nat) :
    (tget {} (d.takeFlood q n).flood j).buf = if j = q then (tget {} d.flood q).buf.drop n else (tget {} d.flood j).buf := by
  simp only [Bed.takeFlood, tget_tput]
  split <;> rfl

/-- The flood queues once an MMA's bytes are taken, if it takes any. -/
def floodAfter (d : Bed) (f : XFmt) (x : MmaArgs) (n : Nat) : Table FloodQueue :=
  if fromFlood f then (d.takeFlood (floodOf x) n).flood else d.flood

theorem buf_floodAfter (d : Bed) (f : XFmt) (x : MmaArgs) (n j : Nat) : (tget {} (floodAfter d f x n) j).buf
    = if fromFlood f = true ∧ j = floodOf x then (tget {} d.flood j).buf.drop n else (tget {} d.flood j).buf := by
  unfold floodAfter
  split
  · next hflood =>
    rw [buf_takeFlood]
    by_cases hj : j = floodOf x
    · subst hj; simp [hflood]
    · simp [hj]
  · next hflood => simp [hflood]

/-! ### The turn of a queued MMA -/

/-- From one state to the other the beds and pans alone change. -/
def BedsAndPans (s t : State) : Prop := t = { s with beds := t.beds, pans := t.pans }

theorem BedsAndPans.setBed {s t : State} (h : BedsAndPans s t) (p b : Nat) (x : Bed) : BedsAndPans s (t.setBed p b x) := by
  have hu : ∀ u : State, t = u → t.setBed p b x = { u with beds := (t.setBed p b x).beds } := fun u e => by rw [← e]; rfl
  exact hu _ h

theorem BedsAndPans.updPan {s t : State} (h : BedsAndPans s t) (p : Nat) (g : Pan → Pan) : BedsAndPans s (t.updPan p g) := by
  have hu : ∀ u : State, t = u → t.updPan p g = { u with pans := (t.updPan p g).pans } := fun u e => by rw [← e]; rfl
  exact hu _ h

theorem bedsAndPans_dequeued (s : State) (p k i : Nat) : BedsAndPans s (dequeued s p k i) := rfl

theorem BedsAndPans.afterTaking {s t : State} (h : BedsAndPans s t) (p k q n : Nat) : BedsAndPans s (afterTaking t p k q n) :=
  (h.setBed ..).updPan ..

section Turn

variable {s : State} {p k i : Nat} {w : Work} {f : XFmt} {new : List FloodByte} (hhead : MatrixHead s p k i w) (hop : w.op = .mma f)
  (htaken : taken (s.bed p k) f (mmaArgs w.sop f) w.got = new) (hnew : ∀ y ∈ new, y.stopped = false ∧ y.bad = false)
include hhead hop htaken hnew

/-- With too few bytes in its flood queue an MMA takes those and stays at its place (R89, R180). -/
theorem mma_turn_stays (hflood : fromFlood f = true) (hshort : (w.got ++ new).length < floodNeed (mmaArgs w.sop f)) :
    let d := s.bed p k
    let t := runTurn s (.matrix p k i)
    t.bed p k = { d with mq := d.mq.set i { w with got := w.got ++ new }, flood := (d.takeFlood (floodOf (mmaArgs w.sop f)) new.length).flood }
      ∧ BedsAndPans s t := by
  obtain ⟨hget, hp, hk, -, hgot⟩ := hhead
  have hbed := bed_dequeued s p k i
  have hrun := mmaRun_flood (u := dequeued s p k i) hflood hp hk hgot (by rw [hbed]; exact htaken) hnew
  rw [if_pos hshort] at hrun
  have ht := runTurn_mma_stays hget hop hrun
  refine ⟨?_, ?_⟩
  · rw [ht, ← insert_eraseIdx hget]
    refine (bed_setBed_same ..).trans ?_
    rw [State.updPan_bed, bed_afterTaking, hbed]
    rfl
  · rw [ht]
    exact (((bedsAndPans_dequeued s p k i).afterTaking ..).updPan ..).setBed ..

/-- An MMA that has its bytes, fits and meets no error completes: what it leaves of its bed, and what of the rest (R81, R92). -/
theorem mma_turn_completes {b : HeldB} (hlong : fromFlood f = true → floodNeed (mmaArgs w.sop f) ≤ (w.got ++ new).length)
    (hfits : mmaFits (s.bed p k) f = true) (herr : firstError (s.bed p k) (mmaReads f (mmaArgs w.sop f)) = none)
    (hbad : xBit27 f = false → ((s.bed p k).slot (xSlot f)).bad = []) (hb : UsesB (s.bed p k) f (mmaArgs w.sop f) (w.got ++ new) b) :
    let d := s.bed p k
    let x := mmaArgs w.sop f
    let dm : Bed := { d with mq := d.mq.eraseIdx i, flood := floodAfter d f x new.length }
    let t := runTurn s (.matrix p k i)
    (∃ free, t.bed p k = mmaInto dm dm f x b free)
      ∧ (t.pan p).floodBytes = (if fromFlood f then wrapAdd 64 (s.pan p).floodBytes new.length else (s.pan p).floodBytes)
      ∧ BedsAndPans s t := by
  obtain ⟨hget, hp, hk, hrace, hgot⟩ := hhead
  have hbed := bed_dequeued s p k i
  intro d x dm t
  cases hflood : fromFlood f
  case true =>
    have hrun := mmaRun_flood (u := dequeued s p k i) hflood hp hk hgot (by rw [hbed]; exact htaken) hnew
    rw [if_neg (Nat.not_lt.mpr (hlong hflood))] at hrun
    have hdm : (afterTaking (dequeued s p k i) p k (floodOf x) new.length).bed p k = dm := by
      rw [bed_afterTaking, hbed]
      simp only [dm, floodAfter, hflood, if_true]
      rfl
    have hall : ∀ y ∈ w.got ++ new, y.bad = false ∧ y.stopped = false := fun y hy =>
      (List.mem_append.mp hy).elim (hgot y) (fun h => (hnew y h).symm)
    subst hp hk
    rw [mmaDone_ok (w := { w with got := w.got ++ new }) hdm hrace (find?_bad_eq_none hall).1 hfits herr hbad hb] at hrun
    have ht : t = _ := runTurn_mma_done hget hop hrun
    rw [ht]
    exact ⟨⟨_, bed_setBed_same ..⟩, congrArg Pan.floodBytes (tget_tput_same ..), ((bedsAndPans_dequeued ..).afterTaking ..).setBed ..⟩
  case false =>
    have hnil : new = [] := by rw [← htaken, taken, hflood]; rfl
    rw [hnil, List.append_nil] at hb
    have hdm : (dequeued s p k i).bed p k = dm := by
      rw [hbed]
      simp only [dm, floodAfter, hflood, Bool.false_eq_true, if_false]
      rfl
    subst hp hk
    have hrun := mmaRun_noFlood (w := w) (dequeued s w.at_.pan w.at_.bed i) hflood
    rw [mmaDone_ok hdm hrace (find?_bad_eq_none hgot).1 hfits herr hbad hb] at hrun
    have ht : t = _ := runTurn_mma_done hget hop hrun
    rw [ht]
    exact ⟨⟨_, bed_setBed_same ..⟩, rfl, (bedsAndPans_dequeued ..).setBed ..⟩

end Turn

/-- The tile that an MMA of another kind than integer adds to is no integer tile (R78). -/
theorem mmaKind_of_integer {d : Bed} {f : XFmt} {x : MmaArgs} (hfits : mmaFits d f = true) (h : (addedTo d f x).kind = .integer) :
    mmaKind f = .integer := by
  unfold addedTo at h
  split at h
  · exact h
  · next hinit =>
    simp only [mmaFits, hinit, slotIs, Bool.false_or, Bool.and_eq_true, decide_eq_true_eq] at hfits
    obtain ⟨-, ⟨hkind, -⟩, -⟩ := hfits
    rw [← hkind, h]

/-- Settles O19: issue by the rule for queued instructions; the turn by what `mmaInto` leaves in each slot. -/
theorem matrixMultiplyAccumulates : Obligations.MatrixMultiplyAccumulates := by
  refine ⟨fun a f s c s1 hruns hfault => ?_, fun s p k i w f hhead hop => ?_⟩
  · refine issues_of_enqueue rfl hruns ?_
    simp only [hfault]
  · intro d x j q flood new bytes fresh old t d' hnew
    have htaken : taken d f x w.got = new := rfl
    refine ⟨fun hflood hshort => ?_, fun b hlong hfits herr hbad hb => ?_⟩
    · obtain ⟨hd', ht⟩ := mma_turn_stays hhead hop htaken hnew hflood hshort
      have hbuf := buf_takeFlood d q new.length q
      rw [if_pos rfl] at hbuf
      change d' = _ at hd'
      exact ⟨by rw [hd'], by rw [hd']; exact hbuf, by rw [hd'], ht⟩
    · obtain ⟨⟨free, hd'⟩, hcount, ht⟩ := mma_turn_completes hhead hop htaken hnew hlong hfits herr hbad hb
      let dm : Bed := { d with mq := d.mq.eraseIdx i, flood := floodAfter d f x new.length }
      have hinto : d' = mmaInto dm dm f x b free := hd'
      have hz : d'.slot j = mmaTile dm x b old free := by rw [hinto]; exact slot_mmaInto_same ..
      have hframe : d' = { dm with slots := d'.slots, heldB := some b } := by rw [hinto]; exact mmaInto_frame ..
      intro z
      obtain ⟨hkind, hshape, hbase, hanchor, hcountK⟩ : z.kind = _ ∧ z.shape = _ ∧ z.base = _ ∧ z.anchor = _ ∧ z.kCount = _ := by
        rw [show z = _ from hz]
        exact mmaTile_keeps dm x b old free
      refine ⟨hkind, hshape, hbase, hanchor, hcountK, by rw [hframe], fun e he hint hk => ?_, fun n hn hend => ?_, by rw [hframe],
        fun n => ?_, hcount, ht⟩
      · have hargs := integer_args w.sop (f := f) (mmaKind_of_integer hfits hint)
        rw [show z = _ from hz, vals_mmaTile_integer free hint hargs.1 hargs.2 hk he]
        rfl
      · rw [hinto]
        exact slot_mmaInto_kept dm b free hn hend
      · rw [hframe]
        exact buf_floodAfter d f x new.length n

end Sys2Proof.Matrix
end

section
/-!
PROOFS. Tiles drained to scratch, loaded from it and reported (O20): what each turn of the matrix engine leaves of its bed and rake. -/

namespace Sys2Proof.Matrix

open Sys2Proof.Machine Sys2Proof.Safety Sys2Proof.Laws Sys2Proof.Queueing Sys2Proof.Tiles

/-! ### Writing scratch -/

/-- From one bed to the other the scratch alone changes, with what is in error there and what racing readers may still find. -/
def OnlyScratchOf (d e : Bed) : Prop := e = { d with scratch := e.scratch, scratchBad := e.scratchBad, kept := e.kept }

theorem OnlyScratchOf.trans {d e g : Bed} (h : OnlyScratchOf d e) (h' : OnlyScratchOf e g) : OnlyScratchOf d g := by
  unfold OnlyScratchOf at h h' ⊢
  rw [h', h]

theorem onlyScratchOf_poke (d : Bed) (off : Nat) (bs : List Byte) : OnlyScratchOf d (d.poke off bs) := rfl

theorem scratch_poke_outside (d : Bed) {off x : Nat} {bs : List Byte} (h : x < off ∨ off + bs.length ≤ x) :
    tget 0 (d.poke off bs).scratch x = tget 0 d.scratch x :=
  tget_tputs_outside bs d.scratch off x h

theorem scratchBytes_poke_same (d : Bed) (off : Nat) (bs : List Byte) : (d.poke off bs).scratchBytes off bs.length = bs := by
  apply List.ext_getElem
  · simp [Bed.scratchBytes, tgets]
  · intro i _ h
    simp only [Bed.scratchBytes, tgets, List.getElem_map, List.getElem_range]
    exact tget_tputs_inside bs d.scratch off i h

theorem scratchBytes_congr {d e : Bed} {off n : Nat} (h : ∀ x, off ≤ x → x < off + n → tget 0 e.scratch x = tget 0 d.scratch x) :
    e.scratchBytes off n = d.scratchBytes off n := by
  refine List.map_congr_left (fun j hj => ?_)
  have hj' : j < n := List.mem_range.mp hj
  exact h _ (by omega) (by omega)

/-! ### The rows a drain writes (R83, R100) -/

section Rows

variable (t : AccSlot) (fo cols dAddr dStride dsAddr : Nat) (sat : Bool) (rnd : Nat → Nat → Rnd)

/-- The scales of a row of an MX format; no scales otherwise (R104). -/
def rowScales (m : Nat) : List (Option Nat) :=
  if foIsMx fo then (List.range (cols / 32)).map (fun b =>
    match matFmt fo with
    | some (.mx f) => blockScale f ((List.range 32).map (fun j => tileFl t (m * tileN t.shape + 32 * b + j)))
    | _ => none)
  else []

/-- The packed elements of a row. -/
def rowBytes (m : Nat) : List Byte :=
  packBytes (outBits fo) cols (fun n =>
    drainElem t fo (m * tileN t.shape + n) (rnd m n) sat ((rowScales t fo cols m).getD (n / 32) none))

theorem length_rowBytes (m : Nat) : (rowBytes t fo cols sat rnd m).length = outBits fo * cols / 8 := Device.length_leBytes ..

theorem rowBytes_plain (hmx : foIsMx fo = false) (m : Nat) : rowBytes t fo cols sat rnd m
    = packBytes (outBits fo) cols (fun n => drainElem t fo (m * tileN t.shape + n) (rnd m n) sat none) := by
  simp [rowBytes, rowScales, hmx]

theorem drainRow_plain (hmx : foIsMx fo = false) (d : Bed) (m : Nat) : drainRow t fo cols dAddr dStride dsAddr sat rnd d m
    = d.poke (dAddr + m * dStride) (rowBytes t fo cols sat rnd m) := by
  simp only [drainRow, rowBytes, rowScales, hmx, Bool.false_eq_true, if_false]

theorem drainRow_mx (hmx : foIsMx fo = true) (d : Bed) (m : Nat) : drainRow t fo cols dAddr dStride dsAddr sat rnd d m
    = (d.poke (dAddr + m * dStride) (rowBytes t fo cols sat rnd m)).poke (dsAddr + m * (cols / 32))
        ((rowScales t fo cols m).map (fun x => BitVec.ofNat 8 (x.getD 0))) := by
  simp only [drainRow, rowBytes, rowScales, hmx, if_true] <;> rfl

theorem onlyScratchOf_drainRow (d : Bed) (m : Nat) : OnlyScratchOf d (drainRow t fo cols dAddr dStride dsAddr sat rnd d m) := by
  cases hmx : foIsMx fo
  · rw [drainRow_plain _ _ _ _ _ _ _ _ hmx]
    exact onlyScratchOf_poke ..
  · rw [drainRow_mx _ _ _ _ _ _ _ _ hmx]
    exact (onlyScratchOf_poke ..).trans (onlyScratchOf_poke ..)

/-- A byte outside row m and, for an MX format, outside its scales. -/
abbrev OutsideRow (m x : Nat) : Prop :=
  (x < dAddr + m * dStride ∨ dAddr + m * dStride + outBits fo * cols / 8 ≤ x)
    ∧ (foIsMx fo = true → x < dsAddr + m * (cols / 32) ∨ dsAddr + m * (cols / 32) + cols / 32 ≤ x)

theorem drainRow_outside (d : Bed) {m x : Nat} (h : OutsideRow fo cols dAddr dStride dsAddr m x) :
    tget 0 (drainRow t fo cols dAddr dStride dsAddr sat rnd d m).scratch x = tget 0 d.scratch x := by
  obtain ⟨hrow, hscale⟩ := h
  rw [← length_rowBytes t fo cols sat rnd m] at hrow
  cases hmx : foIsMx fo
  · rw [drainRow_plain _ _ _ _ _ _ _ _ hmx, scratch_poke_outside _ hrow]
  · rw [drainRow_mx _ _ _ _ _ _ _ _ hmx, scratch_poke_outside _ (by simpa [rowScales, hmx] using hscale hmx), scratch_poke_outside _ hrow]

/-- The bed once the first n rows are written. -/
def rowsDrained (d : Bed) (n : Nat) : Bed := (List.range n).foldl (drainRow t fo cols dAddr dStride dsAddr sat rnd) d

theorem rowsDrained_succ (d : Bed) (n : Nat) : rowsDrained t fo cols dAddr dStride dsAddr sat rnd d (n + 1)
    = drainRow t fo cols dAddr dStride dsAddr sat rnd (rowsDrained t fo cols dAddr dStride dsAddr sat rnd d n) n := by
  simp [rowsDrained, List.range_succ]

theorem onlyScratchOf_rowsDrained (d : Bed) (n : Nat) : OnlyScratchOf d (rowsDrained t fo cols dAddr dStride dsAddr sat rnd d n) := by
  induction n with
  | zero => rfl
  | succ n ih => rw [rowsDrained_succ]; exact ih.trans (onlyScratchOf_drainRow ..)

theorem rowsDrained_outside (d : Bed) {n x : Nat} (h : ∀ m, m < n → OutsideRow fo cols dAddr dStride dsAddr m x) :
    tget 0 (rowsDrained t fo cols dAddr dStride dsAddr sat rnd d n).scratch x = tget 0 d.scratch x := by
  induction n with
  | zero => rfl
  | succ n ih =>
    rw [rowsDrained_succ, drainRow_outside _ _ _ _ _ _ _ _ _ (h n (by omega)), ih (fun m hm => h m (by omega))]

/-- Where rows do not overlap, each row of a format without blocks holds its elements in the end. -/
theorem scratchBytes_rowsDrained (hmx : foIsMx fo = false) (hlen : outBits fo * cols / 8 ≤ dStride) (d : Bed) {n m : Nat} (hm : m < n) :
    (rowsDrained t fo cols dAddr dStride dsAddr sat rnd d n).scratchBytes (dAddr + m * dStride) (outBits fo * cols / 8)
      = rowBytes t fo cols sat rnd m := by
  induction n with
  | zero => omega
  | succ n ih =>
    rw [rowsDrained_succ]
    by_cases hlast : m = n
    · rw [hlast, drainRow_plain _ _ _ _ _ _ _ _ hmx, ← length_rowBytes t fo cols sat rnd n]
      exact scratchBytes_poke_same ..
    · have hbelow : (m + 1) * dStride ≤ n * dStride := Nat.mul_le_mul_right _ (by omega)
      rw [Nat.succ_mul] at hbelow
      rw [← ih (by omega)]
      refine scratchBytes_congr (fun x _ hx => drainRow_outside _ _ _ _ _ _ _ _ _ ⟨Or.inl (by omega), fun h => ?_⟩)
      rw [hmx] at h
      exact absurd h (by decide)

end Rows

/-! ### The turn of an MMA.DRAIN -/

/-- The bed an MMA.DRAIN leaves before the tile is freed, given how each element is rounded. -/
def writtenBed (d : Bed) (w : Work) (f : XFmt) (rnd : Nat → Nat → Rnd) : Bed :=
  let d1 := rowsDrained (d.slot (xSlot f)) (xFa f) (w.sop 4) (w.sop 0) (w.sop 1) (w.sop 2) (xBit27 f) rnd d (w.sop 3)
  if xBit31 f && w.key.isNone then d1.stepBank (w.sop 3 * ceilDiv (w.sop 4) (drainCols (xFa f))) else d1

/-- The bed an MMA.DRAIN leaves. -/
def drainedBed (d : Bed) (w : Work) (f : XFmt) (rnd : Nat → Nat → Rnd) : Bed :=
  if xBit26 f then (writtenBed d w f rnd).endTiles (tileSlots (d.slot (xSlot f)).kind (xSlot f)) else writtenBed d w f rnd

/-- The rounding of a drain: to nearest, or under a drain key by the keyed nibbles (R102, R165). -/
def RoundsAs (w : Work) (f : XFmt) (rnd : Nat → Nat → Rnd) : Prop :=
  (xBit31 f = false → rnd = fun _ _ => .rne)
    ∧ ∀ key, xBit31 f = true → w.key = some key → rnd = fun m n => .st4 (drainNibble key (w.sop 5) m n)

theorem drainRun_ok {w : Work} {f : XFmt} {u : State} {d : Bed} (hd : u.bed w.at_.pan w.at_.bed = d)
    (hfits : drainFits d f (w.sop 3) (w.sop 4) = true) (hbad : drainBad (d.slot (xSlot f)) (w.sop 3) (w.sop 4) = false) :
    ∃ rnd, RoundsAs w f rnd ∧ drainRun w f u = u.setBed w.at_.pan w.at_.bed (drainedBed d w f rnd) := by
  cases hst : xBit31 f
  case false =>
    refine ⟨fun _ _ => .rne, ⟨fun _ => rfl, fun _ h => by rw [hst] at h; exact absurd h (by decide)⟩, ?_⟩
    simp only [drainRun, hd, hfits, hbad, hst, drainedBed, writtenBed, rowsDrained, Bool.not_true, Bool.not_false, Bool.false_eq_true, if_false, if_true]
  case true =>
    cases hkey : w.key with
    | none =>
      refine ⟨fun m n => .st4 (bankNibble d (m * ceilDiv (w.sop 4) (drainCols (xFa f)) + n / drainCols (xFa f))
        (u.draw (8192 + m * 1024 + n))), ⟨fun h => absurd (hst.symm.trans h) (by decide), fun _ _ h => ?_⟩, ?_⟩
      · exact absurd (hkey.symm.trans h) (by simp)
      · simp only [drainRun, hd, hfits, hbad, hst, hkey, drainedBed, writtenBed, rowsDrained, Bool.not_true, Bool.false_eq_true, if_false]
    | some key =>
      refine ⟨fun m n => .st4 (drainNibble key (w.sop 5) m n), ⟨fun h => absurd (hst.symm.trans h) (by decide), fun key' _ h => ?_⟩, ?_⟩
      · rw [Option.some.inj (hkey.symm.trans h)]
      · simp only [drainRun, hd, hfits, hbad, hst, hkey, drainedBed, writtenBed, rowsDrained, Bool.not_true, Bool.false_eq_true, if_false]

section Drained

variable (d : Bed) (w : Work) (f : XFmt) (rnd : Nat → Nat → Rnd)

theorem writtenBed_frame : writtenBed d w f rnd = { d with
    scratch := (rowsDrained (d.slot (xSlot f)) (xFa f) (w.sop 4) (w.sop 0) (w.sop 1) (w.sop 2) (xBit27 f) rnd d (w.sop 3)).scratch,
    scratchBad := (writtenBed d w f rnd).scratchBad, kept := (writtenBed d w f rnd).kept,
    drainBank := (writtenBed d w f rnd).drainBank } := by
  have hrows := onlyScratchOf_rowsDrained (d.slot (xSlot f)) (xFa f) (w.sop 4) (w.sop 0) (w.sop 1) (w.sop 2) (xBit27 f) rnd d (w.sop 3)
  unfold writtenBed
  generalize rowsDrained _ _ _ _ _ _ _ _ _ _ = e at hrows ⊢
  obtain ⟨sc, bad, kept, rfl⟩ : ∃ sc bad kept, e = { d with scratch := sc, scratchBad := bad, kept := kept } := ⟨_, _, _, hrows⟩
  simp only
  split <;> rfl

/-- Freeing the tile changes the slots alone (R83). -/
theorem onlySlots_drainedBed : OnlySlots (writtenBed d w f rnd) (drainedBed d w f rnd) := by
  unfold drainedBed
  split
  · exact onlySlots_endTiles ..
  · rfl

/-- A drain's scratch is what its rows leave. -/
theorem scratch_drainedBed : (drainedBed d w f rnd).scratch
    = (rowsDrained (d.slot (xSlot f)) (xFa f) (w.sop 4) (w.sop 0) (w.sop 1) (w.sop 2) (xBit27 f) rnd d (w.sop 3)).scratch := by
  rw [show drainedBed d w f rnd = _ from onlySlots_drainedBed .., writtenBed_frame]

theorem drainedBed_frame : drainedBed d w f rnd = { d with
    slots := (drainedBed d w f rnd).slots, scratch := (drainedBed d w f rnd).scratch, scratchBad := (drainedBed d w f rnd).scratchBad,
    kept := (drainedBed d w f rnd).kept, drainBank := (drainedBed d w f rnd).drainBank } := by
  have hslots := onlySlots_drainedBed d w f rnd
  generalize drainedBed d w f rnd = e at hslots ⊢
  obtain ⟨sl, rfl⟩ : ∃ sl, e = { writtenBed d w f rnd with slots := sl } := ⟨_, hslots⟩
  rw [writtenBed_frame]

theorem slots_drainedBed_kept (h : xBit26 f = false) : (drainedBed d w f rnd).slots = d.slots := by
  rw [drainedBed, h, if_neg (by decide), writtenBed_frame]

theorem kind_drainedBed_freed (h : xBit26 f = true) (hfits : drainFits d f (w.sop 3) (w.sop 4) = true) :
    ((drainedBed d w f rnd).slot (xSlot f)).kind = .empty := by
  have hslot : (writtenBed d w f rnd).slot (xSlot f) = d.slot (xSlot f) := by rw [writtenBed_frame]; rfl
  have hbase : (d.slot (xSlot f)).kind = .exact → (d.slot (xSlot f)).base = xSlot f := by
    simp only [drainFits, slotIs, Bool.and_eq_true, Bool.or_eq_true, decide_eq_true_eq] at hfits
    tauto
  have hended : xSlot f ∈ endedAt (writtenBed d w f rnd) (xSlot f) := by
    unfold endedAt
    rw [hslot]
    split
    · next hexact => simp [hbase hexact]
    · exact List.mem_singleton_self _
  have hslots : ∃ rest, tileSlots (d.slot (xSlot f)).kind (xSlot f) = xSlot f :: rest := by
    unfold tileSlots
    split <;> exact ⟨_, rfl⟩
  obtain ⟨rest, hrest⟩ := hslots
  rw [drainedBed, if_pos h, hrest, slot_endTiles_ended rest hended]

/-- Only a stochastic drain with no drain key steps the bank (R165). -/
theorem drainBank_drainedBed (h : xBit31 f = false ∨ w.key.isSome = true) : (drainedBed d w f rnd).drainBank = d.drainBank := by
  have hrows := onlyScratchOf_rowsDrained (d.slot (xSlot f)) (xFa f) (w.sop 4) (w.sop 0) (w.sop 1) (w.sop 2) (xBit27 f) rnd d (w.sop 3)
  have hcond : ¬ (xBit31 f && w.key.isNone) = true := by
    rcases h with h | h
    · simp [h]
    · simp [Option.isSome_iff_ne_none.mp h]
  rw [show drainedBed d w f rnd = _ from onlySlots_drainedBed ..]
  change (writtenBed d w f rnd).drainBank = d.drainBank
  rw [writtenBed, if_neg hcond, show rowsDrained _ _ _ _ _ _ _ _ _ _ = _ from hrows]

end Drained

/-- Rows of a drain where the elements round as its rounding says. -/
theorem rounds_plain {w : Work} {f : XFmt} {rnd : Nat → Nat → Rnd} (h : RoundsAs w f rnd) (hst : xBit31 f = false) (m n : Nat) :
    rnd m n = .rne := by rw [h.1 hst]

theorem rounds_keyed {w : Work} {f : XFmt} {rnd : Nat → Nat → Rnd} (h : RoundsAs w f rnd) {key : GrainKey} (hst : xBit31 f = true)
    (hkey : w.key = some key) (m n : Nat) : rnd m n = .st4 (drainNibble key (w.sop 5) m n) := by rw [h.2 key hst hkey]

/-! ### The turn of an MMA.LOAD (R84) -/

/-- Element j that an MMA.LOAD reads. -/
def loadedWord (d : Bed) (o : Nat → Nat) (f : XFmt) (j : Nat) : Nat :=
  d.scratchNat (o 0 + j / tileN (xShape f) * o 1 + j % tileN (xShape f) * loadSize f) (loadSize f)

/-- The tile an MMA.LOAD forms where it does not add. -/
def loadedTile (d : Bed) (o : Nat → Nat) (f : XFmt) (z : SlotKind) : AccSlot :=
  { kind := z, shape := xShape f, anchor := if z = .exact then anchorOf (o 2) else 0,
    vals := tabulate 16384 (fun j => BitVec.ofNat 96 (loadedWord d o f j)),
    tags := if z = .exact then tabulate 16384 (fun j => BitVec.ofNat 2 (fld (loadedWord d o f j) 96 2)) else [] }

/-- The bed an MMA.LOAD leaves. -/
def loadedBed (d : Bed) (o : Nat → Nat) (f : XFmt) (z : SlotKind) : Bed :=
  if xBit31 f then d.setSlot (xSlot f) (addTile (d.slot (xSlot f)) (loadedWord d o f)) else d.form (xSlot f) (loadedTile d o f z)

theorem loadRun_ok {w : Work} {f : XFmt} {u : State} {d : Bed} {z : SlotKind} (hd : u.bed w.at_.pan w.at_.bed = d)
    (hrace : ∀ r ∈ d.kept, racing w.viewer r = false) (hz : loadKind (xFa f) = some z) (hfits : loadFits d f (anchorOf (w.sop 2)) = true)
    (herr : firstError d (loadReads w.sop f) = none) (hbad : xBit31 f = true → (d.slot (xSlot f)).bad = []) :
    loadRun w f u = u.setBed w.at_.pan w.at_.bed (loadedBed d w.sop f z) := by
  have hseen : w.seen u = d := by rw [Work.seen, hd]; exact seen_of_no_race _ hrace
  have hsound : (xBit31 f && !(d.slot (xSlot f)).bad.isEmpty) = false := by
    cases hadd : xBit31 f
    · rfl
    · simp [hbad hadd]
  simp only [loadRun, hd, hseen, hz, hfits, herr, hsound, Option.getD_some, Bool.not_true, Bool.false_eq_true, if_false]
  rfl

theorem onlySlots_loadedBed (d : Bed) (o : Nat → Nat) (f : XFmt) (z : SlotKind) : OnlySlots d (loadedBed d o f z) := by
  unfold loadedBed
  split
  · rfl
  · exact onlySlots_form ..

theorem slot_loadedBed_new {d : Bed} {o : Nat → Nat} {f : XFmt} {z : SlotKind} (h : xBit31 f = false) :
    (loadedBed d o f z).slot (xSlot f) = { loadedTile d o f z with base := xSlot f } := by
  rw [loadedBed, h, if_neg (by decide), slot_form_same]

theorem slot_loadedBed_added {d : Bed} {o : Nat → Nat} {f : XFmt} {z : SlotKind} (h : xBit31 f = true) (j : Nat) :
    (loadedBed d o f z).slot j = if j = xSlot f then addTile (d.slot (xSlot f)) (loadedWord d o f) else d.slot j := by
  rw [loadedBed, if_pos h, slot_setSlot]

/-- A load that adds finds a tile of its own kind and shape (R78). -/
theorem loadFits_added {d : Bed} {f : XFmt} {z : SlotKind} {anchor : Int} (hz : loadKind (xFa f) = some z)
    (hfits : loadFits d f anchor = true) (h : xBit31 f = true) :
    (d.slot (xSlot f)).kind = z ∧ (d.slot (xSlot f)).shape = xShape f := by
  simp only [loadFits, hz, h, slotIs, Option.getD_some, Bool.not_true, Bool.false_or, Bool.and_eq_true, decide_eq_true_eq] at hfits
  obtain ⟨⟨⟨hkind, -⟩, hshape⟩, -⟩ := hfits
  exact ⟨hkind, hshape⟩

theorem addTile_keeps (t : AccSlot) (v : Nat → Nat) : (addTile t v).kind = t.kind ∧ (addTile t v).shape = t.shape := by
  obtain ⟨kind⟩ := t
  cases kind <;> exact ⟨rfl, rfl⟩

/-- Loaded elements of exact tiles are added modulo 2^96, and their tags combine (R84, R98). -/
theorem addTile_exact {t : AccSlot} {v : Nat → Nat} (hk : t.kind = .exact) {j : Nat} (hj : j < 16384) :
    tget 0 (addTile t v).vals j = tget 0 t.vals j + BitVec.ofNat 96 (v j)
      ∧ tget 0 (addTile t v).tags j = BitVec.ofNat 2 (tagAdd (tget 0 t.tags j).toNat (v j / 2 ^ 96 % 4)) := by
  simp only [addTile, hk, tget_tabulate, if_pos hj, fld]
  refine ⟨BitVec.eq_of_toNat_eq ?_, rfl⟩
  simp

/-- Those of integer tiles modulo 2^32. -/
theorem addTile_integer {t : AccSlot} {v : Nat → Nat} (hk : t.kind = .integer) {j : Nat} (hj : j < 16384) :
    tget 0 (addTile t v).vals j = BitVec.ofNat 96 (((tget 0 t.vals j).toNat + v j) % 2 ^ 32) := by
  simp only [addTile, hk, tget_tabulate, if_pos hj]

/-- Those of fast tiles as FP32 numbers. -/
theorem addTile_fast {t : AccSlot} {v : Nat → Nat} (hk : t.kind = .fast) {j : Nat} (hj : j < 16384) :
    tget 0 (addTile t v).vals j = BitVec.ofNat 96 (addF32 (tget 0 t.vals j).toNat (v j)) := by
  simp only [addTile, hk, tget_tabulate, if_pos hj]

theorem loadSize_eq {f : XFmt} {z : SlotKind} (hz : loadKind (xFa f) = some z) : loadSize f = if z = .exact then 16 else 4 := by
  have hexact : xFa f = 15 ↔ z = .exact := by
    unfold loadKind at hz
    split at hz <;> cases hz <;> simp_all
  simp only [loadSize, hexact]

/-! ### The turn of an MMA.STAT (R85) -/

/-- Fields packed as R85 packs a tile's status are read back, and the word has 64 bits. -/
theorem statWord_fields {code shape an base k : Nat} (b4 b5 b6 b7 : Bool) (hcode : code < 4) (hshape : shape < 3) (han : an < 2 ^ 10)
    (hbase : base < 8) (hk : k < 2 ^ 32) :
    let v := code + shape * 4 + boolN b4 * 16 + boolN b5 * 32 + boolN b6 * 64 + boolN b7 * 128 + an * 256 + base * 2 ^ 18 + k * 2 ^ 32
    v < 2 ^ 64 ∧ v % 4 = code ∧ v / 4 % 4 = shape ∧ v / 2 ^ 18 % 8 = base ∧ v / 2 ^ 32 = k
      ∧ v.testBit 4 = b4 ∧ v.testBit 5 = b5 ∧ v.testBit 7 = b7 := by
  have hbool : ∀ b : Bool, boolN b < 2 ∧ (decide (boolN b = 1) = b) := by decide
  obtain ⟨h4, e4⟩ := hbool b4
  obtain ⟨h5, e5⟩ := hbool b5
  obtain ⟨h6, -⟩ := hbool b6
  obtain ⟨h7, e7⟩ := hbool b7
  intro v
  have hbit : ∀ {i : Nat} {b : Bool}, v / 2 ^ i % 2 = boolN b → decide (boolN b = 1) = b → v.testBit i = b := by
    intro i b hi hb
    rw [Nat.testBit_eq_decide_div_mod_eq, hi, hb]
  exact ⟨by omega, by omega, by omega, by omega, by omega, hbit (by omega) e4, hbit (by omega) e5, hbit (by omega) e7⟩

theorem code_lt (k : SlotKind) : k.code < 4 := by cases k <;> decide

theorem wrapN_lt (n : Nat) (i : Int) : wrapN n i < 2 ^ n := by
  have hpos : (0 : Int) < Int.ofNat (2 ^ n) := Int.natCast_pos.mpr (Nat.two_pow_pos n)
  have hlt := Int.emod_lt_of_pos i hpos
  have hnonneg := Int.emod_nonneg i (ne_of_gt hpos)
  unfold wrapN
  simp only [Int.ofNat_eq_natCast] at *
  omega

/-- The tile that the status of slot i reports: any slot of an exact tile reports the tile. -/
def statBase (d : Bed) (i : Nat) : Nat := if (d.slot i).kind = .exact then (d.slot i).base else i

/-- The status of a tile read back field by field (R85). -/
theorem slotStat_fields {d : Bed} {i : Nat} (hshape : (d.slot (statBase d i)).shape < 3) (hbase : statBase d i < 8)
    (hcount : (d.slot (statBase d i)).kCount < 2 ^ 32) :
    let t := d.slot (statBase d i)
    let v := slotStat d i
    v < 2 ^ 64 ∧ v % 4 = t.kind.code ∧ v / 4 % 4 = t.shape ∧ v / 2 ^ 18 % 8 = statBase d i ∧ v / 2 ^ 32 = t.kCount
      ∧ v.testBit 4 = (decide (t.kind = .exact) && t.inexact) ∧ v.testBit 5 = (decide (t.kind = .exact) && t.range)
      ∧ v.testBit 7 = tileSpecial t := by
  have hanchor : (if (d.slot (statBase d i)).kind = .exact then wrapN 10 (d.slot (statBase d i)).anchor else 0) < 2 ^ 10 := by
    split
    · exact wrapN_lt ..
    · decide
  exact statWord_fields _ _ (decide ((d.slot (statBase d i)).kind = .exact) && (d.slot (statBase d i)).kOver) _ (code_lt _) hshape hanchor
    hbase hcount

/-! ### The turns -/

section Turn

variable {s : State} {p k i : Nat} {w : Work} {f : XFmt} (hhead : MatrixHead s p k i w)
include hhead

/-- A bed after the turn is the one the engine puts there, and no other thing changes. -/
theorem drain_turn (hop : w.op = .mmaDrain f) (hfits : drainFits (s.bed p k) f (w.sop 3) (w.sop 4) = true)
    (hbad : drainBad ((s.bed p k).slot (xSlot f)) (w.sop 3) (w.sop 4) = false) :
    let t := runTurn s (.matrix p k i)
    (∃ rnd, RoundsAs w f rnd ∧ t.bed p k = drainedBed { s.bed p k with mq := (s.bed p k).mq.eraseIdx i } w f rnd)
      ∧ t = { s with beds := t.beds } := by
  obtain ⟨hget, hp, hk, -, -⟩ := hhead
  have hbed := bed_dequeued s p k i
  subst hp hk
  obtain ⟨rnd, hrnd, hrun⟩ := drainRun_ok hbed hfits hbad
  rw [runTurn_drain hget hop, hrun]
  exact ⟨⟨rnd, hrnd, bed_setBed_same ..⟩, rfl⟩

theorem load_turn {z : SlotKind} (hop : w.op = .mmaLoad f) (hz : loadKind (xFa f) = some z)
    (hfits : loadFits (s.bed p k) f (anchorOf (w.sop 2)) = true) (herr : firstError (s.bed p k) (loadReads w.sop f) = none)
    (hbad : xBit31 f = true → ((s.bed p k).slot (xSlot f)).bad = []) :
    let t := runTurn s (.matrix p k i)
    t.bed p k = loadedBed { s.bed p k with mq := (s.bed p k).mq.eraseIdx i } w.sop f z ∧ t = { s with beds := t.beds } := by
  obtain ⟨hget, hp, hk, hrace, -⟩ := hhead
  have hbed := bed_dequeued s p k i
  subst hp hk
  rw [runTurn_load hget hop, loadRun_ok hbed hrace hz hfits herr hbad]
  exact ⟨bed_setBed_same .., rfl⟩

theorem stat_turn (hop : w.op = .mmaStat f) :
    let t := runTurn s (.matrix p k i)
    t.rake p k w.at_.slot = (s.rake p k w.at_.slot).sset (xSd f) (BitVec.ofNat 64 (slotStat (s.bed p k) (xSlot f)))
      ∧ t.bed p k = { s.bed p k with mq := (s.bed p k).mq.eraseIdx i }
      ∧ (∀ p' b' j, rakeKey p' b' j ≠ rakeKey p k w.at_.slot → t.rake p' b' j = s.rake p' b' j)
      ∧ t = { s with beds := t.beds, rakes := t.rakes } := by
  obtain ⟨hget, hp, hk, -, -⟩ := hhead
  have hbed := bed_dequeued s p k i
  subst hp hk
  rw [runTurn_stat hget hop, statRun, hbed]
  exact ⟨rake_setRake_same .., hbed, fun p' b' j hj => rake_setRake_other _ _ hj, rfl⟩

end Turn

/-- Settles O20: issue by the rule for queued instructions; each turn by what its bed or rake is then. -/
theorem matrixTilesLoadDrainAndReport : Obligations.MatrixTilesLoadDrainAndReport := by
  refine ⟨fun a f s c s1 => ⟨fun hruns hfault => ?_, fun hruns hfault => ?_, fun hruns => ?_⟩, fun s p k n w f hhead => ?_⟩
  · exact issues_of_enqueue rfl hruns (by simp only [hfault])
  · exact issues_of_enqueue rfl hruns (by simp only [hfault])
  · exact issues_of_enqueue rfl hruns rfl
  · intro d i tile o fo rowLen t d'
    let dm : Bed := { d with mq := d.mq.eraseIdx n }
    refine ⟨?_, ?_, ?_⟩
    · intro hop hfits hbad
      obtain ⟨⟨rnd, hrnd, hd'⟩, ht⟩ := drain_turn hhead hop hfits hbad
      have hd : d' = drainedBed dm w f rnd := hd'
      have hscratch := scratch_drainedBed dm w f rnd
      rw [← hd] at hscratch
      have hrow : ∀ m, foIsMx fo = false → rowLen ≤ o 1 → m < o 3 →
          d'.scratchBytes (o 0 + m * o 1) rowLen = rowBytes tile fo (o 4) (xBit27 f) rnd m := fun m hmx hlen hm => by
        rw [Bed.scratchBytes, hscratch]
        exact scratchBytes_rowsDrained _ _ _ _ _ _ _ _ hmx hlen _ hm
      refine ⟨fun x hx => ?_, fun m hmx hlen hm => ⟨fun hst => ?_, fun key hst hkey => ?_⟩, fun hkeep => ?_, fun hfree => ?_, fun hbank => ?_,
        ?_, ht⟩
      · rw [hscratch]
        exact rowsDrained_outside _ _ _ _ _ _ _ _ dm hx
      · rw [hrow m hmx hlen hm, rowBytes_plain _ _ _ _ _ hmx]
        simp only [rounds_plain hrnd hst]
      · rw [hrow m hmx hlen hm, rowBytes_plain _ _ _ _ _ hmx]
        simp only [rounds_keyed hrnd hst hkey]
        rfl
      · rw [hd]
        exact slots_drainedBed_kept dm w f rnd hkeep
      · rw [hd]
        exact kind_drainedBed_freed dm w f rnd hfree hfits
      · rw [hd]
        exact drainBank_drainedBed dm w f rnd hbank
      · rw [hd]
        exact drainedBed_frame dm w f rnd
    · intro z hop hz size cols anchor v hfits herr hbad
      obtain ⟨hd', ht⟩ := load_turn hhead hop hz hfits herr hbad
      have hd : d' = loadedBed dm o f z := hd'
      have hv : ∀ j, loadedWord dm o f j = v j := fun j => by
        simp only [loadedWord, loadSize_eq hz]
        rfl
      intro new
      have hformed : xBit31 f = false → new = { loadedTile dm o f z with base := i } := fun hadd => by
        rw [← slot_loadedBed_new hadd, ← hd]
      have hadded : xBit31 f = true → new = addTile tile (loadedWord dm o f) := fun hadd => by
        refine (congrArg (fun b : Bed => b.slot i) hd).trans ?_
        rw [slot_loadedBed_added hadd, if_pos rfl]
        rfl
      have hframe : d' = { dm with slots := d'.slots } := by
        rw [hd]
        exact onlySlots_loadedBed dm o f z
      have hkinds : xBit31 f = true → tile.kind = z ∧ tile.shape = xShape f := loadFits_added hz hfits
      refine ⟨?_, ?_, fun hadd => ?_, fun j hj hadd => ?_, fun j hj hadd => ?_, fun hadd j hj => ?_, hframe, ht⟩
      · cases hadd : xBit31 f
        · rw [hformed hadd]; rfl
        · rw [hadded hadd, (addTile_keeps ..).1, (hkinds hadd).1]
      · cases hadd : xBit31 f
        · rw [hformed hadd]; rfl
        · rw [hadded hadd, (addTile_keeps ..).2, (hkinds hadd).2]
      · rw [hformed hadd]
        exact ⟨rfl, rfl⟩
      · rw [hformed hadd, ← hv j]
        refine ⟨by simp only [loadedTile, tget_tabulate, if_pos hj], fun hexact => ?_⟩
        simp only [loadedTile, hexact, if_true, tget_tabulate, if_pos hj, fld]
        exact BitVec.eq_of_toNat_eq (by simp)
      · rw [hadded hadd, ← hv j, ← (hkinds hadd).1]
        exact ⟨fun hk => addTile_exact hk hj, fun hk => addTile_integer hk hj, fun hk => addTile_fast hk hj⟩
      · rw [hd, slot_loadedBed_added hadd, if_neg hj]
        rfl
    · intro hop base t0 r v hshape hbase hcount
      obtain ⟨hr, hd', hother, ht⟩ := stat_turn hhead hop
      obtain ⟨hlt, hfields⟩ := slotStat_fields hshape hbase hcount
      have hreg : r = (s.rake p k w.at_.slot).sset (xSd f) (BitVec.ofNat 64 (slotStat d i)) := hr
      have hv : v = slotStat d i := by
        change (r.sget (xSd f)).toNat = _
        rw [hreg, sget_sset_same, BitVec.toNat_ofNat, Nat.mod_eq_of_lt hlt]
      rw [hv]
      obtain ⟨hcode, hsh, hb, hk, h4, h5, h7⟩ := hfields
      exact ⟨hcode, hsh, hb, hk, h4, h5, h7, fun j hj => by rw [hreg, sget_sset_other _ _ hj], by rw [hreg]; rfl, hd', hother, ht⟩

end Sys2Proof.Matrix
end

section
/-!
PROOFS. Pans leave, return and are tested (O56): a flush passes by a tag whose data has passed to an L2 (R286), in a pan's cache as in a
die cache. No rule of the model forms such a tag in a pan's cache, but the clause on PAN_OFFLINE_COMPLETE does not rule it out. -/

namespace Sys2Proof.Units

open Sys2Proof.Machine Sys2Proof.Safety

/-- PAN_OFFLINE_COMPLETE of an ONLINE pan takes the pan out of service and ends the command. -/
theorem exec_panOfflineComplete_online {s : State} {box p : Nat} {test : Bool}
    (hdeferred : deferredOf s box = some (.panOffline p test none)) (honline : s.onlinePan p = true) :
    exec (.panOfflineComplete box) s = go (finish (leaveOnline s p (offState test) stBusyRetry) box stOk []) := by
  change execPanOfflineComplete box s = _
  simp only [execPanOfflineComplete, hdeferred, honline, if_true]

/-- A flush leaves a cache that holds nothing but tags whose data has passed. -/
theorem flushAgent_of_passed {s : State} {a : Nat} (h : ∀ v ∈ agentLines s a, v.2.passed = true) : flushAgent s a = s := by
  unfold flushAgent
  refine List.foldlRecOn (motive := fun t => t = s) _ _ rfl (fun t ht v hv => ?_)
  subst ht
  simp only [h v hv, if_true]
  split <;> rfl

/-! ### The counterexample -/

/-- At reset but for a deferred PAN_OFFLINE of pan 0 and a tag in that pan's cache whose data has passed. -/
def tagged : State :=
  { State.reset with
    salter := { State.reset.salter with deferred := [(0, .panOffline 0 false none)] }
    coh := { State.reset.coh with lines := [(agentKey (panAgent 0) 0, some { st := .s, data := [], passed := true })] } }

theorem abortPan_tagged : abortPan tagged 0 = tagged := List.foldl_fixed' (fun _ => rfl) _

theorem dropFlood_tagged : dropFlood tagged 0 = tagged := List.foldl_fixed' (fun _ => rfl) _

theorem flushAgent_tagged : flushAgent tagged (panAgent 0) = tagged :=
  flushAgent_of_passed (by decide)

/-- The pan's cache keeps the tag as the pan leaves ONLINE. -/
theorem coh_leaveOnline_tagged (status : Nat) : (leaveOnline tagged 0 .offline status).coh = tagged.coh := by
  simp only [leaveOnline, abortPan_tagged, dropFlood_tagged, flushAgent_tagged]
  rfl

/-- Refutes O56: its clause on PAN_OFFLINE_COMPLETE has every line leave the pan's cache, whatever the state before; in `tagged` the tag
of line 0 stays. -/
theorem not_pansLeaveReturnAndAreTested : ¬ Obligations.PansLeaveReturnAndAreTested := by
  intro h
  obtain ⟨-, hcomplete, -⟩ := h
  obtain ⟨t, hexec, -, -, -, -, -, -, hempty, -⟩ := (hcomplete tagged 0 0 false rfl).2 rfl
  rw [exec_panOfflineComplete_online (p := 0) (test := false) rfl rfl] at hexec
  have hcoh : t.coh = tagged.coh := by
    rw [← Host.Outcome.next.inj hexec]
    exact (Links.KeepsDomain.finish _ 0 stOk []).coh.trans (coh_leaveOnline_tagged stBusyRetry)
  have hgone : t.cached (panAgent 0) 0 = none := hempty 0 (by decide)
  rw [State.cached, hcoh] at hgone
  exact Option.some_ne_none _ hgone

end Sys2Proof.Units
end

section
/-!
PROOFS. The words of the bed instructions (O60): what packing and unpacking a format do to one another, and the decoder by opcode.
`Nat.reduceAdd` is kept from the widths of the appended fields, which `BitVec`'s lemmas about `++` must find as sums. -/

namespace Sys2Proof.Words

/-! ### Packing and unpacking (R114 to R121) -/

section Formats

open BitVec

variable (op : Byte) (w : Dword)

theorem opcode_packV (f : VFmt) : (packV op f).extractLsb' 56 8 = op := by
  simp [packV, extractLsb'_append_eq_of_le, -Nat.reduceAdd]
theorem opcode_packS (f : SFmt) : (packS op f).extractLsb' 56 8 = op := by
  simp [packS, extractLsb'_append_eq_of_le, -Nat.reduceAdd]
theorem opcode_packC (f : CFmt) : (packC op f).extractLsb' 56 8 = op := by
  simp [packC, extractLsb'_append_eq_of_le, -Nat.reduceAdd]
theorem opcode_packM (f : MFmt) : (packM op f).extractLsb' 56 8 = op := by
  simp [packM, extractLsb'_append_eq_of_le, -Nat.reduceAdd]
theorem opcode_packL (f : LFmt) : (packL op f).extractLsb' 56 8 = op := by
  simp [packL, extractLsb'_append_eq_of_le, -Nat.reduceAdd]
theorem opcode_packR (f : RFmt) : (packR op f).extractLsb' 56 8 = op := by
  simp [packR, extractLsb'_append_eq_of_le, -Nat.reduceAdd]
theorem opcode_packX (f : XFmt) : (packX op f).extractLsb' 56 8 = op := by
  simp [packX, extractLsb'_append_eq_of_le, -Nat.reduceAdd]

theorem unpackV_packV (f : VFmt) : unpackV (packV op f) = f := by
  simp [unpackV, unpackG, packV, extractLsb'_append_eq_of_le, extractLsb'_append_eq_of_add_le, -Nat.reduceAdd]
theorem unpackS_packS (f : SFmt) : unpackS (packS op f) = f := by
  simp [unpackS, unpackG, packS, extractLsb'_append_eq_of_le, extractLsb'_append_eq_of_add_le, -Nat.reduceAdd]
theorem unpackC_packC (f : CFmt) : unpackC (packC op f) = f := by
  simp [unpackC, unpackG, packC, extractLsb'_append_eq_of_le, extractLsb'_append_eq_of_add_le, -Nat.reduceAdd]
theorem unpackM_packM (f : MFmt) : unpackM (packM op f) = f := by
  simp [unpackM, unpackG, packM, extractLsb'_append_eq_of_le, extractLsb'_append_eq_of_add_le, -Nat.reduceAdd]
theorem unpackL_packL (f : LFmt) : unpackL (packL op f) = f := by
  simp [unpackL, unpackG, packL, extractLsb'_append_eq_of_le, extractLsb'_append_eq_of_add_le, -Nat.reduceAdd]
theorem unpackR_packR (f : RFmt) : unpackR (packR op f) = f := by
  simp [unpackR, unpackG, packR, extractLsb'_append_eq_of_le, extractLsb'_append_eq_of_add_le, -Nat.reduceAdd]
theorem unpackX_packX (f : XFmt) : unpackX (packX op f) = f := by
  simp [unpackX, unpackG, packX, extractLsb'_append_eq_of_le, extractLsb'_append_eq_of_add_le, -Nat.reduceAdd]

theorem packV_unpackV : packV (w.extractLsb' 56 8) (unpackV w) = w := by
  simp [packV, unpackV, unpackG, extractLsb'_append_extractLsb'_eq_extractLsb', -Nat.reduceAdd]
theorem packS_unpackS : packS (w.extractLsb' 56 8) (unpackS w) = w := by
  simp [packS, unpackS, unpackG, extractLsb'_append_extractLsb'_eq_extractLsb', -Nat.reduceAdd]
theorem packC_unpackC : packC (w.extractLsb' 56 8) (unpackC w) = w := by
  simp [packC, unpackC, unpackG, extractLsb'_append_extractLsb'_eq_extractLsb', -Nat.reduceAdd]
theorem packM_unpackM : packM (w.extractLsb' 56 8) (unpackM w) = w := by
  simp [packM, unpackM, unpackG, extractLsb'_append_extractLsb'_eq_extractLsb', -Nat.reduceAdd]
theorem packL_unpackL : packL (w.extractLsb' 56 8) (unpackL w) = w := by
  simp [packL, unpackL, unpackG, extractLsb'_append_extractLsb'_eq_extractLsb', -Nat.reduceAdd]
theorem packR_unpackR : packR (w.extractLsb' 56 8) (unpackR w) = w := by
  simp [packR, unpackR, unpackG, extractLsb'_append_extractLsb'_eq_extractLsb', -Nat.reduceAdd]
theorem packX_unpackX : packX (w.extractLsb' 56 8) (unpackX w) = w := by
  simp [packX, unpackX, unpackG, extractLsb'_append_extractLsb'_eq_extractLsb', -Nat.reduceAdd]

end Formats

/-! ### The decoder by opcode (R115, R147) -/

/-- One line of the decoder: what holds of its instruction and of those after it holds of whatever it gives. -/
theorem decodes_or {p : Prop} [Decidable p] {x : Instr} {y : Option Instr} {Q : Instr → Prop} (hx : p → Q x)
    (hy : ∀ i, y = some i → Q i) : ∀ i, (if p then some x else y) = some i → Q i := by
  intro i h
  by_cases hp : p
  · rw [if_pos hp] at h
    exact Option.some.inj h ▸ hx hp
  · rw [if_neg hp] at h
    exact hy i h

/-- The encoder gives a decoded word back: each line's format unpacks the word, and packs to it again under the line's opcode. -/
theorem encodeBed_of_decodeBed {a : At} {w : Dword} : ∀ i, decodeBed a w = some i → encodeBed i = some w := by
  have hv : ∀ {op}, w.extractLsb' 56 8 = op → some (packV op (unpackV w)) = some w := fun h => h ▸ congrArg some (packV_unpackV w)
  have hs : ∀ {op}, w.extractLsb' 56 8 = op → some (packS op (unpackS w)) = some w := fun h => h ▸ congrArg some (packS_unpackS w)
  have hc : ∀ {op}, w.extractLsb' 56 8 = op → some (packC op (unpackC w)) = some w := fun h => h ▸ congrArg some (packC_unpackC w)
  have hm : ∀ {op}, w.extractLsb' 56 8 = op → some (packM op (unpackM w)) = some w := fun h => h ▸ congrArg some (packM_unpackM w)
  have hl : ∀ {op}, w.extractLsb' 56 8 = op → some (packL op (unpackL w)) = some w := fun h => h ▸ congrArg some (packL_unpackL w)
  have hx : ∀ {op}, w.extractLsb' 56 8 = op → some (packX op (unpackX w)) = some w := fun h => h ▸ congrArg some (packX_unpackX w)
  have hr : ∀ {op}, w.extractLsb' 56 8 = op → some (packR op (unpackR w)) = some w := fun h => h ▸ congrArg some (packR_unpackR w)
  unfold decodeBed
  iterate 24 refine decodes_or hv ?_
  iterate 13 refine decodes_or hs ?_
  iterate 10 refine decodes_or hc ?_
  iterate 4 refine decodes_or hm ?_
  iterate 6 refine decodes_or hl ?_
  iterate 4 refine decodes_or hx ?_
  iterate 2 refine decodes_or hv ?_
  iterate 6 refine decodes_or hr ?_
  iterate 5 refine decodes_or (fun h => hr h.1) ?_
  exact fun i h => nomatch h

/-- Settles O60: a packed word decodes by its opcode to the fields packed (R116 to R121), a decoded word packs to itself, and the
decoder has no line for an opcode or a sub that R147, R158 and R203 do not list. -/
theorem bedWordsRoundTrip : Obligations.BedWordsRoundTrip := by
  unfold Obligations.BedWordsRoundTrip
  refine ⟨fun a => ?_, fun a w => encodeBed_of_decodeBed, fun a w h => ?_, fun a w hop h => ?_⟩
  · simp only [List.forall_mem_cons, List.not_mem_nil, false_imp_iff, implies_true, and_true]
    refine ⟨?_, ?_, ?_, ?_, ?_, ?_, ?_, ?_⟩
    · simp [encodeBed, decodeBed, opcode_packV, unpackV_packV]
    · simp [encodeBed, decodeBed, opcode_packS, unpackS_packS]
    · simp [encodeBed, decodeBed, opcode_packC, unpackC_packC]
    · simp [encodeBed, decodeBed, opcode_packM, unpackM_packM]
    · simp [encodeBed, decodeBed, opcode_packL, unpackL_packL]
    · simp [encodeBed, decodeBed, opcode_packX, unpackX_packX]
    · simp [encodeBed, decodeBed, opcode_packR, unpackR_packR]
    · simp +contextual [encodeBed, decodeBed, opcode_packR, unpackR_packR]
  · simp only [List.map_cons, List.map_nil, List.cons_append, List.nil_append, List.mem_cons, List.not_mem_nil, or_false, not_or] at h
    simp only [decodeBed, h, if_false, false_and]
  · simp only [List.forall_mem_cons, List.not_mem_nil, false_imp_iff, implies_true, and_true, not_and] at h
    simp only [List.mem_cons, List.not_mem_nil, or_false] at hop
    rcases hop with hop | hop <;> simp_all [decodeBed, unpackR]

end Sys2Proof.Words
end

section
/-!
PROOFS. Vector arithmetic (O8): the operands and results of 32-bit integers as words, and the six instructions. -/

namespace Sys2Proof.Vector

open Sys2Proof.Machine Sys2Proof.Safety Sys2Proof.Laws

/-! ### One register as a word -/

@[simp] theorem wide_one (r : Rake) (reg l : Nat) : r.wide reg 1 l = (r.vget reg l).toNat := by simp [Rake.wide]

@[simp] theorem elem_zero (bits v : Nat) : elem bits 0 v = v % 2 ^ bits := by simp [elem, fld]

@[simp] theorem packElems_one (bits : Nat) (g : Nat → Nat) : packElems bits 1 g = g 0 % 2 ^ bits := by simp [packElems]

@[simp] theorem packElems_zero (bits : Nat) (g : Nat → Nat) : packElems bits 0 g = 0 := rfl

@[simp] theorem negVal_false (t : VType) (v : Nat) : negVal t false v = v := rfl

@[simp] theorem sext_word (x : Word) : sext 32 x.toNat = x.toInt := by
  have := x.isLt
  simp only [sext, BitVec.toInt, Int.ofNat_eq_natCast]
  split <;> split <;> omega

@[simp] theorem sext_mod (n v : Nat) : sext n (v % 2 ^ n) = sext n v := by simp [sext]

@[simp] theorem wrapN_mod (n : Nat) (i : Int) : wrapN n i % 2 ^ n = wrapN n i := by
  have h : (0 : Int) < Int.ofNat (2 ^ n) := Int.natCast_pos.mpr (Nat.two_pow_pos n)
  have h1 := Int.emod_nonneg i (ne_of_gt h)
  have h2 := Int.emod_lt_of_pos i h
  refine Nat.mod_eq_of_lt ?_
  rw [wrapN]
  exact (Int.toNat_lt h1).mpr h2

theorem wrapN_word (i : Int) : wrapN 32 i = (BitVec.ofInt 32 i).toNat := by simp [wrapN]

/-! ### Operands of one register -/

section

variable (c : Issue) {f : VFmt} {t : VType} (l : Nat)

theorem opA_one (ht : t.regs = 1) (hna : f.na = 0) : opA c f t l = (c.rake.vget f.va.toNat l).toNat := by simp [opA, ht, hna]

theorem opB_one (ht : t.regs = 1) (hnb : f.nb = 0) (hb : f.bmode = 0) : opB c f t l = (c.rake.vget f.vb.toNat l).toNat := by
  simp [opB, ht, hnb, hb]

theorem opC_one (s : State) (ht : t.regs = 1) (hnc : f.nc = 0) (hb : f.bmode = 0) :
    opC c s f t l = (c.rake.vget f.vc.toNat l).toNat := by
  simp [opC, ht, hnc, hb]

end

/-! ### The instructions -/

/-- A format V instruction that writes vd completes with its result. -/
theorem completes_vecWrite {a : At} {f : VFmt} {s s1 : State} {c : Issue} {i : Instr} {legal : Issue → Bool} {n : Nat}
    {val : Issue → State → Nat → Nat} {v : Nat → Nat}
    (hx : exec i s = go (vecNext a f s (fun c s => vecWrite c s f (legal c) n (val c s))))
    (h : VecRuns a f s c s1 (legal c && c.rake.regOk f.vd.toNat n)) (hv : val c s1 = v) :
    Completes i s (fun t => VecResult a f c s1 t n v) :=
  ⟨_, hx, hv ▸ vecNext_result legal n val h⟩

theorem exec_arithInstr (op : VArith) (a : At) (f : VFmt) (s : State) : exec (arithInstr op a f) s = go (vArith op a f s) := by
  cases op <;> rfl

/-- The word of an operation is its exact integer result modulo 2^32. -/
theorem arithWord_eq (op : VArith) (x y z : Word) :
    arithWord op x y z = BitVec.ofInt 32 (arithInt op x.toInt y.toInt z.toInt) := by
  cases op <;> simp only [arithWord, arithInt]
  case add => simp [BitVec.ofInt_add]
  case sub => exact BitVec.eq_of_toInt_eq (by simp)
  case mul => simp [BitVec.ofInt_mul]
  case fma => simp [BitVec.ofInt_add, BitVec.ofInt_mul]
  case min => split <;> simp
  case max => split <;> simp

theorem vtypeD_i32 {f : VFmt} (h : f.type = 0) : vtypeD f = ⟨1, 32, 1, .sint⟩ := by simp [vtypeD, vtype, h]

/-- On I32 without saturation and negation, with b a register, a lane's result is the word of its operation. -/
theorem arithLane_word (op : VArith) (c : Issue) (s : State) {f : VFmt} (l : Nat) (ht : f.type = 0) (hs : f.sat = 0) (hna : f.na = 0)
    (hnb : f.nb = 0) (hnc : f.nc = 0) (hb : f.bmode = 0) : arithLane op c s f l
      = (arithWord op (c.rake.vget f.va.toNat l) (c.rake.vget f.vb.toNat l) (c.rake.vget f.vc.toNat l)).toNat := by
  have hA := opA_one (t := ⟨1, 32, 1, .sint⟩) c l rfl hna
  have hB := opB_one (t := ⟨1, 32, 1, .sint⟩) c l rfl hnb hb
  have hC := opC_one (t := ⟨1, 32, 1, .sint⟩) c l s rfl hnc hb
  rw [arithWord_eq, ← wrapN_word]
  have hop : arithInt op (c.rake.vget f.va.toNat l).toInt (c.rake.vget f.vb.toNat l).toInt
      (sext 32 (if op = .fma then (c.rake.vget f.vc.toNat l).toNat else 0))
      = arithInt op (c.rake.vget f.va.toNat l).toInt (c.rake.vget f.vb.toNat l).toInt (c.rake.vget f.vc.toNat l).toInt := by
    cases op <;> simp [arithInt]
  simp only [arithLane, vtypeD_i32 ht, hA, hB, hC, packElems_one, elem_zero, arithElem, intResult, elemInt, hs, sext_mod, sext_word,
    hop]
  exact wrapN_mod 32 _

/-- Settles O8: the results are those the model's `arithLane` gives; on I32 each is the exact integer result modulo 2^32. -/
theorem vectorArithmeticWritesVd : Obligations.VectorArithmeticWritesVd := by
  refine ⟨fun op a f s c s1 h => completes_vecWrite (exec_arithInstr op a f s) h rfl,
    fun op a f s c s1 l h ht hs hna hnb hnc hb hl hm => ?_⟩
  have hregs : (vtypeD f).regs = 1 := by rw [vtypeD_i32 ht]
  obtain ⟨t, hx, ⟨hval, -⟩, -⟩ := completes_vecWrite (exec_arithInstr op a f s) (by rwa [hregs]) rfl
  rw [hregs] at hval
  refine ⟨t, hx, BitVec.eq_of_toNat_eq ?_⟩
  rw [← wide_one, hval l hl hm, arithLane_word op c s1 l ht hs hna hnb hnc hb]
  exact Nat.mod_eq_of_lt (BitVec.isLt _)

end Sys2Proof.Vector
end

section
/-!
PROOFS. Bitwise instructions, moves, selects, shifts, counts and RAW96 sums (O9). -/

namespace Sys2Proof.Vector

open Sys2Proof.Machine Sys2Proof.Safety

variable {a : At} {f : VFmt} {s s1 : State} {c : Issue} {i : Instr} {b b' : Bool} {n : Nat}

theorem vecRuns_legal (h : VecRuns a f s c s1 b) : b = true := h.2.2.1

theorem vecRuns_of_legal (h : VecRuns a f s c s1 b) (hb : b' = true) : VecRuns a f s c s1 b' := ⟨h.1, h.2.1, hb, h.2.2.2⟩

theorem vecRuns_of_true {x z : Bool} (h : VecRuns a f s c s1 (x && true && z)) : VecRuns a f s c s1 (x && z) := by
  rwa [Bool.and_true] at h

/-- An instruction with a sub that is listed is legal where it is legal for any listed sub. -/
theorem vecRuns_of_sub {x z : Bool} {k : BitVec 4} (h : VecRuns a f s c s1 (x && decide (f.sub = k) && z)) (hk : k.toNat < 2) :
    f.sub = k ∧ VecRuns a f s c s1 (x && decide (f.sub.toNat < 2) && z) := by
  have hl := vecRuns_legal h
  simp only [Bool.and_eq_true, decide_eq_true_eq] at hl
  obtain ⟨⟨hx, hsub⟩, hz⟩ := hl
  exact ⟨hsub, vecRuns_of_legal h (by simp [hx, hz, hsub, hk])⟩

/-! ### Shifts and counts (R518) -/

theorem bitN_eq_testBit (x k : Nat) : bitN x k = x.testBit k := by
  rw [Nat.testBit_eq_decide_div_mod_eq, bitN]
  rfl

theorem popCount_eq_countP (n x : Nat) : popCount n x = (List.range n).countP (fun k => x.testBit k) := by
  induction n with
  | zero => rfl
  | succ k ih => simp [popCount, ih, List.range_succ, List.countP_append, List.countP_singleton, bitN_eq_testBit, boolN]

/-- A shifted element: the tag of a RAW96 stays above the shifted bits of its value. -/
theorem shiftElem_eq (op : Nat → Nat → Nat → Nat) (t : VType) (x k : Nat) : shiftElem op t x k
    = (if t.kind = .raw then 2 ^ 96 * (x / 2 ^ 96 % 4) else 0) + op t.valBits (x % 2 ^ t.valBits) (k % 2 ^ t.valBits) := by
  by_cases h : t.kind = .raw
  · simp [shiftElem, VType.valBits, h, fld, boolN, Nat.add_comm]
  · simp [shiftElem, h, boolN]

/-! ### The obligation -/

/-- Settles O9: each instruction writes the packed result of its elements; a U32 operand is one register, whose word the element is. -/
theorem vectorLogicMovesAndShifts : Obligations.VectorLogicMovesAndShifts := by
  intro a f s c s1 t fields gives w tag A B each
  have hshift : ∀ op, (fun l => packElems t.bits t.elems (fun i => shiftElem op t (elem t.bits i (A l)) (elem t.bits i (B l))))
      = each (fun x n => tag x + op w (x % 2 ^ w) (n % 2 ^ w)) := fun op => by simp only [shiftElem_eq]; rfl
  refine ⟨fun h => ?_, fun h => ?_, fun h => ?_, fun h => completes_vecWrite rfl (vecRuns_of_true h) rfl, fun h => ?_, fun h => ?_,
    fun h => completes_vecWrite rfl h rfl, fun h => completes_vecWrite rfl h rfl, fun ht hna hnb hb => ?_⟩
  · have h' := vecRuns_of_true h
    exact ⟨completes_vecWrite rfl h' rfl, completes_vecWrite rfl h' rfl, completes_vecWrite rfl h' rfl,
      completes_vecWrite rfl h (hshift shlElem), completes_vecWrite rfl h' rfl⟩
  · obtain ⟨hsub, h'⟩ := vecRuns_of_sub h (by decide)
    exact completes_vecWrite rfl h' (by simp only [hsub]; exact hshift shrElem)
  · obtain ⟨hsub, h'⟩ := vecRuns_of_sub h (by decide)
    exact completes_vecWrite rfl h' (by simp only [hsub]; exact hshift sarElem)
  · obtain ⟨hsub, h'⟩ := vecRuns_of_sub h (by decide)
    exact completes_vecWrite rfl h' (by simp only [hsub, if_true, popCount_eq_countP]; rfl)
  · obtain ⟨hsub, h'⟩ := vecRuns_of_sub h (by decide)
    exact completes_vecWrite rfl h' (by simp only [hsub]; rfl)
  · have htype : vtypeD f = ⟨1, 32, 1, .uint⟩ := by simp [vtypeD, vtype, ht]
    have hregs : (vtypeD f).regs = 1 := congrArg VType.regs htype
    have hA : ∀ l, A l = (c.rake.vget f.va.toNat l).toNat := fun l => opA_one c l hregs hna
    have hB : ∀ l, B l = (c.rake.vget f.vb.toNat l).toNat := fun l => opB_one c l hregs hnb hb
    refine ⟨hA, hB, fun g l => ?_⟩
    have hmod : ∀ x : Word, x.toNat % 2 ^ 32 = x.toNat := fun x => Nat.mod_eq_of_lt x.isLt
    simp only [each, t, htype, packElems_one, elem_zero, hA, hB, hmod]

end Sys2Proof.Vector
end

section
/-!
PROOFS. Compares, conversions and the elementary functions (O10). -/

namespace Sys2Proof.Vector

open Sys2Proof.Machine Sys2Proof.Safety Sys2Proof.Laws

/-! ### Draws of the lanes (R154) -/

theorem drawAll_frame (r : Rake) (m : Word) : r.drawAll m = { r with lanes := (r.drawAll m).lanes } := by
  unfold Rake.drawAll
  generalize lanesOf m = ls
  induction ls generalizing r with
  | nil => rfl
  | cons t ls ih => rw [List.foldl_cons, ih]; rfl

theorem laneState_drawAll (r : Rake) (m : Word) {l : Nat} (hl : l < 32) :
    (r.drawAll m).laneState l = if lane m l then (grainStep (r.laneState l)).2 else r.laneState l := by
  have fold : ∀ (ls : List Nat) (r : Rake), ls.Nodup → (ls.foldl (fun r t => (r.drawLane t).2) r).laneState l
      = if l ∈ ls then (grainStep (r.laneState l)).2 else r.laneState l := by
    intro ls
    induction ls with
    | nil => intro r _; simp
    | cons t ls ih =>
      intro r hn
      obtain ⟨ht, hn⟩ := List.nodup_cons.mp hn
      rw [List.foldl_cons, ih _ hn]
      by_cases e : l = t
      · subst e
        simp [ht, Rake.drawLane, Rake.laneState, Rake.setLane]
      · simp [e, Rake.drawLane, Rake.laneState, Rake.setLane, tget_tput_other _ _ e]
  rw [Rake.drawAll, fold _ _ (lanesOf_nodup m)]
  simp [mem_lanesOf, hl]

/-! ### What moving program counters leaves -/

@[simp] theorem pget_jump (r : Rake) (m : Word) (pc : Dword) (n : Nat) : (r.jump m pc).pget n = r.pget n := by rw [jump_frame]; rfl
@[simp] theorem sget_jump (r : Rake) (m : Word) (pc : Dword) (n : Nat) : (r.jump m pc).sget n = r.sget n := by rw [jump_frame]; rfl
@[simp] theorem vget_jump (r : Rake) (m : Word) (pc : Dword) (n l : Nat) : (r.jump m pc).vget n l = r.vget n l := by
  rw [jump_frame]; rfl
@[simp] theorem wide_jump (r : Rake) (m : Word) (pc : Dword) (reg n l : Nat) : (r.jump m pc).wide reg n l = r.wide reg n l :=
  wide_congr n (fun k _ _ => vget_jump r m pc k l)
@[simp] theorem laneState_jump (r : Rake) (m : Word) (pc : Dword) (l : Nat) : (r.jump m pc).laneState l = r.laneState l := by
  rw [jump_frame]; rfl

/-! ### Instructions that go on (R116) -/

/-- A format V instruction of a ready group whose broadcast scalar is there goes on with its effect. -/
theorem vecNext_ok {a : At} {f : VFmt} {s s1 s2 : State} {c : Issue} {b : Bool} {body : Issue → State → Except BedFault State}
    (h : VecRuns a f s c s1 b) (hf : body c s1 = .ok s2) : vecNext a f s body = (advance c s2).drawn := by
  obtain ⟨hready, -, -, hwait⟩ := h
  apply bedNext_ok hready
  rw [if_neg]
  · exact hf
  rintro ⟨hb, -, ho⟩
  rw [hwait hb] at ho
  exact absurd ho (by simp)

/-- The rake after a format V instruction that may also write a predicate: r where it writes, else as before. -/
theorem advance_ite_put {a : At} {s : State} {c : Issue} (r : Rake) (b : Prop) [Decidable b] (ha : c.a = a)
    (hr : c.rake = rakeAt a s) : rakeAt a (advance c (if b then c.put s r else s)).drawn
        = (if b then r else c.rake).jump c.active (c.pc + 8)
      ∧ OnlyRake a s (advance c (if b then c.put s r else s)).drawn := by
  by_cases hb : b
  · simp only [hb, if_true]
    exact advance_put r ha
  · simp only [hb, if_false]
    exact advance_only ha hr

/-- A vector write over a rake whose lane states and predicates may have changed, but not its guard: the rake it leaves. -/
theorem completes_vecWrite_over {a : At} {f : VFmt} {s s1 : State} {c : Issue} {i : Instr} {b legal : Bool} {n : Nat}
    {val : Nat → Nat} {r : Rake} {body : Issue → State → Except BedFault State} (hx : exec i s = go (vecNext a f s body))
    (h : VecRuns a f s c s1 b) (hbody : body c s1 = vecWrite { c with rake := r } s1 f legal n val)
    (hguard : ({ c with rake := r } : Issue).guarded f.gd = c.guarded f.gd) (hlegal : legal = true)
    (hreg : r.regOk f.vd.toNat n = true) :
    Completes i s (fun t =>
      rakeAt a t = ((lanesOf (c.guarded f.gd)).foldl (fun r t => r.setWide f.vd.toNat n t (val t)) r).jump c.active (c.pc + 8)
        ∧ OnlyRake a s1 t) := by
  have hw := vecWrite_ok (c := { c with rake := r }) (s := s1) (val := val) (hguard.trans_ne h.2.1) hlegal hreg
  rw [hguard] at hw
  exact ⟨_, hx.trans (congrArg go (vecNext_ok h (hbody.trans hw))), advance_put _ (ready_rake h.1).1⟩

/-! ### The condition of a compare (R147) -/

theorem condVal_word (code : Nat) (x y : Word) (free : Nat) : condVal ⟨1, 32, 1, .sint⟩ code x.toNat y.toNat free
    = (condInt code x.toInt y.toInt).getD false := by
  have h : ∀ z : Word, elem 32 0 z.toNat = z.toNat := fun z => (elem_zero 32 _).trans (Nat.mod_eq_of_lt z.isLt)
  cases hb : (condInt code x.toInt y.toInt).getD false <;> simp [condVal, condElem, elemInt, h, hb, List.range_succ]

/-- Each listed condition of VCMP on I32. -/
theorem condInt_listed (sub : BitVec 4) (x y : Int) (h : sub.toNat < 7) : (condInt sub.toNat x y).getD false
    = (if sub = 0 then decide (x = y) else if sub = 1 then decide (x ≠ y) else if sub = 2 then decide (x < y)
        else if sub = 3 then decide (x ≤ y) else if sub = 4 then decide (y < x) else if sub = 5 then decide (y ≤ x) else false) := by
  have hs : ∀ v : BitVec 4, v.toNat < 7 → v = 0 ∨ v = 1 ∨ v = 2 ∨ v = 3 ∨ v = 4 ∨ v = 5 ∨ v = 6 := by decide
  rcases hs sub h with rfl | rfl | rfl | rfl | rfl | rfl | rfl <;> rfl

/-! ### The instructions -/

/-- VCMP: the predicate it writes, and its frame. -/
theorem vcmp_result {a : At} {f : VFmt} {s s1 : State} {c : Issue}
    (h : VecRuns a f s c s1 (vfieldsOk f false && vsrcOk c f (vtypeD f).regs true true false && decide (f.sub.toNat < 7))) :
    Completes (.vcmp a f) s (fun t =>
      rakeAt a t = (if f.pw = 1 then c.rake.pset f.pd.toNat (maskOf (fun l => if lane (c.guarded f.gd) l then
            condVal (vtypeD f) f.sub.toNat (opA c f (vtypeD f) l) (opB c f (vtypeD f) l) (s1.laneDraw l 0)
          else lane (c.rake.pget f.pd.toNat) l)) else c.rake).jump c.active (c.pc + 8)
        ∧ OnlyRake a s1 t) := by
  obtain ⟨ha, hr⟩ := ready_rake h.1
  refine ⟨_, congrArg go (vecNext_ok h ?_), advance_ite_put _ (f.pw = 1) ha hr⟩
  simp only [vecPred, if_neg h.2.1, h.2.2.1, Bool.not_true, Bool.false_eq_true, if_false]

theorem vcvt_word {f : VFmt} (hp : cvtIsPair f = true) :
    vtype f.sub.toNat = some ⟨1, 32, 1, .flt fp32⟩ ∧ (vtypeD f).regs = 1 := by
  simp only [cvtIsPair, Bool.and_eq_true, Bool.or_eq_true, decide_eq_true_eq] at hp
  obtain ⟨hs, ht | ht⟩ := hp <;> simp [vtypeD, vtype, hs, ht]

/-- A stochastic conversion to a packed format: the value of each guarded lane, and exactly the guarded lanes' states one step on. -/
theorem vcvt_stochastic {a : At} {f : VFmt} {s s1 : State} {c : Issue} {l : Nat} (hp : cvtIsPair f = true) (hrnd : f.rnd = 2)
    (h : VecRuns a f s c s1 (vfieldsOk f true && vsrcOk c f 1 true true false && c.rake.regOk f.vd.toNat 1)) (hl : l < 32) :
    Completes (.vcvt a f) s (fun t =>
      (rakeAt a t).laneState l =
          (if lane (c.guarded f.gd) l then (grainStep (c.rake.laneState l)).2 else c.rake.laneState l)
        ∧ (lane (c.guarded f.gd) l = true → (rakeAt a t).wide f.vd.toNat 1 l =
            cvtLane c s1 f ⟨1, 32, 1, .flt fp32⟩ l (grainStep (c.rake.laneState l)).1.toNat % 2 ^ 32)
        ∧ NextPc c (rakeAt a t) ∧ OnlyRake a s1 t) := by
  obtain ⟨hsrc, hregs⟩ := vcvt_word hp
  have hl1 := vecRuns_legal h
  rw [Bool.and_eq_true] at hl1
  obtain ⟨t, hx, hrake, honly⟩ := completes_vecWrite_over (i := .vcvt a f) (r := c.rake.drawAll (c.guarded f.gd)) (n := 1)
    (legal := vfieldsOk f true && vsrcOk c f 1 true true false)
    (val := fun l => cvtLane c s1 f ⟨1, 32, 1, .flt fp32⟩ l (c.rake.drawLane l).1.toNat) rfl h
    (by simp only [hsrc, hrnd, if_true, hp, hregs]) (by rw [drawAll_frame]; rfl) hl1.1
    (by rw [drawAll_frame]; exact hl1.2)
  obtain ⟨hval, -, hframe⟩ := foldl_setWide (lanesOf (c.guarded f.gd)) (c.rake.drawAll (c.guarded f.gd)) f.vd.toNat 1
    (fun l => cvtLane c s1 f ⟨1, 32, 1, .flt fp32⟩ l (c.rake.drawLane l).1.toNat) (fun l hl => (mem_lanesOf.mp hl).1) (lanesOf_nodup _)
  refine ⟨t, hx, ?_, fun hm => ?_, ?_, honly⟩ <;> rw [hrake]
  · rw [laneState_jump, hframe]
    exact laneState_drawAll c.rake _ hl
  · rw [wide_jump]
    exact hval l (mem_lanesOf.mpr ⟨hl, hm⟩)
  · refine nextPc_jump c _ ?_
    rw [hframe, drawAll_frame]

/-- Settles O10: a compare writes a mask of conditions, a conversion and an elementary function write vd; a stochastic conversion is a
vector write over a rake whose guarded lanes have drawn. -/
theorem vectorComparesConvertsAndFunctions : Obligations.VectorComparesConvertsAndFunctions := by
  refine ⟨fun a f s c s1 h => ?_, fun c f l free ht hna hnb hb hs => ?_, fun a f s c s1 src hsrc hrnd h => ?_,
    fun a f s c s1 l hp hrnd h hl => ?_, fun a f s c s1 h => ?_⟩
  · obtain ⟨t, hx, hrake, honly⟩ := vcmp_result h
    refine ⟨t, hx, fun l hl hpw hpd => ?_, fun n hn => ?_, ?_, ?_, honly⟩ <;> rw [hrake]
    · have h7 : f.pd.toNat ≠ 7 := fun e => hpd (BitVec.eq_of_toNat_eq e)
      rw [pget_jump, if_pos hpw, pget_pset, if_pos ⟨rfl, h7⟩, lane_maskOf _ l hl]
    · rw [pget_jump]
      by_cases hpw : f.pw = 1
      · rw [if_pos hpw, pget_pset, if_neg]
        rintro ⟨rfl, h7⟩
        rcases hn with hn | hn | hn
        · exact hn rfl
        · rw [hpw] at hn
          exact absurd hn (by decide)
        · exact h7 (congrArg BitVec.toNat hn)
      · rw [if_neg hpw]
    · rw [jump_frame]
      split
      · rw [pset_frame]
      · rfl
    · refine nextPc_jump c _ ?_
      split
      · rw [pset_frame]
      · rfl
  · rw [vtypeD_i32 ht, opA_one c l rfl hna, opB_one c l rfl hnb hb, condVal_word]
    exact condInt_listed f.sub _ _ hs
  · refine completes_vecWrite (legal := fun c => vfieldsOk f (cvtIsPair f) && vsrcOk c f src.regs true (cvtIsPair f) false)
      (val := fun c s l => cvtLane c s f src l (c.rake.drawLane l).1.toNat) ?_ h rfl
    change go (vecNext a f s _) = _
    simp only [hsrc, if_neg hrnd]
  · exact vcvt_stochastic hp hrnd h hl
  · intro gives
    exact ⟨completes_vecWrite rfl h rfl, completes_vecWrite rfl h rfl, completes_vecWrite rfl h rfl, completes_vecWrite rfl h rfl,
      completes_vecWrite rfl h rfl, completes_vecWrite rfl h rfl⟩

end Sys2Proof.Vector
end

section
/-!
PROOFS. The scalar instructions (O11). -/

namespace Sys2Proof.Scalars

open Sys2Proof.Machine Sys2Proof.Safety Sys2Proof.Laws

variable {a : At} {f : SFmt} {s s1 : State} {c : Issue} {i : Instr} {op : Issue → State → Except BedFault State} {v : Dword}

/-- A scalar instruction that writes sd completes with its result. -/
theorem completes_sset (hx : exec i s = go (scalarOp a f s op)) (h : ScalarRuns a f s c s1)
    (hop : op c s1 = .ok (c.put s1 (c.rake.sset f.sd.toNat v))) : Completes i s (fun t => ScalarResult a f.sd.toNat c s1 t v) := by
  obtain ⟨hready, hguard, hwait⟩ := h
  obtain ⟨ha, -⟩ := ready_rake hready
  obtain ⟨hrake, honly⟩ := advance_put (s := s1) (c.rake.sset f.sd.toNat v) ha
  refine ⟨_, hx.trans (congrArg go (scalarOp_ok hready hguard hwait hop)), ?_, fun n hn => ?_, ?_, ?_, honly⟩ <;> rw [hrake]
  · rw [Vector.sget_jump, sget_sset_same]
  · rw [Vector.sget_jump, sget_sset_other _ _ hn]
  · rw [jump_frame]
    rfl
  · exact nextPc_jump c _ rfl

/-- Under a guard that holds for no thread a scalar instruction goes on and does nothing else (R130). -/
theorem completes_unguarded (hx : exec i s = go (scalarOp a f s op)) (h : Ready a s c s1) (hguard : c.guarded f.gd = 0) :
    Completes i s (fun t => rakeAt a t = { c.rake with pcs := (rakeAt a t).pcs } ∧ NextPc c (rakeAt a t) ∧ OnlyRake a s1 t) := by
  obtain ⟨ha, hr⟩ := ready_rake h
  obtain ⟨hrake, honly⟩ := advance_only (s := s1) ha hr
  refine ⟨_, hx.trans (congrArg go (bedNext_ok h (if_pos hguard))), ?_, ?_, honly⟩ <;> rw [hrake]
  · exact jump_frame ..
  · exact nextPc_jump c _ rfl

/-- The conditions of SCMP in a list by their code (R147). -/
theorem condInt_eq_lookup (k : Nat) (x y : Dword) : condInt k x.toInt y.toInt =
    [(0, decide (x = y)), (1, decide (x ≠ y)), (2, decide (x.toInt < y.toInt)), (3, decide (x.toInt ≤ y.toInt)),
      (4, decide (y.toInt < x.toInt)), (5, decide (y.toInt ≤ x.toInt)), (6, false)].lookup k := by
  simp only [ne_eq, ← BitVec.toInt_inj (x := x)]
  match k with
  | 0 | 1 | 2 | 3 | 4 | 5 | 6 => rfl
  | _ + 7 => rfl

/-- A scalar shift by less than 64 puts the shifted value in sd. -/
theorem completes_sShift {g : Dword → Nat → Dword} (hx : exec i s = go (sShift g a f s)) (h : ScalarRuns a f s c s1)
    (hn : (sopB c f).toNat < 64) :
    Completes i s (fun t => ScalarResult a f.sd.toNat c s1 t (g (c.rake.sget f.sa.toNat) (sopB c f).toNat)) :=
  completes_sset hx h (by simp only [hn, if_true])

/-- SCMP with a listed code puts its condition in sd. -/
theorem completes_scmp {b : Bool} (h : ScalarRuns a f s c s1)
    (hb : condInt (f.imm32.toNat % 8) (c.rake.sget f.sa.toNat).toInt (sopB c f).toInt = some b) :
    Completes (.scmp a f) s (fun t => ScalarResult a f.sd.toNat c s1 t (if b then 1 else 0)) :=
  completes_sset rfl h (by rw [hb])

/-- SREAD of a listed special register puts it in sd. -/
theorem completes_sread (h : ScalarRuns a f s c s1) (hv : specialReg c s1 (f.imm32.toNat % 256) = some v) :
    Completes (.sread a f) s (fun t => ScalarResult a f.sd.toNat c s1 t v) :=
  completes_sset rfl h (by rw [hv])

/-- Settles O11: each scalar instruction puts its result in sd and goes on. -/
theorem scalarInstructionsWriteSd : Obligations.ScalarInstructionsWriteSd := by
  refine ⟨fun a f s c s1 h => ?_, fun a f s c s1 mk h hguard hmk => ?_⟩
  · intro x y gives
    obtain ⟨ha, -⟩ := ready_rake h.1
    refine ⟨completes_sset rfl h rfl, completes_sset rfl h rfl, completes_sset rfl h rfl, completes_sset rfl h rfl,
      completes_sset rfl h rfl, completes_sset rfl h rfl, completes_sset rfl h rfl, ?_, fun hy => ⟨?_, ?_⟩, ⟨_, completes_sset rfl h rfl⟩,
      ⟨_, completes_sset rfl h rfl⟩, fun k b hk hb => ?_, fun hk => ?_, fun hk => ?_, fun hk => ?_, fun hk => ?_, fun hk => ?_,
      fun hk => ?_, fun hreg => ?_⟩
    · refine completes_sset rfl h ?_
      simp only [BitVec.truncate_eq_setWidth, BitVec.setWidth_eq_extractLsb' (show 32 ≤ 64 by decide)]
      rfl
    · exact completes_sShift rfl h hy
    · exact completes_sShift rfl h hy
    · exact completes_scmp h ((condInt_eq_lookup _ _ _).trans (hk ▸ hb))
    · exact completes_sread h (by rw [hk, ← ha]; rfl)
    · exact completes_sread h (by rw [hk, ← ha]; rfl)
    · exact completes_sread h (by rw [hk, ← ha]; rfl)
    · exact completes_sread h (by rw [hk]; rfl)
    · exact completes_sread h (by rw [hk]; rfl)
    · rcases hk with hk | hk
      · exact ⟨_, completes_sread h (by rw [hk]; rfl)⟩
      · exact ⟨_, completes_sread h (by rw [hk]; rfl)⟩
    · exact completes_sset rfl h (by simp only [hreg, Bool.not_true, Bool.false_eq_true, if_false])
  · simp only [List.mem_cons, List.not_mem_nil, or_false] at hmk
    rcases hmk with rfl | rfl | rfl | rfl | rfl | rfl | rfl | rfl | rfl | rfl | rfl | rfl | rfl <;>
      exact completes_unguarded rfl h hguard

end Sys2Proof.Scalars
end

section
/-!
PROOFS. Branches (O12): the fields of format C, group numbers, and what splitting a group leaves. -/

namespace Sys2Proof.Branches

open Sys2Proof.Machine Sys2Proof.Safety Sys2Proof.Laws

/-! ### Fields of format C (R118) -/

theorem cField_eq (f : CFmt) (lo len : Nat) : cField f lo len = (f.body.extractLsb' lo len).toNat := by
  simp [cField, fld, Nat.shiftRight_eq_div_pow]

theorem branchTarget_eq (c : Issue) (f : CFmt) :
    branchTarget c f = c.pc + 8 + 8 * (f.body.extractLsb' 0 32).signExtend 64 := by
  rw [branchTarget, cField_eq, Vector.sext_word]
  rfl

/-! ### Group numbers (R125) -/

theorem regroup_frame (r : Rake) (m : Word) (g : Nat) : r.regroup m g = { r with groups := (r.regroup m g).groups } := by
  unfold Rake.regroup
  generalize lanesOf m = ls
  induction ls generalizing r with
  | nil => rfl
  | cons l ls ih => rw [List.foldl_cons, ih]; rfl

theorem groupOf_regroup (r : Rake) (m : Word) (g : Nat) {l : Nat} (h : l < 32) :
    (r.regroup m g).groupOf l = if lane m l then g else r.groupOf l := by
  have fold : ∀ (ls : List Nat) (r : Rake),
      (ls.foldl (fun r l => r.setGroup l g) r).groupOf l = if l ∈ ls then g else r.groupOf l := by
    intro ls
    induction ls with
    | nil => intro r; simp
    | cons t ls ih =>
      intro r
      rw [List.foldl_cons, ih]
      by_cases e : l = t
      · subst e
        simp [Rake.groupOf, Rake.setGroup]
      · simp [e, Rake.groupOf, Rake.setGroup, tget_tput_other _ _ e]
  rw [Rake.regroup, fold]
  simp [mem_lanesOf, h]

@[simp] theorem pc_regroup (r : Rake) (m : Word) (g l : Nat) : (r.regroup m g).pc l = r.pc l := by rw [regroup_frame]; rfl
@[simp] theorem groupOf_jump (r : Rake) (m : Word) (pc : Dword) (l : Nat) : (r.jump m pc).groupOf l = r.groupOf l := by
  rw [jump_frame]; rfl

theorem lane_live (r : Rake) {l : Nat} (h : l < 32) : lane r.live l = (r.thread l).live := lane_maskOf _ l h

/-- A fresh group number is no live thread's: 33 numbers are tried, and 32 threads carry at most 32 of them. -/
theorem freshGroup_ne (r : Rake) {l : Nat} (hl : l < 32) (hlive : lane r.live l = true) : r.groupOf l ≠ r.freshGroup := by
  rw [lane_live r hl] at hlive
  unfold Rake.freshGroup
  cases hf : (List.range 33).find? (fun g => !laneList.any (fun t => (r.thread t).live && decide (r.groupOf t = g))) with
  | some g =>
    intro e
    have hg := List.find?_some hf
    simp only [Bool.not_eq_true', List.any_eq_false, Bool.and_eq_true, decide_eq_true_eq, not_and] at hg
    exact hg l (List.mem_range.mpr hl) hlive e
  | none =>
    exfalso
    have hsub : List.range 33 ⊆ laneList.map r.groupOf := by
      intro g hg
      have hused := List.find?_eq_none.mp hf g hg
      simp only [Bool.not_eq_true', Bool.not_eq_false, List.any_eq_true, Bool.and_eq_true, decide_eq_true_eq] at hused
      obtain ⟨t, ht, -, e⟩ := hused
      exact List.mem_map.mpr ⟨t, ht, e⟩
    have hlen := (List.nodup_range.subperm hsub).length_le
    simp [laneList] at hlen

/-! ### Splitting a group -/

section

variable {a : At} {s s1 : State} {c : Issue} {i : Instr} {f : Issue → State → Except BedFault State} {r : Rake}

/-- An instruction of a ready group that puts a rake back and does not go on of itself. -/
theorem completes_put (hx : exec i s = go (bedIssue a s f)) (h : Ready a s c s1) (hf : f c s1 = .ok (c.put s1 r)) :
    Completes i s (fun t => rakeAt a t = r ∧ OnlyRake a s1 t) := by
  obtain ⟨rfl, -⟩ := ready_rake h
  exact ⟨_, hx.trans (congrArg go (bedIssue_ok h hf)), rake_put c s1 r rfl, rfl, fun p b k hk => rake_setRake_other s1 r hk⟩

theorem lane_guarded {gd : Guard} {l : Nat} (h : lane (c.guarded gd) l = true) : lane c.active l = true := by
  simp only [Issue.guarded, lane, BitVec.getLsbD_and, Bool.and_eq_true] at h
  exact h.1

theorem lane_rest {m : Word} {l : Nat} (h : l < 32) : lane (c.active &&& ~~~m) l = (lane c.active l && !lane m l) := by
  simp [lane, h]

/-- The threads of the issuing group carry its number. -/
theorem groupOf_active (h : Ready a s c s1) {l : Nat} (hl : l < 32) (hm : lane c.active l = true) :
    c.rake.thread l = .running ∧ c.rake.groupOf l = a.group := by
  obtain ⟨hissue, -⟩ := h
  unfold issueOf at hissue
  simp only at hissue
  split at hissue
  · obtain rfl := Option.some.inj hissue
    simpa [Rake.issuing, lane_maskOf _ l hl] using hm
  · exact absurd hissue (by simp)

end

/-- Where a split leaves the program counters, before the group numbers. -/
def jumped (c : Issue) (r : Rake) (m : Word) (target : Dword) : Rake := (r.jump m target).jump (c.active &&& ~~~m) (c.pc + 8)

theorem splitJump_eq (c : Issue) (r : Rake) (m : Word) (target : Dword) : splitJump c r m target
    = if m = 0 ∨ c.active &&& ~~~m = 0 then jumped c r m target else (jumped c r m target).regroup m r.freshGroup := rfl

theorem jumped_frame (c : Issue) (r : Rake) (m : Word) (target : Dword) :
    jumped c r m target = { r with pcs := (jumped c r m target).pcs } := by
  unfold jumped
  rw [jump_frame, jump_frame r]

theorem pc_jumped (c : Issue) (r : Rake) (m : Word) (target : Dword) {l : Nat} (hl : l < 32) (hr : r.pc l = c.rake.pc l) :
    (jumped c r m target).pc l = if lane m l then target else if lane c.active l then c.pc + 8 else c.rake.pc l := by
  rw [jumped, pc_jump _ _ _ _ hl, pc_jump _ _ _ _ hl, lane_rest hl, hr]
  cases lane m l <;> simp

theorem splitJump_frame (c : Issue) (r : Rake) (m : Word) (target : Dword) :
    splitJump c r m target = { r with pcs := (splitJump c r m target).pcs, groups := (splitJump c r m target).groups } := by
  by_cases h : m = 0 ∨ c.active &&& ~~~m = 0
  · rw [splitJump_eq, if_pos h, jumped_frame]
  · rw [splitJump_eq, if_neg h, regroup_frame, jumped_frame]

theorem pc_splitJump (c : Issue) (r : Rake) (m : Word) (target : Dword) {l : Nat} (hl : l < 32) (hr : r.pc l = c.rake.pc l) :
    (splitJump c r m target).pc l = if lane m l then target else if lane c.active l then c.pc + 8 else c.rake.pc l := by
  by_cases h : m = 0 ∨ c.active &&& ~~~m = 0
  · rw [splitJump_eq, if_pos h, pc_jumped c r m target hl hr]
  · rw [splitJump_eq, if_neg h, pc_regroup, pc_jumped c r m target hl hr]

theorem groupOf_splitJump_whole {c : Issue} {r : Rake} {m : Word} {target : Dword} (h : m = 0 ∨ c.active &&& ~~~m = 0) (l : Nat) :
    (splitJump c r m target).groupOf l = r.groupOf l := by
  rw [splitJump_eq, if_pos h, jumped, groupOf_jump, groupOf_jump]

theorem groupOf_splitJump_split {c : Issue} {r : Rake} {m : Word} {target : Dword} {l : Nat} (hl : l < 32)
    (h : ¬ (m = 0 ∨ c.active &&& ~~~m = 0)) :
    (splitJump c r m target).groupOf l = if lane m l then r.freshGroup else r.groupOf l := by
  rw [splitJump_eq, if_neg h, groupOf_regroup _ _ _ hl, jumped, groupOf_jump, groupOf_jump]

/-! ### One group per target (BRX) -/

/-- The threads of m whose target is t. -/
def goingTo (m : Word) (target : Nat → Dword) (t : Dword) : Word := maskOf (fun l => lane m l && decide (target l = t))

theorem lane_goingTo (m : Word) (target : Nat → Dword) (t : Dword) {l : Nat} (h : l < 32) :
    lane (goingTo m target t) l = (lane m l && decide (target l = t)) := lane_maskOf _ l h

/-- One target of a split: its threads go there, the first target's with the number they carry. -/
def toTarget (m : Word) (target : Nat → Dword) (x : Rake × Bool) (t : Dword) : Rake × Bool :=
  (if x.2 then x.1.jump (goingTo m target t) t
    else (x.1.jump (goingTo m target t) t).regroup (goingTo m target t) x.1.freshGroup, false)

theorem splitTargets_eq (c : Issue) (r : Rake) (m : Word) (target : Nat → Dword) : splitTargets c r m target
    = ((distinct ((lanesOf m).map target)).foldl (toTarget m target)
        (r.jump (c.active &&& ~~~m) (c.pc + 8), decide (c.active &&& ~~~m = 0))).1 := rfl

theorem toTarget_frame (m : Word) (target : Nat → Dword) (x : Rake × Bool) (t : Dword) :
    (toTarget m target x t).1 = { x.1 with pcs := (toTarget m target x t).1.pcs, groups := (toTarget m target x t).1.groups } := by
  obtain ⟨r, b⟩ := x
  cases b
  · simp only [toTarget, Bool.false_eq_true, if_false]
    rw [regroup_frame, jump_frame]
  · simp only [toTarget, if_true]
    rw [jump_frame]

theorem pc_toTarget (m : Word) (target : Nat → Dword) (x : Rake × Bool) (t : Dword) {l : Nat} (h : l < 32) :
    (toTarget m target x t).1.pc l = if lane m l = true ∧ target l = t then t else x.1.pc l := by
  obtain ⟨r, b⟩ := x
  cases b <;> simp [toTarget, pc_jump _ _ _ _ h, lane_goingTo _ _ _ h]

/-- A target's threads keep sharing a number. -/
theorem groupOf_toTarget (m : Word) (target : Nat → Dword) (x : Rake × Bool) (t : Dword) {k l : Nat} (hk : k < 32) (hl : l < 32)
    (hmk : lane m k = true) (hml : lane m l = true) (ht : target k = target l) (hx : x.1.groupOf k = x.1.groupOf l) :
    (toTarget m target x t).1.groupOf k = (toTarget m target x t).1.groupOf l := by
  obtain ⟨r, b⟩ := x
  cases b
  · simp only [toTarget, Bool.false_eq_true, if_false, groupOf_regroup _ _ _ hk, groupOf_regroup _ _ _ hl, lane_goingTo _ _ _ hk,
      lane_goingTo _ _ _ hl, hmk, hml, ht, groupOf_jump]
    split
    · rfl
    · exact hx
  · simpa [toTarget] using hx

/-- The targets of a list, one after the other. -/
theorem foldl_toTarget (m : Word) (target : Nat → Dword) (ts : List Dword) (x : Rake × Bool) :
    let y := (ts.foldl (toTarget m target) x).1
    y = { x.1 with pcs := y.pcs, groups := y.groups }
      ∧ (∀ l, l < 32 → y.pc l = if lane m l = true ∧ target l ∈ ts then target l else x.1.pc l)
      ∧ ∀ k l, k < 32 → l < 32 → lane m k = true → lane m l = true → target k = target l → x.1.groupOf k = x.1.groupOf l →
          y.groupOf k = y.groupOf l := by
  induction ts generalizing x with
  | nil => exact ⟨rfl, fun l _ => by simp, fun _ _ _ _ _ _ _ h => h⟩
  | cons t ts ih =>
    obtain ⟨hframe, hpc, hgroup⟩ := ih (toTarget m target x t)
    refine ⟨?_, fun l hl => ?_, fun k l hk hl hmk hml ht hx => ?_⟩
    · rw [List.foldl_cons, hframe, toTarget_frame]
    · rw [List.foldl_cons, hpc l hl, pc_toTarget m target x t hl]
      by_cases hm : lane m l = true <;> by_cases h1 : target l = t <;> by_cases h2 : target l ∈ ts <;> simp [hm, h1, h2]
    · exact hgroup k l hk hl hmk hml ht (groupOf_toTarget m target x t hk hl hmk hml ht hx)

/-! ### The obligation -/

variable {a : At} {s s1 : State} {c : Issue}

theorem bra_branches (f : CFmt) (h : Ready a s c s1) : Completes (.bra a f) s (fun t =>
    rakeAt a t = splitJump c c.rake (c.guarded f.gd) (c.pc + 8 + 8 * (f.body.extractLsb' 0 32).signExtend 64) ∧ OnlyRake a s1 t) :=
  branchTarget_eq c f ▸ completes_put rfl h rfl

theorem call_branches (f : CFmt) (h : Ready a s c s1) (hreg : c.rake.regOk (f.body.extractLsb' 44 8).toNat 2 = true) :
    Completes (.call a f) s (fun t =>
      rakeAt a t = splitJump c ((lanesOf (c.guarded f.gd)).foldl
          (fun r l => r.setWide (f.body.extractLsb' 44 8).toNat 2 l (c.pc + 8).toNat) c.rake) (c.guarded f.gd)
          (c.pc + 8 + 8 * (f.body.extractLsb' 0 32).signExtend 64)
        ∧ OnlyRake a s1 t) :=
  completes_put rfl h (by simp only [cField_eq, hreg, branchTarget_eq, Bool.not_true, Bool.false_eq_true, and_false, if_false])

theorem brx_branches (f : CFmt) (h : Ready a s c s1) (hreg : c.rake.regOk (f.body.extractLsb' 36 8).toNat 2 = true) :
    Completes (.brx a f) s (fun t =>
      rakeAt a t = splitTargets c c.rake (c.guarded f.gd)
          (fun l => BitVec.ofNat 64 (c.rake.wide (f.body.extractLsb' 36 8).toNat 2 l))
        ∧ OnlyRake a s1 t) :=
  completes_put rfl h (by simp only [cField_eq, hreg, Bool.not_true, Bool.false_eq_true, and_false, if_false])

theorem sbra_branches (f : CFmt) (h : Ready a s c s1) (hwait : operandWait a s1 [(f.body.extractLsb' 40 6).toNat] = false) :
    Completes (.sbra a f) s (fun t =>
      rakeAt a t = c.rake.jump c.active (if c.guarded f.gd ≠ 0 ∧ c.rake.sget (f.body.extractLsb' 40 6).toNat ≠ 0
          then c.pc + 8 + 8 * (f.body.extractLsb' 0 32).signExtend 64 else c.pc + 8)
        ∧ OnlyRake a s1 t) :=
  completes_put rfl h (by
    simp only [cField_eq, hwait, branchTarget_eq, Bool.false_eq_true, and_false, if_false, Bool.and_eq_true, decide_eq_true_eq])

/-- Settles O12: BRA and CALL split the group in two, BRX into one group per target, SBRA moves it whole. -/
theorem branchesSplitGroups : Obligations.BranchesSplitGroups := by
  refine ⟨fun a f s c s1 h => ?_, fun a f s c s1 h => ?_, fun a f s c s1 h => ?_, fun a f s c s1 h => ?_⟩
  · intro m rest target
    obtain ⟨t, hx, hrake, honly⟩ := bra_branches f h
    refine ⟨t, hx, fun l hl => ?_, fun hm l hl => ?_, fun hm hrest => ⟨c.rake.freshGroup, fun l hl => ?_, fun l hl hlive => ?_⟩, ?_, honly⟩
    · rw [hrake, pc_splitJump c c.rake m target hl rfl]
    · rw [hrake, groupOf_splitJump_whole hm]
    · rw [hrake, groupOf_splitJump_split hl (not_or.mpr ⟨hm, hrest⟩)]
    · exact freshGroup_ne c.rake hl hlive
    · rw [hrake]
      exact splitJump_frame ..
  · intro vd hreg m target
    obtain ⟨t, hx, hrake, honly⟩ := call_branches f h hreg
    obtain ⟨hval, hother, hframe⟩ := foldl_setWide (lanesOf m) c.rake vd 2 (fun _ => (c.pc + 8).toNat) (fun l hl => (mem_lanesOf.mp hl).1)
      (lanesOf_nodup m)
    refine ⟨t, hx, fun l hl => ?_, fun l hl hm => ?_, fun k l hl hk => ?_, ?_, honly⟩
    · rw [hrake, pc_splitJump c _ m target hl (by rw [hframe]; rfl)]
    · rw [hrake, splitJump_frame]
      exact (hval l (mem_lanesOf.mpr ⟨hl, hm⟩)).trans (Nat.mod_eq_of_lt (c.pc + 8).isLt)
    · rw [hrake, splitJump_frame]
      exact hother k l hl (hk.imp_left (fun hm hmem => by rw [(mem_lanesOf.mp hmem).2] at hm; exact absurd hm (by simp)))
    · rw [hrake, splitJump_frame, hframe]
  · intro va hreg m
    obtain ⟨t, hx, hrake, honly⟩ := brx_branches f h hreg
    have hfold := foldl_toTarget m (fun l => BitVec.ofNat 64 (c.rake.wide va 2 l))
      (distinct ((lanesOf m).map (fun l => BitVec.ofNat 64 (c.rake.wide va 2 l))))
      (c.rake.jump (c.active &&& ~~~m) (c.pc + 8), decide (c.active &&& ~~~m = 0))
    rw [splitTargets_eq] at hrake
    rw [← hrake] at hfold
    obtain ⟨hframe, hpc, hgroup⟩ := hfold
    refine ⟨t, hx, fun l hl => ?_, fun k l hk hl hmk hml he => ?_, ?_, honly⟩
    · rw [hpc l hl, pc_jump _ _ _ _ hl, lane_rest hl]
      by_cases hm : lane m l = true
      · have hmem : BitVec.ofNat 64 (c.rake.wide va 2 l)
            ∈ distinct ((lanesOf m).map (fun l => BitVec.ofNat 64 (c.rake.wide va 2 l))) :=
          List.mem_eraseDups.mpr (List.mem_map_of_mem (mem_lanesOf.mpr ⟨hl, hm⟩))
        simp [hm, hmem]
      · simp [hm]
    · refine hgroup k l hk hl hmk hml (congrArg _ he) ?_
      rw [groupOf_jump, groupOf_jump, (groupOf_active h hk (lane_guarded hmk)).2, (groupOf_active h hl (lane_guarded hml)).2]
    · rw [hframe, jump_frame]
  · intro sa hwait target
    obtain ⟨t, hx, hrake, honly⟩ := sbra_branches f h hwait
    refine ⟨t, hx, fun l hl => ?_, ?_, honly⟩
    · rw [hrake, pc_jump _ _ _ _ hl]
    · rw [hrake]
      exact jump_frame ..

end Sys2Proof.Branches
end

section
/-!
PROOFS. Every instruction of a bed issues in one way, and does nothing where no group issues (O27). -/

namespace Sys2Proof.Issuing

open Sys2Proof.Machine Sys2Proof.Safety

/-- Every instruction a bed can issue is an issue at its place: what it does beyond that is an effect of the issuing group. -/
theorem exec_bedForms (a : At) (v : VFmt) (x : SFmt) (g : CFmt) (m : MFmt) (l : LFmt) (y : XFmt) (r : RFmt) (s : State) :
    ∀ i ∈ bedForms a v x g m l y r, ∃ f, exec i s = go (bedIssue a s f) := by
  simp only [bedForms, wideForms, List.map_cons, List.map_nil, List.cons_append, List.nil_append,
    List.forall_mem_cons, List.not_mem_nil, false_imp_iff, implies_true, and_true]
  repeat' apply And.intro
  all_goals exact ⟨_, rfl⟩

/-- Settles O27. -/
theorem nothingRunsWhereNoGroupIssues : Obligations.NothingRunsWhereNoGroupIssues := by
  intro a v x g m l y r s hnone i hi
  obtain ⟨f, hx⟩ := exec_bedForms a v x g m l y r s i hi
  rw [hx, bedIssue, hnone]
  rfl

end Sys2Proof.Issuing
end

section
/-!
PROOFS. The collective instructions (O17): a tree of an associative operation is its fold from the lowest lane up (R133). -/

namespace Sys2Proof.Collectives

open Sys2Proof.Machine Sys2Proof.Safety Sys2Proof.Laws

/-! ### Trees of associative operations -/

/-- Two members combine; an absent one passes the other through. -/
def combine (op : Nat → Nat → Nat) (x y : Option Nat) : Option Nat :=
  match x, y with
  | some a, some b => some (op a b)
  | some a, none => some a
  | none, z => z

/-- The members of a list, combined from the left. -/
def combined (op : Nat → Nat → Nat) (xs : List (Option Nat)) : Option Nat := xs.foldr (combine op) none

section

variable {op : Nat → Nat → Nat} (hop : ∀ x y z, op (op x y) z = op x (op y z))

include hop in
theorem combine_assoc (x y z : Option Nat) : combine op (combine op x y) z = combine op x (combine op y z) := by
  cases x <;> cases y <;> cases z <;> simp [combine, hop]

theorem treeLevel_cons (x y : Option Nat) (r : List (Option Nat)) : treeLevel op (x :: y :: r) = combine op x y :: treeLevel op r := rfl

include hop in
/-- A level of the tree keeps what its members combine to. -/
theorem combined_treeLevel (xs : List (Option Nat)) : combined op (treeLevel op xs) = combined op xs := by
  induction xs using treeLevel.induct with
  | case1 x y r ih =>
    have ih : List.foldr (combine op) none (treeLevel op r) = List.foldr (combine op) none r := ih
    simp only [treeLevel_cons, combined, List.foldr_cons, ih, combine_assoc hop]
  | case2 xs h =>
    match xs with
    | [] | [_] => rfl
    | x :: y :: r => exact absurd rfl (h x y r)

theorem length_treeLevel (xs : List (Option Nat)) : (treeLevel op xs).length = (xs.length + 1) / 2 := by
  induction xs using treeLevel.induct with
  | case1 x y r ih =>
    simp only [treeLevel_cons, List.length_cons, ih]
    omega
  | case2 xs h =>
    match xs with
    | [] => rfl
    | [_] => simp [treeLevel]
    | x :: y :: r => exact absurd rfl (h x y r)

include hop in
/-- The tree over 32 lanes is the combination of its members. -/
theorem treeOf_eq_combined (xs : List (Option Nat)) (hlen : xs.length = 32) : treeOf op xs = combined op xs := by
  have hlen5 : (iter (treeLevel op) 5 xs).length = 1 := by simp [iter, length_treeLevel, hlen]
  have hsame : combined op (iter (treeLevel op) 5 xs) = combined op xs := by simp [iter, combined_treeLevel hop]
  obtain ⟨x, hx⟩ := List.length_eq_one_iff.mp hlen5
  rw [← hsame, treeOf, hx]
  cases x <;> rfl

include hop in
theorem combine_some_combined (xs : List (Option Nat)) (y : Nat) :
    combine op (some y) (combined op xs) = some ((xs.filterMap id).foldl op y) := by
  induction xs generalizing y with
  | nil => rfl
  | cons x r ih =>
    cases x with
    | none => exact ih y
    | some b =>
      have h : combine op (some y) (combine op (some b) (combined op r)) = combine op (some (op y b)) (combined op r) :=
        (combine_assoc hop (some y) (some b) _).symm
      exact h.trans (ih (op y b))

include hop in
/-- What the members combine to is their fold from the first one present. -/
theorem combined_eq_foldl (xs : List (Option Nat)) {y : Nat} {ys : List Nat} (h : xs.filterMap id = y :: ys) :
    combined op xs = some (ys.foldl op y) := by
  induction xs with
  | nil => exact absurd h (by simp)
  | cons x r ih =>
    cases x with
    | none => exact ih (by simpa using h)
    | some b =>
      obtain ⟨rfl, rfl⟩ : b = y ∧ r.filterMap id = ys := by simpa using h
      exact combine_some_combined hop r b

theorem combined_of_none (xs : List (Option Nat)) (h : xs.filterMap id = []) : combined op xs = none := by
  induction xs with
  | nil => rfl
  | cons x r ih =>
    cases x with
    | none => exact ih (by simpa using h)
    | some b => exact absurd h (by simp)

end

/-! ### The members of a mask -/

theorem filterMap_members (c : Issue) (reg n : Nat) (m : Word) :
    (members c reg n m).filterMap id = (lanesOf m).map (fun l => c.rake.wide reg n l) := by
  unfold members lanesOf
  induction laneList with
  | nil => rfl
  | cons l ls ih => by_cases h : lane m l = true <;> simp_all

theorem length_members (c : Issue) (reg n : Nat) (m : Word) : (members c reg n m).length = 32 := by simp [members, laneList]

theorem lanesOf_maskOf (m : Word) (p : Nat → Bool) : lanesOf (maskOf (fun u => lane m u && p u)) = (lanesOf m).filter p := by
  unfold lanesOf
  rw [List.filter_filter]
  refine List.filter_congr (fun l hl => ?_)
  rw [lane_maskOf _ l (List.mem_range.mp hl), Bool.and_comm]

/-! ### Reductions of words (R133) -/

/-- The type U32 of R116. -/
def u32Type : VType := ⟨1, 32, 1, .uint⟩

/-- The listed reductions of U32 by their code. -/
def wordOps : List (Nat × (Nat → Nat → Nat)) :=
  [(0, fun p q => (p + q) % 2 ^ 32), (1, min), (2, max), (3, (· &&& ·)), (4, (· ||| ·)), (5, (· ^^^ ·))]

theorem wordOps_cases {code : Nat} {g : Nat → Nat → Nat} (h : wordOps.lookup code = some g) :
    (code = 0 ∧ g = fun p q => (p + q) % 2 ^ 32) ∨ (code = 1 ∧ g = min) ∨ (code = 2 ∧ g = max) ∨ (code = 3 ∧ g = (· &&& ·))
      ∨ (code = 4 ∧ g = (· ||| ·)) ∨ (code = 5 ∧ g = (· ^^^ ·)) := by
  match code, h with
  | 0, h | 1, h | 2, h | 3, h | 4, h | 5, h => simpa [wordOps, List.lookup, eq_comm] using h
  | _ + 6, h => simp [wordOps, List.lookup] at h

theorem reduceOp_add (s : State) (x y : Nat) : reduceOp s u32Type 0 x y = (x + y) % 2 ^ 32 := by
  simp [reduceOp, u32Type, arithElem, arithInt, intResult, elemInt, wrapN]
  omega
theorem reduceOp_min (s : State) (x y : Nat) : reduceOp s u32Type 1 x y = min (x % 2 ^ 32) (y % 2 ^ 32) := by
  simp [reduceOp, u32Type, arithElem, arithInt, intResult, elemInt, wrapN]
  omega
theorem reduceOp_max (s : State) (x y : Nat) : reduceOp s u32Type 2 x y = max (x % 2 ^ 32) (y % 2 ^ 32) := by
  simp [reduceOp, u32Type, arithElem, arithInt, intResult, elemInt, wrapN]
  omega

/-- A listed reduction is associative, and on words it is its operation, whose results are words. -/
theorem reduceOp_word {code : Nat} {g : Nat → Nat → Nat} (s : State) (h : wordOps.lookup code = some g) :
    (∀ x y z, reduceOp s u32Type code (reduceOp s u32Type code x y) z = reduceOp s u32Type code x (reduceOp s u32Type code y z))
      ∧ ∀ x y, x < 2 ^ 32 → y < 2 ^ 32 → reduceOp s u32Type code x y = g x y ∧ g x y < 2 ^ 32 := by
  rcases wordOps_cases h with ⟨rfl, rfl⟩ | ⟨rfl, rfl⟩ | ⟨rfl, rfl⟩ | ⟨rfl, rfl⟩ | ⟨rfl, rfl⟩ | ⟨rfl, rfl⟩
  · simp only [reduceOp_add]
    exact ⟨fun x y z => by omega, fun x y _ _ => ⟨trivial, by omega⟩⟩
  · simp only [reduceOp_min]
    exact ⟨fun x y z => by omega, fun x y _ _ => by omega⟩
  · simp only [reduceOp_max]
    exact ⟨fun x y z => by omega, fun x y _ _ => by omega⟩
  · exact ⟨Nat.and_assoc, fun x y hx _ => ⟨rfl, lt_of_le_of_lt Nat.and_le_left hx⟩⟩
  · exact ⟨Nat.or_assoc, fun x y hx hy => ⟨rfl, Nat.or_lt_two_pow hx hy⟩⟩
  · exact ⟨Nat.xor_assoc, fun x y hx hy => ⟨rfl, Nat.xor_lt_two_pow hx hy⟩⟩

/-- Two operations that agree on words, with words as results, have one fold over words. -/
theorem foldl_congr_words {op g : Nat → Nat → Nat} (h : ∀ x y, x < 2 ^ 32 → y < 2 ^ 32 → op x y = g x y ∧ g x y < 2 ^ 32)
    (ys : List Nat) (hys : ∀ y ∈ ys, y < 2 ^ 32) (y : Nat) (hy : y < 2 ^ 32) : ys.foldl op y = ys.foldl g y := by
  induction ys generalizing y with
  | nil => rfl
  | cons z r ih =>
    obtain ⟨heq, hlt⟩ := h y z hy (hys z List.mem_cons_self)
    rw [List.foldl_cons, List.foldl_cons, heq]
    exact ih (fun x hx => hys x (List.mem_cons_of_mem _ hx)) _ hlt

section

variable {code : Nat} {g : Nat → Nat → Nat} (s : State) (c : Issue) (i reg : Nat) (m : Word)

theorem reduceAll_u32 (xs : List (Option Nat)) : reduceAll s u32Type code i xs = (treeOf (reduceOp s u32Type code) xs).getD 0 := rfl

/-- A reduction over the threads of a mask is the fold of its operation from the lowest thread up. -/
theorem reduceAll_members (h : wordOps.lookup code = some g) {y : Nat} {ys : List Nat}
    (hxs : (lanesOf m).map (fun l => c.rake.wide reg 1 l) = y :: ys) :
    reduceAll s u32Type code i (members c reg 1 m) = ys.foldl g y := by
  obtain ⟨hassoc, hword⟩ := reduceOp_word s h
  have hlt : ∀ z ∈ y :: ys, z < 2 ^ 32 := by
    rw [← hxs]
    intro z hz
    obtain ⟨l, -, rfl⟩ := List.mem_map.mp hz
    rw [Vector.wide_one]
    exact BitVec.isLt _
  rw [reduceAll_u32, treeOf_eq_combined hassoc _ (length_members c reg 1 m),
    combined_eq_foldl hassoc _ ((filterMap_members c reg 1 m).trans hxs), Option.getD_some]
  exact foldl_congr_words hword ys (fun z hz => hlt z (List.mem_cons_of_mem _ hz)) y (hlt y List.mem_cons_self)

/-- With no thread in the mask a reduction is zero. -/
theorem reduceAll_members_nil (h : wordOps.lookup code = some g) (hm : lanesOf m = []) :
    reduceAll s u32Type code i (members c reg 1 m) = 0 := by
  obtain ⟨hassoc, -⟩ := reduceOp_word s h
  rw [reduceAll_u32, treeOf_eq_combined hassoc _ (length_members c reg 1 m), combined_of_none _ (by rw [filterMap_members, hm]; rfl)]
  rfl

/-- From a start that the operation ignores, a reduction is the fold over the threads of the mask. -/
theorem reduceAll_members_from (h : wordOps.lookup code = some g) (hg : ∀ x, x < 2 ^ 32 → g 0 x = x) :
    reduceAll s u32Type code i (members c reg 1 m) = (lanesOf m).foldl (fun v u => g v (c.rake.wide reg 1 u)) 0 := by
  cases hm : lanesOf m with
  | nil => exact reduceAll_members_nil s c i reg m h hm
  | cons l ls =>
    rw [reduceAll_members s c i reg m h (by rw [hm, List.map_cons]), List.foldl_map, List.foldl_cons, hg _ (by
      rw [Vector.wide_one]
      exact BitVec.isLt _)]

end

/-! ### The instructions -/

variable {a : At} {f : LFmt} {s s1 : State} {c : Issue} {i : Instr} {legal : Bool} {n k : Nat} {v : Nat → Nat}
  {val : Issue → Word → State → Nat → Nat}

/-- A collective instruction that runs completes with its result. -/
theorem completes_collective (hx : exec i s = go (collective a f legal n k s val))
    (h : WideRuns a f.gd f.pm f.sbase 0 s c s1
      (legal && (vtype f.type.toNat).isSome && c.rake.regOk f.va.toNat n && c.rake.regOk f.vd.toNat k))
    (hv : val c c.active s1 = v) : Completes i s (fun t => Collected a c s1 t f.vd.toNat k v) := by
  obtain ⟨ha, -⟩ := ready_rake h.1
  obtain ⟨hrake, honly⟩ := advance_put (s := s1) ((lanesOf c.active).foldl (fun r t => r.setWide f.vd.toNat k t (v t)) c.rake) ha
  obtain ⟨-, -, hframe⟩ := foldl_setWide (lanesOf c.active) c.rake f.vd.toNat k v (fun l hl => (mem_lanesOf.mp hl).1) (lanesOf_nodup _)
  refine ⟨_, hx.trans (congrArg go (Queueing.rakeWide_ok (legal := fun c => legal && (vtype f.type.toNat).isSome
    && c.rake.regOk f.va.toNat n && c.rake.regOk f.vd.toNat k) h (by rw [hv]))), ?_, ?_, honly⟩ <;> rw [hrake]
  · exact writesLanes_fold c c.active f.vd.toNat k v c.active (c.pc + 8)
  · exact nextPc_jump c _ (by rw [hframe])

theorem ltypeD_u32 (h : f.type = 1) : ltypeD f = u32Type := by simp [ltypeD, vtype, h, u32Type]

theorem reduceType_u32 (h : f.type = 1) (hsub : f.sub.toNat < 6) : reduceType f = u32Type := by
  rw [reduceType, if_neg (fun e => by rw [e] at hsub; exact absurd hsub (by decide)), ltypeD_u32 h]

/-- The threads of a mask that hold a value other than zero. -/
def ballot (m : Word) (w : Nat → Nat) : Word := maskOf (fun t => lane m t && decide (w t ≠ 0))

theorem lane_ballot (m : Word) (w : Nat → Nat) {l : Nat} (h : l < 32) : lane (ballot m w) l = (lane m l && decide (w l ≠ 0)) :=
  lane_maskOf _ l h

theorem word_ext {m k : Word} (h : ∀ l, l < 32 → lane m l = lane k l) : m = k := BitVec.eq_of_getLsbD_eq h

theorem ballot_eq_all (m : Word) (w : Nat → Nat) : ballot m w = m ↔ ∀ l ∈ lanesOf m, w l ≠ 0 := by
  constructor
  · intro h l hl
    obtain ⟨h32, hm⟩ := mem_lanesOf.mp hl
    have hb := lane_ballot m w h32
    rw [h, hm, Bool.true_and] at hb
    exact of_decide_eq_true hb.symm
  · intro h
    refine word_ext (fun l hl => ?_)
    rw [lane_ballot m w hl]
    by_cases hm : lane m l = true
    · simp [hm, h l (mem_lanesOf.mpr ⟨hl, hm⟩)]
    · simp [hm]

theorem ballot_ne_zero (m : Word) (w : Nat → Nat) : ballot m w ≠ 0 ↔ ∃ l ∈ lanesOf m, w l ≠ 0 := by
  rw [not_iff_comm]
  constructor
  · intro h
    refine word_ext (fun l hl => ?_)
    rw [lane_ballot m w hl]
    by_cases hm : lane m l = true
    · have hw : w l = 0 := by
        by_contra hw
        exact h ⟨l, mem_lanesOf.mpr ⟨hl, hm⟩, hw⟩
      simp [hw, lane]
    · rw [Bool.not_eq_true] at hm
      rw [hm]
      simp [lane]
  · rintro h ⟨l, hl, hw⟩
    obtain ⟨h32, hm⟩ := mem_lanesOf.mp hl
    have hb := lane_ballot m w h32
    rw [h, hm, Bool.true_and, decide_eq_true hw] at hb
    simp [lane] at hb

theorem vote_all (m : Word) (w : Nat → Nat) : boolN (ballot m w == m) = if ∀ l ∈ lanesOf m, w l ≠ 0 then 1 else 0 := by
  simp only [← ballot_eq_all, boolN, beq_iff_eq]

theorem vote_any (m : Word) (w : Nat → Nat) : boolN (ballot m w != 0) = if ∃ l ∈ lanesOf m, w l ≠ 0 then 1 else 0 := by
  simp only [← ballot_ne_zero, boolN, bne_iff_ne]

/-- A scan of words: the fold over the threads of the group that a test keeps. -/
theorem scan_word {code : Nat} {g : Nat → Nat → Nat} (h : wordOps.lookup code = some g) (hg : ∀ x, x < 2 ^ 32 → g 0 x = x)
    (p : Nat → Bool) (t : Nat) : reduceAll s1 u32Type code t (members c f.va.toNat 1 (maskOf (fun u => lane c.active u && p u)))
      = ((lanesOf c.active).filter p).foldl (fun v u => g v (c.rake.wide f.va.toNat 1 u)) 0 := by
  rw [reduceAll_members_from s1 c t f.va.toNat _ h hg, lanesOf_maskOf]

theorem add_word_zero (x : Nat) (h : x < 2 ^ 32) : (0 + x) % 2 ^ 32 = x := by omega

/-- The listed scans of U32 by their code. -/
theorem scans_cases {code : Nat} {r : Nat → Nat → Bool} {g : Nat → Nat → Nat}
    (h : [(0, (fun u t => decide (u ≤ t)), (fun p q => (p + q) % 2 ^ 32)), (1, (fun u t => decide (u < t)), (fun p q => (p + q) % 2 ^ 32)),
      (2, (fun u t => decide (u ≤ t)), max)].lookup code = some (r, g)) :
    (code = 0 ∧ (r = fun u t => decide (u ≤ t)) ∧ g = fun p q => (p + q) % 2 ^ 32)
      ∨ (code = 1 ∧ (r = fun u t => decide (u < t)) ∧ g = fun p q => (p + q) % 2 ^ 32)
      ∨ (code = 2 ∧ (r = fun u t => decide (u ≤ t)) ∧ g = max) := by
  match code, h with
  | 0, h | 1, h | 2, h => simpa [List.lookup, eq_comm] using h
  | _ + 3, h => simp [List.lookup] at h

/-- Settles O17: an exchange reads its source lane, and a reduction or scan of U32 is the fold of its operation over the threads. -/
theorem collectivesExchangeAcrossLanes : Obligations.CollectivesExchangeAcrossLanes := by
  intro a f s c s1 n x imm src runs gives xs
  refine ⟨fun h => ⟨fun hs => ?_, fun hs => ?_, fun hs => ?_, fun hs => ?_⟩, fun h => ⟨fun hs => ?_, fun hs => ?_, fun hs => ?_⟩,
    fun h => completes_collective rfl h rfl, fun h => ⟨completes_collective rfl h rfl, fun ht g hg y ys hxs => ?_⟩,
    fun h => ⟨completes_collective rfl h rfl, fun ht r g hg => ?_⟩⟩
  · exact completes_collective rfl h (by simp only [hs]; rfl)
  · exact completes_collective rfl h (by simp only [hs]; rfl)
  · exact completes_collective rfl h (by simp only [hs]; rfl)
  · exact completes_collective rfl h (by simp only [hs]; rfl)
  · refine completes_collective rfl h (funext fun _ => ?_)
    simp only [hs, if_true]
    exact vote_all c.active x
  · refine completes_collective rfl h (funext fun _ => ?_)
    simp only [hs]
    exact vote_any c.active x
  · refine ⟨ballot c.active x, fun l hl => lane_ballot _ _ hl, completes_collective rfl h (funext fun _ => ?_)⟩
    simp only [hs]
    rfl
  · have hlt : f.sub.toNat < 6 := by
      rcases wordOps_cases hg with ⟨h, -⟩ | ⟨h, -⟩ | ⟨h, -⟩ | ⟨h, -⟩ | ⟨h, -⟩ | ⟨h, -⟩ <;> omega
    have htype := reduceType_u32 ht hlt
    have hxs' : (lanesOf c.active).map (fun l => c.rake.wide f.va.toNat 1 l) = y :: ys := by
      rw [← hxs]
      simp only [xs, x, n, ltypeD_u32 ht]
      rfl
    have hx : exec (.reduce a f) s = go (collective a f (decide (f.sub.toNat < 7)) 1 1 s (fun c m s _ =>
        reduceAll s u32Type f.sub.toNat 0 (members c f.va.toNat 1 m))) := by
      change execReduce a f s = _
      rw [execReduce, htype]
      rfl
    rw [htype] at h
    exact completes_collective hx h (funext fun _ => reduceAll_members s1 c 0 f.va.toNat c.active hg hxs')
  · have hregs : (ltypeD f).regs = 1 := congrArg VType.regs (ltypeD_u32 ht)
    have hx : exec (.scan a f) s = go (collective a f (decide (f.sub.toNat < 3)) 1 1 s (fun c m s t =>
        reduceAll s u32Type (if f.sub = 2 then 2 else 0) t
          (members c f.va.toNat 1 (maskOf (fun u => lane m u && decide (if f.sub = 1 then u < t else u ≤ t)))))) := by
      change execScan a f s = _
      rw [execScan, ltypeD_u32 ht]
      rfl
    refine completes_collective hx (by simpa only [runs, n, hregs] using h) (funext fun t => ?_)
    simp only [x, n, hregs]
    rcases scans_cases hg with ⟨hs, rfl, rfl⟩ | ⟨hs, rfl, rfl⟩ | ⟨hs, rfl, rfl⟩
    · rw [show f.sub = 0 from BitVec.eq_of_toNat_eq hs]
      exact scan_word (code := 0) rfl add_word_zero (fun u => decide (u ≤ t)) t
    · rw [show f.sub = 1 from BitVec.eq_of_toNat_eq hs]
      exact scan_word (code := 0) rfl add_word_zero (fun u => decide (u < t)) t
    · rw [show f.sub = 2 from BitVec.eq_of_toNat_eq hs]
      exact scan_word (code := 2) rfl (fun x _ => Nat.zero_max x) (fun u => decide (u ≤ t)) t

end Sys2Proof.Collectives
end

section
/-!
PROOFS. SAMPLE (O18): values that are no NaN are ordered as extended numbers, and the head of a ranking is the greatest logit of the
lowest index. -/

namespace Sys2Proof.Sampling

open Sys2Proof.Machine Sys2Proof.Safety Sys2Proof.Laws

/-! ### The order of values -/

/-- The number a finite value stands for. -/
def number (n : Bool) (m : Nat) (e : Int) : ℚ := (if n then -(m : ℚ) else m) * 2 ^ e

/-- A value that is no NaN as an extended number. -/
def extended (x : Fl) : WithBot (WithTop ℚ) :=
  match x with
  | .nan => ⊥
  | .inf true => ⊥
  | .inf false => ((⊤ : WithTop ℚ) : WithBot (WithTop ℚ))
  | .fin n m e => ((number n m e : WithTop ℚ) : WithBot (WithTop ℚ))

theorem gridInt_number (n : Bool) (m : Nat) {e g : Int} (h : g ≤ e) : (gridInt n m e g : ℚ) * 2 ^ g = number n m e := by
  have hp : (2 : ℚ) ^ (e - g).toNat * 2 ^ g = 2 ^ e := by
    rw [← zpow_natCast, Int.toNat_of_nonneg (by omega), ← zpow_add₀ (by norm_num)]
    congr 1
    omega
  cases n <;> simp [gridInt, number, mul_assoc, hp]

theorem lt_fin (a b : Bool) (m n : Nat) (e f : Int) : (Fl.fin a m e).lt (.fin b n f) = true ↔ number a m e < number b n f := by
  have hp : (0 : ℚ) < 2 ^ (min e f) := zpow_pos (by norm_num) _
  rw [← gridInt_number a m (min_le_left e f), ← gridInt_number b n (min_le_right e f), mul_lt_mul_iff_left₀ hp, Int.cast_lt]
  simp [Fl.lt]

theorem lt_iff_extended {x y : Fl} (hx : x.isNan = false) (hy : y.isNan = false) : x.lt y = true ↔ extended x < extended y := by
  match x, y, hx, hy with
  | .inf a, .inf b, _, _ => cases a <;> cases b <;> simp [Fl.lt, extended]
  | .inf a, .fin b n f, _, _ => cases a <;> simp [Fl.lt, extended]
  | .fin a m e, .inf true, _, _ => simp [Fl.lt, extended]
  | .fin a m e, .inf false, _, _ => exact iff_of_true rfl (WithBot.coe_lt_coe.mpr (WithTop.coe_lt_top _))
  | .fin a m e, .fin b n f, _, _ => simp [lt_fin, extended]

/-! ### Rankings (R163) -/

/-- The candidates of a list of logits. -/
def candidates (xs : List Nat) : List Cand :=
  ((List.range xs.length).zip xs).map (fun e => { bits := cleanLogit e.2, idx := e.1 })

theorem candidates_append (xs : List Nat) (x : Nat) :
    candidates (xs ++ [x]) = candidates xs ++ [{ bits := cleanLogit x, idx := xs.length }] := by
  simp [candidates, List.range_succ, List.zip_append]

/-- The candidate of a list that no logit of the list beats, and that beats every one before it. -/
def Leads (xs : List Nat) (c : Cand) : Prop :=
  xs[c.idx]? = some c.bits ∧ (∀ z ∈ xs, (f32 c.bits).lt (f32 z) = false)
    ∧ ∀ (i : Nat) (z : Nat), i < c.idx → xs[i]? = some z → (f32 z).lt (f32 c.bits) = true

section

variable {xs ys : List Nat} {x y z : Nat} {c : Cand} {k : Nat}

theorem not_lt_iff_extended {x y : Fl} (hx : x.isNan = false) (hy : y.isNan = false) : x.lt y = false ↔ extended y ≤ extended x := by
  rw [← not_lt, ← lt_iff_extended hx hy, Bool.not_eq_true]

/-- One more logit that the leader is not below leaves the leader. -/
theorem leads_keep (h : Leads ys c) (hx : (f32 c.bits).lt (f32 x) = false) : Leads (ys ++ [x]) c := by
  obtain ⟨hat, hmax, hfirst⟩ := h
  have hidx : c.idx < ys.length := (List.getElem?_eq_some_iff.mp hat).1
  refine ⟨by rw [List.getElem?_append_left hidx, hat], fun z hz => ?_, fun i z hi hz => hfirst i z hi ?_⟩
  · rcases List.mem_append.mp hz with hz | hz
    · exact hmax z hz
    · rw [List.mem_singleton.mp hz]
      exact hx
  · rwa [List.getElem?_append_left (by omega)] at hz

/-- One more logit that the leader is below leads. -/
theorem leads_new (h : Leads ys c) (hc : (f32 c.bits).isNan = false) (hys : ∀ z ∈ ys, (f32 z).isNan = false)
    (hxnan : (f32 x).isNan = false) (hx : (f32 c.bits).lt (f32 x) = true) : Leads (ys ++ [x]) { bits := x, idx := ys.length } := by
  obtain ⟨-, hmax, -⟩ := h
  have hbelow : ∀ z ∈ ys, extended (f32 z) < extended (f32 x) := fun z hz =>
    lt_of_le_of_lt ((not_lt_iff_extended hc (hys z hz)).mp (hmax z hz)) ((lt_iff_extended hc hxnan).mp hx)
  refine ⟨by simp, fun z hz => ?_, fun i z hi hz => ?_⟩
  · rcases List.mem_append.mp hz with hz | hz
    · exact (not_lt_iff_extended hxnan (hys z hz)).mpr (le_of_lt (hbelow z hz))
    · rw [List.mem_singleton.mp hz]
      exact (not_lt_iff_extended hxnan hxnan).mpr le_rfl
  · have hz' : z ∈ ys := by
      rw [List.getElem?_append_left hi] at hz
      exact List.mem_of_getElem? hz
    exact (lt_iff_extended (hys z hz') hxnan).mpr (hbelow z hz')

theorem rankIn_nil (n : Nat) (x : Cand) : rankIn (n + 1) [] x = [x] := rfl

theorem rankIn_cons (n : Nat) (y x : Cand) (r : List Cand) : rankIn (n + 1) (y :: r) x
    = if (f32 y.bits).lt (f32 x.bits) then x :: (y :: r).take n else y :: rankIn n r x := rfl

/-- The head of the ranking of logits that are no NaN leads them. -/
theorem ranked_leads (n : Nat) (hne : xs ≠ []) (hnan : ∀ y ∈ xs, (f32 y).isNan = false) :
    ∃ c r, (candidates xs).foldl (rankIn (n + 1)) [] = c :: r ∧ Leads xs c := by
  induction xs using List.reverseRecOn with
  | nil => exact absurd rfl hne
  | append_singleton ys x ih =>
    have hx : (f32 x).isNan = false := hnan x (by simp)
    have hys : ∀ z ∈ ys, (f32 z).isNan = false := fun z hz => hnan z (by simp [hz])
    have hclean : cleanLogit x = x := by simp [cleanLogit, hx]
    rw [candidates_append, List.foldl_append, List.foldl_cons, List.foldl_nil, hclean]
    rcases List.eq_nil_or_concat' ys with rfl | ⟨_, _, hcat⟩
    · refine ⟨{ bits := x, idx := 0 }, [], rfl, by simp, fun z hz => ?_, fun i z hi _ => absurd hi (by simp)⟩
      rw [List.mem_singleton.mp hz]
      exact (not_lt_iff_extended hx hx).mpr le_rfl
    · obtain ⟨c, r, hfold, hleads⟩ := ih (by simp [hcat]) hys
      have hc : (f32 c.bits).isNan = false := hys c.bits (List.mem_of_getElem? hleads.1)
      rw [hfold, rankIn_cons]
      cases hlt : (f32 c.bits).lt (f32 x) with
      | true => exact ⟨_, _, if_pos rfl, leads_new hleads hc hys hx hlt⟩
      | false => exact ⟨_, _, if_neg Bool.false_ne_true, leads_keep hleads hlt⟩

end

/-! ### Draws (R163) -/

section

variable {xs : List Nat} {tau k topP stream pos : Nat} {seed : Dword}

theorem sampleOf_nil : (sampleOf [] tau k topP seed stream pos).1 = 0xFFFFFFFF := rfl

/-- Whether a draw is greedy depends on the temperature alone. -/
theorem sampleOf_drawn : (sampleOf xs tau k topP seed stream pos).2 = (Fl.fin false 0 0).lt (f32 tau) := by
  simp only [sampleOf, apply_ite Prod.snd, ite_self]
  cases (Fl.fin false 0 0).lt (f32 tau) <;> simp

/-- A greedy draw of logits none of which is a NaN or −infinity gives the index of their leader. -/
theorem sampleOf_greedy (hne : xs ≠ []) (hxs : ∀ y ∈ xs, (f32 y).isNan = false ∧ y ≠ negInf)
    (hgreedy : (Fl.fin false 0 0).lt (f32 tau) = false) :
    ∃ c, (sampleOf xs tau k topP seed stream pos).1 = c.idx ∧ Leads xs c := by
  obtain ⟨n, hn⟩ : ∃ n, (if k = 0 ∨ 256 < k then 256 else k) = n + 1 :=
    ⟨(if k = 0 ∨ 256 < k then 256 else k) - 1, by split <;> omega⟩
  obtain ⟨c, r, hfold, hleads⟩ := ranked_leads n hne (fun y hy => (hxs y hy).1)
  have hc : c.bits ≠ negInf := (hxs c.bits (List.mem_of_getElem? hleads.1)).2
  refine ⟨c, ?_, hleads⟩
  rw [candidates] at hfold
  simp only [sampleOf, hn, hfold, hgreedy]
  simp [hc]

end

/-! ### The obligation -/

variable {a : At} {f : LFmt} {s s1 : State} {c : Issue}

/-- A rake-wide instruction that runs goes on with its effect under the active mask. -/
theorem exec_rakeWide {gd : Guard} {pm : BitVec 7} {sbase : BitVec 3} {n : Nat} {i : Instr} {s2 : State} {legal : Issue → Bool}
    {g : Issue → Word → State → Except BedFault State} (hx : exec i s = go (rakeWide a gd pm sbase n legal s g))
    (h : WideRuns a gd pm sbase n s c s1 (legal c)) (hg : g c c.active s1 = .ok s2) : exec i s = .next (advance c s2).drawn :=
  hx.trans (congrArg go (Queueing.rakeWide_ok h hg))

/-- The rake at the place after it goes on from any state. -/
theorem rakeAt_advance (ha : c.a = a) (s : State) : rakeAt a (advance c s).drawn = (rakeAt a s).jump c.active (c.pc + 8) := by
  subst ha
  simp [rakeAt, advance]

theorem advance_drawn (c : Issue) (s : State) :
    (advance c s).drawn = { s with rakes := (advance c s).drawn.rakes, free := s.free + 1 } := rfl

/-- From a state where only rakes and pans have changed the group goes on: only rakes, pans and the counter of free values differ. -/
theorem frame_trans {x t : State} (hx : x = { s with rakes := x.rakes, pans := x.pans })
    (ht : t = { x with rakes := t.rakes, free := x.free + 1 }) :
    t = { s with rakes := t.rakes, pans := t.pans, free := s.free + 1 } := by
  rw [ht, hx]

/-- The rake's threads with a drawn index in a register. -/
def drawnRake (c : Issue) (vd w : Nat) : Rake := (lanesOf c.active).foldl (fun k t => k.setWide vd 1 t w) c.rake

/-- The state a draw leaves before the group goes on: the index in vd, and a grain key counted where the draw is not greedy. -/
def sampled (a : At) (c : Issue) (vd : Nat) (r : Nat × Bool) (s : State) : State :=
  if r.2 then (c.put s (drawnRake c vd r.1)).updPan a.pan (fun p => { p with grainKeys := satAdd 32 p.grainKeys 1 })
  else c.put s (drawnRake c vd r.1)

theorem drawnRake_pcs (c : Issue) (vd w : Nat) : (drawnRake c vd w).pcs = c.rake.pcs := by
  obtain ⟨-, -, hframe⟩ := foldl_setWide (lanesOf c.active) c.rake vd 1 (fun _ => w) (fun l hl => (mem_lanesOf.mp hl).1) (lanesOf_nodup _)
  rw [drawnRake, hframe]

theorem sampled_frame (vd : Nat) (r : Nat × Bool) (s : State) :
    sampled a c vd r s = { s with rakes := (sampled a c vd r s).rakes, pans := (sampled a c vd r s).pans } := by
  unfold sampled
  split <;> rfl

theorem rakeAt_sampled (ha : c.a = a) (vd : Nat) (r : Nat × Bool) (s : State) :
    rakeAt a (sampled a c vd r s) = drawnRake c vd r.1 := by
  unfold sampled
  split <;> exact rake_put c s _ ha

theorem pan_sampled (vd : Nat) (r : Nat × Bool) (s : State) : (sampled a c vd r s).pan a.pan
    = if r.2 then { s.pan a.pan with grainKeys := satAdd 32 (s.pan a.pan).grainKeys 1 } else s.pan a.pan := by
  unfold sampled
  split
  · rw [pan_updPan, if_pos rfl]
    rfl
  · rfl

theorem exec_sample (h : WideRuns a f.gd f.pm f.sbase 8 s c s1
      (decide (f.sub = 0) && (decide (f.type = 4) || decide (f.type = 5)) && c.rake.regOk f.vd.toNat 1))
    (hrange : min (c.sop f.sbase 1) (2 ^ 20) = 0 ∨ (c.sop f.sbase 0 % 4 = 0 ∧ c.sop f.sbase 0
        + (if f.type = 5 then 2 * min (c.sop f.sbase 1) (2 ^ 20) else 4 * min (c.sop f.sbase 1) (2 ^ 20)) ≤ scratchSize
      ∧ (s1.bed a.pan a.bed).scratchErr (c.sop f.sbase 0)
          (if f.type = 5 then 2 * min (c.sop f.sbase 1) (2 ^ 20) else 4 * min (c.sop f.sbase 1) (2 ^ 20)) = false))
    (hrace : ∀ k ∈ (s1.bed a.pan a.bed).kept, racing (c.viewer ((lanesOf c.active).headD 0)) k = false) :
    exec (.sample a f) s = .next (advance c (sampled a c f.vd.toNat
      (sampleOf (logitsOf (s1.bed a.pan a.bed) (c.sop f.sbase 0) (min (c.sop f.sbase 1) (2 ^ 20)) (decide (f.type = 5)))
        (c.sop f.sbase 2 % 2 ^ 32) (c.sop f.sbase 3) (c.sop f.sbase 4 % 2 ^ 32) (BitVec.ofNat 64 (c.sop f.sbase 5))
        (c.sop f.sbase 6 % 2 ^ 16) (c.sop f.sbase 7 % 2 ^ 43)) s1)).drawn := by
  refine exec_rakeWide rfl h ?_
  simp only [Queueing.seen_of_no_race _ hrace]
  rw [if_neg, if_neg]
  · rfl
  · rintro ⟨hv, herr⟩
    obtain ⟨-, -, hok⟩ := hrange.resolve_left hv
    rw [hok] at herr
    exact absurd herr (by simp)
  · rintro ⟨hv, hbad⟩
    obtain ⟨hal, hin, -⟩ := hrange.resolve_left hv
    omega

theorem length_logitsOf (d : Bed) (addr v : Nat) (bf : Bool) : (logitsOf d addr v bf).length = v := by
  unfold logitsOf
  split <;> simp

/-- Settles O18: the draw is the model's `sampleOf` of the logits in scratch, whose greedy result leads them. -/
theorem sampleDrawsOneTokenIndex : Obligations.SampleDrawsOneTokenIndex := by
  intro a f s c s1 d adr v bf xs n h hrange hrace
  obtain ⟨ha, -⟩ := ready_rake h.1
  have hx := exec_sample h (by simpa only [v, adr, n, bf, decide_eq_true_eq] using hrange) hrace
  refine ⟨_, hx, _, _, ?_, ?_, ?_, ?_, fun hv => ?_, sampleOf_drawn, rfl, fun hv hxs hgreedy => ?_⟩
  · rw [rakeAt_advance ha, rakeAt_sampled ha]
    exact writesLanes_fold c c.active f.vd.toNat 1 (fun _ => _) c.active (c.pc + 8)
  · rw [rakeAt_advance ha, rakeAt_sampled ha]
    exact nextPc_jump c _ (drawnRake_pcs ..)
  · exact frame_trans (sampled_frame ..) (advance_drawn ..)
  · exact pan_sampled f.vd.toNat _ s1
  · have hxs : xs = [] := List.length_eq_zero_iff.mp (by simp [xs, length_logitsOf, hv])
    exact (congrArg (fun l => (sampleOf l _ _ _ _ _ _).1) hxs).trans sampleOf_nil
  · have hne : xs ≠ [] := fun e => hv (by simpa [xs, length_logitsOf] using congrArg List.length e)
    obtain ⟨y, hy, hlead⟩ := sampleOf_greedy hne hxs hgreedy
    obtain ⟨hat, hmax, hfirst⟩ := hlead
    exact ⟨y.bits, hy ▸ hat, hmax, fun i z hi hz => hfirst i z (hy ▸ hi) hz⟩

end Sys2Proof.Sampling
end

section
/-!
PROOFS. Keys, draws and drop masks (O22): a DROPMASK that writes its own guard's predicate writes vd under the new predicate, so that a
thread whose keep fails keeps its old vd. -/

namespace Sys2Proof.Grains

open Sys2Proof.Machine Sys2Proof.Safety

/-! ### A place where a group issues -/

/-- At reset but for a package that serves and bed 0 of pan 0 running, with one rake at its first slot; the pan translates through a page
table at 0x1000, whose first entry names the table at 0x2000, whose first entry is a leaf of 1 GiB at address 0 with every right. -/
def issuing (r : Rake) : State :=
  { State.reset with
    pkg := { st := .serving }
    beds := [(0, { run := 1 })]
    rakes := [(0, r)]
    pans := [(0, { root0 := some (0x1000, 1) })]
    mem := tputs 0 (tputs 0 [] 0x1000 (leBytes 8 0x2001)) 0x2000 (leBytes 8 0xFFF) }

/-- The place of that rake. -/
def place : At := { pan := 0, bed := 0, slot := 0, group := 0 }

/-- A rake of 32 running threads at 0x200000: all of p0 holds, b = v2 is all ones in lane 5, and vd = v4 holds 9 there. -/
def masked : Rake :=
  { home := some (0, 0)
    threads := tputs .absent [] 0 (laneList.map (fun _ => .running))
    pcs := tputs 0 [] 0 (laneList.map (fun _ => 0x200000))
    p := [(0, 0xFFFFFFFF)]
    v := [(2 * 32 + 5, 0xFFFFFFFF), (4 * 32 + 5, 9)]
    vregGroups := 2 }

/-- DROPMASK under p0 that writes p0. -/
def ownGuard : VFmt :=
  { gd := { g := 0, gn := 0 }, vd := 4, va := 1, vb := 2, vc := 3, type := 4, bmode := 0, pd := 0, pw := 1, rnd := 0, sat := 0, na := 0,
    nb := 0, nc := 0, sub := 0 }

/-- The group that issues. -/
def maskedIssue : Issue := { a := place, rake := masked, active := 0xFFFFFFFF, pc := 0x200000 }

/-- What DROPMASK answers: lane 5 of vd still holds 9. -/
theorem exec_dropmask_ownGuard : ∃ t, exec (.dropmask place ownGuard) (issuing masked) = .next t ∧ (rakeAt place t).vget 4 5 = 9 :=
  ⟨_, rfl, by decide⟩

/-- Refutes O22: under the guard p0 with pd = 0, lane 5 is guarded and its keep fails, and vd keeps 9 there instead of +0. -/
theorem not_grainInstructionsKeyAndDraw : ¬ Obligations.GrainInstructionsKeyAndDraw := by
  intro h
  obtain ⟨-, -, hdrop⟩ := h
  obtain ⟨t, hx, hzero, -⟩ := hdrop place ownGuard (issuing masked) maskedIssue _ ⟨⟨rfl, rfl⟩, by decide, by decide, fun hb => absurd hb (by decide)⟩
  obtain ⟨u, hu, hnine⟩ := exec_dropmask_ownGuard
  have htu : t = u := Host.Outcome.next.inj (hx.symm.trans hu)
  have hz : (rakeAt place t).vget 4 5 = 0 := hzero 5 (by decide) (by decide) (by decide)
  rw [htu, hnine] at hz
  exact absurd hz (by decide)

end Sys2Proof.Grains
end

section
/-!
PROOFS. Threads and aborts (R136, R142): what setting threads leaves, one change of every rake of a block, and what an aborted block and
a fault leave. -/

namespace Sys2Proof.Aborts

open Sys2Proof.Machine Sys2Proof.Safety Sys2Proof.Laws

/-! ### Threads -/

theorem thread_setThread (r : Rake) (k l : Nat) (x : Thread) : (r.setThread k x).thread l = if l = k then x else r.thread l :=
  tget_tput _ _ _ _

@[simp] theorem pc_setThread (r : Rake) (k l : Nat) (x : Thread) : (r.setThread k x).pc l = r.pc l := rfl
@[simp] theorem groupOf_setThread (r : Rake) (k l : Nat) (x : Thread) : (r.setThread k x).groupOf l = r.groupOf l := rfl

/-- Every live thread of a list of lanes ends. -/
theorem thread_endThreads_fold (ls : List Nat) (r : Rake) (l : Nat) :
    (ls.foldl (fun r t => if (r.thread t).live then r.setThread t .exited else r) r).thread l
      = if l ∈ ls ∧ (r.thread l).live = true then .exited else r.thread l := by
  induction ls generalizing r with
  | nil => simp
  | cons k ls ih =>
    rw [List.foldl_cons, ih]
    by_cases hk : l = k
    · subst hk
      have hended : Thread.live .exited = false := rfl
      by_cases hlive : (r.thread l).live = true <;> simp [hlive, thread_setThread, hended]
    · by_cases hlive : (r.thread k).live = true <;> simp [hlive, thread_setThread, hk]

theorem endThreads_fold_frame (ls : List Nat) (r : Rake) :
    let r' := ls.foldl (fun r t => if (r.thread t).live then r.setThread t .exited else r) r
    r' = { r with threads := r'.threads } := by
  induction ls generalizing r with
  | nil => rfl
  | cons k ls ih =>
    rw [List.foldl_cons, ih]
    split <;> rfl

theorem endThreads_frame (r : Rake) : r.endThreads = { r with threads := r.endThreads.threads, syncFrom := [] } := by
  unfold Rake.endThreads
  rw [endThreads_fold_frame]

theorem thread_endThreads (r : Rake) {l : Nat} (h : l < 32) :
    r.endThreads.thread l = if (r.thread l).live = true then .exited else r.thread l := by
  have hlane : l ∈ laneList := List.mem_range.mpr h
  have hfold := thread_endThreads_fold laneList r l
  simp only [hlane, true_and] at hfold
  simp only [Rake.endThreads, Rake.thread] at hfold ⊢
  exact hfold

theorem live_endThreads (r : Rake) {l : Nat} (h : l < 32) : (r.endThreads.thread l).live = false := by
  rw [thread_endThreads r h]
  by_cases hlive : (r.thread l).live = true
  · rw [if_pos hlive]
    rfl
  · rw [if_neg hlive]
    simpa using hlive

/-- A fold that changes nothing at any of its elements. -/
theorem foldl_eq_self {α β : Type} {f : α → β → α} (a : α) (ls : List β) (h : ∀ x ∈ ls, f a x = a) : ls.foldl f a = a := by
  induction ls with
  | nil => rfl
  | cons x ls ih =>
    rw [List.foldl_cons, h x List.mem_cons_self]
    exact ih (fun y hy => h y (List.mem_cons_of_mem _ hy))

theorem endThreads_idem (r : Rake) : r.endThreads.endThreads = r.endThreads := by
  have hfold : laneList.foldl (fun r t => if (r.thread t).live then r.setThread t .exited else r) r.endThreads = r.endThreads :=
    foldl_eq_self _ _ (fun l hl => by rw [live_endThreads r (List.mem_range.mp hl)]; rfl)
  rw [Rake.endThreads, hfold, endThreads_frame r]

/-! ### One change of every rake of a block -/

section

variable {p b : Nat} {g : Rake → Rake}

theorem foldl_updRake_frame (ks : List Nat) (s : State) :
    let t := ks.foldl (fun s r => s.updRake p b r g) s
    t = { s with rakes := t.rakes } := by
  induction ks generalizing s with
  | nil => rfl
  | cons k ks ih => rw [List.foldl_cons, ih]; rfl

/-- A change that acts once, of the rakes at some slots of a bed. -/
theorem rake_foldl_updRake (hg : ∀ r, g (g r) = g r) (ks : List Nat) (s : State) (q k j : Nat) :
    (ks.foldl (fun s r => s.updRake p b r g) s).rake q k j
      = if rakeKey q k j ∈ ks.map (rakeKey p b) then g (s.rake q k j) else s.rake q k j := by
  induction ks generalizing s with
  | nil => simp
  | cons r ks ih =>
    have hupd : (s.updRake p b r g).rake q k j = if rakeKey q k j = rakeKey p b r then g (s.rake q k j) else s.rake q k j := by
      by_cases h : rakeKey q k j = rakeKey p b r
      · have hsame : s.rake p b r = s.rake q k j := by simp only [State.rake, h]
        rw [if_pos h, ← hsame, State.updRake, State.rake, h]
        exact tget_tput_same _ _ _
      · rw [if_neg h]
        exact rake_setRake_other s _ h
    rw [List.foldl_cons, ih, hupd]
    by_cases h : rakeKey q k j = rakeKey p b r <;> by_cases hmem : rakeKey q k j ∈ ks.map (rakeKey p b) <;> simp [h, hg]

end

/-! ### Aborted blocks -/

section

variable (s : State) (p b i : Nat)

theorem discardWork_frame (x : Block) :
    let t := discardWork s p b x
    t = { s with beds := t.beds, salter := { s.salter with movers := t.salter.movers } } := rfl

theorem blockAbort_frame :
    let t := blockAbort s p b i
    t = { s with beds := t.beds, rakes := t.rakes, salter := { s.salter with movers := t.salter.movers } } := by
  unfold blockAbort
  split
  · rfl
  · rw [foldl_updRake_frame]
    rfl

theorem blockAbort_bed_other {q k : Nat} (h : bedKey q k ≠ bedKey p b) : (blockAbort s p b i).bed q k = s.bed q k := by
  unfold blockAbort
  split
  · rfl
  · rw [foldl_updRake_frame]
    exact (bed_setBed_other _ _ h).trans (bed_setBed_other _ _ h)

theorem blockAbort_bed_none (h : (s.bed p b).block? i = none) : blockAbort s p b i = s := by
  rw [blockAbort, h]

/-- What an aborted block leaves of its bed. -/
theorem blockAbort_bed {x : Block} (h : (s.bed p b).block? i = some x) :
    let d' := (blockAbort s p b i).bed p b
    d' = { s.bed p b with mq := d'.mq, dq := d'.dq, blocks := d'.blocks, curFailed := true, failed := true } := by
  have hbed : ∀ t : State, t = { discardWork s p b x with rakes := t.rakes } → t.bed p b = (discardWork s p b x).bed p b :=
    fun t ht => by rw [ht]; rfl
  have hfirst : (discardWork s p b x).bed p b = _ := bed_setBed_same (p := p) (b := b) ..
  rw [blockAbort, h]
  simp only [State.updBed, bed_setBed_same]
  rw [hbed _ (foldl_updRake_frame _ _), hfirst]
  rfl

theorem blockAbort_bed_frame :
    let d' := (blockAbort s p b i).bed p b
    d' = { s.bed p b with mq := d'.mq, dq := d'.dq, blocks := d'.blocks, curFailed := d'.curFailed, failed := d'.failed } := by
  cases h : (s.bed p b).block? i with
  | none => rw [blockAbort_bed_none s p b i h]
  | some x => rw [blockAbort_bed s p b i h]

theorem blockAbort_rake {x : Block} (h : (s.bed p b).block? i = some x) (q k j : Nat) :
    (blockAbort s p b i).rake q k j
      = if rakeKey q k j ∈ x.slots.map (rakeKey p b) then (s.rake q k j).endThreads else s.rake q k j := by
  rw [blockAbort, h]
  exact rake_foldl_updRake endThreads_idem x.slots (discardWork s p b x) q k j

end

theorem holdEvent_ne_nil (held : List Event) (e : Event) : holdEvent held e ≠ [] := by
  cases held with
  | nil => exact List.cons_ne_nil _ _
  | cons h r => unfold holdEvent; split <;> exact List.cons_ne_nil _ _

/-- A BED_FAULT event is held. -/
theorem raise_bedFault (s : State) {e : Event} (h : e.code = evBedFault) :
    let t := s.raise e
    t = { s with events := { s.events with held := t.events.held } } ∧ t.events.held ≠ [] := by
  unfold State.raise
  rw [if_pos (.inr h)]
  exact ⟨rfl, holdEvent_ne_nil _ _⟩

/-! ### Faults -/

section

variable (c : Issue) (f : BedFault) (s : State)

/-- The event of a fault. -/
def faultEvent : Event :=
  { code := evBedFault, cls := 0, die := dieOfPan c.a.pan, part := 1, partIndex := c.a.bed, action := 3,
    detail := f.code + (s.bed c.a.pan c.a.bed).kernel * 65536, detail2 := c.block }

/-- A fault recorded and reported, its block not yet aborted. -/
def reported : State :=
  (s.updBed c.a.pan c.a.bed (fun d => d.record f.code (c.rake.home.getD (0, 0)).2 c.block c.pc c.active f.pm f.addr)).raise
    (faultEvent c f s)

theorem takeFault_eq : takeFault c f s = blockAbort (reported c f s) c.a.pan c.a.bed c.block := rfl

theorem reported_frame :
    let t := reported c f s
    t = { s with beds := t.beds, events := { s.events with held := t.events.held } } ∧ t.events.held ≠ [] := by
  have hraised := raise_bedFault (s.updBed c.a.pan c.a.bed
    (fun d => d.record f.code (c.rake.home.getD (0, 0)).2 c.block c.pc c.active f.pm f.addr)) (e := faultEvent c f s) rfl
  change let t := reported c f s
    t = { s.updBed c.a.pan c.a.bed _ with events := { s.events with held := t.events.held } } ∧ t.events.held ≠ [] at hraised
  obtain ⟨hframe, hheld⟩ := hraised
  refine ⟨?_, hheld⟩
  generalize reported c f s = u at hframe
  rw [hframe]
  rfl

theorem reported_bed : (reported c f s).bed c.a.pan c.a.bed
    = (s.bed c.a.pan c.a.bed).record f.code (c.rake.home.getD (0, 0)).2 c.block c.pc c.active f.pm f.addr := by
  unfold reported State.raise
  rw [if_pos (.inr rfl)]
  exact bed_setBed_same _ _ _ _

theorem reported_bed_other {p b : Nat} (h : bedKey p b ≠ bedKey c.a.pan c.a.bed) : (reported c f s).bed p b = s.bed p b := by
  unfold reported State.raise
  rw [if_pos (.inr rfl)]
  exact bed_setBed_other _ _ h

theorem reported_rake (p b k : Nat) : (reported c f s).rake p b k = s.rake p b k := by
  rw [(reported_frame c f s).1]
  rfl

end

/-- The record of a bed keeps everything but the record's own fields. -/
theorem record_frame (d : Bed) (code rake block : Nat) (pc : Dword) (active pm : Word) (addr : Nat) :
    let d' := d.record code rake block pc active pm addr
    d' = { d with fCode := d'.fCode, fRake := d'.fRake, fKernel := d'.fKernel, fBlock := d'.fBlock, fValid := d'.fValid, fPc := d'.fPc,
                  fActive := d'.fActive, fPart := d'.fPart, fAddr := d'.fAddr, fLost := d'.fLost } := by
  unfold Bed.record
  split <;> rfl

/-- What a fault leaves (R142): the rules of the record and of the aborted block together. -/
theorem takeFault_faulted (c : Issue) (f : BedFault) {s1 s : State} (hs : s = { s1 with pans := s.pans }) :
    Faulted c.a c s1 (takeFault c f s) f.code := by
  have hbed : ∀ p b, s.bed p b = s1.bed p b := fun p b => by rw [hs]; rfl
  have hrake : ∀ p b k, s.rake p b k = s1.rake p b k := fun p b k => by rw [hs]; rfl
  have hqueue : s.events = s1.events := by rw [hs]
  obtain ⟨hrep, hheld⟩ := reported_frame c f s
  have hd := blockAbort_bed_frame (reported c f s) c.a.pan c.a.bed c.block
  have hrec := record_frame (s1.bed c.a.pan c.a.bed) f.code (c.rake.home.getD (0, 0)).2 c.block c.pc c.active f.pm f.addr
  have hrbed := reported_bed c f s
  rw [hbed] at hrbed
  simp only [hrbed] at hd
  have hevents : (takeFault c f s).events = (reported c f s).events := by rw [takeFault_eq, blockAbort_frame]
  rw [← takeFault_eq] at hd
  refine ⟨fun hv => ?_, fun hv => ?_, ?_, ?_, fun x hx => ?_, fun p b k => ?_, fun p b hpb => ?_, ?_⟩
  · rw [hd]
    simp only [Bed.record, hv, Bool.false_eq_true, if_false, and_self, Issue.block]
  · rw [hd]
    simp only [Bed.record, hv, if_true, and_self]
  · rw [hevents, hrep, hqueue]
  · rw [hevents]
    exact hheld
  · have hx' : ((reported c f s).bed c.a.pan c.a.bed).block? c.block = some x := by
      rw [hrbed, hrec]
      exact hx
    rw [takeFault_eq]
    refine ⟨?_, ?_, fun r hr l hl => ?_, fun p b k hk => ?_⟩
    · rw [blockAbort_bed _ _ _ _ hx']
    · rw [blockAbort_bed _ _ _ _ hx']
    · rw [blockAbort_rake _ _ _ _ hx', if_pos (List.mem_map_of_mem hr)]
      exact live_endThreads _ hl
    · rw [blockAbort_rake _ _ _ _ hx', if_neg, reported_rake, hrake]
      simpa [eq_comm] using hk
  · rw [takeFault_eq]
    cases hx : ((reported c f s).bed c.a.pan c.a.bed).block? c.block with
    | none => rw [blockAbort_bed_none _ _ _ _ hx, reported_rake, hrake]
    | some x =>
      rw [blockAbort_rake _ _ _ _ hx, reported_rake, hrake]
      split
      · exact endThreads_frame _
      · rfl
  · rw [takeFault_eq, blockAbort_bed_other _ _ _ _ hpb, reported_bed_other c f s hpb, hbed]
  · rw [hd, hrec]
    exact ⟨rfl, rfl, rfl, rfl⟩

theorem faulted_drawn {a : At} {c : Issue} {s1 t : State} {code : Nat} (h : Faulted a c s1 t code) : Faulted a c s1 t.drawn code := h

/-- A fault changes nothing but beds, rakes, events and the moves that wait. -/
theorem takeFault_frame (c : Issue) (f : BedFault) (s : State) :
    let t := takeFault c f s
    t = { s with beds := t.beds, rakes := t.rakes, events := t.events, salter := { s.salter with movers := t.salter.movers } } := by
  have habort := blockAbort_frame (reported c f s) c.a.pan c.a.bed c.block
  obtain ⟨hrep, -⟩ := reported_frame c f s
  rw [takeFault_eq]
  generalize blockAbort (reported c f s) c.a.pan c.a.bed c.block = t at habort
  generalize reported c f s = u at habort hrep
  have hevents := congrArg State.events habort
  simp only at habort hrep hevents ⊢
  rw [show u = { s with beds := u.beds, events := u.events } from by rw [hrep]] at habort
  simp only [← hevents] at habort
  exact habort

theorem takeFault_drawn_frame (c : Issue) (f : BedFault) (s : State) :
    let t := (takeFault c f s).drawn
    t = { s with beds := t.beds, rakes := t.rakes, events := t.events, salter := { s.salter with movers := t.salter.movers },
                 free := s.free + 1 } :=
  congrArg State.drawn (takeFault_frame c f s)

end Sys2Proof.Aborts
end

section
/-!
PROOFS. Precise faults (R130, R131, R141, R142): the checks of a rake-wide instruction and of an access's alignment, each with the fault
it takes. -/

namespace Sys2Proof.Precise

open Sys2Proof.Machine Sys2Proof.Safety Sys2Proof.Laws Sys2Proof.Aborts

/-! ### A check that fails -/

/-- A fault with this code, found before anything is recorded. -/
def Refuses (e : Except BedFault State) (code : Nat) : Prop := ∃ x : BedFault, e = .error x ∧ x.code = code ∧ x.seen = none

theorem refuses_illegal : Refuses illegal fIllegal := ⟨_, rfl, rfl, rfl⟩

theorem Refuses.map {e : Except BedFault State} {code : Nat} (h : Refuses e code) (g : State → State) : Refuses (e.map g) code := by
  obtain ⟨x, rfl, hx⟩ := h
  exact ⟨x, rfl, hx⟩

variable {a : At} {s s1 : State} {c : Issue} {i : Instr}

/-- An instruction of a ready group whose effect refuses takes the fault. -/
theorem faults_of_refuses {f : Issue → State → Except BedFault State} {code : Nat} (hready : Ready a s c s1)
    (hx : exec i s = go (bedIssue a s f)) (hf : Refuses (f c s1) code) (hcode : code ≠ 0) :
    Completes i s (fun t => Faulted a c s1 t code
      ∧ t = { s1 with beds := t.beds, rakes := t.rakes, events := t.events, salter := { s1.salter with movers := t.salter.movers },
                      free := s1.free + 1 }) := by
  obtain ⟨x, herr, rfl, hseen⟩ := hf
  obtain ⟨rfl, -⟩ := ready_rake hready
  obtain ⟨hissue, hfetch⟩ := hready
  refine ⟨(takeFault c x s1).drawn, ?_, faulted_drawn (takeFault_faulted c x rfl), takeFault_drawn_frame c x s1⟩
  simp only [hx, go, bedIssue, hissue, hfetch, herr, if_neg hcode, hseen, Option.getD_none]

/-! ### Rake-wide instructions -/

/-- The checks of a rake-wide instruction (R130, R131); strict: no check of its own stands before that of the active mask. -/
def Checked (a : At) (e : Instr × Guard × BitVec 7 × BitVec 3) (strict : Bool) (f : Issue → State → Except BedFault State) : Prop :=
  ∀ c s,
    (c.pmask e.2.2.1 = none ∨ guardAlways e.2.1 = false → Refuses (f c s) fIllegal)
    ∧ ∀ m, c.pmask e.2.2.1 = some m → guardAlways e.2.1 = true → c.active ≠ m →
        operandWait a s (e.2.2.1.toNat :: (List.range 8).map (fun j => 8 * e.2.2.2.toNat + j)) = false →
        Refuses (f c s) fMask ∨ (strict = false ∧ Refuses (f c s) fIllegal)

/-- Fewer operands are awaited where none of eight is. -/
theorem operandWait_range {n k : Nat} (pm sbase : Nat) (hn : n ≤ 8)
    (h : operandWait a s (pm :: (List.range 8).map (fun j => 8 * sbase + j)) = false) (hk : k = n) :
    operandWait a s (pm :: (List.range k).map (fun j => 8 * sbase + j)) = false := by
  subst hk
  unfold operandWait at h ⊢
  rw [List.any_eq_false] at h ⊢
  intro r hr
  refine h r ?_
  simp only [List.mem_cons, List.mem_map, List.mem_range] at hr ⊢
  obtain rfl | ⟨j, hj, rfl⟩ := hr
  · exact .inl rfl
  · exact .inr ⟨j, by omega, rfl⟩

theorem checked_rakeWide {gd : Guard} {pm : BitVec 7} {sbase : BitVec 3} {n : Nat} {legal : Issue → Bool} {strict : Bool}
    {g : Issue → Word → State → Except BedFault State} (hn : n ≤ 8) (hstrict : strict = true → ∀ c, legal c = true)
    (hx : ∀ s, exec i s = go (rakeWide a gd pm sbase n legal s g)) :
    ∃ f, (∀ s, exec i s = go (bedIssue a s f)) ∧ Checked a (i, gd, pm, sbase) strict f := by
  refine ⟨_, hx, fun c s => ⟨fun h => Refuses.map ?_ _, fun m hpm hgd hmask hwait => ?_⟩⟩
  · cases hpm : c.pmask pm with
    | none => exact ⟨{ code := fIllegal }, by simp [hpm, illegal], rfl, rfl⟩
    | some m =>
      have hgd : guardAlways gd = false := h.resolve_left (by simp [hpm])
      exact ⟨{ code := fIllegal, pm := m }, by simp [hpm, hgd], rfl, rfl⟩
  · simp only at hpm hgd hwait
    have hwait' := operandWait_range pm.toNat sbase.toNat hn hwait rfl
    cases hlegal : legal c with
    | false =>
      refine .inr ⟨?_, { code := fIllegal, pm := m }, by simp [hpm, hlegal, Except.map], rfl, rfl⟩
      exact Bool.eq_false_iff.mpr (fun hs => by simp [hstrict hs c] at hlegal)
    | true => exact .inl ⟨{ code := fMask, pm := m }, by simp [hpm, hgd, hlegal, hwait', hmask, Except.map], rfl, rfl⟩

theorem checked_context {r : RFmt} {load : Bool} (hx : ∀ s, exec i s = go (ctxIssueOp a r load s)) :
    ∃ f, (∀ s, exec i s = go (bedIssue a s f)) ∧ Checked a (i, r.gd, r.pm, r.sbase) true f := by
  refine ⟨_, hx, fun c s => ⟨fun h => ?_, fun m hpm hgd hmask hwait => .inl ?_⟩⟩
  · cases hpm : c.pmask r.pm with
    | none => exact ⟨{ code := fIllegal }, by simp [illegal], rfl, rfl⟩
    | some m =>
      have hgd : guardAlways r.gd = false := h.resolve_left (by simp [hpm])
      exact ⟨{ code := fIllegal, pm := m }, by simp [hgd], rfl, rfl⟩
  · simp only at hpm hgd hwait
    have hwait' := operandWait_range (k := if load then 1 else 2) r.pm.toNat r.sbase.toNat (by split <;> omega) hwait rfl
    exact ⟨{ code := fMask, pm := m }, by simp [hpm, hgd, hwait', hmask], rfl, rfl⟩

/-- The instructions that have no check of their own before that of the active mask. -/
def strictForms (a : At) (r : RFmt) : List Instr := [.grainKeyLane a r, .grainKeyDrain a r, .ctxSave a r, .ctxLoad a r]

/-- An instruction makes the checks of R130 and R131 before it does anything. -/
def ChecksFirst (a : At) (r : RFmt) (e : Instr × Guard × BitVec 7 × BitVec 3) : Prop :=
  ∃ strict f, (∀ s, exec e.1 s = go (bedIssue a s f)) ∧ Checked a e strict f ∧ (e.1 ∈ strictForms a r → strict = true)

section

variable {r : RFmt} {gd : Guard} {pm : BitVec 7} {sbase : BitVec 3} {n : Nat} {g : Issue → Word → State → Except BedFault State}

theorem checksFirst_own {legal : Issue → Bool} (hx : ∀ s, exec i s = go (rakeWide a gd pm sbase n legal s g)) (hn : n ≤ 8)
    (hnot : i ∉ strictForms a r) : ChecksFirst a r (i, gd, pm, sbase) := by
  obtain ⟨f, hf, hc⟩ := checked_rakeWide (strict := false) hn (by simp) hx
  exact ⟨false, f, hf, hc, fun h => absurd h hnot⟩

theorem checksFirst_key (hx : ∀ s, exec i s = go (rakeWide a gd pm sbase n (fun _ => true) s g)) (hn : n ≤ 8) :
    ChecksFirst a r (i, gd, pm, sbase) := by
  obtain ⟨f, hf, hc⟩ := checked_rakeWide (strict := true) hn (fun _ _ => rfl) hx
  exact ⟨true, f, hf, hc, fun _ => rfl⟩

theorem checksFirst_context {load : Bool} (hx : ∀ s, exec i s = go (ctxIssueOp a r load s)) :
    ChecksFirst a r (i, r.gd, r.pm, r.sbase) := by
  obtain ⟨f, hf, hc⟩ := checked_context hx
  exact ⟨true, f, hf, hc, fun _ => rfl⟩

end

theorem checksFirst_wideForms (a : At) (l : LFmt) (y : XFmt) (r : RFmt) : ∀ e ∈ wideForms a l y r, ChecksFirst a r e := by
  simp only [wideForms, List.map_cons, List.map_nil, List.cons_append, List.nil_append, List.forall_mem_cons, List.not_mem_nil,
    false_imp_iff, implies_true, and_true]
  exact ⟨checksFirst_own (fun _ => rfl) (by decide) (by simp [strictForms]),
    checksFirst_own (fun _ => rfl) (by decide) (by simp [strictForms]),
    checksFirst_own (fun _ => rfl) (by decide) (by simp [strictForms]),
    checksFirst_own (fun _ => rfl) (by decide) (by simp [strictForms]),
    checksFirst_own (fun _ => rfl) (by decide) (by simp [strictForms]),
    checksFirst_own (fun _ => rfl) (by decide) (by simp [strictForms]),
    checksFirst_own (fun _ => rfl) (by decide) (by simp [strictForms]),
    checksFirst_own (fun _ => rfl) (by decide) (by simp [strictForms]),
    checksFirst_own (fun _ => rfl) (by decide) (by simp [strictForms]),
    checksFirst_own (fun _ => rfl) (by decide) (by simp [strictForms]),
    checksFirst_key (fun _ => rfl) (by decide),
    checksFirst_key (fun _ => rfl) (by decide),
    checksFirst_own (fun _ => rfl) (by decide) (by simp [strictForms]),
    checksFirst_own (fun _ => rfl) (by decide) (by simp [strictForms]),
    checksFirst_own (fun _ => rfl) (by decide) (by simp [strictForms]),
    checksFirst_own (fun _ => rfl) (by decide) (by simp [strictForms]),
    checksFirst_own (fun _ => rfl) (by decide) (by simp [strictForms]),
    checksFirst_own (fun _ => rfl) (by decide) (by simp [strictForms]),
    checksFirst_own (fun _ => rfl) (by decide) (by simp [strictForms]),
    checksFirst_context (fun _ => rfl),
    checksFirst_context (fun _ => rfl)⟩

/-! ### Alignment -/

section

variable {f : MFmt} {n k : Nat}

/-- An access with a misaligned guarded thread is refused before anything else of it (R141). -/
theorem refuses_targets (need : Need) (kind : Nat) (reads : Bool) (s : State) (hk : k ∈ lanesOf (c.guarded f.gd))
    (hmis : memAddr c f k % n ≠ 0) (g : State × List Target → Except BedFault State) :
    Refuses ((targets c f n need kind reads s).bind g) fMisaligned := by
  unfold targets
  simp only
  split
  case h_1 l _ => exact ⟨_, rfl, rfl, rfl⟩
  case h_2 hnone =>
    have hall := List.find?_eq_none.mp hnone k hk
    simp [hmis] at hall

theorem guarded_ne_zero {l : Nat} {gd : Guard} (h : l ∈ lanesOf (c.guarded gd)) : c.guarded gd ≠ 0 := by
  intro hz
  rw [hz] at h
  simp [lanesOf, lane] at h

/-- A memory instruction that is legal and waits for nothing runs its body. -/
theorem refuses_memOp {legal : Issue → Nat → Bool} {body : Issue → Nat → State → Except BedFault State} {writes : Bool} {code : Nat}
    (hready : Ready a s c s1) (hx : exec i s = go (memOp a f writes s legal body)) (hsize : sizeBytes f.size.toNat = some n)
    (hguard : c.guarded f.gd ≠ 0) (hlegal : legal c n = true) (hwait : writes = true → Released a f s1)
    (hbody : Refuses (body c n s1) code) (hcode : code ≠ 0) :
    Completes i s (fun t => Faulted a c s1 t code
      ∧ t = { s1 with beds := t.beds, rakes := t.rakes, events := t.events, salter := { s1.salter with movers := t.salter.movers },
                      free := s1.free + 1 }) := by
  refine faults_of_refuses hready hx (Refuses.map ?_ _) hcode
  have hgo : (writes && decide (2 ≤ f.order.toNat) && rakeBusy a s1) = false := by
    cases hw : writes with
    | false => rfl
    | true => by_cases h2 : 2 ≤ f.order.toNat <;> simp [h2, hwait hw]
  simp only [if_neg hguard, hsize, hlegal, hgo, Bool.not_true, Bool.false_eq_true, if_false]
  exact hbody

end

/-! ### The obligation -/

/-- The translation record, where none was held, names the address (R350). -/
theorem recordXlat_pan {s : State} {p bed slot kind : Nat} {queue : Bool} {x : XFail} {va : Nat} (h : (s.pan p).xValid = false) :
    ((recordXlat s p bed slot kind queue x va).pan p).xValid = true
      ∧ ((recordXlat s p bed slot kind queue x va).pan p).xVa = va % 2 ^ 48 := by
  simp [recordXlat, State.updPan, h]

/-- An instruction whose own fetch does not translate takes the fault and leaves the translation record. -/
theorem faults_of_fetch {x : XFail} {f : Issue → State → Except BedFault State} (hissue : issueOf a s = some c)
    (hfetch : fetchCheck c s = (s1, some x)) (hx : exec i s = go (bedIssue a s f)) :
    Completes i s (fun t => Faulted a c s1 t fTranslation
      ∧ t = { s1 with beds := t.beds, rakes := t.rakes, events := t.events, pans := t.pans,
                      salter := { s1.salter with movers := t.salter.movers }, free := s1.free + 1 }
      ∧ ((s1.pan a.pan).xValid = false → (t.pan a.pan).xValid = true ∧ (t.pan a.pan).xVa = c.pc.toNat % 2 ^ 48)) := by
  obtain ⟨rfl, -⟩ := issueOf_rake hissue
  have hfaulted := takeFault_faulted c { code := fTranslation, addr := c.pc.toNat }
    (s := recordXlat s1 c.a.pan c.a.bed s.slotRun kFetch false x c.pc.toNat) (s1 := s1) rfl
  have hframe := takeFault_drawn_frame c { code := fTranslation, addr := c.pc.toNat }
    (recordXlat s1 c.a.pan c.a.bed s.slotRun kFetch false x c.pc.toNat)
  refine ⟨_, by rw [hx, bedIssue, hissue]; simp only [hfetch]; rfl, faulted_drawn hfaulted, ?_, fun hv => ?_⟩
  · rw [hframe]
    rfl
  · rw [hframe]
    exact recordXlat_pan hv

/-- Settles O26, by the checks each form makes before its effect and what a fault leaves. -/
theorem preciseFaultsAreRecordedAndAbort : Obligations.PreciseFaultsAreRecordedAndAbort := by
  constructor
  · intro a v x g m l y r s c s1 e hissue hfetch i hi
    obtain ⟨f, hx⟩ := Issuing.exec_bedForms a v x g m l y r s i hi
    exact faults_of_fetch hissue hfetch hx
  · intro a s c s1 hready faults
    refine ⟨fun w hw => ?_, fun l y r e he => ?_, fun f n k hsize hk hmis => ⟨fun hl => ?_, fun hl hr => ?_, fun hl hr => ?_⟩⟩
    · have hx : exec (.illegalInstruction a w) s = go (bedNext a s (fun _ _ => illegal)) := by
        show execIllegalInstruction a w s = _
        rw [execIllegalInstruction, hw]
      exact faults_of_refuses hready hx (refuses_illegal.map _) (by decide)
    · obtain ⟨strict, f, hx, hchecked, hstrict⟩ := checksFirst_wideForms a l y r e he
      obtain ⟨hform, hmask⟩ := hchecked c s1
      refine ⟨fun h => faults_of_refuses hready (hx s) (hform h) (by decide), fun m hpm hgd hactive hwait => ?_⟩
      obtain hm | ⟨hs, hi⟩ := hmask m hpm hgd hactive hwait
      · have hfault : faults e.1 fMask := faults_of_refuses hready (hx s) hm (by decide)
        exact ⟨⟨fMask, .inr rfl, hfault⟩, fun _ => hfault⟩
      · refine ⟨⟨fIllegal, .inl rfl, faults_of_refuses hready (hx s) hi (by decide)⟩, fun hnamed => ?_⟩
        rw [hstrict hnamed] at hs
        exact absurd hs (by decide)
    · exact refuses_memOp hready rfl hsize (guarded_ne_zero hk) hl (by simp) (refuses_targets _ _ _ _ hk hmis _) (by decide)
    · exact refuses_memOp hready rfl hsize (guarded_ne_zero hk) hl (fun _ => hr) (refuses_targets _ _ _ _ hk hmis _) (by decide)
    · exact refuses_memOp hready rfl hsize (guarded_ne_zero hk) hl (fun _ => hr) (refuses_targets _ _ _ _ hk hmis _) (by decide)

end Sys2Proof.Precise
end

section
/-!
PROOFS. Kernels and blocks (R107 to R111, R135, R136, R169): what the end of a step leaves of the beds, the rakes a block starts with, and
the wait whose deadline comes first. -/

namespace Sys2Proof.KernelRuns

open Sys2Proof.Machine Sys2Proof.Safety Sys2Proof.Laws Sys2Proof.Frames Sys2Proof.Boxes Sys2Proof.Aborts

/-! ### The beds at the end of a step -/

/-- From s to t no bed changes. -/
def SameBeds (s t : State) : Prop := t.beds = s.beds

namespace SameBeds

theorem refl (s : State) : SameBeds s s := rfl

theorem trans {s t u : State} (h : SameBeds s t) (g : SameBeds t u) : SameBeds s u := Eq.trans g h

theorem foldl {β : Type} {f : State → β → State} (h : ∀ s x, SameBeds s (f s x)) (l : List β) (s : State) : SameBeds s (l.foldl f s) :=
  List.foldlRecOn l f (refl s) (fun t ht x _ => ht.trans (h t x))

theorem memory {s t : State} (h : MemoryOnly s t) : SameBeds s t := by
  unfold MemoryOnly at h
  rw [h]
  rfl

theorem boxes {s t : State} (h : BoxesOnly s t) : SameBeds s t := by
  unfold BoxesOnly at h
  rw [h]
  rfl

theorem updQp (s : State) (q : Nat) (f : Qp → Qp) : SameBeds s (s.updQp q f) := by
  unfold State.updQp
  split <;> rfl

theorem readyFault (s : State) (slot : Nat) (write : Bool) : SameBeds s (readyFault s slot write) := by
  unfold Sys2Proof.Machine.readyFault
  dsimp only
  split
  · rfl
  · exact State.raise_beds s _

theorem handOff (s : State) (pl : Plan) (k : IoSlot) (step : Nat) : SameBeds s (handOff s pl k step) := by
  unfold Sys2Proof.Machine.handOff
  split
  · exact readyFault s _ _
  · exact memory (MemoryOnly.cachelessWrite s _ _)

theorem releaseFailed (s : State) (q : Nat) : SameBeds s (releaseFailed s q) := by
  unfold Sys2Proof.Machine.releaseFailed
  split
  · rfl
  · exact updQp s q _

theorem transmit (s : State) (q : Nat) (x : Qp) (e : Sent) : SameBeds s (transmit s q x e) := by
  unfold Sys2Proof.Machine.transmit
  extract_lets data s1
  have hspent : SameBeds s s1 := by
    unfold s1
    split
    · rfl
    split
    · exact memory (TokensOnly.regionSpend s _ _ _).memory
    · rfl
  exact hspent.trans (boxes (MessagesOnly.sendFrames s1 _ _ _).boxesOnly)

theorem sendRelease (s : State) (q : Nat) (r : Release) (e : RelEntry) : SameBeds s (sendRelease s q r e) := by
  unfold Sys2Proof.Machine.sendRelease
  split
  · rfl
  · dsimp only
    split
    · exact (updQp s q _).trans (releaseFailed _ q)
    · have hclean (l : List (Nat × Nat × Nat)) :
          SameBeds s (l.foldl (fun s y => (linesOf y.2.2 y.2.1).foldl cleanLine s) s) :=
        memory (MemoryOnly.foldl (fun t y => MemoryOnly.foldl MemoryOnly.cleanLine _ t) l s)
      split
      · exact (hclean _).trans (updQp _ q _)
      · exact ((hclean _).trans (updQp _ q _)).trans (transmit _ q _ _)

theorem startRelease (s : State) (slot k bytes step : Nat) (e : RelEntry) : SameBeds s (startRelease s slot k bytes step e) := by
  unfold Sys2Proof.Machine.startRelease
  dsimp only
  split
  · rfl
  · split
    · exact (updQp s e.q _).trans (updQp _ e.q _)
    · exact (updQp s e.q _).trans (sendRelease _ e.q _ e)

theorem releaseOutputs (s : State) : SameBeds s (releaseOutputs s) := by
  unfold Sys2Proof.Machine.releaseOutputs
  split
  · rfl
  · split
    · rfl
    · split
      · rfl
      · refine foldl (fun t k => ?_) _ s
        split
        · exact startRelease ..
        · exact handOff ..

theorem finish (s : State) (box status : Nat) (resp : List Byte) : SameBeds s (finish s box status resp) :=
  trans (t := s.updSalter _) rfl (boxes (boxesOnly_handBackAt _ box status 0 false resp))

theorem noteMargin (s : State) (p : Nat) : SameBeds s (noteMargin s p) := by
  unfold Sys2Proof.Machine.noteMargin
  split
  · rfl
  · split <;> rfl

end SameBeds

/-- From s to t nothing changes of any bed but its flood queues. -/
def SameKernels (s t : State) : Prop := ∀ p b, t.bed p b = { s.bed p b with flood := (t.bed p b).flood }

namespace SameKernels

theorem beds {s t : State} (h : SameBeds s t) : SameKernels s t := fun p b => by rw [State.bed, State.bed, h]

theorem trans {s t u : State} (h : SameKernels s t) (g : SameKernels t u) : SameKernels s u := fun p b => by rw [g p b, h p b]

theorem foldl {β : Type} {f : State → β → State} (h : ∀ s x, SameKernels s (f s x)) (l : List β) (s : State) :
    SameKernels s (l.foldl f s) :=
  List.foldlRecOn l f (beds (SameBeds.refl s)) (fun t ht x _ => ht.trans (h t x))

/-- A bed whose flood queues change. -/
theorem updBed (s : State) (p b : Nat) (f : Bed → Bed) (h : ∀ d, f d = { d with flood := (f d).flood }) :
    SameKernels s (s.updBed p b f) := by
  intro q k
  by_cases hk : bedKey q k = bedKey p b
  · have hsame : s.bed q k = s.bed p b := by simp only [State.bed, hk]
    have hnew : (s.updBed p b f).bed q k = f (s.bed p b) := by
      simp only [State.bed, hk]
      exact bed_setBed_same s p b _
    rw [hnew, hsame]
    exact h _
  · rw [show (s.updBed p b f).bed q k = s.bed q k from bed_setBed_other s _ hk]

theorem dropFlood (s : State) (p : Nat) : SameKernels s (dropFlood s p) := by
  refine foldl (fun t b => ?_) _ s
  dsimp only
  split
  · exact (beds (State.raise_beds t _)).trans (updBed _ p b _ (fun d => rfl))
  · exact updBed t p b _ (fun d => rfl)

theorem dropPlanFlood (s : State) (pl : Plan) : SameKernels s (dropPlanFlood s pl) := foldl dropFlood _ s

theorem endPlan (s : State) : SameKernels s (endPlan s) := by
  unfold Sys2Proof.Machine.endPlan
  refine SameKernels.trans (t := match s.runningPlan with | some pl => Sys2Proof.Machine.dropPlanFlood s pl | none => s) ?_
    (beds (SameBeds.foldl (fun t e => SameBeds.finish ..) _ _))
  cases s.runningPlan with
  | none => exact beds rfl
  | some pl => exact dropPlanFlood s pl

theorem tideCheck (s : State) : SameKernels s (tideCheck s) := by
  unfold Sys2Proof.Machine.tideCheck
  split
  case h_2 => exact beds rfl
  case h_1 c pl hcur hplan =>
    split
    · exact beds rfl
    · extract_lets c1 s1 s2 s3
      have hdone : SameKernels s s2 := dropPlanFlood (s.updTide _) pl
      split
      · have hreleased : SameKernels s s3 := hdone.trans (beds (SameBeds.releaseOutputs s2))
        split
        · exact hreleased.trans (endPlan s3)
        · exact hreleased
      · exact hdone

end SameKernels

/-! ### The start of a kernel and of a block -/

/-- A rake slot as it stands before a block starts there, and after (R111). -/
theorem tget_lanes {α : Type} [DecidableEq α] (d x : α) {l : Nat} (h : l < 32) :
    tget d (tputs d [] 0 (laneList.map (fun _ => x))) l = x := by
  have hlen : l < (laneList.map (fun _ => x)).length := by simpa [laneList] using h
  rw [tget_tputs_zero, if_pos hlen, List.getD_eq_getElem _ _ hlen, List.getElem_map]

/-- The scalar registers of a rake at the start of a block. -/
def startScalars (s : State) (k : Kernel) (i pos r va : Nat) : List Dword :=
  [k.args, BitVec.ofNat 64 i, BitVec.ofNat 64 k.blocks, BitVec.ofNat 64 r, BitVec.ofNat 64 (k.scratchBase + pos * k.scratchPer),
    BitVec.ofNat 64 ((s.tide.cur.map StepRun.step).getD 0), BitVec.ofNat 64 ((s.tide.cur.map StepRun.tide).getD 0), BitVec.ofNat 64 va]

theorem sget_startRake (s : State) (k : Kernel) (i pos r va : Nat) (old : Rake) (n : Nat) :
    (startRake s k i pos r va old).sget n = (startScalars s k i pos r va).getD n 0 := by
  have h := tget_tputs_zero (d := (0 : Dword)) [] (startScalars s k i pos r va) n
  change (startRake s k i pos r va old).sget n = _ at h
  rw [h]
  split
  · rfl
  · rename_i hn
    rw [List.getD_eq_default _ _ (by omega)]
    rfl

theorem thread_startRake (s : State) (k : Kernel) (i pos r va : Nat) (old : Rake) {l : Nat} (h : l < 32) :
    (startRake s k i pos r va old).thread l = .running := tget_lanes Thread.absent Thread.running h

theorem pc_startRake (s : State) (k : Kernel) (i pos r va : Nat) (old : Rake) {l : Nat} (h : l < 32) :
    (startRake s k i pos r va old).pc l = k.entry := tget_lanes (0 : Dword) k.entry h

/-- The rakes of a block start in ascending order, each at a slot of its own. -/
theorem startRakes (s : State) (p b : Nat) (k : Kernel) (i pos base va n : Nat) :
    let t := (List.range n).foldl (fun s r => s.updRake p b (base + r) (startRake s k i pos r va)) s
    t = { s with rakes := t.rakes } ∧ ∀ r, t.rake p b (base + r) =
      if r < n then startRake s k i pos r va (s.rake p b (base + r)) else s.rake p b (base + r) := by
  induction n with
  | zero => exact ⟨rfl, fun r => rfl⟩
  | succ n ih =>
    obtain ⟨hframe, hrakes⟩ := ih
    rw [List.range_succ, List.foldl_append, List.foldl_cons, List.foldl_nil]
    generalize (List.range n).foldl (fun s r => s.updRake p b (base + r) (startRake s k i pos r va)) s = t at hframe hrakes
    have hstart : startRake t k i pos n va = startRake s k i pos n va := by rw [hframe]; rfl
    refine ⟨by rw [hframe]; rfl, fun r => ?_⟩
    by_cases hr : r = n
    · subst hr
      rw [if_pos (Nat.lt_succ_self r), hstart, ← (hrakes r).trans (if_neg (Nat.lt_irrefl r))]
      exact rake_setRake_same ..
    · have hkey : rakeKey p b (base + r) ≠ rakeKey p b (base + n) := by unfold rakeKey; omega
      rw [State.updRake, rake_setRake_other _ _ hkey, hrakes r]
      by_cases hlt : r < n
      · rw [if_pos hlt, if_pos (by omega)]
      · rw [if_neg hlt, if_neg (by omega)]

/-! ### The wait whose deadline comes first (R135) -/

theorem earliestSync_some {r : Rake} {t : Nat} (h : r.earliestSync = some t) : ∃ l, l < 32 ∧ tget none r.syncFrom l = some t := by
  revert t
  refine List.foldlRecOn (motive := fun m : Option Nat => ∀ {t}, m = some t → ∃ l, l < 32 ∧ tget none r.syncFrom l = some t) _ _
    (fun h => by simp at h) (fun m hm l hl t ht => ?_)
  have hlane : l < 32 := List.mem_range.mp hl
  split at ht
  case h_1 t' k hsync =>
    obtain rfl := Option.some.inj ht
    rcases Nat.le_total t' k with hle | hle
    · exact ⟨l, hlane, by rw [hsync, Nat.min_eq_left hle]⟩
    · rw [Nat.min_eq_right hle]
      exact hm rfl
  case h_2 t' hsync => exact ⟨l, hlane, hsync.trans ht⟩
  case h_3 => exact hm ht

/-- A first wait at a SYNC.RAKE is the earliest of a rake of the block. -/
theorem firstWait_sync {s : State} {p b t j : Nat} {x : Block} (h : firstWait s p b x = some (t, some j)) :
    x.slots.getD j 0 ∈ x.slots ∧ (s.rake p b (x.slots.getD j 0)).earliestSync = some t := by
  have hfold : ∀ {w}, firstWait s p b x = w → ∀ {t j}, w = some (t, some j) →
      ∃ r, (j, r) ∈ (List.range x.slots.length).zip x.slots ∧ (s.rake p b r).earliestSync = some t := by
    rintro w rfl
    refine List.foldlRecOn (motive := fun w => ∀ {t j}, w = some (t, some j) →
      ∃ r, (j, r) ∈ (List.range x.slots.length).zip x.slots ∧ (s.rake p b r).earliestSync = some t) _ _ ?_ ?_
    · intro t j hw
      simp at hw
    · intro w hw e he t j hnext
      have hown : (s.rake p b e.2).earliestSync.map (fun t => (t, some e.1)) = some (t, some j) →
          ∃ r, (j, r) ∈ (List.range x.slots.length).zip x.slots ∧ (s.rake p b r).earliestSync = some t := by
        intro hmap
        obtain ⟨t', hsync, hpair⟩ := Option.map_eq_some_iff.mp hmap
        simp only [Prod.mk.injEq, Option.some.injEq] at hpair
        obtain ⟨rfl, rfl⟩ := hpair
        exact ⟨e.2, he, hsync⟩
      unfold earlierWait at hnext
      split at hnext
      · rename_i y hy
        split at hnext
        · exact hown (hy.trans hnext)
        · exact hw hnext
      · exact hw hnext
      · exact hown hnext
  obtain ⟨r, hmem, hsync⟩ := hfold rfl h
  obtain ⟨n, hn, hget⟩ := List.mem_iff_getElem.mp hmem
  simp only [List.length_zip, List.length_range, Nat.min_self] at hn
  simp only [List.getElem_zip, List.getElem_range, Prod.mk.injEq] at hget
  obtain ⟨rfl, rfl⟩ := hget
  rw [List.getD_eq_getElem _ _ hn]
  exact ⟨List.getElem_mem hn, hsync⟩

/-! ### What each event does -/

section

variable {s : State} {p b i : Nat} {k : Kernel} {x : Block}

theorem performBed_retired (s : State) (p b : Nat) : ((performBed s p b).bed p b).retired = (s.bed p b).retired := by
  simp only [performBed, State.updBed, bed_setBed_same]
  rfl

theorem kernelStarts (hruns : s.panRuns p = true) (hopen : s.stepOpen = true) (hst : s.pkg.st = .serving) (hrerun : s.pkg.rerun = false)
    (hcur : (s.bed p b).cur = none) (hbusy : (s.pan p).grainBusy = false) (hk : (s.kernelsOf p b)[(s.bed p b).retired]? = some k) :
    Completes (.kernelStart p b) s (fun t =>
      (t.bed p b).cur = some k ∧ (t.bed p b).run = 1 ∧ (t.bed p b).kernel = (s.bed p b).retired ∧ (t.bed p b).blocks = []
        ∧ (t.bed p b).ended = [] ∧ (t.bed p b).slots = [] ∧ t = { s with beds := t.beds, coh := { s.coh with kept := t.coh.kept } }) := by
  have hexec : exec (.kernelStart p b) s = go (startKernel s p b) := rfl
  rw [startKernel] at hexec
  simp only [hruns, hopen, hst, hrerun, hcur, hbusy, hk, Bool.not_true, Bool.false_eq_true, ne_eq, not_true_eq_false, or_self,
    Option.isSome_none, if_false] at hexec
  refine ⟨_, hexec, ?_⟩
  simp only [State.updBed, bed_setBed_same, true_and]
  exact ⟨performBed_retired s p b, rfl⟩

theorem blockStarts {r : Nat} (hruns : s.panRuns p = true) (hcur : (s.bed p b).cur = some k) (hdue : blockDue (s.bed p b) k i = true)
    (hr : r < k.blockRakes) :
    Completes (.blockStart p b i) s (fun t =>
      t.rake p b (i % k.resident * k.blockRakes + r)
          = startRake s k i (i % k.resident) r ((s.curPlan.map Plan.statusVa).getD 0) (s.rake p b (i % k.resident * k.blockRakes + r))
        ∧ (∃ y : Block, (t.bed p b).blocks = (s.bed p b).blocks ++ [y] ∧ y.index = i ∧ y.position = i % k.resident)
        ∧ t = { s with beds := t.beds, rakes := t.rakes }) := by
  obtain ⟨hframe, hrakes⟩ := startRakes s p b k i (i % k.resident) (i % k.resident * k.blockRakes)
    ((s.curPlan.map Plan.statusVa).getD 0) k.blockRakes
  have hexec : exec (.blockStart p b i) s = execBlockStart p b i s := rfl
  simp only [execBlockStart, hcur, hruns, hdue, Bool.not_true, Bool.false_eq_true, or_self, if_false] at hexec
  refine ⟨_, hexec, ?_, ?_, ?_⟩
  · exact (hrakes r).trans (if_pos hr)
  · refine ⟨{ index := i, position := i % k.resident,
              slots := (List.range k.blockRakes).map (fun r => i % k.resident * k.blockRakes + r),
              scratchAddr := k.scratchBase + i % k.resident * k.scratchPer, scratchLen := k.scratchPer, keyed := k.keyed }, ?_, rfl, rfl⟩
    rw [State.updBed, bed_setBed_same, hframe]
    rfl
  · generalize (List.range k.blockRakes).foldl _ s = t at hframe
    rw [hframe]
    rfl

theorem retireCheck_waits (hcur : (s.bed p b).cur = some k) (h : (s.bed p b).ended.length < k.blocks) : retireCheck s p b = s := by
  simp only [retireCheck, hcur, if_pos h]

theorem retireCheck_retires (hcur : (s.bed p b).cur = some k) (h : k.blocks ≤ (s.bed p b).ended.length) :
    ((retireCheck s p b).bed p b).cur = none ∧ ((retireCheck s p b).bed p b).retired = (s.bed p b).retired + 1
      ∧ ((retireCheck s p b).bed p b).blocks = (s.bed p b).blocks := by
  unfold retireCheck
  extract_lets d bad s1 s2
  simp only [d, hcur, if_neg (Nat.not_lt.mpr h)]
  have hs2 : s2.bed p b = s1.bed p b := by
    unfold s2
    split <;> rfl
  have hend := (SameKernels.beds (SameBeds.noteMargin s2 p)).trans (SameKernels.tideCheck (noteMargin s2 p)) p b
  rw [hend, hs2]
  simp only [s1, State.updBed, bed_setBed_same, and_self]

/-- A block that ends leaves its bed, and its kernel retires where it was the last. -/
theorem blockEnds (hx : (s.bed p b).block? i = some x) (hruns : s.panRuns p = true) (hended : ∀ r ∈ x.slots, (s.rake p b r).live = 0)
    (hidle : blockBusy s p b x = false) (hcur : (s.bed p b).cur = some k) :
    Completes (.blockEnd p b i) s (fun t =>
      (t.bed p b).blocks = (s.bed p b).blocks.filter (fun y => y.index ≠ i)
        ∧ ((s.bed p b).ended.length + 1 < k.blocks → (t.bed p b).ended = i :: (s.bed p b).ended ∧ (t.bed p b).cur = some k)
        ∧ (k.blocks ≤ (s.bed p b).ended.length + 1 → (t.bed p b).cur = none ∧ (t.bed p b).retired = (s.bed p b).retired + 1)) := by
  have hlive : x.slots.any (fun r => decide ((s.rake p b r).live ≠ 0)) = false := by
    rw [List.any_eq_false]
    intro r hr
    simp [hended r hr]
  have hexec : exec (.blockEnd p b i) s = execBlockEnd p b i s := rfl
  simp only [execBlockEnd, hx, hruns, hlive, hidle, Bool.not_true, Bool.or_self, Bool.false_eq_true, if_false] at hexec
  refine ⟨_, hexec, ?_⟩
  have hbed : (x.slots.foldl (fun s r => s.updRake p b r Rake.vacate) s).bed p b = s.bed p b := by
    rw [foldl_updRake_frame]
    rfl
  generalize x.slots.foldl (fun s r => s.updRake p b r Rake.vacate) s = u at hbed
  have hleft : (u.updBed p b (fun d => { d with blocks := d.blocks.filter (fun y => y.index ≠ i), ended := i :: d.ended })).bed p b
      = { s.bed p b with blocks := (s.bed p b).blocks.filter (fun y => y.index ≠ i), ended := i :: (s.bed p b).ended } := by
    rw [State.updBed, bed_setBed_same, hbed]
  generalize u.updBed p b (fun d => { d with blocks := d.blocks.filter (fun y => y.index ≠ i), ended := i :: d.ended }) = v at hleft
  by_cases hlast : (s.bed p b).ended.length + 1 < k.blocks
  · rw [retireCheck_waits (k := k) (by rw [hleft]; exact hcur) (by rw [hleft]; exact hlast)]
    beta_reduce
    rw [hleft]
    exact ⟨rfl, fun _ => ⟨rfl, hcur⟩, fun h => absurd hlast (Nat.not_lt.mpr h)⟩
  · obtain ⟨hnone, hretired, hblocks⟩ := retireCheck_retires (k := k) (s := v) (p := p) (b := b) (by rw [hleft]; exact hcur)
      (by rw [hleft]; exact Nat.not_lt.mp hlast)
    rw [hleft] at hretired hblocks
    exact ⟨hblocks, fun h => absurd h hlast, fun _ => ⟨hnone, hretired⟩⟩

end

/-! ### BARRIER_ORPHAN (R135) -/

/-- The wait that is orphaned takes its fault like an instruction that stands at it. -/
def waiting (p b i rakeIdx : Nat) (r : Rake) (waitedFor : Word) : Issue :=
  { a := { pan := p, bed := b, slot := 0, group := 0 }, rake := { home := some (i, rakeIdx) }, active := waitedFor,
    pc := r.pc ((lanesOf waitedFor).headD 0) }

theorem orphanRecord_eq (s : State) (p b i rakeIdx : Nat) (r : Rake) (arrived waitedFor : Word) :
    orphanRecord s p b i rakeIdx r arrived waitedFor
      = takeFault (waiting p b i rakeIdx r waitedFor) { code := fOrphan, pm := arrived } s := rfl

/-- What the fault of an orphaned wait leaves. -/
theorem orphanRecord_spec {s : State} {p b i : Nat} {x : Block} (hx : (s.bed p b).block? i = some x) (hfree : (s.bed p b).fValid = false)
    (rakeIdx : Nat) (r : Rake) (arrived waitedFor : Word) :
    let t := orphanRecord s p b i rakeIdx r arrived waitedFor
    (t.bed p b).failed = true ∧ (t.bed p b).curFailed = true ∧ (t.bed p b).fValid = true ∧ (t.bed p b).fCode = 5
      ∧ (t.bed p b).fBlock = i ∧ t.events.queue = s.events.queue ∧ t.events.held ≠ []
      ∧ t = { s with beds := t.beds, rakes := t.rakes, events := t.events, salter := { s.salter with movers := t.salter.movers } } := by
  obtain ⟨hrecord, -, hqueue, hheld, habort, -⟩ :=
    takeFault_faulted (waiting p b i rakeIdx r waitedFor) { code := fOrphan, pm := arrived } (s1 := s) (s := s) rfl
  obtain ⟨hvalid, hcode, -, hblock, -⟩ := hrecord hfree
  obtain ⟨hfailed, hcur, -⟩ := habort x hx
  rw [orphanRecord_eq]
  exact ⟨hfailed, hcur, hvalid, hcode, hblock, hqueue, hheld, takeFault_frame ..⟩

theorem block?_index {d : Bed} {i : Nat} {x : Block} (h : d.block? i = some x) : x.index = i := by
  simpa using List.find?_some h

/-- The orphaned wait of a block is one of the two that R135 names. -/
theorem exec_barrierOrphan {s : State} {p b i t0 : Nat} {w : Option Nat} {x : Block} {k : Kernel} (hx : (s.bed p b).block? i = some x)
    (hrun : (s.bed p b).run = 1) (hcur : (s.bed p b).cur = some k) (hwait : firstWait s p b x = some (t0, w))
    (hdue : orphanDue s k.watchdog (some t0) = true)
    (hsync : ∀ r ∈ x.slots, ∀ l, l < 32 → tget none (s.rake p b r).syncFrom l ≠ none → ∃ m, (s.rake p b r).thread l = .atSync m) :
    ∃ rakeIdx r arrived waitedFor, exec (.barrierOrphan p b i) s = .next (orphanRecord s p b i rakeIdx r arrived waitedFor) := by
  have hexec : exec (.barrierOrphan p b i) s = execBarrierOrphan p b i s := rfl
  have hindex := block?_index hx
  simp only [execBarrierOrphan, hx, hwait, hrun, hcur, Option.map_some, Option.getD_some, hdue, Bool.not_true, Bool.false_eq_true,
    ne_eq, not_true_eq_false, or_self, if_false] at hexec
  cases w with
  | none =>
    simp only [orphanBarrier, hindex] at hexec
    exact ⟨_, _, _, _, hexec⟩
  | some j =>
    obtain ⟨hmem, hfirst⟩ := firstWait_sync hwait
    obtain ⟨l, hl, hfrom⟩ := earliestSync_some hfirst
    have hfound : (laneList.find? (fun l => decide (tget none (s.rake p b (x.slots.getD j 0)).syncFrom l ≠ none)
        && decide (tget none (s.rake p b (x.slots.getD j 0)).syncFrom l = (s.rake p b (x.slots.getD j 0)).earliestSync))).isSome := by
      rw [List.find?_isSome]
      exact ⟨l, List.mem_range.mpr hl, by rw [hfrom, hfirst]; simp⟩
    obtain ⟨n, hn⟩ := Option.isSome_iff_exists.mp hfound
    obtain ⟨m, hthread⟩ := hsync _ hmem n (List.mem_range.mp (List.mem_of_find?_eq_some hn)) (by
      have := List.find?_some hn
      simp only [Bool.and_eq_true, decide_eq_true_eq] at this
      exact this.1)
    simp only [orphanSync, hn, hthread, hindex] at hexec
    exact ⟨_, _, _, _, hexec⟩

/-! ### GRAIN.RESEED and its completion (R169) -/

theorem mem_foldl {β : Type} {f : State → β → State} (h : ∀ s x, (f s x).mem = s.mem) (l : List β) (s : State) :
    (l.foldl f s).mem = s.mem :=
  List.foldlRecOn (motive := fun t : State => t.mem = s.mem) l f rfl (fun t ht x _ => (h t x).trans ht)

theorem mem_updRakes (g : Nat → Rake → Rake) (p b : Nat) (l : List Nat) (s : State) :
    (l.foldl (fun s r => s.updRake p b r (g r)) s).mem = s.mem := mem_foldl (fun t r => State.updRake_mem t p b r (g r)) l s

theorem mem_reseedBed (s : State) (p b : Nat) : (reseedBed s p b).mem = s.mem := by
  unfold reseedBed
  generalize List.range 48 = l
  extract_lets seed s1
  rw [State.updBed_mem]
  exact mem_updRakes (fun r k => k.setLanes (keyedRake seed 0xFFFF (b * 48 + r))) p b l s

theorem mem_reseedPan (s : State) (p : Nat) : (reseedPan s p).mem = s.mem := mem_foldl (fun t b => mem_reseedBed t p b) _ s

theorem startKernel_keeps (s : State) (p b : Nat) : (startKernel s p b).mem = s.mem ∧ (startKernel s p b).pans = s.pans := by
  unfold startKernel
  simp only
  split
  · exact ⟨rfl, rfl⟩
  · split <;> exact ⟨rfl, rfl⟩

theorem startKernels_keep (p : Nat) (s : State) :
    (beds16.foldl (fun s b => startKernel s p b) s).mem = s.mem ∧ (beds16.foldl (fun s b => startKernel s p b) s).pans = s.pans :=
  List.foldlRecOn (motive := fun t : State => t.mem = s.mem ∧ t.pans = s.pans) _ _ ⟨rfl, rfl⟩
    (fun t ht b _ => ⟨(startKernel_keeps t p b).1.trans ht.1, (startKernel_keeps t p b).2.trans ht.2⟩)

/-- Settles O7: the equation of each event, and what the end of a step leaves of the beds. -/
theorem kernelsAndBlocksStartAndEnd : Obligations.KernelsAndBlocksStartAndEnd := by
  refine ⟨?_, ?_, ?_, ?_, ?_, ?_, ?_⟩
  · intro s p b k hruns hopen hst hrerun hcur hbusy hk
    exact kernelStarts hruns hopen hst hrerun hcur hbusy hk
  · intro s p b i r k hruns hcur hdue hr hslot
    obtain ⟨t, hexec, hrake, hblock, hframe⟩ := blockStarts hruns hcur hdue hr
    refine ⟨t, hexec, ?_⟩
    simp only [hrake, sget_startRake]
    refine ⟨rfl, fun l hl => ⟨thread_startRake _ _ _ _ _ _ _ hl, pc_startRake _ _ _ _ _ _ _ hl, rfl⟩, fun l n => rfl, fun n hn => if_neg hn, rfl, rfl, rfl, rfl, rfl, rfl,
      rfl, rfl, rfl, fun n hn => List.getD_eq_default _ _ hn, hblock, hframe⟩
  · intro s p b i x k hx hruns hended hidle hcur
    exact blockEnds hx hruns hended hidle hcur
  · intro s p b i t0 w x k hx hrun hcur hwait hdue hfree hsync
    obtain ⟨rakeIdx, r, arrived, waitedFor, hexec⟩ := exec_barrierOrphan hx hrun hcur hwait hdue hsync
    exact ⟨_, hexec, orphanRecord_spec hx hfree rakeIdx r arrived waitedFor⟩
  · intro s p b hp hb hcur
    have hbusy : beds16.any (fun b => (s.bed p b).cur.isSome) = true := List.any_eq_true.mpr ⟨b, List.mem_range.mpr hb, hcur⟩
    have hexec : exec (.grainReseed p) s = execGrainReseed p s := rfl
    simp only [execGrainReseed, State.hasPan, hp, decide_true, Bool.not_true, Bool.false_eq_true, if_false, hbusy, if_true] at hexec
    exact ⟨_, hexec, by simp [State.updPan], rfl⟩
  · intro s p hp hidle
    have hnone : beds16.any (fun b => (s.bed p b).cur.isSome) = false := by
      rw [List.any_eq_false]
      intro b hb
      simp [hidle b (List.mem_range.mp hb)]
    have hexec : exec (.grainReseed p) s = execGrainReseed p s := rfl
    simp only [execGrainReseed, State.hasPan, hp, decide_true, Bool.not_true, Bool.false_eq_true, if_false, hnone] at hexec
    exact ⟨_, hexec, by rw [pan_updPan, if_pos rfl], (State.updPan_mem ..).trans (mem_reseedPan s p)⟩
  · intro s p hbusy
    have hexec : exec (.reseedComplete p) s = execReseedComplete p s := rfl
    simp only [execReseedComplete, hbusy, Bool.not_true, Bool.false_eq_true, if_false] at hexec
    obtain ⟨hmem, hpans⟩ := startKernels_keep p (s.updPan p (fun x => { x with grainBusy := false }))
    refine ⟨_, hexec, ?_, hmem⟩
    rw [State.pan, hpans]
    simp [State.updPan, State.setPan]

end Sys2Proof.KernelRuns
end

section
/-!
PROOFS. Waiting threads (R126, R127, R134): threads set in turn, the end of a wait at a SYNC.RAKE, and the release of a barrier. -/

namespace Sys2Proof.Waits

open Sys2Proof.Machine Sys2Proof.Safety Sys2Proof.Laws Sys2Proof.Aborts Sys2Proof.Branches

/-! ### Threads set in turn -/

section

variable {f : Rake → Nat → Rake} {x : Thread}

/-- The threads of a list of lanes, each set to the same state. -/
theorem thread_fold (hf : ∀ r l k, (f r l).thread k = if k = l then x else r.thread k) (ls : List Nat) (r : Rake) (k : Nat) :
    (ls.foldl f r).thread k = if k ∈ ls then x else r.thread k := by
  induction ls generalizing r with
  | nil => simp
  | cons l ls ih =>
    rw [List.foldl_cons, ih, hf]
    by_cases hk : k = l <;> by_cases hmem : k ∈ ls <;> simp [hk, hmem]

/-- What each step of a fold keeps, the fold keeps. -/
theorem fold_keeps {α β : Type} {g : Rake → α → Rake} (π : Rake → β) (hg : ∀ r l, π (g r l) = π r) (ls : List α) (r : Rake) :
    π (ls.foldl g r) = π r :=
  List.foldlRecOn (motive := fun u : Rake => π u = π r) ls g rfl (fun u hu l _ => (hg u l).trans hu)

end

/-- Lanes of a mask whose threads all become x. -/
theorem thread_setThreads (m : Word) (x : Thread) (r : Rake) {k : Nat} (h : k < 32) :
    ((lanesOf m).foldl (fun r l => r.setThread l x) r).thread k = if lane m k then x else r.thread k := by
  rw [thread_fold (fun r l k => thread_setThread r l k x)]
  simp [mem_lanesOf, h]

theorem setThreads_frame (ls : List Nat) (x : Thread) (r : Rake) :
    ls.foldl (fun r l => r.setThread l x) r = { r with threads := (ls.foldl (fun r l => r.setThread l x) r).threads } := by
  induction ls generalizing r with
  | nil => rfl
  | cons l ls ih => rw [List.foldl_cons, ih]; rfl

/-! ### The end of a wait at a SYNC.RAKE (R126, R127) -/

section

variable (r : Rake) (m w : Word) (pc : Dword)

/-- The threads of a wait that is over, with those that stand beside them. -/
def syncGroup : Word := (r.live &&& m) ||| r.besides (r.live &&& m)

/-- A thread goes on after a wait. -/
def wakeThread (r : Rake) (l : Nat) : Rake := { r.setThread l .running with syncFrom := tput none r.syncFrom l none }

/-- The threads of a mask form one group and go on at a program counter. -/
def endWait : Rake := (((lanesOf w).foldl wakeThread r).jump w pc).regroup w r.freshGroup

theorem wakeThreads_frame (ls : List Nat) :
    let r' := ls.foldl wakeThread r
    r' = { r with threads := r'.threads, syncFrom := r'.syncFrom } := by
  induction ls generalizing r with
  | nil => rfl
  | cons l ls ih => rw [List.foldl_cons, ih]; rfl

theorem endWait_frame :
    let r' := endWait r w pc
    r' = { r with threads := r'.threads, syncFrom := r'.syncFrom, pcs := r'.pcs, groups := r'.groups } := by
  unfold endWait
  rw [regroup_frame, jump_frame, wakeThreads_frame]

variable {r m w pc} {k l : Nat}

theorem thread_endWait (hk : k < 32) : (endWait r w pc).thread k = if lane w k then .running else r.thread k := by
  have hkeep : (endWait r w pc).thread k = ((lanesOf w).foldl wakeThread r).thread k := by
    unfold endWait
    rw [regroup_frame, jump_frame]
    rfl
  rw [hkeep, thread_fold (f := wakeThread) (fun r l k => thread_setThread r l k .running)]
  simp [mem_lanesOf, hk]

theorem pc_endWait (hk : k < 32) : (endWait r w pc).pc k = if lane w k then pc else r.pc k := by
  have hkeep : ((lanesOf w).foldl wakeThread r).pc k = r.pc k := by
    rw [wakeThreads_frame]
    rfl
  rw [endWait, pc_regroup, pc_jump _ _ _ _ hk, hkeep]

theorem groupOf_endWait (hk : k < 32) : (endWait r w pc).groupOf k = if lane w k then r.freshGroup else r.groupOf k := by
  have hkeep : ((lanesOf w).foldl wakeThread r).groupOf k = r.groupOf k := by
    rw [wakeThreads_frame]
    rfl
  rw [endWait, groupOf_regroup _ _ _ hk, groupOf_jump, hkeep]

theorem syncLane_met (hl : r.thread l = .atSync m) (hmet : syncMet r m (r.pc l) = true) :
    syncLane r l = endWait r (syncGroup r m) (r.pc l + 8) := by
  simp only [syncLane, hl, hmet, if_true]
  rfl

theorem syncLane_unmet (h : ∀ m, r.thread l = .atSync m → syncMet r m (r.pc l) = false) : syncLane r l = r := by
  unfold syncLane
  split
  · rename_i m hm
    rw [h m hm]
    rfl
  · rfl

/-- What happens at a lane: nothing, or the wait it stands in ends. -/
theorem syncLane_cases (r : Rake) (l : Nat) : syncLane r l = r
    ∨ ∃ m, syncMet r m (r.pc l) = true ∧ syncLane r l = endWait r (syncGroup r m) (r.pc l + 8) := by
  by_cases h : ∃ m, r.thread l = .atSync m ∧ syncMet r m (r.pc l) = true
  · obtain ⟨m, hl, hmet⟩ := h
    exact .inr ⟨m, hmet, syncLane_met hl hmet⟩
  · exact .inl (syncLane_unmet (fun m hl => Bool.eq_false_iff.mpr (fun hmet => h ⟨m, hl, hmet⟩)))

theorem syncMet_iff : syncMet r m pc = true
    ↔ ∀ k, k < 32 → lane r.live k = true → lane m k = true → r.thread k = .atSync m ∧ r.pc k = pc := by
  simp only [syncMet, List.all_eq_true, mem_lanesOf, Bool.and_eq_true, decide_eq_true_eq, lane, BitVec.getLsbD_and]
  exact ⟨fun h k hk hl hm => h k ⟨hk, hl, hm⟩, fun h k hk => h k hk.1 hk.2.1 hk.2.2⟩

theorem syncMet_eq_false : syncMet r m pc = false
    ↔ ∃ k, k < 32 ∧ lane r.live k = true ∧ lane m k = true ∧ ¬ (r.thread k = .atSync m ∧ r.pc k = pc) := by
  rw [← Bool.not_eq_true, syncMet_iff]
  simp only [not_forall, exists_prop]

theorem lane_besides (hk : k < 32) : lane (r.besides w) k = true
    ↔ r.thread k = .beside ∧ ∃ j, j < 32 ∧ lane w j = true ∧ r.groupOf j = r.groupOf k := by
  rw [Rake.besides, lane_maskOf _ _ hk]
  simp [mem_lanesOf, and_assoc]

theorem lane_syncGroup : lane (syncGroup r m) k = true
    ↔ (lane r.live k = true ∧ lane m k = true) ∨ lane (r.besides (r.live &&& m)) k = true := by
  simp [syncGroup, lane]

/-- A thread that does not wait keeps its state and its program counter when a wait of the rake ends. -/
theorem settled_syncLane (hk : k < 32) (hsync : ∀ m, r.thread k ≠ .atSync m) (hbeside : r.thread k ≠ .beside) :
    (syncLane r l).thread k = r.thread k ∧ (syncLane r l).pc k = r.pc k := by
  obtain h | ⟨m, hmet, h⟩ := syncLane_cases r l
  · rw [h]
    exact ⟨rfl, rfl⟩
  · have hout : ¬ lane (syncGroup r m) k = true := by
      rw [lane_syncGroup, lane_besides hk]
      rintro (⟨hlive, hm⟩ | ⟨hb, -⟩)
      · exact hsync m (syncMet_iff.mp hmet k hk hlive hm).1
      · exact hbeside hb
    rw [h, thread_endWait hk, pc_endWait hk, if_neg hout, if_neg hout]
    exact ⟨rfl, rfl⟩

theorem settled_syncAll (hk : k < 32) (hsync : ∀ m, r.thread k ≠ .atSync m) (hbeside : r.thread k ≠ .beside) :
    r.syncAll.thread k = r.thread k ∧ r.syncAll.pc k = r.pc k := by
  refine List.foldlRecOn (motive := fun u : Rake => u.thread k = r.thread k ∧ u.pc k = r.pc k) _ _ ⟨rfl, rfl⟩ (fun u hu l _ => ?_)
  obtain ⟨hthread, hpc⟩ := hu
  obtain ⟨h1, h2⟩ := settled_syncLane (r := u) (l := l) hk (by rwa [hthread]) (by rwa [hthread])
  exact ⟨h1.trans hthread, h2.trans hpc⟩

theorem syncLane_frame (r : Rake) (l : Nat) :
    let r' := syncLane r l
    r' = { r with threads := r'.threads, syncFrom := r'.syncFrom, pcs := r'.pcs, groups := r'.groups } := by
  obtain h | ⟨m, -, h⟩ := syncLane_cases r l
  · rw [h]
  · rw [h]
    exact endWait_frame ..

theorem syncAll_registers (r : Rake) : (r.syncAll.v, r.syncAll.s, r.syncAll.p) = (r.v, r.s, r.p) :=
  fold_keeps (fun u : Rake => (u.v, u.s, u.p)) (fun u l => by rw [syncLane_frame]) _ r

/-- Where no wait is over, nothing happens. -/
theorem syncAll_unmet (h : ∀ l k, l < 32 → r.thread l = .atSync k → syncMet r k (r.pc l) = false) : r.syncAll = r :=
  foldl_eq_self _ _ (fun l hl => syncLane_unmet (fun k hk => h l k (List.mem_range.mp hl) hk))

theorem lane_live_endWait (hk : k < 32) (hlive : lane r.live k = true) : lane (endWait r w pc).live k = true := by
  rw [lane_live _ hk] at hlive ⊢
  rw [thread_endWait hk]
  split
  · rfl
  · exact hlive

/-- A wait that ends leaves every other wait as it was: not over. -/
theorem syncLane_endWait (hsome : ∃ j, j < 32 ∧ lane r.live j = true ∧ lane m j = true)
    (hothers : ∀ l k, l < 32 → r.thread l = .atSync k → k ≠ m ∨ r.pc l ≠ pc → syncMet r k (r.pc l) = false) (hl : l < 32) :
    syncLane (endWait r (syncGroup r m) (pc + 8)) l = endWait r (syncGroup r m) (pc + 8) := by
  refine syncLane_unmet (fun k hk => ?_)
  have hout : ¬ lane (syncGroup r m) l = true := by
    intro hin
    rw [thread_endWait hl, if_pos hin] at hk
    exact absurd hk (by simp)
  rw [thread_endWait hl, if_neg hout] at hk
  rw [pc_endWait hl, if_neg hout, syncMet_eq_false]
  by_cases hsame : k = m ∧ r.pc l = pc
  · obtain ⟨rfl, -⟩ := hsame
    obtain ⟨j, hj, hlive, hm⟩ := hsome
    refine ⟨j, hj, lane_live_endWait hj hlive, hm, ?_⟩
    rw [thread_endWait hj, if_pos ((lane_syncGroup).mpr (.inl ⟨hlive, hm⟩))]
    simp
  · obtain ⟨j, hj, hlive, hkj, hnot⟩ := syncMet_eq_false.mp (hothers l k hl hk (by tauto))
    refine ⟨j, hj, lane_live_endWait hj hlive, hkj, ?_⟩
    rw [thread_endWait hj, pc_endWait hj]
    split
    · simp
    · exact hnot

/-- Where one wait alone is over, its end is all that happens. -/
theorem syncAll_met (hmet : syncMet r m pc = true) (hsome : ∃ j, j < 32 ∧ lane r.live j = true ∧ lane m j = true)
    (hothers : ∀ l k, l < 32 → r.thread l = .atSync k → k ≠ m ∨ r.pc l ≠ pc → syncMet r k (r.pc l) = false) :
    r.syncAll = endWait r (syncGroup r m) (pc + 8) := by
  have hfold : ∀ ls : List Nat, (∀ l ∈ ls, l < 32) → (∃ l ∈ ls, r.thread l = .atSync m ∧ r.pc l = pc) →
      ls.foldl syncLane r = endWait r (syncGroup r m) (pc + 8) := by
    intro ls
    induction ls with
    | nil => simp
    | cons l ls ih =>
      intro hlt hex
      rw [List.foldl_cons]
      by_cases hl : r.thread l = .atSync m ∧ r.pc l = pc
      · obtain ⟨hthread, rfl⟩ := hl
        rw [syncLane_met hthread hmet]
        exact foldl_eq_self _ _ (fun j hj => syncLane_endWait hsome hothers (hlt j (List.mem_cons_of_mem _ hj)))
      · rw [syncLane_unmet (fun k hk => hothers l k (hlt l List.mem_cons_self) hk (by rw [← not_and_or]; rintro ⟨rfl, h⟩; exact hl ⟨hk, h⟩))]
        refine ih (fun j hj => hlt j (List.mem_cons_of_mem _ hj)) ?_
        obtain ⟨j, hj, hwait⟩ := hex
        exact ⟨j, (List.mem_cons.mp hj).resolve_left (by rintro rfl; exact hl hwait), hwait⟩
  obtain ⟨j, hj, hlive, hm⟩ := hsome
  exact hfold laneList (fun l hl => List.mem_range.mp hl) ⟨j, List.mem_range.mpr hj, syncMet_iff.mp hmet j hj hlive hm⟩

end

/-! ### The group of a SYNC.RAKE -/

section

variable {c : Issue} {g m : Word} {now k l : Nat}

/-- A thread begins to wait. -/
def beginWait (m : Word) (t0 : Nat) (r : Rake) (l : Nat) : Rake :=
  { r.setThread l (.atSync m) with syncFrom := tput none r.syncFrom l (some t0) }

theorem beginWaits_frame (m : Word) (t0 : Nat) (ls : List Nat) (r : Rake) :
    let r' := ls.foldl (beginWait m t0) r
    r' = { r with threads := r'.threads, syncFrom := r'.syncFrom } := by
  induction ls generalizing r with
  | nil => rfl
  | cons l ls ih => rw [List.foldl_cons, ih]; rfl

theorem waitSync_frame (r : Rake) (c : Issue) (g m : Word) (now : Nat) :
    let r' := r.waitSync c g m now
    r' = { r with threads := r'.threads, syncFrom := r'.syncFrom } := by
  show (let r' := (lanesOf (c.active &&& ~~~g)).foldl (fun r l => r.setThread l .beside)
          ((lanesOf g).foldl (beginWait m ((r.firstSync m c.pc).getD now)) r)
        r' = { r with threads := r'.threads, syncFrom := r'.syncFrom })
  rw [setThreads_frame, beginWaits_frame]

theorem thread_waitSync (r : Rake) (hk : k < 32) : (r.waitSync c g m now).thread k
    = if lane c.active k && !lane g k then .beside else if lane g k then .atSync m else r.thread k := by
  show ((lanesOf (c.active &&& ~~~g)).foldl (fun r l => r.setThread l .beside)
    ((lanesOf g).foldl (beginWait m ((r.firstSync m c.pc).getD now)) r)).thread k = _
  rw [thread_setThreads _ _ _ hk, lane_rest hk, thread_fold (f := beginWait m _) (fun r l k => thread_setThread r l k (.atSync m))]
  simp [mem_lanesOf, hk]

theorem pc_waitSync (r : Rake) (k : Nat) : (r.waitSync c g m now).pc k = r.pc k := by
  rw [waitSync_frame]
  rfl

theorem groupOf_waitSync (r : Rake) (k : Nat) : (r.waitSync c g m now).groupOf k = r.groupOf k := by
  rw [waitSync_frame]
  rfl

/-- The threads of a group run before they wait, so the same threads are live. -/
theorem lane_live_waitSync {r : Rake} (hrun : ∀ l, l < 32 → lane c.active l = true → r.thread l = .running)
    (hg : ∀ l, l < 32 → lane g l = true → lane c.active l = true) (hk : k < 32) :
    lane (r.waitSync c g m now).live k = lane r.live k := by
  rw [lane_live _ hk, lane_live _ hk, thread_waitSync r hk]
  by_cases ha : lane c.active k = true
  · rw [hrun k hk ha]
    cases lane g k <;> simp [ha, Thread.live]
  · have hgk : lane g k = false := Bool.eq_false_iff.mpr (fun h => ha (hg k hk h))
    simp [ha, hgk]

/-- A wait of the rake at another mask or instruction is not over when a group begins to wait. -/
theorem others_waitSync {r : Rake} (hrun : ∀ l, l < 32 → lane c.active l = true → r.thread l = .running)
    (hg : ∀ l, l < 32 → lane g l = true → lane c.active l = true) (hpc : ∀ l, l < 32 → lane c.active l = true → r.pc l = c.pc)
    (hothers : ∀ l k, l < 32 → r.thread l = .atSync k → k ≠ m ∨ r.pc l ≠ c.pc → syncMet r k (r.pc l) = false) {k : Word}
    (hl : l < 32) (hwait : (r.waitSync c g m now).thread l = .atSync k) (hne : k ≠ m ∨ (r.waitSync c g m now).pc l ≠ c.pc) :
    syncMet (r.waitSync c g m now) k ((r.waitSync c g m now).pc l) = false := by
  rw [pc_waitSync] at hne ⊢
  have hgl : lane g l = false := by
    refine Bool.eq_false_iff.mpr (fun h => ?_)
    rw [thread_waitSync r hl, h, hg l hl h] at hwait
    simp only [Bool.not_true, Bool.and_false, Bool.false_eq_true, if_false, if_true, Thread.atSync.injEq] at hwait
    exact hne.elim (fun hk => hk hwait.symm) (fun hp => hp (hpc l hl (hg l hl h)))
  have hthread : r.thread l = .atSync k := by
    rw [thread_waitSync r hl, hgl] at hwait
    by_cases ha : lane c.active l = true
    · simp [ha] at hwait
    · simpa [ha] using hwait
  obtain ⟨j, hj, hlive, hkj, hnot⟩ := syncMet_eq_false.mp (hothers l k hl hthread hne)
  refine syncMet_eq_false.mpr ⟨j, hj, (lane_live_waitSync hrun hg hj).trans hlive, hkj, ?_⟩
  rw [thread_waitSync r hj, pc_waitSync]
  rintro ⟨hj1, hj2⟩
  by_cases hgj : lane g j = true
  · have haj := hg j hj hgj
    rw [hgj, haj] at hj1
    simp only [Bool.not_true, Bool.and_false, Bool.false_eq_true, if_false, if_true, Thread.atSync.injEq] at hj1
    exact hne.elim (fun hk => hk hj1.symm) (fun hp => hp (hj2.symm.trans (hpc j hj haj)))
  · by_cases ha : lane c.active j = true
    · simp [ha, hgj] at hj1
    · exact hnot ⟨by simpa [ha, hgj] using hj1, hj2⟩

end

/-! ### The release of a barrier (R134) -/

section

variable {r : Rake} {k l : Nat}

/-- A thread at the barrier goes on. -/
def passBarrier (r : Rake) (l : Nat) : Rake := if r.thread l = .atBarrier then (r.setThread l .running).setPc l (r.pc l + 8) else r

theorem thread_passBarrier (r : Rake) (l k : Nat) : (passBarrier r l).thread k
    = if k = l ∧ r.thread k = .atBarrier then .running else r.thread k := by
  unfold passBarrier
  by_cases hl : r.thread l = .atBarrier
  · rw [if_pos hl, show ((r.setThread l .running).setPc l (r.pc l + 8)).thread k = (r.setThread l .running).thread k from rfl,
      thread_setThread]
    by_cases hk : k = l
    · simp [hk, hl]
    · simp [hk]
  · rw [if_neg hl]
    by_cases hk : k = l
    · simp [hk, hl]
    · simp [hk]

theorem pc_passBarrier (r : Rake) (l k : Nat) : (passBarrier r l).pc k
    = if k = l ∧ r.thread k = .atBarrier then r.pc k + 8 else r.pc k := by
  have hset : ∀ (u : Rake) (w : Dword), (u.setPc l w).pc k = if k = l then w else u.pc k := fun u w => tget_tput _ _ _ _
  unfold passBarrier
  by_cases hl : r.thread l = .atBarrier
  · rw [if_pos hl, hset, pc_setThread]
    by_cases hk : k = l
    · simp [hk, hl]
    · simp [hk]
  · rw [if_neg hl]
    by_cases hk : k = l
    · simp [hk, hl]
    · simp [hk]

theorem passBarriers (ls : List Nat) (r : Rake) (k : Nat) :
    (ls.foldl passBarrier r).thread k = (if k ∈ ls ∧ r.thread k = .atBarrier then .running else r.thread k)
      ∧ (ls.foldl passBarrier r).pc k = if k ∈ ls ∧ r.thread k = .atBarrier then r.pc k + 8 else r.pc k := by
  induction ls generalizing r with
  | nil => simp
  | cons l ls ih =>
    obtain ⟨hthread, hpc⟩ := ih (passBarrier r l)
    rw [List.foldl_cons, hthread, hpc, thread_passBarrier, pc_passBarrier]
    by_cases hk : k = l <;> by_cases hmem : k ∈ ls <;> by_cases hbar : r.thread k = .atBarrier <;> simp [hk, hmem, hbar]
    all_goals simp_all

theorem release_eq (r : Rake) : r.release = laneList.foldl passBarrier r := rfl

theorem thread_release (hk : k < 32) : r.release.thread k = if r.thread k = .atBarrier then .running else r.thread k := by
  rw [release_eq, (passBarriers laneList r k).1]
  simp [laneList, hk]

theorem pc_release (hk : k < 32) : r.release.pc k = if r.thread k = .atBarrier then r.pc k + 8 else r.pc k := by
  rw [release_eq, (passBarriers laneList r k).2]
  simp [laneList, hk]

theorem release_frame (r : Rake) : r.release = { r with threads := r.release.threads, pcs := r.release.pcs } := by
  refine List.foldlRecOn (motive := fun u : Rake => u = { r with threads := u.threads, pcs := u.pcs }) _ _ rfl (fun u hu l _ => ?_)
  split
  · rw [hu]
    rfl
  · exact hu

theorem release_idem (r : Rake) : r.release.release = r.release := by
  refine foldl_eq_self _ _ (fun l hl => if_neg ?_)
  rw [thread_release (List.mem_range.mp hl)]
  split
  · simp
  · assumption

end

section

variable (s : State) (p b i : Nat)

/-- A block set in its bed is found there. -/
theorem block?_setBlock {d : Bed} {x y : Block} (h : d.block? i = some x) (hy : y.index = i) : (d.setBlock y).block? i = some y := by
  unfold Bed.block? at h ⊢
  have hsame : (fun z : Block => decide ((if z.index = y.index then y else z).index = i)) = fun z => decide (z.index = i) := by
    funext z
    split
    · rename_i hz
      rw [hz]
    · rfl
  rw [Bed.setBlock, List.find?_map]
  simp only [Function.comp_def, hsame, h, Option.map_some, Option.some.injEq]
  exact if_pos ((by simpa using List.find?_some h : x.index = i).trans hy.symm)

theorem releaseBarrier_frame (x : Block) :
    let t := releaseBarrier s p b x
    t = { s with rakes := t.rakes, beds := t.beds } := by
  unfold releaseBarrier
  rw [foldl_updRake_frame]
  rfl

theorem rake_releaseBarrier (x : Block) (q k j : Nat) : (releaseBarrier s p b x).rake q k j
    = if rakeKey q k j ∈ x.slots.map (rakeKey p b) then (s.rake q k j).release else s.rake q k j :=
  rake_foldl_updRake release_idem x.slots s q k j

theorem bed_releaseBarrier (x : Block) : (releaseBarrier s p b x).bed p b
    = (s.bed p b).setBlock { x with generation := x.generation + 1, waitFrom := none, ctxWait := [], ctxMet := false } := by
  unfold releaseBarrier
  rw [State.updBed, bed_setBed_same, foldl_updRake_frame]
  rfl

/-- A barrier that may be met: nothing happens, a context instruction goes on to wait, or the arrived threads go on. -/
theorem meetBarrier_cases : meetBarrier s p b i = s
    ∨ ∃ x, (s.bed p b).block? i = some x ∧ ((∃ y, meetBarrier s p b i = s.updBed p b (fun d => d.setBlock y))
      ∨ meetBarrier s p b i = releaseBarrier s p b x) := by
  unfold meetBarrier
  cases hx : (s.bed p b).block? i with
  | none => exact .inl rfl
  | some x =>
    simp only
    split
    · exact .inl rfl
    split
    · exact .inr ⟨x, rfl, .inl ⟨_, rfl⟩⟩
    · exact .inr ⟨x, rfl, .inr rfl⟩

theorem meetBarrier_frame :
    let t := meetBarrier s p b i
    t = { s with rakes := t.rakes, beds := t.beds } := by
  obtain h | ⟨x, -, ⟨y, h⟩ | h⟩ := meetBarrier_cases s p b i
  · rw [h]
  · rw [h]
    rfl
  · rw [h]
    exact releaseBarrier_frame s p b x

/-- A rake after a barrier that may be met: its arrived threads have gone on, or nothing of it has changed. -/
theorem rake_meetBarrier (q k j : Nat) : (meetBarrier s p b i).rake q k j = s.rake q k j
    ∨ ∃ x, (s.bed p b).block? i = some x ∧ rakeKey q k j ∈ x.slots.map (rakeKey p b)
      ∧ (meetBarrier s p b i).rake q k j = (s.rake q k j).release := by
  obtain h | ⟨x, hx, ⟨y, h⟩ | h⟩ := meetBarrier_cases s p b i
  · exact .inl (by rw [h])
  · exact .inl (by rw [h]; rfl)
  · rw [h, rake_releaseBarrier]
    by_cases hmem : rakeKey q k j ∈ x.slots.map (rakeKey p b)
    · exact .inr ⟨x, hx, hmem, if_pos hmem⟩
    · exact .inl (if_neg hmem)

/-- A barrier is met where some thread has arrived and every live one. -/
theorem barrierMet_iff {s : State} {p b : Nat} {x : Block} : barrierMet s p b x = true
    ↔ (∃ j ∈ x.slots, ∃ l, l < 32 ∧ (s.rake p b j).thread l = .atBarrier)
      ∧ ∀ j ∈ x.slots, ∀ l, l < 32 → ((s.rake p b j).thread l).live = true → (s.rake p b j).thread l = .atBarrier := by
  simp only [barrierMet, Bool.and_eq_true, List.any_eq_true, List.all_eq_true, List.mem_flatMap, List.mem_map, Bool.or_eq_true,
    Bool.not_eq_true', decide_eq_true_eq, laneList, List.mem_range]
  constructor
  · rintro ⟨⟨t, ⟨j, hj, l, hl, rfl⟩, ht⟩, hall⟩
    refine ⟨⟨j, hj, l, hl, ht⟩, fun j hj l hl hlive => (hall _ ⟨j, hj, l, hl, rfl⟩).resolve_left (by simp [hlive])⟩
  · rintro ⟨⟨j, hj, l, hl, ht⟩, hall⟩
    refine ⟨⟨_, ⟨j, hj, l, hl, rfl⟩, ht⟩, ?_⟩
    rintro t ⟨j, hj, l, hl, rfl⟩
    by_cases hlive : ((s.rake p b j).thread l).live = true
    · exact .inr (hall j hj l hl hlive)
    · exact .inl (by simpa using hlive)

end

end Sys2Proof.Waits
end

section
/-!
PROOFS. SYNC.RAKE, BAR.BLOCK, EXIT, FENCE, TRAP and NOP (R118, R125 to R127, R134 to R137, R213, R214). -/

namespace Sys2Proof.Waits

open Sys2Proof.Machine Sys2Proof.Safety Sys2Proof.Laws Sys2Proof.Aborts Sys2Proof.Branches

variable {a : At} {s s1 : State} {c : Issue} {i : Instr} {f : CFmt}

/-! ### A group that only goes on -/

theorem completes_next {e : Issue → State → Except BedFault State} (hx : exec i s = go (bedNext a s e)) (h : Ready a s c s1)
    (he : e c s1 = .ok s1) :
    Completes i s (fun t => rakeAt a t = { c.rake with pcs := (rakeAt a t).pcs } ∧ NextPc c (rakeAt a t) ∧ OnlyRake a s1 t) := by
  obtain ⟨ha, hr⟩ := ready_rake h
  obtain ⟨hrake, honly⟩ := advance_only (s := s1) ha hr
  refine ⟨_, hx.trans (congrArg go (bedNext_ok h he)), ?_, ?_, honly⟩ <;> rw [hrake]
  · exact jump_frame ..
  · exact nextPc_jump c _ rfl

theorem completes_advance {e : Issue → State → Except BedFault State} (hx : exec i s = go (bedIssue a s e)) (h : Ready a s c s1)
    (he : e c s1 = .ok (advance c s1)) :
    Completes i s (fun t => rakeAt a t = { c.rake with pcs := (rakeAt a t).pcs } ∧ NextPc c (rakeAt a t) ∧ OnlyRake a s1 t) := by
  obtain ⟨ha, hr⟩ := ready_rake h
  obtain ⟨hrake, honly⟩ := advance_only (s := s1) ha hr
  refine ⟨_, hx.trans (congrArg go (bedIssue_ok h he)), ?_, ?_, honly⟩ <;> rw [hrake]
  · exact jump_frame ..
  · exact nextPc_jump c _ rfl

/-! ### EXIT -/

/-- The rake after EXIT, before the waits that its threads leave end. -/
def exitRake (c : Issue) (m : Word) : Rake :=
  (lanesOf m).foldl (fun r l => r.setThread l .exited) (c.rake.jump (c.active &&& ~~~m) (c.pc + 8))

theorem exitRake_frame (c : Issue) (m : Word) :
    exitRake c m = { c.rake with threads := (exitRake c m).threads, pcs := (exitRake c m).pcs } := by
  unfold exitRake
  rw [setThreads_frame, jump_frame]

theorem thread_exitRake (c : Issue) (m : Word) {l : Nat} (h : l < 32) :
    (exitRake c m).thread l = if lane m l then .exited else c.rake.thread l := by
  rw [exitRake, thread_setThreads _ _ _ h, jump_frame]
  rfl

theorem pc_exitRake (c : Issue) (m : Word) {l : Nat} (h : l < 32) :
    (exitRake c m).pc l = if lane c.active l && !lane m l then c.pc + 8 else c.rake.pc l := by
  have hkeep : (exitRake c m).pc l = (c.rake.jump (c.active &&& ~~~m) (c.pc + 8)).pc l := by
    rw [exitRake, setThreads_frame]
    rfl
  rw [hkeep, pc_jump _ _ _ _ h, lane_rest h]

/-- A rake whose arrived threads may have gone on: every other thread is as it was. -/
theorem settled_release {r u : Rake} (hu : u = r ∨ u = r.release) {l : Nat} (h : l < 32) (hthread : r.thread l ≠ .atBarrier) :
    u.thread l = r.thread l ∧ u.pc l = r.pc l := by
  rcases hu with hu | hu
  · rw [hu]
    exact ⟨rfl, rfl⟩
  · rw [hu, thread_release h, pc_release h, if_neg hthread, if_neg hthread]
    exact ⟨rfl, rfl⟩

theorem registers_release {r u : Rake} (hu : u = r ∨ u = r.release) : (u.v, u.s, u.p) = (r.v, r.s, r.p) := by
  rcases hu with hu | hu
  · rw [hu]
  · rw [hu, release_frame]

theorem bed_put (c : Issue) (s : State) (r : Rake) (p b : Nat) : (c.put s r).bed p b = s.bed p b := by
  unfold Issue.put
  exact State.setRake_bed ..

/-- A rake put back, and the barrier met where it now is: the rake's arrived threads may have gone on, and only rakes of the block. -/
theorem meetBarrier_put (c : Issue) (s : State) (r : Rake) :
    let t := meetBarrier (c.put s r) c.a.pan c.a.bed c.block
    (rakeAt c.a t = r ∨ rakeAt c.a t = r.release)
      ∧ (∀ p b k, rakeKey p b k ≠ rakeKey c.a.pan c.a.bed c.a.slot →
          (∀ x, (s.bed c.a.pan c.a.bed).block? c.block = some x → ∀ j ∈ x.slots, rakeKey p b k ≠ rakeKey c.a.pan c.a.bed j) →
          t.rake p b k = s.rake p b k)
      ∧ t = { s with rakes := t.rakes, beds := t.beds } := by
  refine ⟨?_, fun p b k hk hout => ?_, ?_⟩
  · have hput : (c.put s r).rake c.a.pan c.a.bed c.a.slot = r := rake_put c s r rfl
    obtain hsame | ⟨x, -, -, hrel⟩ := rake_meetBarrier (c.put s r) c.a.pan c.a.bed c.block c.a.pan c.a.bed c.a.slot
    · exact .inl (hsame.trans hput)
    · exact .inr (hrel.trans (congrArg Rake.release hput))
  · obtain hsame | ⟨x, hx, hmem, -⟩ := rake_meetBarrier (c.put s r) c.a.pan c.a.bed c.block p b k
    · exact hsame.trans (rake_setRake_other s r hk)
    · rw [bed_put] at hx
      obtain ⟨j, hj, hkey⟩ := List.mem_map.mp hmem
      exact absurd hkey.symm (hout x hx j hj)
  · exact meetBarrier_frame (c.put s r) c.a.pan c.a.bed c.block

/-- A thread that EXIT leaves running, or ends, is so after the waits and the barrier that EXIT may end. -/
theorem settled_exit {u : Rake} {m : Word} (hu : u = (exitRake c m).syncAll ∨ u = (exitRake c m).syncAll.release) {l : Nat} (hl : l < 32)
    (hthread : (exitRake c m).thread l = .running ∨ (exitRake c m).thread l = .exited) :
    u.thread l = (exitRake c m).thread l ∧ u.pc l = (exitRake c m).pc l := by
  generalize exitRake c m = r at hu hthread
  obtain ⟨h1, h2⟩ := settled_syncAll (r := r) hl (fun m hm => by simp [hm] at hthread) (fun hm => by simp [hm] at hthread)
  obtain ⟨h3, h4⟩ := settled_release hu hl (fun hm => by simp [← h1, hm] at hthread)
  exact ⟨h3.trans h1, h4.trans h2⟩

theorem registers_exit {u : Rake} {m : Word} (hu : u = (exitRake c m).syncAll ∨ u = (exitRake c m).syncAll.release) :
    u.v = c.rake.v ∧ u.s = c.rake.s ∧ u.p = c.rake.p := by
  have hregs : (u.v, u.s, u.p) = (c.rake.v, c.rake.s, c.rake.p) := by
    rw [registers_release hu, syncAll_registers, exitRake_frame]
  simpa using hregs

theorem exec_exit (h : Ready a s c s1) : exec (.exit a f) s
    = .next (meetBarrier (c.put s1 (exitRake c (c.guarded f.gd)).syncAll) a.pan a.bed c.block).drawn :=
  (rfl : exec (.exit a f) s = go (bedIssue a s _)).trans (congrArg go (bedIssue_ok h rfl))

theorem exit_completes (h : Ready a s c s1) : Completes (.exit a f) s (fun t =>
    let r := rakeAt a t
    (∀ l, l < 32 → lane (c.guarded f.gd) l = true → r.thread l = .exited)
      ∧ (∀ l, l < 32 → lane c.active l = true → lane (c.guarded f.gd) l = false → r.thread l = .running ∧ r.pc l = c.pc + 8)
      ∧ (∀ k l, r.vget k l = c.rake.vget k l) ∧ (∀ k, r.sget k = c.rake.sget k) ∧ (∀ k, r.pget k = c.rake.pget k)
      ∧ (∀ p b k, rakeKey p b k ≠ rakeKey a.pan a.bed a.slot →
          (∀ x, (s1.bed a.pan a.bed).block? c.block = some x → ∀ j ∈ x.slots, rakeKey p b k ≠ rakeKey a.pan a.bed j) →
          t.rake p b k = s1.rake p b k)
      ∧ t = { s1 with rakes := t.rakes, beds := t.beds, free := s1.free + 1 }) := by
  obtain ⟨rfl, -⟩ := ready_rake h
  have hexec := exec_exit (f := f) h
  obtain ⟨hu, hothers, hframe⟩ := meetBarrier_put c s1 (exitRake c (c.guarded f.gd)).syncAll
  generalize meetBarrier (c.put s1 (exitRake c (c.guarded f.gd)).syncAll) c.a.pan c.a.bed c.block = t at hexec hu hothers hframe
  obtain ⟨hv, hs, hp⟩ := registers_exit hu
  refine ⟨t.drawn, hexec, fun l hl hg => ?_, fun l hl hact hg => ?_, fun k l => ?_, fun k => ?_, fun k => ?_, hothers,
    congrArg State.drawn hframe⟩
  · have hthread : (exitRake c (c.guarded f.gd)).thread l = .exited := (thread_exitRake c _ hl).trans (if_pos hg)
    exact (settled_exit hu hl (.inr hthread)).1.trans hthread
  · have hthread : (exitRake c (c.guarded f.gd)).thread l = .running := by
      rw [thread_exitRake c _ hl, hg]
      exact (groupOf_active h hl hact).1
    obtain ⟨h1, h2⟩ := settled_exit hu hl (.inl hthread)
    refine ⟨h1.trans hthread, h2.trans ?_⟩
    rw [pc_exitRake c _ hl, hact, hg]
    rfl
  · exact congrArg (fun v => tget 0 v (k * 32 + l)) hv
  · exact congrArg (fun v => tget 0 v k) hs
  · exact congrArg (fun v => if k = 7 then 0xFFFFFFFF else tget 0 v k) hp

/-! ### SYNC.RAKE -/

section

variable {m : Word}

theorem exists_lane {g : Word} (hne : g ≠ 0) : ∃ k, k < 32 ∧ lane g k = true := by
  by_contra hnone
  refine hne (BitVec.eq_of_getLsbD_eq (fun k hk => ?_))
  have hk' : ¬ lane g k = true := fun h => hnone ⟨k, hk, h⟩
  simpa [lane] using hk'

theorem lane_of_covered {g : Word} (hcover : g &&& ~~~m = 0) {l : Nat} (hl : l < 32) (h : lane g l = true) : lane m l = true := by
  have hbit : lane (g &&& ~~~m) l = false := by rw [hcover]; simp [lane]
  simpa [lane, hl, show g.getLsbD l = true from h] using hbit

/-- What SYNC.RAKE leaves of its rake. -/
theorem sync_completes (h : Ready a s c s1) (hguard : c.guarded f.gd ≠ 0) (hpm : c.pmask (f.body.extractLsb' 45 7) = some m)
    (hcover : c.guarded f.gd &&& ~~~m = 0) (hwait : operandWait a s1 [(f.body.extractLsb' 45 7).toNat] = false) :
    Completes (.syncRake a f) s (fun t => rakeAt a t = (c.rake.waitSync c (c.guarded f.gd) m s1.now).syncAll ∧ OnlyRake a s1 t) := by
  refine completes_put rfl h ?_
  simp only [if_neg hguard, hpm, hwait, Bool.false_eq_true, if_false, hcover, ne_eq, not_true_eq_false]

variable {g : Word} {now : Nat}

/-- The whole mask waits: the wait is over when the group begins it. -/
theorem syncMet_waitSync (h : Ready a s c s1) (hg : ∀ l, l < 32 → lane g l = true → lane c.active l = true)
    (hpc : ∀ l, l < 32 → lane c.active l = true → c.rake.pc l = c.pc)
    (hall : ∀ l, l < 32 → lane (c.rake.live &&& m) l = true → lane g l = false → c.rake.thread l = .atSync m ∧ c.rake.pc l = c.pc) :
    syncMet (c.rake.waitSync c g m now) m c.pc = true := by
  have hrun : ∀ l, l < 32 → lane c.active l = true → c.rake.thread l = .running := fun l hl ha => (groupOf_active h hl ha).1
  refine syncMet_iff.mpr (fun k hk hlive hm => ?_)
  rw [lane_live_waitSync hrun hg hk] at hlive
  rw [thread_waitSync _ hk, pc_waitSync]
  by_cases hgk : lane g k = true
  · simp [hgk, hpc k hk (hg k hk hgk)]
  · have hgk' : lane g k = false := by simpa using hgk
    obtain ⟨hthread, hpck⟩ := hall k hk (by simpa [lane] using ⟨hlive, hm⟩) hgk'
    have hact : lane c.active k = false := by
      refine Bool.eq_false_iff.mpr (fun ha => ?_)
      rw [hrun k hk ha] at hthread
      exact absurd hthread (by simp)
    simp [hgk', hact, hthread, hpck]

/-- The mask's live threads and the group are in the group that goes on. -/
theorem lane_syncGroup_waitSync (h : Ready a s c s1) (hg : ∀ l, l < 32 → lane g l = true → lane c.active l = true) (hne : g ≠ 0)
    (hcover : g &&& ~~~m = 0) {l : Nat} (hl : l < 32) (hin : lane (c.rake.live &&& m ||| c.active) l = true) :
    lane (syncGroup (c.rake.waitSync c g m now) m) l = true := by
  have hrun : ∀ l, l < 32 → lane c.active l = true → c.rake.thread l = .running := fun l hl ha => (groupOf_active h hl ha).1
  have hlive : ∀ {k}, k < 32 → lane (c.rake.waitSync c g m now).live k = lane c.rake.live k := fun hk => lane_live_waitSync hrun hg hk
  have hguarded : ∀ k, k < 32 → lane g k = true → lane ((c.rake.waitSync c g m now).live &&& m) k = true := by
    intro k hk hgk
    have h1 : lane (c.rake.waitSync c g m now).live k = true := by
      rw [hlive hk, lane_live _ hk, hrun k hk (hg k hk hgk)]
      rfl
    have h2 := lane_of_covered hcover hk hgk
    simpa [lane] using ⟨h1, h2⟩
  rw [lane_syncGroup]
  by_cases hm : lane c.rake.live l = true ∧ lane m l = true
  · exact .inl ⟨(hlive hl).trans hm.1, hm.2⟩
  · have hact : lane c.active l = true := by
      have := hin
      simp only [lane, BitVec.getLsbD_or, BitVec.getLsbD_and, Bool.or_eq_true, Bool.and_eq_true] at this
      exact this.resolve_left hm
    by_cases hgl : lane g l = true
    · have := hguarded l hl hgl
      simp only [lane, BitVec.getLsbD_and, Bool.and_eq_true] at this
      exact .inl this
    · refine .inr ((lane_besides hl).mpr ⟨?_, ?_⟩)
      · rw [thread_waitSync _ hl]
        simp [hact, hgl]
      · obtain ⟨k, hk, hgk⟩ : ∃ k, k < 32 ∧ lane g k = true := exists_lane hne
        refine ⟨k, hk, hguarded k hk hgk, ?_⟩
        rw [groupOf_waitSync, groupOf_waitSync, (groupOf_active h hk (hg k hk hgk)).2, (groupOf_active h hl hact).2]

end

/-- A group whose arrival completes its mask goes on with it as one group (R127). -/
theorem syncRake_completes {m : Word} (h : Ready a s c s1) (hguard : c.guarded f.gd ≠ 0)
    (hpm : c.pmask (f.body.extractLsb' 45 7) = some m) (hcover : c.guarded f.gd &&& ~~~m = 0)
    (hwait : operandWait a s1 [(f.body.extractLsb' 45 7).toNat] = false)
    (hpc : ∀ l, l < 32 → lane c.active l = true → c.rake.pc l = c.pc)
    (hothers : ∀ l k, l < 32 → c.rake.thread l = .atSync k → k ≠ m ∨ c.rake.pc l ≠ c.pc → syncMet c.rake k (c.rake.pc l) = false) :
    ((∀ l, l < 32 → lane (c.rake.live &&& m) l = true → lane (c.guarded f.gd) l = false →
        c.rake.thread l = .atSync m ∧ c.rake.pc l = c.pc) →
      Completes (.syncRake a f) s (fun t =>
        let r := rakeAt a t
        (∀ l, l < 32 → lane (c.rake.live &&& m ||| c.active) l = true → r.thread l = .running ∧ r.pc l = c.pc + 8)
          ∧ (∀ k l, k < 32 → l < 32 → lane (c.rake.live &&& m ||| c.active) k = true →
              lane (c.rake.live &&& m ||| c.active) l = true → r.groupOf k = r.groupOf l)
          ∧ OnlyRake a s1 t))
    ∧ ((∃ l, l < 32 ∧ lane (c.rake.live &&& m) l = true ∧ lane (c.guarded f.gd) l = false
          ∧ (c.rake.thread l ≠ .atSync m ∨ c.rake.pc l ≠ c.pc)) →
        Completes (.syncRake a f) s (fun t =>
          let r := rakeAt a t
          (∀ l, l < 32 → lane (c.guarded f.gd) l = true → r.thread l = .atSync m ∧ r.pc l = c.pc)
            ∧ (∀ l, l < 32 → lane c.active l = true → lane (c.guarded f.gd) l = false → r.thread l = .beside ∧ r.pc l = c.pc)
            ∧ OnlyRake a s1 t)) := by
  have hrun : ∀ l, l < 32 → lane c.active l = true → c.rake.thread l = .running := fun l hl ha => (groupOf_active h hl ha).1
  have hg : ∀ l, l < 32 → lane (c.guarded f.gd) l = true → lane c.active l = true := fun l _ => lane_guarded
  have hothers' := fun {l : Nat} {k : Word} => others_waitSync (k := k) (l := l) (now := s1.now) hrun hg hpc hothers
  obtain ⟨t, hexec, hrake, honly⟩ := sync_completes h hguard hpm hcover hwait
  constructor
  · intro hall
    have hmet := syncMet_waitSync (now := s1.now) h hg hpc hall
    have hin := fun {l : Nat} => lane_syncGroup_waitSync (l := l) (now := s1.now) h hg hguard hcover
    have hend : rakeAt a t = endWait _ _ _ := hrake.trans (syncAll_met hmet ?_ (fun l k hl => hothers' hl))
    · refine ⟨t, hexec, fun l hl hlane => ?_, fun k l hk hl hlk hll => ?_, honly⟩
      · rw [hend, thread_endWait hl, pc_endWait hl, if_pos (hin hl hlane), if_pos (hin hl hlane)]
        exact ⟨rfl, rfl⟩
      · rw [hend, groupOf_endWait hk, groupOf_endWait hl, if_pos (hin hk hlk), if_pos (hin hl hll)]
    · obtain ⟨k, hk, hgk⟩ : ∃ k, k < 32 ∧ lane (c.guarded f.gd) k = true := exists_lane hguard
      refine ⟨k, hk, ?_, lane_of_covered hcover hk hgk⟩
      rw [lane_live_waitSync hrun hg hk, lane_live _ hk, hrun k hk (hg k hk hgk)]
      rfl
  · rintro ⟨j, hj, hlive, hgj, hnot⟩
    simp only [lane, BitVec.getLsbD_and, Bool.and_eq_true] at hlive
    obtain ⟨hlivej, hmj⟩ := hlive
    have hunmet : syncMet (c.rake.waitSync c (c.guarded f.gd) m s1.now) m c.pc = false := by
      refine syncMet_eq_false.mpr ⟨j, hj, (lane_live_waitSync hrun hg hj).trans hlivej, hmj, ?_⟩
      rw [thread_waitSync _ hj, pc_waitSync, hgj]
      by_cases hact : lane c.active j = true
      · simp [hact]
      · simpa [hact, ← not_and_or] using hnot
    have hsame : rakeAt a t = c.rake.waitSync c (c.guarded f.gd) m s1.now := by
      refine hrake.trans (syncAll_unmet (fun l k hl hk => ?_))
      by_cases hthis : k = m ∧ (c.rake.waitSync c (c.guarded f.gd) m s1.now).pc l = c.pc
      · rw [hthis.1, hthis.2]
        exact hunmet
      · exact hothers' hl hk (not_and_or.mp hthis)
    refine ⟨t, hexec, fun l hl hgl => ?_, fun l hl hact hgl => ?_, honly⟩
    · rw [hsame, thread_waitSync _ hl, pc_waitSync, hgl, hg l hl hgl]
      exact ⟨rfl, hpc l hl (hg l hl hgl)⟩
    · rw [hsame, thread_waitSync _ hl, pc_waitSync, hgl, hact]
      exact ⟨rfl, hpc l hl hact⟩

/-! ### Arrival at the barrier of a block (R134) -/

section

variable (c : Issue) (m : Word) (ctx : Option (RFmt × Bool)) (s : State)

/-- The block once some of its threads have arrived. -/
def arrivedBlock (x : Block) : Block :=
  { x with waitFrom := some (x.waitFrom.getD s.now), ctxWait := x.ctxWait ++ (ctx.map (fun z => (c.a.slot, z.1, z.2))).toList }

/-- Threads have arrived, and the barrier has not been looked at. -/
def arrived : State :=
  (s.updRake c.a.pan c.a.bed c.a.slot (fun r => (lanesOf m).foldl (fun r l => r.setThread l .atBarrier) r)).updBed c.a.pan c.a.bed
    (fun d => match d.block? c.block with
      | none => d
      | some x => d.setBlock (arrivedBlock c ctx s x))

theorem arrive_eq : arrive c m ctx s = meetBarrier (arrived c m ctx s) c.a.pan c.a.bed c.block := rfl

theorem arrived_frame :
    let t := arrived c m ctx s
    t = { s with rakes := t.rakes, beds := t.beds } := rfl

theorem rake_arrived : (arrived c m ctx s).rake c.a.pan c.a.bed c.a.slot
    = (lanesOf m).foldl (fun r l => r.setThread l .atBarrier) (s.rake c.a.pan c.a.bed c.a.slot) := rake_setRake_same ..

theorem rake_arrived_other {p b k : Nat} (h : rakeKey p b k ≠ rakeKey c.a.pan c.a.bed c.a.slot) :
    (arrived c m ctx s).rake p b k = s.rake p b k := rake_setRake_other s _ h

/-- The threads of any rake of the issuing bed once some have arrived. -/
theorem thread_arrived (j : Nat) {l : Nat} (h : l < 32) : ((arrived c m ctx s).rake c.a.pan c.a.bed j).thread l
    = if j = c.a.slot ∧ lane m l = true then .atBarrier else (s.rake c.a.pan c.a.bed j).thread l := by
  by_cases hj : j = c.a.slot
  · rw [hj, rake_arrived, thread_setThreads _ _ _ h]
    simp
  · rw [rake_arrived_other _ _ _ _ (by unfold rakeKey; omega)]
    simp [hj]

theorem pc_arrived (j l : Nat) : ((arrived c m ctx s).rake c.a.pan c.a.bed j).pc l = (s.rake c.a.pan c.a.bed j).pc l := by
  by_cases hj : j = c.a.slot
  · rw [hj, rake_arrived, setThreads_frame]
    rfl
  · rw [rake_arrived_other _ _ _ _ (by unfold rakeKey; omega)]

theorem block_arrived {x : Block} (hx : (s.bed c.a.pan c.a.bed).block? c.block = some x) :
    ((arrived c m ctx s).bed c.a.pan c.a.bed).block? c.block = some (arrivedBlock c ctx s x) := by
  have hbed : (arrived c m ctx s).bed c.a.pan c.a.bed = (s.bed c.a.pan c.a.bed).setBlock (arrivedBlock c ctx s x) := by
    unfold arrived
    rw [State.updBed, bed_setBed_same, State.updRake_bed, hx]
  rw [hbed]
  have hindex : (arrivedBlock c ctx s x).index = c.block := (KernelRuns.block?_index hx : x.index = c.block)
  exact block?_setBlock c.block hx hindex

end

/-! ### BAR.BLOCK -/

/-- The rake after BAR.BLOCK, before its threads arrive. -/
def barRake (c : Issue) (m : Word) : Rake :=
  let r := c.rake.jump (c.active &&& ~~~m) (c.pc + 8)
  if c.active &&& ~~~m = 0 then r else r.regroup (c.active &&& ~~~m) c.rake.freshGroup

theorem barRake_frame (c : Issue) (m : Word) : barRake c m = { c.rake with pcs := (barRake c m).pcs, groups := (barRake c m).groups } := by
  unfold barRake
  dsimp only
  split
  · rw [jump_frame]
  · rw [regroup_frame, jump_frame]

theorem pc_barRake (c : Issue) (m : Word) {l : Nat} (h : l < 32) :
    (barRake c m).pc l = if lane c.active l && !lane m l then c.pc + 8 else c.rake.pc l := by
  have hjump : (c.rake.jump (c.active &&& ~~~m) (c.pc + 8)).pc l = if lane c.active l && !lane m l then c.pc + 8 else c.rake.pc l := by
    rw [pc_jump _ _ _ _ h, lane_rest h]
  unfold barRake
  dsimp only
  split
  · exact hjump
  · rw [pc_regroup, hjump]

theorem thread_barRake (c : Issue) (m : Word) (l : Nat) : (barRake c m).thread l = c.rake.thread l := by
  rw [barRake_frame]
  rfl

/-- The guarded threads of BAR.BLOCK have arrived, and the barrier has not been looked at. -/
def barred (c : Issue) (m : Word) (s : State) : State := arrived c m none (c.put s (barRake c m))

section

variable {m : Word} {x : Block}

theorem barred_frame (c : Issue) (m : Word) (s : State) :
    let t := barred c m s
    t = { s with rakes := t.rakes, beds := t.beds } := by
  unfold barred
  generalize barRake c m = r
  rfl

theorem thread_barred (hrake : c.rake = rakeAt c.a s1) (j : Nat) {l : Nat} (h : l < 32) :
    ((barred c m s1).rake c.a.pan c.a.bed j).thread l
      = if j = c.a.slot ∧ lane m l = true then .atBarrier else (s1.rake c.a.pan c.a.bed j).thread l := by
  rw [barred, thread_arrived _ _ _ _ _ h]
  by_cases hj : j = c.a.slot
  · have hput : (c.put s1 (barRake c m)).rake c.a.pan c.a.bed c.a.slot = barRake c m := rake_put c s1 _ rfl
    rw [hj, hput, thread_barRake, hrake]
    rfl
  · have hput : (c.put s1 (barRake c m)).rake c.a.pan c.a.bed j = s1.rake c.a.pan c.a.bed j :=
      rake_setRake_other s1 _ (by unfold rakeKey; omega)
    rw [hput]

theorem pc_barred (hrake : c.rake = rakeAt c.a s1) (j : Nat) {l : Nat} (h : l < 32) :
    ((barred c m s1).rake c.a.pan c.a.bed j).pc l
      = if j = c.a.slot ∧ lane c.active l = true ∧ lane m l = false then c.pc + 8 else (s1.rake c.a.pan c.a.bed j).pc l := by
  rw [barred, pc_arrived]
  by_cases hj : j = c.a.slot
  · have hput : (c.put s1 (barRake c m)).rake c.a.pan c.a.bed c.a.slot = barRake c m := rake_put c s1 _ rfl
    rw [hj, hput, pc_barRake _ _ h, hrake]
    simp [rakeAt]
  · have hput : (c.put s1 (barRake c m)).rake c.a.pan c.a.bed j = s1.rake c.a.pan c.a.bed j :=
      rake_setRake_other s1 _ (by unfold rakeKey; omega)
    rw [hput]
    simp [hj]

/-- The block once threads have arrived: nothing of it but the wait of its deadline has changed. -/
theorem block_barred (hx : (s1.bed c.a.pan c.a.bed).block? c.block = some x) :
    ∃ y : Block, ((barred c m s1).bed c.a.pan c.a.bed).block? c.block = some y ∧ y = { x with waitFrom := y.waitFrom } := by
  refine ⟨_, block_arrived c m none _ (by rw [bed_put]; exact hx), ?_⟩
  simp [arrivedBlock]

theorem exec_barBlock (h : Ready a s c s1) (hguard : c.guarded f.gd ≠ 0) :
    exec (.barBlock a f) s = .next (meetBarrier (barred c (c.guarded f.gd) s1) c.a.pan c.a.bed c.block).drawn := by
  have hx : exec (.barBlock a f) s = go (bedIssue a s _) := rfl
  exact hx.trans (congrArg go (bedIssue_ok h (if_neg hguard)))

/-- A thread of the bed that is at the barrier once the guarded threads have arrived. -/
def AtBar (a : At) (g : Word) (s1 : State) (j l : Nat) : Prop :=
  (s1.rake a.pan a.bed j).thread l = .atBarrier ∨ (j = a.slot ∧ lane g l = true)

theorem thread_barred_iff (hrake : c.rake = rakeAt c.a s1) (j : Nat) {l : Nat} (h : l < 32) :
    ((barred c m s1).rake c.a.pan c.a.bed j).thread l = .atBarrier ↔ AtBar c.a m s1 j l := by
  rw [thread_barred hrake j h, AtBar]
  by_cases hin : j = c.a.slot ∧ lane m l = true <;> simp [hin]

/-- The last arrival: every arrived thread goes on, and the next generation begins. -/
theorem barBlock_met (h : Ready a s c s1) (hguard : c.guarded f.gd ≠ 0) (hx : (s1.bed a.pan a.bed).block? c.block = some x)
    (hslot : a.slot ∈ x.slots) (hctx : x.ctxWait = []) (hmet : x.ctxMet = false)
    (hall : ∀ j ∈ x.slots, ∀ l, l < 32 → ((s1.rake a.pan a.bed j).thread l).live = true → AtBar a (c.guarded f.gd) s1 j l) :
    Completes (.barBlock a f) s (fun t =>
      (∀ j ∈ x.slots, ∀ l, l < 32 → AtBar a (c.guarded f.gd) s1 j l →
        (t.rake a.pan a.bed j).thread l = .running ∧ (t.rake a.pan a.bed j).pc l = (s1.rake a.pan a.bed j).pc l + 8)
        ∧ ((t.bed a.pan a.bed).block? x.index).map Block.generation = some (x.generation + 1)
        ∧ t = { s1 with rakes := t.rakes, beds := t.beds, free := s1.free + 1 }) := by
  obtain ⟨rfl, hrake⟩ := ready_rake h
  have hindex : x.index = c.block := KernelRuns.block?_index hx
  obtain ⟨y, hy, hyx⟩ := block_barred (m := c.guarded f.gd) hx
  have hyslots : y.slots = x.slots := by rw [hyx]
  have hbar : barrierMet (barred c (c.guarded f.gd) s1) c.a.pan c.a.bed y = true := by
    obtain ⟨k, hk, hgk⟩ := exists_lane hguard
    rw [barrierMet_iff, hyslots]
    refine ⟨⟨c.a.slot, hslot, k, hk, (thread_barred_iff hrake _ hk).mpr (.inr ⟨rfl, hgk⟩)⟩, fun j hj l hl hlive => ?_⟩
    refine (thread_barred_iff hrake j hl).mpr ?_
    by_cases hin : j = c.a.slot ∧ lane (c.guarded f.gd) l = true
    · exact .inr hin
    · rw [thread_barred hrake j hl, if_neg hin] at hlive
      exact hall j hj l hl hlive
  have hend : meetBarrier (barred c (c.guarded f.gd) s1) c.a.pan c.a.bed c.block
      = releaseBarrier (barred c (c.guarded f.gd) s1) c.a.pan c.a.bed y := by
    have hymet : y.ctxMet = false := by rw [hyx]; exact hmet
    have hyctx : y.ctxWait = [] := by rw [hyx]; exact hctx
    unfold meetBarrier
    simp only [hy, hbar, hymet, hyctx, Bool.not_true, Bool.or_self, Bool.false_eq_true, if_false, List.any_nil]
  refine ⟨_, (exec_barBlock h hguard).trans (congrArg (fun t => go (State.drawn t)) hend), fun j hj l hl hwait => ?_, ?_, ?_⟩
  · have hrel : (releaseBarrier (barred c (c.guarded f.gd) s1) c.a.pan c.a.bed y).rake c.a.pan c.a.bed j
        = ((barred c (c.guarded f.gd) s1).rake c.a.pan c.a.bed j).release :=
      (rake_releaseBarrier ..).trans (if_pos (List.mem_map_of_mem (by rw [hyslots]; exact hj)))
    have hat := (thread_barred_iff hrake j hl).mpr hwait
    rw [State.drawn_rake, hrel, thread_release hl, pc_release hl, if_pos hat, if_pos hat, pc_barred hrake j hl, if_neg]
    · exact ⟨rfl, rfl⟩
    · rintro ⟨rfl, hact, hg⟩
      have hrun := (groupOf_active h hl hact).1
      rw [hrake] at hrun
      exact hwait.elim (fun hb => by simp [show (s1.rake c.a.pan c.a.bed c.a.slot).thread l = .running from hrun] at hb)
        (fun hin => by simp [hg] at hin)
  · have hyindex : y.index = c.block := KernelRuns.block?_index hy
    rw [State.drawn_bed, bed_releaseBarrier, hindex,
      block?_setBlock (y := { y with generation := y.generation + 1, waitFrom := none, ctxWait := [], ctxMet := false }) c.block hy hyindex,
      Option.map_some, hyx]
  · have hrel := releaseBarrier_frame (barred c (c.guarded f.gd) s1) c.a.pan c.a.bed y
    have hframe := barred_frame c (c.guarded f.gd) s1
    generalize releaseBarrier (barred c (c.guarded f.gd) s1) c.a.pan c.a.bed y = t at hrel
    generalize barred c (c.guarded f.gd) s1 = u at hrel hframe
    rw [hframe] at hrel
    exact congrArg State.drawn hrel

/-- An arrival that is not the last: the guarded threads wait, and the others of the group go on. -/
theorem barBlock_waits (h : Ready a s c s1) (hguard : c.guarded f.gd ≠ 0) (hx : (s1.bed a.pan a.bed).block? c.block = some x)
    (hout : ∃ j ∈ x.slots, ∃ l, l < 32 ∧ ((s1.rake a.pan a.bed j).thread l).live = true ∧ ¬ AtBar a (c.guarded f.gd) s1 j l) :
    Completes (.barBlock a f) s (fun t =>
      let r := rakeAt a t
      (∀ l, l < 32 → lane (c.guarded f.gd) l = true → r.thread l = .atBarrier ∧ r.pc l = c.rake.pc l)
        ∧ (∀ l, l < 32 → lane c.active l = true → lane (c.guarded f.gd) l = false → r.thread l = .running ∧ r.pc l = c.pc + 8)
        ∧ ((t.bed a.pan a.bed).block? x.index).map Block.generation = some x.generation
        ∧ t = { s1 with rakes := t.rakes, beds := t.beds, free := s1.free + 1 }) := by
  obtain ⟨rfl, hrake⟩ := ready_rake h
  have hindex : x.index = c.block := KernelRuns.block?_index hx
  obtain ⟨y, hy, hyx⟩ := block_barred (m := c.guarded f.gd) hx
  have hbar : barrierMet (barred c (c.guarded f.gd) s1) c.a.pan c.a.bed y = false := by
    obtain ⟨j, hj, l, hl, hlive, hnot⟩ := hout
    refine Bool.eq_false_iff.mpr (fun hmet => ?_)
    obtain ⟨-, hall⟩ := barrierMet_iff.mp hmet
    have hin : ¬ (j = c.a.slot ∧ lane (c.guarded f.gd) l = true) := fun hin => hnot (.inr hin)
    exact hnot ((thread_barred_iff hrake j hl).mp
      (hall j (by rw [hyx]; exact hj) l hl (by rw [thread_barred hrake j hl, if_neg hin]; exact hlive)))
  have hend : meetBarrier (barred c (c.guarded f.gd) s1) c.a.pan c.a.bed c.block = barred c (c.guarded f.gd) s1 := by
    unfold meetBarrier
    simp only [hy, hbar, Bool.not_false, Bool.or_true, if_true]
  refine ⟨(barred c (c.guarded f.gd) s1).drawn, (exec_barBlock h hguard).trans (congrArg (fun t => go (State.drawn t)) hend), fun l hl hg => ?_, fun l hl hact hg => ?_,
    ?_, congrArg State.drawn (barred_frame c (c.guarded f.gd) s1)⟩
  · refine ⟨(thread_barred_iff hrake c.a.slot hl).mpr (.inr ⟨rfl, hg⟩), (pc_barred hrake c.a.slot hl).trans ?_⟩
    rw [if_neg (by simp [hg]), hrake]
    rfl
  · refine ⟨(thread_barred hrake c.a.slot hl).trans ?_, (pc_barred hrake c.a.slot hl).trans (if_pos ⟨rfl, hact, hg⟩)⟩
    rw [if_neg (by simp [hg])]
    have hrun := (groupOf_active h hl hact).1
    rw [hrake] at hrun
    exact hrun
  · rw [State.drawn_bed, hindex, hy, hyx]
    rfl

end

/-! ### FENCE (R137, R213, R214) -/

section

variable (c : Issue) (scope n : Nat) (r : Rake)

theorem after_frame (m : Word) (v : View) (work : Bool) :
    let r' := r.after m v work
    r' = { r with views := r'.views, work := r'.work } := by
  have hfold : ∀ ls : List Nat,
      let r' := ls.foldl (fun r l => { r with views := tput [] r.views l (mergeView (tget [] r.views l) v) }) r
      r' = { r with views := r'.views } := fun ls =>
    List.foldlRecOn (motive := fun u : Rake => u = { r with views := u.views }) ls _ rfl (fun u hu l _ => by rw [hu])
  unfold Rake.after
  dsimp only
  split
  · rw [hfold]
  · rw [hfold]

theorem fenceAcquire_frame :
    let r' := fenceAcquire c scope r
    r' = { r with views := r'.views, work := r'.work } := after_frame r _ _ true

/-- The mark of a release fence. -/
def fenceMark : RelMark :=
  { pan := c.a.pan, bed := c.a.bed, slot := c.a.slot, block := c.block, scope := scope, view := c.before n }

/-- A thread's stores carry the fence's mark. -/
def markThread (r : Rake) (l : Nat) : Rake :=
  { r with rels := tput [] r.rels l ((tget [] r.rels l).filter (fun k => k.scope ≠ scope) ++ [fenceMark c scope n]) }

theorem fenceRelease_eq : fenceRelease c scope n r
    = { (lanesOf c.active).foldl (markThread c scope n) r with work := mergeView r.work (c.before n) } := rfl

theorem fenceRelease_frame :
    let r' := fenceRelease c scope n r
    r' = { r with rels := r'.rels, work := r'.work } := by
  have hfold : ∀ ls : List Nat, ls.foldl (markThread c scope n) r = { r with rels := (ls.foldl (markThread c scope n) r).rels } := fun ls =>
    List.foldlRecOn (motive := fun u : Rake => u = { r with rels := u.rels }) ls _ rfl (fun u hu l _ => by rw [markThread, hu])
  rw [fenceRelease_eq, hfold]

/-- A thread that is marked, or has been, carries the mark. -/
theorem mem_markThreads (ls : List Nat) {l : Nat} (h : l ∈ ls ∨ fenceMark c scope n ∈ tget [] r.rels l) :
    fenceMark c scope n ∈ tget [] (ls.foldl (markThread c scope n) r).rels l := by
  induction ls generalizing r with
  | nil => exact h.resolve_left List.not_mem_nil
  | cons k ls ih =>
    refine ih _ ?_
    by_cases hk : l = k
    · subst hk
      exact .inr (by simp [markThread])
    · refine h.imp (fun hmem => (List.mem_cons.mp hmem).resolve_left hk) (fun hold => ?_)
      rw [markThread]
      simpa [tget_tput_other _ _ hk] using hold

/-- From r to r' nothing changes but what the rake's accesses and work go on after, and what its stores carry. -/
def OnlyOrder (r r' : Rake) : Prop := r' = { r with views := r'.views, rels := r'.rels, work := r'.work }

theorem OnlyOrder.trans {r r' r'' : Rake} (h : OnlyOrder r r') (g : OnlyOrder r' r'') : OnlyOrder r r'' := by
  unfold OnlyOrder at h g ⊢
  rw [g, h]

/-- The rake of a group that has passed a fence of a kind. -/
def fenceRake (kind : Nat) : Rake :=
  let r1 := if kind ≠ 1 then fenceAcquire c scope c.rake else c.rake
  let r2 := if kind ≠ 0 then fenceRelease c scope n r1 else r1
  if kind = 2 then r2.after c.active (c.before n) true else r2

theorem fenceRake_frame (kind : Nat) : OnlyOrder c.rake (fenceRake c scope n kind) := by
  have hacquire : ∀ r, OnlyOrder r (fenceAcquire c scope r) := fun r => by rw [OnlyOrder, fenceAcquire_frame]
  have hrelease : ∀ r, OnlyOrder r (fenceRelease c scope n r) := fun r => by rw [OnlyOrder, fenceRelease_frame]
  have hafter : ∀ r v, OnlyOrder r (r.after c.active v true) := fun r v => by rw [OnlyOrder, after_frame]
  unfold fenceRake
  extract_lets r1 r2
  have h1 : OnlyOrder c.rake r1 := by
    unfold r1
    split
    · exact hacquire _
    · rfl
  have h2 : OnlyOrder c.rake r2 := by
    unfold r2
    split
    · exact h1.trans (hrelease _)
    · exact h1
  split
  · exact h2.trans (hafter _ _)
  · exact h2

/-- Every thread of the group carries a release of the fence's scope. -/
theorem fenceRake_marked {kind : Nat} (hkind : kind ≠ 0) {l : Nat} (hl : l < 32) (hact : lane c.active l = true) :
    ∃ k ∈ tget [] (fenceRake c scope n kind).rels l, k.scope = scope := by
  have hmem : ∀ r, fenceMark c scope n ∈ tget [] (fenceRelease c scope n r).rels l := fun r =>
    mem_markThreads c scope n r _ (.inl (mem_lanesOf.mpr ⟨hl, hact⟩))
  refine ⟨fenceMark c scope n, ?_, rfl⟩
  unfold fenceRake
  simp only [hkind, ne_eq, not_false_eq_true, if_true]
  split
  · rw [after_frame]
    exact hmem _
  · exact hmem _

end

/-- The stores of some threads, once performed at a scope, are performed there. -/
theorem performed_perform {scope : Nat} {mine : StoreRec → Bool} (ks : List StoreRec) {k : StoreRec} (hk : k ∈ perform scope mine ks) (hown : mine k = true) :
    ∃ n, k.performed = some n ∧ scope ≤ n := by
  obtain ⟨r, -, rfl⟩ := List.mem_map.mp hk
  by_cases hr : mine r = true
  · rw [if_pos hr]
    exact ⟨_, rfl, Nat.le_max_left ..⟩
  · rw [if_neg hr] at hown
    exact absurd hown hr

/-- A fence whose group goes on leaves a state from which the group has only to go on. -/
def fenceState (a : At) (c : Issue) (scope kind : Nat) (s : State) : State :=
  let s1 := c.put s (fenceRake c scope s.coh.stores kind)
  if kind ≠ 2 then s1
  else (s1.updCoh (fun z => { z with kept := perform scope (c.ownStore c.active) z.kept })).updBed a.pan a.bed
    (fun d => { d with kept := perform scope (c.ownStore c.active) d.kept })

theorem exec_fence {kind scope : Nat} (h : Ready a s c s1) (hguard : c.guarded f.gd ≠ 0) (hkind : cField f 2 2 = kind)
    (hscope : cField f 0 2 = scope) (hgo : kind = 0 ∨ (kind ≠ 3 ∧ rakeBusy a s1 = false)) :
    exec (.fence a f) s = .next (advance c (fenceState a c scope kind s1)).drawn := by
  have hx : exec (.fence a f) s = go (bedNext a s _) := rfl
  refine hx.trans (congrArg go (bedNext_ok h ?_))
  have h3 : ¬ kind = 3 := by rcases hgo with rfl | ⟨h, -⟩ <;> simp_all
  have hwait : ¬ (kind ≠ 0 ∧ rakeBusy a s1 = true) := by rcases hgo with rfl | ⟨-, h⟩ <;> simp_all
  simp only [hkind, hscope, if_neg hguard, if_neg h3, if_neg hwait]
  unfold fenceState fenceRake
  by_cases h2 : kind = 2 <;> simp [h2]

theorem fenceState_frame (a : At) (c : Issue) (scope kind : Nat) (s : State) :
    let t := fenceState a c scope kind s
    t = { c.put s (fenceRake c scope s.coh.stores kind) with beds := t.beds, coh := { s.coh with kept := t.coh.kept } }
      ∧ (∀ p b, t.bed p b = { s.bed p b with kept := (t.bed p b).kept })
      ∧ (kind = 2 → ∀ k ∈ t.coh.kept, c.ownStore c.active k = true → ∃ n, k.performed = some n ∧ scope ≤ n) := by
  unfold fenceState
  generalize fenceRake c scope s.coh.stores kind = r
  by_cases h2 : kind = 2
  · simp only [h2, ne_eq, not_true_eq_false, if_false]
    refine ⟨rfl, fun p b => ?_, fun _ k hk hown => performed_perform s.coh.kept hk hown⟩
    by_cases hkey : bedKey p b = bedKey a.pan a.bed
    · have hsame : s.bed p b = s.bed a.pan a.bed := by simp only [State.bed, hkey]
      have hnew : (((c.put s r).updCoh (fun z => { z with kept := perform scope (c.ownStore c.active) z.kept })).updBed a.pan a.bed
          (fun d => { d with kept := perform scope (c.ownStore c.active) d.kept })).bed p b
          = { s.bed a.pan a.bed with kept := perform scope (c.ownStore c.active) (s.bed a.pan a.bed).kept } := by
        simp only [State.bed, hkey]
        exact bed_setBed_same _ a.pan a.bed _
      rw [hnew, hsame]
    · have hnew : (((c.put s r).updCoh (fun z => { z with kept := perform scope (c.ownStore c.active) z.kept })).updBed a.pan a.bed
          (fun d => { d with kept := perform scope (c.ownStore c.active) d.kept })).bed p b = s.bed p b := bed_setBed_other _ _ hkey
      rw [hnew]
  · simp only [h2, ne_eq, not_false_eq_true, if_true]
    exact ⟨rfl, fun p b => rfl, fun h => absurd h (by simp)⟩

theorem fence_completes {kind scope : Nat} (h : Ready a s c s1) (hguard : c.guarded f.gd ≠ 0) (hkind : cField f 2 2 = kind)
    (hscope : cField f 0 2 = scope) (hgo : kind = 0 ∨ (kind ≠ 3 ∧ rakeBusy a s1 = false)) :
    Completes (.fence a f) s (fun t =>
      let r := rakeAt a t
      r = { c.rake with pcs := r.pcs, views := r.views, rels := r.rels, work := r.work } ∧ NextPc c r
        ∧ (∀ p b k, rakeKey p b k ≠ rakeKey a.pan a.bed a.slot → t.rake p b k = s1.rake p b k)
        ∧ (∀ p b, t.bed p b = { s1.bed p b with kept := (t.bed p b).kept })
        ∧ (kind ≠ 0 → ∀ l, l < 32 → lane c.active l = true → ∃ k ∈ tget [] r.rels l, k.scope = scope)
        ∧ (kind = 2 → ∀ k ∈ t.coh.kept, c.ownStore c.active k = true → ∃ n, k.performed = some n ∧ scope ≤ n)
        ∧ t = { s1 with rakes := t.rakes, beds := t.beds, coh := { s1.coh with kept := t.coh.kept }, free := s1.free + 1 }) := by
  obtain ⟨rfl, -⟩ := ready_rake h
  have hexec := exec_fence h hguard hkind hscope hgo
  obtain ⟨hframe, hbeds, hperformed⟩ := fenceState_frame c.a c scope kind s1
  have horder := fenceRake_frame c scope s1.coh.stores kind
  have hmarked := fun hk l => fenceRake_marked c scope s1.coh.stores (kind := kind) (l := l) hk
  generalize fenceState c.a c scope kind s1 = u at hexec hframe hbeds hperformed
  generalize fenceRake c scope s1.coh.stores kind = r at hframe horder hmarked
  have hrake : ∀ p b k, u.rake p b k = (c.put s1 r).rake p b k := fun p b k => by rw [hframe]; rfl
  have hown : rakeAt c.a (advance c u).drawn = r.jump c.active (c.pc + 8) := by
    rw [Sampling.rakeAt_advance rfl]
    exact congrArg (fun k : Rake => k.jump c.active (c.pc + 8)) ((hrake _ _ _).trans (rake_put c s1 r rfl))
  refine ⟨(advance c u).drawn, hexec, ?_, ?_, fun p b k hk => ?_, hbeds, fun hk l hl hact => ?_, hperformed, ?_⟩
  · rw [hown, jump_frame, horder]
  · rw [hown]
    exact nextPc_jump c r (by rw [horder])
  · exact (rake_setRake_other u _ hk).trans ((hrake p b k).trans (rake_setRake_other s1 r hk))
  · rw [hown, jump_frame]
    exact hmarked hk l hl hact
  · show { u with rakes := _, free := _ } = _
    rw [hframe]
    rfl

theorem fence_waits {kind : Nat} (h : Ready a s c s1) (hguard : c.guarded f.gd ≠ 0) (hkind : cField f 2 2 = kind)
    (hrelease : kind = 1 ∨ kind = 2) (hbusy : rakeBusy a s1 = true) : exec (.fence a f) s = .next s1.drawn := by
  have hx : exec (.fence a f) s = execFence a f s := rfl
  obtain ⟨hissue, hfetch⟩ := h
  have h3 : ¬ kind = 3 := by omega
  have h0 : kind ≠ 0 := by omega
  simp only [hx, execFence, bedNext, bedIssue, hissue, hfetch, if_neg hguard, hkind, if_neg h3, if_pos (And.intro h0 hbusy)]
  rfl

/-! ### TRAP (R141) -/

theorem trap_faults (h : Ready a s c s1) (hguard : c.guarded f.gd ≠ 0) :
    Completes (.trap a f) s (fun t => Faulted a c s1 t 8
      ∧ ((s1.bed a.pan a.bed).fValid = false → (t.bed a.pan a.bed).fAddr = (f.body.extractLsb' 0 16).zeroExtend 64)) := by
  obtain ⟨rfl, -⟩ := ready_rake h
  obtain ⟨hissue, hfetch⟩ := h
  have hexec : exec (.trap c.a f) s = .next (takeFault c { code := fTrap, addr := cField f 0 16 } s1).drawn := by
    have hx : exec (.trap c.a f) s = execTrap c.a f s := rfl
    simp only [hx, execTrap, bedNext, bedIssue, hissue, hfetch, if_neg hguard]
    rfl
  refine ⟨_, hexec, faulted_drawn (takeFault_faulted c { code := fTrap, addr := cField f 0 16 } rfl), fun hv => ?_⟩
  rw [State.drawn_bed, takeFault_eq, blockAbort_bed_frame, reported_bed, cField_eq]
  simp only [Bed.record, hv, Bool.false_eq_true, if_false]
  exact BitVec.ofNat_toNat 64 _

/-! ### The obligation -/

/-- Settles O13: a SYNC.RAKE's wait ends once, a barrier is met at the last arrival, and a fence changes what comes after what. -/
theorem waitsExitFenceTrapNop : Obligations.WaitsExitFenceTrapNop := by
  refine ⟨?_, ?_, ?_, ?_, ?_, ?_⟩
  · intro a f s c s1 i h hi
    obtain rfl | ⟨hguard, hi⟩ := hi
    · exact completes_next rfl h rfl
    · simp only [List.mem_cons, List.not_mem_nil, or_false] at hi
      obtain rfl | rfl | rfl | rfl := hi
      · exact completes_next rfl h (if_pos hguard)
      · exact completes_next rfl h (if_pos hguard)
      · exact completes_advance rfl h (if_pos hguard)
      · exact completes_advance rfl h (if_pos hguard)
  · intro a f s c s1 h
    exact exit_completes h
  · intro a f s c s1 m h hguard hpm hcover hwait hpc hothers
    exact syncRake_completes h hguard hpm hcover hwait hpc hothers
  · intro a f s c s1 x h hguard hx hslot
    exact ⟨fun hctx hmet hall => barBlock_met h hguard hx hslot hctx hmet hall, fun hout => barBlock_waits h hguard hx hout⟩
  · intro a f s c s1 h hguard kind scope
    have hkind : ∀ n, kind = BitVec.ofNat 2 n ↔ cField f 2 2 = n % 4 := by
      intro n
      rw [cField_eq, ← BitVec.toNat_inj, BitVec.toNat_ofNat]
    have h0 : kind = 0 ↔ cField f 2 2 = 0 := hkind 0
    have h1 : kind = 1 ↔ cField f 2 2 = 1 := hkind 1
    have h2 : kind = 2 ↔ cField f 2 2 = 2 := hkind 2
    have h3 : kind = 3 ↔ cField f 2 2 = 3 := hkind 3
    constructor
    · intro hgo
      have hgo' : cField f 2 2 = 0 ∨ (cField f 2 2 ≠ 3 ∧ rakeBusy a s1 = false) := hgo.imp h0.mp (And.imp_left (mt h3.mpr))
      obtain ⟨t, hexec, hrake, hnext, hothers, hbeds, hmarked, hperformed, hframe⟩ :=
        fence_completes h hguard rfl (cField_eq f 0 2) hgo'
      exact ⟨t, hexec, hrake, hnext, hothers, hbeds, fun hk => hmarked (mt h0.mpr hk), fun hk => hperformed (h2.mp hk), hframe⟩
    · intro hk hbusy
      exact fence_waits h hguard rfl (hk.imp h1.mp h2.mp) hbusy
  · intro a f s c s1 h hguard
    exact trap_faults h hguard

end Sys2Proof.Waits
end

section
/-!
PROOFS. ATOM on lines of the pan's cache (R139): a held line whose data counts as passed on is not what the next thread's atomic reads. -/

namespace Sys2Proof.Atomics

open Sys2Proof.Machine Sys2Proof.Safety Sys2Proof.Laws

/-- Threads 5 and 6 are guarded and name the virtual addresses 0 and 0x400000, of two pages with one frame. The pan's cache holds the
line in M as a tag whose data has passed on; the L2 of core 0 holds it in M with the same bytes. -/
def passedOn : State :=
  let k : CacheLine := { st := .m, data := padTo 64 [9, 8, 7, 6], stamp := 0 }
  let s := Tests.paged 0xFFF
  { s with
    rakes := [(0, { Tests.rake with p := [(0, 0x60)], v := Tests.rake.v ++ [(6 * 32 + 6, 0x400000)] })]
    mem := tputs 0 s.mem 0x3010 (leBytes 8 0xFFF)
    coh := { State.reset.coh with lines := [(agentKey (panAgent 0) 0, some { k with passed := true }), (agentKey 0 0, some k)] } }

/-- A group's targets, where a test of them passes. -/
theorem targets_of_test {e : Except BedFault (State × List Target)} {P : State → List Target → Prop} [∀ s ts, Decidable (P s ts)]
    (h : (match e with
      | .ok x => decide (P x.1 x.2)
      | .error _ => false) = true) : ∃ s2 ts, e = .ok (s2, ts) ∧ P s2 ts := by
  cases e with
  | error x => simp at h
  | ok x => exact ⟨x.1, x.2, rfl, by simpa using h⟩

/-- The targets lie in lines that the pan's cache holds for writing, and what thread 6 must find there is not what the line held. -/
abbrev HeldTargets (c : Issue) (s2 : State) (ts : List Target) : Prop :=
  (∀ u ∈ ts, u.cacheable = true ∧ u.pa % 4 = 0 ∧ HeldM Tests.at0 s2 u.pa
    ∧ (s2.cohBytes u.pa 4 = (List.range 4).map (fun j => heldByte Tests.at0 s2 (u.pa + j))) ∧ (s2.holders (lineOf u.pa)).length = 1)
  ∧ (s2.coh.lines.map Prod.fst).Nodup
  ∧ BitVec.ofNat 32 (atomicSees (heldByte Tests.at0 s2) (lanesOf (c.guarded Tests.vm.gd)) (paOf ts) 4
      (fun l old => atomicOp 0 4 old (c.rake.wide 2 1 l)) 6) = 0x06070807

theorem passedOn_held : ∃ c s1, MemRuns Tests.at0 Tests.vm passedOn c s1 4 (memRegs c Tests.vm 1 [4, 2]) ∧ Released Tests.at0 Tests.vm s1
    ∧ lane (c.guarded Tests.vm.gd) 6 = true ∧ ∃ s2 ts, targets c Tests.vm 4 .a kAtomic true s1 = .ok (s2, ts) ∧ HeldTargets c s2 ts :=
  ⟨_, _, ⟨⟨rfl, rfl⟩, by decide, rfl, by decide⟩, by decide, by decide, targets_of_test (by decide)⟩

/-- Thread 6 finds what the line held before thread 5's addition. -/
theorem exec_passedOn : Completes (.atom Tests.at0 Tests.vm) passedOn (fun t => (rakeAt Tests.at0 t).vget 4 6 = 0x06070809) :=
  ⟨_, rfl, by decide⟩

/-- Refutes O16: in `passedOn` thread 6 of an ATOM does not find what thread 5, of the same address, left in the pan's cache. -/
theorem not_bedAtomicsActOneThreadAtATime : ¬ Obligations.BedAtomicsActOneThreadAtATime := by
  intro h
  obtain ⟨c, s1, hruns, hreleased, hguard, s2, ts, htargets, hlines, hnodup, hsees⟩ := passedOn_held
  obtain ⟨-, hgo⟩ := h.1 Tests.at0 Tests.vm passedOn c s1 4 false (by simpa [Tests.vm, Tests.mf, sizeRegs, atomicSize] using hruns)
  obtain ⟨t, ht, ⟨hloads, -, -⟩, -⟩ := (hgo hreleased).2.1 s2 ts rfl htargets hlines hnodup
  obtain ⟨t', ht', hfound⟩ := exec_passedOn
  obtain rfl : t = t' := by
    have hsame := ht.symm.trans ht'
    simpa using hsame
  have hval := congrArg (BitVec.ofNat 32) (hloads.1 6 (by decide) hguard)
  have hwide : BitVec.ofNat 32 ((rakeAt Tests.at0 t).wide 4 1 6) = (rakeAt Tests.at0 t).vget 4 6 := by
    rw [Vector.wide_one, BitVec.ofNat_toNat, BitVec.setWidth_eq]
  have hcut : ∀ x, BitVec.ofNat 32 (x % 2 ^ (32 * 1)) = BitVec.ofNat 32 x := fun x => BitVec.eq_of_toNat_eq (by simp)
  have hnew := (hwide.symm.trans hval).trans ((hcut _).trans hsees)
  rw [hfound] at hnew
  exact absurd hnew (by decide)

end Sys2Proof.Atomics
end

section
/-!
PROOFS. KV.DISCARD of a stream whose pages overlay its own directory words (R175, R191): zeroing a position can clear the word that says
where the next one lies. -/

namespace Sys2Proof.Append

open Sys2Proof.Machine Sys2Proof.Safety Sys2Proof.Laws

/-- Agent 0's header stands three allocation units into the pan's brine, so that page 1 begins where the header's 64 KiB end. Its stream
has entries of 8 bytes, one to a page, and two positions, in the pages 1 and 5; its directory words stand where page 1 begins. A byte of
page 5 is not zero. KV.DISCARD of every position is at the head of bed 0's queue. -/
def overlaid : State :=
  let h := brineBase 0 + 3 * 65536
  let s := Tests.kvQueue (.kvDiscard Tests.rf) [0, 0x700, 0]
  { s with
    mem := tputs 0 (tputs 0 (tputs 0 (tputs 0 (tputs 0 s.mem 0x4000 (leBytes 8 (1 + 3 * 65536)))
      h (leBytes 4 0 ++ [0, 1, 7, 0] ++ leBytes 8 0 ++ leBytes 8 0 ++ leBytes 4 0 ++ leBytes 4 2))
      (h + 0x100) (leBytes 4 8 ++ leBytes 4 1 ++ leBytes 8 2 ++ leBytes 4 65536 ++ leBytes 4 0))
      (h + 65536) (leBytes 4 1 ++ leBytes 4 5))
      (brineBase 0 + 5 * 262144) [1] }

/-- The header of agent 0 in `overlaid`. -/
abbrev overlaidHeader : Nat := brineBase 0 + 3 * 65536

set_option maxRecDepth 100000 in
theorem overlaid_checks : (overlaid.agentDir 0).header = overlaidHeader ∧ kvCheck overlaid 0 (overlaid.agentDir 0) 7 = none
    ∧ AllHome overlaid ∧ hStreams overlaid overlaidHeader = 1 ∧ hC overlaid overlaidHeader = 0 := by decide

set_option maxRecDepth 100000 in
theorem overlaid_stream : WordsInside overlaid overlaidHeader 0
    ∧ ClearOf overlaid 0 overlaidHeader (streamRec overlaid overlaidHeader 0) 0 (streamRec overlaid overlaidHeader 0).fill
    ∧ InPositions overlaid 0 overlaidHeader (streamRec overlaid overlaidHeader 0) 0 (streamRec overlaid overlaidHeader 0).fill
        (brineBase 0 + 5 * 262144) := by
  refine ⟨by decide, by decide, 1, by decide⟩

set_option maxRecDepth 100000 in
theorem overlaid_clean : overlaid.poisoned overlaidHeader kib64 = false := by decide

set_option maxRecDepth 100000 in
theorem overlaid_keeps : memByte (runTurn overlaid (.dma 0 0)) (brineBase 0 + 5 * 262144) = 1 := by decide

/-- Refutes O23: in `overlaid` zeroing position 0 clears the words of both positions, and the byte of position 1 in page 5 stays. -/
theorem not_kvInstructionsAppendCommitAndDiscard : ¬ Obligations.KvInstructionsAppendCommitAndDiscard := by
  intro h
  obtain ⟨hheader, hpassed, hhome, hstreams, hc⟩ := overlaid_checks
  obtain ⟨hinside, hclear, hin⟩ := overlaid_stream
  obtain ⟨-, hturn⟩ := h.2 overlaid 0 0 (Tests.kvWork (.kvDiscard Tests.rf) [0, 0x700, 0]) [] Tests.rf ⟨rfl, rfl, rfl, by decide⟩
  obtain ⟨-, -, -, -, hcut⟩ := hturn hpassed
  have hagent : (overlaid.agentDir
      ((Tests.kvWork (.kvDiscard Tests.rf) [0, 0x700, 0]).sop 0 % 2 ^ 18)).header = overlaidHeader := hheader
  rw [hagent] at hcut
  obtain ⟨-, v, -, -, -, hzero⟩ := hcut overlaid_clean 0 (hC overlaid overlaidHeader) (Or.inr ⟨rfl, rfl, rfl, hc.le⟩)
  have hstream : ∀ y, y < hStreams overlaid overlaidHeader → y = 0 := fun y hy => by omega
  obtain ⟨hcleared, -⟩ := hzero hhome (fun y hy => by rw [hstream y hy]; exact ⟨hinside, hclear⟩)
  have hbyte := (hcleared 0 (by omega)).2 _ hin
  rw [overlaid_keeps] at hbyte
  exact absurd hbyte (by decide)

end Sys2Proof.Append
end

section
/-!
PROOFS. Writes of cacheless agents to lines that are nowhere but at their home (R288): the bytes named receive the bytes written, every
other byte of memory stays, and a line that was at its home alone stays so. -/

namespace Sys2Proof.Homes

open Sys2Proof.Machine Sys2Proof.Safety Sys2Proof.Laws

/-- A line is nowhere but at its home, in memory. -/
abbrev LineHome (s : State) (l : Nat) : Prop := s.holders l = [] ∧ s.partLine l = none

theorem lineHome_of_allHome {s : State} (h : AllHome s) (l : Nat) : LineHome s l :=
  ⟨by rw [State.holders, h.1]; rfl, by rw [State.partLine, h.2]; rfl⟩

/-- From s to t memory stays, and no cache and no partition takes a line. -/
def NoMoreHeld (s t : State) : Prop := t.mem = s.mem ∧ (∀ e ∈ t.coh.lines, e ∈ s.coh.lines) ∧ t.coh.part = s.coh.part

namespace NoMoreHeld

theorem refl (s : State) : NoMoreHeld s s := ⟨rfl, fun _ h => h, rfl⟩

theorem trans {s t u : State} (h : NoMoreHeld s t) (g : NoMoreHeld t u) : NoMoreHeld s u :=
  ⟨g.1.trans h.1, fun e he => h.2.1 e (g.2.1 e he), g.2.2.trans h.2.2⟩

theorem of_sameLines {s t : State} (h : Zeroing.SameLines s t) : NoMoreHeld s t := ⟨h.1, fun _ he => h.2.1 ▸ he, h.2.2⟩

theorem mem_of_tdel {α : Type} {t : Table α} {k : Nat} {e : Nat × α} (h : e ∈ tdel t k) : e ∈ t := by
  induction t with
  | nil => simp [tdel] at h
  | cons x r ih =>
    rw [tdel] at h
    split at h
    · exact List.mem_cons_of_mem _ (ih h)
    · exact (List.mem_cons.mp h).elim (fun he => he ▸ List.mem_cons_self) (fun he => List.mem_cons_of_mem _ (ih he))

theorem dropCopy (s : State) (a l : Nat) : NoMoreHeld s (s.setCached a l none) :=
  ⟨rfl, fun e he => mem_of_tdel (by simpa [State.setCached, State.updCoh, tput] using he), rfl⟩

theorem spendLine (s : State) (l cls : Nat) : NoMoreHeld s (spendLine s l cls) := by
  have h := Frames.TokensOnly.spendLine s l cls
  rw [Frames.TokensOnly] at h
  rw [h]
  exact refl s

theorem unkeep (s : State) (a n : Nat) : NoMoreHeld s (s.unkeep a n) := ⟨rfl, fun _ h => h, rfl⟩

/-- The invalidation of a line that no cache holds with its data. -/
theorem invalidate {s : State} {l : Nat} (h : s.holders l = []) (discard : Bool) : NoMoreHeld s (invalidate s l none discard) := by
  have heq : Machine.invalidate s l none discard
      = (coresLose ((s.passedTags l).foldl (fun s h => s.setCached h.1 l none) (countInval s l none)) l none).setDir l none := by
    simp only [Machine.invalidate, h]
    rfl
  have htags : NoMoreHeld (countInval s l none) ((s.passedTags l).foldl (fun s h => s.setCached h.1 l none) (countInval s l none)) :=
    List.foldlRecOn _ _ (refl _) (fun t ht x _ => ht.trans (dropCopy t x.1 l))
  rw [heq]
  exact (of_sameLines (Zeroing.SameLines.countInval s l none)).trans (htags.trans
    (of_sameLines ((Zeroing.SameLines.coresLose _ l none).trans (Zeroing.SameLines.setDir _ l none))))

theorem dramLine {s : State} (l : Nat) (d : List Byte) (poison : Bool) (k : Nat) (h : LineHome s k) : LineHome (s.dramLine l d poison) k := by
  obtain ⟨-, hlines, hpart⟩ := Zeroing.SameLines.noteHome s (l * 64) d.length
  have hnoted : (s.dramLine l d poison).coh.lines = s.coh.lines ∧ (s.dramLine l d poison).coh.part = s.coh.part := ⟨hlines, hpart⟩
  exact ⟨by rw [State.holders, hnoted.1]; exact h.1, by rw [State.partLine, hnoted.2]; exact h.2⟩

theorem lineHome {s t : State} (h : NoMoreHeld s t) {k : Nat} (hk : LineHome s k) : LineHome t k := by
  obtain ⟨hheld, hpart⟩ := hk
  refine ⟨?_, by rw [State.partLine, h.2.2]; exact hpart⟩
  rw [State.holders, List.filterMap_eq_nil_iff] at hheld ⊢
  exact fun e he => hheld e (h.2.1 e he)

end NoMoreHeld

theorem homeWrite_of_lineHome {s : State} {l : Nat} (h : LineHome s l) (d : List Byte) (poison : Bool) :
    s.homeWrite l d poison none = s.dramLine l d poison := by
  simp only [State.homeWrite, h.2]

theorem tget_line (t : Table Byte) (l x : Nat) (d : List Byte) (hd : d.length = 64) :
    tget 0 (tputs 0 t (l * 64) d) x = if x / 64 = l then d.getD (x % 64) 0 else tget 0 t x := by
  split
  case isTrue hx =>
    have hin := tget_tputs_inside (d := (0 : Byte)) d t (l * 64) (x % 64) (by omega)
    rw [show l * 64 + x % 64 = x by omega] at hin
    rw [hin, List.getD_eq_getElem _ _ (by omega)]
  case isFalse hx => exact tget_tputs_outside _ _ _ _ (by omega)

theorem length_memBytes (s : State) (pa n : Nat) : (s.memBytes pa n).length = n := by simp [State.memBytes, tgets]

theorem getD_memBytes (s : State) (pa : Nat) {n i : Nat} (h : i < n) : (s.memBytes pa n).getD i 0 = memByte s (pa + i) := by
  rw [List.getD_eq_getElem _ _ (by rw [length_memBytes]; exact h)]
  simp [State.memBytes, tgets, memByte]

theorem length_overlay {d bs : List Byte} {off : Nat} (h : off + bs.length ≤ d.length) : (overlay d off bs).length = d.length := by
  simp only [overlay, List.length_append, List.length_take, List.length_drop]
  omega

theorem getD_overlay {d bs : List Byte} {off : Nat} (h : off + bs.length ≤ d.length) (i : Nat) :
    (overlay d off bs).getD i 0 = if off ≤ i ∧ i < off + bs.length then bs.getD (i - off) 0 else d.getD i 0 := by
  have htake : (d.take off).length = off := by simp; omega
  simp only [overlay, List.getD_eq_getElem?_getD, List.append_assoc]
  rcases lt_or_ge i off with hlo | hlo
  · rw [List.getElem?_append_left (by omega), List.getElem?_take_of_lt hlo, if_neg (by omega)]
  · rw [List.getElem?_append_right (by omega), htake]
    rcases lt_or_ge i (off + bs.length) with hhi | hhi
    · rw [List.getElem?_append_left (by omega), if_pos ⟨hlo, hhi⟩]
    · rw [List.getElem?_append_right (by omega), List.getElem?_drop, if_neg (by omega)]
      congr 3
      omega

/-- One line's part of a cacheless write, where the line is at its home alone. -/
theorem cachelessLine_home {s : State} {l off : Nat} {bs : List Byte} (h : LineHome s l) (hlen : off + bs.length ≤ 64) (cls : Nat) :
    (∀ x, memByte (cachelessLine s cls l off bs) x
        = if l * 64 + off ≤ x ∧ x < l * 64 + off + bs.length then bs.getD (x - (l * 64 + off)) 0 else memByte s x)
      ∧ ∀ k, LineHome s k → LineHome (cachelessLine s cls l off bs) k := by
  have hbegun : NoMoreHeld s ((spendLine s l cls).unkeep (l * 64 + off) bs.length) :=
    (NoMoreHeld.spendLine s l cls).trans (NoMoreHeld.unkeep _ _ _)
  rw [cachelessLine]
  generalize (spendLine s l cls).unkeep (l * 64 + off) bs.length = u at hbegun
  have hgone (discard : Bool) : NoMoreHeld s (invalidate u l none discard) :=
    hbegun.trans (NoMoreHeld.invalidate (hbegun.lineHome h).1 discard)
  dsimp only
  split
  case isTrue hfull =>
    obtain rfl : off = 0 := by omega
    have hclear := hgone true
    generalize invalidate u l none true = v at hclear
    rw [homeWrite_of_lineHome (hclear.lineHome h)]
    refine ⟨fun x => ?_, fun k hk => NoMoreHeld.dramLine _ _ _ k (hclear.lineHome hk)⟩
    rw [memByte, Zeroing.dramLine_mem, tget_line _ _ _ _ hfull, hclear.1]
    by_cases hx : x / 64 = l
    · rw [if_pos hx, if_pos (by omega), show x - (l * 64 + 0) = x % 64 by omega]
    · rw [if_neg hx, if_neg (by omega)]; rfl
  case isFalse =>
    have hclear := hgone false
    generalize invalidate u l none false = v at hclear
    have hline : v.homeLine l = s.memBytes (l * 64) 64 := by
      simp only [State.homeLine, (hclear.lineHome h).2, State.memBytes, hclear.1]
    have hfits : off + bs.length ≤ (s.memBytes (l * 64) 64).length := by rw [length_memBytes]; exact hlen
    rw [homeWrite_of_lineHome (hclear.lineHome h), hline]
    refine ⟨fun x => ?_, fun k hk => NoMoreHeld.dramLine _ _ _ k (hclear.lineHome hk)⟩
    rw [memByte, Zeroing.dramLine_mem, tget_line _ _ _ _ ((length_overlay hfits).trans (length_memBytes ..)), hclear.1,
      getD_overlay hfits]
    by_cases hx : x / 64 = l
    · have hmod : l * 64 + x % 64 = x := by omega
      rw [if_pos hx, getD_memBytes _ _ (Nat.mod_lt _ (by decide)), hmod]
      exact if_congr (by omega) (by congr 1; omega) rfl
    · rw [if_neg hx, if_neg (by omega)]; rfl

/-- The part of a run of bytes that lies in a line. -/
def piece (pa : Nat) (bs : List Byte) (l : Nat) : Nat × List Byte :=
  (max pa (l * 64) - l * 64, (bs.drop (max pa (l * 64) - pa)).take (min (pa + bs.length) (l * 64 + 64) - max pa (l * 64)))

theorem cachelessBy_pieces (cls : Nat) (s : State) (pa : Nat) (bs : List Byte) : cachelessBy cls s pa bs
    = (linesOf pa bs.length).foldl (fun s l => cachelessLine s cls l (piece pa bs l).1 (piece pa bs l).2) s := by
  rw [cachelessBy, splitLines, List.foldl_map]
  rfl

theorem mem_linesOf {pa n l : Nat} : l ∈ linesOf pa n ↔ 0 < n ∧ pa / 64 ≤ l ∧ l ≤ (pa + n - 1) / 64 := by
  rw [linesOf]
  split
  case isTrue h => simp [h]
  case isFalse h =>
    simp only [List.mem_map, List.mem_range]
    constructor
    · rintro ⟨i, hi, rfl⟩; omega
    · exact fun hl => ⟨l - pa / 64, by omega, by omega⟩

theorem length_piece (pa : Nat) (bs : List Byte) (l : Nat) :
    (piece pa bs l).2.length = min (min (pa + bs.length) (l * 64 + 64) - max pa (l * 64)) (bs.length - (max pa (l * 64) - pa)) := by
  simp [piece]

/-- A line's part holds the addresses of the run that lie in the line. -/
theorem mem_piece {pa l x : Nat} {bs : List Byte} (h : l ∈ linesOf pa bs.length) :
    (l * 64 + (piece pa bs l).1 ≤ x ∧ x < l * 64 + (piece pa bs l).1 + (piece pa bs l).2.length)
      ↔ x / 64 = l ∧ pa ≤ x ∧ x < pa + bs.length := by
  obtain ⟨hpos, hlo, hhi⟩ := mem_linesOf.mp h
  rw [length_piece, piece]
  omega

theorem piece_fits {pa l : Nat} {bs : List Byte} (h : l ∈ linesOf pa bs.length) :
    (piece pa bs l).1 + (piece pa bs l).2.length ≤ 64 := by
  obtain ⟨hpos, hlo, hhi⟩ := mem_linesOf.mp h
  rw [length_piece, piece]
  omega

theorem getD_piece {pa l x : Nat} {bs : List Byte} (h : x / 64 = l) (hlo : pa ≤ x) (hhi : x < pa + bs.length) :
    (piece pa bs l).2.getD (x - (l * 64 + (piece pa bs l).1)) 0 = bs.getD (x - pa) 0 := by
  simp only [piece, List.getD_eq_getElem?_getD]
  rw [List.getElem?_take_of_lt (by omega), List.getElem?_drop]
  congr 2
  omega

/-- A write of some of the lines of a run of bytes, each at its home alone. -/
theorem pieces_home {pa : Nat} {bs : List Byte} (cls : Nat) (ls : List Nat) : ∀ {s : State}, (∀ l ∈ ls, LineHome s l) →
    (∀ l ∈ ls, l ∈ linesOf pa bs.length) →
    let t := ls.foldl (fun s l => cachelessLine s cls l (piece pa bs l).1 (piece pa bs l).2) s
    (∀ x, memByte t x = if x / 64 ∈ ls ∧ pa ≤ x ∧ x < pa + bs.length then bs.getD (x - pa) 0 else memByte s x)
      ∧ ∀ k, LineHome s k → LineHome t k := by
  induction ls with
  | nil => exact fun _ _ => ⟨fun x => by simp, fun k hk => hk⟩
  | cons l ls ih =>
    intro s hhome hin
    have hmem := hin l List.mem_cons_self
    obtain ⟨hbytes, hkeeps⟩ := cachelessLine_home (hhome l List.mem_cons_self) (piece_fits hmem) cls
    obtain ⟨hrest, hall⟩ := ih (fun k hk => hkeeps k (hhome k (List.mem_cons_of_mem _ hk))) (fun k hk => hin k (List.mem_cons_of_mem _ hk))
    refine ⟨fun x => ?_, fun k hk => hall k (hkeeps k hk)⟩
    rw [List.foldl_cons, hrest, hbytes]
    by_cases hls : x / 64 ∈ ls ∧ pa ≤ x ∧ x < pa + bs.length
    · rw [if_pos hls, if_pos ⟨List.mem_cons_of_mem _ hls.1, hls.2⟩]
    rw [if_neg hls]
    by_cases hx : x / 64 = l ∧ pa ≤ x ∧ x < pa + bs.length
    · rw [if_pos ((mem_piece hmem).mpr hx), if_pos ⟨hx.1 ▸ List.mem_cons_self, hx.2⟩, getD_piece hx.1 hx.2.1 hx.2.2]
    · rw [if_neg (fun hpiece => hx ((mem_piece hmem).mp hpiece)), if_neg]
      rintro ⟨hline, hrange⟩
      exact (List.mem_cons.mp hline).elim (fun he => hx ⟨he, hrange⟩) (fun he => hls ⟨he, hrange⟩)

/-- A write of bytes whose lines are all at their home alone. -/
theorem cachelessBy_home {s : State} {pa : Nat} {bs : List Byte} (cls : Nat) (h : ∀ l ∈ linesOf pa bs.length, LineHome s l) :
    (∀ x, memByte (cachelessBy cls s pa bs) x = if pa ≤ x ∧ x < pa + bs.length then bs.getD (x - pa) 0 else memByte s x)
      ∧ ∀ k, LineHome s k → LineHome (cachelessBy cls s pa bs) k := by
  rw [cachelessBy_pieces]
  obtain ⟨hbytes, hkeeps⟩ := pieces_home cls _ h (fun _ hl => hl)
  refine ⟨fun x => (hbytes x).trans (if_congr ⟨fun hx => hx.2, fun hx => ⟨mem_linesOf.mpr ?_, hx⟩⟩ rfl rfl), hkeeps⟩
  omega

end Sys2Proof.Homes
end

section
/-!
PROOFS. Bytes with others in their place (R220, R221): each is the byte that stood there or one of those put in. -/

namespace Sys2Proof.Patching

open Sys2Proof.Machine Sys2Proof.Safety Sys2Proof.Laws

variable {lo : Nat}

theorem length_patch (os : List (Nat × Byte)) (bs : List Byte) : (patch lo bs os).length = bs.length := by
  refine List.foldlRecOn (motive := fun x : List Byte => x.length = bs.length) os _ rfl (fun x hx e _ => ?_)
  split
  · rw [List.length_set, hx]
  · exact hx

theorem getD_set {bs : List Byte} {i j : Nat} {x : Byte} (h : i < bs.length) :
    (bs.set j x).getD i 0 = if j = i then x else bs.getD i 0 := by
  simp only [List.getD_eq_getElem?_getD, List.getElem?_set]
  split
  case isTrue hj =>
    subst hj
    rw [if_pos h, Option.getD_some]
  case isFalse => rfl

theorem getD_patch (os : List (Nat × Byte)) : ∀ (bs : List Byte) {i : Nat}, i < bs.length →
    (patch lo bs os).getD i 0 = bs.getD i 0 ∨ (lo + i, (patch lo bs os).getD i 0) ∈ os := by
  induction os with
  | nil => exact fun bs i _ => .inl rfl
  | cons e os ih =>
    intro bs i hi
    have hstep : patch lo bs (e :: os) = patch lo (if lo ≤ e.1 then bs.set (e.1 - lo) e.2 else bs) os := rfl
    rw [hstep]
    split
    case isFalse => exact (ih bs hi).imp_right (List.mem_cons_of_mem _)
    case isTrue hlo =>
      rcases ih (bs.set (e.1 - lo) e.2) (i := i) (by rw [List.length_set]; exact hi) with hkept | hput
      · rw [hkept, getD_set hi]
        split
        case isTrue he =>
          have hadr : lo + i = e.1 := by omega
          exact .inr (hadr ▸ List.mem_cons_self)
        case isFalse => exact .inl rfl
      · exact .inr (List.mem_cons_of_mem _ hput)

end Sys2Proof.Patching
end

section
/-!
PROOFS. The sides of a copy (R203, R342, R344): translating a range changes its pan and the events alone; a note of held translations and
spent tokens change nothing of what a side reads. -/

namespace Sys2Proof.Sides

open Sys2Proof.Machine Sys2Proof.Safety Sys2Proof.Laws

/-- From s to t nothing changes but the pans and the events. -/
def XlatOnly (s t : State) : Prop := t = { s with pans := t.pans, events := t.events }

namespace XlatOnly

theorem refl (s : State) : XlatOnly s s := rfl

theorem trans {s t u : State} (h : XlatOnly s t) (g : XlatOnly t u) : XlatOnly s u :=
  Eq.trans g (congrArg (fun z : State => { z with pans := u.pans, events := u.events }) h)

theorem updPan (s : State) (p : Nat) (f : Pan → Pan) : XlatOnly s (s.updPan p f) := rfl

theorem raise (s : State) (e : Event) : XlatOnly s (s.raise e) := by
  rw [XlatOnly, State.raise_frame]

theorem panXlat (s : State) (p slot : Nat) (need : Need) (cacheless : Bool) (va i : Nat) :
    XlatOnly s (panXlat s p slot need cacheless va i).1 := by
  unfold Machine.panXlat
  split
  · exact refl s
  · dsimp only
    split
    · exact rfl
    · split
      · exact rfl
      · dsimp only
        split
        · exact (updPan s p _).trans (raise _ _)
        · exact rfl

theorem xlatRange (p slot : Nat) (need : Need) (fuel : Nat) : ∀ (s : State) (va n i : Nat) (acc : List (Nat × Nat × Nat)),
    XlatOnly s (xlatRange s p slot need fuel va n i acc).1 := by
  induction fuel with
  | zero => exact fun s va n i acc => refl s
  | succ k ih =>
    intro s va n i acc
    have hone := panXlat s p slot need true va i
    unfold Machine.xlatRange
    split
    · exact refl s
    · cases hx : Machine.panXlat s p slot need true va i with
      | mk s1 e =>
        rw [hx] at hone
        cases e with
        | error f => exact hone
        | ok x =>
          dsimp only
          split
          · exact hone
          · exact hone.trans (ih s1 _ _ _ _)

theorem sideOf (pan : Nat) (scratch : Bool) (addr n i : Nat) (need : Need) (s : State) :
    XlatOnly s (sideOf pan scratch addr n i need s).1 := by
  have hrange := xlatRange pan s.slotRun need (pageFuel n) s addr n i []
  unfold Machine.sideOf
  split
  · exact refl s
  · cases hx : Machine.xlatRange s pan s.slotRun need (pageFuel n) addr n i [] with
    | mk s1 e =>
      rw [hx] at hrange
      cases e with
      | error f => exact hrange
      | ok g => exact hrange

theorem of_sideOf {pan : Nat} {scratch : Bool} {addr n i : Nat} {need : Need} {s s2 : State} {x : Except (XFail × Nat) Side}
    (h : Machine.sideOf pan scratch addr n i need s = (s2, x)) : XlatOnly s s2 := by
  have := sideOf pan scratch addr n i need s
  rw [h] at this
  exact this

theorem keeps {s t : State} (h : XlatOnly s t) :
    t.rakes = s.rakes ∧ t.beds = s.beds ∧ t.tide = s.tide ∧ t.mem = s.mem ∧ t.coh = s.coh := by
  rw [XlatOnly] at h
  rw [h]
  exact ⟨rfl, rfl, rfl, rfl, rfl⟩

end XlatOnly

/-- A side in scratch takes no translation. -/
theorem sideOf_scratch {pan addr n i : Nat} {need : Need} {s s2 : State} {x : Side}
    (h : sideOf pan true addr n i need s = (s2, .ok x)) : s2 = s ∧ x = { scratch := true, addr := addr, pages := [] } := by
  simpa [sideOf, eq_comm] using h

/-- A side in memory stands at its address. -/
theorem sideOf_memory {pan addr n i : Nat} {need : Need} {s s2 : State} {x : Side}
    (h : sideOf pan false addr n i need s = (s2, .ok x)) : x.scratch = false ∧ x.addr = addr := by
  simp only [sideOf, Bool.false_eq_true, if_false] at h
  split at h
  · simp only [Prod.mk.injEq, Except.ok.injEq] at h
    rw [← h.2]
    exact ⟨rfl, rfl⟩
  · simp at h

/-! ### What a side reads -/

theorem place_noteHeld (s : State) (p n pa : Nat) : place (noteHeld s p n) pa = place s pa := by
  have hservice (q : Nat) : ((noteHeld s p n).pan q).service = (s.pan q).service := by
    rw [noteHeld, pan_updPan]
    split
    case isTrue h => rw [h]
    case isFalse => rfl
  unfold place
  simp only [hservice]
  rfl

theorem canon_noteHeld (s : State) (p n pa : Nat) : canon (noteHeld s p n) pa = canon s pa := by
  simp only [canon, place_noteHeld]

theorem sideRuns_congr {s t : State} (h : ∀ pa, canon t pa = canon s pa) (x : Side) (n : Nat) :
    ∀ fuel off, sideRuns t x fuel off n = sideRuns s x fuel off n := by
  intro fuel
  induction fuel with
  | zero => exact fun off => rfl
  | succ k ih => intro off; simp only [sideRuns, heldPa, h, ih]

theorem sideBad_noteHeld (s : State) (p k : Nat) (d : Bed) (x : Side) (n : Nat) : sideBad (noteHeld s p k) d x n = sideBad s d x n := by
  simp only [sideBad, sideRuns_congr (canon_noteHeld s p k)]
  rfl

theorem sideRead_noteHeld (s : State) (p k : Nat) (d : Bed) (v : Viewer) (x : Side) (n : Nat) :
    sideRead (noteHeld s p k) d v x n = sideRead s d v x n := by
  simp only [sideRead, sideRuns_congr (canon_noteHeld s p k)]
  rfl

theorem tokensOnly_sideSpend (s : State) (x : Side) (n : Nat) : Frames.TokensOnly s (sideSpend s x n) := by
  unfold sideSpend
  split
  · exact Frames.TokensOnly.refl s
  · exact Frames.TokensOnly.foldl (fun t r => Frames.TokensOnly.spendRange t _ _ 3) _ s

theorem canon_of_tokensOnly {s t : State} (h : Frames.TokensOnly s t) (pa : Nat) : canon t pa = canon s pa := by
  rw [Frames.TokensOnly] at h
  rw [h]
  rfl

/-- The writes of a side change its bed, memory, the coherence state, the stockpile and the cores alone. -/
theorem sideWrite_frame (s : State) (p b : Nat) (x : Side) (bs : List Byte) :
    sideWrite s p b x bs = { s with
      beds := (sideWrite s p b x bs).beds, mem := (sideWrite s p b x bs).mem, coh := (sideWrite s p b x bs).coh,
      stk := (sideWrite s p b x bs).stk, cores := (sideWrite s p b x bs).cores } := by
  unfold sideWrite
  split
  · rfl
  · have honly : Frames.MemoryOnly s ((sideRuns s x (pageFuel bs.length) 0 bs.length).foldl
        (fun s r => cachelessWrite s r.2.2 ((bs.drop r.1).take r.2.1)) s) :=
      Frames.MemoryOnly.foldl (fun t r => Frames.MemoryOnly.cachelessWrite t _ _) _ s
    rw [Frames.MemoryOnly] at honly
    exact honly.trans (by rw [honly])

end Sys2Proof.Sides
end

section
/-!
PROOFS. Turns of the DMA engine (R177 to R179, R203, R344): copies, moves asked of the salter, flood sources, and the tide mover's fetch. -/

namespace Sys2Proof.Copies

open Sys2Proof.Machine Sys2Proof.Safety Sys2Proof.Laws Sys2Proof.Sides

/-! ### The turn and its answer -/

/-- A status put into a scalar destination is what the instruction answers. -/
theorem answers_putStatus {s u : State} {w : Work} {sd : BitVec 6} {v : Nat} (h : u.rakes = s.rakes) :
    Answers s (putStatus w.at_ sd.toNat v u) w sd v := by
  have hrake (p b k : Nat) : u.rake p b k = s.rake p b k := by rw [State.rake, h]; rfl
  have hput : (putStatus w.at_ sd.toNat v u).rake w.at_.pan w.at_.bed w.at_.slot
      = (s.rake w.at_.pan w.at_.bed w.at_.slot).sset sd.toNat (BitVec.ofNat 64 v) := by
    rw [← hrake]
    exact rake_setRake_same ..
  unfold Answers
  dsimp only
  rw [hput]
  refine ⟨sget_sset_same .., fun n hn => sget_sset_other _ _ hn, rfl, fun p b k hk => ?_⟩
  rw [← hrake]
  exact rake_setRake_other _ _ hk

section Turn

variable {s : State} {p b : Nat} {w : Work} {rest : List Work} {f : RFmt} (hhead : DmaHead s p b w rest)
include hhead

/-- The head of a bed's queue leaves it for the engine that serves it. -/
theorem runTurn_copy (hop : w.op = .copy f) :
    runTurn s (.dma p b) = copyRun w f (s.updBed p b (fun d => { d with dq := rest })) := by
  simp [runTurn, runDma, hhead.1, hop, WorkOp.isKv]

theorem runTurn_fetch (hop : w.op = .agentFetch f) :
    runTurn s (.dma p b) = fetchRun w f (s.updBed p b (fun d => { d with dq := rest })) := by
  simp [runTurn, runDma, hhead.1, hop, WorkOp.isKv]

theorem runTurn_spill (hop : w.op = .agentSpill f) :
    runTurn s (.dma p b) = spillRun w f (s.updBed p b (fun d => { d with dq := rest })) := by
  simp [runTurn, runDma, hhead.1, hop, WorkOp.isKv]

theorem runTurn_flood (hop : w.op = .flood f) :
    runTurn s (.dma p b) = floodRun w f (s.updBed p b (fun d => { d with dq := rest })) := by
  simp [runTurn, runDma, hhead.1, hop, WorkOp.isKv]

end Turn

/-- A pan-side failure of a queued instruction: its status, and the translation record. -/
theorem answers_queueRefused {s u : State} {w : Work} {sd : BitVec 6} {kind : Nat} {e : XFail × Nat} {p : Nat} (h : u.rakes = s.rakes)
    (hp : w.at_.pan = p) :
    let t := queueRefused w.at_ sd.toNat kind e.1 e.2 u
    Answers s t w sd (refusalStatus e.1.cause) ∧ t = { u with rakes := t.rakes, pans := t.pans }
      ∧ ((u.pan p).xValid = false → (t.pan p).xValid = true ∧ (t.pan p).xVa = e.2 % 2 ^ 48) := by
  subst hp
  refine ⟨answers_putStatus (u := recordXlat ..) h, rfl, fun hvalid => ?_⟩
  have hpan : (queueRefused w.at_ sd.toNat kind e.1 e.2 u).pan w.at_.pan
      = (recordXlat u w.at_.pan w.at_.bed u.slotRun kind true e.1 e.2).pan w.at_.pan := rfl
  rw [hpan, recordXlat, pan_updPan, if_pos rfl, hvalid]
  exact ⟨rfl, rfl⟩

/-! ### Copies -/

/-- The arguments of a copy that it refuses. -/
abbrev CopyBad (w : Work) : Prop :=
  w.sop 2 = 0 ∨ 2 ^ 32 < w.sop 2 ∨ (bitN (w.sop 3) 0 = true ∧ scratchSize < w.sop 0 + w.sop 2)
    ∨ (bitN (w.sop 3) 1 = true ∧ scratchSize < w.sop 1 + w.sop 2)

section Copy

variable {w : Work} {f : RFmt} {u s2 s3 : State} {x y : Side} {e : XFail × Nat}

theorem copyRun_bad (h : CopyBad w) : copyRun w f u = putStatus w.at_ f.sd.toNat stBadArgument u := by
  simp only [copyRun]
  rw [if_pos h]

theorem copyRun_source (h : ¬ CopyBad w)
    (hsrc : sideOf w.at_.pan (bitN (w.sop 3) 0) (w.sop 0) (w.sop 2) 0 .r u = (s2, .error e)) :
    copyRun w f u = queueRefused w.at_ f.sd.toNat kDmaSrc e.1 e.2 s2 := by
  simp only [copyRun]
  rw [if_neg h]
  simp only [hsrc]

theorem copyRun_target (h : ¬ CopyBad w)
    (hsrc : sideOf w.at_.pan (bitN (w.sop 3) 0) (w.sop 0) (w.sop 2) 0 .r u = (s2, .ok x))
    (hdst : sideOf w.at_.pan (bitN (w.sop 3) 1) (w.sop 1) (w.sop 2) (pageFuel (w.sop 2)) .w s2 = (s3, .error e)) :
    copyRun w f u = queueRefused w.at_ f.sd.toNat kDmaDst e.1 e.2 s3 := by
  simp only [copyRun]
  rw [if_neg h]
  simp only [hsrc, hdst]

/-- A copy's state before its bytes are written: the translations it holds are noted, its reads' tokens spent. -/
def readDone (s3 : State) (p k : Nat) (x : Side) (n : Nat) : State := sideSpend (noteHeld s3 p k) x n

theorem copyRun_done (h : ¬ CopyBad w)
    (hsrc : sideOf w.at_.pan (bitN (w.sop 3) 0) (w.sop 0) (w.sop 2) 0 .r u = (s2, .ok x))
    (hdst : sideOf w.at_.pan (bitN (w.sop 3) 1) (w.sop 1) (w.sop 2) (pageFuel (w.sop 2)) .w s2 = (s3, .ok y))
    (hbad : sideBad s3 (s3.bed w.at_.pan w.at_.bed) x (w.sop 2) = none)
    (hrace : ∀ r ∈ (s3.bed w.at_.pan w.at_.bed).kept, racing w.viewer r = false) :
    ∃ k, copyRun w f u = putStatus w.at_ f.sd.toNat stOk ((sideWrite (readDone s3 w.at_.pan k x (w.sop 2)) w.at_.pan w.at_.bed y
      (sideRead s3 (s3.bed w.at_.pan w.at_.bed) w.viewer x (w.sop 2))).tagHome u.coh.homeNo (some (bedNo w.at_)) none) := by
  refine ⟨(s3.bed w.at_.pan w.at_.bed).heldPages + x.pages.length + y.pages.length, ?_⟩
  have hseen (k : Nat) : w.seen (noteHeld s3 w.at_.pan k) = s3.bed w.at_.pan w.at_.bed := Queueing.seen_of_no_race _ hrace
  simp only [copyRun]
  rw [if_neg h]
  simp only [hsrc, hdst, sideBad_noteHeld, hbad, hseen, sideRead_noteHeld, readDone]

theorem readDone_frame (s3 : State) (p k : Nat) (x : Side) (n : Nat) :
    ∃ stk pans, readDone s3 p k x n = { s3 with stk := stk, pans := pans } := by
  have h := tokensOnly_sideSpend (noteHeld s3 p k) x n
  rw [Frames.TokensOnly] at h
  exact ⟨_, _, h⟩

theorem canon_readDone (s3 : State) (p k : Nat) (x : Side) (n pa : Nat) : canon (readDone s3 p k x n) pa = canon s3 pa := by
  rw [readDone, canon_of_tokensOnly (tokensOnly_sideSpend ..), canon_noteHeld]

end Copy

/-- Bytes poked into scratch. -/
theorem poke_scratch (d : Bed) (off : Nat) (bs : List Byte) (k : Nat) : tget 0 (d.poke off bs).scratch k
    = if off ≤ k ∧ k < off + bs.length then bs.getD (k - off) 0 else tget 0 d.scratch k := by
  change tget 0 (tputs 0 d.scratch off bs) k = _
  split
  case isTrue h =>
    have hin := tget_tputs_inside (d := (0 : Byte)) bs d.scratch off (k - off) (by omega)
    rw [Nat.add_sub_cancel' h.1] at hin
    rw [hin, List.getD_eq_getElem _ _ (by omega)]
  case isFalse h => exact tget_tputs_outside _ _ _ _ (by omega)

/-- A side in memory that lies in one page is one run. -/
theorem sideRuns_one {s : State} {y : Side} {n pa : Nat} (hn : 0 < n) (hpage : n ≤ 4096 - y.addr % 4096)
    (hpa : heldPa s y.pages y.addr = some pa) : sideRuns s y (pageFuel n) 0 n = [(0, n, pa)] := by
  rw [pageFuel, sideRuns, if_neg (by omega)]
  simp only [Nat.sub_zero, Nat.add_zero, Nat.zero_add, min_eq_left hpage, hpa, Option.getD_some, sideRuns, le_refl, if_true]

/-- What a copy leaves whose bytes go to scratch. -/
theorem copied_scratch {s3 : State} {a : At} {sd k n no : Nat} {bed : Option Nat} {x y : Side} {bs : List Byte} (hy : y.scratch = true) :
    let t := putStatus a sd stOk ((sideWrite (readDone s3 a.pan k x n) a.pan a.bed y bs).tagHome no bed none)
    t.bed a.pan a.bed = (s3.bed a.pan a.bed).poke y.addr bs
      ∧ t = { s3 with beds := t.beds, rakes := t.rakes, pans := t.pans, stk := t.stk, coh := { s3.coh with homeLog := t.coh.homeLog } }
      ∧ ∀ p' b', bedKey p' b' ≠ bedKey a.pan a.bed → t.bed p' b' = s3.bed p' b' := by
  obtain ⟨stk, pans, hread⟩ := readDone_frame s3 a.pan k x n
  rw [sideWrite, if_pos hy, hread]
  exact ⟨bed_setBed_same .., rfl, fun p' b' hb => bed_setBed_other _ _ hb⟩

/-- What a copy leaves whose bytes go to one page of memory, every line at its home. -/
theorem copied_memory {s3 : State} {a : At} {sd k n no pa : Nat} {bed : Option Nat} {x y : Side} {bs : List Byte} (hy : y.scratch = false)
    (hhome : AllHome s3) (hpos : 0 < bs.length) (hpage : bs.length ≤ 4096 - y.addr % 4096) (hpa : heldPa s3 y.pages y.addr = some pa) :
    let t := putStatus a sd stOk ((sideWrite (readDone s3 a.pan k x n) a.pan a.bed y bs).tagHome no bed none)
    (∀ j, memByte t j = if pa ≤ j ∧ j < pa + bs.length then bs.getD (j - pa) 0 else memByte s3 j)
      ∧ t.beds = s3.beds ∧ t.events = s3.events ∧ t.tide = s3.tide := by
  have hruns := (sideRuns_congr (canon_readDone s3 a.pan k x n) y bs.length (pageFuel bs.length) 0).trans (sideRuns_one hpos hpage hpa)
  obtain ⟨stk, pans, hread⟩ := readDone_frame s3 a.pan k x n
  have hwrite : sideWrite (readDone s3 a.pan k x n) a.pan a.bed y bs = cachelessWrite (readDone s3 a.pan k x n) pa bs := by
    simp [sideWrite, hy, hruns]
  rw [hwrite, hread]
  have hhome' : AllHome { s3 with stk := stk, pans := pans } := hhome
  generalize hu : { s3 with stk := stk, pans := pans } = u at hhome'
  obtain ⟨hbytes, -⟩ := Homes.cachelessBy_home (bs := bs) (pa := pa) 3 (fun l _ => Homes.lineHome_of_allHome hhome' l)
  have honly := Frames.MemoryOnly.cachelessWrite u pa bs
  rw [Frames.MemoryOnly] at honly
  have hkept : u.beds = s3.beds ∧ u.events = s3.events ∧ u.tide = s3.tide ∧ u.mem = s3.mem := by rw [← hu]; exact ⟨rfl, rfl, rfl, rfl⟩
  obtain ⟨hbeds, hevents, htide, hmem⟩ := hkept
  refine ⟨fun j => (hbytes j).trans (by rw [memByte, hmem]; rfl), ?_, ?_, ?_⟩
  · exact (congrArg State.beds honly).trans hbeds
  · exact (congrArg State.events honly).trans hevents
  · exact (congrArg State.tide honly).trans htide

/-! ### Moves asked of the salter -/

/-- A refused request for a move. -/
theorem dmaRequest_refused {s u : State} {w : Work} {sd : BitVec 6} {chk : Except Refuse Nat} {e : Refuse} {m : Nat → Origin → Migration}
    (hu : u.rakes = s.rakes) (h : chk = .error e) :
    Answers s (dmaRequest w.at_ sd.toNat u chk m) w sd e.1
      ∧ dmaRequest w.at_ sd.toNat u chk m = { u with rakes := (dmaRequest w.at_ sd.toNat u chk m).rakes } := by
  rw [h]
  exact ⟨answers_putStatus hu, rfl⟩

/-- A request that passes joins the mover's order. -/
theorem dmaRequest_queued {s u : State} {a : At} {sd q : Nat} {chk : Except Refuse Nat} {m : Nat → Origin → Migration}
    (hu : u.salter = s.salter) (h : chk = .ok q) :
    (dmaRequest a sd u chk m).mover q = s.mover q ++ [m q (.rake a.pan a.bed a.slot sd)]
      ∧ dmaRequest a sd u chk m = { u with salter := { u.salter with movers := (dmaRequest a sd u chk m).salter.movers } } := by
  rw [h]
  refine ⟨?_, rfl⟩
  rw [State.mover, State.mover, ← hu]
  exact tget_tput_same _ _ _

/-! ### Flood sources -/

/-- The arguments of a FLOOD.Q that it refuses. -/
abbrev FloodBad (w : Work) : Prop :=
  3 < w.sop 0 ∨ w.sop 1 % 64 ≠ 0 ∨ w.sop 2 % 64 ≠ 0 ∨ w.sop 2 < 64 ∨ 2 ^ 32 - 64 < w.sop 2

theorem floodArgs_iff (w : Work) : floodArgs w = true ↔ ¬ FloodBad w := by
  simp only [floodArgs, Bool.and_eq_true, decide_eq_true_eq]
  omega

section Flood

variable {w : Work} {f : RFmt} {u s2 : State} {x : Side}

theorem floodRun_bad (h : FloodBad w) : floodRun w f u = putStatus w.at_ f.sd.toNat stBadArgument u := by
  have hargs : floodArgs w = false := Bool.eq_false_iff.mpr (fun ht => (floodArgs_iff w).mp ht h)
  simp [floodRun, hargs]

theorem floodRun_rights (h : ¬ FloodBad w) (hsrc : sideOf w.at_.pan false (w.sop 1) (w.sop 2) 0 .r u = (s2, .ok x))
    (hbrine : rangeInBrine s2 w.at_.pan x (w.sop 2) = false) : floodRun w f u = putStatus w.at_ f.sd.toNat stNoRights s2 := by
  simp [floodRun, (floodArgs_iff w).mpr h, hsrc, hbrine]

/-- The bed with a descriptor more on one of its flood queues. -/
def withDesc (d : Bed) (q : Nat) (y : FloodDesc) : Bed := d.setQueue q { d.queue q with descs := (d.queue q).descs ++ [y] }

theorem queue_setQueue (d : Bed) (q k : Nat) (x : FloodQueue) : (d.setQueue q x).queue k = if k = q then x else d.queue k := tget_tput _ _ _ _

theorem floodRun_queued (h : ¬ FloodBad w) (hsrc : sideOf w.at_.pan false (w.sop 1) (w.sop 2) 0 .r u = (s2, .ok x))
    (hbrine : rangeInBrine s2 w.at_.pan x (w.sop 2) = true) :
    ∃ (k : Nat) (y : FloodDesc), y.va = w.sop 1 ∧ y.left = w.sop 2 ∧ y.slot = u.slotRun
      ∧ floodRun w f u = putStatus w.at_ f.sd.toNat stOk
          ((noteHeld s2 w.at_.pan k).updBed w.at_.pan w.at_.bed (fun d => withDesc d (w.sop 0) y)) := by
  refine ⟨(s2.bed w.at_.pan w.at_.bed).heldPages + x.pages.length,
    { va := w.sop 1, left := w.sop 2, pages := x.pages.take (4096 - (s2.bed w.at_.pan w.at_.bed).heldPages), slot := u.slotRun,
      issued := w.issued, queued := u.coh.homeNo, after := fetching u w.at_ }, rfl, rfl, rfl, ?_⟩
  simp [floodRun, (floodArgs_iff w).mpr h, hsrc, hbrine, withDesc]

end Flood

/-! ### The tide mover's fetch -/

/-- What stood before a write that a descriptor's reads do not find. -/
theorem hidden_of_mem_undone {hide : HomeRec → Bool} (rs : List HomeRec) : ∀ {cover : List Nat} {e : Nat × Byte}, e ∈ undone hide cover rs →
    ∃ r ∈ rs, hide r = true ∧ r.pa ≤ e.1 ∧ e.1 < r.pa + r.old.length ∧ e.2 = r.old.getD (e.1 - r.pa) 0 := by
  induction rs with
  | nil => intro cover e he; simp [undone] at he
  | cons r rs ih =>
    intro cover e he
    have hrest {c : List Nat} (h : e ∈ undone hide c rs) : ∃ r' ∈ r :: rs, hide r' = true ∧ r'.pa ≤ e.1 ∧ e.1 < r'.pa + r'.old.length
        ∧ e.2 = r'.old.getD (e.1 - r'.pa) 0 := by
      obtain ⟨r', hr', hx⟩ := ih h
      exact ⟨r', List.mem_cons_of_mem _ hr', hx⟩
    rw [undone] at he
    split at he
    case isFalse => exact hrest he
    case isTrue hhide =>
      rcases List.mem_append.mp he with hold | hmore
      · refine ⟨r, List.mem_cons_self, hhide, ?_⟩
        obtain ⟨i, hi, rfl⟩ := List.mem_iff_getElem.mp (List.mem_filter.mp hold).1
        simp only [List.length_zip, List.length_map, List.length_range, min_self] at hi
        simp only [List.getElem_zip, List.getElem_map, List.getElem_range]
        refine ⟨by omega, by omega, ?_⟩
        rw [Nat.add_sub_cancel_left, List.getD_eq_getElem]
      · exact hrest hmore

/-- A beat of the DRAM: each byte is memory's or what stood there before a hidden write. -/
theorem floodBeat_bytes (s : State) (bed : Nat) (d : FloodDesc) (pa : Nat) :
    (floodBeat s bed d pa).length = 64 ∧ ∀ i, i < 64 → (floodBeat s bed d pa).getD i 0 = memByte s (pa + i)
      ∨ ∃ r ∈ s.coh.homeLog, d.hides bed r = true ∧ r.pa ≤ pa + i ∧ pa + i < r.pa + r.old.length
        ∧ (floodBeat s bed d pa).getD i 0 = r.old.getD (pa + i - r.pa) 0 := by
  refine ⟨by rw [floodBeat, Patching.length_patch, Homes.length_memBytes], fun i hi => ?_⟩
  rcases Patching.getD_patch _ (s.memBytes pa 64) (lo := pa) (i := i) (by rw [Homes.length_memBytes]; exact hi) with hkept | hput
  · exact .inl (hkept.trans (Homes.getD_memBytes s pa hi))
  · obtain ⟨r, hr, hhide, hlo, hhi, hval⟩ := hidden_of_mem_undone _ hput
    exact .inr ⟨r, (List.mem_filter.mp hr).1, hhide, hlo, hhi, hval⟩

/-- FLOOD_FETCH of a descriptor that holds the translation of its next beat. -/
theorem exec_floodFetch {s : State} {p b q pa : Nat} {d : FloodDesc} {rest : List FloodDesc}
    (hdescs : ((s.bed p b).queue q).descs = d :: rest) (honline : s.onlinePan p = true) (hheld : brineHeld s p = false)
    (hwaits : d.waits s = false) (hq : q ≤ 3) (hroom : ((s.bed p b).queue q).buf.length + 64 ≤ 8192) (hpa : heldPa s d.pages d.va = some pa) :
    ∃ bad, exec (.floodFetch p b q) s = go (s.updBed p b (fun x => x.setQueue q
      { descs := if d.left ≤ 64 then rest else { d with va := d.va + 64, left := d.left - 64 } :: rest
        buf := ((s.bed p b).queue q).buf ++ ((List.range 64).zip (floodBeat s (p * 16 + b) d pa)).map (fun e =>
          ({ val := e.2, bad := bad, va := d.va + e.1 } : FloodByte)) })).drawn := by
  refine ⟨s.homePoison (lineOf pa), ?_⟩
  have hsource : floodSource s p d = (s, .ok pa) := by simp only [floodSource, hpa]
  have hgoes : ¬ ((!s.onlinePan p) = true ∨ brineHeld s p = true ∨ 3 < q
      ∨ floodPart < ((s.bed p b).queue q).buf.length + 64 ∨ d.waits s = true) := by
    simp only [honline, hheld, hwaits, floodPart, Bool.not_true, Bool.false_eq_true, false_or, or_false]
    omega
  change execFloodFetch p b q s = _
  simp only [execFloodFetch, hdescs]
  rw [if_neg hgoes]
  simp only [hsource]

/-! ### The obligation -/

section Issuing

variable {a : At} {f : RFmt} {s s1 : State} {c : Issue}

/-- A group's work joins its bed's DMA queue, from any state with its rake. -/
theorem queues_of_room (ha : c.a = a) (hrake : c.rake = rakeAt a s1) {o : WorkOp} {sbase : BitVec 3} :
    Queues a sbase o c s1 (advance c (s1.setBed c.a.pan c.a.bed
      (Queueing.queuedBed (s1.bed c.a.pan c.a.bed) o (Queueing.queuedWork c sbase o s1)))).drawn := by
  subst ha
  obtain ⟨hr, -, hother⟩ := advance_only (s := s1.setBed c.a.pan c.a.bed
    (Queueing.queuedBed (s1.bed c.a.pan c.a.bed) o (Queueing.queuedWork c sbase o s1))) rfl hrake
  refine ⟨Queueing.queuedWork c sbase o s1, rfl, rfl, rfl, rfl, rfl, rfl, fun j hj => by simp [Work.sop, Queueing.queuedWork, hj], rfl,
    rfl, rfl, ?_, rfl, fun p b k hk => hother p b k hk, fun p b hb => bed_setBed_other s1 _ hb, ?_, ?_⟩
  · exact bed_setBed_same ..
  · rw [hr]; exact jump_frame ..
  · rw [hr]; exact nextPc_jump c _ rfl

/-- FLOOD.Q goes to its queue; what the brine's homes note for it starts afresh where no flood source was open. -/
theorem floodQ_issues (h : WideRuns a f.gd f.pm f.sbase 3 s c s1 (decide (f.imm32 = 0) && decide (f.sub = 0))) :
    ((s1.bed a.pan a.bed).full (.flood f) = false → Completes (.floodQ a f) s (fun t => ∃ log,
        Queues a f.sbase (.flood f) c { s1 with coh := { s1.coh with homeLog := log } } t))
      ∧ ((s1.bed a.pan a.bed).full (.flood f) = true → exec (.floodQ a f) s = .next s1.drawn) := by
  obtain ⟨rfl, hrake⟩ := ready_rake h.1
  have hnotes : ∃ log, (if s1.beds.any (fun e => e.2.floodOpen) then s1 else s1.updCoh (fun z => { z with homeLog := [] }))
      = { s1 with coh := { s1.coh with homeLog := log } } := by
    split
    · exact ⟨s1.coh.homeLog, rfl⟩
    · exact ⟨[], rfl⟩
  obtain ⟨log, hlog⟩ := hnotes
  constructor
  · intro hroom
    have hput := Queueing.enqueue_room (c := c) (sbase := f.sbase) (o := .flood f)
      (s := { s1 with coh := { s1.coh with homeLog := log } }) hroom
    exact ⟨_, congrArg go (Queueing.rakeWide_ok h ((congrArg (enqueue c c.active f.sbase (.flood f)) hlog).trans hput)), log,
      queues_of_room (s1 := { s1 with coh := { s1.coh with homeLog := log } }) rfl hrake⟩
  · intro hfull
    have hwait := Queueing.enqueue_full (c := c) (sbase := f.sbase) (o := .flood f)
      (s := { s1 with coh := { s1.coh with homeLog := log } }) hfull
    exact congrArg go (Queueing.rakeWide_waits h ((congrArg (enqueue c c.active f.sbase (.flood f)) hlog).trans hwait))

end Issuing

section Clauses

variable {s : State} {p b : Nat} {w : Work} {rest : List Work} {f : RFmt} (hhead : DmaHead s p b w rest)
include hhead

/-- Sub 0 of DMA.Q at its turn: the arguments and the translations. -/
theorem copy_refused (hop : w.op = .copy f) :
    let u := s.updBed p b (fun d => { d with dq := rest })
    let t := runTurn s (.dma p b)
    (CopyBad w → Answers s t w f.sd 0x0101 ∧ t = { u with rakes := t.rakes })
    ∧ (¬ CopyBad w → ∀ (s2 : State) (e : XFail × Nat), sideOf p (bitN (w.sop 3) 0) (w.sop 0) (w.sop 2) 0 .r u = (s2, .error e) →
        Answers s t w f.sd (refusalStatus e.1.cause) ∧ t = { s2 with rakes := t.rakes, pans := t.pans }
          ∧ ((s2.pan p).xValid = false → (t.pan p).xValid = true ∧ (t.pan p).xVa = e.2 % 2 ^ 48))
    ∧ (¬ CopyBad w → ∀ (s2 s3 : State) (x : Side) (e : XFail × Nat),
        sideOf p (bitN (w.sop 3) 0) (w.sop 0) (w.sop 2) 0 .r u = (s2, .ok x) →
        sideOf p (bitN (w.sop 3) 1) (w.sop 1) (w.sop 2) (pageFuel (w.sop 2)) .w s2 = (s3, .error e) →
        Answers s t w f.sd (refusalStatus e.1.cause) ∧ t = { s3 with rakes := t.rakes, pans := t.pans }) := by
  intro u t
  have ht : t = copyRun w f u := runTurn_copy hhead hop
  obtain ⟨-, rfl, rfl, -⟩ := hhead
  clear_value t
  subst ht
  refine ⟨fun hbad => ?_, fun hgood s2 e hsrc => ?_, fun hgood s2 s3 x e hsrc hdst => ?_⟩
  · rw [copyRun_bad hbad]
    exact ⟨answers_putStatus rfl, rfl⟩
  · rw [copyRun_source hgood hsrc]
    exact answers_queueRefused (XlatOnly.of_sideOf hsrc).keeps.1 rfl
  · rw [copyRun_target hgood hsrc hdst]
    have hxlat := (XlatOnly.of_sideOf hsrc).trans (XlatOnly.of_sideOf hdst)
    obtain ⟨hanswers, hframe, -⟩ := answers_queueRefused (s := s) (kind := kDmaDst) (w := w) (sd := f.sd) (e := e)
      hxlat.keeps.1 rfl
    exact ⟨hanswers, hframe⟩

/-- A copy whose ranges translate and whose source is free of errors. -/
theorem copy_done (hop : w.op = .copy f) (hgood : ¬ CopyBad w) {s2 s3 : State} {x y : Side}
    (hsrc : sideOf p (bitN (w.sop 3) 0) (w.sop 0) (w.sop 2) 0 .r (s.updBed p b (fun d => { d with dq := rest })) = (s2, .ok x))
    (hdst : sideOf p (bitN (w.sop 3) 1) (w.sop 1) (w.sop 2) (pageFuel (w.sop 2)) .w s2 = (s3, .ok y))
    (hclean : sideBad s3 (s3.bed p b) x (w.sop 2) = none) :
    let u := s.updBed p b (fun d => { d with dq := rest })
    let t := runTurn s (.dma p b)
    let bytes := sideRead s3 (s3.bed p b) w.viewer x (w.sop 2)
    Answers s t w f.sd stOk ∧ t.tide = s.tide
      ∧ (bitN (w.sop 3) 0 = true → bytes = (s.bed p b).scratchBytes (w.sop 0) (w.sop 2))
      ∧ (bitN (w.sop 3) 1 = true →
          (∀ k, tget 0 (t.bed p b).scratch k =
              if w.sop 1 ≤ k ∧ k < w.sop 1 + bytes.length then bytes.getD (k - w.sop 1) 0 else tget 0 (s.bed p b).scratch k)
            ∧ t = { s3 with beds := t.beds, rakes := t.rakes, pans := t.pans, stk := t.stk, coh := { s3.coh with homeLog := t.coh.homeLog } }
            ∧ ∀ p' b', bedKey p' b' ≠ bedKey p b → t.bed p' b' = s.bed p' b')
      ∧ (bitN (w.sop 3) 1 = false → ∀ pa, AllHome s3 → w.sop 2 ≤ 4096 - w.sop 1 % 4096 → heldPa s3 y.pages (w.sop 1) = some pa →
          bytes.length = w.sop 2 →
          (∀ k, memByte t k = if pa ≤ k ∧ k < pa + w.sop 2 then bytes.getD (k - pa) 0 else memByte s k)
            ∧ t.beds = u.beds ∧ t.events = s3.events) := by
  intro u t bytes
  have htotal : t = copyRun w f u := runTurn_copy hhead hop
  obtain ⟨-, rfl, rfl, hrace⟩ := hhead
  have hxlat := (XlatOnly.of_sideOf hsrc).trans (XlatOnly.of_sideOf hdst)
  obtain ⟨hrakes, hbeds, htide, hmem, -⟩ := hxlat.keeps
  have hbedAt (p' b' : Nat) : s3.bed p' b' = u.bed p' b' := by rw [State.bed, hbeds]; rfl
  have hbed : s3.bed w.at_.pan w.at_.bed = { s.bed w.at_.pan w.at_.bed with dq := rest } :=
    (hbedAt _ _).trans (bed_setBed_same ..)
  obtain ⟨k, hrun⟩ := copyRun_done (f := f) hgood hsrc hdst hclean (by rw [hbed]; exact hrace)
  rw [hrun] at htotal
  obtain ⟨stk, pans, hread⟩ := readDone_frame s3 w.at_.pan k x (w.sop 2)
  have hkeeps : (sideWrite (readDone s3 w.at_.pan k x (w.sop 2)) w.at_.pan w.at_.bed y bytes).rakes = s3.rakes
      ∧ (sideWrite (readDone s3 w.at_.pan k x (w.sop 2)) w.at_.pan w.at_.bed y bytes).tide = s3.tide := by
    rw [sideWrite_frame, hread]
    exact ⟨rfl, rfl⟩
  refine ⟨?_, ?_, fun hscratch => ?_, fun hscratch => ?_, fun hscratch pa hhome hpage hpa hlen => ?_⟩
  · rw [htotal]
    exact answers_putStatus (u := State.tagHome ..) (hkeeps.1.trans hrakes)
  · rw [htotal]
    exact hkeeps.2.trans htide
  · rw [hscratch] at hsrc
    obtain ⟨-, hx⟩ := sideOf_scratch hsrc
    simp only [bytes, sideRead, hx, if_true, hbed]
    rfl
  · rw [hscratch] at hdst
    obtain ⟨-, hy⟩ := sideOf_scratch hdst
    have hput := copied_scratch (s3 := s3) (a := w.at_) (sd := f.sd.toNat) (k := k) (n := w.sop 2) (no := u.coh.homeNo)
      (bed := some (bedNo w.at_)) (x := x) (bs := bytes) (congrArg Side.scratch hy)
    rw [← htotal] at hput
    obtain ⟨hpoked, hkept, hothers⟩ := hput
    refine ⟨fun j => ?_, hkept, fun p' b' hb => (hothers p' b' hb).trans ((hbedAt p' b').trans (bed_setBed_other _ _ hb))⟩
    rw [hpoked, poke_scratch, hy, hbed]
  · rw [hscratch] at hdst
    obtain ⟨hy, hadr⟩ := sideOf_memory hdst
    have hpos : 0 < bytes.length := by
      rw [hlen]
      exact Nat.pos_of_ne_zero (fun h0 => hgood (.inl h0))
    have hput := copied_memory (s3 := s3) (a := w.at_) (sd := f.sd.toNat) (k := k) (n := w.sop 2) (no := u.coh.homeNo)
      (bed := some (bedNo w.at_)) (x := x) (bs := bytes) hy hhome hpos (by rw [hlen, hadr]; exact hpage) (by rw [hadr]; exact hpa)
    rw [← htotal] at hput
    obtain ⟨hbytes, hkeptBeds, hkeptEvents, -⟩ := hput
    refine ⟨fun j => ?_, hkeptBeds.trans hbeds, hkeptEvents⟩
    rw [hbytes, hlen, memByte, memByte, hmem]
    rfl

/-- FLOOD.Q at its turn. -/
theorem flood_turn (hop : w.op = .flood f) :
    let t := runTurn s (.dma p b)
    let u := s.updBed p b (fun d => { d with dq := rest })
    (FloodBad w → Answers s t w f.sd stBadArgument ∧ t = { u with rakes := t.rakes })
    ∧ (¬ FloodBad w → 8 ≤ ((s.bed p b).queue (w.sop 0)).descs.length → dmaReady s p b = false)
    ∧ (¬ FloodBad w → ((s.bed p b).queue (w.sop 0)).descs.length < 8 → ∀ (s2 : State) (x : Side),
        sideOf p false (w.sop 1) (w.sop 2) 0 .r u = (s2, .ok x) →
        (rangeInBrine s2 p x (w.sop 2) = false → Answers s t w f.sd stNoRights ∧ t = { s2 with rakes := t.rakes })
        ∧ (rangeInBrine s2 p x (w.sop 2) = true → Answers s t w f.sd stOk
            ∧ (∃ y : FloodDesc, ((t.bed p b).queue (w.sop 0)).descs = ((s.bed p b).queue (w.sop 0)).descs ++ [y]
                ∧ y.va = w.sop 1 ∧ y.left = w.sop 2 ∧ y.slot = s.slotRun)
            ∧ ((t.bed p b).queue (w.sop 0)).buf = ((s.bed p b).queue (w.sop 0)).buf
            ∧ (∀ k, k ≠ w.sop 0 → (t.bed p b).queue k = (s.bed p b).queue k)
            ∧ t.bed p b = { s.bed p b with dq := rest, flood := (t.bed p b).flood }
            ∧ t = { s2 with beds := t.beds, rakes := t.rakes, pans := t.pans })) := by
  intro t u
  have htotal : t = floodRun w f u := runTurn_flood hhead hop
  obtain ⟨hdq, rfl, rfl, -⟩ := hhead
  refine ⟨fun hbad => ?_, fun hgood hfull => ?_, fun hgood _ s2 x hsrc => ⟨fun hbrine => ?_, fun hbrine => ?_⟩⟩
  · rw [htotal, floodRun_bad hbad]
    exact ⟨answers_putStatus rfl, rfl⟩
  · simp [dmaReady, hdq, hop, WorkOp.isKv, floodHeld, (floodArgs_iff w).mpr hgood, hfull]
  · rw [htotal, floodRun_rights hgood hsrc hbrine]
    exact ⟨answers_putStatus (XlatOnly.of_sideOf hsrc).keeps.1, rfl⟩
  · obtain ⟨k, y, hva, hleft, hslot, hrun⟩ := floodRun_queued (f := f) hgood hsrc hbrine
    obtain ⟨hrakes, hbeds, -⟩ := (XlatOnly.of_sideOf hsrc).keeps
    have hbed : s2.bed w.at_.pan w.at_.bed = { s.bed w.at_.pan w.at_.bed with dq := rest } := by
      have hsame : s2.bed w.at_.pan w.at_.bed = u.bed w.at_.pan w.at_.bed := by rw [State.bed, hbeds]; rfl
      exact hsame.trans (bed_setBed_same ..)
    rw [← htotal] at hrun
    have hdone : t.bed w.at_.pan w.at_.bed = withDesc { s.bed w.at_.pan w.at_.bed with dq := rest } (w.sop 0) y := by
      rw [hrun, ← hbed]
      exact bed_setBed_same ..
    refine ⟨by rw [hrun]; exact answers_putStatus (u := State.updBed ..) hrakes, ⟨y, ?_, hva, hleft, hslot⟩, ?_, fun j hj => ?_, ?_,
      by rw [hrun]; rfl⟩
    · rw [hdone, withDesc, queue_setQueue, if_pos rfl]; rfl
    · rw [hdone, withDesc, queue_setQueue, if_pos rfl]; rfl
    · rw [hdone, withDesc, queue_setQueue, if_neg hj]; rfl
    · rw [hdone]; rfl

end Clauses

theorem testBit_eq_bitN (n i : Nat) : n.testBit i = bitN n i := by
  rw [Nat.testBit_eq_decide_div_mod_eq, bitN]
  rfl

/-- Settles O24: issue by the rule for queued instructions, each turn by its own clauses, the fetch by what a beat reads. -/
theorem dmaAndFloodInstructionsMoveBytes : Obligations.DmaAndFloodInstructionsMoveBytes := by
  refine ⟨fun a f s c s1 => ⟨fun hruns => ?_, fun hruns => ?_, fun hruns => ?_, floodQ_issues⟩, fun s p b w rest f hhead => ?_,
    fun s p b q pa d rest => ?_⟩
  · exact Queueing.issues_of_enqueue rfl hruns rfl
  · exact Queueing.issues_of_enqueue rfl hruns rfl
  · exact Queueing.issues_of_enqueue rfl hruns rfl
  · simp only [testBit_eq_bitN]
    refine ⟨fun hop => ?_, fun hop => ?_, fun hop => ?_, fun hop => flood_turn hhead hop⟩
    · obtain ⟨hbad, hsource, htarget⟩ := copy_refused hhead hop
      exact ⟨hbad, hsource, htarget, fun hgood s2 s3 x y hsrc hdst hclean => copy_done hhead hop hgood hsrc hdst hclean⟩
    · rw [runTurn_fetch hhead hop]
      obtain ⟨-, rfl, rfl, -⟩ := hhead
      exact ⟨fun e he => dmaRequest_refused rfl he, fun q hq => dmaRequest_queued rfl hq⟩
    · rw [runTurn_spill hhead hop]
      obtain ⟨-, rfl, rfl, -⟩ := hhead
      exact ⟨fun e he => dmaRequest_refused rfl he, fun q hq => dmaRequest_queued rfl hq⟩
  · intro x hdescs honline hheld hwaits hq hroom hpa
    obtain ⟨bad, hexec⟩ := exec_floodFetch hdescs honline hheld hwaits hq hroom hpa
    obtain ⟨hlen, hbytes⟩ := floodBeat_bytes s (p * 16 + b) d pa
    refine ⟨_, hexec, floodBeat s (p * 16 + b) d pa, hlen, ?_, hbytes, ?_, fun k hk => ?_, rfl⟩
    · rw [State.drawn_bed, State.updBed, bed_setBed_same, queue_setQueue, if_pos rfl, List.map_append, List.map_map]
      congr 1
      exact List.map_snd_zip (by rw [hlen, List.length_range])
    · rw [State.drawn_bed, State.updBed, bed_setBed_same, queue_setQueue, if_pos rfl]
    · rw [State.drawn_bed, State.updBed, bed_setBed_same, queue_setQueue, if_neg hk]

end Sys2Proof.Copies
end

section
/-!
PROOFS. CTX.SAVE that ends its block (R144): the rake's threads end and with them what the rake notes of waits at SYNC.RAKE. -/

namespace Sys2Proof.Contexts

open Sys2Proof.Machine Sys2Proof.Safety Sys2Proof.Laws

/-- CTX.SAVE with imm32[8] set. -/
def saveAndEnd : RFmt := { Tests.rf with imm32 := 0x100 }

/-- The block of one rake that waits at the context instruction. -/
def savedBlock : Block :=
  { index := 0, position := 0, slots := [0], scratchAddr := 0, scratchLen := 0, ctxWait := [(0, saveAndEnd, false)], ctxMet := true }

/-- The rake's threads are all at the barrier; its capacity is 1 MiB, at address 0, and a wait at SYNC.RAKE stands noted for thread 3. -/
def savedRake : Rake := { Tests.ctxRake with s := [(9, 0x100000)], syncFrom := [(3, some 0)] }

/-- A kernel whose block ends with its CTX.SAVE; virtual address 0 is a page of memory. -/
def endsWithSave : State :=
  { Tests.paged 0xFFF with
    beds := [(0, { run := 1, cur := some Tests.kern, blocks := [savedBlock] })]
    rakes := [(0, savedRake)] }

set_option maxRecDepth 100000 in
theorem endsWithSave_turn : let t := runTurn endsWithSave (.context 0 0 0)
    (t.rake 0 0 0).syncFrom = [] ∧ (t.rake 0 0 0).sget 20 = 0 ∧ (t.bed 0 0).failed = false := by decide

theorem endsWithSave_ready : (endsWithSave.bed 0 0).block? 0 = some savedBlock ∧ (endsWithSave.rake 0 0 0).live ≠ 0
    ∧ (∀ l, l < 32 → ((endsWithSave.rake 0 0 0).thread l).live = true → (endsWithSave.rake 0 0 0).thread l = .atBarrier)
    ∧ blockBusy endsWithSave 0 0 savedBlock = false
    ∧ (⟨savedBlock.scratchAddr, 0, 1, savedBlock.scratchLen⟩ : Span).error (endsWithSave.bed 0 0) = none := by decide

/-- Refutes O25: in `endsWithSave` the image is written and the block ends, and the note of thread 3's wait at SYNC.RAKE is gone from the
rake, which was to keep everything but its scalar registers, program counters and threads. -/
theorem not_contextInstructionsSaveAndRestore : ¬ Obligations.ContextInstructionsSaveAndRestore := by
  intro h
  obtain ⟨hblock, hlive, harrived, hidle, hclean⟩ := endsWithSave_ready
  obtain ⟨hsync, hstatus, hrun⟩ := endsWithSave_turn
  obtain ⟨-, hgo⟩ := h.2 endsWithSave 0 0 0 0 0 saveAndEnd false savedBlock hblock rfl rfl rfl rfl hlive harrived
  obtain ⟨img, -, -, -, -, -, -, -, hfull, hxlat, hwritten⟩ := (hgo hidle).1 rfl
  rcases Nat.lt_or_ge ((endsWithSave.rake 0 0 0).sget 9).toNat img.length with hlt | hge
  · obtain ⟨⟨hnofit, -⟩, -⟩ := hfull hlt
    exact absurd (hstatus.symm.trans hnofit) (by decide)
  · cases hside : sideOf 0 false ((endsWithSave.rake 0 0 0).sget 8).toNat img.length 0 .w (releaseBarrier endsWithSave 0 0 savedBlock) with
    | mk u1 e =>
      cases e with
      | error e =>
        obtain ⟨⟨hfailed, -⟩, -⟩ := hxlat hge u1 e hside
        exact absurd (hrun.symm.trans hfailed) (by decide)
      | ok y =>
        obtain ⟨⟨-, -, -, hkept, -⟩, -⟩ := (hwritten hge u1 y hside).2 hclean
        have hnoted := hsync.symm.trans (congrArg Rake.syncFrom hkept)
        exact absurd hnoted (by decide)

end Sys2Proof.Contexts
end

section
/-!
PROOFS. Accesses of a bed's threads (R119, R138, R208, R221): the bytes of a number, what a racing reader finds, the targets a group's
threads name, and what a run of loads or of stores leaves. -/

namespace Sys2Proof.Accesses

open Sys2Proof.Machine Sys2Proof.Safety Sys2Proof.Laws

/-! ### Bytes of numbers (R7) -/

theorem leNat_lt (bs : List Byte) : leNat bs < 256 ^ bs.length := by
  induction bs with
  | nil => decide
  | cons x bs ih =>
    have hx := x.isLt
    rw [leNat, List.length_cons, Nat.pow_succ']
    omega

/-- The bytes of the number that bytes spell. -/
theorem byte_leNat (bs : List Byte) : ∀ {i : Nat}, i < bs.length → BitVec.ofNat 8 (leNat bs / 256 ^ i) = bs.getD i 0 := by
  induction bs with
  | nil => intro i hi; simp at hi
  | cons x bs ih =>
    intro i hi
    have hx := x.isLt
    cases i with
    | zero =>
      rw [leNat, Nat.pow_zero, Nat.div_one]
      refine BitVec.eq_of_toNat_eq ?_
      rw [BitVec.toNat_ofNat, List.getD_cons_zero]
      omega
    | succ j =>
      have hdiv : leNat (x :: bs) / 256 ^ (j + 1) = leNat bs / 256 ^ j := by
        rw [leNat, Nat.pow_succ', ← Nat.div_div_eq_div_mul]
        congr 1
        omega
      rw [hdiv, List.getD_cons_succ]
      exact ih (by simpa using hi)

theorem getD_leBytes (n : Nat) : ∀ {v i : Nat}, i < n → (leBytes n v).getD i 0 = BitVec.ofNat 8 (v / 256 ^ i) := by
  induction n with
  | zero => intro v i hi; omega
  | succ k ih =>
    intro v i hi
    cases i with
    | zero => simp [leBytes]
    | succ j =>
      rw [leBytes, List.getD_cons_succ, ih (by omega), Nat.pow_succ', Nat.div_div_eq_div_mul]

/-! ### What a reader finds (R221) -/

theorem racing_of_mem_missed {v : Viewer} {free : Nat → Bool} (ks : List StoreRec) : ∀ {i : Nat} {cover : List Nat} {e : Nat × Byte},
    e ∈ missed v free i cover ks → ∃ r ∈ ks, racing v r = true ∧ e ∈ r.old := by
  induction ks with
  | nil => intro i cover e he; simp [missed] at he
  | cons r ks ih =>
    intro i cover e he
    have hrest {j : Nat} {c : List Nat} (h : e ∈ missed v free j c ks) : ∃ r' ∈ r :: ks, racing v r' = true ∧ e ∈ r'.old := by
      obtain ⟨r', hr', hx⟩ := ih h
      exact ⟨r', List.mem_cons_of_mem _ hr', hx⟩
    rw [missed] at he
    split at he
    case isFalse => exact hrest he
    case isTrue hrace =>
      rcases List.mem_append.mp he with hold | hmore
      · exact ⟨r, List.mem_cons_self, (Bool.and_eq_true _ _ ▸ hrace).1, (List.mem_filter.mp hold).1⟩
      · exact hrest hmore

/-- The number that a reader finds in the latest bytes of a run, with older ones in their place where it may miss a store. -/
theorem finds_patch {v : Viewer} {free : Nat → Bool} {ks : List StoreRec} {latest : Nat → Byte} {pa n : Nat} {bs : List Byte}
    (hlen : bs.length = n) (hbs : ∀ i, i < n → bs.getD i 0 = latest (pa + i)) :
    Finds v ks latest pa n (leNat (patch pa bs (missed v free 0 [] ks))) ∧ leNat (patch pa bs (missed v free 0 [] ks)) < 2 ^ (8 * n) := by
  have hpatch : (patch pa bs (missed v free 0 [] ks)).length = n := (Patching.length_patch _ _).trans hlen
  constructor
  · intro i hi
    rw [byte_leNat _ (by rw [hpatch]; exact hi)]
    rcases Patching.getD_patch (lo := pa) (missed v free 0 [] ks) bs (i := i) (by omega) with hkept | hput
    · exact .inl (hkept.trans (hbs i hi))
    · obtain ⟨r, hr, hrace, hold⟩ := racing_of_mem_missed _ hput
      exact .inr ⟨r, hr, hrace, hold⟩
  · have hlt := leNat_lt (patch pa bs (missed v free 0 [] ks))
    rw [hpatch, show (256 : Nat) = 2 ^ 8 from rfl, ← Nat.pow_mul] at hlt
    exact hlt

/-! ### Targets (R138, R342) -/

section Targets

variable {c : Issue} {f : MFmt} {n kind : Nat} {need : Need} {reads : Bool} {s s2 : State} {ts : List Target}

/-- The targets of scratch addresses that are in order. -/
def scratchTargets (c : Issue) (f : MFmt) : List Target :=
  (lanesOf (c.guarded f.gd)).map (fun l => { lane := l, va := memAddr c f l, pa := memAddr c f l, cacheable := false, scratch := true })

theorem targets_scratch (h : ScratchOk c f s n reads) : targets c f n need kind reads s = .ok (s, scratchTargets c f) := by
  obtain ⟨hspace, hlanes⟩ := h
  have haligned : (lanesOf (c.guarded f.gd)).find? (fun l => decide (memAddr c f l % n ≠ 0)
      || (decide (f.space = 0) && decide (scratchSize ≤ memAddr c f l))) = none := by
    rw [List.find?_eq_none]
    intro l hl
    obtain ⟨halign, hlt, -⟩ := hlanes l hl
    simp [halign, hlt]
  have hheld : (scratchTargets c f).any (fun t => !t.scratch && (memoryHeld s (lineOf t.pa) || s.deferred (lineOf t.pa))) = false := by
    simp [scratchTargets]
  have hbad : (if reads then firstBad s c n (scratchTargets c f) else none) = none := by
    split
    case isFalse => rfl
    case isTrue hreads =>
      rw [firstBad, List.find?_eq_none]
      intro t ht
      obtain ⟨l, hl, rfl⟩ := List.mem_map.mp ht
      simp [(hlanes l hl).2.2 hreads]
  simp only [targets, haligned, if_pos hspace, ← scratchTargets.eq_1, hheld, hbad, Bool.false_eq_true, if_false]

/-- Translated addresses: one target for each lane, none of them in scratch, and only the pan and the events differ. -/
theorem xlatLanes_targets {adr : Nat → Nat} (ls : List Nat) : ∀ {s s2 : State} {ts : List Target},
    xlatLanes c need kind adr ls s = (s2, .ok ts) → ts.map Target.lane = ls ∧ (∀ u ∈ ts, u.scratch = false) ∧ Sides.XlatOnly s s2 := by
  induction ls with
  | nil =>
    intro s s2 ts h
    simp only [xlatLanes, Prod.mk.injEq, Except.ok.injEq] at h
    obtain ⟨rfl, rfl⟩ := h
    exact ⟨rfl, fun u hu => by simp at hu, Sides.XlatOnly.refl _⟩
  | cons l ls ih =>
    intro s s2 ts h
    have hone := Sides.XlatOnly.panXlat s c.a.pan s.slotRun need false (adr l) l
    rw [xlatLanes] at h
    split at h
    · simp at h
    case _ s1 pa leaf hx =>
      rw [hx] at hone
      split at h
      case _ s3 us hrest =>
        obtain ⟨hlanes, hscratch, honly⟩ := ih hrest
        simp only [Prod.mk.injEq, Except.ok.injEq] at h
        obtain ⟨rfl, rfl⟩ := h
        refine ⟨by simp [hlanes], fun u hu => ?_, hone.trans honly⟩
        rcases List.mem_cons.mp hu with rfl | hu
        · rfl
        · exact hscratch u hu
      · simp at h

theorem targets_memory (hspace : f.space = 1) (h : targets c f n need kind reads s = .ok (s2, ts)) :
    ts.map Target.lane = lanesOf (c.guarded f.gd) ∧ (∀ u ∈ ts, u.scratch = false) ∧ Sides.XlatOnly s s2 := by
  have hno : f.space ≠ 0 := by rw [hspace]; decide
  simp only [targets, if_neg hno] at h
  split at h
  · simp at h
  split at h
  · simp at h
  case _ s1 us hx =>
    have hus : us = ts ∧ s1 = s2 := by
      split at h
      · simp at h
      split at h
      · simp at h
      · simpa [and_comm] using h
    obtain ⟨rfl, rfl⟩ := hus
    exact xlatLanes_targets _ hx

/-- A lane's target is the one with its number. -/
theorem paOf_lane (hnodup : (ts.map Target.lane).Nodup) {u : Target} (hu : u ∈ ts) : paOf ts u.lane = u.pa := by
  induction ts with
  | nil => simp at hu
  | cons t ts ih =>
    rw [List.map_cons, List.nodup_cons] at hnodup
    rcases List.mem_cons.mp hu with rfl | hmem
    · simp [paOf]
    · have hne : t.lane ≠ u.lane := fun he => hnodup.1 (he ▸ List.mem_map_of_mem hmem)
      have hskip : paOf (t :: ts) u.lane = paOf ts u.lane := by simp [paOf, hne]
      rw [hskip]
      exact ih hnodup.2 hmem

end Targets

/-! ### A run of loads -/

theorem after_frame (r : Rake) (m : Word) (v : View) (work : Bool) :
    r.after m v work = { r with views := (r.after m v work).views, work := (r.after m v work).work } := by
  have hfold (ls : List Nat) : ∀ r : Rake,
      ls.foldl (fun (r : Rake) l => { r with views := tput [] r.views l (mergeView (tget [] r.views l) v) }) r
        = { r with views := (ls.foldl (fun (r : Rake) l => { r with views := tput [] r.views l (mergeView (tget [] r.views l) v) }) r).views } := by
    induction ls with
    | nil => exact fun r => rfl
    | cons l ls ih => intro r; rw [List.foldl_cons, ih]
  unfold Rake.after
  dsimp only
  rw [hfold]
  split <;> rfl

/-- What a thread's read leaves to its later accesses is no register. -/
theorem found_frame (r : Rake) (c : Issue) (f : MFmt) (l : Nat) (ms : List RelMark) :
    r.found c f l ms = { r with views := (r.found c f l ms).views, reads := (r.found c f l ms).reads, work := (r.found c f l ms).work } := by
  unfold Rake.found
  split
  · rfl
  split
  · rw [after_frame]
  · rfl

/-- The registers of vd that loads of some lanes have filled, from those of r0. -/
def Loaded (r0 r : Rake) (ls : List Nat) (vd k : Nat) (val : Nat → Nat) : Prop :=
  (∀ l ∈ ls, r.wide vd k l = val l % 2 ^ (32 * k))
    ∧ (∀ reg l, l < 32 → (l ∉ ls ∨ reg < vd ∨ vd + k ≤ reg) → r.vget reg l = r0.vget reg l)
    ∧ r = { r0 with v := r.v, views := r.views, reads := r.reads, work := r.work }

theorem loaded_one {r0 r : Rake} {ls : List Nat} {vd k : Nat} {val : Nat → Nat} {c : Issue} {f : MFmt} {l : Nat} {ms : List RelMark}
    (h : Loaded r0 r ls vd k val) (hls : ∀ j ∈ ls, j < 32) (hl : l < 32) (hnew : l ∉ ls) (x : Nat) :
    Loaded r0 ((r.setWide vd k l x).found c f l ms) (ls ++ [l]) vd k (fun j => if j = l then x else val j) := by
  obtain ⟨hwide, hother, hframe⟩ := h
  have hv : ((r.setWide vd k l x).found c f l ms).v = (r.setWide vd k l x).v := by rw [found_frame]
  have hget (reg j : Nat) : ((r.setWide vd k l x).found c f l ms).vget reg j = (r.setWide vd k l x).vget reg j := by
    rw [Rake.vget, hv]; rfl
  refine ⟨fun j hj => ?_, fun reg j hj hout => ?_, ?_⟩
  · rw [wide_congr k (fun _ _ _ => hget _ _)]
    dsimp only
    rcases List.mem_append.mp hj with hin | hin
    · have hne : j ≠ l := fun he => hnew (he ▸ hin)
      rw [if_neg hne, ← hwide j hin]
      exact wide_congr k (fun _ _ _ => vget_setWide_other k r hl (hls j hin) (.inl hne))
    · obtain rfl : j = l := by simpa using hin
      rw [if_pos rfl]
      exact wide_setWide_same k r vd j x hl
  · rw [hget, vget_setWide_other k r hl hj, hother reg j hj]
    · exact hout.imp_left (fun h hin => h (List.mem_append_left _ hin))
    · exact hout.imp_left (fun h he => h (he ▸ List.mem_append_right _ List.mem_cons_self))
  · rw [found_frame, setWide_frame, hframe]

/-- One thread's load: what it reads, then where it goes. -/
def loadOne (c : Issue) (f : MFmt) (n : Nat) (x : State × Rake) (t : Target) : State × Rake :=
  ((targetRead x.1 c n true t).1,
    (x.2.setWide f.vd.toNat (sizeRegs n) t.lane (targetRead x.1 c n true t).2.1).found c f t.lane (targetRead x.1 c n true t).2.2)

/-- A run of loads whose reads keep a property of the state: each lane's value is read from a state that has it, and the last one leaves
the state that its own read does. -/
theorem loads_run {c : Issue} {f : MFmt} {n : Nat} {P : State → Prop} {s : State} (h0 : P s) (r0 : Rake) (ts : List Target) :
    (∀ t ∈ ts, ∀ z, P z → P (targetRead z c n true t).1) → (∀ l ∈ ts.map Target.lane, l < 32) → (ts.map Target.lane).Nodup →
    P (ts.foldl (loadOne c f n) (s, r0)).1 ∧ ∃ val,
      Loaded r0 (ts.foldl (loadOne c f n) (s, r0)).2 (ts.map Target.lane) f.vd.toNat (sizeRegs n) val
        ∧ (∀ t ∈ ts, ∃ z, P z ∧ val t.lane = (targetRead z c n true t).2.1)
        ∧ ∀ u, ts.getLast? = some u → ∃ z, P z ∧ val u.lane = (targetRead z c n true u).2.1
            ∧ (ts.foldl (loadOne c f n) (s, r0)).1 = (targetRead z c n true u).1 := by
  induction ts using List.reverseRecOn with
  | nil => exact fun _ _ _ => ⟨h0, fun _ => 0, ⟨by simp, fun _ _ _ _ => rfl, rfl⟩, by simp, by simp⟩
  | append_singleton ts t ih =>
    intro hstep hlanes hnodup
    rw [List.map_append, List.map_cons, List.map_nil] at hlanes hnodup ⊢
    obtain ⟨hbefore, -, hnew⟩ := List.nodup_append.mp hnodup
    have ht : t ∈ ts ++ [t] := List.mem_append_right _ List.mem_cons_self
    obtain ⟨hz, val, hloaded, hvals, -⟩ := ih (fun u hu => hstep u (List.mem_append_left _ hu))
      (fun l hl => hlanes l (List.mem_append_left _ hl)) hbefore
    have hfresh : t.lane ∉ ts.map Target.lane := fun hin => hnew _ hin t.lane List.mem_cons_self rfl
    rw [List.foldl_append, List.foldl_cons, List.foldl_nil]
    generalize ts.foldl (loadOne c f n) (s, r0) = x at hz hloaded
    refine ⟨hstep t ht x.1 hz, fun j => if j = t.lane then (targetRead x.1 c n true t).2.1 else val j,
      loaded_one hloaded (fun j hj => hlanes j (List.mem_append_left _ hj))
        (hlanes t.lane (List.mem_append_right _ List.mem_cons_self)) hfresh _, fun u hu => ?_, fun u hu => ?_⟩
    · rcases List.mem_append.mp hu with hin | hin
      · have hne : u.lane ≠ t.lane := fun he => hfresh (he ▸ List.mem_map_of_mem hin)
        simpa [hne] using hvals u hin
      · obtain rfl : u = t := by simpa using hin
        exact ⟨x.1, hz, by simp⟩
    · obtain rfl : u = t := by simpa [eq_comm] using hu
      exact ⟨x.1, hz, by simp, rfl⟩

/-! ### A run of stores (R208) -/

/-- One more lane's store, the highest so far. -/
theorem stored_append {before mid after : Nat → Byte} {ls : List Nat} {adr val : Nat → Nat} {n l : Nat} (h : Stored before mid ls adr n val)
    (hput : ∀ x, after x = if adr l ≤ x ∧ x < adr l + n then BitVec.ofNat 8 (val l / 256 ^ (x - adr l)) else mid x) :
    Stored before after (ls ++ [l]) adr n val := by
  intro x
  rw [hput, lastAt, List.reverse_append, List.reverse_singleton, List.singleton_append, List.find?_cons]
  by_cases hx : adr l ≤ x ∧ x < adr l + n
  · simp [hx]
  · have hmiss : (decide (adr l ≤ x) && decide (x < adr l + n)) = false := by
      rw [Bool.and_eq_false_iff, decide_eq_false_iff_not, decide_eq_false_iff_not]
      exact not_and_or.mp hx
    rw [if_neg hx, hmiss]
    exact h x

/-- A run of stores that keep a property of the state, each of which writes the bytes it names and no other. -/
theorem stores_run {c : Issue} {f : MFmt} {n : Nat} {P : State → Prop} {byte : State → Nat → Byte} {adr val : Nat → Nat} {s : State}
    (h0 : P s) (ts : List Target) :
    (∀ t ∈ ts, ∀ z, P z → P (targetWrite z c f n (val t.lane) t)
      ∧ ∀ x, byte (targetWrite z c f n (val t.lane) t) x
          = if adr t.lane ≤ x ∧ x < adr t.lane + n then BitVec.ofNat 8 (val t.lane / 256 ^ (x - adr t.lane)) else byte z x) →
    P (ts.foldl (fun z t => targetWrite z c f n (val t.lane) t) s)
      ∧ Stored (byte s) (byte (ts.foldl (fun z t => targetWrite z c f n (val t.lane) t) s)) (ts.map Target.lane) adr n val := by
  induction ts using List.reverseRecOn with
  | nil => exact fun _ => ⟨h0, fun x => rfl⟩
  | append_singleton ts t ih =>
    intro hstep
    obtain ⟨hz, hstored⟩ := ih (fun u hu => hstep u (List.mem_append_left _ hu))
    obtain ⟨hdone, hput⟩ := hstep t (List.mem_append_right _ List.mem_cons_self) _ hz
    rw [List.foldl_append, List.foldl_cons, List.foldl_nil, List.map_append, List.map_cons, List.map_nil]
    exact ⟨hdone, stored_append hstored hput⟩

/-! ### The instruction -/

/-- A memory instruction that runs has its effect, and its group goes on. -/
theorem memOp_ok {a : At} {f : MFmt} {writes : Bool} {s s1 s2 : State} {c : Issue} {n : Nat} {legal : Issue → Nat → Bool}
    {body : Issue → Nat → State → Except BedFault State} (h : MemRuns a f s c s1 n (legal c n)) (hwait : writes = true → Released a f s1)
    (hbody : body c n s1 = .ok s2) : memOp a f writes s legal body = (advance c s2).drawn := by
  obtain ⟨hready, hguard, hsize, hlegal⟩ := h
  have hgo : (writes && decide (2 ≤ f.order.toNat) && rakeBusy a s1) = false := by
    cases hw : writes with
    | false => rfl
    | true => by_cases h2 : 2 ≤ f.order.toNat <;> simp [h2, hwait hw]
  refine bedNext_ok hready ?_
  simp only [if_neg hguard, hsize, hlegal, hgo, Bool.not_true, Bool.false_eq_true, if_false]
  exact hbody

/-- A release with work of its rake outstanding waits. -/
theorem memOp_waits {a : At} {f : MFmt} {s s1 : State} {c : Issue} {n : Nat} {legal : Issue → Nat → Bool}
    {body : Issue → Nat → State → Except BedFault State} (h : MemRuns a f s c s1 n (legal c n)) (horder : 2 ≤ f.order.toNat)
    (hbusy : rakeBusy a s1 = true) : memOp a f true s legal body = s1.drawn := by
  obtain ⟨⟨hissue, hfetch⟩, hguard, hsize, hlegal⟩ := h
  simp only [memOp, bedNext, bedIssue, hissue, hfetch, if_neg hguard, hsize, hlegal, horder, hbusy, waits, Except.map, Bool.not_true,
    Bool.false_eq_true, if_false, decide_true, Bool.and_self, if_true]

end Sys2Proof.Accesses
end

section
/-!
PROOFS. What obtaining a line for the pan's cache leaves unchanged (R278 to R284): everything but memory, the caches, the directory, the
stockpile's tokens and the cores, and the older bytes that racing readers may still find. -/

namespace Sys2Proof.PanCache

open Sys2Proof.Machine Sys2Proof.Safety Sys2Proof.Laws Sys2Proof.Frames

/-- From s to t lines have moved between memory and caches, and what racing readers may still find is as before. -/
def Recalls (s t : State) : Prop := MemoryOnly s t ∧ t.coh.kept = s.coh.kept

namespace Recalls

theorem refl (s : State) : Recalls s s := ⟨rfl, rfl⟩

theorem trans {s t u : State} (h : Recalls s t) (g : Recalls t u) : Recalls s u := ⟨h.1.trans g.1, g.2.trans h.2⟩

/-- Transitivity with the later part first, which fixes the state in the middle. -/
theorem after {s t u : State} (g : Recalls t u) (h : Recalls s t) : Recalls s u := h.trans g

theorem foldl {β : Type} {f : State → β → State} (h : ∀ s x, Recalls s (f s x)) (l : List β) (s : State) : Recalls s (l.foldl f s) :=
  List.foldlRecOn l f (refl s) (fun t ht x _ => ht.trans (h t x))

theorem of_tokensOnly {s t : State} (h : TokensOnly s t) : Recalls s t := by
  refine ⟨h.memory, ?_⟩
  rw [TokensOnly] at h
  rw [h]

theorem setPoison (s : State) (l : Nat) (b : Bool) : Recalls s (s.setPoison l b) := ⟨rfl, rfl⟩
theorem setPart (s : State) (l : Nat) (x : Option PartLine) : Recalls s (s.setPart l x) := ⟨rfl, rfl⟩
theorem setCached (s : State) (a l : Nat) (x : Option CacheLine) : Recalls s (s.setCached a l x) := ⟨rfl, rfl⟩
theorem setDir (s : State) (l : Nat) (e : Option DirEntry) : Recalls s (s.setDir l e) := ⟨rfl, rfl⟩
theorem stamp (s : State) : Recalls s s.stamp := ⟨rfl, rfl⟩
theorem updCore (s : State) (n : Nat) (f : Core → Core) : Recalls s (s.updCore n f) := ⟨rfl, rfl⟩
theorem updCoh {s : State} {f : Coh → Coh} (h : (f s.coh).kept = s.coh.kept) : Recalls s (s.updCoh f) := ⟨rfl, h⟩
theorem memWrite (s : State) (pa : Nat) (bs : List Byte) : Recalls s (s.memWrite pa bs) := ⟨rfl, rfl⟩

theorem noteHome (s : State) (pa n : Nat) : Recalls s (s.noteHome pa n) := by
  unfold State.noteHome
  split
  · exact ⟨rfl, rfl⟩
  · exact refl s

theorem dramLine (s : State) (l : Nat) (d : List Byte) (poison : Bool) : Recalls s (s.dramLine l d poison) :=
  (setPoison _ _ _).after ((memWrite _ _ _).after (noteHome s _ _))

theorem partDrop (s : State) (l : Nat) : Recalls s (partDrop s l) := by
  unfold Machine.partDrop
  split
  · exact refl s
  · dsimp only
    split
    · exact (dramLine _ _ _ _).after (setPart s _ _)
    · exact setPart s _ _

theorem partRoom (s : State) (i l : Nat) : Recalls s (partRoom s i l) := by
  unfold Machine.partRoom
  dsimp only
  split
  · exact refl s
  split
  · exact refl s
  · exact partDrop s _

theorem partTake (s : State) (i l : Nat) (d : List Byte) (dirty poison : Bool) : Recalls s (partTake s i l d dirty poison) :=
  (setPart _ _ _).after ((stamp _).after (partRoom s i l))

theorem homeWrite (s : State) (l : Nat) (d : List Byte) (poison : Bool) (alloc : Option Nat) :
    Recalls s (s.homeWrite l d poison alloc) := by
  unfold State.homeWrite
  dsimp only
  split
  · exact dramLine s l d poison
  split
  · exact partTake s _ l d true poison
  · exact (dramLine _ l d poison).after (partTake s _ l d false poison)

theorem writeBack (s : State) (a l : Nat) (d : List Byte) (poison : Bool) : Recalls s (s.writeBack a l d poison) :=
  (homeWrite _ _ _ _ _).after (of_tokensOnly (TokensOnly.spendLine s l _))

theorem countInval (s : State) (l : Nat) (keep : Option Nat) : Recalls s (countInval s l keep) := by
  unfold Machine.countInval
  split
  · exact refl s
  · exact ⟨rfl, rfl⟩

theorem coresLose (s : State) (l : Nat) (keep : Option Nat) : Recalls s (coresLose s l keep) := by
  refine foldl (fun t n => ?_) _ s
  split
  · exact refl t
  · exact updCore t n _

theorem invalidate (s : State) (l : Nat) (keep : Option Nat) (discard : Bool) : Recalls s (invalidate s l keep discard) := by
  unfold Machine.invalidate
  extract_lets hs s1 s2 s3
  have hcount : Recalls s s1 := countInval s l keep
  have hback : Recalls s s2 := by
    unfold s2
    split
    · split
      · exact hcount
      · exact hcount.trans (writeBack _ _ _ _ _)
    · exact hcount
  have hgone : Recalls s2 s3 := by
    refine foldl (fun t h => ?_) _ s2
    exact setCached t h.1 l none
  clear_value s3
  exact ((hback.trans hgone).trans (coresLose s3 l keep)).trans (setDir _ l none)

theorem dirRoom (s : State) (l : Nat) : Recalls s (dirRoom s l) := by
  unfold Machine.dirRoom
  split
  · exact refl s
  dsimp only
  split
  · exact refl s
  split
  · exact refl s
  · exact (invalidate s _ none false).trans (updCoh rfl)

theorem putEntry (s : State) (l : Nat) (e : DirEntry) : Recalls s (putEntry s l e) := by
  unfold Machine.putEntry
  extract_lets s1 mates s2
  have hmates : Recalls s1 s2 := foldl (fun t m => setDir t _ _) _ s1
  clear_value s2
  exact ((dirRoom s l).trans hmates).trans (setDir _ _ _)

theorem hold (s : State) (a l : Nat) (c : CacheLine) : Recalls s (hold s a l c) := (setCached _ _ _ _).after (stamp s)

theorem fill (s : State) (a l : Nat) (st : Moesi) (d : List Byte) (poison : Bool) : Recalls s (fill s a l st d poison) := hold s a l _

theorem takeBack (s : State) (l : Nat) : Recalls s (takeBack s l) := by
  refine foldl (fun t x => ?_) _ s
  split
  · exact setCached t _ _ _
  · exact (setCached _ _ _ _).after (setCached t _ _ _)

theorem downgrade (s : State) (l : Nat) : Recalls s (downgrade s l) :=
  (foldl (fun t _ => setCached t _ _ _) _ _).after (takeBack s l)

theorem partRead (s : State) (a l : Nat) : Recalls s (partRead s a l) := by
  unfold Machine.partRead
  split
  · exact partTake s _ _ _ _ _
  · exact partTake s _ _ _ _ _
  · exact refl s

theorem homeRead (s : State) (a l : Nat) : Recalls s (homeRead s a l) := by
  unfold Machine.homeRead
  extract_lets s1 cur own s2 alone
  have hdown : Recalls s s1 := (downgrade _ l).after (of_tokensOnly (TokensOnly.spendLine s l _))
  have hread : Recalls s s2 := by
    unfold s2
    split
    · exact hdown.trans (partRead _ a l)
    · exact hdown
  have halone : Recalls s alone := hread.trans ((putEntry _ _ _).after (fill _ _ _ _ _ _))
  clear_value alone s2
  split
  · exact halone
  · split
    · exact halone
    · exact hread.trans ((putEntry _ _ _).after (fill _ _ _ _ _ _))

theorem homeOwn (s : State) (a l : Nat) : Recalls s (homeOwn s a l) := by
  unfold Machine.homeOwn
  extract_lets cur s1 s2
  have hspent : Recalls s s1 := of_tokensOnly (TokensOnly.spendLine s l _)
  have hread : Recalls s s2 := by
    unfold s2
    split
    · exact hspent.trans (partRead _ a l)
    · exact hspent
  clear_value s2
  exact hread.trans ((putEntry _ _ _).after ((hold _ _ _ _).after (invalidate s2 l (some a) true)))

theorem dirLeft (s : State) (l : Nat) : Recalls s (dirLeft s l) := by
  unfold Machine.dirLeft
  split
  · exact setDir s _ _
  · exact refl s

theorem leave (s : State) (a : Nat) (v : Nat × CacheLine) : Recalls s (leave s a v) := by
  unfold Machine.leave
  extract_lets die s0 s1
  have htag : Recalls s s0 := by
    unfold s0
    split
    · exact setCached s _ _ _
    · exact refl s
  have hgone : Recalls s s1 := htag.trans (setCached _ _ _ _)
  clear_value s1
  split
  · exact hgone.trans ((dirLeft _ _).after (writeBack _ _ _ _ _))
  · exact hgone

theorem panEvict (s : State) (p l : Nat) : Recalls s (panEvict s p l) := by
  unfold Machine.panEvict
  dsimp only
  split
  · exact refl s
  split
  · exact refl s
  · exact leave s _ _

theorem panShare (s : State) (p l : Nat) : Recalls s (panShare s p l) := by
  unfold Machine.panShare
  split
  · exact refl s
  · exact (homeRead _ _ _).after (panEvict s p l)

theorem panOwn (s : State) (p l : Nat) : Recalls s (panOwn s p l) := by
  unfold Machine.panOwn
  split
  · split
    · exact refl s
    · exact setCached s _ _ _
    · exact homeOwn s _ _
  · exact (homeOwn _ _ _).after (panEvict s p l)

/-- A read through the pan's cache, or at the home. -/
theorem panRead (s : State) (p pa n : Nat) (cacheable : Bool) : Recalls s (panRead s p pa n cacheable).1 := by
  unfold Machine.panRead
  dsimp only
  split
  · exact foldl (fun t l => panShare t p l) _ s
  · exact of_tokensOnly (TokensOnly.spendRange s pa n 1)

end Recalls

/-- A write into a line of a cache. -/
theorem memoryOnly_pokeCached (s : State) (a l off : Nat) (bs : List Byte) : MemoryOnly s (pokeCached s a l off bs) := by
  unfold pokeCached
  split
  · exact MemoryOnly.refl s
  · rfl

/-- A write through the pan's cache, or at the home. -/
theorem memoryOnly_panWrite (s : State) (p pa : Nat) (bs : List Byte) (cacheable : Bool) : MemoryOnly s (panWrite s p pa bs cacheable) := by
  unfold panWrite
  split
  · exact MemoryOnly.foldl (fun t (x : Nat × Nat × List Byte) => (memoryOnly_pokeCached _ _ _ _ _).after (Recalls.panOwn t p x.1).1) _ s
  · exact MemoryOnly.cachelessBy 1 s pa bs

end Sys2Proof.PanCache
end

section
/-!
PROOFS. LD (R138, R221): what each thread's register receives from scratch, from lines the pan's cache holds or pages it does not cache,
and from lines it must fetch. -/

namespace Sys2Proof.Loads

open Sys2Proof.Machine Sys2Proof.Safety Sys2Proof.Laws Sys2Proof.Frames Sys2Proof.Accesses Sys2Proof.PanCache

variable {a : At} {f : MFmt} {s s1 s2 : State} {c : Issue} {n : Nat} {ts : List Target}

/-- The state and the rake that a group's loads leave before the group goes on. -/
abbrev loaded (c : Issue) (f : MFmt) (n : Nat) (s2 : State) (ts : List Target) : State × Rake := ts.foldl (loadOne c f n) (s2, c.rake)

theorem exec_ld (h : MemRuns a f s c s1 n (memRegs c f (sizeRegs n) [f.vd.toNat])) (ht : targets c f n .r kLoad true s1 = .ok (s2, ts)) :
    exec (.ld a f) s = .next (advance c (c.put (loaded c f n s2 ts).1 (loaded c f n s2 ts).2)).drawn := by
  have hbody : (do
      let (z, us) ← targets c f n .r kLoad true s1
      let r := us.foldl (fun (x : State × Rake) t =>
        let v := targetRead x.1 c n true t
        (v.1, (x.2.setWide f.vd.toNat (sizeRegs n) t.lane v.2.1).found c f t.lane v.2.2)) (z, c.rake)
      return c.put r.1 r.2 : Except BedFault State) = .ok (c.put (loaded c f n s2 ts).1 (loaded c f n s2 ts).2) := by
    rw [ht]; rfl
  exact congrArg go (memOp_ok (legal := fun c n => memRegs c f (sizeRegs n) [f.vd.toNat]) h (fun hw => by simp at hw) hbody)

/-- Registers that loads have filled, once the group has gone on. -/
theorem loadsLanes_of_loaded {m k : Word} {pc : Dword} {r : Rake} {vd j : Nat} {val : Nat → Nat} (h : Loaded c.rake r (lanesOf m) vd j val) :
    LoadsLanes c (r.jump k pc) m vd j val := by
  obtain ⟨hwide, hother, hframe⟩ := h
  rw [jump_frame]
  refine ⟨fun l hl hm => ?_, fun reg l hl hout => ?_, ?_⟩
  · rw [← hwide l (mem_lanesOf.mpr ⟨hl, hm⟩)]
    exact wide_congr j (fun _ _ _ => rfl)
  · refine hother reg l hl (hout.imp_left (fun hm hin => ?_))
    rw [(mem_lanesOf.mp hin).2] at hm
    exact absurd hm (by decide)
  · rw [hframe]

/-- After a run of loads the group goes on: the registers, the program counters, and the state that the reads left. -/
theorem completes_ld (h : MemRuns a f s c s1 n (memRegs c f (sizeRegs n) [f.vd.toNat])) (ht : targets c f n .r kLoad true s1 = .ok (s2, ts))
    {val : Nat → Nat} (hl : Loaded c.rake (loaded c f n s2 ts).2 (lanesOf (c.guarded f.gd)) f.vd.toNat (sizeRegs n) val) {Q : State → Prop}
    (hQ : ∀ t, OnlyRake a (loaded c f n s2 ts).1 t → Q t) :
    Completes (.ld a f) s (fun t => LoadsLanes c (rakeAt a t) (c.guarded f.gd) f.vd.toNat (sizeRegs n) val ∧ NextPc c (rakeAt a t) ∧ Q t) := by
  obtain ⟨ha, -⟩ := ready_rake h.1
  obtain ⟨hrake, honly⟩ := advance_put (s := (loaded c f n s2 ts).1) (loaded c f n s2 ts).2 ha
  refine ⟨_, exec_ld h ht, ?_, ?_, hQ _ honly⟩
  · rw [hrake]
    exact loadsLanes_of_loaded hl
  · rw [hrake]
    have hpcs := hl.2.2
    exact nextPc_jump c _ (by rw [hpcs])

/-! ### Scratch -/

theorem targetRead_scratch {t : Target} (h : t.scratch = true) (z : State) (c : Issue) :
    (targetRead z c n true t).1 = z ∧ Finds (c.viewer t.lane) (z.bed c.a.pan c.a.bed).kept (scratchByte c.a z) t.pa n (targetRead z c n true t).2.1
      ∧ (targetRead z c n true t).2.1 < 2 ^ (8 * n) := by
  have hbytes : targetBytes z c n t = (z, (z.bed c.a.pan c.a.bed).scratchBytes t.pa n) := by rw [targetBytes, if_pos h]
  have hkept : keptAt z c t = (z.bed c.a.pan c.a.bed).kept := by rw [keptAt, if_pos h]
  simp only [targetRead, hbytes, hkept]
  refine ⟨trivial, finds_patch (by simp [Bed.scratchBytes, tgets]) (fun i hi => ?_)⟩
  rw [List.getD_eq_getElem _ _ (by simpa [Bed.scratchBytes, tgets] using hi)]
  simp [Bed.scratchBytes, tgets, scratchByte]

theorem ld_scratch (h : MemRuns a f s c s1 n (memRegs c f (sizeRegs n) [f.vd.toNat])) (hok : ScratchOk c f s1 n true) :
    Completes (.ld a f) s (fun t => ∃ val,
      LoadsLanes c (rakeAt a t) (c.guarded f.gd) f.vd.toNat (sizeRegs n) val
        ∧ (∀ l ∈ lanesOf (c.guarded f.gd),
            Finds (c.viewer l) (s1.bed a.pan a.bed).kept (scratchByte a s1) (memAddr c f l) n (val l) ∧ val l < 2 ^ (8 * n))
        ∧ NextPc c (rakeAt a t) ∧ OnlyRake a s1 t) := by
  obtain ⟨rfl, -⟩ := ready_rake h.1
  have hlanes : (scratchTargets c f).map Target.lane = lanesOf (c.guarded f.gd) := by
    rw [scratchTargets, List.map_map]
    exact List.map_id _
  have hscratch : ∀ t ∈ scratchTargets c f, t.scratch = true := fun t ht => by
    obtain ⟨l, -, rfl⟩ := List.mem_map.mp ht; rfl
  obtain ⟨hstate, val, hloaded, hvals, -⟩ := loads_run (c := c) (f := f) (n := n) (P := fun z => z = s1) rfl c.rake (scratchTargets c f)
    (fun t ht z hz => (targetRead_scratch (hscratch t ht) z c).1.trans hz) (by rw [hlanes]; exact fun l hl => (mem_lanesOf.mp hl).1)
    (by rw [hlanes]; exact lanesOf_nodup _)
  rw [hlanes] at hloaded
  obtain ⟨t, hexec, hgot, hpc, honly⟩ := completes_ld h (targets_scratch hok) hloaded (Q := OnlyRake c.a s1) (fun t ht => hstate ▸ ht)
  refine ⟨t, hexec, val, hgot, fun l hl => ?_, hpc, honly⟩
  obtain ⟨z, rfl, hval⟩ := hvals { lane := l, va := memAddr c f l, pa := memAddr c f l, cacheable := false, scratch := true }
    (List.mem_map_of_mem hl)
  rw [hval]
  exact (targetRead_scratch rfl z c).2

/-! ### Memory -/

theorem getD_cohBytes (z : State) (pa : Nat) {n i : Nat} (h : i < n) : (z.cohBytes pa n).getD i 0 = cohByte z (pa + i) := by
  rw [List.getD_eq_getElem _ _ (by simpa [State.cohBytes] using h)]
  simp [State.cohBytes, cohByte]

/-- A read of memory: what it finds are bytes of the coherent view as the read leaves it. -/
theorem targetRead_memory {t : Target} (h : t.scratch = false) (z : State) (c : Issue) :
    (targetRead z c n true t).1 = (panRead z c.a.pan t.pa n t.cacheable).1
      ∧ Finds (c.viewer t.lane) z.coh.kept (cohByte (targetRead z c n true t).1) t.pa n (targetRead z c n true t).2.1
      ∧ (targetRead z c n true t).2.1 < 2 ^ (8 * n) := by
  have hbytes : targetBytes z c n t = panRead z c.a.pan t.pa n t.cacheable := by simp [targetBytes, h]
  have hkept : keptAt z c t = z.coh.kept := by simp [keptAt, h]
  simp only [targetRead, hbytes, hkept]
  exact ⟨trivial, finds_patch (by simp [panRead, State.cohBytes]) (fun i hi => getD_cohBytes _ _ hi)⟩

theorem cohByte_of_tokensOnly (h : TokensOnly s s2) (x : Nat) : cohByte s2 x = cohByte s x := by
  rw [TokensOnly] at h
  rw [h]
  rfl

theorem cached_of_tokensOnly (h : TokensOnly s s2) (k l : Nat) : s2.cached k l = s.cached k l := by
  rw [TokensOnly] at h
  rw [h]
  rfl

/-- A read of lines that the pan's cache holds, or of a page it does not cache, moves no line. -/
theorem tokensOnly_panRead {p pa : Nat} {cacheable : Bool}
    (h : cacheable = false ∨ ∀ l ∈ linesOf pa n, (s.cached (panAgent p) l).isSome = true) :
    TokensOnly s (panRead s p pa n cacheable).1 := by
  unfold panRead
  dsimp only
  split
  case isFalse => exact TokensOnly.spendRange s pa n 1
  case isTrue hc =>
    have hheld := h.resolve_left (by rw [hc]; decide)
    have hstay : (linesOf pa n).foldl (fun s l => panShare s p l) s = s :=
      Aborts.foldl_eq_self s _ (fun l hl => by rw [panShare, if_pos (hheld l hl)])
    rw [hstay]
    exact TokensOnly.refl s

/-- Where the cache holds every line named, or the page is not cached, only tokens are spent. -/
theorem ld_held (h : MemRuns a f s c s1 n (memRegs c f (sizeRegs n) [f.vd.toNat])) (hspace : f.space = 1)
    (ht : targets c f n .r kLoad true s1 = .ok (s2, ts))
    (hheld : ∀ u ∈ ts, u.cacheable = false ∨ ∀ l ∈ linesOf u.pa n, (s2.cached (panAgent a.pan) l).isSome = true) :
    Completes (.ld a f) s (fun t => ∃ val,
      LoadsLanes c (rakeAt a t) (c.guarded f.gd) f.vd.toNat (sizeRegs n) val
        ∧ (∀ l ∈ lanesOf (c.guarded f.gd), Finds (c.viewer l) s2.coh.kept (cohByte s2) (paOf ts l) n (val l) ∧ val l < 2 ^ (8 * n))
        ∧ NextPc c (rakeAt a t) ∧ t = { s2 with rakes := t.rakes, stk := t.stk, free := s2.free + 1 }) := by
  obtain ⟨rfl, -⟩ := ready_rake h.1
  obtain ⟨hlanes, hscratch, -⟩ := targets_memory hspace ht
  have hnodup : (ts.map Target.lane).Nodup := by rw [hlanes]; exact lanesOf_nodup _
  have hstep : ∀ t ∈ ts, ∀ z, TokensOnly s2 z → TokensOnly s2 (targetRead z c n true t).1 := fun t hmem z hz => by
    rw [(targetRead_memory (hscratch t hmem) z c).1]
    exact hz.trans (tokensOnly_panRead ((hheld t hmem).imp_right (fun hl l hin => by rw [cached_of_tokensOnly hz]; exact hl l hin)))
  obtain ⟨hstate, val, hloaded, hvals, -⟩ := loads_run (c := c) (f := f) (n := n) (P := TokensOnly s2) (TokensOnly.refl s2) c.rake ts hstep
    (by rw [hlanes]; exact fun l hl => (mem_lanesOf.mp hl).1) hnodup
  rw [hlanes] at hloaded
  obtain ⟨t, hexec, hgot, hpc, hframe⟩ := completes_ld h ht hloaded
    (Q := fun t => t = { s2 with rakes := t.rakes, stk := t.stk, free := s2.free + 1 }) (fun t honly => by
      have hwhole := honly.1
      rw [TokensOnly] at hstate
      rw [hwhole, hstate])
  refine ⟨t, hexec, val, hgot, fun l hl => ?_, hpc, hframe⟩
  rw [← hlanes] at hl
  obtain ⟨u, hu, rfl⟩ := List.mem_map.mp hl
  obtain ⟨z, hz, hval⟩ := hvals u hu
  obtain ⟨-, hfinds, hlt⟩ := targetRead_memory (n := n) (hscratch u hu) z c
  have hkept : z.coh.kept = s2.coh.kept := (Recalls.of_tokensOnly hz).2
  have hbytes : cohByte (targetRead z c n true u).1 = cohByte s2 := funext (cohByte_of_tokensOnly (hstep u hu z hz))
  rw [hkept, hbytes] at hfinds
  rw [paOf_lane hnodup hu, hval]
  exact ⟨hfinds, hlt⟩

/-- Lines that the cache must fetch: the last thread's value is found in the coherent view as the loads leave it. -/
theorem ld_fetched (h : MemRuns a f s c s1 n (memRegs c f (sizeRegs n) [f.vd.toNat])) (hspace : f.space = 1)
    (ht : targets c f n .r kLoad true s1 = .ok (s2, ts)) :
    Completes (.ld a f) s (fun t => ∃ val,
      LoadsLanes c (rakeAt a t) (c.guarded f.gd) f.vd.toNat (sizeRegs n) val ∧ NextPc c (rakeAt a t)
        ∧ (∀ u, ts.getLast? = some u → Finds (c.viewer u.lane) s2.coh.kept (cohByte t) u.pa n (val u.lane))
        ∧ t = { s2 with rakes := t.rakes, mem := t.mem, coh := t.coh, stk := t.stk, cores := t.cores, free := s2.free + 1 }) := by
  obtain ⟨hlanes, hscratch, -⟩ := targets_memory hspace ht
  obtain ⟨⟨hmemory, -⟩, val, hloaded, -, hlast⟩ := loads_run (c := c) (f := f) (n := n) (P := Recalls s2) (Recalls.refl s2) c.rake ts
    (fun t hmem z hz => by rw [(targetRead_memory (hscratch t hmem) z c).1]; exact hz.trans (Recalls.panRead z _ _ _ _))
    (by rw [hlanes]; exact fun l hl => (mem_lanesOf.mp hl).1) (by rw [hlanes]; exact lanesOf_nodup _)
  rw [hlanes] at hloaded
  obtain ⟨t, hexec, hgot, hpc, hframe, hview⟩ := completes_ld h ht hloaded
    (Q := fun t => t = { s2 with rakes := t.rakes, mem := t.mem, coh := t.coh, stk := t.stk, cores := t.cores, free := s2.free + 1 }
      ∧ cohByte t = cohByte (loaded c f n s2 ts).1) (fun t honly => by
      have hwhole := honly.1
      rw [MemoryOnly] at hmemory
      exact ⟨by rw [hwhole, hmemory], by rw [hwhole]; rfl⟩)
  refine ⟨t, hexec, val, hgot, hpc, fun u hu => ?_, hframe⟩
  obtain ⟨z, ⟨-, hkept⟩, hval, hdone⟩ := hlast u hu
  obtain ⟨-, hfinds, -⟩ := targetRead_memory (n := n) (hscratch u (List.mem_of_getLast? hu)) z c
  rw [hkept] at hfinds
  rw [hview, hval, hdone]
  exact hfinds

/-- Settles O14: scratch, held or uncached lines, and lines that are fetched. -/
theorem bedLoadsReadScratchAndMemory : Obligations.BedLoadsReadScratchAndMemory :=
  fun _ _ _ _ _ _ h => ⟨ld_scratch h, fun _ _ hspace ht => ⟨ld_held h hspace ht, ld_fetched h hspace ht⟩⟩

end Sys2Proof.Loads
end

section
/-!
PROOFS. ST (R138, R207, R208): what a group's stores leave in scratch, in lines the pan's cache holds for writing, and in memory where a
line is at its home alone. -/

namespace Sys2Proof.Stores

open Sys2Proof.Machine Sys2Proof.Safety Sys2Proof.Laws Sys2Proof.Frames Sys2Proof.Accesses Sys2Proof.PanCache

variable {a : At} {f : MFmt} {s s1 s2 : State} {c : Issue} {n : Nat} {ts : List Target}

/-- The value a lane stores: the low bytes of vb. -/
abbrev storeVal (c : Issue) (f : MFmt) (n l : Nat) : Nat := c.rake.wide f.vb.toNat (sizeRegs n) l % 2 ^ (8 * n)

/-- The state that a group's stores leave before the group goes on. -/
def stored (c : Issue) (f : MFmt) (n : Nat) (s2 : State) (ts : List Target) : State :=
  ts.foldl (fun z t => targetWrite z c f n (storeVal c f n t.lane) t) s2

theorem exec_st (h : MemRuns a f s c s1 n (memRegs c f (sizeRegs n) [f.vb.toNat])) (hreleased : Released a f s1)
    (ht : targets c f n .w kStore false s1 = .ok (s2, ts)) : exec (.st a f) s = .next (advance c (stored c f n s2 ts)).drawn := by
  have hbody : (do
      let (z, us) ← targets c f n .w kStore false s1
      return us.foldl (fun s t => targetWrite s c f n (c.rake.wide f.vb.toNat (sizeRegs n) t.lane % 2 ^ (8 * n)) t) z
        : Except BedFault State) = .ok (stored c f n s2 ts) := by
    rw [ht]; rfl
  exact congrArg go (memOp_ok (legal := fun c n => memRegs c f (sizeRegs n) [f.vb.toNat]) h (fun _ => hreleased) hbody)

theorem exec_st_waits (h : MemRuns a f s c s1 n (memRegs c f (sizeRegs n) [f.vb.toNat])) (horder : 2 ≤ f.order.toNat)
    (hbusy : rakeBusy a s1 = true) : exec (.st a f) s = .next s1.drawn :=
  congrArg go (memOp_waits (legal := fun c n => memRegs c f (sizeRegs n) [f.vb.toNat]) h horder hbusy)

/-- After stores that change no rake the group goes on. -/
theorem completes_st (h : MemRuns a f s c s1 n (memRegs c f (sizeRegs n) [f.vb.toNat])) (hreleased : Released a f s1)
    (ht : targets c f n .w kStore false s1 = .ok (s2, ts)) (hrakes : (stored c f n s2 ts).rakes = s1.rakes) {Q : State → Prop}
    (hQ : ∀ t, OnlyRake a (stored c f n s2 ts) t → Q t) :
    Completes (.st a f) s (fun t => rakeAt a t = { c.rake with pcs := (rakeAt a t).pcs } ∧ NextPc c (rakeAt a t) ∧ Q t) := by
  obtain ⟨ha, hr⟩ := ready_rake h.1
  have hsame : c.rake = rakeAt a (stored c f n s2 ts) := by
    rw [hr, rakeAt, rakeAt, State.rake, State.rake, hrakes]
  obtain ⟨hrake, honly⟩ := advance_only ha hsame
  refine ⟨_, exec_st h hreleased ht, ?_, ?_, hQ _ honly⟩ <;> rw [hrake]
  · exact jump_frame ..
  · exact nextPc_jump c _ rfl

/-! ### Scratch -/

/-- From s to z nothing changes but the scratch of a place's bed, what readers that race may still find there, and the count of stores. -/
def ScratchOnly (a : At) (s z : State) : Prop :=
  z = { s with beds := z.beds, coh := { s.coh with stores := z.coh.stores } }
    ∧ (∀ p b, bedKey p b ≠ bedKey a.pan a.bed → z.bed p b = s.bed p b)
    ∧ z.bed a.pan a.bed = { s.bed a.pan a.bed with
        scratch := (z.bed a.pan a.bed).scratch, scratchBad := (z.bed a.pan a.bed).scratchBad, kept := (z.bed a.pan a.bed).kept }

theorem scratchOnly_refl (a : At) (s : State) : ScratchOnly a s s := ⟨rfl, fun _ _ _ => rfl, rfl⟩

/-- A store to scratch writes the bytes it names. -/
theorem targetWrite_scratch {t : Target} (h : t.scratch = true) (z : State) (c : Issue) (v : Nat) :
    (ScratchOnly c.a s z → ScratchOnly c.a s (targetWrite z c f n v t))
      ∧ ∀ x, scratchByte c.a (targetWrite z c f n v t) x
          = if t.pa ≤ x ∧ x < t.pa + n then BitVec.ofNat 8 (v / 256 ^ (x - t.pa)) else scratchByte c.a z x := by
  have hbed : (targetWrite z c f n v t).bed c.a.pan c.a.bed = { (z.bed c.a.pan c.a.bed).poke t.pa (leBytes n v) with
      kept := ((targetWrite z c f n v t).bed c.a.pan c.a.bed).kept } := by
    have hput : (targetWrite z c f n v t).bed c.a.pan c.a.bed = { (z.bed c.a.pan c.a.bed).poke t.pa (leBytes n v) with
        kept := storeRecs c t.lane (z.coh.stores + 1) (storeRels c f (z.coh.stores + 1) t.lane) t.pa
          ((z.bed c.a.pan c.a.bed).scratchBytes t.pa n) ++ (z.bed c.a.pan c.a.bed).kept } := by
      simp only [targetWrite, if_pos h]
      exact bed_setBed_same ..
    rw [hput]
  have hothers (p b : Nat) (hb : bedKey p b ≠ bedKey c.a.pan c.a.bed) : (targetWrite z c f n v t).bed p b = z.bed p b := by
    simp only [targetWrite, if_pos h]
    exact bed_setBed_other _ _ hb
  have hframe : targetWrite z c f n v t = { z with
      beds := (targetWrite z c f n v t).beds, coh := { z.coh with stores := (targetWrite z c f n v t).coh.stores } } := by
    simp only [targetWrite, if_pos h]
    rfl
  refine ⟨fun ⟨hz, hzo, hzb⟩ => ⟨?_, fun p b hb => (hothers p b hb).trans (hzo p b hb), ?_⟩, fun x => ?_⟩
  · rw [hframe, hz]
  · rw [hbed, hzb]
    rfl
  · rw [scratchByte, hbed]
    refine (Copies.poke_scratch _ t.pa (leBytes n v) x).trans ?_
    rw [Device.length_leBytes]
    split
    case isTrue hx => exact getD_leBytes n (by omega)
    case isFalse => rfl

/-- After stores to scratch the group goes on. -/
theorem onlyScratch_of_onlyRake {z t : State} (hz : ScratchOnly a s z) (ht : OnlyRake a z t) :
    OnlyScratch a s t ∧ scratchByte a t = scratchByte a z := by
  obtain ⟨hframe, hothers, hbed⟩ := hz
  obtain ⟨hwhole, hrakes⟩ := ht
  have hbeds (p b : Nat) : t.bed p b = z.bed p b := by rw [hwhole]; rfl
  have hkept (p b k : Nat) : z.rake p b k = s.rake p b k := by rw [hframe]; rfl
  refine ⟨⟨by rw [hwhole, hframe], fun p b k hk => (hrakes p b k hk).trans (hkept p b k),
    fun p b hb => (hbeds p b).trans (hothers p b hb), by rw [hbeds]; exact hbed⟩, funext (fun x => ?_)⟩
  rw [scratchByte, hbeds]
  rfl

theorem st_scratch (h : MemRuns a f s c s1 n (memRegs c f (sizeRegs n) [f.vb.toNat])) (hreleased : Released a f s1)
    (hok : ScratchOk c f s1 n false) :
    Completes (.st a f) s (fun t =>
      Stored (scratchByte a s1) (scratchByte a t) (lanesOf (c.guarded f.gd)) (memAddr c f) n (storeVal c f n)
        ∧ rakeAt a t = { c.rake with pcs := (rakeAt a t).pcs } ∧ NextPc c (rakeAt a t) ∧ OnlyScratch a s1 t) := by
  obtain ⟨rfl, -⟩ := ready_rake h.1
  have hlanes : (scratchTargets c f).map Target.lane = lanesOf (c.guarded f.gd) := by
    rw [scratchTargets, List.map_map]
    exact List.map_id _
  have hrun : ScratchOnly c.a s1 (stored c f n s1 (scratchTargets c f))
      ∧ Stored (scratchByte c.a s1) (scratchByte c.a (stored c f n s1 (scratchTargets c f))) ((scratchTargets c f).map Target.lane)
          (memAddr c f) n (storeVal c f n) :=
    stores_run (scratchOnly_refl c.a s1) (scratchTargets c f) (fun t ht z hz => by
      obtain ⟨l, -, rfl⟩ := List.mem_map.mp ht
      obtain ⟨honly, hbytes⟩ := targetWrite_scratch (f := f) (n := n)
        (t := { lane := l, va := memAddr c f l, pa := memAddr c f l, cacheable := false, scratch := true }) rfl z c (storeVal c f n l)
      exact ⟨honly hz, hbytes⟩)
  rw [hlanes] at hrun
  obtain ⟨honly, hstored⟩ := hrun
  obtain ⟨t, hexec, hrake, hpc, hframe, hbytes⟩ := completes_st h hreleased (targets_scratch hok) (by rw [honly.1])
    (fun t ht => onlyScratch_of_onlyRake honly ht)
  exact ⟨t, hexec, hbytes ▸ hstored, hrake, hpc, hframe⟩

/-! ### One line -/

/-- A size is a power of two up to 16, so an aligned access lies in one line. -/
theorem fits_of_aligned {code n pa : Nat} (hsize : sizeBytes code = some n) (ha : pa % n = 0) : 0 < n ∧ pa % 64 + n ≤ 64 := by
  unfold sizeBytes at hsize
  split at hsize
  case isFalse => simp at hsize
  case isTrue hcode =>
    obtain rfl : 2 ^ code = n := by simpa using hsize
    interval_cases code <;> omega

theorem linesOf_one {pa n : Nat} (hn : 0 < n) (h : pa % 64 + n ≤ 64) : linesOf pa n = [pa / 64] := by
  rw [linesOf, if_neg (by omega), show (pa + n - 1) / 64 - pa / 64 + 1 = 1 by omega]
  rfl

theorem splitLines_one {pa : Nat} {bs : List Byte} (hn : 0 < bs.length) (h : pa % 64 + bs.length ≤ 64) :
    splitLines pa bs = [(pa / 64, pa % 64, bs)] := by
  have hlo : max pa (pa / 64 * 64) = pa := by omega
  have hhi : min (pa + bs.length) (pa / 64 * 64 + 64) = pa + bs.length := by omega
  rw [splitLines, linesOf_one hn h, List.map_singleton, hlo, hhi]
  dsimp only
  rw [Nat.sub_self, List.drop_zero, Nat.add_sub_cancel_left, List.take_length,
    show pa - pa / 64 * 64 = pa % 64 by omega]

/-! ### Lines held for writing -/

/-- A line of a cache with bytes written into it. -/
def written (k : CacheLine) (off : Nat) (bs : List Byte) : CacheLine :=
  { k with st := .m, data := overlay k.data off bs, poison := k.poison && bs.length != 64 }

/-- A write into a line that the pan's cache holds for writing. -/
theorem panWrite_held {z : State} {pa : Nat} {bs : List Byte} (hn : 0 < bs.length) (hfits : pa % 64 + bs.length ≤ 64) (hheld : HeldM a z pa) :
    let y := panWrite z a.pan pa bs true
    y = { z with coh := y.coh } ∧ (∀ x, HeldM a z x → HeldM a y x)
      ∧ ∀ x, heldByte a y x = if pa ≤ x ∧ x < pa + bs.length then bs.getD (x - pa) 0 else heldByte a z x := by
  obtain ⟨k, hk, hst⟩ := Option.map_eq_some_iff.mp hheld
  obtain ⟨hm, hlen⟩ := Prod.mk.inj hst
  have hown : panOwn z a.pan (pa / 64) = z := by
    rw [panOwn, show z.cached (panAgent a.pan) (pa / 64) = some k from hk]
    simp only [hm]
  have hfit : pa % 64 + bs.length ≤ k.data.length := by omega
  intro y
  have hy : y = (z.setCached (panAgent a.pan) (pa / 64) (some (written k (pa % 64) bs))).unkeep (pa / 64 * 64 + pa % 64) bs.length := by
    simp only [y, panWrite, if_true, splitLines_one hn hfits, List.foldl_cons, List.foldl_nil, hown, pokeCached,
      show z.cached (panAgent a.pan) (pa / 64) = some k from hk]
    rfl
  have hcached (l : Nat) : y.cached (panAgent a.pan) l = if l = pa / 64 then some (written k (pa % 64) bs)
      else z.cached (panAgent a.pan) l := by
    rw [hy]
    have hkey : agentKey (panAgent a.pan) l = agentKey (panAgent a.pan) (pa / 64) ↔ l = pa / 64 := by simp [agentKey]
    have hput : tget none (tput none z.coh.lines (agentKey (panAgent a.pan) (pa / 64)) (some (written k (pa % 64) bs)))
        (agentKey (panAgent a.pan) l) = if l = pa / 64 then some (written k (pa % 64) bs) else z.cached (panAgent a.pan) l := by
      rw [tget_tput]
      exact if_congr hkey rfl rfl
    exact hput
  refine ⟨by rw [hy]; rfl, fun x hx => ?_, fun x => ?_⟩
  · unfold HeldM
    rw [hcached]
    split
    case isTrue => simp [written, Homes.length_overlay hfit, hlen]
    case isFalse => exact hx
  · rw [heldByte, hcached]
    by_cases hl : lineOf x = pa / 64
    case neg =>
      rw [if_neg hl, if_neg]
      · rfl
      · unfold lineOf at hl
        omega
    case pos =>
      have hold : heldByte a z x = k.data.getD (x % 64) 0 := by
        rw [heldByte, hl, show z.cached (panAgent a.pan) (pa / 64) = some k from hk]
        rfl
      rw [if_pos hl, hold]
      refine (Homes.getD_overlay hfit (x % 64)).trans ?_
      unfold lineOf at hl
      exact if_congr (by omega) (by congr 1; omega) rfl

/-- A store to memory, as its cache or its home takes it. -/
theorem targetWrite_memory {t : Target} (h : t.scratch = false) (z : State) (c : Issue) (v : Nat) :
    ∃ kept no, targetWrite z c f n v t
      = { panWrite z c.a.pan t.pa (leBytes n v) t.cacheable with
          coh := { (panWrite z c.a.pan t.pa (leBytes n v) t.cacheable).coh with kept := kept, stores := no } } := by
  simp only [targetWrite, h, Bool.false_eq_true, if_false]
  exact ⟨_, _, rfl⟩

/-- Bytes of a number that a write has put where its target lies. -/
theorem byte_written {pa x v : Nat} (before : Byte) :
    (if pa ≤ x ∧ x < pa + (leBytes n v).length then (leBytes n v).getD (x - pa) 0 else before)
      = if pa ≤ x ∧ x < pa + n then BitVec.ofNat 8 (v / 256 ^ (x - pa)) else before := by
  rw [Device.length_leBytes]
  split
  case isTrue hx => exact getD_leBytes n (by omega)
  case isFalse => rfl

/-- Stores that leave the coherent domain's frame change no rake. -/
theorem stored_rakes (hspace : f.space = 1) (ht : targets c f n .w kStore false s1 = .ok (s2, ts))
    (hmemory : MemoryOnly s2 (stored c f n s2 ts)) : (stored c f n s2 ts).rakes = s1.rakes := by
  obtain ⟨-, -, hxlat⟩ := targets_memory hspace ht
  rw [MemoryOnly] at hmemory
  rw [hmemory]
  exact hxlat.keeps.1

section Memory

variable (h : MemRuns a f s c s1 n (memRegs c f (sizeRegs n) [f.vb.toNat])) (hreleased : Released a f s1) (hspace : f.space = 1)
  (ht : targets c f n .w kStore false s1 = .ok (s2, ts))
include h hreleased hspace ht

/-- Every line named is held for writing by the pan's cache. -/
theorem st_held (hheld : ∀ u ∈ ts, u.cacheable = true ∧ u.pa % n = 0 ∧ HeldM a s2 u.pa) :
    Completes (.st a f) s (fun t =>
      Stored (heldByte a s2) (heldByte a t) (lanesOf (c.guarded f.gd)) (paOf ts) n (storeVal c f n)
        ∧ t = { s2 with rakes := t.rakes, coh := t.coh, free := s2.free + 1 }) := by
  obtain ⟨rfl, -⟩ := ready_rake h.1
  obtain ⟨hlanes, hscratch, -⟩ := targets_memory hspace ht
  have hnodup : (ts.map Target.lane).Nodup := by rw [hlanes]; exact lanesOf_nodup _
  have hrun : (stored c f n s2 ts = { s2 with coh := (stored c f n s2 ts).coh } ∧ ∀ u ∈ ts, HeldM c.a (stored c f n s2 ts) u.pa)
      ∧ Stored (heldByte c.a s2) (heldByte c.a (stored c f n s2 ts)) (ts.map Target.lane) (paOf ts) n (storeVal c f n) := by
    refine stores_run (P := fun z => z = { s2 with coh := z.coh } ∧ ∀ u ∈ ts, HeldM c.a z u.pa) ⟨rfl, fun u hu => (hheld u hu).2.2⟩ ts
      (fun t hmem z hz => ?_)
    obtain ⟨hcache, halign, -⟩ := hheld t hmem
    obtain ⟨hn, hfits⟩ := fits_of_aligned h.2.2.1 halign
    obtain ⟨kept, no, hwrite⟩ := targetWrite_memory (f := f) (n := n) (hscratch t hmem) z c (storeVal c f n t.lane)
    obtain ⟨hframe, hstill, hbytes⟩ := panWrite_held (a := c.a) (z := z) (pa := t.pa) (bs := leBytes n (storeVal c f n t.lane))
      (by rw [Device.length_leBytes]; exact hn) (by rw [Device.length_leBytes]; exact hfits) (hz.2 t hmem)
    rw [hcache] at hwrite
    rw [hwrite, paOf_lane hnodup hmem]
    exact ⟨⟨by rw [hframe, hz.1], fun u hu => hstill u.pa (hz.2 u hu)⟩, fun x => (hbytes x).trans (byte_written _)⟩
  rw [hlanes] at hrun
  obtain ⟨⟨hframe, -⟩, hstored⟩ := hrun
  have hmemory : MemoryOnly s2 (stored c f n s2 ts) := by rw [MemoryOnly, hframe]
  obtain ⟨t, hexec, -, -, hbytes, hwhole⟩ := completes_st h hreleased ht (stored_rakes hspace ht hmemory)
    (Q := fun t => heldByte c.a t = heldByte c.a (stored c f n s2 ts) ∧ t = { s2 with rakes := t.rakes, coh := t.coh, free := s2.free + 1 })
    (fun t honly => by
      have hwhole := honly.1
      exact ⟨by rw [hwhole]; rfl, by rw [hwhole, hframe]⟩)
  exact ⟨t, hexec, hbytes ▸ hstored, hwhole⟩

/-- Every line named is at its home alone, and its page is not cached. -/
theorem st_home (hhome : ∀ u ∈ ts, u.cacheable = false ∧ u.pa % n = 0 ∧ AtHome s2 u.pa) :
    Completes (.st a f) s (fun t => Stored (memByte s2) (memByte t) (lanesOf (c.guarded f.gd)) (paOf ts) n (storeVal c f n)) := by
  obtain ⟨hlanes, hscratch, -⟩ := targets_memory hspace ht
  have hnodup : (ts.map Target.lane).Nodup := by rw [hlanes]; exact lanesOf_nodup _
  have hrun : (MemoryOnly s2 (stored c f n s2 ts) ∧ ∀ u ∈ ts, Homes.LineHome (stored c f n s2 ts) (lineOf u.pa))
      ∧ Stored (memByte s2) (memByte (stored c f n s2 ts)) (ts.map Target.lane) (paOf ts) n (storeVal c f n) := by
    refine stores_run (P := fun z => MemoryOnly s2 z ∧ ∀ u ∈ ts, Homes.LineHome z (lineOf u.pa))
      ⟨MemoryOnly.refl s2, fun u hu => (hhome u hu).2.2⟩ ts (fun t hmem z hz => ?_)
    obtain ⟨hcache, halign, -⟩ := hhome t hmem
    obtain ⟨hn, hfits⟩ := fits_of_aligned h.2.2.1 halign
    obtain ⟨kept, no, hwrite⟩ := targetWrite_memory (f := f) (n := n) (hscratch t hmem) z c (storeVal c f n t.lane)
    have hpan : panWrite z c.a.pan t.pa (leBytes n (storeVal c f n t.lane)) false = cachelessBy 1 z t.pa (leBytes n (storeVal c f n t.lane)) := rfl
    obtain ⟨hbytes, hstill⟩ := Homes.cachelessBy_home (s := z) (pa := t.pa) (bs := leBytes n (storeVal c f n t.lane)) 1 (fun l hl => by
      rw [Device.length_leBytes, linesOf_one hn hfits, List.mem_singleton] at hl
      exact hl ▸ hz.2 t hmem)
    have honly := MemoryOnly.cachelessBy 1 z t.pa (leBytes n (storeVal c f n t.lane))
    rw [hcache, hpan] at hwrite
    rw [hwrite, paOf_lane hnodup hmem]
    exact ⟨⟨hz.1.trans (honly.trans rfl), fun u hu => hstill _ (hz.2 u hu)⟩, fun x => (hbytes x).trans (byte_written _)⟩
  rw [hlanes] at hrun
  obtain ⟨⟨hmemory, -⟩, hstored⟩ := hrun
  obtain ⟨t, hexec, -, -, hbytes⟩ := completes_st h hreleased ht (stored_rakes hspace ht hmemory)
    (Q := fun t => memByte t = memByte (stored c f n s2 ts)) (fun t honly => by
      have hwhole := honly.1
      rw [hwhole]
      rfl)
  rw [← hbytes] at hstored
  exact ⟨t, hexec, hstored⟩

/-- However a store finds its lines, it changes memory, caches, directory, tokens and cores alone. -/
theorem st_frame : Completes (.st a f) s (fun t =>
    rakeAt a t = { c.rake with pcs := (rakeAt a t).pcs } ∧ NextPc c (rakeAt a t)
      ∧ t = { s2 with rakes := t.rakes, mem := t.mem, coh := t.coh, stk := t.stk, cores := t.cores, free := s2.free + 1 }) := by
  obtain ⟨-, hscratch, -⟩ := targets_memory hspace ht
  have hmemory : MemoryOnly s2 (stored c f n s2 ts) := by
    refine List.foldlRecOn (motive := MemoryOnly s2) _ _ (MemoryOnly.refl s2) (fun z hz t hmem => ?_)
    obtain ⟨kept, no, hwrite⟩ := targetWrite_memory (f := f) (n := n) (hscratch t hmem) z c (storeVal c f n t.lane)
    rw [hwrite]
    exact hz.trans ((memoryOnly_panWrite z c.a.pan t.pa _ t.cacheable).trans rfl)
  refine completes_st h hreleased ht (stored_rakes hspace ht hmemory) (fun t honly => ?_)
  have hwhole := honly.1
  rw [MemoryOnly] at hmemory
  rw [hwhole, hmemory]

end Memory

/-- Settles O15: a release that waits, scratch, held lines, lines at their home, and what every store leaves. -/
theorem bedStoresWriteTheNamedBytes : Obligations.BedStoresWriteTheNamedBytes :=
  fun _ _ _ _ _ _ h => ⟨exec_st_waits h, fun hreleased => ⟨st_scratch h hreleased, fun _ _ hspace ht =>
    ⟨st_held h hreleased hspace ht, st_home h hreleased hspace ht, st_frame h hreleased hspace ht⟩⟩⟩

end Sys2Proof.Stores
end

section
/-!
PROOFS. The grain generator (R148, R149): the words of the next state, each a sum over GF(2), which together vanish only where the state
does, and the state a lane's draw leaves it in. -/

namespace Sys2Proof.Generators

open Sys2Proof.Machine Sys2Proof.Laws

/-! ### Words that are zero -/

theorem eq_zero_of_rotateLeft_eq_zero {w r : Nat} (hr : r < w) {x : BitVec w} (h : x.rotateLeft r = 0#w) : x = 0#w := by
  have hbit (j : Nat) := congrArg (fun y : BitVec w => y.getLsbD j) h
  simp only [BitVec.getLsbD_rotateLeft_of_le hr, BitVec.getLsbD_zero] at hbit
  refine BitVec.eq_of_getLsbD_eq (fun i hi => ?_)
  rw [BitVec.getLsbD_zero]
  by_cases hwrap : i + r < w
  · simpa [hwrap] using hbit (i + r)
  · have hlow : i + r - w < r := by omega
    have hback : w - r + (i + r - w) = i := by omega
    simpa [hlow, hback] using hbit (i + r - w)

/-- The bits below the shift are zero, and each above it repeats the bit that lies the shift below. -/
theorem eq_zero_of_eq_shiftLeft {w n : Nat} (hn : 0 < n) {x : BitVec w} (h : x = x <<< n) : x = 0#w := by
  refine BitVec.eq_of_getLsbD_eq (fun i => ?_)
  induction i using Nat.strong_induction_on with
  | _ i ih =>
    intro hi
    rw [h, BitVec.getLsbD_shiftLeft]
    by_cases hlow : i < n
    · simp [hlow]
    · simpa [hi, hlow] using ih (i - n) (by omega) (by omega)

theorem append_eq_zero {v w : Nat} {x : BitVec v} {y : BitVec w} (h : x ++ y = 0#(v + w)) : x = 0#v ∧ y = 0#w := by
  constructor
  · rw [← BitVec.extractLsb'_append_eq_left (a := x) (b := y), h, BitVec.extractLsb'_zero]
  · rw [← BitVec.extractLsb'_append_eq_right (a := x) (b := y), h, BitVec.extractLsb'_zero]

/-! ### The words of a state (R148) -/

/-- s[k] of a state. -/
def word (x : BitVec 128) (k : Nat) : Word := x.extractLsb' (32 * k) 32

theorem words_append (x : BitVec 128) : word x 3 ++ word x 2 ++ word x 1 ++ word x 0 = x := by
  simp [word, BitVec.extractLsb'_append_extractLsb'_eq_extractLsb', -Nat.reduceAdd]

theorem eq_zero_of_words {x : BitVec 128} (h0 : word x 0 = 0) (h1 : word x 1 = 0) (h2 : word x 2 = 0) (h3 : word x 3 = 0) : x = 0 := by
  rw [← words_append x, h0, h1, h2, h3]
  rfl

theorem grainStep_next (x : BitVec 128) : (grainStep x).2 = (word x 3 ^^^ word x 1).rotateLeft 11
    ++ (word x 2 ^^^ word x 0 ^^^ word x 1 <<< 9) ++ (word x 1 ^^^ (word x 2 ^^^ word x 0)) ++ (word x 0 ^^^ (word x 3 ^^^ word x 1)) := rfl

/-- The words of a zero next state say, from its s[3] on: s[3] = s[1], then s[0] = 0, then s[1] = s[2], then s[2] = s[2] << 9. -/
theorem eq_zero_of_next_eq_zero {x : BitVec 128} (h : (grainStep x).2 = 0) : x = 0 := by
  rw [grainStep_next] at h
  obtain ⟨h, hnext0⟩ := append_eq_zero h
  obtain ⟨h, hnext1⟩ := append_eq_zero h
  obtain ⟨hnext3, hnext2⟩ := append_eq_zero h
  have h31 : word x 3 = word x 1 := BitVec.xor_eq_zero_iff.mp (eq_zero_of_rotateLeft_eq_zero (by decide) hnext3)
  have h0 : word x 0 = 0 := by simpa [h31] using hnext0
  have h12 : word x 1 = word x 2 := by simpa [h0, BitVec.xor_eq_zero_iff] using hnext1
  have hshift : word x 2 = word x 2 <<< 9 := by simpa [h0, h12, BitVec.xor_eq_zero_iff] using hnext2
  have h2 : word x 2 = 0 := eq_zero_of_eq_shiftLeft (by decide) hshift
  exact eq_zero_of_words h0 (h12.trans h2) h2 (h31.trans (h12.trans h2))

/-! ### The draw of a lane (R154) -/

theorem drawLane_word (r : Rake) (l : Nat) : (r.drawLane l).1 = (grainStep (r.laneState l)).1 := rfl

theorem laneState_drawLane (r : Rake) (l : Nat) : (r.drawLane l).2.laneState l = (grainStep (r.laneState l)).2 :=
  tget_tput_same r.lanes l _

/-! ### The obligation (R149) -/

/-- Two steps from the state 1, 2, 3, 4. -/
theorem grainStep_published : let x : BitVec 128 := 0x00000004000000030000000200000001
    (grainStep x).1 = 0x00000281 ∧ (grainStep (grainStep x).2).1 = 0x00180387
      ∧ (grainStep x).2 = 0x00003000000004020000000000000007 := by decide

/-- Settles O21: the published words by evaluation, a draw as the step of its lane's state, and the step as one that only zero takes to
zero. -/
theorem generatorReproducesThePublishedWords : Obligations.GeneratorReproducesThePublishedWords := by
  refine ⟨grainStep_published, fun r q l k hstate => ⟨?_, ?_⟩, fun x hx hnext => hx (eq_zero_of_next_eq_zero hnext)⟩
  · rw [drawLane_word, drawLane_word, hstate]
  · rw [laneState_drawLane, laneState_drawLane, hstate]

end Sys2Proof.Generators
end

section
/-!
PROOFS. What the salter reads and writes of agents where every line is in memory alone (R171 to R176, R288): a number read back is the
field written, every other number is as before, and the directory word of an agent is the one set. -/

namespace Sys2Proof.AgentMemory

open Sys2Proof.Machine Sys2Proof.Safety Sys2Proof.Laws Sys2Proof.Frames Sys2Proof.Zeroing

/-! ### Every line stays in memory -/

theorem allHome_congr {s t : State} (h : t.coh = s.coh) (hs : AllHome s) : AllHome t := by
  rw [AllHome, h]
  exact hs

theorem homeWrite_of_allHome {s : State} (h : AllHome s) (l : Nat) (d : List Byte) (poison : Bool) :
    s.homeWrite l d poison none = s.dramLine l d poison :=
  Homes.homeWrite_of_lineHome (Homes.lineHome_of_allHome h l) d poison

theorem allHome_homeWrite {s : State} (h : AllHome s) (l : Nat) (d : List Byte) (poison : Bool) :
    AllHome (s.homeWrite l d poison none) := by
  rw [homeWrite_of_allHome h]
  exact allHome_dramLine h l d poison

theorem allHome_invalidate {s : State} (h : AllHome s) (l : Nat) (discard : Bool) : AllHome (invalidate s l none discard) :=
  (sameLines_invalidate h l none discard).allHome h

theorem allHome_cachelessLine {s : State} (h : AllHome s) (cls l off : Nat) (bs : List Byte) : AllHome (cachelessLine s cls l off bs) := by
  have hspent := TokensOnly.spendLine s l cls
  rw [TokensOnly] at hspent
  have hbegun : AllHome ((spendLine s l cls).unkeep (l * 64 + off) bs.length) := by
    rw [hspent]
    exact h
  rw [cachelessLine]
  dsimp only
  split
  · exact allHome_homeWrite (allHome_invalidate hbegun l true) _ _ _
  · exact allHome_homeWrite (allHome_invalidate hbegun l false) _ _ _

theorem allHome_cachelessWrite {s : State} (h : AllHome s) (pa : Nat) (bs : List Byte) : AllHome (cachelessWrite s pa bs) :=
  List.foldlRecOn (motive := AllHome) _ _ h (fun _ ht _ _ => allHome_cachelessLine ht ..)

theorem allHome_zeroRange {s : State} (h : AllHome s) (pa n : Nat) : AllHome (zeroRange s pa n) :=
  (memByte_zeroLines _ h).1

theorem allHome_copyRange {s : State} (h : AllHome s) (dst src n : Nat) : AllHome (copyRange s dst src n) :=
  List.foldlRecOn (motive := AllHome) _ _ (allHome_zeroRange h dst n) (fun _ ht _ _ => allHome_homeWrite (allHome_invalidate ht _ true) _ _ _)

/-! ### Numbers in memory -/

section
variable {s t : State}

theorem cohByte_of_allHome (h : AllHome s) (x : Nat) : ((s.curLine (lineOf x)).1).getD (x % 64) 0 = memByte s x := by
  have hline : s.homeLine (lineOf x) = s.memBytes (lineOf x * 64) 64 := by
    simp only [State.homeLine, (Homes.lineHome_of_allHome h (lineOf x)).2]
  have hcur : s.curLine (lineOf x) = (s.homeLine (lineOf x), s.homePoison (lineOf x)) := by
    simp only [State.curLine, (Homes.lineHome_of_allHome h (lineOf x)).1]
    rfl
  rw [hcur, hline, Homes.getD_memBytes s _ (Nat.mod_lt x (by decide)), lineOf, Nat.div_add_mod' x 64]

theorem cohBytes_of_allHome (h : AllHome s) (x n : Nat) : s.cohBytes x n = (List.range n).map (fun i => memByte s (x + i)) :=
  List.map_congr_left (fun i _ => cohByte_of_allHome h (x + i))

theorem cohNat_of_allHome (h : AllHome s) (x n : Nat) : s.cohNat x n = wordAt (memByte s) x n :=
  congrArg leNat (cohBytes_of_allHome h x n)

theorem cohNat_lt (s : State) (x n : Nat) : s.cohNat x n < 256 ^ n := by
  have hlt := Accesses.leNat_lt (s.cohBytes x n)
  rwa [State.cohBytes, List.length_map, List.length_range] at hlt

/-- A number whose bytes are as before. -/
theorem cohNat_congr (hs : AllHome s) (ht : AllHome t) {x n : Nat} (h : ∀ i, i < n → memByte t (x + i) = memByte s (x + i)) :
    t.cohNat x n = s.cohNat x n := by
  rw [cohNat_of_allHome hs, cohNat_of_allHome ht]
  exact congrArg leNat (List.map_congr_left (fun i hi => h i (List.mem_range.mp hi)))

/-- A number whose bytes are those of a list from an offset on. -/
theorem cohNat_eq_leField (ht : AllHome t) {x n o : Nat} {bs : List Byte} (hin : o + n ≤ bs.length)
    (h : ∀ i, i < n → memByte t (x + i) = bs.getD (o + i) 0) : t.cohNat x n = leField bs o n := by
  rw [cohNat_of_allHome ht, leField, wordAt]
  refine congrArg leNat (List.ext_getElem (by simp; omega) (fun i hi _ => ?_))
  have hi : i < n := by simpa using hi
  rw [List.getElem_map, List.getElem_range, h i hi, List.getElem_take, List.getElem_drop, List.getD_eq_getElem _ _ (by omega)]

theorem leNat_zeros (n : Nat) : leNat (List.replicate n 0) = 0 := by
  induction n with
  | zero => rfl
  | succ k ih => rw [List.replicate_succ, leNat, ih]; rfl

/-- A number whose bytes are all zero. -/
theorem cohNat_eq_zero (ht : AllHome t) {x n : Nat} (h : ∀ i, i < n → memByte t (x + i) = 0) : t.cohNat x n = 0 := by
  rw [cohNat_of_allHome ht, wordAt, List.map_congr_left (g := fun _ => (0 : Byte)) (fun i hi => h i (List.mem_range.mp hi)),
    List.map_const', List.length_range, leNat_zeros]

/-! ### Cacheless writes -/

theorem memByte_cachelessWrite (h : AllHome s) (pa : Nat) (bs : List Byte) (x : Nat) :
    memByte (cachelessWrite s pa bs) x = if pa ≤ x ∧ x < pa + bs.length then bs.getD (x - pa) 0 else memByte s x :=
  (Homes.cachelessBy_home 3 (fun l _ => Homes.lineHome_of_allHome h l)).1 x

theorem memByte_cachelessWrite_outside (h : AllHome s) {pa x : Nat} {bs : List Byte} (hx : x < pa ∨ pa + bs.length ≤ x) :
    memByte (cachelessWrite s pa bs) x = memByte s x := by
  rw [memByte_cachelessWrite h, if_neg (by omega)]

theorem memByte_cachelessWrite_inside (h : AllHome s) {pa i : Nat} {bs : List Byte} (hi : i < bs.length) :
    memByte (cachelessWrite s pa bs) (pa + i) = bs.getD i 0 := by
  rw [memByte_cachelessWrite h, if_pos (by omega), Nat.add_sub_cancel_left]

/-- A number apart from the bytes written. -/
theorem cohNat_cachelessWrite_apart (h : AllHome s) {pa x n : Nat} {bs : List Byte} (hx : x + n ≤ pa ∨ pa + bs.length ≤ x) :
    (cachelessWrite s pa bs).cohNat x n = s.cohNat x n :=
  cohNat_congr h (allHome_cachelessWrite h pa bs) (fun i hi => memByte_cachelessWrite_outside h (by omega))

/-- A number among the bytes written. -/
theorem cohNat_cachelessWrite_field (h : AllHome s) {pa o n : Nat} {bs : List Byte} (hin : o + n ≤ bs.length) :
    (cachelessWrite s pa bs).cohNat (pa + o) n = leField bs o n :=
  cohNat_eq_leField (allHome_cachelessWrite h pa bs) hin
    (fun i hi => by rw [Nat.add_assoc, memByte_cachelessWrite_inside h (by omega)])

theorem cohNat_cachelessWrite_leBytes (h : AllHome s) (pa n v : Nat) :
    (cachelessWrite s pa (leBytes n v)).cohNat pa n = v % 256 ^ n := by
  have hread := cohNat_cachelessWrite_field h (pa := pa) (o := 0) (n := n) (bs := leBytes n v) (by rw [Device.length_leBytes, Nat.zero_add])
  rwa [Nat.add_zero, Plans.leField_leBytes] at hread

end

/-! ### Directory words (R172) -/

/-- The directory entry that a word spells. -/
def dirOf (w : Nat) : AgentDir := { valid := bitN w 0, st := fld w 1 2, owner := fld w 3 5, loc := fld w 16 25 }

theorem agentDir_eq (s : State) (a : Nat) : s.agentDir a = dirOf (s.cohNat (dirWordPa s a) 8) := rfl

theorem agentDir_bounds (s : State) (a : Nat) : (s.agentDir a).st < 4 ∧ (s.agentDir a).owner < 32 ∧ (s.agentDir a).loc < 2 ^ 25 :=
  ⟨Nat.mod_lt _ (by decide), Nat.mod_lt _ (by decide), Nat.mod_lt _ (by decide)⟩

theorem boolN_lt (b : Bool) : boolN b < 2 := by cases b <;> decide

theorem word_lt {d : AgentDir} (h : d.st < 4) : d.word < 256 ^ 8 := by
  have hvalid := boolN_lt d.valid
  rw [AgentDir.word]
  omega

theorem bitN_zero_word {d : AgentDir} : bitN d.word 0 = d.valid := by
  have hbit : d.word % 2 = boolN d.valid := by
    have hvalid := boolN_lt d.valid
    rw [AgentDir.word]
    omega
  rw [bitN, Nat.pow_zero, Nat.div_one, hbit]
  cases d.valid <;> rfl

/-- A word spells the entry it was made of, its owner and its place cut to their fields. -/
theorem dirOf_word {d : AgentDir} (h : d.st < 4) : dirOf d.word = { d with owner := d.owner % 32, loc := d.loc % 2 ^ 25 } := by
  have hvalid := boolN_lt d.valid
  have hst : fld d.word 1 2 = d.st := by rw [fld, AgentDir.word]; omega
  have howner : fld d.word 3 5 = d.owner % 32 := by rw [fld, AgentDir.word]; omega
  have hloc : fld d.word 16 25 = d.loc % 2 ^ 25 := by rw [fld, AgentDir.word]; omega
  rw [dirOf, bitN_zero_word, hst, howner, hloc]

section
variable {s t : State}

theorem dirPa_of_memoryOnly (h : MemoryOnly s t) : t.salter.dirPa = s.salter.dirPa := by
  unfold MemoryOnly at h
  rw [h]

theorem dirWordPa_congr (h : t.salter.dirPa = s.salter.dirPa) (a : Nat) : dirWordPa t a = dirWordPa s a := by
  rw [dirWordPa, dirWordPa, h]

/-- Two states with one memory, one coherence state and one directory address have one directory. -/
theorem agentDir_congr (hmem : t.mem = s.mem) (hcoh : t.coh = s.coh) (hdir : t.salter.dirPa = s.salter.dirPa) (a : Nat) :
    t.agentDir a = s.agentDir a := by
  have hcur (l : Nat) : t.curLine l = s.curLine l := by
    simp only [State.curLine, State.holders, State.homeLine, State.homePoison, State.partLine, State.dramPoison, State.memBytes, hmem, hcoh]
  have hword : t.cohNat (dirWordPa t a) 8 = s.cohNat (dirWordPa s a) 8 := by
    simp only [State.cohNat, State.cohBytes, hcur, dirWordPa_congr hdir]
  rw [agentDir_eq, agentDir_eq, hword]

/-- The entry just set. -/
theorem agentDir_setAgentDir (h : AllHome s) (a : Nat) {d : AgentDir} (hst : d.st < 4) :
    (s.setAgentDir a d).agentDir a = { d with owner := d.owner % 32, loc := d.loc % 2 ^ 25 } := by
  have hpa : dirWordPa (s.setAgentDir a d) a = dirWordPa s a := dirWordPa_congr (dirPa_of_memoryOnly (MemoryOnly.cachelessWrite ..)) a
  rw [agentDir_eq, hpa, State.setAgentDir, cohNat_cachelessWrite_leBytes h, Nat.mod_eq_of_lt (word_lt hst), dirOf_word hst]

/-- A write apart from an agent's word leaves its entry. -/
theorem agentDir_cachelessWrite_apart (h : AllHome s) {a pa : Nat} {bs : List Byte}
    (hx : dirWordPa s a + 8 ≤ pa ∨ pa + bs.length ≤ dirWordPa s a) : (cachelessWrite s pa bs).agentDir a = s.agentDir a := by
  have hpa : dirWordPa (cachelessWrite s pa bs) a = dirWordPa s a := dirWordPa_congr (dirPa_of_memoryOnly (MemoryOnly.cachelessWrite ..)) a
  rw [agentDir_eq, agentDir_eq, hpa, cohNat_cachelessWrite_apart h hx]

end

end Sys2Proof.AgentMemory
end

section
/-!
PROOFS. What the salter does for agents touches memory and the pans' brine alone (R15, R197 to R202); a grant of brine takes ranges that
are free, one apart from the other. -/

namespace Sys2Proof.Grants

open Sys2Proof.Machine Sys2Proof.Safety Sys2Proof.Laws Sys2Proof.Frames Sys2Proof.AgentMemory

/-! ### Work on brine -/

/-- From s to t nothing changes but memory, the coherence state, the pans, the stockpile and the cores. -/
def BrineOnly (s t : State) : Prop := t = { s with mem := t.mem, coh := t.coh, pans := t.pans, stk := t.stk, cores := t.cores }

theorem BrineOnly.refl (s : State) : BrineOnly s s := rfl

theorem BrineOnly.trans {s t u : State} (h : BrineOnly s t) (g : BrineOnly t u) : BrineOnly s u :=
  Eq.trans g (congrArg (fun z : State => { z with mem := u.mem, coh := u.coh, pans := u.pans, stk := u.stk, cores := u.cores }) h)

theorem BrineOnly.salter {s t : State} (h : BrineOnly s t) : t.salter = s.salter := by
  unfold BrineOnly at h
  rw [h]

theorem brineOnly_of_memoryOnly {s t : State} (h : MemoryOnly s t) : BrineOnly s t := by
  unfold MemoryOnly at h
  rw [BrineOnly, h]

/-- The salter has worked on memory and on the brine's grants alone, and where every line was in memory alone it still is. -/
structure BrineWork (s t : State) : Prop where
  only : BrineOnly s t
  home : AllHome s → AllHome t

/-- The fills of an agent's streams cut down to the positions kept (R191). -/
def fillsCut (s : State) (h keep : Nat) : State :=
  (List.range (hStreams s h)).foldl (fun s st => setFill s h st (min (streamRec s h st).fill keep)) s

theorem cutTo_eq (s : State) (owner h keep c : Nat) : cutTo s owner h keep c =
    (fillsCut (writeCommitLine (cutAgent s owner h keep).1 h ((hGen s h + 1) % 256) c (hUsed s h - (cutAgent s owner h keep).2.1)) h keep).updPan
      owner (fun p => { p with kvZero := wrapAdd 64 p.kvZero (cutAgent s owner h keep).2.2 }) := rfl

namespace BrineWork

theorem refl (s : State) : BrineWork s s := ⟨BrineOnly.refl s, id⟩

theorem trans {s t u : State} (h : BrineWork s t) (g : BrineWork t u) : BrineWork s u := ⟨h.only.trans g.only, fun hs => g.home (h.home hs)⟩

/-- Transitivity with the later part first, which fixes the state in the middle. -/
theorem after {s t u : State} (g : BrineWork t u) (h : BrineWork s t) : BrineWork s u := h.trans g

theorem foldl {β : Type} {f : State → β → State} (h : ∀ s x, BrineWork s (f s x)) (l : List β) (s : State) : BrineWork s (l.foldl f s) :=
  List.foldlRecOn l f (refl s) (fun t ht x _ => ht.trans (h t x))

theorem ite {s t u : State} (c : Prop) [Decidable c] (ht : BrineWork s t) (hu : BrineWork s u) : BrineWork s (if c then t else u) := by
  split
  · exact ht
  · exact hu

theorem updPan (s : State) (p : Nat) (f : Pan → Pan) : BrineWork s (s.updPan p f) := ⟨rfl, id⟩

theorem freeRange (s : State) (p off : Nat) : BrineWork s (freeRange s p off) := updPan s p _

theorem cachelessWrite (s : State) (pa : Nat) (bs : List Byte) : BrineWork s (cachelessWrite s pa bs) :=
  ⟨brineOnly_of_memoryOnly (MemoryOnly.cachelessWrite s pa bs), fun h => allHome_cachelessWrite h pa bs⟩

theorem setAgentDir (s : State) (a : Nat) (d : AgentDir) : BrineWork s (s.setAgentDir a d) := cachelessWrite s _ _

theorem clearAgentDir (s : State) (a : Nat) : BrineWork s (s.clearAgentDir a) := cachelessWrite s _ _

theorem headerState (s : State) (h st : Nat) : BrineWork s (headerState s h st) := cachelessWrite s _ _

theorem zeroRange (s : State) (pa n : Nat) : BrineWork s (zeroRange s pa n) :=
  ⟨brineOnly_of_memoryOnly (MemoryOnly.zeroRange s pa n), fun h => allHome_zeroRange h pa n⟩

theorem copyRange (s : State) (dst src n : Nat) : BrineWork s (copyRange s dst src n) := by
  refine ⟨brineOnly_of_memoryOnly ?_, fun h => allHome_copyRange h dst src n⟩
  exact (MemoryOnly.foldl (fun t l => (MemoryOnly.homeWrite _ _ _ _ _).after (MemoryOnly.invalidate t _ none true)) _ _).after
    (MemoryOnly.zeroRange s dst n)

theorem rewritePages (s : State) (h : Nat) (ws : List ((Nat × Nat × Nat) × Nat)) : BrineWork s (rewritePages s h ws) :=
  foldl (fun t _ => cachelessWrite t _ _) ws s

theorem releaseAgent (s : State) (p h : Nat) : BrineWork s (releaseAgent s p h) := foldl (fun t o => freeRange t p o) _ s

/-- The cutting of an agent's streams (R191). -/
theorem cutAgent (s : State) (owner h keep : Nat) : BrineWork s (cutAgent s owner h keep).1 := by
  have hzero (t : State) (r : StreamRec) (lo hi : Nat) : BrineWork t (zeroPositions t owner h r lo hi) :=
    foldl (fun u _ => cachelessWrite u _ _) _ t
  have hwords (t : State) (r : StreamRec) : BrineWork t (clearWords t h r keep).1 := by
    refine List.foldlRecOn (motive := fun x : State × Nat => BrineWork t x.1) _ _ (refl t) (fun x hx k _ => ?_)
    dsimp only
    split
    · exact hx.trans (cachelessWrite _ _ _)
    · exact hx
  refine List.foldlRecOn (motive := fun x : State × Nat × Nat => BrineWork s x.1) _ _ (refl s) (fun x hx st _ => ?_)
  dsimp only
  split
  · exact hx.trans ((hzero _ _ _ _).trans (hwords _ _))
  · exact hx

theorem fillsCut (s : State) (h keep : Nat) : BrineWork s (fillsCut s h keep) := foldl (fun t _ => cachelessWrite t _ _) _ s

theorem cutTo (s : State) (owner h keep c : Nat) : BrineWork s (cutTo s owner h keep c) := by
  rw [cutTo_eq]
  exact (((cutAgent s owner h keep).trans (cachelessWrite _ _ _)).trans (fillsCut _ h keep)).trans (updPan _ owner _)

end BrineWork

/-! ### Grants of brine (R197, entry 24) -/

/-- The ranges that a grant takes, each with its bytes and its offset: a part of no bytes takes none. -/
def grantedRanges (want : List (Nat × Nat)) (offs : List Nat) : List (Nat × Nat) :=
  ((want.map Prod.fst).zip offs).filter (fun x => x.1 ≠ 0)

/-- Two ranges, each with its bytes and its offset, do not meet. -/
def Apart (x y : Nat × Nat) : Prop := x.2 + x.1 ≤ y.2 ∨ y.2 + y.1 ≤ x.2

theorem placed_of_fitFrom {s : State} {p n align m off : Nat} (fuel : Nat) : ∀ {k : Nat}, fitFrom s p n align m fuel k = some off →
    brineRangeFree s p off n = true ∧ off % align = 0 := by
  induction fuel with
  | zero => intro k h; simp [fitFrom] at h
  | succ fuel ih =>
    intro k h
    rw [fitFrom] at h
    split at h
    case isTrue hfree =>
      obtain rfl := Option.some.inj h
      exact ⟨hfree, Nat.mul_mod_left _ _⟩
    case isFalse => exact ih h

/-- A place found for a grant lies below the reserved granules and apart from every range taken. -/
theorem placed_of_placeBrine {s : State} {p n align i off : Nat} (h : placeBrine s p n align i = some off) :
    off + n ≤ brineLimit s p ∧ (∀ y ∈ (s.pan p).taken, off + n ≤ y.1 ∨ y.1 + y.2 ≤ off) ∧ off % align = 0 := by
  obtain ⟨hfree, halign⟩ := placed_of_fitFrom _ h
  simp only [brineRangeFree, Bool.and_eq_true, decide_eq_true_eq, List.all_eq_true, meets, Bool.not_eq_true', Bool.and_eq_false_iff,
    decide_eq_false_iff_not, Nat.not_lt] at hfree
  obtain ⟨⟨hlimit, htaken⟩, -⟩ := hfree
  exact ⟨hlimit, fun y hy => (htaken y hy).symm, halign⟩

/-- What a grant leaves: the ranges it takes join those of the pan, below the reserved granules, apart from those taken before and from
one another, and nothing else changes. -/
structure Granted (s : State) (p : Nat) (want : List (Nat × Nat)) (t : State) (offs : List Nat) : Prop where
  only : t = { s with pans := t.pans }
  length : offs.length = want.length
  taken : (t.pan p).taken = (s.pan p).taken ++ (grantedRanges want offs).map (fun x => (x.2, x.1))
  other : ∀ q, q ≠ p → t.pan q = s.pan q
  fits : ∀ x ∈ grantedRanges want offs, x.2 + x.1 ≤ brineLimit s p ∧ ∀ y ∈ (s.pan p).taken, x.2 + x.1 ≤ y.1 ∨ y.1 + y.2 ≤ x.2
  apart : (grantedRanges want offs).Pairwise Apart
  aligned : (∀ w ∈ want, w.2 % 64 = 0) → ∀ o ∈ offs, o % 64 = 0
  below : ∀ o ∈ offs, o ≤ brineLimit s p

theorem grantedRanges_cons_zero (align : Nat) (want : List (Nat × Nat)) (off : Nat) (offs : List Nat) :
    grantedRanges ((0, align) :: want) (off :: offs) = grantedRanges want offs := by simp [grantedRanges]

theorem grantedRanges_cons {n : Nat} (hn : n ≠ 0) (align : Nat) (want : List (Nat × Nat)) (off : Nat) (offs : List Nat) :
    grantedRanges ((n, align) :: want) (off :: offs) = (n, off) :: grantedRanges want offs := by simp [grantedRanges, hn]

theorem Granted.nil (s : State) (p : Nat) : Granted s p [] s [] :=
  ⟨rfl, rfl, by simp [grantedRanges], fun _ _ => rfl, by simp [grantedRanges], by simp [grantedRanges], by simp, by simp⟩

theorem Granted.skip {s t : State} {p : Nat} {want : List (Nat × Nat)} {offs : List Nat} (h : Granted s p want t offs) (align : Nat) :
    Granted s p ((0, align) :: want) t (0 :: offs) := by
  obtain ⟨honly, hlength, htaken, hother, hfits, hapart, haligned, hbelow⟩ := h
  refine ⟨honly, congrArg (· + 1) hlength, ?_, hother, ?_, ?_, fun hwant o ho => ?_, fun o ho => ?_⟩
  · rw [grantedRanges_cons_zero, htaken]
  · rw [grantedRanges_cons_zero]
    exact hfits
  · rw [grantedRanges_cons_zero]
    exact hapart
  · rcases List.mem_cons.mp ho with rfl | ho
    · rfl
    · exact haligned (fun w hw => hwant w (List.mem_cons_of_mem _ hw)) o ho
  · rcases List.mem_cons.mp ho with rfl | ho
    · exact Nat.zero_le _
    · exact hbelow o ho

theorem taken_takeBrine (s : State) (p off n : Nat) : ((takeBrine s p off n).pan p).taken = (s.pan p).taken ++ [(off, n)] := by
  rw [takeBrine, State.updPan_pan_same]

theorem Granted.cons {s t : State} {p n align off i : Nat} {want : List (Nat × Nat)} {offs : List Nat} (hn : n ≠ 0)
    (hplaced : placeBrine s p n align i = some off) (h : Granted (takeBrine s p off n) p want t offs) :
    Granted s p ((n, align) :: want) t (off :: offs) := by
  obtain ⟨honly, hlength, htaken, hother, hfits, hapart, haligned, hbelow⟩ := h
  obtain ⟨hlimit, hfree, halign⟩ := placed_of_placeBrine hplaced
  rw [taken_takeBrine] at htaken hfits
  refine ⟨honly, congrArg (· + 1) hlength, ?_, fun q hq => ?_, fun x hx => ?_, ?_, fun hwant o ho => ?_, fun o ho => ?_⟩
  · rw [grantedRanges_cons hn, htaken, List.append_assoc]
    rfl
  · rw [hother q hq, takeBrine, State.updPan_pan_other _ _ hq]
  · rw [grantedRanges_cons hn] at hx
    rcases List.mem_cons.mp hx with rfl | hx
    · exact ⟨hlimit, hfree⟩
    · exact ⟨(hfits x hx).1, fun y hy => (hfits x hx).2 y (List.mem_append_left _ hy)⟩
  · rw [grantedRanges_cons hn]
    exact List.Pairwise.cons (fun x hx => ((hfits x hx).2 (off, n) (by simp)).symm) hapart
  · rcases List.mem_cons.mp ho with rfl | ho
    · have hw := hwant (n, align) List.mem_cons_self
      exact Nat.mod_eq_zero_of_dvd ((Nat.dvd_of_mod_eq_zero hw).trans (Nat.dvd_of_mod_eq_zero halign))
    · exact haligned (fun w hw => hwant w (List.mem_cons_of_mem _ hw)) o ho
  · rcases List.mem_cons.mp ho with rfl | ho
    · exact (Nat.le_add_right _ _).trans hlimit
    · exact hbelow o ho

theorem granted_of_grantAll {p : Nat} (want : List (Nat × Nat)) : ∀ {s t : State} {i : Nat} {offs : List Nat},
    grantAll s p i want = some (t, offs) → Granted s p want t offs := by
  induction want with
  | nil =>
    intro s t i offs h
    obtain ⟨rfl, rfl⟩ := Prod.mk.inj (Option.some.inj h)
    exact Granted.nil s p
  | cons w want ih =>
    intro s t i offs h
    obtain ⟨n, align⟩ := w
    rw [grantAll] at h
    split at h
    case isTrue hzero =>
      obtain ⟨⟨u, os⟩, hrest, heq⟩ := Option.map_eq_some_iff.mp h
      obtain ⟨rfl, rfl⟩ := Prod.mk.inj heq
      subst hzero
      exact (ih hrest).skip align
    case isFalse hn =>
      obtain ⟨off, hplaced, hmap⟩ := Option.bind_eq_some_iff.mp h
      obtain ⟨⟨u, os⟩, hrest, heq⟩ := Option.map_eq_some_iff.mp hmap
      obtain ⟨rfl, rfl⟩ := Prod.mk.inj heq
      exact Granted.cons hn hplaced (ih hrest)

theorem Granted.brineWork {s t : State} {p : Nat} {want : List (Nat × Nat)} {offs : List Nat} (h : Granted s p want t offs) :
    BrineWork s t := by
  have honly := h.only
  refine ⟨?_, fun hs => allHome_congr ?_ hs⟩
  · rw [BrineOnly, honly]
  · rw [honly]

theorem Granted.memByte {s t : State} {p : Nat} {want : List (Nat × Nat)} {offs : List Nat} (h : Granted s p want t offs) (x : Nat) :
    memByte t x = memByte s x := by
  rw [h.only]
  rfl

end Sys2Proof.Grants
end

section
/-!
PROOFS. Migrations (R201 to R203): how a head move is counted, refused, started and finished (O37). -/

namespace Sys2Proof.Migrations

open Sys2Proof.Machine Sys2Proof.Safety Sys2Proof.Laws Sys2Proof.Frames Sys2Proof.Board Sys2Proof.Boxes Sys2Proof.AgentMemory
  Sys2Proof.Grants

/-! ### The end of a move -/

/-- A move that a rake asked for leaves its status in the rake's scalar register. -/
def Tells (o : Origin) (t : State) (status : Nat) : Prop :=
  ∀ q b r sd, o = .rake q b r sd → (t.rake q b r).sget sd = BitVec.ofNat 64 status

/-- What the end of a move leaves: the next move of the order at the head, the status where it was asked for, and memory, the pans and
the directory as they were. -/
structure MoveEnded (s : State) (p : Nat) (m : Migration) (status : Nat) (t : State) : Prop where
  mover : t.mover p = (s.mover p).drop 1
  told : Tells m.origin t status
  mem : t.mem = s.mem
  pans : t.pans = s.pans
  coh : t.coh = s.coh
  dirPa : t.salter.dirPa = s.salter.dirPa

theorem mover_setMover (s : State) (p : Nat) (l : List Migration) : (setMover s p l).mover p = l := tget_tput_same _ _ _

/-- A hand-back keeps what the end of a move keeps. -/
theorem finish_keeps (s : State) (p box status : Nat) (resp : List Byte) :
    (finish s box status resp).mover p = s.mover p ∧ (finish s box status resp).mem = s.mem ∧ (finish s box status resp).pans = s.pans
      ∧ (finish s box status resp).coh = s.coh ∧ (finish s box status resp).salter.dirPa = s.salter.dirPa := by
  have h := boxesOnly_handBackAt (s.updSalter (fun x => { x with deferred := x.deferred.filter (fun e => e.1 ≠ box) })) box status 0 false resp
  change BoxesOnly _ (finish s box status resp) at h
  unfold BoxesOnly at h
  rw [h]
  exact ⟨rfl, rfl, rfl, rfl, rfl⟩

theorem moveEnded_endMove (s : State) (p : Nat) (m : Migration) (status : Nat) (resp : List Byte) :
    MoveEnded s p m status (endMove s p m status resp) := by
  have hmover := mover_setMover s p ((s.mover p).drop 1)
  unfold endMove
  cases horigin : m.origin with
  | mailbox box =>
    obtain ⟨hkeeps, hmem, hpans, hcoh, hdir⟩ := finish_keeps (setMover s p ((s.mover p).drop 1)) p box status resp
    exact ⟨hkeeps.trans hmover, fun q b r sd h => absurd (horigin.symm.trans h) (by simp), hmem, hpans, hcoh, hdir⟩
  | rake q b r sd =>
    refine ⟨hmover, fun q' b' r' sd' h => ?_, rfl, rfl, rfl, rfl⟩
    obtain ⟨rfl, rfl, rfl, rfl⟩ := Origin.rake.inj (horigin.symm.trans h)
    rw [State.updRake_rake_same, sget_sset_same]
  | gone => exact ⟨hmover, fun q b r sd h => absurd (horigin.symm.trans h) (by simp), rfl, rfl, rfl, rfl⟩

theorem MoveEnded.drawn {s t : State} {p status : Nat} {m : Migration} (h : MoveEnded s p m status t) : MoveEnded s p m status t.drawn := by
  obtain ⟨hmover, htold, hmem, hpans, hcoh, hdir⟩ := h
  exact ⟨hmover, htold, hmem, hpans, hcoh, hdir⟩

theorem MoveEnded.tagHome {s t : State} {p status : Nat} {m : Migration} (h : MoveEnded s p m status t) (n : Nat) (bed agent : Option Nat) :
    (t.tagHome n bed agent).mover p = (s.mover p).drop 1 ∧ Tells m.origin (t.tagHome n bed agent) status :=
  ⟨h.mover, h.told⟩

theorem agentDir_tagHome (s : State) (n : Nat) (bed agent : Option Nat) (a : Nat) : (s.tagHome n bed agent).agentDir a = s.agentDir a := rfl

theorem MoveEnded.agentDir {s t : State} {p status : Nat} {m : Migration} (h : MoveEnded s p m status t) (a : Nat) :
    t.agentDir a = s.agentDir a :=
  agentDir_congr h.mem h.coh h.dirPa a

/-! ### The state of a move -/

theorem agentDir_setMover (s : State) (p : Nat) (l : List Migration) (a : Nat) : (setMover s p l).agentDir a = s.agentDir a := rfl

theorem agentDir_drawn (s : State) (a : Nat) : s.drawn.agentDir a = s.agentDir a := rfl

/-- The directory word and the header's copy of the state, one apart from the other, after a change of the state. -/
theorem setMoveState_states {s : State} (hhome : AllHome s) {a st : Nat} (hst : st < 4)
    (hapart : (s.agentDir a).header + 4 < dirWordPa s a ∨ dirWordPa s a + 8 ≤ (s.agentDir a).header + 4) :
    (setMoveState s a (s.agentDir a) st).agentDir a = { s.agentDir a with st := st }
      ∧ memByte (setMoveState s a (s.agentDir a) st) ((s.agentDir a).header + 4) = BitVec.ofNat 8 st := by
  obtain ⟨-, howner, hloc⟩ := agentDir_bounds s a
  generalize s.agentDir a = d at howner hloc hapart
  have hset := agentDir_setAgentDir hhome a (d := { d with st := st }) hst
  have hhome' := (BrineWork.setAgentDir s a { d with st := st }).home hhome
  have hpa : dirWordPa (s.setAgentDir a { d with st := st }) a = dirWordPa s a :=
    congrArg (fun x : Salter => x.dirPa + 8 * a) (BrineWork.setAgentDir s a _).only.salter
  rw [setMoveState, headerState]
  constructor
  · rw [agentDir_cachelessWrite_apart hhome' (by rw [hpa, Device.length_leBytes]; omega), hset]
    simp only [Nat.mod_eq_of_lt howner, Nat.mod_eq_of_lt hloc]
  · exact memByte_cachelessWrite_inside hhome' (i := 0) (by rw [Device.length_leBytes]; decide)

/-! ### What each test finds -/

section
variable {s : State} {p : Nat} {m : Migration} {rest : List Migration} (hhead : s.mover p = m :: rest)

theorem exec_migrations_none (h : s.mover p = []) :
    exec (.migrationTest p) s = go s ∧ exec (.migrationBusy p) s = go s ∧ exec (.migrationComplete p) s = go s := by
  refine ⟨?_, ?_, ?_⟩
  · change execMigrationTest p s = _
    rw [execMigrationTest, h]
  · change execMigrationBusy p s = _
    rw [execMigrationBusy, h]
  · change execMigrationComplete p s = _
    rw [execMigrationComplete, h]

include hhead

theorem drop_mover : (s.mover p).drop 1 = rest := by rw [hhead]; rfl

theorem exec_migrationTest (hstarted : m.started = false) (hdraining : s.pkg.st ≠ .draining) (hfault : s.pkg.st ≠ .fault)
    (hoff : s.pkg.st ≠ .off) (htests : m.tests < 8) :
    exec (.migrationTest p) s = if kvQueued s m.agent then go (setMover s p ({ m with tests := m.tests + 1 } :: rest))
      else go (startMove s p m).drawn := by
  change execMigrationTest p s = _
  rw [execMigrationTest, hhead]
  simp only [hstarted, hdraining, hfault, hoff, Bool.false_eq_true, false_or, if_neg (Nat.not_le.mpr htests)]

theorem exec_migrationBusy (hstarted : m.started = false) (htests : 8 ≤ m.tests) (hdraining : s.pkg.st ≠ .draining) :
    exec (.migrationBusy p) s = go (endMove s p m stBusyRetry []) := by
  change execMigrationBusy p s = _
  rw [execMigrationBusy, hhead]
  simp only [hstarted, hdraining, Bool.false_eq_true, or_false, false_or, if_neg (Nat.not_lt.mpr htests)]

theorem exec_migrationComplete (hstarted : m.started = true) (hdraining : s.pkg.st ≠ .draining) :
    exec (.migrationComplete p) s
      = go (if m.spill then completeSpill s p m else (completeFetch s p m).tagHome s.coh.homeNo none (some m.agent)) := by
  change execMigrationComplete p s = _
  rw [execMigrationComplete, hhead]
  simp only [hstarted, hdraining, Bool.not_true, Bool.false_eq_true, or_self, if_false]

/-! ### Starts (R201) -/

theorem startMove_spill (hspill : m.spill = true) :
    startMove s p m = setMover (setMoveState s m.agent (s.agentDir m.agent) aMovingOut) p ({ m with started := true } :: rest) := by
  simp only [startMove, hspill, if_true, drop_mover hhead]

/-- A PREFETCH that starts: refused where its brine is not free, or is free in no range that fits, else granted at the target pan. -/
theorem startMove_prefetch (hspill : m.spill = false) :
    let d := s.agentDir m.agent
    let need_ := (moveWant s d.header).foldl (fun n x => n + x.1) 0
    (startMove s p m = endMove s p m stNoFit [])
      ∨ (need_ ≤ freeBrine s p ∧ ∃ u m', BrineWork s u ∧ startMove s p m = setMover (u.setAgentDir m.agent { d with st := aMovingIn, owner := p }) p (m' :: rest)
          ∧ m'.started = true ∧ m'.agent = m.agent ∧ m'.origin = m.origin ∧ m'.prev = d.owner) := by
  intro d need_
  rw [startMove]
  simp only [hspill, drop_mover hhead, Bool.false_eq_true, if_false]
  split
  case isTrue => exact .inl rfl
  case isFalse hfree =>
    split
    case h_1 => exact .inl rfl
    case h_2 s1 offs hgrant => exact .inr ⟨Nat.not_lt.mp hfree, s1, _, (granted_of_grantAll _ hgrant).brineWork, rfl, rfl, rfl, rfl, rfl⟩

/-! ### Completion (R202) -/

end

theorem completeSpill_work (s : State) (p : Nat) (m : Migration) : ∃ u, BrineWork s u ∧ completeSpill s p m =
    endMove (u.setAgentDir m.agent { s.agentDir m.agent with st := aCold, loc := m.pa / kib64 }) p m stOk
      (leBytes 8 (imageBytes s (s.agentDir m.agent).header)) := by
  refine ⟨_, ?_, rfl⟩
  refine (BrineWork.releaseAgent _ _ _).after ((BrineWork.foldl (fun t _ => BrineWork.copyRange t _ _ _) _ _).after ?_)
  have hheader (ws : List ((Nat × Nat × Nat) × Nat)) :
      BrineWork s (headerState (rewritePages (copyRange s m.pa (s.agentDir m.agent).header kib64) m.pa ws) m.pa aCold) :=
    ((BrineWork.copyRange _ _ _ _).trans (BrineWork.rewritePages _ _ _)).trans (BrineWork.headerState _ _ _)
  exact BrineWork.ite _ (hheader _) ((BrineWork.copyRange _ _ _ _).after (hheader _))

theorem completeFetch_work (s : State) (p : Nat) (m : Migration) : ∃ u, BrineWork s u ∧ completeFetch s p m =
    endMove (u.setAgentDir m.agent { valid := true, st := aResident, owner := p, loc := m.header / kib64 }) p m stOk
      (ownerResp p (brineBase p + m.header)) := by
  refine ⟨_, ?_, rfl⟩
  refine (BrineWork.foldl (fun t x => BrineWork.ite _ (BrineWork.copyRange t _ _ _) (BrineWork.zeroRange t _ _)) _ _).after ?_
  have hheader (ws : List ((Nat × Nat × Nat) × Nat)) (bs : List Byte) : BrineWork s (cachelessWrite (headerState (rewritePages
      (copyRange s (brineBase p + m.header) (s.agentDir m.agent).header kib64) (brineBase p + m.header) ws) (brineBase p + m.header) aResident)
      (brineBase p + m.header + 7) bs) :=
    (((BrineWork.copyRange _ _ _ _).trans (BrineWork.rewritePages _ _ _)).trans (BrineWork.headerState _ _ _)).trans
      (BrineWork.cachelessWrite _ _ _)
  exact BrineWork.ite _ (hheader _ _) ((BrineWork.copyRange _ _ _ _).after ((BrineWork.cachelessWrite _ _ _).after (hheader _ _)))

/-- The directory once a move has ended whose last act set the agent's entry. -/
theorem agentDir_ended {s u t : State} {p status : Nat} {m : Migration} {d : AgentDir} (hwork : BrineWork s u)
    (hended : MoveEnded (u.setAgentDir m.agent d) p m status t) (hst : d.st < 4) (hhome : AllHome s) :
    t.agentDir m.agent = { d with owner := d.owner % 32, loc := d.loc % 2 ^ 25 } := by
  rw [hended.agentDir, agentDir_setAgentDir (hwork.home hhome) _ hst]

theorem mover_of_brineWork {s u : State} (h : BrineWork s u) (p : Nat) : u.mover p = s.mover p :=
  congrArg (fun x : Salter => tget [] x.movers p) h.only.salter

theorem migrationComplete_clauses {s : State} {p : Nat} {m : Migration} {rest : List Migration} (hhead : s.mover p = m :: rest)
    (hstarted : m.started = true) (hdraining : s.pkg.st ≠ .draining) : Completes (.migrationComplete p) s (fun t =>
      t.mover p = rest ∧ Tells m.origin t stOk
        ∧ (AllHome s → m.spill = true → t.agentDir m.agent = { s.agentDir m.agent with st := aCold, loc := m.pa / kib64 % 2 ^ 25 })
        ∧ (AllHome s → m.spill = false →
            t.agentDir m.agent = { valid := true, st := aResident, owner := p % 32, loc := m.header / kib64 % 2 ^ 25 })) := by
  refine completes_of_go (exec_migrationComplete hhead hstarted hdraining) ?_
  have hrest {u : State} (hwork : BrineWork s u) (d : AgentDir) : ((u.setAgentDir m.agent d).mover p).drop 1 = rest := by
    rw [mover_of_brineWork (hwork.trans (BrineWork.setAgentDir u m.agent d)), drop_mover hhead]
  cases hspill : m.spill with
  | true =>
    obtain ⟨u, hwork, heq⟩ := completeSpill_work s p m
    have hended := moveEnded_endMove (u.setAgentDir m.agent { s.agentDir m.agent with st := aCold, loc := m.pa / kib64 }) p m stOk
      (leBytes 8 (imageBytes s (s.agentDir m.agent).header))
    rw [if_pos rfl, heq]
    refine ⟨hended.mover.trans (hrest hwork _), hended.told, fun hhome _ => ?_, fun _ h => absurd h (by simp)⟩
    obtain ⟨-, howner, -⟩ := agentDir_bounds s m.agent
    rw [agentDir_ended hwork hended (show aCold < 4 by decide) hhome]
    simp only [Nat.mod_eq_of_lt howner]
  | false =>
    obtain ⟨u, hwork, heq⟩ := completeFetch_work s p m
    have hended := moveEnded_endMove (u.setAgentDir m.agent { valid := true, st := aResident, owner := p, loc := m.header / kib64 }) p m
      stOk (ownerResp p (brineBase p + m.header))
    rw [if_neg Bool.false_ne_true, heq]
    obtain ⟨hmover, htold⟩ := hended.tagHome s.coh.homeNo none (some m.agent)
    refine ⟨hmover.trans (hrest hwork _), htold, fun _ h => absurd h (by simp), fun hhome _ => ?_⟩
    rw [agentDir_tagHome, agentDir_ended hwork hended (show aResident < 4 by decide) hhome]

/-! ### The obligation -/

/-- A move that ends refused, as the statement has it. -/
theorem refused_of_ended {s t : State} {p status : Nat} {m : Migration} {rest : List Migration} (hhead : s.mover p = m :: rest)
    (h : MoveEnded s p m status t) : t.mover p = rest ∧ Tells m.origin t status ∧ t.mem = s.mem ∧ t.pans = s.pans ∧ t.coh = s.coh :=
  ⟨h.mover.trans (drop_mover hhead), h.told, h.mem, h.pans, h.coh⟩

/-- Settles O37, test by test: what the head move's test finds, what its start sets, and what its end leaves. -/
theorem migrationsMoveAnAgent : Obligations.MigrationsMoveAnAgent := by
  refine ⟨fun p s hnone => ?_, fun p m rest s hhead => ?_⟩
  · obtain ⟨htest, hbusy, hcomplete⟩ := exec_migrations_none hnone
    exact ⟨completes_of_go htest rfl, completes_of_go hbusy rfl, completes_of_go hcomplete rfl⟩
  intro d need_
  refine ⟨fun hstarted hdraining hfault hoff htests => ?_, fun hstarted htests hdraining => ?_,
    fun hstarted hdraining => migrationComplete_clauses hhead hstarted hdraining⟩
  · have hexec := exec_migrationTest hhead hstarted hdraining hfault hoff htests
    refine ⟨fun hkv => ?_, fun hkv hspill => ?_, fun hkv hspill => ?_⟩
    · rw [if_pos hkv] at hexec
      exact completes_of_go hexec ⟨mover_setMover .., rfl⟩
    · rw [if_neg (Bool.eq_false_iff.mp hkv), startMove_spill hhead hspill] at hexec
      exact completes_of_go hexec ⟨mover_setMover .., fun hhome hapart => setMoveState_states hhome (by decide) hapart⟩
    · rw [if_neg (Bool.eq_false_iff.mp hkv)] at hexec
      refine completes_of_go hexec ?_
      rcases startMove_prefetch hhead hspill with heq | ⟨hfree, u, m', hwork, heq, hm'⟩
      · have hrefused := refused_of_ended hhead (moveEnded_endMove s p m stNoFit []).drawn
        rw [heq]
        exact ⟨fun _ => hrefused, fun _ => .inl hrefused⟩
      · rw [heq]
        refine ⟨fun hless => absurd hfree (Nat.not_le.mpr hless), fun _ => .inr ⟨⟨m', mover_setMover .., hm'⟩, fun hhome => ?_⟩⟩
        obtain ⟨-, -, hloc⟩ := agentDir_bounds s m.agent
        have hdir := agentDir_setAgentDir (hwork.home hhome) m.agent (d := { s.agentDir m.agent with st := aMovingIn, owner := p })
          (show aMovingIn < 4 by decide)
        rw [agentDir_drawn, agentDir_setMover, hdir]
        exact ⟨rfl, rfl, Nat.mod_eq_of_lt hloc⟩
  · exact completes_of_go (exec_migrationBusy hhead hstarted htests hdraining)
      (refused_of_ended hhead (moveEnded_endMove s p m stBusyRetry []))

end Sys2Proof.Migrations
end

section
/-!
PROOFS. The checks of the agent commands (R197 to R201, R393, R395): each command refuses with the status of the first that fails, and an
accepted move joins the order of its tide mover. -/

namespace Sys2Proof.AgentChecks

open Sys2Proof.Machine Sys2Proof.Safety Sys2Proof.Laws Sys2Proof.Board Sys2Proof.Boxes Sys2Proof.Plans Sys2Proof.AgentMemory

/-! ### Commands of mailboxes -/

theorem taken_patWork {s : State} (h : s.pkg.st ∈ [PkgState.ready, .serving, .maint]) : verdictOf patWork s.pkg.st = .taken := by
  simp only [List.mem_cons, List.not_mem_nil, or_false] at h
  rcases h with h | h | h <;> rw [h] <;> rfl

theorem field_of_zeros {b : Mailbox} {off n : Nat} (h : ∀ x ∈ b.bytes off n, x = 0) : b.field off n = 0 := by
  rw [Mailbox.field, List.eq_replicate_of_mem h, leNat_zeros]

section
variable {s : State} {box : Nat} {c : Cmd} {reserved : List (Nat × Nat)} {fields : Mailbox → List (Nat × Bool)}
  {body : Mailbox → State → Except Refuse State} {i : Instr}

/-- A command one of whose fields lies outside its range: handed back with the offset of the first such field (R383). -/
theorem completes_badField {o : Nat} (hexec : exec i s = go (command s box c reserved fields body)) (hasked : Asked s box c.code)
    (hsource : (if isTray box then c.tray else c.hostRemote) = true) (hverdict : verdictOf c.pat s.pkg.st = .taken)
    (hlength : c.lenOk (s.box box) = true) (hzero : ∀ r ∈ reserved, ∀ x ∈ (s.box box).bytes r.1 r.2, x = 0)
    (hlow : lowest (((fields (s.box box)).filter (fun f => !f.2)).map Prod.fst) = some o) :
    Completes i s (fun t => Refused s t box stBadArgument o) := by
  have hreserved : nonZero (s.box box) reserved = [] := by
    simp only [nonZero, List.map_eq_nil_iff, List.filter_eq_nil_iff, List.any_eq_true, not_exists, not_and]
    exact fun r hr x hx => by simp [hzero r hr x hx]
  have hchecks : commonChecks s box (s.box box) c reserved (fields (s.box box)) = .error (stBadArgument, o) := by
    simp only [commonChecks, hsource, hverdict, hlength, hreserved, List.nil_append, hlow]
    rfl
  have hrequest : requestAt s box c = some (s.box box) := by rw [requestAt, if_pos hasked]
  refine completes_of_go (hexec.trans (congrArg go (a₂ := handBackAt (popped s) box stBadArgument o false []) ?_))
    (handed_handBackAt (popped s) box stBadArgument o false (by decide))
  change (match requestAt s box c with
    | none => s
    | some b => match (do commonChecks s box b c reserved (fields b); body b (popped s)) with
      | .ok u => u.drawn
      | .error e => handBackAt (popped s) box e.1 e.2 false []) = _
  rw [hrequest]
  simp only [hchecks]
  rfl

end

/-- The front request is off the latched ones and a move has joined the order of a tide mover. -/
def queuedMove (s : State) (p : Nat) (m : Migration) : State :=
  { popped s with salter := { (popped s).salter with movers := tput [] s.salter.movers p (s.mover p ++ [m]) } }

/-- An accepted move joins the order of its tide mover (R201). -/
theorem accepted_queueMove (s : State) (box p : Nat) (d : Deferred) (m : Migration) :
    Accepted (queuedMove s p m) (queueMove (accept (popped s) box d) p m).drawn box d := by
  have haccepted := accepted_accept (popped s) box d
  have hqueue : (queueMove (accept (popped s) box d) p m).drawn = queueMove (accept (popped s) box d).drawn p m := rfl
  rw [hqueue]
  generalize (accept (popped s) box d).drawn = v at haccepted
  obtain ⟨hself, hother, honly, hlocal⟩ := haccepted
  have hmovers : v.salter.movers = s.salter.movers := (congrArg (fun z : State => z.salter.movers) honly :)
  have hv : queueMove v p m = { v with salter := { v.salter with movers := tput [] s.salter.movers p (s.mover p ++ [m]) } } := by
    rw [queueMove, ← show tput [] v.salter.movers p (tget [] v.salter.movers p ++ [m]) = tput [] s.salter.movers p (s.mover p ++ [m]) by
      rw [hmovers]; rfl]
    rfl
  rw [hv]
  refine ⟨hself, hother, ?_, hlocal⟩
  exact congrArg (fun z : State => { z with salter := { z.salter with movers := tput [] s.salter.movers p (s.mover p ++ [m]) } }) honly

/-! ### AGENT_PREFETCH (R200) -/

section
variable {u : State} {id target : Nat}

theorem prefetchCheck_notPresent (hid : id ≤ 262143) (hnamed : target ≠ 0xFFFF) (h : u.cfg.variant.pans ≤ target) :
    prefetchCheck u id target = .error (stNotPresent, 0) := by
  simp only [prefetchCheck, hid, hnamed, Nat.not_lt.mpr h, decide_true, decide_false, Bool.or_self, need_true_bind, need_false_bind]

variable (hid : id ≤ 262143) (htarget : target = 0xFFFF ∨ target < u.cfg.variant.pans)
include hid htarget

theorem prefetchCheck_busy (h : agentBusy u id = true ∨ (target ≠ 0xFFFF ∧ panBusy u target = true)) :
    prefetchCheck u id target = .error (stBusyRetry, 0) := by
  have htarget' : (decide (target = 0xFFFF) || decide (target < u.cfg.variant.pans)) = true := by simpa using htarget
  have hbusy : (agentBusy u id || (decide (target ≠ 0xFFFF) && panBusy u target)) = true := by simpa using h
  simp only [prefetchCheck, hid, htarget', hbusy, decide_true, Bool.not_true, need_true_bind, need_false_bind]

variable (hidle : ¬ (agentBusy u id = true ∨ (target ≠ 0xFFFF ∧ panBusy u target = true)))
include hidle

/-- The checks that are left once the agent and its target are idle. -/
theorem prefetchCheck_idle : prefetchCheck u id target = (do
    need (u.agentDir id).valid stBadArgument 0
    let p := if target = 0xFFFF then (u.agentDir id).owner else target
    need (decide ((u.agentDir id).st = aCold) && u.onlinePan p && (decide (target ≠ 0xFFFF) || !(u.pan p).held)) stWrongState 0
    need (decide (kib64 + hStateUnits u (u.agentDir id).header * kib64 + (grantedWords u (u.agentDir id).header).length * pageSize
      ≤ freeBrine u p)) stNoFit 0
    .ok p) := by
  have htarget' : (decide (target = 0xFFFF) || decide (target < u.cfg.variant.pans)) = true := by simpa using htarget
  have hidle' : (agentBusy u id || (decide (target ≠ 0xFFFF) && panBusy u target)) = false := Bool.eq_false_iff.mpr (by simpa using hidle)
  simp only [prefetchCheck, hid, htarget', hidle', decide_true, Bool.not_false, need_true_bind]

theorem prefetchCheck_invalid (h : (u.agentDir id).valid = false) : prefetchCheck u id target = .error (stBadArgument, 0) := by
  rw [prefetchCheck_idle hid htarget hidle, h, need_false_bind]

variable (hvalid : (u.agentDir id).valid = true)
include hvalid

theorem prefetchCheck_wrongState {p : Nat} (hp : p = if target = 0xFFFF then (u.agentDir id).owner else target)
    (h : (u.agentDir id).st ≠ aCold ∨ u.onlinePan p = false ∨ (target = 0xFFFF ∧ (u.pan p).held = true)) :
    prefetchCheck u id target = .error (stWrongState, 0) := by
  have hwrong : (decide ((u.agentDir id).st = aCold) && u.onlinePan p && (decide (target ≠ 0xFFFF) || !(u.pan p).held)) = false := by
    rcases h with h | h | ⟨h, hheld⟩
    · simp [h]
    · simp [h]
    · simp [h, hheld]
  rw [prefetchCheck_idle hid htarget hidle, hvalid, need_true_bind, ← hp]
  simp only [hwrong, need_false_bind]

variable {p : Nat} (hp : p = if target = 0xFFFF then (u.agentDir id).owner else target) (hcold : (u.agentDir id).st = aCold)
  (honline : u.onlinePan p = true) (hheld : target = 0xFFFF → (u.pan p).held = false)
include hp hcold honline hheld

/-- The last check, of the target pan's free brine. -/
theorem prefetchCheck_brine : prefetchCheck u id target = (do
    need (decide (kib64 + hStateUnits u (u.agentDir id).header * kib64 + (grantedWords u (u.agentDir id).header).length * pageSize
      ≤ freeBrine u p)) stNoFit 0
    .ok p) := by
  have hfine : (decide ((u.agentDir id).st = aCold) && u.onlinePan p && (decide (target ≠ 0xFFFF) || !(u.pan p).held)) = true := by
    by_cases htarget : target = 0xFFFF
    · simp [hcold, honline, hheld htarget]
    · simp [hcold, honline, htarget]
  rw [prefetchCheck_idle hid htarget hidle, hvalid, need_true_bind, ← hp]
  simp only [hfine, need_true_bind]

theorem prefetchCheck_noFit (h : freeBrine u p < kib64 + hStateUnits u (u.agentDir id).header * kib64
    + (grantedWords u (u.agentDir id).header).length * pageSize) : prefetchCheck u id target = .error (stNoFit, 0) := by
  rw [prefetchCheck_brine hid htarget hidle hvalid hp hcold honline hheld, decide_eq_false (Nat.not_le.mpr h), need_false_bind]

theorem prefetchCheck_ok (h : kib64 + hStateUnits u (u.agentDir id).header * kib64
    + (grantedWords u (u.agentDir id).header).length * pageSize ≤ freeBrine u p) : prefetchCheck u id target = .ok p := by
  rw [prefetchCheck_brine hid htarget hidle hvalid hp hcold honline hheld, decide_eq_true h, need_true_bind]

end

section
variable {s : State} {box : Nat} (hbox : box < 72) (hwhole : Whole s box 0x22 8 [(6, 2)])
  (hst : s.pkg.st ∈ [PkgState.ready, .serving, .maint]) (hid : (s.box box).field 0 4 ≤ 262143)
include hbox hwhole hst hid

theorem passes_agentPrefetch : Passes s box cmdAgentPrefetch [(6, 2)] prefetchFields := by
  obtain ⟨hasked, hlength, hzero⟩ := hwhole
  exact ⟨hasked, source_of_lt _ hbox rfl, taken_patWork hst, lenIs_of hlength, hzero, by simp [prefetchFields, hid]⟩

theorem agentPrefetch_refused {status off : Nat}
    (h : prefetchCheck (popped s) ((s.box box).field 0 4) ((s.box box).field 4 2) = .error (status, off)) :
    Completes (.agentPrefetch box) s (fun t => Refused s t box status off) := by
  refine completes_refused rfl (passes_agentPrefetch hbox hwhole hst hid) ?_
  simp only [h]
  rfl

theorem agentPrefetch_accepted {p : Nat}
    (h : prefetchCheck (popped s) ((s.box box).field 0 4) ((s.box box).field 4 2) = .ok p) :
    let id := (s.box box).field 0 4
    Completes (.agentPrefetch box) s (fun t =>
      Accepted (queuedMove s p { agent := id, spill := false, pan := p, origin := .mailbox box }) t box (.prefetch id p)) := by
  intro id
  refine completes_of_body rfl (passes_agentPrefetch hbox hwhole hst hid) ?_ (accepted_queueMove s box p (.prefetch id p) _)
  simp only [h]
  rfl

end

/-! ### AGENT_ADVISE (R199) -/

/-- No position of the agent is tentative and its owner is ONLINE, as the statement has it. -/
theorem calm_iff (s : State) (d : AgentDir) : (s.onlinePan d.owner && !tentative s d.header) = true
    ↔ s.onlinePan d.owner = true ∧ ∀ k, k < hStreams s d.header → (streamRec s d.header k).fill ≤ hC s d.header := by
  simp [tentative]

section
variable {u : State} {id pa capacity : Nat} (hid : id ≤ 262143) (hpa : pa % kib64 = 0)
include hid hpa

theorem spillCheck_busy (h : agentBusy u id = true) : spillCheck u id pa capacity = .error (stBusyRetry, 0) := by
  simp only [spillCheck, hid, hpa, h, decide_true, Bool.not_true, need_true_bind, need_false_bind]

variable (hidle : agentBusy u id = false)
include hidle

theorem spillCheck_invalid (h : (u.agentDir id).valid = false) : spillCheck u id pa capacity = .error (stBadArgument, 0) := by
  simp only [spillCheck, hid, hpa, hidle, h, decide_true, Bool.not_false, need_true_bind, need_false_bind]

variable (hvalid : (u.agentDir id).valid = true)
include hvalid

/-- The checks that are left once the agent is found idle and valid. -/
theorem spillCheck_valid : spillCheck u id pa capacity = (do
    need (decide ((u.agentDir id).st ≠ aMovingIn) && decide ((u.agentDir id).st ≠ aMovingOut)) stBusyRetry 0
    need (decide ((u.agentDir id).st = aResident)) stWrongState 0
    need (u.onlinePan (u.agentDir id).owner && !tentative u (u.agentDir id).header) stWrongState 0
    need (decide (imageBytes u (u.agentDir id).header ≤ capacity)) stNoFit 0
    need (lpdRange u pa (imageBytes u (u.agentDir id).header)) stBadArgument 8
    .ok (u.agentDir id).owner) := by
  simp only [spillCheck, hid, hpa, hidle, hvalid, decide_true, Bool.not_false, need_true_bind]

theorem spillCheck_moves (h : (u.agentDir id).st = aMovingIn ∨ (u.agentDir id).st = aMovingOut) :
    spillCheck u id pa capacity = .error (stBusyRetry, 0) := by
  have hmoves : (decide ((u.agentDir id).st ≠ aMovingIn) && decide ((u.agentDir id).st ≠ aMovingOut)) = false := by
    rcases h with h | h <;> simp [h, aMovingIn, aMovingOut]
  rw [spillCheck_valid hid hpa hidle hvalid, hmoves, need_false_bind]

theorem spillCheck_cold (h : (u.agentDir id).st = aCold) : spillCheck u id pa capacity = .error (stWrongState, 0) := by
  rw [spillCheck_valid hid hpa hidle hvalid, h]
  rfl

variable (hresident : (u.agentDir id).st = aResident)
include hresident

/-- The checks that are left of a RESIDENT agent. -/
theorem spillCheck_resident : spillCheck u id pa capacity = (do
    need (u.onlinePan (u.agentDir id).owner && !tentative u (u.agentDir id).header) stWrongState 0
    need (decide (imageBytes u (u.agentDir id).header ≤ capacity)) stNoFit 0
    need (lpdRange u pa (imageBytes u (u.agentDir id).header)) stBadArgument 8
    .ok (u.agentDir id).owner) := by
  rw [spillCheck_valid hid hpa hidle hvalid]
  simp only [hresident, aResident, aMovingIn, aMovingOut, ne_eq, OfNat.zero_ne_ofNat, not_false_eq_true, decide_true, Bool.and_self,
    need_true_bind]

theorem spillCheck_notCalm (h : (u.onlinePan (u.agentDir id).owner && !tentative u (u.agentDir id).header) = false) :
    spillCheck u id pa capacity = .error (stWrongState, 0) := by
  rw [spillCheck_resident hid hpa hidle hvalid hresident, h, need_false_bind]

variable (hcalm : (u.onlinePan (u.agentDir id).owner && !tentative u (u.agentDir id).header) = true)
include hcalm

theorem spillCheck_noFit (h : capacity < imageBytes u (u.agentDir id).header) : spillCheck u id pa capacity = .error (stNoFit, 0) := by
  rw [spillCheck_resident hid hpa hidle hvalid hresident, hcalm, need_true_bind, decide_eq_false (Nat.not_le.mpr h), need_false_bind]

theorem spillCheck_range (hfits : imageBytes u (u.agentDir id).header ≤ capacity) :
    spillCheck u id pa capacity
      = if lpdRange u pa (imageBytes u (u.agentDir id).header) then .ok (u.agentDir id).owner else .error (stBadArgument, 8) := by
  rw [spillCheck_resident hid hpa hidle hvalid hresident, hcalm, need_true_bind, decide_eq_true hfits, need_true_bind]
  cases lpdRange u pa (imageBytes u (u.agentDir id).header)
  · rw [need_false_bind]; rfl
  · rw [need_true_bind]; rfl

end

section
variable {u : State} {id st : Nat}

theorem streamCheck_busy (h : agentBusy u id = true) : streamCheck u id st = .error (stBusyRetry, 0) := by
  simp only [streamCheck, h, Bool.not_true, need_false_bind]

variable (hidle : agentBusy u id = false)
include hidle

theorem streamCheck_invalid (h : (u.agentDir id).valid = false) : streamCheck u id st = .error (stBadArgument, 0) := by
  simp only [streamCheck, hidle, h, Bool.not_false, need_true_bind, need_false_bind]

variable (hvalid : (u.agentDir id).valid = true)
include hvalid

theorem streamCheck_noStream (h : hStreams u (u.agentDir id).header ≤ st) : streamCheck u id st = .error (stBadArgument, 8) := by
  simp only [streamCheck, hidle, hvalid, Nat.not_lt.mpr h, decide_false, Bool.not_false, need_true_bind, need_false_bind]

variable (hstream : st < hStreams u (u.agentDir id).header)
include hstream

/-- The checks that are left of an agent that has the stream. -/
theorem streamCheck_stream : streamCheck u id st = (do
    need (decide ((u.agentDir id).st ≠ aMovingIn) && decide ((u.agentDir id).st ≠ aMovingOut)) stBusyRetry 0
    need (decide ((u.agentDir id).st ≠ aCold)) stWrongState 0
    .ok (u.agentDir id)) := by
  simp only [streamCheck, hidle, hvalid, hstream, decide_true, Bool.not_false, need_true_bind]

theorem streamCheck_moves (h : (u.agentDir id).st = aMovingIn ∨ (u.agentDir id).st = aMovingOut) :
    streamCheck u id st = .error (stBusyRetry, 0) := by
  have hmoves : (decide ((u.agentDir id).st ≠ aMovingIn) && decide ((u.agentDir id).st ≠ aMovingOut)) = false := by
    rcases h with h | h <;> simp [h, aMovingIn, aMovingOut]
  rw [streamCheck_stream hidle hvalid hstream, hmoves, need_false_bind]

theorem streamCheck_cold (h : (u.agentDir id).st = aCold) : streamCheck u id st = .error (stWrongState, 0) := by
  rw [streamCheck_stream hidle hvalid hstream, h]
  rfl

theorem streamCheck_resident (h : (u.agentDir id).st = aResident) : streamCheck u id st = .ok (u.agentDir id) := by
  rw [streamCheck_stream hidle hvalid hstream]
  generalize u.agentDir id = d at h
  rw [h]
  rfl

end

section
variable {s : State} {box : Nat} (hbox : box < 72) (hwhole : Whole s box 0x23 24 [(5, 3)])
  (hst : s.pkg.st ∈ [PkgState.ready, .serving, .maint]) (hid : (s.box box).field 0 4 ≤ 262143)
include hwhole

theorem adviseOp_eq (f : Nat → Bool) : adviseOp s box f = f ((s.box box).field 4 1) := by
  have hrequest : requestAt s box cmdAgentAdvise = some (s.box box) := by
    rw [requestAt, if_pos (show Asked s box cmdAgentAdvise.code from hwhole.1)]
  rw [adviseOp, hrequest]

theorem exec_agentAdviseSpill (h : (s.box box).field 4 1 = 0 ∨ 2 < (s.box box).field 4 1) : exec (.agentAdviseSpill box) s
    = go (command s box cmdAgentAdvise adviseReserved (fun b => adviseFields b ++ [(8, decide (b.field 8 8 % kib64 = 0))]) (fun b s => do
      let id := b.field 0 4
      let pa := b.field 8 8
      let p ← spillCheck s id pa (b.field 16 8)
      .ok (queueMove (accept s box (.spill id)) p
        { agent := id, spill := true, pan := p, pa := pa, capacity := b.field 16 8, origin := .mailbox box }))) := by
  change execAgentAdviseSpill box s = _
  rw [execAgentAdviseSpill, adviseOp_eq hwhole, if_neg]
  simpa [or_iff_not_imp_left] using h

include hbox hst hid

theorem agentAdvise_badOp (hop : 2 < (s.box box).field 4 1) :
    Completes (.agentAdviseSpill box) s (fun t => Refused s t box 0x101 4) := by
  have hexec := exec_agentAdviseSpill hwhole (.inr hop)
  obtain ⟨hasked, hlength, hzero⟩ := hwhole
  refine completes_badField hexec hasked (source_of_lt _ hbox rfl) (taken_patWork hst) (lenIs_of hlength) hzero ?_
  by_cases hpa : (s.box box).field 8 8 % kib64 = 0
  · simp [adviseFields, hid, Nat.not_le.mpr hop, hpa, lowest]
  · simp [adviseFields, hid, Nat.not_le.mpr hop, hpa, lowest]

theorem passes_agentAdviseSpill (hop : (s.box box).field 4 1 = 0) (hpa : (s.box box).field 8 8 % 65536 = 0) :
    Passes s box cmdAgentAdvise adviseReserved (fun b => adviseFields b ++ [(8, decide (b.field 8 8 % kib64 = 0))]) := by
  obtain ⟨hasked, hlength, hzero⟩ := hwhole
  exact ⟨hasked, source_of_lt _ hbox rfl, taken_patWork hst, lenIs_of hlength, hzero, by simp [adviseFields, hid, hop, kib64, hpa]⟩

theorem passes_agentAdvise (hop : (s.box box).field 4 1 ≤ 2) : Passes s box cmdAgentAdvise adviseReserved adviseFields := by
  obtain ⟨hasked, hlength, hzero⟩ := hwhole
  exact ⟨hasked, source_of_lt _ hbox rfl, taken_patWork hst, lenIs_of hlength, hzero, by simp [adviseFields, hid, hop]⟩

theorem agentAdviseSpill_refused (hop : (s.box box).field 4 1 = 0) (hpa : (s.box box).field 8 8 % 65536 = 0) {status off : Nat}
    (h : spillCheck (popped s) ((s.box box).field 0 4) ((s.box box).field 8 8) ((s.box box).field 16 8) = .error (status, off)) :
    Completes (.agentAdviseSpill box) s (fun t => Refused s t box status off) := by
  refine completes_refused (exec_agentAdviseSpill hwhole (.inl hop)) (passes_agentAdviseSpill hbox hwhole hst hid hop hpa) ?_
  simp only [h]
  rfl

theorem agentAdviseSpill_accepted (hop : (s.box box).field 4 1 = 0) (hpa : (s.box box).field 8 8 % 65536 = 0) {p : Nat}
    (h : spillCheck (popped s) ((s.box box).field 0 4) ((s.box box).field 8 8) ((s.box box).field 16 8) = .ok p) :
    let id := (s.box box).field 0 4
    let x := (s.box box).field 8 8
    let y := (s.box box).field 16 8
    Completes (.agentAdviseSpill box) s (fun t => Accepted
      (queuedMove s p { agent := id, spill := true, pan := p, pa := x, capacity := y, origin := .mailbox box }) t box (.spill id)) := by
  intro id x y
  refine completes_of_body (exec_agentAdviseSpill hwhole (.inl hop)) (passes_agentAdviseSpill hbox hwhole hst hid hop hpa) ?_
    (accepted_queueMove s box p (.spill id) _)
  simp only [h]
  rfl

end

end Sys2Proof.AgentChecks
end

section
/-!
PROOFS. What AGENT_EVICT and AGENT_ADVISE RELEASE leave in memory and in the brine of the agent's owner (R191, R198, R199). -/

namespace Sys2Proof.AgentEffects

open Sys2Proof.Machine Sys2Proof.Safety Sys2Proof.Laws Sys2Proof.Frames Sys2Proof.Boxes Sys2Proof.Plans Sys2Proof.AgentMemory
  Sys2Proof.Grants Sys2Proof.AgentChecks

/-! ### The hand-back after the salter's work -/

/-- The front request is off the latched ones; memory, the coherence state, the pans, the stockpile and the cores are as in t. -/
def leftBy (s t : State) : State := { popped s with mem := t.mem, coh := t.coh, pans := t.pans, stk := t.stk, cores := t.cores }

/-- What a command that has worked on memory and brine leaves: its hand-back, and otherwise the state its work left. -/
structure WorkHanded (s u t : State) (box : Nat) (resp : List Byte) : Prop where
  handed : Handed (leftBy s t) t box 0 0 false resp
  pans : t.pans = u.pans
  byte : ∀ x, memByte t x = memByte u x
  home : AllHome s → AllHome t
  dir : ∀ a, dirWordPa t a = dirWordPa s a

theorem workHanded {s u : State} (h : BrineWork (popped s) u) (box : Nat) {resp : List Byte} (hlen : resp.length < 65536) :
    WorkHanded s u (handBack u box stOk resp).drawn box resp := by
  have hhanded := handed_drawn (handed_handBackAt u box stOk 0 false hlen)
  change Handed u (handBack u box stOk resp).drawn box 0 0 false resp at hhanded
  generalize (handBack u box stOk resp).drawn = t at hhanded
  obtain ⟨-, -, -, honly, -, -⟩ := id hhanded
  have hmem : t.mem = u.mem := (congrArg State.mem honly :)
  have hcoh : t.coh = u.coh := (congrArg State.coh honly :)
  have hpans : t.pans = u.pans := (congrArg State.pans honly :)
  have hstk : t.stk = u.stk := (congrArg State.stk honly :)
  have hcores : t.cores = u.cores := (congrArg State.cores honly :)
  have hdir : t.salter.dirPa = u.salter.dirPa := (congrArg (fun z : State => z.salter.dirPa) honly :)
  refine ⟨?_, hpans, fun x => ?_, fun hs => allHome_congr hcoh (h.home hs), fun a => ?_⟩
  · have hleft : leftBy s t = u := by
      rw [leftBy, hmem, hcoh, hpans, hstk, hcores]
      exact h.only.symm
    rw [hleft]
    exact hhanded
  · rw [memByte, hmem]
    rfl
  · rw [dirWordPa, hdir, h.only.salter]
    rfl

theorem WorkHanded.pan {s u t : State} {box : Nat} {resp : List Byte} (h : WorkHanded s u t box resp) (p : Nat) : t.pan p = u.pan p := by
  rw [State.pan, h.pans]
  rfl

/-! ### Brine returned -/

theorem fld_zero (w n : Nat) : fld w 0 n = w % 2 ^ n := by rw [fld, Nat.pow_zero, Nat.div_one]

theorem taken_freeRange (s : State) (p off : Nat) :
    ((freeRange s p off).pan p).taken = (s.pan p).taken.filter (fun e => decide (e.1 ≠ off)) := by
  rw [freeRange, State.updPan_pan_same]

theorem pan_freeRange_other (s : State) {p q : Nat} (off : Nat) (h : q ≠ p) : (freeRange s p off).pan q = s.pan q :=
  State.updPan_pan_other s _ h

theorem filter_returned (l : List (Nat × Nat)) (off : Nat) (offs : List Nat) :
    (l.filter (fun e => decide (e.1 ≠ off))).filter (fun e => !offs.contains e.1) = l.filter (fun e => !(off :: offs).contains e.1) := by
  rw [List.filter_filter]
  refine List.filter_congr (fun e _ => ?_)
  by_cases h : e.1 = off <;> simp [h]

/-- Ranges returned one after the other. -/
theorem pan_freeRanges (p : Nat) (offs : List Nat) : ∀ s : State,
    ((offs.foldl (fun s o => freeRange s p o) s).pan p).taken = (s.pan p).taken.filter (fun e => !offs.contains e.1)
      ∧ ∀ q, q ≠ p → (offs.foldl (fun s o => freeRange s p o) s).pan q = s.pan q := by
  induction offs with
  | nil => exact fun s => ⟨by simp, fun _ _ => rfl⟩
  | cons off offs ih =>
    intro s
    obtain ⟨htaken, hother⟩ := ih (freeRange s p off)
    refine ⟨?_, fun q hq => ?_⟩
    · rw [List.foldl_cons, htaken, taken_freeRange, filter_returned]
    · rw [List.foldl_cons, hother q hq, pan_freeRange_other s off hq]

theorem memByte_freeRanges (p : Nat) (offs : List Nat) (s : State) (x : Nat) :
    memByte (offs.foldl (fun s o => freeRange s p o) s) x = memByte s x :=
  List.foldlRecOn (motive := fun t : State => memByte t x = memByte s x) offs _ rfl (fun _ ht _ _ => ht)

/-- The offsets of what an agent holds in its owner's brine: its pages, its state area and its header (R198). -/
def heldOffsets (s : State) (p h : Nat) : List Nat :=
  (grantedWords s h).map (fun x => x.2.2 % 2 ^ 19 * 262144) ++ (if hStateUnits s h = 0 then [] else [hStateOff s h * 65536]) ++ [h - brineBase p]

theorem releaseAgent_eq (s : State) (p h : Nat) : releaseAgent s p h = (heldOffsets s p h).foldl (fun s o => freeRange s p o) s := by
  have hpages : (grantedWords s h).map (fun x => fld x.2.2 0 19 * pageSize) = (grantedWords s h).map (fun x => x.2.2 % 2 ^ 19 * 262144) :=
    List.map_congr_left (fun x _ => by rw [fld_zero]; rfl)
  rw [releaseAgent, hpages]
  rfl

/-! ### A discard that cuts nothing (R191) -/

section
variable {s t : State} {h : Nat}

theorem cutAgent_of_calm (owner : Nat) {keep : Nat} (hcalm : ∀ y, y < hStreams s h → (streamRec s h y).fill ≤ keep) :
    cutAgent s owner h keep = (s, 0, 0) := by
  refine List.foldlRecOn (motive := fun x : State × Nat × Nat => x = (s, 0, 0)) _ _ rfl (fun x hx st hst => ?_)
  subst hx
  exact if_neg (Nat.not_lt.mpr (hcalm st (List.mem_range.mp hst)))

/-- The commit line written again leaves every byte but those of its generation, C and pages in use. -/
theorem memByte_writeCommitLine (hhome : AllHome s) (gen c used : Nat) {x : Nat} (hgen : x ≠ h + 6) (hc : x < h + 8 ∨ h + 16 ≤ x)
    (hused : x < h + 24 ∨ h + 28 ≤ x) : memByte (writeCommitLine s h gen c used) x = memByte s x := by
  have hline : (s.cohBytes h 64).length = 64 := by simp [State.cohBytes]
  have h1 := Device.length_leBytes 1 gen
  have h8 := Device.length_leBytes 8 c
  have h4 := Device.length_leBytes 4 used
  have hlen1 : (overlay (s.cohBytes h 64) 6 (leBytes 1 gen)).length = 64 := by rw [Homes.length_overlay (by omega), hline]
  have hlen2 : (overlay (overlay (s.cohBytes h 64) 6 (leBytes 1 gen)) 8 (leBytes 8 c)).length = 64 := by
    rw [Homes.length_overlay (by omega), hlen1]
  rw [writeCommitLine, memByte_cachelessWrite hhome, Homes.length_overlay (by omega), hlen2]
  split
  case isFalse => rfl
  case isTrue hin =>
    obtain ⟨hlo, hhi⟩ := hin
    rw [Homes.getD_overlay (by omega), if_neg (by omega), Homes.getD_overlay (by omega), if_neg (by omega), Homes.getD_overlay (by omega),
      if_neg (by omega), cohBytes_of_allHome hhome, List.getD_eq_getElem _ _ (by simp; omega), List.getElem_map, List.getElem_range,
      Nat.add_sub_cancel' hlo]

/-- Fills cut down leave every byte but those of the fills. -/
theorem memByte_fillsCut (hhome : AllHome s) (keep : Nat) {x : Nat}
    (hx : ∀ st, st < hStreams s h → x < streamPa h st + 8 ∨ streamPa h st + 16 ≤ x) : memByte (fillsCut s h keep) x = memByte s x := by
  have hkept : AllHome (fillsCut s h keep) ∧ memByte (fillsCut s h keep) x = memByte s x := by
    refine List.foldlRecOn (motive := fun t : State => AllHome t ∧ memByte t x = memByte s x) _ _ ⟨hhome, rfl⟩ (fun t ht st hst => ?_)
    refine ⟨(BrineWork.cachelessWrite t _ _).home ht.1, ?_⟩
    have hout := hx st (List.mem_range.mp hst)
    rw [setFill, memByte_cachelessWrite_outside ht.1 (by rw [Device.length_leBytes]; omega), ht.2]
  exact hkept.2

/-- The byte is none of those of an agent's header that a discard which cuts nothing may change: generation, C, pages in use and the
fills of its n streams. -/
def KeptByDiscard (h n x : Nat) : Prop :=
  x ≠ h + 6 ∧ (x < h + 8 ∨ h + 16 ≤ x) ∧ (x < h + 24 ∨ h + 28 ≤ x) ∧ ∀ st, st < n → x < streamPa h st + 8 ∨ streamPa h st + 16 ≤ x

/-- A discard that cuts nothing writes the commit line and the fills again, and counts nothing zeroed. -/
theorem kvDiscardAt_of_calm (owner : Nat) {keep : Nat} (hcalm : ∀ y, y < hStreams s h → (streamRec s h y).fill ≤ keep) :
    kvDiscardAt s owner h keep = (fillsCut (writeCommitLine s h ((hGen s h + 1) % 256) (hC s h) (hUsed s h - 0)) h keep).updPan owner
      (fun p => { p with kvZero := wrapAdd 64 p.kvZero 0 }) := by
  rw [kvDiscardAt, cutTo_eq, cutAgent_of_calm owner hcalm]

theorem memByte_updPan (s : State) (p : Nat) (f : Pan → Pan) (x : Nat) : memByte (s.updPan p f) x = memByte s x := rfl

/-- A discard that cuts nothing leaves every other byte. -/
theorem memByte_kvDiscardAt (hhome : AllHome s) (owner : Nat) {keep : Nat} (hcalm : ∀ y, y < hStreams s h → (streamRec s h y).fill ≤ keep)
    {x : Nat} (hx : KeptByDiscard h (hStreams s h) x) : memByte (kvDiscardAt s owner h keep) x = memByte s x := by
  obtain ⟨hgen, hc, hused, hfills⟩ := hx
  rw [kvDiscardAt_of_calm owner hcalm, memByte_updPan]
  generalize (hGen s h + 1) % 256 = gen
  generalize hUsed s h - 0 = used
  generalize hC s h = c
  have hline : AllHome (writeCommitLine s h gen c used) := allHome_cachelessWrite hhome h _
  have hstreams : hStreams (writeCommitLine s h gen c used) h = hStreams s h :=
    cohNat_congr hhome hline (fun i hi => memByte_writeCommitLine hhome gen c used (by omega) (by omega) (by omega))
  rw [memByte_fillsCut hline keep (fun st hst => hfills st (hstreams ▸ hst)), memByte_writeCommitLine hhome gen c used hgen hc hused]

/-- Two headers with the same streams, directories and words name the same pages. -/
theorem grantedWords_congr (hstreams : hStreams t h = hStreams s h)
    (hrec : ∀ y, y < hStreams s h → (streamRec t h y).off = (streamRec s h y).off ∧ (streamRec t h y).len = (streamRec s h y).len)
    (hword : ∀ y, y < hStreams s h → ∀ k, k < (streamRec s h y).len → pageWord t h (streamRec s h y) k = pageWord s h (streamRec s h y) k) :
    grantedWords t h = grantedWords s h := by
  have hstream (y : Nat) (hy : y ∈ List.range (hStreams s h)) : (List.range (streamRec t h y).len).filterMap (fun k =>
      if wordGranted (pageWord t h (streamRec t h y) k) then some (y, k, pageWord t h (streamRec t h y) k) else none)
      = (List.range (streamRec s h y).len).filterMap (fun k =>
          if wordGranted (pageWord s h (streamRec s h y) k) then some (y, k, pageWord s h (streamRec s h y) k) else none) := by
    have hy := List.mem_range.mp hy
    obtain ⟨hoff, hlen⟩ := hrec y hy
    have hpa (k : Nat) : pageWord t h (streamRec t h y) k = pageWord t h (streamRec s h y) k := by simp only [pageWord, wordPa, hoff]
    rw [hlen]
    refine List.filterMap_congr (fun k hk => ?_)
    rw [hpa, hword y hy k (List.mem_range.mp hk)]
  rw [grantedWords, grantedWords, hstreams]
  exact List.flatMap_congr hstream

end

theorem pan_of_memoryOnly {s t : State} (h : MemoryOnly s t) (p : Nat) : t.pan p = s.pan p := by
  unfold MemoryOnly at h
  rw [h]
  rfl

theorem memoryOnly_fillsCut (s : State) (h keep : Nat) : MemoryOnly s (fillsCut s h keep) :=
  MemoryOnly.foldl (fun t _ => MemoryOnly.cachelessWrite t _ _) _ s

theorem pan_kvDiscardAt (s : State) (owner h keep : Nat) : ((kvDiscardAt s owner h keep).pan owner).taken = (s.pan owner).taken
    ∧ ∀ q, q ≠ owner → (kvDiscardAt s owner h keep).pan q = s.pan q := by
  have hpan (gen c used q : Nat) : (fillsCut (writeCommitLine (cutAgent s owner h keep).1 h gen c used) h keep).pan q = s.pan q :=
    pan_of_memoryOnly (((MemoryOnly.cutAgent s owner h keep).trans (MemoryOnly.cachelessWrite _ _ _)).trans (memoryOnly_fillsCut _ h keep)) q
  rw [kvDiscardAt, cutTo_eq]
  refine ⟨?_, fun q hq => ?_⟩
  · rw [State.updPan_pan_same]
    dsimp only
    rw [hpan]
  · rw [State.updPan_pan_other _ _ hq, hpan]

/-- A discard that cuts nothing leaves what the agent holds. -/
theorem heldOffsets_kvDiscardAt {s : State} (hhome : AllHome s) (owner h : Nat) {keep : Nat}
    (hcalm : ∀ y, y < hStreams s h → WordsInside s h y ∧ (streamRec s h y).fill ≤ keep) :
    heldOffsets (kvDiscardAt s owner h keep) owner h = heldOffsets s owner h := by
  have hkept (x n : Nat) (hx : ∀ i, i < n → KeptByDiscard h (hStreams s h) (x + i)) :
      (kvDiscardAt s owner h keep).cohNat x n = s.cohNat x n :=
    cohNat_congr hhome ((BrineWork.cutTo s owner h keep (hC s h)).home hhome)
      (fun i hi => memByte_kvDiscardAt hhome owner (fun y hy => (hcalm y hy).2) (hx i hi))
  have hfixed (o n : Nat) (ho : (o = 5 ∧ n = 1) ∨ (16 ≤ o ∧ o + n ≤ 24)) :
      (kvDiscardAt s owner h keep).cohNat (h + o) n = s.cohNat (h + o) n :=
    hkept _ _ (fun i hi => ⟨by omega, by omega, by omega, fun st _ => by rw [streamPa]; omega⟩)
  have hstreams : hStreams (kvDiscardAt s owner h keep) h = hStreams s h := hfixed 5 1 (.inl ⟨rfl, rfl⟩)
  have hunits : hStateUnits (kvDiscardAt s owner h keep) h = hStateUnits s h := hfixed 20 4 (.inr (by omega))
  have hoff : hStateOff (kvDiscardAt s owner h keep) h = hStateOff s h := hfixed 16 4 (.inr (by omega))
  have hrecord (y o : Nat) (ho : o = 16 ∨ o = 20) :
      (kvDiscardAt s owner h keep).cohNat (streamPa h y + o) 4 = s.cohNat (streamPa h y + o) 4 := by
    refine hkept _ _ (fun i hi => ?_)
    simp only [KeptByDiscard, streamPa]
    exact ⟨by omega, by omega, by omega, fun st _ => by omega⟩
  have hgranted : grantedWords (kvDiscardAt s owner h keep) h = grantedWords s h := by
    refine grantedWords_congr hstreams (fun y _ => ⟨hrecord y 16 (.inl rfl), hrecord y 20 (.inr rfl)⟩) (fun y hy k hk => hkept _ _ (fun i hi => ?_))
    obtain ⟨⟨-, hbehind, -⟩, -⟩ := hcalm y hy
    simp only [KeptByDiscard, streamPa, wordPa]
    exact ⟨by omega, by omega, by omega, fun st _ => by omega⟩
  unfold heldOffsets
  rw [hgranted, hunits, hoff]

/-! ### AGENT_EVICT (R198) -/

/-- The brine of an evicted agent: returned where it was RESIDENT. -/
def evicted (u : State) (d : AgentDir) : State :=
  if d.st = aResident then releaseAgent (kvDiscardAt u d.owner d.header (hC u d.header)) d.owner d.header else u

theorem brineWork_evicted (u : State) (d : AgentDir) : BrineWork u (evicted u d) :=
  BrineWork.ite _ ((BrineWork.releaseAgent _ _ _).after (BrineWork.cutTo u _ _ _ _)) (BrineWork.refl u)

theorem memByte_clearAgentDir {u : State} (hhome : AllHome u) {a x : Nat} (hx : x < dirWordPa u a ∨ dirWordPa u a + 8 ≤ x) :
    memByte (u.clearAgentDir a) x = memByte u x :=
  memByte_cachelessWrite_outside hhome (by rw [Device.length_leBytes]; exact hx)

theorem pan_clearAgentDir (u : State) (a p : Nat) : (u.clearAgentDir a).pan p = u.pan p := by
  have h := MemoryOnly.cachelessWrite u (dirWordPa u a) (leBytes 8 0)
  change MemoryOnly u (u.clearAgentDir a) at h
  rw [h]
  rfl

theorem pans_clearAgentDir (u : State) (a : Nat) : (u.clearAgentDir a).pans = u.pans := by
  have h := MemoryOnly.cachelessWrite u (dirWordPa u a) (leBytes 8 0)
  change MemoryOnly u (u.clearAgentDir a) at h
  rw [h]

/-- What returning the brine of a RESIDENT agent without tentative positions leaves. -/
theorem evicted_resident {u : State} {d : AgentDir} (hst : d.st = aResident) (hhome : AllHome u)
    (hcalm : ∀ y, y < hStreams u d.header → WordsInside u d.header y ∧ (streamRec u d.header y).fill ≤ hC u d.header) :
    ((evicted u d).pan d.owner).taken = (u.pan d.owner).taken.filter (fun e => !(heldOffsets u d.owner d.header).contains e.1)
      ∧ (∀ q, q ≠ d.owner → (evicted u d).pan q = u.pan q)
      ∧ ∀ x, (x < d.header ∨ d.header + 65536 ≤ x) → memByte (evicted u d) x = memByte u x := by
  obtain ⟨htaken, hother⟩ := pan_kvDiscardAt u d.owner d.header (hC u d.header)
  obtain ⟨hfreed, hleft⟩ := pan_freeRanges d.owner (heldOffsets u d.owner d.header) (kvDiscardAt u d.owner d.header (hC u d.header))
  have hstreams : hStreams u d.header < 256 := cohNat_lt u (d.header + 5) 1
  rw [evicted, if_pos hst, releaseAgent_eq, heldOffsets_kvDiscardAt hhome d.owner d.header hcalm]
  refine ⟨by rw [hfreed, htaken], fun q hq => by rw [hleft q hq, hother q hq], fun x hx => ?_⟩
  rw [memByte_freeRanges]
  refine memByte_kvDiscardAt hhome d.owner (fun y hy => (hcalm y hy).2) ?_
  simp only [KeptByDiscard, streamPa]
  exact ⟨by omega, by omega, by omega, fun st _ => by omega⟩

section
variable {s : State} {box : Nat} (hbox : box < 72) (hwhole : Whole s box 0x21 8 [(4, 4)])
  (hst : s.pkg.st ∈ [PkgState.ready, .serving, .maint])
include hbox hwhole hst

theorem agentEvict_badId (hid : 262143 < (s.box box).field 0 4) : Completes (.agentEvict box) s (fun t => Refused s t box 0x101 0) := by
  obtain ⟨hasked, hlength, hzero⟩ := hwhole
  refine completes_badField (c := cmdAgentEvict) rfl hasked (source_of_lt _ hbox rfl) (taken_patWork hst) (lenIs_of hlength) hzero ?_
  simp [agentField, Nat.not_le.mpr hid, lowest]

variable (hid : (s.box box).field 0 4 ≤ 262143)
include hid

theorem passes_agentEvict : Passes s box cmdAgentEvict [(4, 4)] agentField := by
  obtain ⟨hasked, hlength, hzero⟩ := hwhole
  exact ⟨hasked, source_of_lt _ hbox rfl, taken_patWork hst, lenIs_of hlength, hzero, by simp [agentField, hid]⟩

theorem agentEvict_busy (hbusy : agentBusy s ((s.box box).field 0 4) = true) :
    Completes (.agentEvict box) s (fun t => Refused s t box 0x200 0) := by
  replace hbusy : agentBusy (popped s) ((s.box box).field 0 4) = true := hbusy
  refine completes_refused rfl (passes_agentEvict hbox hwhole hst hid) ?_
  simp only [evictBody, hbusy, Bool.not_true, need_false_bind]
  rfl

variable (hidle : agentBusy s ((s.box box).field 0 4) = false)
include hidle

theorem agentEvict_invalid (hvalid : (s.agentDir ((s.box box).field 0 4)).valid = false) :
    Completes (.agentEvict box) s (fun t => Refused s t box 0x101 0) := by
  replace hidle : agentBusy (popped s) ((s.box box).field 0 4) = false := hidle
  replace hvalid : ((popped s).agentDir ((s.box box).field 0 4)).valid = false := hvalid
  refine completes_refused rfl (passes_agentEvict hbox hwhole hst hid) ?_
  simp only [evictBody, hidle, hvalid, Bool.not_false, need_true_bind, need_false_bind]
  rfl

variable (hvalid : (s.agentDir ((s.box box).field 0 4)).valid = true)
include hvalid

theorem agentEvict_moves (hmoves : (s.agentDir ((s.box box).field 0 4)).st = 2 ∨ (s.agentDir ((s.box box).field 0 4)).st = 3) :
    Completes (.agentEvict box) s (fun t => Refused s t box 0x200 0) := by
  replace hidle : agentBusy (popped s) ((s.box box).field 0 4) = false := hidle
  replace hvalid : ((popped s).agentDir ((s.box box).field 0 4)).valid = true := hvalid
  replace hmoves : (decide (((popped s).agentDir ((s.box box).field 0 4)).st ≠ aMovingIn)
      && decide (((popped s).agentDir ((s.box box).field 0 4)).st ≠ aMovingOut)) = false := by
    rw [show (popped s).agentDir ((s.box box).field 0 4) = s.agentDir ((s.box box).field 0 4) from rfl]
    rcases hmoves with h | h <;> rw [h] <;> rfl
  refine completes_refused rfl (passes_agentEvict hbox hwhole hst hid) ?_
  simp only [evictBody, hidle, hvalid, hmoves, Bool.not_false, need_true_bind, need_false_bind]
  rfl

/-- An agent that does not move is evicted. -/
theorem agentEvict_evicts {P : State → Prop}
    (hst4 : (s.agentDir ((s.box box).field 0 4)).st = 0 ∨ (s.agentDir ((s.box box).field 0 4)).st = 1)
    (hP : P (handBack ((evicted (popped s) (s.agentDir ((s.box box).field 0 4))).clearAgentDir ((s.box box).field 0 4)) box stOk []).drawn) :
    Completes (.agentEvict box) s P := by
  replace hidle : agentBusy (popped s) ((s.box box).field 0 4) = false := hidle
  replace hvalid : ((popped s).agentDir ((s.box box).field 0 4)).valid = true := hvalid
  have hstays : (decide (((popped s).agentDir ((s.box box).field 0 4)).st ≠ aMovingIn)
      && decide (((popped s).agentDir ((s.box box).field 0 4)).st ≠ aMovingOut)) = true := by
    rw [show (popped s).agentDir ((s.box box).field 0 4) = s.agentDir ((s.box box).field 0 4) from rfl]
    rcases hst4 with h | h <;> rw [h] <;> rfl
  refine completes_of_body rfl (passes_agentEvict hbox hwhole hst hid) ?_ hP
  simp only [evictBody, hidle, hvalid, hstays, Bool.not_false, need_true_bind]
  rfl

end

theorem agentEvict_clauses (s : State) (box : Nat) (hbox : box < 72) (hwhole : Whole s box 0x21 8 [(4, 4)])
    (hst : s.pkg.st ∈ [PkgState.ready, .serving, .maint]) :
    let id := (s.box box).field 0 4
    let d := s.agentDir id
    let h := d.header
    let gone := heldOffsets s d.owner h
    let refused (st : Nat) : Prop := Completes (.agentEvict box) s (fun t => Refused s t box st 0)
    (262143 < id → refused 0x101)
    ∧ (id ≤ 262143 → agentBusy s id = true → refused 0x200)
    ∧ (id ≤ 262143 → agentBusy s id = false → d.valid = false → refused 0x101)
    ∧ (id ≤ 262143 → agentBusy s id = false → d.valid = true → d.st = 2 ∨ d.st = 3 → refused 0x200)
    ∧ (id ≤ 262143 → agentBusy s id = false → d.valid = true → d.st = 0 ∨ d.st = 1 → Completes (.agentEvict box) s (fun t =>
        Handed (leftBy s t) t box 0 0 false []
          ∧ (AllHome s → (t.agentDir id).valid = false)
          ∧ (d.st = 1 → t.pans = s.pans ∧ (AllHome s → ∀ a, a < dirWordPa s id ∨ dirWordPa s id + 8 ≤ a → memByte t a = memByte s a))
          ∧ (d.st = 0 → AllHome s → (∀ y, y < hStreams s h → WordsInside s h y ∧ (streamRec s h y).fill ≤ hC s h) →
              (t.pan d.owner).taken = (s.pan d.owner).taken.filter (fun e => !gone.contains e.1)
                ∧ (∀ q, q ≠ d.owner → t.pan q = s.pan q)
                ∧ ∀ a, (a < h ∨ h + 65536 ≤ a) → (a < dirWordPa s id ∨ dirWordPa s id + 8 ≤ a) → memByte t a = memByte s a))) := by
  intro id d h gone refused
  refine ⟨agentEvict_badId hbox hwhole hst, fun hid hbusy => agentEvict_busy hbox hwhole hst hid hbusy,
    fun hid hidle hvalid => agentEvict_invalid hbox hwhole hst hid hidle hvalid,
    fun hid hidle hvalid hmoves => agentEvict_moves hbox hwhole hst hid hidle hvalid hmoves, fun hid hidle hvalid hstays => ?_⟩
  refine agentEvict_evicts hbox hwhole hst hid hidle hvalid hstays ?_
  have hwork := brineWork_evicted (popped s) d
  have hdirPa : dirWordPa (evicted (popped s) d) id = dirWordPa s id :=
    (congrArg (fun x : Salter => x.dirPa + 8 * id) hwork.only.salter :)
  have hhanded := workHanded (hwork.trans (BrineWork.clearAgentDir _ id)) box (resp := []) (by decide)
  change WorkHanded s _ (handBack ((evicted (popped s) d).clearAgentDir id) box stOk []).drawn box [] at hhanded
  generalize (handBack ((evicted (popped s) d).clearAgentDir id) box stOk []).drawn = t at hhanded
  have hclear (hhome : AllHome s) {a : Nat} (ha : a < dirWordPa s id ∨ dirWordPa s id + 8 ≤ a) :
      memByte t a = memByte (evicted (popped s) d) a := by
    rw [hhanded.byte, memByte_clearAgentDir (hwork.home hhome) (by rw [hdirPa]; exact ha)]
  refine ⟨hhanded.handed, fun hhome => ?_, fun hcold => ?_, fun hresident hhome hcalm => ?_⟩
  · have hword : t.cohNat (dirWordPa t id) 8 = 0 := by
      refine cohNat_eq_zero (hhanded.home hhome) (fun i hi => ?_)
      rw [hhanded.byte, hhanded.dir, ← hdirPa, State.clearAgentDir,
        memByte_cachelessWrite_inside (hwork.home hhome) (by rw [Device.length_leBytes]; exact hi), Accesses.getD_leBytes 8 hi, Nat.zero_div]
      rfl
    rw [agentDir_eq, hword]
    rfl
  · have heq : evicted (popped s) d = popped s := if_neg (by rw [hcold]; decide)
    refine ⟨?_, fun hhome a ha => ?_⟩
    · rw [hhanded.pans, pans_clearAgentDir, heq]
      rfl
    · rw [hclear hhome ha, heq]
      rfl
  · obtain ⟨htaken, hother, hbytes⟩ := evicted_resident (u := popped s) hresident hhome hcalm
    refine ⟨?_, fun q hq => ?_, fun a ha hdir => ?_⟩
    · rw [hhanded.pan, pan_clearAgentDir, htaken]
      rfl
    · rw [hhanded.pan, pan_clearAgentDir, hother q hq]
      rfl
    · rw [hclear hhome hdir, hbytes a ha]
      rfl

end Sys2Proof.AgentEffects
end

section
/-!
PROOFS. What AGENT_ADVISE GROW and RELEASE leave in the directory words of a stream and in the brine of the agent's owner (R175, R199). -/

namespace Sys2Proof.AgentEffects

open Sys2Proof.Machine Sys2Proof.Safety Sys2Proof.Laws Sys2Proof.Frames Sys2Proof.Boxes Sys2Proof.Plans Sys2Proof.AgentMemory
  Sys2Proof.Grants Sys2Proof.AgentChecks

/-! ### The requests -/

/-- The salter's work of a GROW: each granted page is zeroed, and its word names it. -/
def grownPages (u : State) (owner h : Nat) (r : StreamRec) (zs : List (Nat × Nat)) : State :=
  zs.foldl (fun s x =>
    cachelessWrite (zeroRange s (brineBase owner + x.2) pageSize) (wordPa h r x.1) (leBytes 4 (x.2 / pageSize + 2 ^ 30))) u

/-- The salter's work of a RELEASE: each page is returned and its word cleared. -/
def releasedPages (u : State) (owner h : Nat) (r : StreamRec) (ks : List Nat) : State :=
  ks.foldl (fun s k => cachelessWrite (freeRange s owner (fld (pageWord s h r k) 0 19 * pageSize)) (wordPa h r k) (leBytes 4 0)) u

/-- The words of a stream without a page, ascending. -/
def openWords (s : State) (h : Nat) (r : StreamRec) : List Nat := (List.range r.len).filter (fun k => !wordGranted (pageWord s h r k))

/-- The words of a stream with a page that is not in use, ascending. -/
def idleWords (s : State) (h : Nat) (r : StreamRec) : List Nat :=
  (List.range r.len).filter (fun k => wordGranted (pageWord s h r k) && !wordUsed (pageWord s h r k))

theorem ok_bind {α β : Type} (a : α) (f : α → Except Refuse β) : (Except.ok a >>= f) = f a := rfl

theorem pageSize_eq : pageSize = 262144 := rfl

theorem ungranted_eq (u : State) (h : Nat) (r : StreamRec) (n : Nat) : ungranted u h r n = (openWords u h r).take n := rfl

theorem length_openWords_le (u : State) (h : Nat) (r : StreamRec) : (openWords u h r).length ≤ r.len :=
  (List.length_filter_le _ _).trans_eq List.length_range

theorem length_ungranted_eq_iff (u : State) (h : Nat) (r : StreamRec) (n : Nat) :
    (ungranted u h r n).length = n ↔ n ≤ (openWords u h r).length := by
  rw [ungranted_eq, List.length_take]
  omega

/-- The check of a GROW for words and brine. -/
theorem growFits_iff (u : State) (d : AgentDir) (r : StreamRec) (n : Nat) :
    (decide ((ungranted u d.header r n).length = n) && decide (n * pageSize ≤ freeBrine u d.owner)) = true
      ↔ n ≤ (openWords u d.header r).length ∧ n * 262144 ≤ freeBrine u d.owner := by
  rw [Bool.and_eq_true, decide_eq_true_eq, decide_eq_true_eq, length_ungranted_eq_iff, pageSize_eq]

section
variable {s : State} {box : Nat} (hbox : box < 72) (hwhole : Whole s box 0x23 24 [(5, 3)])
  (hst : s.pkg.st ∈ [PkgState.ready, .serving, .maint]) (hid : (s.box box).field 0 4 ≤ 262143)

theorem adviseOp_of (hwhole : Whole s box 0x23 24 [(5, 3)]) {n : Nat} (hop : (s.box box).field 4 1 = n) :
    ¬ (!adviseOp s box (fun o => decide (o = n))) = true := by
  rw [adviseOp_eq hwhole]
  simp [hop]

include hbox hwhole hst hid

/-- The checks that GROW and RELEASE share. -/
theorem agentAdvise_refused {i : Instr × Nat} (hi : i ∈ [(Instr.agentAdviseGrow box, 1), (.agentAdviseRelease box, 2)])
    (hop : (s.box box).field 4 1 = i.2) {status off : Nat}
    (h : streamCheck (popped s) ((s.box box).field 0 4) ((s.box box).field 8 8) = .error (status, off)) :
    Completes i.1 s (fun t => Refused s t box status off) := by
  simp only [List.mem_cons, List.not_mem_nil, or_false] at hi
  rcases hi with rfl | rfl
  · refine completes_refused (i := .agentAdviseGrow box) (if_neg (adviseOp_of hwhole hop)) (passes_agentAdvise hbox hwhole hst hid (by omega)) ?_
    simp only [h]
    rfl
  · refine completes_refused (i := .agentAdviseRelease box) (if_neg (adviseOp_of hwhole hop)) (passes_agentAdvise hbox hwhole hst hid (by omega)) ?_
    simp only [h]
    rfl

variable {d : AgentDir} (hcheck : streamCheck (popped s) ((s.box box).field 0 4) ((s.box box).field 8 8) = .ok d)
include hcheck

theorem agentAdviseRelease_releases (hop : (s.box box).field 4 1 = 2) {P : State → Prop} :
    let r := streamRec (popped s) d.header ((s.box box).field 8 8)
    let ks := idleWords (popped s) d.header r
    let s1 := releasedPages (popped s) d.owner d.header r ks
    P (handBack (setGranted s1 d.header (hGranted s1 d.header - ks.length)) box stOk []).drawn → Completes (.agentAdviseRelease box) s P := by
  intro r ks s1 hP
  refine completes_of_body (i := .agentAdviseRelease box) (if_neg (adviseOp_of hwhole hop))
    (passes_agentAdvise hbox hwhole hst hid (by omega)) ?_ hP
  simp only [hcheck]
  rfl

variable (hop : (s.box box).field 4 1 = 1) {n : Nat} (hn : (s.box box).field 16 8 = n) {r : StreamRec}
  (hr : streamRec (popped s) d.header ((s.box box).field 8 8) = r)
include hop hn hr

theorem agentAdviseGrow_noFit (h : (openWords (popped s) d.header r).length < n ∨ freeBrine (popped s) d.owner < n * 262144
    ∨ grantAll (popped s) d.owner 0 (List.replicate n (pageSize, pageSize)) = none) :
    Completes (.agentAdviseGrow box) s (fun t => Refused s t box 0x104 0) := by
  refine completes_refused (i := .agentAdviseGrow box) (status := stNoFit) (if_neg (adviseOp_of hwhole hop))
    (passes_agentAdvise hbox hwhole hst hid (by omega)) ?_
  simp only [hcheck, ok_bind, hn, hr]
  by_cases hlen : n ≤ r.len
  case neg => rw [decide_eq_false hlen, need_false_bind]
  rw [decide_eq_true hlen, need_true_bind]
  by_cases hfits : n ≤ (openWords (popped s) d.header r).length ∧ n * 262144 ≤ freeBrine (popped s) d.owner
  case neg => rw [Bool.eq_false_iff.mpr (mt (growFits_iff _ d r n).mp hfits), need_false_bind]
  have hnone := (h.resolve_left (Nat.not_lt.mpr hfits.1)).resolve_left (Nat.not_lt.mpr hfits.2)
  rw [(growFits_iff _ d r n).mpr hfits, need_true_bind, hnone]
  rfl

theorem agentAdviseGrow_grows (hroom : n ≤ (openWords (popped s) d.header r).length) (hfree : n * 262144 ≤ freeBrine (popped s) d.owner)
    {s1 : State} {offs : List Nat} (hgrant : grantAll (popped s) d.owner 0 (List.replicate n (pageSize, pageSize)) = some (s1, offs))
    {P : State → Prop} :
    let s2 := grownPages s1 d.owner d.header r (((openWords (popped s) d.header r).take n).zip offs)
    P (handBack (setGranted s2 d.header (hGranted s2 d.header + n)) box stOk []).drawn → Completes (.agentAdviseGrow box) s P := by
  intro s2 hP
  have hlen : n ≤ r.len := hroom.trans (length_openWords_le (popped s) d.header r)
  refine completes_of_body (i := .agentAdviseGrow box) (if_neg (adviseOp_of hwhole hop))
    (passes_agentAdvise hbox hwhole hst hid (by omega)) ?_ hP
  simp only [hcheck, ok_bind, hn, hr]
  rw [decide_eq_true hlen, need_true_bind, (growFits_iff _ d r n).mpr ⟨hroom, hfree⟩, need_true_bind, hgrant]
  rfl

end

/-! ### The count of granted pages -/

section
variable {u : State} {h : Nat} (hhome : AllHome u)
include hhome

theorem hGranted_setGranted (n : Nat) : hGranted (setGranted u h n) h = n % 2 ^ 32 :=
  cohNat_cachelessWrite_leBytes hhome (h + 28) 4 n

theorem memByte_setGranted (n : Nat) {x : Nat} (hx : x < h + 28 ∨ h + 32 ≤ x) : memByte (setGranted u h n) x = memByte u x :=
  memByte_cachelessWrite_outside hhome (by rw [Device.length_leBytes]; omega)

end

theorem brineWork_setGranted (u : State) (h n : Nat) : BrineWork u (setGranted u h n) := BrineWork.cachelessWrite u _ _

theorem pan_setGranted (u : State) (h n p : Nat) : (setGranted u h n).pan p = u.pan p :=
  pan_of_memoryOnly (MemoryOnly.cachelessWrite u _ _) p

/-! ### RELEASE -/

theorem brineWork_releasedPages (u : State) (owner h : Nat) (r : StreamRec) (ks : List Nat) : BrineWork u (releasedPages u owner h r ks) :=
  BrineWork.foldl (fun t _ => (BrineWork.cachelessWrite _ _ _).after (BrineWork.freeRange t owner _)) ks u

/-- A page returned and its word cleared. -/
def releasedPage (u : State) (owner h : Nat) (r : StreamRec) (k : Nat) : State :=
  cachelessWrite (freeRange u owner (fld (pageWord u h r k) 0 19 * pageSize)) (wordPa h r k) (leBytes 4 0)

theorem releasedPages_cons (u : State) (owner h : Nat) (r : StreamRec) (k : Nat) (ks : List Nat) :
    releasedPages u owner h r (k :: ks) = releasedPages (releasedPage u owner h r k) owner h r ks := rfl

section
variable {u : State} {owner h : Nat} {r : StreamRec}

theorem allHome_releasedPage (hhome : AllHome u) (k : Nat) : AllHome (releasedPage u owner h r k) :=
  allHome_cachelessWrite (s := freeRange u owner _) hhome _ _

theorem memByte_releasedPage_outside (hhome : AllHome u) {k x : Nat} (hx : x < wordPa h r k ∨ wordPa h r k + 4 ≤ x) :
    memByte (releasedPage u owner h r k) x = memByte u x :=
  memByte_cachelessWrite_outside (s := freeRange u owner _) hhome (by rw [Device.length_leBytes]; exact hx)

theorem memByte_releasedPage_inside (hhome : AllHome u) {k i : Nat} (hi : i < 4) :
    memByte (releasedPage u owner h r k) (wordPa h r k + i) = 0 := by
  rw [releasedPage, memByte_cachelessWrite_inside (s := freeRange u owner _) hhome (by rw [Device.length_leBytes]; exact hi),
    Accesses.getD_leBytes 4 hi, Nat.zero_div]
  rfl

theorem pageWord_releasedPage_other (hhome : AllHome u) {k j : Nat} (hj : j ≠ k) :
    pageWord (releasedPage u owner h r k) h r j = pageWord u h r j := by
  refine cohNat_congr hhome (allHome_releasedPage hhome k) (fun i hi => memByte_releasedPage_outside hhome ?_)
  simp only [wordPa]
  omega

theorem taken_releasedPage (k : Nat) : ((releasedPage u owner h r k).pan owner).taken
    = (u.pan owner).taken.filter (fun e => decide (e.1 ≠ pageWord u h r k % 2 ^ 19 * 262144)) := by
  rw [releasedPage, pan_of_memoryOnly (MemoryOnly.cachelessWrite _ _ _), taken_freeRange, fld_zero]
  rfl

/-- The words of the pages released read zero, every other byte is as before, and the pages are the owner's no longer. -/
theorem releasedPages_effect (ks : List Nat) : ∀ {u : State}, AllHome u → ks.Nodup →
    (∀ x, (∀ k ∈ ks, x < wordPa h r k ∨ wordPa h r k + 4 ≤ x) → memByte (releasedPages u owner h r ks) x = memByte u x)
      ∧ (∀ k ∈ ks, ∀ i, i < 4 → memByte (releasedPages u owner h r ks) (wordPa h r k + i) = 0)
      ∧ ((releasedPages u owner h r ks).pan owner).taken
          = (u.pan owner).taken.filter (fun e => !(ks.map (fun k => pageWord u h r k % 2 ^ 19 * 262144)).contains e.1) := by
  induction ks with
  | nil => exact fun _ _ => ⟨fun _ _ => rfl, by simp, by simp [releasedPages]⟩
  | cons k ks ih =>
    intro u hhome hnodup
    obtain ⟨hnew, hrest⟩ := List.nodup_cons.mp hnodup
    obtain ⟨hframe, hzero, htaken⟩ := ih (allHome_releasedPage (owner := owner) (h := h) (r := r) hhome k) hrest
    have hwords : ks.map (fun j => pageWord (releasedPage u owner h r k) h r j % 2 ^ 19 * 262144)
        = ks.map (fun j => pageWord u h r j % 2 ^ 19 * 262144) :=
      List.map_congr_left (fun j hj => by rw [pageWord_releasedPage_other (k := k) (j := j) hhome (fun heq => hnew (heq ▸ hj))])
    refine ⟨fun x hx => ?_, fun j hj i hi => ?_, ?_⟩
    · rw [releasedPages_cons, hframe x (fun j hj => hx j (List.mem_cons_of_mem _ hj)),
        memByte_releasedPage_outside hhome (hx k List.mem_cons_self)]
    · rcases List.mem_cons.mp hj with rfl | hj
      · rw [releasedPages_cons, hframe _ (fun j' hj' => ?_), memByte_releasedPage_inside hhome hi]
        have hne : j' ≠ j := fun heq => hnew (heq ▸ hj')
        simp only [wordPa]
        omega
      · exact hzero j hj i hi
    · rw [releasedPages_cons, htaken, taken_releasedPage, hwords, filter_returned]
      rfl

end

/-- What a RELEASE leaves, as the statement has it. -/
theorem release_clause {s : State} {box : Nat} {h st owner : Nat} :
    let r := streamRec s h st
    let ks := idleWords s h r
    let s1 := releasedPages (popped s) owner h r ks
    let t := (handBack (setGranted s1 h (hGranted s1 h - ks.length)) box stOk []).drawn
    Handed (leftBy s t) t box 0 0 false []
      ∧ (AllHome s → WordsInside s h st →
          (t.pan owner).taken = (s.pan owner).taken.filter (fun e => !(ks.map (fun k => pageWord s h r k % 2 ^ 19 * 262144)).contains e.1)
            ∧ hGranted t h = hGranted s h - ks.length
            ∧ (∀ k, k < r.len → pageWord t h r k = if k ∈ ks then 0 else pageWord s h r k)
            ∧ (∀ a, (a < h + 28 ∨ h + 32 ≤ a) → (∀ k ∈ ks, a < wordPa h r k ∨ wordPa h r k + 4 ≤ a) → memByte t a = memByte s a)) := by
  intro r ks s1 t
  have hwork : BrineWork (popped s) s1 := brineWork_releasedPages (popped s) owner h r ks
  have hhanded : WorkHanded s (setGranted s1 h (hGranted s1 h - ks.length)) t box [] :=
    workHanded (hwork.trans (brineWork_setGranted s1 h _)) box (by decide)
  clear_value t
  refine ⟨hhanded.handed, fun hhome hinside => ?_⟩
  have hbehind : 0x100 + 64 * hStreams s h ≤ r.off := hinside.2.1
  have hword (k : Nat) : h + 256 ≤ wordPa h r k := by
    rw [wordPa]
    omega
  have hnodup : ks.Nodup := List.nodup_range.filter _
  obtain ⟨hframe, hzero, htaken⟩ := releasedPages_effect (owner := owner) (h := h) (r := r) ks (u := popped s) hhome hnodup
  have hhome1 : AllHome s1 := hwork.home hhome
  have hcount : hGranted s1 h = hGranted s h :=
    cohNat_congr (s := popped s) hhome hhome1 (fun i hi => hframe _ (fun k _ => by have hk := hword k; omega))
  have hcountLt : hGranted s h < 2 ^ 32 := cohNat_lt s (h + 28) 4
  have hbyte {x : Nat} (hx : x < h + 28 ∨ h + 32 ≤ x) : memByte t x = memByte s1 x := by
    rw [hhanded.byte, memByte_setGranted hhome1 _ hx]
  refine ⟨?_, ?_, fun k _ => ?_, fun a ha hks => (hbyte ha).trans (hframe a hks)⟩
  · rw [hhanded.pan, pan_setGranted, htaken]
    rfl
  · have hread : hGranted t h = hGranted (setGranted s1 h (hGranted s1 h - ks.length)) h :=
      cohNat_congr ((brineWork_setGranted s1 h _).home hhome1) (hhanded.home hhome) (fun i _ => hhanded.byte _)
    rw [hread, hGranted_setGranted hhome1, hcount]
    exact Nat.mod_eq_of_lt (by omega)
  · have hk := hword k
    split
    case isTrue hmem =>
      exact cohNat_eq_zero (hhanded.home hhome) (fun i hi => (hbyte (by omega)).trans (hzero k hmem i hi))
    case isFalse hmem =>
      refine cohNat_congr hhome (hhanded.home hhome) (fun i hi => (hbyte (by omega)).trans (hframe _ (fun j hj => ?_)))
      have hne : j ≠ k := fun heq => hmem (heq ▸ hj)
      simp only [wordPa]
      omega

/-! ### GROW -/

/-- A granted page zeroed and named by its word. -/
def grownPage (u : State) (owner h : Nat) (r : StreamRec) (x : Nat × Nat) : State :=
  cachelessWrite (zeroRange u (brineBase owner + x.2) pageSize) (wordPa h r x.1) (leBytes 4 (x.2 / pageSize + 2 ^ 30))

theorem grownPages_cons (u : State) (owner h : Nat) (r : StreamRec) (x : Nat × Nat) (zs : List (Nat × Nat)) :
    grownPages u owner h r (x :: zs) = grownPages (grownPage u owner h r x) owner h r zs := rfl

theorem brineWork_grownPages (u : State) (owner h : Nat) (r : StreamRec) (zs : List (Nat × Nat)) : BrineWork u (grownPages u owner h r zs) :=
  BrineWork.foldl (fun t _ => (BrineWork.cachelessWrite _ _ _).after (BrineWork.zeroRange t _ _)) zs u

theorem pan_grownPages (u : State) (owner h : Nat) (r : StreamRec) (zs : List (Nat × Nat)) (p : Nat) :
    (grownPages u owner h r zs).pan p = u.pan p :=
  pan_of_memoryOnly (MemoryOnly.foldl (fun t _ => (MemoryOnly.cachelessWrite _ _ _).after (MemoryOnly.zeroRange t _ _)) zs u) p

/-- A page of the owner's brine in whole lines, apart from the header, and a word within the header. -/
structure PageFits (owner h : Nat) (r : StreamRec) (x : Nat × Nat) : Prop where
  aligned : x.2 % 64 = 0
  apart : brineBase owner + x.2 + pageSize ≤ h ∨ h + 65536 ≤ brineBase owner + x.2
  word : wordPa h r x.1 + 4 ≤ h + 65536
  number : x.2 / pageSize + 2 ^ 30 < 2 ^ 32

theorem brineBase_aligned (p : Nat) : brineBase p % 64 = 0 := by
  rw [brineBase]
  omega

section
variable {owner h : Nat} {r : StreamRec}

theorem wordPa_ge (h : Nat) (r : StreamRec) (k : Nat) : h ≤ wordPa h r k := by
  rw [wordPa]
  omega

theorem allHome_grownPage {u : State} (hhome : AllHome u) (x : Nat × Nat) : AllHome (grownPage u owner h r x) :=
  allHome_cachelessWrite (allHome_zeroRange hhome _ _) _ _

theorem memByte_grownPage_outside {u : State} (hhome : AllHome u) {x : Nat × Nat} (hfits : PageFits owner h r x) {a : Nat}
    (hpage : a < brineBase owner + x.2 ∨ brineBase owner + x.2 + pageSize ≤ a) (hword : a < wordPa h r x.1 ∨ wordPa h r x.1 + 4 ≤ a) :
    memByte (grownPage u owner h r x) a = memByte u a := by
  have hbase := brineBase_aligned owner
  have haligned := hfits.aligned
  rw [grownPage, memByte_cachelessWrite_outside (allHome_zeroRange hhome _ _) (by rw [Device.length_leBytes]; exact hword),
    Zeroing.memByte_zeroRange hhome (by omega) (by decide), if_neg (by omega)]

theorem memByte_grownPage_page {u : State} (hhome : AllHome u) {x : Nat × Nat} (hfits : PageFits owner h r x) {k : Nat} (hk : k < pageSize) :
    memByte (grownPage u owner h r x) (brineBase owner + x.2 + k) = 0 := by
  have hbase := brineBase_aligned owner
  obtain ⟨haligned, hapart, hword, -⟩ := hfits
  have hge := wordPa_ge h r x.1
  rw [grownPage, memByte_cachelessWrite_outside (allHome_zeroRange hhome _ _) (by rw [Device.length_leBytes]; omega),
    Zeroing.memByte_zeroRange hhome (by omega) (by decide), if_pos (by omega)]

theorem memByte_grownPage_word {u : State} (hhome : AllHome u) (x : Nat × Nat) {i : Nat} (hi : i < 4) :
    memByte (grownPage u owner h r x) (wordPa h r x.1 + i) = (leBytes 4 (x.2 / pageSize + 2 ^ 30)).getD i 0 :=
  memByte_cachelessWrite_inside (allHome_zeroRange hhome _ _) (by rw [Device.length_leBytes]; exact hi)

/-- The pages granted read zero, each word names its page, and every other byte is as before. -/
theorem grownPages_effect (zs : List (Nat × Nat)) : ∀ {u : State}, AllHome u → (∀ x ∈ zs, PageFits owner h r x) → (zs.map Prod.fst).Nodup →
    (∀ a, (∀ x ∈ zs, a < brineBase owner + x.2 ∨ brineBase owner + x.2 + pageSize ≤ a) →
        (∀ x ∈ zs, a < wordPa h r x.1 ∨ wordPa h r x.1 + 4 ≤ a) → memByte (grownPages u owner h r zs) a = memByte u a)
      ∧ (∀ x ∈ zs, ∀ k, k < pageSize → memByte (grownPages u owner h r zs) (brineBase owner + x.2 + k) = 0)
      ∧ (∀ x ∈ zs, ∀ i, i < 4 → memByte (grownPages u owner h r zs) (wordPa h r x.1 + i) = (leBytes 4 (x.2 / pageSize + 2 ^ 30)).getD i 0) := by
  induction zs with
  | nil => exact fun _ _ _ => ⟨fun _ _ _ => rfl, by simp, by simp⟩
  | cons x zs ih =>
    intro u hhome hfits hnodup
    rw [List.map_cons, List.nodup_cons] at hnodup
    obtain ⟨hnew, hrest⟩ := hnodup
    have hx := hfits x List.mem_cons_self
    have hfits' : ∀ y ∈ zs, PageFits owner h r y := fun y hy => hfits y (List.mem_cons_of_mem _ hy)
    obtain ⟨hframe, hzero, hnames⟩ := ih (allHome_grownPage (owner := owner) (h := h) (r := r) hhome x) hfits' hrest
    refine ⟨fun a hpages hwords => ?_, fun y hy k hk => ?_, fun y hy i hi => ?_⟩
    · rw [grownPages_cons, hframe a (fun y hy => hpages y (List.mem_cons_of_mem _ hy)) (fun y hy => hwords y (List.mem_cons_of_mem _ hy)),
        memByte_grownPage_outside hhome hx (hpages x List.mem_cons_self) (hwords x List.mem_cons_self)]
    · rcases List.mem_cons.mp hy with rfl | hy
      · by_cases hlater : ∃ z ∈ zs, brineBase owner + z.2 ≤ brineBase owner + y.2 + k ∧ brineBase owner + y.2 + k < brineBase owner + z.2 + pageSize
        · obtain ⟨z, hz, hlo, hhi⟩ := hlater
          have hin := hzero z hz (brineBase owner + y.2 + k - (brineBase owner + z.2)) (by omega)
          rwa [Nat.add_sub_cancel' hlo] at hin
        · simp only [not_exists, not_and, not_lt] at hlater
          have hapart := hx.apart
          rw [grownPages_cons, hframe _ (fun z hz => ?_) (fun z hz => ?_), memByte_grownPage_page hhome hx hk]
          · have hz' := hlater z hz
            omega
          · have hge := wordPa_ge h r z.1
            have hword := (hfits' z hz).word
            omega
      · exact hzero y hy k hk
    · rcases List.mem_cons.mp hy with rfl | hy
      · have hge := wordPa_ge h r y.1
        have hword := hx.word
        rw [grownPages_cons, hframe _ (fun z hz => ?_) (fun z hz => ?_), memByte_grownPage_word hhome y hi]
        · have hapart := (hfits' z hz).apart
          omega
        · have hne : z.1 ≠ y.1 := fun heq => hnew (heq ▸ List.mem_map_of_mem hz)
          simp only [wordPa]
          omega
      · exact hnames y hy i hi

end

theorem grantedRanges_pages (offs : List Nat) :
    grantedRanges (List.replicate offs.length (262144, 262144)) offs = offs.map (fun o => (262144, o)) := by
  induction offs with
  | nil => rfl
  | cons o offs ih => rw [List.length_cons, List.replicate_succ, grantedRanges_cons (by decide), ih, List.map_cons]

theorem brineLimit_le (s : State) (p : Nat) : brineLimit s p ≤ brineSize := Nat.sub_le _ _

/-- What a GROW leaves, as the statement has it. -/
theorem grow_clause {s s1 : State} {box h st owner n : Nat} {offs : List Nat} (hroom : n ≤ (openWords s h (streamRec s h st)).length)
    (hgrant : grantAll (popped s) owner 0 (List.replicate n (262144, 262144)) = some (s1, offs)) (hbase : brineBase owner ≤ h) :
    let r := streamRec s h st
    let room := openWords s h r
    let s2 := grownPages s1 owner h r ((room.take n).zip offs)
    let t := (handBack (setGranted s2 h (hGranted s2 h + n)) box stOk []).drawn
    Handed (leftBy s t) t box 0 0 false [] ∧ (t.pan owner).taken = (s.pan owner).taken ++ offs.map (fun o => (o, 262144))
      ∧ (AllHome s → WordsInside s h st → r.off + 4 * r.len ≤ 65536 → (h - brineBase owner, 65536) ∈ (s.pan owner).taken →
          hGranted t h = (hGranted s h + n) % 2 ^ 32
          ∧ (∀ k, k < r.len → pageWord t h r k = match (room.take n).zip offs |>.find? (fun e => e.1 = k) with
              | some e => e.2 / 262144 + 2 ^ 30
              | none => pageWord s h r k)
          ∧ (∀ o ∈ offs, ∀ k, k < 262144 → memByte t (brineBase owner + o + k) = 0)
          ∧ (∀ a, (a < h ∨ h + 65536 ≤ a) → (∀ o ∈ offs, a < brineBase owner + o ∨ brineBase owner + o + 262144 ≤ a) →
              memByte t a = memByte s a)) := by
  intro r room s2 t
  have hgranted := granted_of_grantAll _ hgrant
  have hlength : offs.length = n := hgranted.length.trans List.length_replicate
  have hwork2 : BrineWork (popped s) s2 := hgranted.brineWork.trans (brineWork_grownPages s1 owner h r _)
  have hhanded : WorkHanded s (setGranted s2 h (hGranted s2 h + n)) t box [] :=
    workHanded (hwork2.trans (brineWork_setGranted s2 h _)) box (by decide)
  have hranges : grantedRanges (List.replicate n (262144, 262144)) offs = offs.map (fun o => (262144, o)) := by
    rw [← hlength, grantedRanges_pages]
  clear_value t
  refine ⟨hhanded.handed, ?_, fun hhome hinside hlen hheader => ?_⟩
  · rw [hhanded.pan, pan_setGranted, pan_grownPages, hgranted.taken, hranges, List.map_map]
    rfl
  have hbehind : 0x100 + 64 * hStreams s h ≤ r.off := hinside.2.1
  have hzs : (room.take n).length = offs.length := by rw [List.length_take, hlength]; exact Nat.min_eq_left hroom
  have hkeys : (((room.take n).zip offs).map Prod.fst) = room.take n := List.map_fst_zip hzs.le
  have hoffs : (((room.take n).zip offs).map Prod.snd) = offs := List.map_snd_zip hzs.ge
  have hnodup : (((room.take n).zip offs).map Prod.fst).Nodup := by
    rw [hkeys]
    exact (List.nodup_range.filter _).sublist (List.take_sublist n room)
  have hfits : ∀ x ∈ (room.take n).zip offs, PageFits owner h r x := by
    intro x hx
    have hk : x.1 < r.len := by
      have hmem : x.1 ∈ room.take n := hkeys ▸ List.mem_map_of_mem hx
      exact List.mem_range.mp (List.mem_filter.mp (List.mem_of_mem_take hmem)).1
    have ho : x.2 ∈ offs := hoffs ▸ List.mem_map_of_mem hx
    obtain ⟨hlimit, hapart⟩ := hgranted.fits (262144, x.2) (by rw [hranges]; exact List.mem_map_of_mem ho)
    have hheader' := hapart (h - brineBase owner, 65536) hheader
    have hsize := hlimit.trans (brineLimit_le _ owner)
    simp only [brineSize, gib] at hsize
    refine ⟨hgranted.aligned (fun w hw => ?_) x.2 ho, ?_, ?_, ?_⟩
    · rw [List.eq_of_mem_replicate hw]
      rfl
    · simp only [pageSize] at *
      omega
    · rw [wordPa]
      omega
    · simp only [pageSize]
      omega
  have hhome1 : AllHome s1 := hgranted.brineWork.home hhome
  obtain ⟨hframe, hzero, hnames⟩ := grownPages_effect ((room.take n).zip offs) hhome1 hfits hnodup
  have hhome2 : AllHome s2 := hwork2.home hhome
  have hword (k : Nat) : h + 256 ≤ wordPa h r k := by
    rw [wordPa]
    omega
  have hbyte {x : Nat} (hx : x < h + 28 ∨ h + 32 ≤ x) : memByte t x = memByte s2 x := by
    rw [hhanded.byte, memByte_setGranted hhome2 _ hx]
  have hkept {x : Nat} (hin : h ≤ x ∧ x < h + 65536)
      (hwords : ∀ y ∈ (room.take n).zip offs, x < wordPa h r y.1 ∨ wordPa h r y.1 + 4 ≤ x) : memByte s2 x = memByte s x := by
    refine (hframe x (fun y hy => ?_) hwords).trans (hgranted.memByte x)
    have hapart := (hfits y hy).apart
    omega
  have hcount : hGranted s2 h = hGranted s h :=
    cohNat_congr hhome hhome2 (fun i hi => hkept (by omega) (fun y _ => by have hk := hword y.1; omega))
  refine ⟨?_, fun k hk => ?_, fun o ho k hk => ?_, fun a ha hpages => ?_⟩
  · have hread : hGranted t h = hGranted (setGranted s2 h (hGranted s2 h + n)) h :=
      cohNat_congr ((brineWork_setGranted s2 h _).home hhome2) (hhanded.home hhome) (fun i _ => hhanded.byte _)
    rw [hread, hGranted_setGranted hhome2, hcount]
  · have hk' := hword k
    split
    case h_1 e hfind =>
      have hmem := List.mem_of_find?_eq_some hfind
      have hkey : e.1 = k := by simpa using List.find?_some hfind
      subst hkey
      have hread : t.cohNat (wordPa h r e.1) 4 = leField (leBytes 4 (e.2 / pageSize + 2 ^ 30)) 0 4 :=
        cohNat_eq_leField (hhanded.home hhome) (by rw [Device.length_leBytes])
          (fun i hi => by rw [hbyte (by omega), hnames e hmem i hi, Nat.zero_add])
      rw [pageWord, hread, leField_leBytes]
      exact Nat.mod_eq_of_lt (hfits e hmem).number
    case h_2 hfind =>
      refine cohNat_congr hhome (hhanded.home hhome) (fun i hi => (hbyte (by omega)).trans (hkept ?_ (fun y hy => ?_)))
      · simp only [wordPa]
        omega
      · have hne : y.1 ≠ k := by simpa using List.find?_eq_none.mp hfind y hy
        simp only [wordPa]
        omega
  · obtain ⟨x, hx, rfl⟩ := List.mem_map.mp (hoffs.symm ▸ ho : o ∈ ((room.take n).zip offs).map Prod.snd)
    have hapart := (hfits x hx).apart
    have hsize : pageSize = 262144 := rfl
    rw [hbyte (by omega)]
    exact hzero x hx k hk
  · have hsize : pageSize = 262144 := rfl
    rw [hbyte (by omega)]
    refine (hframe a (fun y hy => ?_) (fun y hy => ?_)).trans (hgranted.memByte a)
    · exact hpages y.2 (hoffs ▸ List.mem_map_of_mem hy)
    · have hge := wordPa_ge h r y.1
      have hy' := (hfits y hy).word
      omega

end Sys2Proof.AgentEffects
end

section
/-!
PROOFS. The header of a fresh agent (R173 to R175, R197): the commit line, and each stream's record and directory words. -/

namespace Sys2Proof.FreshHeader

open Sys2Proof.Machine Sys2Proof.Safety Sys2Proof.Laws Sys2Proof.Frames Sys2Proof.AgentMemory Sys2Proof.Grants

/-! ### Bytes of the commit line and of a stream record -/

/-- The 24 bytes of a fresh stream's record. -/
def recordBytes (entry doff len : Nat) : List Byte :=
  leBytes 4 entry ++ leBytes 4 (perPage entry) ++ leBytes 8 0 ++ leBytes 4 doff ++ leBytes 4 len

theorem length_recordBytes (entry doff len : Nat) : (recordBytes entry doff len).length = 24 := rfl

/-- The fields of a stream record (R174). -/
theorem recordBytes_fields (entry doff len : Nat) :
    leField (recordBytes entry doff len) 0 4 = entry % 256 ^ 4 ∧ leField (recordBytes entry doff len) 4 4 = perPage entry % 256 ^ 4
      ∧ leField (recordBytes entry doff len) 8 8 = 0 ∧ leField (recordBytes entry doff len) 16 4 = doff % 256 ^ 4
      ∧ leField (recordBytes entry doff len) 20 4 = len % 256 ^ 4 :=
  ⟨Device.leNat_leBytes 4 entry, Device.leNat_leBytes 4 (perPage entry), Device.leNat_leBytes 8 0, Device.leNat_leBytes 4 doff,
    Device.leNat_leBytes 4 len⟩

/-- The commit line of a fresh agent: RESIDENT, generation and C zero, no page in use. -/
def freshLine (id streams owner off units granted : Nat) : List Byte := commitLine id aResident streams 0 owner 0 off units 0 granted

theorem length_freshLine (id streams owner off units granted : Nat) : (freshLine id streams owner off units granted).length = 64 := rfl

/-- The fields of the commit line (R173). -/
theorem freshLine_fields (id streams owner off units granted : Nat) :
    let line := freshLine id streams owner off units granted
    leField line 0 4 = id % 256 ^ 4 ∧ leField line 4 1 = 0 ∧ leField line 5 1 = streams % 256 ^ 1 ∧ leField line 6 1 = 0
      ∧ leField line 8 8 = 0 ∧ leField line 16 4 = off % 256 ^ 4 ∧ leField line 20 4 = units % 256 ^ 4
      ∧ leField line 24 4 = 0 ∧ leField line 28 4 = granted % 256 ^ 4 :=
  ⟨Device.leNat_leBytes 4 id, Device.leNat_leBytes 1 0, Device.leNat_leBytes 1 streams, Device.leNat_leBytes 1 0, Device.leNat_leBytes 8 0,
    Device.leNat_leBytes 4 off, Device.leNat_leBytes 4 units, Device.leNat_leBytes 4 0, Device.leNat_leBytes 4 granted⟩

/-- The directory words of granted pages. -/
def wordBytes (gs : List Nat) : List Byte := gs.flatMap (fun g => leBytes 4 (g + 2 ^ 30))

theorem wordBytes_cons (g : Nat) (gs : List Nat) : wordBytes (g :: gs) = leBytes 4 (g + 2 ^ 30) ++ wordBytes gs := rfl

theorem length_wordBytes (gs : List Nat) : (wordBytes gs).length = 4 * gs.length := by
  induction gs with
  | nil => rfl
  | cons g gs ih =>
    rw [wordBytes_cons, List.length_append, Device.length_leBytes, ih, List.length_cons]
    omega

theorem getD_wordBytes (gs : List Nat) : ∀ {k o : Nat}, k < gs.length → o < 4 →
    (wordBytes gs).getD (4 * k + o) 0 = (leBytes 4 (gs.getD k 0 + 2 ^ 30)).getD o 0 := by
  induction gs with
  | nil => intro k o hk; simp at hk
  | cons g gs ih =>
    intro k o hk ho
    have hlen := Device.length_leBytes 4 (g + 2 ^ 30)
    rw [wordBytes_cons]
    cases k with
    | zero => rw [Nat.mul_zero, Nat.zero_add, List.getD_append _ _ _ _ (by omega), List.getD_cons_zero]
    | succ k =>
      rw [List.getD_append_right _ _ _ _ (by omega), hlen, List.getD_cons_succ, ← ih (by simpa using hk) ho]
      congr 1
      omega

/-! ### Stream records and directories -/

/-- A stream of the request: its entry's bytes, its positions and its pages. -/
abbrev StreamAsk := Nat × Nat × Nat

/-- Directory words of a stream asked for. -/
def wordsAsked (x : StreamAsk) : Nat := dirLen x.1 x.2.1

/-- Directory words of the streams before stream j. -/
def wordsBefore (recs : List StreamAsk) (j : Nat) : Nat := ((recs.take j).map wordsAsked).sum

/-- Pages of the streams before stream j. -/
def pagesBefore (recs : List StreamAsk) (j : Nat) : Nat := ((recs.take j).map (fun x => x.2.2)).sum

theorem wordsBefore_cons (x : StreamAsk) (recs : List StreamAsk) (j : Nat) :
    wordsBefore (x :: recs) (j + 1) = wordsAsked x + wordsBefore recs j := by
  rw [wordsBefore, List.take_succ_cons, List.map_cons, List.sum_cons]
  rfl

theorem pagesBefore_cons (x : StreamAsk) (recs : List StreamAsk) (j : Nat) :
    pagesBefore (x :: recs) (j + 1) = x.2.2 + pagesBefore recs j := by
  rw [pagesBefore, List.take_succ_cons, List.map_cons, List.sum_cons]
  rfl

/-- A stream's record and the words of its pages written. -/
def writeStream (u : State) (h doff i : Nat) (pages : List Nat) (x : StreamAsk) : State :=
  cachelessWrite (cachelessWrite u (streamPa h i) (recordBytes x.1 doff (wordsAsked x))) (h + doff) (wordBytes (pages.take x.2.2))

theorem writeStreams_cons (u : State) (h doff i : Nat) (pages : List Nat) (x : StreamAsk) (recs : List StreamAsk) :
    writeStreams u h doff i pages (x :: recs)
      = writeStreams (writeStream u h doff i pages x) h (doff + 4 * wordsAsked x) (i + 1) (pages.drop x.2.2) recs := rfl

theorem brineWork_writeStreams (recs : List StreamAsk) : ∀ (u : State) (h doff i : Nat) (pages : List Nat),
    BrineWork u (writeStreams u h doff i pages recs) := by
  induction recs with
  | nil => exact fun u _ _ _ _ => BrineWork.refl u
  | cons x recs ih =>
    intro u h doff i pages
    rw [writeStreams_cons]
    exact (ih _ _ _ _ _).after ((BrineWork.cachelessWrite _ _ _).after (BrineWork.cachelessWrite u _ _))

section
variable {h : Nat}

theorem allHome_writeStream {u : State} (hhome : AllHome u) (doff i : Nat) (pages : List Nat) (x : StreamAsk) :
    AllHome (writeStream u h doff i pages x) :=
  allHome_cachelessWrite (allHome_cachelessWrite hhome _ _) _ _

theorem length_wordBytes_take {pages : List Nat} {n : Nat} (hn : n ≤ pages.length) : (wordBytes (pages.take n)).length = 4 * n := by
  rw [length_wordBytes, List.length_take, Nat.min_eq_left hn]

section
variable {u : State} (hhome : AllHome u) {doff i : Nat} {pages : List Nat} {x : StreamAsk} (hpages : x.2.2 ≤ pages.length)
include hhome hpages

theorem memByte_writeStream_outside {a : Nat} (hrec : a < streamPa h i ∨ streamPa h i + 24 ≤ a)
    (hwords : a < h + doff ∨ h + doff + 4 * x.2.2 ≤ a) : memByte (writeStream u h doff i pages x) a = memByte u a := by
  rw [writeStream, memByte_cachelessWrite_outside (allHome_cachelessWrite hhome _ _) (by rw [length_wordBytes_take hpages]; exact hwords),
    memByte_cachelessWrite_outside hhome (by rw [length_recordBytes]; exact hrec)]

theorem memByte_writeStream_record (hbehind : streamPa h i + 24 ≤ h + doff) {o : Nat} (ho : o < 24) :
    memByte (writeStream u h doff i pages x) (streamPa h i + o) = (recordBytes x.1 doff (wordsAsked x)).getD o 0 := by
  rw [writeStream, memByte_cachelessWrite_outside (allHome_cachelessWrite hhome _ _) (by rw [length_wordBytes_take hpages]; omega),
    memByte_cachelessWrite_inside hhome (by rw [length_recordBytes]; exact ho)]

theorem memByte_writeStream_word {k o : Nat} (hk : k < x.2.2) (ho : o < 4) :
    memByte (writeStream u h doff i pages x) (h + doff + 4 * k + o) = (leBytes 4 (pages.getD k 0 + 2 ^ 30)).getD o 0 := by
  have hlen : k < (pages.take x.2.2).length := by rw [List.length_take]; omega
  rw [writeStream, Nat.add_assoc (h + doff),
    memByte_cachelessWrite_inside (allHome_cachelessWrite hhome _ _) (by rw [length_wordBytes_take hpages]; omega), getD_wordBytes _ hlen ho]
  congr 2
  rw [List.getD_eq_getElem?_getD, List.getElem?_take_of_lt hk, List.getD_eq_getElem?_getD]

end

theorem streamPa_succ (h i : Nat) : streamPa h (i + 1) = streamPa h i + 64 := by
  rw [streamPa, streamPa]
  omega

/-- Each stream's record, its words named for its pages, and every other byte as before. -/
theorem writeStreams_effect (recs : List StreamAsk) : ∀ {u : State} {doff i : Nat} {pages : List Nat}, AllHome u →
    0x100 + 64 * (i + recs.length) ≤ doff → (∀ x ∈ recs, x.2.2 ≤ wordsAsked x) → (recs.map (fun x => x.2.2)).sum ≤ pages.length →
    (∀ a, (a < streamPa h i ∨ streamPa h (i + recs.length) ≤ a) → (a < h + doff ∨ h + doff + 4 * wordsBefore recs recs.length ≤ a) →
        memByte (writeStreams u h doff i pages recs) a = memByte u a)
      ∧ (∀ j x, recs[j]? = some x → ∀ o, o < 24 → memByte (writeStreams u h doff i pages recs) (streamPa h (i + j) + o)
          = (recordBytes x.1 (doff + 4 * wordsBefore recs j) (wordsAsked x)).getD o 0)
      ∧ (∀ j x, recs[j]? = some x → ∀ k, k < x.2.2 → ∀ o, o < 4 →
          memByte (writeStreams u h doff i pages recs) (h + doff + 4 * (wordsBefore recs j + k) + o)
            = (leBytes 4 (pages.getD (pagesBefore recs j + k) 0 + 2 ^ 30)).getD o 0)
      ∧ (∀ j x, recs[j]? = some x → ∀ k, x.2.2 ≤ k → k < wordsAsked x → ∀ o, o < 4 →
          memByte (writeStreams u h doff i pages recs) (h + doff + 4 * (wordsBefore recs j + k) + o)
            = memByte u (h + doff + 4 * (wordsBefore recs j + k) + o)) := by
  induction recs with
  | nil => exact fun _ _ _ _ => ⟨fun _ _ _ => rfl, by simp, by simp, by simp⟩
  | cons x recs ih =>
    intro u doff i pages hhome hbehind hfit hpages
    have hx := hfit x List.mem_cons_self
    rw [List.map_cons, List.sum_cons] at hpages
    rw [List.length_cons] at hbehind
    have hpages' : (recs.map (fun x => x.2.2)).sum ≤ (pages.drop x.2.2).length := by rw [List.length_drop]; omega
    obtain ⟨hframe, hrecs, hwords, hopen⟩ := ih (allHome_writeStream (h := h) hhome doff i pages x)
      (doff := doff + 4 * wordsAsked x) (i := i + 1) (by omega) (fun y hy => hfit y (List.mem_cons_of_mem _ hy)) hpages'
    have hlast : streamPa h (i + 1 + recs.length) ≤ h + doff := by rw [streamPa]; omega
    have hnext := streamPa_succ h i
    have hrest : streamPa h (i + 1) ≤ streamPa h (i + 1 + recs.length) := by rw [streamPa, streamPa]; omega
    have hmine {a : Nat} (hrec : a < streamPa h i ∨ streamPa h i + 24 ≤ a) (hword : a < h + doff ∨ h + doff + 4 * x.2.2 ≤ a) :
        memByte (writeStream u h doff i pages x) a = memByte u a :=
      memByte_writeStream_outside hhome (by omega) hrec hword
    rw [writeStreams_cons]
    refine ⟨fun a ha hw => ?_, fun j y hj o ho => ?_, fun j y hj k hk o ho => ?_, fun j y hj k hk hlen o ho => ?_⟩
    · rw [List.length_cons, wordsBefore_cons] at hw
      rw [List.length_cons, ← Nat.add_assoc, Nat.add_right_comm] at ha
      rw [hframe a (by omega) (by omega), hmine (by omega) (by omega)]
    · cases j with
      | zero =>
        obtain rfl : x = y := by simpa using hj
        rw [Nat.add_zero i, hframe _ (by omega) (by omega), memByte_writeStream_record hhome (by omega) (by omega) ho]
        rfl
      | succ j =>
        rw [wordsBefore_cons, Nat.mul_add, ← Nat.add_assoc doff, Nat.add_comm j, ← Nat.add_assoc i]
        exact hrecs j y (by simpa using hj) o ho
    · cases j with
      | zero =>
        obtain rfl : x = y := by simpa using hj
        have hstart : wordsBefore (x :: recs) 0 = 0 ∧ pagesBefore (x :: recs) 0 = 0 := ⟨rfl, rfl⟩
        rw [hstart.1, hstart.2, Nat.zero_add, hframe _ (by omega) (by omega), memByte_writeStream_word hhome (by omega) hk ho]
      | succ j =>
        have hword := hwords j y (by simpa using hj) k hk o ho
        rw [wordsBefore_cons, pagesBefore_cons, show h + doff + 4 * (wordsAsked x + wordsBefore recs j + k) + o
          = h + (doff + 4 * wordsAsked x) + 4 * (wordsBefore recs j + k) + o by omega, hword]
        congr 3
        rw [List.getD_eq_getElem?_getD, List.getElem?_drop, List.getD_eq_getElem?_getD, Nat.add_assoc]
    · cases j with
      | zero =>
        obtain rfl : x = y := by simpa using hj
        have hstart : wordsBefore (x :: recs) 0 = 0 := rfl
        rw [hstart, Nat.zero_add, hframe _ (by omega) (by omega), hmine (by omega) (by omega)]
      | succ j =>
        rw [wordsBefore_cons, show h + doff + 4 * (wordsAsked x + wordsBefore recs j + k) + o
          = h + (doff + 4 * wordsAsked x) + 4 * (wordsBefore recs j + k) + o by omega, hopen j y (by simpa using hj) k hk hlen o ho]
        exact hmine (by omega) (by omega)

end

/-! ### Ranges zeroed -/

/-- The ranges of a grant, each zeroed. -/
def zeroedRanges (u : State) (p : Nat) (rs : List (Nat × Nat)) : State := rs.foldl (fun s x => zeroRange s (brineBase p + x.2) x.1) u

theorem brineWork_zeroedRanges (u : State) (p : Nat) (rs : List (Nat × Nat)) : BrineWork u (zeroedRanges u p rs) :=
  BrineWork.foldl (fun t _ => BrineWork.zeroRange t _ _) rs u

theorem zeroedRanges_effect (p : Nat) (rs : List (Nat × Nat)) : ∀ {u : State}, AllHome u → (∀ x ∈ rs, x.1 % 64 = 0 ∧ x.2 % 64 = 0) →
    (∀ x ∈ rs, ∀ k, k < x.1 → memByte (zeroedRanges u p rs) (brineBase p + x.2 + k) = 0)
      ∧ ∀ a, (∀ x ∈ rs, a < brineBase p + x.2 ∨ brineBase p + x.2 + x.1 ≤ a) → memByte (zeroedRanges u p rs) a = memByte u a := by
  induction rs with
  | nil => exact fun _ _ => ⟨by simp, fun _ _ => rfl⟩
  | cons y rs ih =>
    intro u hhome haligned
    obtain ⟨hlen, hoff⟩ := haligned y List.mem_cons_self
    have hbase := AgentEffects.brineBase_aligned p
    have hbyte (a : Nat) : memByte (zeroRange u (brineBase p + y.2) y.1) a
        = if brineBase p + y.2 ≤ a ∧ a < brineBase p + y.2 + y.1 then 0 else memByte u a :=
      Zeroing.memByte_zeroRange hhome (by omega) hlen a
    obtain ⟨hzero, hframe⟩ := ih (allHome_zeroRange hhome (brineBase p + y.2) y.1) (fun x hx => haligned x (List.mem_cons_of_mem _ hx))
    change (∀ x ∈ rs, ∀ k, k < x.1 → memByte (zeroedRanges u p (y :: rs)) (brineBase p + x.2 + k) = 0) at hzero
    change ∀ a, (∀ x ∈ rs, a < brineBase p + x.2 ∨ brineBase p + x.2 + x.1 ≤ a) → memByte (zeroedRanges u p (y :: rs)) a = _ at hframe
    refine ⟨fun x hx k hk => ?_, fun a ha => ?_⟩
    · rcases List.mem_cons.mp hx with rfl | hx
      · by_cases hlater : ∃ z ∈ rs, brineBase p + z.2 ≤ brineBase p + x.2 + k ∧ brineBase p + x.2 + k < brineBase p + z.2 + z.1
        · obtain ⟨z, hz, hlo, hhi⟩ := hlater
          have hin := hzero z hz (brineBase p + x.2 + k - (brineBase p + z.2)) (by omega)
          rwa [Nat.add_sub_cancel' hlo] at hin
        · simp only [not_exists, not_and, not_lt] at hlater
          rw [hframe _ (fun z hz => by have hz' := hlater z hz; omega), hbyte, if_pos (by omega)]
      · exact hzero x hx k hk
    · have hy := ha y List.mem_cons_self
      rw [hframe a (fun x hx => ha x (List.mem_cons_of_mem _ hx)), hbyte, if_neg (by omega)]

end Sys2Proof.FreshHeader
end

section
/-!
PROOFS. AGENT_ADMIT (R197): the owner it chooses, its checks, and the header, directories and brine of the agent it leaves. -/

namespace Sys2Proof.Admission

open Sys2Proof.Machine Sys2Proof.Safety Sys2Proof.Laws Sys2Proof.Frames Sys2Proof.Boxes Sys2Proof.Plans Sys2Proof.AgentMemory
  Sys2Proof.Grants Sys2Proof.AgentChecks Sys2Proof.AgentEffects Sys2Proof.FreshHeader

/-! ### The owner (R197) -/

/-- The element of the smallest count, the first of those, that a search through rising elements ends with. -/
theorem least_of_foldl (f : Nat → Nat) (r : List Nat) : ∀ {a : Nat}, (a :: r).Pairwise (· < ·) →
    let b := r.foldl (fun b p => if f p < f b then p else b) a
    b ∈ a :: r ∧ ∀ q ∈ a :: r, f b ≤ f q ∧ (f q = f b → b ≤ q) := by
  induction r with
  | nil => exact fun _ => ⟨List.mem_cons_self, by simp⟩
  | cons p r ih =>
    intro a hsorted
    obtain ⟨hfirst, hrest⟩ := List.pairwise_cons.mp hsorted
    have hap : a < p := hfirst p List.mem_cons_self
    rw [List.foldl_cons]
    by_cases hless : f p < f a
    · rw [if_pos hless]
      obtain ⟨hmem, hleast⟩ := ih hrest
      refine ⟨List.mem_cons_of_mem _ hmem, fun q hq => ?_⟩
      rcases List.mem_cons.mp hq with rfl | hq
      · have hp := (hleast p List.mem_cons_self).1
        exact ⟨by omega, by omega⟩
      · exact hleast q hq
    · rw [if_neg hless]
      obtain ⟨hmem, hleast⟩ := ih (List.pairwise_cons.mpr
        ⟨fun q hq => hfirst q (List.mem_cons_of_mem _ hq), (List.pairwise_cons.mp hrest).2⟩)
      refine ⟨?_, fun q hq => ?_⟩
      · rcases List.mem_cons.mp hmem with heq | hin
        · rw [heq]
          exact List.mem_cons_self
        · exact List.mem_cons_of_mem _ (List.mem_cons_of_mem _ hin)
      · rcases List.mem_cons.mp hq with rfl | hq
        · exact hleast q List.mem_cons_self
        · rcases List.mem_cons.mp hq with rfl | hq
          · have ha := hleast a List.mem_cons_self
            exact ⟨by omega, by omega⟩
          · exact hleast q (List.mem_cons_of_mem _ hq)

/-- A pan the salter may choose. -/
def Eligible (s : State) (p : Nat) : Prop := p < s.cfg.variant.pans ∧ s.onlinePan p = true ∧ (s.pan p).held = false

/-- The pan the salter chooses: no other owns fewer agents, and it is the lowest of those that own as few. -/
def Fewest (s : State) (p : Nat) : Prop :=
  Eligible s p ∧ ∀ q, Eligible s q → ownedCount s p ≤ ownedCount s q ∧ (ownedCount s q = ownedCount s p → p ≤ q)

/-- The owner that the request names or leaves to the salter, as the statement has it. -/
def Owns (s : State) (owner p : Nat) : Prop := (owner ≠ 0xFFFF ∧ p = owner ∧ s.onlinePan p = true)
  ∨ (owner = 0xFFFF ∧ Fewest s p)

theorem choosePan_spec (s : State) : (choosePan s = none ∧ ∀ p, ¬ Eligible s p)
    ∨ ∃ b, choosePan s = some b ∧ Fewest s b := by
  have hmem (p : Nat) : p ∈ (List.range s.cfg.variant.pans).filter (fun p => s.onlinePan p && !(s.pan p).held) ↔ Eligible s p := by
    simp [Eligible]
  have hsorted : ((List.range s.cfg.variant.pans).filter (fun p => s.onlinePan p && !(s.pan p).held)).Pairwise (· < ·) :=
    List.pairwise_lt_range.filter _
  rw [choosePan]
  generalize (List.range s.cfg.variant.pans).filter (fun p => s.onlinePan p && !(s.pan p).held) = pans at hmem hsorted
  cases pans with
  | nil => exact .inl ⟨rfl, fun p hp => by simpa using (hmem p).mpr hp⟩
  | cons a r =>
    obtain ⟨hin, hleast⟩ := least_of_foldl (ownedCount s) r hsorted
    exact .inr ⟨_, rfl, (hmem _).mp hin, fun q hq => hleast q ((hmem q).mpr hq)⟩

theorem admitOwner_of_owns {s : State} {owner p : Nat} (h : Owns s owner p) : admitOwner s owner = some p := by
  rcases h with ⟨hnamed, rfl, honline⟩ | ⟨hnone, helig, hleast⟩
  · rw [admitOwner, if_neg hnamed, if_pos honline]
  · rw [admitOwner, if_pos hnone]
    rcases choosePan_spec s with ⟨-, hnot⟩ | ⟨b, hchoose, hb, hbleast⟩
    · exact absurd helig (hnot p)
    · have hpb := hleast b hb
      have hbp := hbleast p helig
      rw [hchoose, show b = p by omega]

theorem admitOwner_eq_none {s : State} {owner : Nat} (h : ∀ p, ¬ Owns s owner p) : admitOwner s owner = none := by
  rw [admitOwner]
  split
  case isTrue hnone =>
    rcases choosePan_spec s with ⟨hchoose, -⟩ | ⟨b, -, hb, hleast⟩
    · exact hchoose
    · exact absurd (.inr ⟨hnone, hb, hleast⟩) (h b)
  case isFalse hnamed =>
    exact if_neg (fun honline => h owner (.inl ⟨hnamed, rfl, honline⟩))

theorem lt_of_owns {s : State} {owner p : Nat} (howner : owner = 0xFFFF ∨ owner < 20) (h : Owns s owner p) : p < 20 := by
  rcases h with ⟨hnamed, rfl, -⟩ | ⟨-, ⟨hlt, -⟩, -⟩
  · exact howner.resolve_left hnamed
  · have hpans : s.cfg.variant.pans ≤ 20 := by cases s.cfg.variant <;> decide
    omega

/-! ### The checks -/

/-- The streams of a request, each with its entry's bytes, its positions and its pages. -/
abbrev askedStreams (b : Mailbox) : List StreamAsk := (admitStreams b).map (admitRec b)

/-- Directory words of all streams of a request. -/
abbrev askedWords (b : Mailbox) : Nat := (askedStreams b).foldl (fun n x => n + dirLen x.1 x.2.1) 0

/-- Pages of all streams of a request. -/
abbrev askedPages (b : Mailbox) : Nat := (askedStreams b).foldl (fun n x => n + x.2.2) 0

/-- The brine that an admission grants: the header, the state area and the pages. -/
abbrev admitWant (units pages : Nat) : List (Nat × Nat) :=
  (kib64, kib64) :: (units * kib64, kib64) :: List.replicate pages (pageSize, pageSize)

/-- Where the header says that the state area lies; free where there is none. -/
def stateOffset (u : State) (units : Nat) (offs : List Nat) : Nat := if units = 0 then u.draw 2500 % 2 ^ 20 else offs.getD 1 0 / kib64

/-- The agent admitted: its brine zeroed, its header and directories written, its directory word set. -/
def admitted (s1 : State) (id streams p off units pages : Nat) (recs : List StreamAsk) (offs : List Nat) : State :=
  let h := brineBase p + offs.getD 0 0
  let s2 := zeroedRanges s1 p (((admitWant units pages).map Prod.fst).zip offs)
  let s3 := cachelessWrite s2 h (freshLine id streams p off units pages)
  let s4 := writeStreams s3 h 0x1000 0 ((offs.drop 2).map (fun o => o / pageSize)) recs
  s4.setAgentDir id { valid := true, st := aResident, owner := p, loc := (h - brineBase p) / kib64 }

section
variable {u : State} {box : Nat} {b : Mailbox} {id owner units : Nat} (hid : b.field 0 4 = id) (hnamed : b.field 4 2 = owner)
include hnamed

theorem admitBody_notPresent (hone : owner ≠ 0xFFFF) (h : u.cfg.variant.pans ≤ owner) : admitBody box b u = .error (stNotPresent, 0) := by
  have hnone : (decide (owner = 0xFFFF) || decide (owner < u.cfg.variant.pans)) = false := by simp [hone, h]
  rw [admitBody, hnamed, hnone, need_false_bind]

variable (howner : owner = 0xFFFF ∨ owner < u.cfg.variant.pans)
include hid howner

theorem admitBody_busy (h : agentBusy u id = true ∨ (owner ≠ 0xFFFF ∧ panBusy u owner = true)) :
    admitBody box b u = .error (stBusyRetry, 0) := by
  have howner' : (decide (owner = 0xFFFF) || decide (owner < u.cfg.variant.pans)) = true := by simpa using howner
  have hbusy : (agentBusy u id || (decide (owner ≠ 0xFFFF) && panBusy u owner)) = true := by simpa using h
  rw [admitBody, hid, hnamed, howner', need_true_bind, hbusy, Bool.not_true, need_false_bind]

variable (hidle : ¬ (agentBusy u id = true ∨ (owner ≠ 0xFFFF ∧ panBusy u owner = true)))
include hidle

theorem admitBody_exists (h : (u.agentDir id).valid = true) : admitBody box b u = .error (stBadArgument, 0) := by
  have howner' : (decide (owner = 0xFFFF) || decide (owner < u.cfg.variant.pans)) = true := by simpa using howner
  have hidle' : (agentBusy u id || (decide (owner ≠ 0xFFFF) && panBusy u owner)) = false := Bool.eq_false_iff.mpr (by simpa using hidle)
  rw [admitBody, hid, hnamed, howner', need_true_bind, hidle', Bool.not_false, need_true_bind, h, Bool.not_true, need_false_bind]

variable (hnew : (u.agentDir id).valid = false)
include hnew

/-- The part of AGENT_ADMIT behind the checks of the agent and the pan. -/
theorem admitBody_new : admitBody box b u = (do
    need (decide (askedWords b ≤ 15360)) stNoFit 0
    match admitOwner u owner with
    | none => refuse stWrongState
    | some p =>
      if freeBrine u p < kib64 + b.field 8 4 * kib64 + askedPages b * pageSize then refuse stNoFit else
      match grantAll u p 0 (admitWant (b.field 8 4) (askedPages b)) with
      | none => refuse stNoFit
      | some (s1, offs) => .ok (handBack (admitted s1 id (b.field 6 1) p (stateOffset u (b.field 8 4) offs) (b.field 8 4)
          (askedPages b) (askedStreams b) offs) box stOk (ownerResp p (brineBase p + offs.getD 0 0)))) := by
  have howner' : (decide (owner = 0xFFFF) || decide (owner < u.cfg.variant.pans)) = true := by simpa using howner
  have hidle' : (agentBusy u id || (decide (owner ≠ 0xFFFF) && panBusy u owner)) = false := Bool.eq_false_iff.mpr (by simpa using hidle)
  rw [admitBody, hid, hnamed, howner', need_true_bind, hidle', Bool.not_false, need_true_bind, hnew, Bool.not_false, need_true_bind]
  rw [show (admitStreams b).map (admitRec b) = askedStreams b from rfl,
    show (askedStreams b).foldl (fun n x => n + dirLen x.1 x.2.1) 0 = askedWords b from rfl,
    show (askedStreams b).foldl (fun n x => n + x.2.2) 0 = askedPages b from rfl]
  generalize need (decide (askedWords b ≤ 15360)) stNoFit 0 = checked
  refine congrArg (checked >>= ·) (funext fun _ => ?_)
  cases admitOwner u owner with
  | none => rfl
  | some p =>
    by_cases hfree : freeBrine u p < kib64 + b.field 8 4 * kib64 + askedPages b * pageSize
    · exact (if_pos hfree).trans (if_pos hfree).symm
    · refine (if_neg hfree).trans (.trans ?_ (if_neg hfree).symm)
      cases grantAll u p 0 (admitWant (b.field 8 4) (askedPages b)) with
      | none => rfl
      | some g => rfl

theorem admitBody_wordsNoFit (h : 15360 < askedWords b) : admitBody box b u = .error (stNoFit, 0) := by
  rw [admitBody_new hid hnamed howner hidle hnew, decide_eq_false (Nat.not_le.mpr h), need_false_bind]

variable (hwords : askedWords b ≤ 15360)
include hwords

theorem admitBody_noOwner (h : admitOwner u owner = none) : admitBody box b u = .error (stWrongState, 0) := by
  rw [admitBody_new hid hnamed howner hidle hnew, decide_eq_true hwords, need_true_bind, h]
  rfl

variable {p : Nat} (hp : admitOwner u owner = some p) (hunits : b.field 8 4 = units)
include hp hunits

theorem admitBody_brineNoFit (h : freeBrine u p < kib64 + units * kib64 + askedPages b * pageSize) :
    admitBody box b u = .error (stNoFit, 0) := by
  rw [admitBody_new hid hnamed howner hidle hnew, decide_eq_true hwords, need_true_bind, hp, hunits]
  exact if_pos h

variable (hfree : ¬ freeBrine u p < kib64 + units * kib64 + askedPages b * pageSize)
include hfree

theorem admitBody_placeNoFit (h : grantAll u p 0 (admitWant units (askedPages b)) = none) : admitBody box b u = .error (stNoFit, 0) := by
  rw [admitBody_new hid hnamed howner hidle hnew, decide_eq_true hwords, need_true_bind, hp, hunits]
  refine (if_neg hfree).trans ?_
  rw [h]
  rfl

theorem admitBody_admits {s1 : State} {offs : List Nat} (h : grantAll u p 0 (admitWant units (askedPages b)) = some (s1, offs)) :
    admitBody box b u = .ok (handBack (admitted s1 id (b.field 6 1) p (stateOffset u units offs) units (askedPages b) (askedStreams b) offs)
      box stOk (ownerResp p (brineBase p + offs.getD 0 0))) := by
  rw [admitBody_new hid hnamed howner hidle hnew, decide_eq_true hwords, need_true_bind, hp, hunits]
  refine (if_neg hfree).trans ?_
  rw [h]

end

/-! ### What an admission leaves -/

theorem brineWork_admitted (s1 : State) (id streams p off units pages : Nat) (recs : List StreamAsk) (offs : List Nat) :
    BrineWork s1 (admitted s1 id streams p off units pages recs offs) :=
  (((brineWork_zeroedRanges s1 p _).trans (BrineWork.cachelessWrite _ _ _)).trans (brineWork_writeStreams recs _ _ _ _ _)).trans
    (BrineWork.setAgentDir _ id _)

theorem memoryOnly_writeStreams (recs : List StreamAsk) : ∀ (u : State) (h doff i : Nat) (pages : List Nat),
    MemoryOnly u (writeStreams u h doff i pages recs) := by
  induction recs with
  | nil => exact fun u _ _ _ _ => MemoryOnly.refl u
  | cons x recs ih =>
    intro u h doff i pages
    rw [writeStreams_cons]
    exact (ih _ _ _ _ _).after ((MemoryOnly.cachelessWrite _ _ _).after (MemoryOnly.cachelessWrite u _ _))

theorem pan_admitted (s1 : State) (id streams p off units pages : Nat) (recs : List StreamAsk) (offs : List Nat) (q : Nat) :
    (admitted s1 id streams p off units pages recs offs).pan q = s1.pan q :=
  pan_of_memoryOnly ((((MemoryOnly.foldl (fun t _ => MemoryOnly.zeroRange t _ _) _ s1).trans (MemoryOnly.cachelessWrite _ _ _)).trans
    (memoryOnly_writeStreams recs _ _ _ _ _)).trans (MemoryOnly.cachelessWrite _ _ _)) q

end Sys2Proof.Admission
end

section
/-!
PROOFS. The memory that AGENT_ADMIT leaves (R172 to R175, R197): the header's fields, each stream's record and words, zeros, and the rest
as before. -/

namespace Sys2Proof.AdmissionMemory

open Sys2Proof.Machine Sys2Proof.Safety Sys2Proof.Laws Sys2Proof.Frames Sys2Proof.Boxes Sys2Proof.Plans Sys2Proof.AgentMemory
  Sys2Proof.Grants Sys2Proof.AgentChecks Sys2Proof.AgentEffects Sys2Proof.FreshHeader Sys2Proof.Admission

/-! ### The sums of a request -/

theorem foldl_add_eq_sum (f : StreamAsk → Nat) (recs : List StreamAsk) : recs.foldl (fun n x => n + f x) 0 = (recs.map f).sum := by
  rw [List.sum_eq_foldl, List.foldl_map]

theorem wordsBefore_range (f : Nat → StreamAsk) {n i : Nat} (hi : i ≤ n) :
    wordsBefore ((List.range n).map f) i = ((List.range i).map (fun j => wordsAsked (f j))).sum := by
  rw [wordsBefore, ← List.map_take, List.take_range, Nat.min_eq_left hi, List.map_map]
  rfl

theorem pagesBefore_range (f : Nat → StreamAsk) {n i : Nat} (hi : i ≤ n) :
    pagesBefore ((List.range n).map f) i = ((List.range i).map (fun j => (f j).2.2)).sum := by
  rw [pagesBefore, ← List.map_take, List.take_range, Nat.min_eq_left hi, List.map_map]
  rfl

/-- The words of a stream end within the words of all. -/
theorem wordsBefore_add_le (recs : List StreamAsk) : ∀ {j : Nat} {x : StreamAsk}, recs[j]? = some x →
    wordsBefore recs j + wordsAsked x ≤ wordsBefore recs recs.length := by
  induction recs with
  | nil => intro j x h; simp at h
  | cons y recs ih =>
    intro j x h
    rw [List.length_cons, wordsBefore_cons]
    cases j with
    | zero =>
      obtain rfl : y = x := by simpa using h
      exact (Nat.zero_add _).trans_le (Nat.le_add_right _ _)
    | succ j =>
      have hrest := ih (by simpa using h : recs[j]? = some x)
      rw [wordsBefore_cons]
      omega

/-! ### The grant -/

/-- What the checks of AGENT_ADMIT say of a request's streams. -/
structure RequestFits (recs : List StreamAsk) (pages : Nat) : Prop where
  few : recs.length ≤ 32
  each : ∀ x ∈ recs, x.2.2 ≤ wordsAsked x
  words : wordsBefore recs recs.length ≤ 15360
  pages : (recs.map (fun x => x.2.2)).sum = pages

theorem admitWant_aligned {units pages : Nat} {w : Nat × Nat} (hw : w ∈ admitWant units pages) : w.1 % 64 = 0 ∧ w.2 % 64 = 0 := by
  have hkib : kib64 = 65536 := rfl
  rcases List.mem_cons.mp hw with rfl | hw
  · exact ⟨rfl, rfl⟩
  · rcases List.mem_cons.mp hw with rfl | hw
    · dsimp only
      rw [hkib]
      omega
    · rw [List.eq_of_mem_replicate hw]
      exact ⟨rfl, rfl⟩

section
variable {u s1 : State} {p units pages : Nat} {offs : List Nat} (hgrant : Granted u p (admitWant units pages) s1 offs)
include hgrant

theorem length_offs : offs.length = pages + 2 := by
  rw [hgrant.length]
  simp

/-- The header is the first range granted. -/
theorem grantedRanges_admitWant :
    grantedRanges (admitWant units pages) offs = (kib64, offs.getD 0 0) :: (grantedRanges (admitWant units pages) offs).drop 1 := by
  have hlen := length_offs hgrant
  cases offs with
  | nil => simp at hlen
  | cons o offs => rw [grantedRanges_cons (by decide)]; rfl

/-- Every range granted lies within the populated brine, the others apart from the header. -/
theorem granted_apart : (offs.getD 0 0 + kib64 ≤ brineSize) ∧ ∀ x ∈ (grantedRanges (admitWant units pages) offs).drop 1,
    x.2 + x.1 ≤ brineSize ∧ Apart (kib64, offs.getD 0 0) x := by
  have hranges := grantedRanges_admitWant hgrant
  have hfits (x : Nat × Nat) (hx : x ∈ grantedRanges (admitWant units pages) offs) : x.2 + x.1 ≤ brineSize :=
    (hgrant.fits x hx).1.trans (brineLimit_le u p)
  have hapart := hgrant.apart
  rw [hranges] at hapart
  exact ⟨hfits (kib64, offs.getD 0 0) (hranges ▸ List.mem_cons_self), fun x hx =>
    ⟨hfits x (List.mem_of_mem_drop hx), (List.pairwise_cons.mp hapart).1 x hx⟩⟩

theorem zip_aligned : ∀ x ∈ ((admitWant units pages).map Prod.fst).zip offs, x.1 % 64 = 0 ∧ x.2 % 64 = 0 := by
  intro x hx
  obtain ⟨hlen, hoff⟩ := List.of_mem_zip (a := x.1) (b := x.2) hx
  obtain ⟨w, hw, heq⟩ := List.mem_map.mp hlen
  rw [← heq]
  exact ⟨(admitWant_aligned hw).1, hgrant.aligned (fun w hw => (admitWant_aligned hw).2) x.2 hoff⟩

/-- The granted ranges zeroed, every other byte as before. -/
theorem zeroed_grant (hhome : AllHome u) : let t := zeroedRanges s1 p (((admitWant units pages).map Prod.fst).zip offs)
    (∀ x ∈ grantedRanges (admitWant units pages) offs, ∀ k, k < x.1 → memByte t (brineBase p + x.2 + k) = 0)
      ∧ ∀ a, (∀ x ∈ grantedRanges (admitWant units pages) offs, a < brineBase p + x.2 ∨ brineBase p + x.2 + x.1 ≤ a) →
          memByte t a = memByte u a := by
  obtain ⟨hzero, hframe⟩ := zeroedRanges_effect p _ (hgrant.brineWork.home hhome) (zip_aligned hgrant)
  refine ⟨fun x hx => hzero x (List.mem_of_mem_filter hx), fun a ha => (hframe a (fun x hx => ?_)).trans (hgrant.memByte a)⟩
  by_cases hnone : x.1 = 0
  · omega
  · exact ha x (List.mem_filter.mpr ⟨hx, by simpa using hnone⟩)

end

/-! ### The header laid out -/

/-- The agent's brine zeroed and its header written, its directory word not yet set. -/
def laidOut (s1 : State) (id streams p off units pages : Nat) (recs : List StreamAsk) (offs : List Nat) : State :=
  let h := brineBase p + offs.getD 0 0
  let s2 := zeroedRanges s1 p (((admitWant units pages).map Prod.fst).zip offs)
  writeStreams (cachelessWrite s2 h (freshLine id streams p off units pages)) h 0x1000 0 ((offs.drop 2).map (fun o => o / pageSize)) recs

/-- What t holds of a fresh agent's header at h: its commit line, its streams' records, and the words of the pages given, the others zero. -/
structure HeaderLaid (t : State) (h : Nat) (line : List Byte) (pages : List Nat) (recs : List StreamAsk) : Prop where
  line : ∀ i, i < 64 → memByte t (h + i) = line.getD i 0
  record : ∀ j x, recs[j]? = some x → ∀ o, o < 24 →
    memByte t (streamPa h j + o) = (recordBytes x.1 (0x1000 + 4 * wordsBefore recs j) (wordsAsked x)).getD o 0
  word : ∀ j x, recs[j]? = some x → ∀ k, k < x.2.2 → ∀ o, o < 4 →
    memByte t (h + 0x1000 + 4 * (wordsBefore recs j + k) + o) = (leBytes 4 (pages.getD (pagesBefore recs j + k) 0 + 2 ^ 30)).getD o 0
  room : ∀ j x, recs[j]? = some x → ∀ k, x.2.2 ≤ k → k < wordsAsked x → ∀ o, o < 4 →
    memByte t (h + 0x1000 + 4 * (wordsBefore recs j + k) + o) = 0

/-- The header's bytes decide what is laid out there. -/
theorem HeaderLaid.congr {t v : State} {h n : Nat} {line : List Byte} {pages : List Nat} {recs : List StreamAsk}
    (hlaid : HeaderLaid t h line pages recs) (hfits : RequestFits recs n)
    (hbyte : ∀ a, h ≤ a → a < h + 65536 → memByte v a = memByte t a) : HeaderLaid v h line pages recs := by
  obtain ⟨hfew, hfit, hwords, -⟩ := hfits
  obtain ⟨hline, hrecord, hword, hroom⟩ := hlaid
  refine ⟨fun i hi => ?_, fun j x hj o ho => ?_, fun j x hj k hk o ho => ?_, fun j x hj k hk hlen o ho => ?_⟩
  · rw [hbyte _ (by omega) (by omega), hline i hi]
  · have hlt : j < recs.length := (List.getElem?_eq_some_iff.mp hj).1
    rw [hbyte _ (by rw [streamPa]; omega) (by rw [streamPa]; omega), hrecord j x hj o ho]
  · have hend := wordsBefore_add_le recs hj
    have hx := hfit x (List.mem_of_getElem? hj)
    rw [hbyte _ (by omega) (by omega), hword j x hj k hk o ho]
  · have hend := wordsBefore_add_le recs hj
    rw [hbyte _ (by omega) (by omega), hroom j x hj k hk hlen o ho]

section
variable {u s1 : State} {id streams p off units pages : Nat} {recs : List StreamAsk} {offs : List Nat}
  (hgrant : Granted u p (admitWant units pages) s1 offs) (hhome : AllHome u) (hfits : RequestFits recs pages)
include hgrant hhome hfits

theorem laidOut_effect : let t := laidOut s1 id streams p off units pages recs offs
    let h := brineBase p + offs.getD 0 0
    let ranges := grantedRanges (admitWant units pages) offs
    HeaderLaid t h (freshLine id streams p off units pages) ((offs.drop 2).map (fun o => o / pageSize)) recs
      ∧ (∀ x ∈ ranges.drop 1, ∀ k, k < x.1 → memByte t (brineBase p + x.2 + k) = 0)
      ∧ ∀ a, (∀ x ∈ ranges, a < brineBase p + x.2 ∨ brineBase p + x.2 + x.1 ≤ a) → memByte t a = memByte u a := by
  intro t h ranges
  obtain ⟨hfew, heach, hwords, hpages⟩ := hfits
  obtain ⟨hzero, hframe⟩ := zeroed_grant hgrant hhome
  have hranges : ranges = (kib64, offs.getD 0 0) :: ranges.drop 1 := grantedRanges_admitWant hgrant
  have hheader : (kib64, offs.getD 0 0) ∈ ranges := hranges ▸ List.mem_cons_self
  have hkib : kib64 = 65536 := rfl
  have hhome2 : AllHome (zeroedRanges s1 p (((admitWant units pages).map Prod.fst).zip offs)) :=
    (brineWork_zeroedRanges s1 p _).home (hgrant.brineWork.home hhome)
  obtain ⟨hkept, hrecord, hword, hroom⟩ := writeStreams_effect (h := h) recs (doff := 0x1000) (i := 0)
    (pages := (offs.drop 2).map (fun o => o / pageSize)) (allHome_cachelessWrite hhome2 h (freshLine id streams p off units pages))
    (by omega) heach (by rw [List.length_map, List.length_drop, length_offs hgrant]; omega)
  have hline {a : Nat} (ha : a < h ∨ h + 64 ≤ a) :
      memByte (cachelessWrite (zeroedRanges s1 p (((admitWant units pages).map Prod.fst).zip offs)) h (freshLine id streams p off units pages)) a
        = memByte (zeroedRanges s1 p (((admitWant units pages).map Prod.fst).zip offs)) a :=
    memByte_cachelessWrite_outside hhome2 (by rw [length_freshLine]; exact ha)
  have hfirst : streamPa h 0 = h + 256 := rfl
  have hlast : streamPa h (0 + recs.length) ≤ h + 0x1000 := by rw [streamPa]; omega
  have houtside {a : Nat} (ha : a < h ∨ h + 65536 ≤ a) :
      memByte t a = memByte (zeroedRanges s1 p (((admitWant units pages).map Prod.fst).zip offs)) a :=
    (hkept a (by omega) (by omega)).trans (hline (by omega))
  refine ⟨⟨fun i hi => ?_, fun j x hj o ho => ?_, hword, fun j x hj k hk hlen o ho => ?_⟩, fun x hx k hk => ?_, fun a ha => ?_⟩
  · exact (hkept (h + i) (by omega) (by omega)).trans (memByte_cachelessWrite_inside hhome2 (by rw [length_freshLine]; exact hi))
  · have hrec := hrecord j x hj o ho
    rwa [Nat.zero_add] at hrec
  · have hend := wordsBefore_add_le recs hj
    have hz := hzero _ hheader (0x1000 + 4 * (wordsBefore recs j + k) + o) (by omega)
    refine (hroom j x hj k hk hlen o ho).trans ((hline (by omega)).trans ?_)
    rw [← hz]
    congr 1
    simp only [h]
    omega
  · have hapart := ((granted_apart hgrant).2 x hx).2
    simp only [Apart] at hapart
    exact (houtside (by simp only [h]; omega)).trans (hzero x (List.mem_of_mem_drop hx) k hk)
  · have hout := ha _ hheader
    exact (houtside (by simp only [h]; omega)).trans (hframe a ha)

end

/-! ### The header read -/

section
variable {t : State} {h id streams owner off units granted : Nat} {pages : List Nat} {recs : List StreamAsk} (hhome : AllHome t)
  (hlaid : HeaderLaid t h (freshLine id streams owner off units granted) pages recs)
include hhome hlaid

theorem field_of_headerLaid {o n : Nat} (hin : o + n ≤ 64) :
    t.cohNat (h + o) n = leField (freshLine id streams owner off units granted) o n :=
  cohNat_eq_leField hhome hin (fun i hi => by rw [Nat.add_assoc, hlaid.line _ (by omega)])

/-- The commit line's fields (R173). -/
theorem commitLine_of_headerLaid (hid : id ≤ 262143) (hstreams : streams ≤ 32) (hunits : units ≤ 16384) (hgranted : granted ≤ 15360) :
    wordAt (memByte t) h 4 = id ∧ memByte t (h + 4) = 0 ∧ memByte t (h + 7) = BitVec.ofNat 8 owner ∧ hStreams t h = streams
      ∧ hGen t h = 0 ∧ hC t h = 0 ∧ hUsed t h = 0 ∧ hGranted t h = granted ∧ hStateUnits t h = units
      ∧ hStateOff t h = off % 256 ^ 4 := by
  obtain ⟨hidf, -, hstreamsf, hgen, hc, hoff, hunitsf, hused, hgrantedf⟩ := freshLine_fields id streams owner off units granted
  have hread {o n : Nat} (hin : o + n ≤ 64) := field_of_headerLaid hhome hlaid hin
  refine ⟨?_, hlaid.line 4 (by decide), hlaid.line 7 (by decide), ?_, ?_, ?_, ?_, ?_, ?_, ?_⟩
  · rw [← cohNat_of_allHome hhome]
    exact (hread (o := 0) (n := 4) (by decide)).trans (hidf.trans (Nat.mod_eq_of_lt (by omega)))
  · rw [hStreams, hread (by decide), hstreamsf]
    exact Nat.mod_eq_of_lt (by omega)
  · rw [hGen, hread (by decide), hgen]
  · rw [hC, hread (by decide), hc, Nat.zero_mod]
  · rw [hUsed, hread (by decide), hused]
  · rw [hGranted, hread (by decide), hgrantedf]
    exact Nat.mod_eq_of_lt (by omega)
  · rw [hStateUnits, hread (by decide), hunitsf]
    exact Nat.mod_eq_of_lt (by omega)
  · rw [hStateOff, hread (by decide), hoff]

variable {j : Nat} {x : StreamAsk} (hj : recs[j]? = some x)
include hj

/-- A stream's record (R174). -/
theorem streamRec_of_headerLaid (hentry : x.1 ≤ 16384) (hend : wordsBefore recs recs.length ≤ 15360) :
    streamRec t h j = { entry := x.1, perPage := 262144 / x.1, fill := 0, off := 0x1000 + 4 * wordsBefore recs j, len := wordsAsked x } := by
  have hwords := wordsBefore_add_le recs hj
  obtain ⟨hentryf, hpagef, hfillf, hofff, hlenf⟩ := recordBytes_fields x.1 (0x1000 + 4 * wordsBefore recs j) (wordsAsked x)
  have hread {o n : Nat} (hin : o + n ≤ 24) :
      t.cohNat (streamPa h j + o) n = leField (recordBytes x.1 (0x1000 + 4 * wordsBefore recs j) (wordsAsked x)) o n :=
    cohNat_eq_leField hhome hin (fun i hi => by rw [Nat.add_assoc, hlaid.record j x hj _ (by omega)])
  have hpages : perPage x.1 ≤ 262144 := Nat.div_le_self _ _
  have hfirst := hread (o := 0) (n := 4) (by decide)
  rw [Nat.add_zero] at hfirst
  rw [streamRec, hfirst, hread (by decide), hread (by decide), hread (by decide), hread (by decide), hentryf, hpagef, hfillf, hofff, hlenf,
    Nat.mod_eq_of_lt (by omega : x.1 < 256 ^ 4), Nat.mod_eq_of_lt (by omega : perPage x.1 < 256 ^ 4),
    Nat.mod_eq_of_lt (by omega : 0x1000 + 4 * wordsBefore recs j < 256 ^ 4), Nat.mod_eq_of_lt (by omega : wordsAsked x < 256 ^ 4)]
  rfl

/-- A stream's directory words (R175). -/
theorem pageWord_of_headerLaid {r : StreamRec} (hoff : r.off = 0x1000 + 4 * wordsBefore recs j) {k : Nat} (hk : k < wordsAsked x)
    (hsmall : ∀ g ∈ pages, g < 2 ^ 30) : pageWord t h r k = if k < x.2.2 then pages.getD (pagesBefore recs j + k) 0 + 2 ^ 30 else 0 := by
  have hpa : wordPa h r k = h + 0x1000 + 4 * (wordsBefore recs j + k) := by
    rw [wordPa, hoff]
    omega
  rw [pageWord, hpa]
  split
  case isTrue hgiven =>
    have hpage : pages.getD (pagesBefore recs j + k) 0 < 2 ^ 30 := by
      rw [List.getD_eq_getElem?_getD]
      cases hget : pages[pagesBefore recs j + k]? with
      | none => exact by decide
      | some g => exact hsmall g (List.mem_of_getElem? hget)
    rw [cohNat_eq_leField (o := 0) (bs := leBytes 4 (pages.getD (pagesBefore recs j + k) 0 + 2 ^ 30)) hhome
      (by rw [Device.length_leBytes]) (fun i hi => by rw [hlaid.word j x hj k hgiven i hi, Nat.zero_add]), leField_leBytes]
    exact Nat.mod_eq_of_lt (by omega)
  case isFalse hnone =>
    exact cohNat_eq_zero hhome (fun i hi => hlaid.room j x hj k (by omega) hk i hi)

end

end Sys2Proof.AdmissionMemory
end

section
/-!
PROOFS. The agent that AGENT_ADMIT leaves (R197): its directory word, its brine and the rest of memory, and the command itself. -/

namespace Sys2Proof.AdmissionMemory

open Sys2Proof.Machine Sys2Proof.Safety Sys2Proof.Laws Sys2Proof.Frames Sys2Proof.Boxes Sys2Proof.Plans Sys2Proof.AgentMemory
  Sys2Proof.Grants Sys2Proof.AgentChecks Sys2Proof.AgentEffects Sys2Proof.FreshHeader Sys2Proof.Admission

/-! ### The directory word -/

/-- The directory words lie apart from a pan's brine. -/
def DirApart (s : State) (p : Nat) : Prop := s.salter.dirPa + 2 ^ 21 ≤ brineBase p ∨ brineBase p + brineSize ≤ s.salter.dirPa

theorem dirWordPa_apart {s : State} {p id : Nat} (h : DirApart s p) (hid : id ≤ 262143) :
    dirWordPa s id + 8 ≤ brineBase p ∨ brineBase p + brineSize ≤ dirWordPa s id := by
  rw [DirApart] at h
  rw [dirWordPa]
  omega

/-- The directory word of an agent admitted. -/
def admittedDir (p : Nat) (offs : List Nat) : AgentDir :=
  { valid := true, st := aResident, owner := p, loc := (brineBase p + offs.getD 0 0 - brineBase p) / kib64 }

theorem admitted_eq (s1 : State) (id streams p off units pages : Nat) (recs : List StreamAsk) (offs : List Nat) :
    admitted s1 id streams p off units pages recs offs
      = (laidOut s1 id streams p off units pages recs offs).setAgentDir id (admittedDir p offs) := rfl

theorem brineWork_laidOut (s1 : State) (id streams p off units pages : Nat) (recs : List StreamAsk) (offs : List Nat) :
    BrineWork s1 (laidOut s1 id streams p off units pages recs offs) :=
  ((brineWork_zeroedRanges s1 p _).trans (BrineWork.cachelessWrite _ _ _)).trans (brineWork_writeStreams recs _ _ _ _ _)

theorem dirPa_of_brineWork {u t : State} (h : BrineWork u t) : t.salter.dirPa = u.salter.dirPa := by
  rw [h.only.salter]

section
variable {u s1 : State} {id streams p off units pages : Nat} {recs : List StreamAsk} {offs : List Nat}
  (hgrant : Granted u p (admitWant units pages) s1 offs) (hhome : AllHome u)
include hgrant hhome

theorem allHome_laidOut : AllHome (laidOut s1 id streams p off units pages recs offs) :=
  (hgrant.brineWork.trans (brineWork_laidOut s1 id streams p off units pages recs offs)).home hhome

theorem agentDir_admitted (hp : p < 32) : (admitted s1 id streams p off units pages recs offs).agentDir id
    = { valid := true, st := 0, owner := p, loc := offs.getD 0 0 / 65536 } := by
  have hsize := (granted_apart hgrant).1
  have hkib : kib64 = 65536 := rfl
  simp only [brineSize, gib, hkib] at hsize
  have hloc : offs.getD 0 0 / 65536 % 2 ^ 25 = offs.getD 0 0 / 65536 := Nat.mod_eq_of_lt (by omega)
  have hst : (admittedDir p offs).st < 4 := Nat.zero_lt_succ 3
  rw [admitted_eq, agentDir_setAgentDir (allHome_laidOut hgrant hhome) id hst, admittedDir, Nat.add_sub_cancel_left, hkib]
  dsimp only
  rw [hloc, Nat.mod_eq_of_lt hp]
  rfl

/-- Every byte but those of the directory word is as laid out. -/
theorem memByte_admitted {a : Nat} (ha : a < dirWordPa u id ∨ dirWordPa u id + 8 ≤ a) :
    memByte (admitted s1 id streams p off units pages recs offs) a = memByte (laidOut s1 id streams p off units pages recs offs) a := by
  have hwork := hgrant.brineWork.trans (brineWork_laidOut s1 id streams p off units pages recs offs)
  have hpa := dirWordPa_congr (dirPa_of_brineWork hwork) id
  rw [admitted_eq, State.setAgentDir, memByte_cachelessWrite_outside (hwork.home hhome)]
  rw [hpa, Device.length_leBytes]
  exact ha

end

/-! ### The agent admitted -/

theorem length_ownerResp (p h : Nat) : (ownerResp p h).length = 16 := rfl

/-- The page numbers of a grant, behind its header and state area. -/
theorem getD_pageNumbers (offs : List Nat) (m : Nat) : ((offs.drop 2).map (fun o => o / pageSize)).getD m 0 = offs.getD (2 + m) 0 / 262144 := by
  rw [List.getD_eq_getElem?_getD, List.getElem?_map, List.getElem?_drop, List.getD_eq_getElem?_getD]
  cases offs[2 + m]? with
  | none => rfl
  | some o => rfl

/-- What an admission leaves, as the statement has it, its streams as a list. -/
theorem admit_clause {s s1 : State} {box id p units pages : Nat} {recs : List StreamAsk} {offs : List Nat}
    (hgrant : grantAll (popped s) p 0 (admitWant units pages) = some (s1, offs)) (hfits : RequestFits recs pages)
    (hentries : ∀ x ∈ recs, x.1 ≤ 16384) (hid : id ≤ 262143) (hp : p < 32) (hunits : units ≤ 16384) :
    let off (k : Nat) := offs.getD k 0
    let h := brineBase p + off 0
    let ranges := grantedRanges (admitWant units pages) offs
    let t := (handBack (admitted s1 id recs.length p (stateOffset (popped s) units offs) units pages recs offs) box stOk (ownerResp p h)).drawn
    Handed (leftBy s t) t box 0 0 false (leBytes 2 p ++ leBytes 6 0 ++ leBytes 8 h)
      ∧ (t.pan p).taken = (s.pan p).taken ++ ranges.map (fun x => (x.2, x.1)) ∧ (∀ q, q ≠ p → (t.pan q).taken = (s.pan q).taken)
      ∧ (∀ x ∈ ranges, x.2 + x.1 ≤ brineLimit s p ∧ ∀ y ∈ (s.pan p).taken, x.2 + x.1 ≤ y.1 ∨ y.1 + y.2 ≤ x.2)
      ∧ (AllHome s → DirApart s p →
          t.agentDir id = { valid := true, st := 0, owner := p, loc := off 0 / 65536 }
          ∧ wordAt (memByte t) h 4 = id ∧ memByte t (h + 4) = 0 ∧ memByte t (h + 7) = BitVec.ofNat 8 p
          ∧ hStreams t h = recs.length ∧ hGen t h = 0 ∧ hC t h = 0 ∧ hUsed t h = 0 ∧ hGranted t h = pages ∧ hStateUnits t h = units
          ∧ (units ≠ 0 → hStateOff t h = off 1 / 65536)
          ∧ (∀ i x, recs[i]? = some x →
              streamRec t h i = { entry := x.1, perPage := 262144 / x.1, fill := 0, off := 0x1000 + 4 * wordsBefore recs i, len := wordsAsked x }
              ∧ ∀ k, k < wordsAsked x →
                pageWord t h (streamRec t h i) k = if k < x.2.2 then off (2 + pagesBefore recs i + k) / 262144 + 2 ^ 30 else 0)
          ∧ (∀ x ∈ ranges.drop 1, ∀ k, k < x.1 → memByte t (brineBase p + x.2 + k) = 0)
          ∧ (∀ a, (∀ x ∈ ranges, a < brineBase p + x.2 ∨ brineBase p + x.2 + x.1 ≤ a) → a < dirWordPa s id ∨ dirWordPa s id + 8 ≤ a →
              memByte t a = memByte s a)) := by
  intro off h ranges t
  have hgranted := granted_of_grantAll _ hgrant
  have hwork := hgranted.brineWork.trans (brineWork_admitted s1 id recs.length p (stateOffset (popped s) units offs) units pages recs offs)
  have hhanded : WorkHanded s (admitted s1 id recs.length p (stateOffset (popped s) units offs) units pages recs offs) t box (ownerResp p h) :=
    workHanded hwork box (by rw [length_ownerResp]; decide)
  have hpan (q : Nat) : t.pan q = s1.pan q := (hhanded.pan q).trans (pan_admitted s1 id recs.length p _ units pages recs offs q)
  clear_value t
  refine ⟨hhanded.handed, ?_, fun q hq => ?_, hgranted.fits, fun hhome hdir => ?_⟩
  · rw [hpan, hgranted.taken]
    rfl
  · rw [hpan, hgranted.other q hq]
    rfl
  have hhomet : AllHome t := hhanded.home hhome
  have hlen := length_offs hgranted
  have hkib : kib64 = 65536 := rfl
  obtain ⟨hsize, hothers⟩ := granted_apart hgranted
  have hword := dirWordPa_apart hdir hid
  obtain ⟨hlaid, hzero, hframe⟩ := laidOut_effect (id := id) (streams := recs.length) (off := stateOffset (popped s) units offs)
    hgranted hhome hfits
  have hbyte {a : Nat} (ha : a < dirWordPa s id ∨ dirWordPa s id + 8 ≤ a) :
      memByte t a = memByte (laidOut s1 id recs.length p (stateOffset (popped s) units offs) units pages recs offs) a :=
    (hhanded.byte a).trans (memByte_admitted hgranted hhome ha)
  have hlaidt := hlaid.congr (v := t) hfits (fun a hlo hhi => hbyte (by omega))
  obtain ⟨hfew, heach, hwords, hpages⟩ := hfits
  have hgrantedPages : pages ≤ 15360 := by
    refine le_trans ?_ hwords
    rw [← hpages, wordsBefore, List.take_length]
    exact List.sum_le_sum heach
  have hsmall : ∀ g ∈ (offs.drop 2).map (fun o => o / pageSize), g < 2 ^ 30 := by
    intro g hg
    obtain ⟨o, ho, rfl⟩ := List.mem_map.mp hg
    have hlimit := (hgranted.below o (List.mem_of_mem_drop ho)).trans (brineLimit_le _ p)
    simp only [brineSize, gib] at hlimit
    simp only [pageSize]
    omega
  obtain ⟨hidf, hst, howner, hstreams, hgen, hc, hused, hgrantedf, hunitsf, hoff⟩ :=
    commitLine_of_headerLaid hhomet hlaidt hid hfew hunits hgrantedPages
  refine ⟨?_, hidf, hst, howner, hstreams, hgen, hc, hused, hgrantedf, hunitsf, fun hsome => ?_, fun i x hi => ?_, fun x hx k hk => ?_,
    fun a ha hapart => (hbyte hapart).trans (hframe a ha)⟩
  · have hdirs := dirWordPa_congr (dirPa_of_brineWork hwork) id
    have hread : t.agentDir id = (admitted s1 id recs.length p (stateOffset (popped s) units offs) units pages recs offs).agentDir id := by
      rw [agentDir_eq, agentDir_eq, hhanded.dir, hdirs]
      exact congrArg dirOf (cohNat_congr (hwork.home hhome) hhomet (fun i _ => hhanded.byte _))
    rw [hread, agentDir_admitted hgranted hhome hp]
  · have hlimit : offs.getD 1 0 ≤ brineSize := by
      rw [List.getD_eq_getElem _ _ (by omega)]
      exact (hgranted.below _ (List.getElem_mem _)).trans (brineLimit_le _ p)
    simp only [brineSize, gib] at hlimit
    rw [hoff, stateOffset, if_neg hsome, hkib]
    exact Nat.mod_eq_of_lt (by omega)
  · have hrec := streamRec_of_headerLaid hhomet hlaidt hi (hentries x (List.mem_of_getElem? hi)) hwords
    refine ⟨hrec, fun k hk => ?_⟩
    rw [pageWord_of_headerLaid hhomet hlaidt hi (congrArg StreamRec.off hrec) hk hsmall]
    rw [getD_pageNumbers, ← Nat.add_assoc]
  · have hin := (hothers x hx).1
    rw [hbyte (by omega)]
    exact hzero x hx k hk

end Sys2Proof.AdmissionMemory
end

section
/-!
PROOFS. AGENT_ADMIT (R197): its request's fields, and each outcome of the command. -/

namespace Sys2Proof.AgentAdmission

open Sys2Proof.Machine Sys2Proof.Safety Sys2Proof.Laws Sys2Proof.Boxes Sys2Proof.Plans Sys2Proof.AgentMemory
  Sys2Proof.Grants Sys2Proof.AgentChecks Sys2Proof.AgentEffects Sys2Proof.FreshHeader Sys2Proof.Admission Sys2Proof.AdmissionMemory

/-- An AGENT_ADMIT request whose fields lie in their ranges (R395), as the statement has it. -/
structure AdmitInRange (b : Mailbox) : Prop where
  id : b.field 0 4 ≤ 262143
  owner : b.field 4 2 = 0xFFFF ∨ b.field 4 2 < 20
  some : 1 ≤ b.field 6 1
  few : b.field 6 1 ≤ 32
  units : b.field 8 4 ≤ 16384
  stream : ∀ i, i < b.field 6 1 →
    b.field (0x10 + 16 * i) 4 % 64 = 0 ∧ 64 ≤ b.field (0x10 + 16 * i) 4 ∧ b.field (0x10 + 16 * i) 4 ≤ 16384
    ∧ b.field (0x18 + 16 * i) 4 ≤ wordsAsked (admitRec b i) ∧ b.field (0x1C + 16 * i) 4 = 0

theorem admitStreams_eq {b : Mailbox} (h : AdmitInRange b) : admitStreams b = List.range (b.field 6 1) := by
  rw [admitStreams, Nat.min_eq_right h.few]

theorem askedStreams_eq {b : Mailbox} (h : AdmitInRange b) : askedStreams b = (List.range (b.field 6 1)).map (admitRec b) := by
  rw [askedStreams, admitStreams_eq h]

theorem admitFields_hold {b : Mailbox} (h : AdmitInRange b) (h7 : b.field 7 1 = 0) (h12 : b.field 0xC 4 = 0) :
    ∀ f ∈ admitFields b, f.2 = true := by
  intro f hf
  rw [admitFields, admitStreams_eq h] at hf
  rcases List.mem_append.mp hf with hf | hf
  · simp only [List.mem_cons, List.not_mem_nil, or_false] at hf
    rcases hf with rfl | rfl | rfl | rfl | rfl | rfl
    · exact decide_eq_true h.id
    · simpa using h.owner
    · simpa using ⟨h.some, h.few⟩
    · exact decide_eq_true h7
    · exact decide_eq_true h.units
    · exact decide_eq_true h12
  · obtain ⟨i, hi, hf⟩ := List.mem_flatMap.mp hf
    obtain ⟨haligned, hlow, hhigh, hpages, hzero⟩ := h.stream i (List.mem_range.mp hi)
    have hentry : entryOk (admitRec b i).1 = true := by simp [entryOk, admitRec, haligned, hlow, hhigh]
    simp only [List.mem_cons, List.not_mem_nil, or_false] at hf
    rcases hf with rfl | rfl | rfl
    · exact hentry
    · exact Bool.or_eq_true_iff.mpr (.inr (decide_eq_true hpages))
    · exact decide_eq_true hzero

/-! ### The sums of a request -/

section
variable {b : Mailbox} (h : AdmitInRange b)
include h

theorem length_askedStreams : (askedStreams b).length = b.field 6 1 := by simp [askedStreams_eq h]

theorem askedStreams_get {i : Nat} (hi : i < b.field 6 1) : (askedStreams b)[i]? = some (admitRec b i) := by
  rw [askedStreams_eq h, List.getElem?_map, List.getElem?_range hi]
  rfl

theorem wordsBefore_asked {i : Nat} (hi : i ≤ b.field 6 1) :
    wordsBefore (askedStreams b) i = ((List.range i).map (fun j => wordsAsked (admitRec b j))).sum := by
  rw [askedStreams_eq h, wordsBefore_range _ hi]

theorem pagesBefore_asked {i : Nat} (hi : i ≤ b.field 6 1) :
    pagesBefore (askedStreams b) i = ((List.range i).map (fun j => b.field (0x18 + 16 * j) 4)).sum := by
  rw [askedStreams_eq h, pagesBefore_range _ hi]
  rfl

theorem askedWords_eq : askedWords b = ((List.range (b.field 6 1)).map (fun j => wordsAsked (admitRec b j))).sum := by
  have hsum := foldl_add_eq_sum wordsAsked (askedStreams b)
  rw [← wordsBefore_asked h le_rfl, wordsBefore, ← length_askedStreams h, List.take_length]
  exact hsum

theorem askedPages_eq : askedPages b = ((List.range (b.field 6 1)).map (fun j => b.field (0x18 + 16 * j) 4)).sum := by
  have hsum := foldl_add_eq_sum (fun x => x.2.2) (askedStreams b)
  rw [← pagesBefore_asked h le_rfl, pagesBefore, ← length_askedStreams h, List.take_length]
  exact hsum

theorem requestFits (hwords : askedWords b ≤ 15360) : RequestFits (askedStreams b) (askedPages b) where
  few := (length_askedStreams h).trans_le h.few
  each := by
    intro x hx
    rw [askedStreams_eq h] at hx
    obtain ⟨i, hi, rfl⟩ := List.mem_map.mp hx
    obtain ⟨-, -, -, hpages, -⟩ := h.stream i (List.mem_range.mp hi)
    exact hpages
  words := by rwa [length_askedStreams h, wordsBefore_asked h le_rfl, ← askedWords_eq h]
  pages := (foldl_add_eq_sum (fun x => x.2.2) (askedStreams b)).symm

theorem entry_le : ∀ x ∈ askedStreams b, x.1 ≤ 16384 := by
  intro x hx
  rw [askedStreams_eq h] at hx
  obtain ⟨i, hi, rfl⟩ := List.mem_map.mp hx
  obtain ⟨-, -, hentry, -, -⟩ := h.stream i (List.mem_range.mp hi)
  exact hentry

end

/-! ### The command -/

section
variable {s : State} {box : Nat} (hbox : box < 72) (hwhole : Whole s box 0x20 (0x10 + 16 * (s.box box).field 6 1) [(7, 1), (12, 4)])
  (hst : s.pkg.st ∈ [PkgState.ready, .serving, .maint]) (hrange : AdmitInRange (s.box box))
include hbox hwhole hst hrange

theorem passes_agentAdmit : Passes s box cmdAgentAdmit [] admitFields := by
  obtain ⟨hasked, hlength, hzero⟩ := hwhole
  have h7 : (s.box box).field 7 1 = 0 := field_of_zeros (hzero (7, 1) (by simp))
  have h12 : (s.box box).field 0xC 4 = 0 := field_of_zeros (hzero (12, 4) (by simp))
  exact ⟨hasked, source_of_lt _ hbox rfl, taken_patWork hst, lenIs_of hlength, by simp, admitFields_hold hrange h7 h12⟩

theorem agentAdmit_refused {status : Nat} (h : admitBody box (s.box box) (popped s) = .error (status, 0)) :
    Completes (.agentAdmit box) s (fun t => Refused s t box status 0) :=
  completes_refused rfl (passes_agentAdmit hbox hwhole hst hrange) h

theorem agentAdmit_done {t : State} {P : State → Prop} (h : admitBody box (s.box box) (popped s) = .ok t) (hP : P t.drawn) :
    Completes (.agentAdmit box) s P := completes_of_body rfl (passes_agentAdmit hbox hwhole hst hrange) h hP

end

end Sys2Proof.AgentAdmission
end

section
/-!
PROOFS. The agent commands together (R197 to R200): AGENT_PREFETCH, AGENT_ADVISE, and O54.
-/

namespace Sys2Proof.AgentCommands

open Sys2Proof.Machine Sys2Proof.Safety Sys2Proof.Laws Sys2Proof.Boxes Sys2Proof.Plans Sys2Proof.AgentMemory
  Sys2Proof.Grants Sys2Proof.AgentChecks Sys2Proof.AgentEffects Sys2Proof.FreshHeader Sys2Proof.Admission Sys2Proof.AdmissionMemory
  Sys2Proof.AgentAdmission

theorem hStateUnits_popped (s : State) (h : Nat) : hStateUnits (popped s) h = hStateUnits s h := rfl

theorem grantedWords_popped (s : State) (h : Nat) : grantedWords (popped s) h = grantedWords s h := rfl

theorem freeBrine_popped (s : State) (p : Nat) : freeBrine (popped s) p = freeBrine s p := rfl

/-- Rewritten and not unfolded: the kernel does not compare the ranges by evaluation. -/
theorem lpdRange_popped (s : State) (pa n : Nat) : lpdRange (popped s) pa n = lpdRange s pa n := by
  have hplace (a : Nat) : place (popped s) a = place s a := rfl
  simp only [lpdRange, hplace]

/-- AGENT_PREFETCH, as the statement has it. -/
theorem agentPrefetch_clauses (s : State) (box : Nat) (hbox : box < 72) (hwhole : Whole s box 0x22 8 [(6, 2)])
    (hst : s.pkg.st ∈ [PkgState.ready, .serving, .maint]) :
    let id := (s.box box).field 0 4
    let target := (s.box box).field 4 2
    let d := s.agentDir id
    let p := if target = 0xFFFF then d.owner else target
    let busy : Prop := agentBusy s id = true ∨ (target ≠ 0xFFFF ∧ panBusy s target = true)
    let need := 65536 + hStateUnits s d.header * 65536 + (grantedWords s d.header).length * 262144
    let does (P : State → Prop) : Prop := Completes (.agentPrefetch box) s P
    id ≤ 262143 →
    (target ≠ 0xFFFF → s.cfg.variant.pans ≤ target → does (fun t => Refused s t box 0x102 0))
    ∧ (target = 0xFFFF ∨ target < s.cfg.variant.pans →
        (busy → does (fun t => Refused s t box 0x200 0))
        ∧ (¬ busy → d.valid = false → does (fun t => Refused s t box 0x101 0))
        ∧ (¬ busy → d.valid = true → d.st ≠ 1 ∨ s.onlinePan p = false ∨ (target = 0xFFFF ∧ (s.pan p).held = true) →
            does (fun t => Refused s t box 0x103 0))
        ∧ (¬ busy → d.valid = true → d.st = 1 → s.onlinePan p = true → (target = 0xFFFF → (s.pan p).held = false) →
            (freeBrine s p < need → does (fun t => Refused s t box 0x104 0))
            ∧ (need ≤ freeBrine s p → does (fun t =>
                Accepted (queuedMove s p { agent := id, spill := false, pan := p, origin := .mailbox box }) t box (.prefetch id p))))) := by
  intro id target d p busy need does hid
  have hrefuse {status : Nat} (h : prefetchCheck (popped s) id target = .error (status, 0)) : does (fun t => Refused s t box status 0) :=
    agentPrefetch_refused hbox hwhole hst hid h
  refine ⟨fun hnamed h => hrefuse (prefetchCheck_notPresent hid hnamed h), fun htarget => ⟨
    fun h => hrefuse (prefetchCheck_busy hid htarget h),
    fun hidle h => hrefuse (prefetchCheck_invalid hid htarget hidle h),
    fun hidle hvalid h => hrefuse (prefetchCheck_wrongState hid htarget hidle hvalid (p := p) rfl h),
    fun hidle hvalid hcold honline hheld => ?_⟩⟩
  have hneed : kib64 + hStateUnits (popped s) d.header * kib64 + (grantedWords (popped s) d.header).length * pageSize = need := by
    rw [hStateUnits_popped, grantedWords_popped]
    rfl
  have hfull (h : freeBrine s p < need) : prefetchCheck (popped s) id target = .error (stNoFit, 0) :=
    prefetchCheck_noFit hid htarget hidle hvalid (p := p) rfl hcold honline hheld (h.trans_eq hneed.symm)
  have hfits (h : need ≤ freeBrine s p) : prefetchCheck (popped s) id target = .ok p :=
    prefetchCheck_ok (u := popped s) hid htarget hidle hvalid (p := p) rfl hcold honline hheld
      (hneed.trans_le (h.trans_eq (freeBrine_popped s p).symm))
  clear_value p
  exact ⟨fun h => hrefuse (hfull h), fun h => agentPrefetch_accepted hbox hwhole hst hid (hfits h)⟩

section
variable {s : State} {box : Nat} (hbox : box < 72) (hwhole : Whole s box 0x23 24 [(5, 3)])
  (hst : s.pkg.st ∈ [PkgState.ready, .serving, .maint])
include hbox hwhole hst

/-- AGENT_ADVISE SPILL, as the statement has it. -/
theorem agentAdviseSpill_clauses :
    let id := (s.box box).field 0 4
    let x := (s.box box).field 8 8
    let y := (s.box box).field 16 8
    let d := s.agentDir id
    let h := d.header
    let idle : Prop := id ≤ 262143 ∧ agentBusy s id = false
    let does (P : State → Prop) : Prop := Completes (.agentAdviseSpill box) s P
    let calm : Prop := s.onlinePan d.owner = true ∧ ∀ k, k < hStreams s h → (streamRec s h k).fill ≤ hC s h
    (s.box box).field 4 1 = 0 → x % 65536 = 0 →
    (id ≤ 262143 → agentBusy s id = true → does (fun t => Refused s t box 0x200 0))
    ∧ (idle → d.valid = false → does (fun t => Refused s t box 0x101 0))
    ∧ (idle → d.valid = true → d.st = 2 ∨ d.st = 3 → does (fun t => Refused s t box 0x200 0))
    ∧ (idle → d.valid = true → d.st = 1 ∨ (d.st = 0 ∧ ¬ calm) → does (fun t => Refused s t box 0x103 0))
    ∧ (idle → d.valid = true → d.st = 0 → calm →
        (y < imageBytes s h → does (fun t => Refused s t box 0x104 0))
        ∧ (imageBytes s h ≤ y → lpdRange s x (imageBytes s h) = false → does (fun t => Refused s t box 0x101 8))
        ∧ (imageBytes s h ≤ y → lpdRange s x (imageBytes s h) = true → does (fun t => Accepted
            (queuedMove s d.owner { agent := id, spill := true, pan := d.owner, pa := x, capacity := y, origin := .mailbox box })
            t box (.spill id)))) := by
  intro id x y d h idle does calm hop hx
  have hrefuse {status off : Nat} (hid : id ≤ 262143) (h : spillCheck (popped s) id x y = .error (status, off)) :
      does (fun t => Refused s t box status off) := agentAdviseSpill_refused hbox hwhole hst hid hop hx h
  refine ⟨fun hid h => hrefuse hid (spillCheck_busy hid hx h), fun ⟨hid, hidle⟩ h => hrefuse hid (spillCheck_invalid hid hx hidle h),
    fun ⟨hid, hidle⟩ hvalid h => hrefuse hid (spillCheck_moves hid hx hidle hvalid h), ?_, ?_⟩
  · intro ⟨hid, hidle⟩ hvalid h
    rcases h with hcold | ⟨hresident, hwild⟩
    · exact hrefuse hid (spillCheck_cold hid hx hidle hvalid hcold)
    · exact hrefuse hid (spillCheck_notCalm hid hx hidle hvalid hresident (Bool.eq_false_iff.mpr (mt (calm_iff s d).mp hwild)))
  · intro ⟨hid, hidle⟩ hvalid hresident hcalm
    have hcalm' := (calm_iff s d).mpr hcalm
    have hchecked (hfits : imageBytes s h ≤ y) : spillCheck (popped s) id x y
        = if lpdRange s x (imageBytes s h) then .ok d.owner else .error (stBadArgument, 8) := by
      rw [← lpdRange_popped]
      exact spillCheck_range hid hx hidle hvalid hresident hcalm' hfits
    exact ⟨fun hfits => hrefuse hid (spillCheck_noFit hid hx hidle hvalid hresident hcalm' hfits),
      fun hfits hrange => hrefuse hid ((hchecked hfits).trans (if_neg (Bool.eq_false_iff.mp hrange))),
      fun hfits hrange => agentAdviseSpill_accepted hbox hwhole hst hid hop hx ((hchecked hfits).trans (if_pos hrange))⟩

/-- The checks that GROW and RELEASE share, as the statement has them. -/
theorem agentAdviseStream_clauses {i : Instr × Nat} (hi : i ∈ [(Instr.agentAdviseGrow box, 1), (.agentAdviseRelease box, 2)])
    (hop : (s.box box).field 4 1 = i.2) :
    let id := (s.box box).field 0 4
    let x := (s.box box).field 8 8
    let d := s.agentDir id
    let idle : Prop := id ≤ 262143 ∧ agentBusy s id = false
    let does (P : State → Prop) : Prop := Completes i.1 s P
    (id ≤ 262143 → agentBusy s id = true → does (fun t => Refused s t box 0x200 0))
    ∧ (idle → d.valid = false → does (fun t => Refused s t box 0x101 0))
    ∧ (idle → d.valid = true → hStreams s d.header ≤ x → does (fun t => Refused s t box 0x101 8))
    ∧ (idle → d.valid = true → x < hStreams s d.header → d.st = 2 ∨ d.st = 3 → does (fun t => Refused s t box 0x200 0))
    ∧ (idle → d.valid = true → x < hStreams s d.header → d.st = 1 → does (fun t => Refused s t box 0x103 0)) := by
  intro id x d idle does
  have hrefuse {status off : Nat} (hid : id ≤ 262143) (h : streamCheck (popped s) id x = .error (status, off)) :
      does (fun t => Refused s t box status off) := agentAdvise_refused hbox hwhole hst hid hi hop h
  exact ⟨fun hid h => hrefuse hid (streamCheck_busy h), fun ⟨hid, hidle⟩ h => hrefuse hid (streamCheck_invalid hidle h),
    fun ⟨hid, hidle⟩ hvalid h => hrefuse hid (streamCheck_noStream hidle hvalid h),
    fun ⟨hid, hidle⟩ hvalid hx h => hrefuse hid (streamCheck_moves hidle hvalid hx h),
    fun ⟨hid, hidle⟩ hvalid hx h => hrefuse hid (streamCheck_cold hidle hvalid hx h)⟩

end

/-- Settles O54, from the four commands: AGENT_ADMIT, EVICT, PREFETCH and ADVISE. -/
theorem agentsAreAdmittedGrownAndEvicted : Obligations.AgentsAreAdmittedGrownAndEvicted := by
  unfold Obligations.AgentsAreAdmittedGrownAndEvicted
  intro work left queued sum
  refine ⟨?_, agentEvict_clauses, ?_, ?_⟩
  · intro s box hbox b n hwhole hst id owner units entry pages len elig owns need want busy hid howner hn1 hn32 hunits hstreams refused
    have hrange : AdmitInRange b := ⟨hid, howner, hn1, hn32, hunits, hstreams⟩
    have hrefuse {st : Nat} (h : admitBody box b (popped s) = .error (st, 0)) : refused st :=
      agentAdmit_refused hbox hwhole hst hrange h
    have hidf : b.field 0 4 = id := rfl
    have hownerf : b.field 4 2 = owner := rfl
    have hunitsf : b.field 8 4 = units := rfl
    have hwords : askedWords b = sum len n := askedWords_eq hrange
    have hpages : askedPages b = sum pages n := askedPages_eq hrange
    have hneed : kib64 + units * kib64 + askedPages b * pageSize = need := by rw [hpages]; rfl
    have hwant : admitWant units (askedPages b) = want := by rw [hpages]; rfl
    clear_value id owner units need want
    subst hneed hwant
    refine ⟨fun hone h => hrefuse (admitBody_notPresent hownerf hone h), fun howner' => ⟨?_, ?_, ?_, ?_, ?_⟩⟩
    · exact fun h => hrefuse (admitBody_busy hidf hownerf howner' h)
    · exact fun hidle h => hrefuse (admitBody_exists hidf hownerf howner' hidle h)
    · exact fun hidle hnew h => hrefuse (admitBody_wordsNoFit hidf hownerf howner' hidle hnew (h.trans_eq hwords.symm))
    · exact fun hidle hnew hfit hnone =>
        hrefuse (admitBody_noOwner hidf hownerf howner' hidle hnew (hwords.trans_le hfit) (admitOwner_eq_none hnone))
    intro hidle hnew hfit p hp
    have hchosen : admitOwner (popped s) owner = some p := admitOwner_of_owns hp
    replace hfit : askedWords b ≤ 15360 := hwords.trans_le hfit
    rw [← freeBrine_popped s p]
    refine ⟨?_, ?_, fun hfree s1 offs hgrant => ?_⟩
    · exact fun h => hrefuse (admitBody_brineNoFit hidf hownerf howner' hidle hnew hfit hchosen hunitsf h)
    · exact fun hfree hplace =>
        hrefuse (admitBody_placeNoFit hidf hownerf howner' hidle hnew hfit hchosen hunitsf (Nat.not_lt.mpr hfree) hplace)
    have hbody := admitBody_admits (u := popped s) (box := box) hidf hownerf howner' hidle hnew hfit hchosen hunitsf
      (Nat.not_lt.mpr hfree) hgrant
    refine agentAdmit_done hbox hwhole hst hrange hbody ?_
    have hclause := admit_clause (box := box) (id := id) hgrant (requestFits hrange hfit) (entry_le hrange) hid
      (by have hlt := lt_of_owns howner hp; omega) hunits
    rw [length_askedStreams hrange] at hclause
    obtain ⟨hhanded, htaken, hothers, hplaced, hmemory⟩ := hclause
    refine ⟨hhanded, htaken, hothers, hplaced, fun hhome hdir => ?_⟩
    obtain ⟨hword, hidr, hstate, hownerr, hcount, hgen, hc, hused, hgranted, hunitsr, hoff, hrecords, hrest⟩ := hmemory hhome hdir
    refine ⟨hword, hidr, hstate, hownerr, hcount, hgen, hc, hused, hgranted.trans hpages, hunitsr, hoff, fun i hi => ?_, hrest⟩
    obtain ⟨hrec, hwordsr⟩ := hrecords i (admitRec b i) (askedStreams_get hrange hi)
    rw [wordsBefore_asked hrange hi.le] at hrec
    rw [pagesBefore_asked hrange hi.le] at hwordsr
    exact ⟨hrec, hwordsr⟩
  · exact agentPrefetch_clauses
  · intro s box hbox hwhole hst b id op x y d h r idle moves
    refine ⟨fun hop hid => agentAdvise_badOp hbox hwhole hst hid hop, agentAdviseSpill_clauses hbox hwhole hst,
      fun i hi hop => agentAdviseStream_clauses hbox hwhole hst hi hop, ?_, ?_⟩
    · intro hop ⟨hid, hidle⟩ hvalid hx hresident room want does
      have hcheck := streamCheck_resident (u := popped s) hidle hvalid hx hresident
      have hbase : brineBase d.owner ≤ h := (Nat.le_add_right _ _).trans_eq (if_pos (.inl hresident)).symm
      have hcount : b.field 16 8 = y := rfl
      have hpage : List.replicate y (pageSize, pageSize) = want := rfl
      clear_value y want
      refine ⟨fun hfull => agentAdviseGrow_noFit hbox hwhole hst hid hcheck hop hcount (r := r) rfl (by rw [hpage]; exact hfull),
        fun hroom hfree s1 offs hgrant => ?_⟩
      subst hpage
      exact agentAdviseGrow_grows hbox hwhole hst hid hcheck hop hcount (r := r) rfl hroom hfree hgrant (grow_clause hroom hgrant hbase)
    · intro hop ⟨hid, hidle⟩ hvalid hx hresident ks
      have hcheck := streamCheck_resident (u := popped s) hidle hvalid hx hresident
      exact agentAdviseRelease_releases hbox hwhole hst hid hcheck hop release_clause

end Sys2Proof.AgentCommands
end
